-- ==== Sys2Proof/Word.lean ====
section
/-! DEFINITION. The word types of the Quoxis architecture (spec/00_scope.md R2, spec/05_number_formats.md R112). -/
namespace Sys2Proof

/-- One byte of any memory (R2). -/
abbrev Byte := BitVec 8

/-- One lane register, instruction word or 32-bit field (R56, R90). -/
abbrev Word := BitVec 32

/-- A register pair, a virtual address or a 64-bit field (R2, R112). -/
abbrev DWord := BitVec 64

end Sys2Proof
end

