-- ==== Sys2Proof/Syntax.lean ====
section
/-! DEFINITION. The syntax of Quoxis: the operand forms of spec/03_instruction_words.md (Tables 3.3 to 3.8) and ONE inductive
with one constructor for each row of spec/opcode_table.json: the instruction forms, with their decoded fields, and the
device's events, whose arguments say which occurrence of the event it is (the operation, the core, what the host wrote).
A reserved source code cannot be written in this syntax: decoding refuses it (Table 3.2). -/
namespace Sys2Proof

/-- An 8-bit source code (Table 3.3). `int n` is code 0xA0 + n, the integer n - 16. -/
inductive Src where
  | v (r : BitVec 7)
  | a (k : BitVec 4)
  | vx (k : BitVec 2)
  | l0 | l1 | zero | tid | lane | gid | ones | one | half | two
  | int (n : BitVec 5)
  deriving DecidableEq, Repr

/-- A guard field (R69): the guard is true when p[p] differs from neg. -/
structure Guard where
  neg : Bool
  p : BitVec 3
  deriving DecidableEq, Repr

/-- A predicate source (R79): p[n] xor neg. -/
structure PredSrc where
  neg : Bool
  n : BitVec 3
  deriving DecidableEq, Repr

/-- Format R with two lane sources (Table 3.4, R77). -/
structure RBin where
  nw : Bool
  d : BitVec 7
  a : Src
  b : Src
  deriving DecidableEq, Repr

/-- Format R with one lane source. -/
structure RUn where
  nw : Bool
  d : BitVec 7
  a : Src
  deriving DecidableEq, Repr

/-- Format P, a compare (Table 6.3). -/
structure PCmp where
  cond : BitVec 4
  pd : BitVec 3
  a : Src
  b : Src
  deriving DecidableEq, Repr

/-- Format P, predicate logic (R140). -/
structure PLog where
  pd : BitVec 3
  a : PredSrc
  b : PredSrc
  deriving DecidableEq, Repr

/-- `pget` (R140). -/
structure PGet where
  nw : Bool
  d : BitVec 7
  a : PredSrc
  deriving DecidableEq, Repr

/-- `pset`, `vany`, `vall`: a predicate destination and one lane source (R140, R155). -/
structure PVote where
  pd : BitVec 3
  a : Src
  deriving DecidableEq, Repr

/-- `aadd`, `asub`, `amul` (Table 6.9). -/
structure AffBin where
  d : BitVec 4
  a : BitVec 4
  b : BitVec 4
  deriving DecidableEq, Repr

/-- `amov`. -/
structure AffUn where
  d : BitVec 4
  a : BitVec 4
  deriving DecidableEq, Repr

/-- `aset` (R149). -/
structure AffSet where
  d : BitVec 4
  a : Src
  deriving DecidableEq, Repr

/-- `ashl`: b holds 0xB0 + n. -/
structure AffShl where
  d : BitVec 4
  a : BitVec 4
  n : BitVec 4
  deriving DecidableEq, Repr

/-- `xbar` (R153). -/
structure XBarOp where
  nw : Bool
  d : BitVec 7
  a : Src
  slot : BitVec 3
  deriving DecidableEq, Repr

/-- `br`, `call` (format C, R77): the offset in words from the clause header. -/
structure Branch where
  g : Guard
  off : BitVec 20
  deriving DecidableEq, Repr

/-- `jmpr` (R158). -/
structure JumpReg where
  g : Guard
  a : Src
  deriving DecidableEq, Repr

/-- `brk`, `trap` (R160). -/
structure TrapOp where
  g : Guard
  code : BitVec 20
  deriving DecidableEq, Repr

/-- `xwin` (R150). -/
structure WinOp where
  a : Src
  b : Src
  deriving DecidableEq, Repr

/-- `xset`, `xput` (R150). -/
structure IdxOp where
  k : BitVec 2
  a : Src
  deriving DecidableEq, Repr

/-- `clkr` (R164). -/
structure ClkOp where
  nw : Bool
  d : BitVec 7
  deriving DecidableEq, Repr

/-- Format X, multiply-add (Table 6.6). -/
structure FmaOp where
  nw : Bool
  d : BitVec 7
  a : Src
  b : Src
  c : Src
  g : Guard
  rx : Bool
  rm : BitVec 3
  deriving DecidableEq, Repr

/-- Format X with three sources and mod 0: `imad`, `rnd`. -/
structure MadOp where
  nw : Bool
  d : BitVec 7
  a : Src
  b : Src
  c : Src
  g : Guard
  deriving DecidableEq, Repr

/-- `sel` (Table 6.7). -/
structure SelOp where
  nw : Bool
  d : BitVec 7
  a : Src
  b : Src
  g : Guard
  p : PredSrc
  deriving DecidableEq, Repr

/-- `bfx` (Table 6.7). -/
structure BfxOp where
  nw : Bool
  d : BitVec 7
  a : Src
  c : Src
  g : Guard
  signed : Bool
  width : BitVec 6
  deriving DecidableEq, Repr

/-- `bfi` (Table 6.7). -/
structure BfiOp where
  nw : Bool
  d : BitVec 7
  a : Src
  b : Src
  c : Src
  g : Guard
  width : BitVec 6
  deriving DecidableEq, Repr

/-- `cvt` (R145); `fromF` and `toF` are format codes (Table 5.1), c the source j of rm = 5 and v0 otherwise. -/
structure CvtOp where
  nw : Bool
  d : BitVec 7
  a : Src
  c : Src
  g : Guard
  sat : Bool
  rm : BitVec 3
  fromF : BitVec 5
  toF : BitVec 5
  deriving DecidableEq, Repr

/-- Format I with a lane destination: `movi` (a is v0, field 0x00), `iaddi`. -/
structure ImmOp where
  nw : Bool
  d : BitVec 7
  a : Src
  imm : Word
  deriving DecidableEq, Repr

/-- `aaddi`, `amuli`. -/
structure AffImm where
  d : BitVec 4
  a : BitVec 4
  imm : Word
  deriving DecidableEq, Repr

/-- `amovi`. -/
structure AffMovi where
  d : BitVec 4
  stride : BitVec 8
  imm : Word
  deriving DecidableEq, Repr

/-- Format M (Table 3.5, R258). -/
structure MemOp where
  d : BitVec 7
  ab : BitVec 4
  am : BitVec 4
  off : Src
  size : BitVec 3
  hint : BitVec 2
  seg : BitVec 3
  g : Guard
  wait : BitVec 3
  imm : BitVec 17
  deriving DecidableEq, Repr

/-- Format E (Table 3.5, R81). -/
structure EngOp where
  reply : Bool
  d : BitVec 7
  a : Src
  b : Src
  g : Guard
  wait : BitVec 3
  imm : BitVec 17
  deriving DecidableEq, Repr

/-- Format Q (Table 3.5, Table 8.1). -/
structure MatOp where
  md : BitVec 5
  ma : BitVec 5
  mb : BitVec 5
  z : BitVec 3
  flags : BitVec 6
  aq : BitVec 4
  qf : BitVec 4
  wait : BitVec 3
  imm : BitVec 17
  deriving DecidableEq, Repr

/-- Formats T and G (Table 3.5, Tables 13.1 and 14.2, R165 to R169). A b field of 0x00 is the code of v0. -/
structure TaskOp where
  d : BitVec 7
  ao : BitVec 4
  as : BitVec 4
  b : Src
  tx : BitVec 8
  g : Guard
  wait : BitVec 3
  imm : BitVec 17
  deriving DecidableEq, Repr

/-- One constructor for each row of spec/opcode_table.json. -/
inductive Instr where
  /-- NOP (R137). -/
  | nop
  /-- IADD (R137). -/
  | iadd (o : RBin)
  /-- ISUB (R137). -/
  | isub (o : RBin)
  /-- IMUL (R137). -/
  | imul (o : RBin)
  /-- IMULH (R137). -/
  | imulh (o : RBin)
  /-- IMULHU (R137). -/
  | imulhu (o : RBin)
  /-- IMIN (R137). -/
  | imin (o : RBin)
  /-- IMINU (R137). -/
  | iminu (o : RBin)
  /-- IMAX (R137). -/
  | imax (o : RBin)
  /-- IMAXU (R137). -/
  | imaxu (o : RBin)
  /-- IABS (R137). -/
  | iabs (o : RUn)
  /-- AND (R137). -/
  | and (o : RBin)
  /-- OR (R137). -/
  | or (o : RBin)
  /-- XOR (R137). -/
  | xor (o : RBin)
  /-- SHL (R137). -/
  | shl (o : RBin)
  /-- SHR (R137). -/
  | shr (o : RBin)
  /-- SAR (R137). -/
  | sar (o : RBin)
  /-- ROTL (R137). -/
  | rotl (o : RBin)
  /-- POPC (R137). -/
  | popc (o : RUn)
  /-- CLZ (R137). -/
  | clz (o : RUn)
  /-- BREV (R137). -/
  | brev (o : RUn)
  /-- IADDS (R137). -/
  | iadds (o : RBin)
  /-- ISUBS (R137). -/
  | isubs (o : RBin)
  /-- IADD64 (R137). -/
  | iadd64 (o : RBin)
  /-- ISUB64 (R137). -/
  | isub64 (o : RBin)
  /-- MOV (R137). -/
  | mov (o : RUn)
  /-- MOV64 (R137). -/
  | mov64 (o : RUn)
  /-- ICMP (R138). -/
  | icmp (o : PCmp)
  /-- ICMP64 (R138). -/
  | icmp64 (o : PCmp)
  /-- FCMP (R138). -/
  | fcmp (o : PCmp)
  /-- DCMP (R138). -/
  | dcmp (o : PCmp)
  /-- PAND (R140). -/
  | pand (o : PLog)
  /-- POR (R140). -/
  | por (o : PLog)
  /-- PXOR (R140). -/
  | pxor (o : PLog)
  /-- PANDN (R140). -/
  | pandn (o : PLog)
  /-- PGET (R140). -/
  | pget (o : PGet)
  /-- PSET (R140). -/
  | pset (o : PVote)
  /-- FADD (R141). -/
  | fadd (o : RBin)
  /-- FSUB (R141). -/
  | fsub (o : RBin)
  /-- FMUL (R141). -/
  | fmul (o : RBin)
  /-- FMIN (R130). -/
  | fmin (o : RBin)
  /-- FMAX (R130). -/
  | fmax (o : RBin)
  /-- FABS (R142). -/
  | fabs (o : RUn)
  /-- FNEG (R142). -/
  | fneg (o : RUn)
  /-- FSAT (R142). -/
  | fsat (o : RUn)
  /-- DADD (R141). -/
  | dadd (o : RBin)
  /-- DSUB (R141). -/
  | dsub (o : RBin)
  /-- DMUL (R141). -/
  | dmul (o : RBin)
  /-- DMIN (R130). -/
  | dmin (o : RBin)
  /-- DMAX (R130). -/
  | dmax (o : RBin)
  /-- DABS (R142). -/
  | dabs (o : RUn)
  /-- DNEG (R142). -/
  | dneg (o : RUn)
  /-- HADD2 (R141). -/
  | hadd2 (o : RBin)
  /-- HMUL2 (R141). -/
  | hmul2 (o : RBin)
  /-- HMIN2 (R141). -/
  | hmin2 (o : RBin)
  /-- HMAX2 (R141). -/
  | hmax2 (o : RBin)
  /-- BADD2 (R141). -/
  | badd2 (o : RBin)
  /-- BMUL2 (R141). -/
  | bmul2 (o : RBin)
  /-- BMIN2 (R141). -/
  | bmin2 (o : RBin)
  /-- BMAX2 (R141). -/
  | bmax2 (o : RBin)
  /-- FRCP (R131). -/
  | frcp (o : RUn)
  /-- FRSQ (R131). -/
  | frsq (o : RUn)
  /-- FSQRT (R131). -/
  | fsqrt (o : RUn)
  /-- FEXP2 (R131). -/
  | fexp2 (o : RUn)
  /-- FLOG2 (R131). -/
  | flog2 (o : RUn)
  /-- FSIN (R131). -/
  | fsin (o : RUn)
  /-- FCOS (R131). -/
  | fcos (o : RUn)
  /-- FTANH (R131). -/
  | ftanh (o : RUn)
  /-- AADD (R148). -/
  | aadd (o : AffBin)
  /-- ASUB (R148). -/
  | asub (o : AffBin)
  /-- AMOV (R148). -/
  | amov (o : AffUn)
  /-- ASET (R149). -/
  | aset (o : AffSet)
  /-- ASHL (R148). -/
  | ashl (o : AffShl)
  /-- AMUL (R148). -/
  | amul (o : AffBin)
  /-- SHFL (R152). -/
  | shfl (o : RBin)
  /-- XBAR (R153). -/
  | xbar (o : XBarOp)
  /-- VANY (R155). -/
  | vany (o : PVote)
  /-- VALL (R155). -/
  | vall (o : PVote)
  /-- BALLOT (R155). -/
  | ballot (o : RUn)
  /-- BR (R156). -/
  | br (o : Branch)
  /-- CALL (R157). -/
  | call (o : Branch)
  /-- RET (R157). -/
  | ret (g : Guard)
  /-- JMPR (R158). -/
  | jmpr (o : JumpReg)
  /-- EXIT (R159). -/
  | exit (g : Guard)
  /-- BRK (R160). -/
  | brk (o : TrapOp)
  /-- TRAP (R160). -/
  | trap (o : TrapOp)
  /-- YIELD (R161). -/
  | yield (g : Guard)
  /-- XWIN (R150). -/
  | xwin (o : WinOp)
  /-- XSET (R150). -/
  | xset (o : IdxOp)
  /-- XPUT (R150). -/
  | xput (o : IdxOp)
  /-- BAR (R162). -/
  | bar (b : BitVec 2)
  /-- CLKR (R164). -/
  | clkr (o : ClkOp)
  /-- FFUS (R143). -/
  | ffus (o : FmaOp)
  /-- DFUS (R143). -/
  | dfus (o : FmaOp)
  /-- HFUS2 (R143). -/
  | hfus2 (o : FmaOp)
  /-- BFUS2 (R143). -/
  | bfus2 (o : FmaOp)
  /-- IMAD (R144). -/
  | imad (o : MadOp)
  /-- SEL (R144). -/
  | sel (o : SelOp)
  /-- BFX (R144). -/
  | bfx (o : BfxOp)
  /-- BFI (R144). -/
  | bfi (o : BfiOp)
  /-- CVT (R145). -/
  | cvt (o : CvtOp)
  /-- MOVI (R146). -/
  | movi (o : ImmOp)
  /-- IADDI (R146). -/
  | iaddi (o : ImmOp)
  /-- AMOVI (R148). -/
  | amovi (o : AffMovi)
  /-- AADDI (R148). -/
  | aaddi (o : AffImm)
  /-- AMULI (R148). -/
  | amuli (o : AffImm)
  /-- RND (R147). -/
  | rnd (o : MadOp)
  /-- LD (R263). -/
  | ld (o : MemOp)
  /-- ST (R264). -/
  | st (o : MemOp)
  /-- PREF (R265). -/
  | pref (o : MemOp)
  /-- ATOM (R266). -/
  | atom (o : MemOp)
  /-- RED (R268). -/
  | red (o : MemOp)
  /-- SWINIT (R270). -/
  | swinit (o : MemOp)
  /-- SWADD (R271). -/
  | swadd (o : MemOp)
  /-- SWWAIT (R272). -/
  | swwait (o : MemOp)
  /-- LOAD_ARRIVAL (R263). -/
  | loadArrival (op : Nat)
  /-- STORE_COMPLETION (R264). -/
  | storeCompletion (op : Nat)
  /-- ATOMIC_COMPLETION (R266). -/
  | atomicCompletion (op : Nat)
  /-- SYNC_WORD_PIECE_ARRIVAL (R217). -/
  | syncWordPieceArrival (op piece : Nat)
  /-- ENG_COPY (R275). -/
  | engCopy (o : EngOp)
  /-- ENG_COPY2D (R275). -/
  | engCopy2d (o : EngOp)
  /-- ENG_GATHER (R275). -/
  | engGather (o : EngOp)
  /-- ENG_SCATTER (R275). -/
  | engScatter (o : EngOp)
  /-- ENG_FILL (R275). -/
  | engFill (o : EngOp)
  /-- ENG_ALLRED (R279). -/
  | engAllred (o : EngOp)
  /-- ENG_BCAST (R278). -/
  | engBcast (o : EngOp)
  /-- ENG_RTRACE (R392). -/
  | engRtrace (o : EngOp)
  /-- ENG_RANY (R392). -/
  | engRany (o : EngOp)
  /-- ENG_RLAUNCH (R393). -/
  | engRlaunch (o : EngOp)
  /-- ENG_BQUERY (R394). -/
  | engBquery (o : EngOp)
  /-- ENG_BREFIT (R395). -/
  | engBrefit (o : EngOp)
  /-- ENGINE_OPERATION_COMPLETION (R276). -/
  | engineOperationCompletion (op : Nat)
  /-- MCLAIM (R194). -/
  | mclaim (o : MatOp)
  /-- MREL (R195). -/
  | mrel (o : MatOp)
  /-- MLD (R198). -/
  | mld (o : MatOp)
  /-- MST (R199). -/
  | mst (o : MatOp)
  /-- MZERO (R197). -/
  | mzero (o : MatOp)
  /-- MHDR_FMT (R196). -/
  | mhdrFmt (o : MatOp)
  /-- MHDR_KEY (R196). -/
  | mhdrKey (o : MatOp)
  /-- MHDR_WC (R196). -/
  | mhdrWc (o : MatOp)
  /-- MHDR_SOFS (R196). -/
  | mhdrSofs (o : MatOp)
  /-- MHDR_ST (R196). -/
  | mhdrSt (o : MatOp)
  /-- MMUL (R201). -/
  | mmul (o : MatOp)
  /-- MADD (R201). -/
  | madd (o : MatOp)
  /-- MSUB (R201). -/
  | msub (o : MatOp)
  /-- MSCALE (R202). -/
  | mscale (o : MatOp)
  /-- MTRN (R203). -/
  | mtrn (o : MatOp)
  /-- MRECOMP (R206). -/
  | mrecomp (o : MatOp)
  /-- MDENSE (R204). -/
  | mdense (o : MatOp)
  /-- MRANK (R205). -/
  | mrank (o : MatOp)
  /-- MNORM (R207). -/
  | mnorm (o : MatOp)
  /-- MMA (R208). -/
  | mma (o : MatOp)
  /-- ZLD (R200). -/
  | zld (o : MatOp)
  /-- ZST (R200). -/
  | zst (o : MatOp)
  /-- ZCVT (R209). -/
  | zcvt (o : MatOp)
  /-- ZZERO (R200). -/
  | zzero (o : MatOp)
  /-- MATRIX_COMMAND_START (R182). -/
  | matrixCommandStart (core : Nat)
  /-- MATRIX_COMMAND_COMPLETION (R181). -/
  | matrixCommandCompletion (core : Nat)
  /-- SPAWN (R317). -/
  | spawn (o : TaskOp)
  /-- AWAIT (R318). -/
  | await (o : TaskOp)
  /-- PHASE (R318). -/
  | phase (o : TaskOp)
  /-- FNEW (R320). -/
  | fnew (o : TaskOp)
  /-- FPUT (R321). -/
  | fput (o : TaskOp)
  /-- FGET (R322). -/
  | fget (o : TaskOp)
  /-- ADOPTED_PHASE_END (R44). -/
  | adoptedPhaseEnd (core : Nat)
  /-- LACQ (R324). -/
  | lacq (o : TaskOp)
  /-- LREL (R325). -/
  | lrel (o : TaskOp)
  /-- QPUT (R328). -/
  | qput (o : TaskOp)
  /-- QGET (R328). -/
  | qget (o : TaskOp)
  /-- DCDEC (R329). -/
  | dcdec (o : TaskOp)
  /-- TKTAKE (R331). -/
  | tktake (o : TaskOp)
  /-- TKWAIT (R332). -/
  | tkwait (o : TaskOp)
  /-- TSELF (R334). -/
  | tself (o : TaskOp)
  /-- TICKET_AUTOMATIC_TAKE (R333). -/
  | ticketAutomaticTake (gk slot : Nat)
  /-- DETERMINISTIC_COMMIT (R254). -/
  | deterministicCommit (grid : Nat)
  /-- TEMIT (R340). -/
  | temit (o : TaskOp)
  /-- MVTX (R343). -/
  | mvtx (o : TaskOp)
  /-- MPRIM (R343). -/
  | mprim (o : TaskOp)
  /-- MEND (R344). -/
  | mend (o : TaskOp)
  /-- MESHLET_BINNING (R345). -/
  | meshletBinning (op : Nat)
  /-- SINFO (R348). -/
  | sinfo (o : TaskOp)
  /-- TCOMB (R351). -/
  | tcomb (o : TaskOp)
  /-- TDONE (R354). -/
  | tdone (o : TaskOp)
  /-- CTLR (R165). -/
  | ctlr (o : TaskOp)
  /-- CTLW (R165). -/
  | ctlw (o : TaskOp)
  /-- SEGW (R167). -/
  | segw (o : TaskOp)
  /-- XBLD (R154). -/
  | xbld (o : TaskOp)
  /-- PERFR (R168). -/
  | perfr (o : TaskOp)
  /-- SRET (R169). -/
  | sret (o : TaskOp)
  /-- CLAUSE_FETCH (R62). -/
  | clauseFetch (core sub : Nat)
  /-- CLAUSE_ISSUE (R32). -/
  | clauseIssue (core sub : Nat)
  /-- RECONVERGENCE (R37). -/
  | reconvergence (gk : Nat)
  /-- HOST_FAULT_RECORD (R414). -/
  | hostFaultRecord (part : Nat)
  /-- REPLAY (R414). -/
  | replay (part : Nat) (seq : Word)
  /-- KILL (R414). -/
  | kill (part : Nat) (seq : Word)
  /-- GROUP_DISPATCH (R294). -/
  | groupDispatch (core : Nat)
  /-- STEAL (R295). -/
  | steal (core : Nat)
  /-- GROUP_RETIREMENT (R291). -/
  | groupRetirement (gk : Nat)
  /-- PREEMPTION (R52). -/
  | preemption (core : Nat)
  /-- PREEMPTION_RESUME (R53). -/
  | preemptionResume (gk : Nat)
  /-- HOST_ENQUEUE (R283). -/
  | hostEnqueue (part offset : Nat) (words : List DWord)
  /-- SKIDDER_REFILL (R284). -/
  | skidderRefill (cluster cls : Nat)
  /-- HOST_MEMORY_READ (R429). -/
  | hostMemoryRead (part : Nat) (va : DWord) (len : Nat)
  /-- HOST_MEMORY_WRITE (R429). -/
  | hostMemoryWrite (part : Nat) (va : DWord) (data : List (Option Byte))
  /-- HOST_REGISTER_WRITE (R430). -/
  | hostRegisterWrite (offset : Nat) (data : List Byte)
  /-- GAZE_WRITE (R431). -/
  | gazeWrite (view : Nat) (val : Word)
  /-- CAPABILITY_EXCHANGE (R432). -/
  | capabilityExchange (word : DWord)
  /-- INVALIDATE_WINDOW_PIECE (R367). -/
  | invalidateWindowPiece (part die writer piece : Nat) (data : DWord)
  /-- INVALIDATE_RANGE (R368). -/
  | invalidateRange (die part : Nat)
  /-- INVALIDATE_ASID (R368). -/
  | invalidateAsid (die part : Nat)
  /-- INVALIDATE_PARTITION (R368). -/
  | invalidatePartition (die part : Nat)
  /-- L2PLACE_WRITE (R225). -/
  | l2placeWrite (val : Word)
  /-- L2PLACE_DRAIN_DONE (R225). -/
  | l2placeDrainDone
  /-- L2_LINE_MIGRATION (R224). -/
  | l2LineMigration (line slice : Nat)
  /-- FLUME_WRITEBACK (R219). -/
  | flumeWriteback (core : Nat)
  /-- PSTATE_WRITE (R437). -/
  | pstateWrite (val : Word)
  /-- PSTATE_CHANGE_DONE (R437). -/
  | pstateChangeDone
  /-- CGATE_WRITE (R438). -/
  | cgateWrite (val : Word)
  /-- CLUSTER_GATED (R438). -/
  | clusterGated (cluster : Nat)
  /-- PARTITION_ENABLE (R419). -/
  | partitionEnable (part : Nat) (val : Word)
  /-- PARTITION_ENABLE_CHECK_DONE (R419). -/
  | partitionEnableCheckDone (part : Nat)
  /-- PARTITION_DISABLE (R419). -/
  | partitionDisable (part : Nat) (val : Word)
  /-- PCSEL_WRITE (R405). -/
  | pcselWrite (n : Nat) (val : Word)
  /-- DISPLAY_ENABLE (R434). -/
  | displayEnable (out : Nat) (val : Word)
  /-- LINK_TRAINING_DONE (R434). -/
  | linkTrainingDone (out : Nat) (ok : Bool)
  /-- RECOVERY_POINT (R424). -/
  | recoveryPoint (part : Nat) (dest : DWord)
  /-- ROLLBACK (R425). -/
  | rollback (part stream : Nat)
  /-- ATTESTATION_REQUEST (R423). -/
  | attestationRequest (part : Nat) (nonce : BitVec 256)
  /-- MEASUREMENT_EXTEND (R423). -/
  | measurementExtend (part reg : Nat) (digest : BitVec 256)
  /-- COLD_RESET (R440). -/
  | coldReset
  /-- THERMAL_TRIP (R439). -/
  | thermalTrip (celsius : Nat)
  /-- POWER_ABOVE_CAP (R439). -/
  | powerAboveCap (watts : Nat)
  /-- DEVICE_FATAL (R426). -/
  | deviceFatal (cause : Nat)
  /-- STRIP_START (R346). -/
  | stripStart (die part : Nat)
  /-- TILE_RECONSTRUCTION_ENQUEUE (R352). -/
  | tileReconstructionEnqueue (die part tile : Nat)
  /-- STRIP_DEADLINE (R402). -/
  | stripDeadline (out : Nat)
  /-- FRAME_SCANOUT_START (R435). -/
  | frameScanoutStart (out : Nat)
  /-- SCANOUT_LINE (R435). -/
  | scanoutLine (out : Nat)
  /-- TCOMB_COMPLETION (R351). -/
  | tcombCompletion (op : Nat)
  /-- TDONE_COMPLETION (R354). -/
  | tdoneCompletion (op : Nat)
  deriving DecidableEq, Repr

end Sys2Proof
end

