-- ==== Sys2Proof/WellFormed.lean ====
section
/-! DEFINITION. Well-formed instructions: the conditions on field VALUES that decoding checks beside the reserved bits and
the source codes (Table 3.2, R66, R70, R71, R103, R111, R122, R138, R143 to R145, R188, R258, R259, R266, R309, R338).
An event of the device has no encoding and no such condition. -/
namespace Sys2Proof

/-- A register number that may stand first in a pair (R73). -/
def evenReg (r : BitVec 7) : Bool := r.toNat % 2 == 0

/-- A 64-bit source names an even lane register (R73). -/
def Src.ok64 : Src → Bool
  | .v r => evenReg r
  | _ => true

/-- The operand of a field that must hold 0x00. -/
def Src.isV0 (s : Src) : Bool := s == .v 0

/-- nw = 1 with d = 0 only (R66). -/
def okNw (nw : Bool) (d : BitVec 7) : Bool := !nw || d == 0

/-- The guard that means always (R69). -/
def Guard.always : Guard := { neg := false, p := 7 }

/-- A wait field of a counted form (R70). -/
def okWait (w : BitVec 3) : Bool := w != 6

def RBin.wf (o : RBin) : Bool := okNw o.nw o.d
def RBin.wf64 (o : RBin) : Bool := okNw o.nw o.d && evenReg o.d && o.a.ok64 && o.b.ok64
def RUn.wf (o : RUn) : Bool := okNw o.nw o.d
def RUn.wf64 (o : RUn) : Bool := okNw o.nw o.d && evenReg o.d && o.a.ok64
/-- Integer compares take cond 0 to 9, float compares 0 to 11 (R138). -/
def PCmp.wf (last : Nat) (o : PCmp) : Bool := decide (o.cond.toNat ≤ last)
def PCmp.wf64 (last : Nat) (o : PCmp) : Bool := o.wf last && o.a.ok64 && o.b.ok64

/-- R143: rx = 0 needs rm = 0, rx = 1 needs rm 0 to 3. -/
def FmaOp.wf (o : FmaOp) : Bool :=
  okNw o.nw o.d && (if o.rx then decide (o.rm.toNat ≤ 3) else o.rm == 0)
def FmaOp.wf64 (o : FmaOp) : Bool := o.wf && evenReg o.d && o.a.ok64 && o.b.ok64 && o.c.ok64

/-- A width of 1 to 32 (R144). -/
def okWidth (w : BitVec 6) : Bool := decide (1 ≤ w.toNat) && decide (w.toNat ≤ 32)

/-- The 64-bit formats of `cvt` (R145). -/
def is64Fmt (f : BitVec 5) : Bool := f == 6 || f == 7 || f == 11

/-- R145, R111, R122. -/
def CvtOp.wf (o : CvtOp) : Bool :=
  okNw o.nw o.d && decide (o.rm.toNat ≤ 5) && decide (o.fromF.toNat ≤ 15) && decide (o.toF.toNat ≤ 15)
    && (!is64Fmt o.toF || evenReg o.d) && (!is64Fmt o.fromF || o.a.ok64) && (o.rm == 5 || o.c.isV0)

/-- Lane registers spanned by an access of size code `sz` (R259). -/
def spanRegs (sz : BitVec 3) : Nat := max 1 (2 ^ sz.toNat / 4)

/-- R259: a span of two or more registers starts even and ends at 127. -/
def okSpan (d : BitVec 7) (k : Nat) : Bool := k == 1 || (evenReg d && decide (d.toNat + k ≤ 128))

/-- `ld`, `st` (Table 11.1). -/
def MemOp.wfLdSt (o : MemOp) : Bool :=
  o.am == 0 && decide (o.size.toNat ≤ 6) && okSpan o.d (spanRegs o.size) && okWait o.wait
/-- `pref`: synchronous, no destination (Table 11.1). -/
def MemOp.wfPref (o : MemOp) : Bool :=
  o.d == 0 && o.am == 0 && decide (o.size.toNat ≤ 6) && o.wait == 7
/-- Registers spanned by the operands of an atomic (R266). -/
def atomSpan (am : BitVec 4) (size : BitVec 3) : Nat :=
  (if am == 9 then 2 else 1) * (if size == 3 then 2 else 1)
/-- `atom` (Table 11.1, Table 11.3, R266). -/
def MemOp.wfAtom (o : MemOp) : Bool :=
  decide (o.am.toNat ≤ 12) && (o.size == 2 || o.size == 3) && o.hint == 0 && o.seg != 3
    && okSpan o.d (atomSpan o.am o.size) && okWait o.wait
/-- `red`: no exchange and no compare-and-swap (Table 11.3). -/
def MemOp.wfRed (o : MemOp) : Bool := o.wfAtom && o.am != 8 && o.am != 9
/-- `swinit`, `swadd`, `swwait` (Table 11.1). -/
def MemOp.wfSw (o : MemOp) : Bool :=
  o.am == 0 && o.size == 4 && o.hint == 0 && (o.seg == 1 || o.seg == 4) && okWait o.wait

/-- R81: without a reply d is zero; both sources are 64-bit. -/
def EngOp.wf (o : EngOp) : Bool := okWait o.wait && (o.reply || o.d == 0) && o.a.ok64 && o.b.ok64

/-- Table 8.1: which fields an instruction uses; every other one is zero. -/
def MatOp.uses (md ma mb z flags aq imm : Bool) (o : MatOp) : Bool :=
  (md || o.md == 0) && (ma || o.ma == 0) && (mb || o.mb == 0) && (z || o.z == 0)
    && (flags || o.flags == 0) && (aq || o.aq == 0) && (imm || o.imm == 0) && okWait o.wait
/-- qf [2:0] of a memory operand is zero; bit [3] is its segment (R188). -/
def MatOp.qfSeg (o : MatOp) : Bool := o.qf == 0 || o.qf == 8
def MatOp.wfClaim (o : MatOp) : Bool :=
  o.uses true false false false true false true && o.qf == 0 && decide (o.flags.toNat < 8)
    && decide (1 ≤ o.imm.toNat) && decide (o.imm.toNat ≤ 256)
def MatOp.wfD (o : MatOp) : Bool := o.uses true false false false false false false && o.qf == 0
def MatOp.wfLd (o : MatOp) : Bool :=
  o.uses true false false false true true true && o.qfSeg && (decide (o.flags.toNat ≤ 31) || o.flags == 63)
def MatOp.wfSt (o : MatOp) : Bool := o.uses false true false false false true true && o.qfSeg
def MatOp.wfHdrFmt (o : MatOp) : Bool :=
  o.uses true false false false false false true && o.qf == 0 && decide (o.imm.toNat < 512)
    && decide (o.imm.toNat % 32 ≤ 17) && decide (o.imm.toNat / 64 ≤ 5)
def MatOp.wfHdrImm (sub : BitVec 4) (bound : Nat) (o : MatOp) : Bool :=
  o.uses true false false false false false true && o.qf == sub && decide (o.imm.toNat < bound)
def MatOp.wfHdrSt (o : MatOp) : Bool :=
  o.uses false true false false false true true && (o.qf == 4 || o.qf == 12)
def MatOp.wfDAB (o : MatOp) : Bool := o.uses true true true false false false false && o.qf == 0
def MatOp.wfScale (o : MatOp) : Bool := o.uses true true false false false true true && o.qfSeg
def MatOp.wfDA (o : MatOp) : Bool := o.uses true true false false false false false && o.qf == 0
def MatOp.wfRank (o : MatOp) : Bool :=
  o.uses true true false false false false true && o.qf == 0 && decide (o.imm.toNat < 32)
def MatOp.wfMma (o : MatOp) : Bool := o.uses false true true true false false false && (o.qf == 0 || o.qf == 1)
def MatOp.wfZMem (o : MatOp) : Bool := o.uses false false false true false true true && o.qfSeg
def MatOp.wfZcvt (o : MatOp) : Bool :=
  o.uses true false false true false false false && decide (o.qf.toNat < 8)
def MatOp.wfZ (o : MatOp) : Bool := o.uses false false false true false false false && o.qf == 0

/-- Which fields of format T or G an instruction uses; every other one is zero, with b holding 0x00. -/
def TaskOp.uses (d ao as b imm : Bool) (txLast : Nat) (o : TaskOp) : Bool :=
  (d || o.d == 0) && (ao || o.ao == 0) && (as || o.as == 0) && (b || o.b.isV0)
    && (imm || o.imm == 0) && decide (o.tx.toNat ≤ txLast)
/-- A synchronous form (R71, R134, R309). -/
def TaskOp.sync (o : TaskOp) : Bool := o.wait == 7

/-- The control register numbers that Tables 4.2, 4.5 and 4.6 assign (R103). -/
def ctlAssigned (n : Nat) : Bool :=
  decide (n ≤ 0x018) || (decide (0x020 ≤ n) && decide (n ≤ 0x03F)) || (decide (0x100 ≤ n) && decide (n ≤ 0x106))
    || (decide (0x200 ≤ n) && decide (n ≤ 0x217)) || n == 0x220 || (decide (0x240 ≤ n) && decide (n ≤ 0x247))
    || (decide (0x260 ≤ n) && decide (n ≤ 0x26F)) || n == 0x280 || n == 0x281
    || (decide (0x300 ≤ n) && decide (n ≤ 0x50F))

def TaskOp.wfSpawn (o : TaskOp) : Bool :=
  o.uses true true true true true 3 && o.sync && (decide (2 ≤ o.tx.toNat) || o.d == 0) && o.b.ok64
def TaskOp.wfPhase (o : TaskOp) : Bool := o.uses false false false false false 64 && o.sync && o.g == Guard.always
def TaskOp.wfObj (txLast : Nat) (o : TaskOp) : Bool := o.uses false true false false true txLast && o.sync
def TaskOp.wfObjB (txLast : Nat) (o : TaskOp) : Bool := o.uses false true false true true txLast && o.sync
def TaskOp.wfFput (o : TaskOp) : Bool := o.wfObjB 0 && o.b.ok64
def TaskOp.wfFget (o : TaskOp) : Bool := o.uses true true false false true 7 && o.sync && evenReg o.d
def TaskOp.wfRing (o : TaskOp) : Bool :=
  o.uses true true false false true 63 && o.sync && o.d.toNat % 4 == 0
def TaskOp.wfTself (o : TaskOp) : Bool := o.uses true false false false false 5 && o.sync
def TaskOp.wfCtlr (o : TaskOp) : Bool :=
  o.uses true false false false true 0 && o.sync && ctlAssigned o.imm.toNat
def TaskOp.wfCtlw (o : TaskOp) : Bool :=
  o.uses false false false true true 0 && o.sync && ctlAssigned o.imm.toNat
def TaskOp.wfSegw (o : TaskOp) : Bool := o.uses false true true false false 7 && o.sync
def TaskOp.wfXbld (o : TaskOp) : Bool := o.uses false true false false true 7 && o.sync
def TaskOp.wfPerfr (o : TaskOp) : Bool :=
  o.uses true false false false true 0 && o.sync && evenReg o.d && decide (o.imm.toNat < 256)
def TaskOp.wfSret (o : TaskOp) : Bool := o.uses false false false false false 0 && o.sync
def TaskOp.wfTemit (o : TaskOp) : Bool :=
  o.uses false true true true true 255 && o.sync && o.b.ok64 && o.imm.toNat % 4 == 0
    && decide (4 ≤ o.imm.toNat) && decide (o.imm.toNat ≤ 16384)
def TaskOp.wfMvtx (o : TaskOp) : Bool :=
  o.uses true false false true false 8 && o.sync && o.d.toNat % 4 == 0
def TaskOp.wfMprim (o : TaskOp) : Bool := o.uses true false false true false 0 && o.sync
def TaskOp.wfMend (o : TaskOp) : Bool := o.uses false false false true false 0 && okWait o.wait && o.b.ok64
def TaskOp.wfSinfo (o : TaskOp) : Bool := o.uses true false false true false 11 && o.sync
def TaskOp.wfTcomb (o : TaskOp) : Bool := o.uses true false false true false 0 && okWait o.wait && evenReg o.d
def TaskOp.wfTdone (o : TaskOp) : Bool := o.uses true true false false true 7 && okWait o.wait

/-- Field values that decoding accepts (Table 3.2). -/
def Instr.wf : Instr → Bool
  | .nop => true
  | .iadd o => o.wf
  | .isub o => o.wf
  | .imul o => o.wf
  | .imulh o => o.wf
  | .imulhu o => o.wf
  | .imin o => o.wf
  | .iminu o => o.wf
  | .imax o => o.wf
  | .imaxu o => o.wf
  | .iabs o => o.wf
  | .and o => o.wf
  | .or o => o.wf
  | .xor o => o.wf
  | .shl o => o.wf
  | .shr o => o.wf
  | .sar o => o.wf
  | .rotl o => o.wf
  | .popc o => o.wf
  | .clz o => o.wf
  | .brev o => o.wf
  | .iadds o => o.wf
  | .isubs o => o.wf
  | .iadd64 o => o.wf64
  | .isub64 o => o.wf64
  | .mov o => o.wf
  | .mov64 o => o.wf64
  | .icmp o => o.wf 9
  | .icmp64 o => o.wf64 9
  | .fcmp o => o.wf 11
  | .dcmp o => o.wf64 11
  | .pand _ => true
  | .por _ => true
  | .pxor _ => true
  | .pandn _ => true
  | .pget o => okNw o.nw o.d
  | .pset _ => true
  | .fadd o => o.wf
  | .fsub o => o.wf
  | .fmul o => o.wf
  | .fmin o => o.wf
  | .fmax o => o.wf
  | .fabs o => o.wf
  | .fneg o => o.wf
  | .fsat o => o.wf
  | .dadd o => o.wf64
  | .dsub o => o.wf64
  | .dmul o => o.wf64
  | .dmin o => o.wf64
  | .dmax o => o.wf64
  | .dabs o => o.wf64
  | .dneg o => o.wf64
  | .hadd2 o => o.wf
  | .hmul2 o => o.wf
  | .hmin2 o => o.wf
  | .hmax2 o => o.wf
  | .badd2 o => o.wf
  | .bmul2 o => o.wf
  | .bmin2 o => o.wf
  | .bmax2 o => o.wf
  | .frcp o => o.wf
  | .frsq o => o.wf
  | .fsqrt o => o.wf
  | .fexp2 o => o.wf
  | .flog2 o => o.wf
  | .fsin o => o.wf
  | .fcos o => o.wf
  | .ftanh o => o.wf
  | .aadd _ => true
  | .asub _ => true
  | .amov _ => true
  | .aset _ => true
  | .ashl _ => true
  | .amul _ => true
  | .shfl o => o.wf
  | .xbar o => okNw o.nw o.d
  | .vany _ => true
  | .vall _ => true
  | .ballot o => o.wf
  | .br _ => true
  | .call _ => true
  | .ret _ => true
  | .jmpr o => o.a.ok64
  | .exit _ => true
  | .brk _ => true
  | .trap _ => true
  | .yield _ => true
  | .xwin _ => true
  | .xset _ => true
  | .xput _ => true
  | .bar _ => true
  | .clkr o => okNw o.nw o.d && evenReg o.d
  | .ffus o => o.wf
  | .dfus o => o.wf64
  | .hfus2 o => o.wf
  | .bfus2 o => o.wf
  | .imad o => okNw o.nw o.d
  | .sel o => okNw o.nw o.d
  | .bfx o => okNw o.nw o.d && okWidth o.width
  | .bfi o => okNw o.nw o.d && okWidth o.width
  | .cvt o => o.wf
  | .movi o => okNw o.nw o.d && o.a.isV0
  | .iaddi o => okNw o.nw o.d
  | .amovi _ => true
  | .aaddi _ => true
  | .amuli _ => true
  | .rnd o => okNw o.nw o.d && o.a.ok64
  | .ld o => o.wfLdSt
  | .st o => o.wfLdSt
  | .pref o => o.wfPref
  | .atom o => o.wfAtom
  | .red o => o.wfRed
  | .swinit o => o.wfSw
  | .swadd o => o.wfSw
  | .swwait o => o.wfSw
  | .loadArrival _ => true
  | .storeCompletion _ => true
  | .atomicCompletion _ => true
  | .syncWordPieceArrival _ _ => true
  | .engCopy o => o.wf
  | .engCopy2d o => o.wf
  | .engGather o => o.wf
  | .engScatter o => o.wf
  | .engFill o => o.wf
  | .engAllred o => o.wf
  | .engBcast o => o.wf
  | .engRtrace o => o.wf
  | .engRany o => o.wf
  | .engRlaunch o => o.wf
  | .engBquery o => o.wf
  | .engBrefit o => o.wf
  | .engineOperationCompletion _ => true
  | .mclaim o => o.wfClaim
  | .mrel o => o.wfD
  | .mld o => o.wfLd
  | .mst o => o.wfSt
  | .mzero o => o.wfD
  | .mhdrFmt o => o.wfHdrFmt
  | .mhdrKey o => o.wfHdrImm 1 65536
  | .mhdrWc o => o.wfHdrImm 2 65536
  | .mhdrSofs o => o.wfHdrImm 3 256
  | .mhdrSt o => o.wfHdrSt
  | .mmul o => o.wfDAB
  | .madd o => o.wfDAB
  | .msub o => o.wfDAB
  | .mscale o => o.wfScale
  | .mtrn o => o.wfDA
  | .mrecomp o => o.wfDA
  | .mdense o => o.wfDA
  | .mrank o => o.wfRank
  | .mnorm o => o.wfSt
  | .mma o => o.wfMma
  | .zld o => o.wfZMem
  | .zst o => o.wfZMem
  | .zcvt o => o.wfZcvt
  | .zzero o => o.wfZ
  | .matrixCommandStart _ => true
  | .matrixCommandCompletion _ => true
  | .spawn o => o.wfSpawn
  | .await o => o.wfPhase
  | .phase o => o.wfPhase
  | .fnew o => o.wfObjB 0
  | .fput o => o.wfFput
  | .fget o => o.wfFget
  | .adoptedPhaseEnd _ => true
  | .lacq o => o.wfObj 7
  | .lrel o => o.wfObj 0
  | .qput o => o.wfRing
  | .qget o => o.wfRing
  | .dcdec o => o.wfObj 0
  | .tktake o => o.wfObj 7
  | .tkwait o => o.wfObjB 7
  | .tself o => o.wfTself
  | .ticketAutomaticTake _ _ => true
  | .deterministicCommit _ => true
  | .temit o => o.wfTemit
  | .mvtx o => o.wfMvtx
  | .mprim o => o.wfMprim
  | .mend o => o.wfMend
  | .meshletBinning _ => true
  | .sinfo o => o.wfSinfo
  | .tcomb o => o.wfTcomb
  | .tdone o => o.wfTdone
  | .ctlr o => o.wfCtlr
  | .ctlw o => o.wfCtlw
  | .segw o => o.wfSegw
  | .xbld o => o.wfXbld
  | .perfr o => o.wfPerfr
  | .sret o => o.wfSret
  | .clauseFetch _ _ => true
  | .clauseIssue _ _ => true
  | .reconvergence _ => true
  | .hostFaultRecord _ => true
  | .replay _ _ => true
  | .kill _ _ => true
  | .groupDispatch _ => true
  | .steal _ => true
  | .groupRetirement _ => true
  | .preemption _ => true
  | .preemptionResume _ => true
  | .hostEnqueue _ _ _ => true
  | .skidderRefill _ _ => true
  | .hostMemoryRead _ _ _ => true
  | .hostMemoryWrite _ _ _ => true
  | .hostRegisterWrite _ _ => true
  | .gazeWrite _ _ => true
  | .capabilityExchange _ => true
  | .invalidateWindowPiece _ _ _ _ _ => true
  | .invalidateRange _ _ => true
  | .invalidateAsid _ _ => true
  | .invalidatePartition _ _ => true
  | .l2placeWrite _ => true
  | .l2placeDrainDone => true
  | .l2LineMigration _ _ => true
  | .flumeWriteback _ => true
  | .pstateWrite _ => true
  | .pstateChangeDone => true
  | .cgateWrite _ => true
  | .clusterGated _ => true
  | .partitionEnable _ _ => true
  | .partitionEnableCheckDone _ => true
  | .partitionDisable _ _ => true
  | .pcselWrite _ _ => true
  | .displayEnable _ _ => true
  | .linkTrainingDone _ _ => true
  | .recoveryPoint _ _ => true
  | .rollback _ _ => true
  | .attestationRequest _ _ => true
  | .measurementExtend _ _ _ => true
  | .coldReset => true
  | .thermalTrip _ => true
  | .powerAboveCap _ => true
  | .deviceFatal _ => true
  | .stripStart _ _ => true
  | .tileReconstructionEnqueue _ _ _ => true
  | .stripDeadline _ => true
  | .frameScanoutStart _ => true
  | .scanoutLine _ => true
  | .tcombCompletion _ => true
  | .tdoneCompletion _ => true

end Sys2Proof
end

