-- ==== Sys2Proof/Decode.lean ====
section
/-! DEFINITION. Decoding and encoding of Quoxis instruction words (spec/03_instruction_words.md, Tables 3.1 to 3.8; the fields of
chapters 6, 8, 11, 13 and 14). Decoding is total and refuses by name; the encoder after it is written from the same tables. -/
namespace Sys2Proof

/-- Why a word is no instruction. All but `truncated` are illegal-instruction conditions (Table 3.2). -/
inductive DecodeError where
  /-- An opcode that Table 3.6 does not assign (R82). -/
  | unassigned
  /-- An `eng` fn7 that Table 3.8 does not assign, or an `mhdr` sub-operation of 5 to 7. -/
  | unassignedFunction
  /-- A reserved or fixed field holds another value. -/
  | reservedField
  /-- A reserved source code (Table 3.3). -/
  | reservedSource
  /-- A field value that the instruction's own section refuses (`Instr.wf`). -/
  | illegalField
  /-- A two-word instruction whose W1 is the clause's last word: an illegal-clause condition (R60). -/
  | truncated
  deriving DecidableEq, Repr

/-- The operand of a source code (Table 3.3, R73). -/
def decodeSrc (c : BitVec 8) : Except DecodeError Src :=
  let n := c.toNat
  if n < 0x80 then .ok (.v (c.extractLsb' 0 7))
  else if n < 0x90 then .ok (.a (c.extractLsb' 0 4))
  else if n < 0x94 then .ok (.vx (c.extractLsb' 0 2))
  else if n = 0x94 then .ok .l0
  else if n = 0x95 then .ok .l1
  else if n = 0x96 then .ok .zero
  else if n = 0x97 then .ok .tid
  else if n = 0x98 then .ok .lane
  else if n = 0x99 then .ok .gid
  else if n = 0x9A then .ok .ones
  else if n = 0x9B then .ok .one
  else if n = 0x9C then .ok .half
  else if n = 0x9D then .ok .two
  else if 0xA0 ≤ n ∧ n < 0xC0 then .ok (.int (c.extractLsb' 0 5))
  else .error .reservedSource

/-- The code of a source (Table 3.3). -/
def encodeSrc : Src → BitVec 8
  | .v r => (0 : BitVec 1) ++ r
  | .a k => (0x8 : BitVec 4) ++ k
  | .vx k => (0x24 : BitVec 6) ++ k
  | .l0 => 0x94
  | .l1 => 0x95
  | .zero => 0x96
  | .tid => 0x97
  | .lane => 0x98
  | .gid => 0x99
  | .ones => 0x9A
  | .one => 0x9B
  | .half => 0x9C
  | .two => 0x9D
  | .int n => (0x5 : BitVec 3) ++ n

/-- Refuse unless a condition holds. -/
def must (c : Bool) (e : DecodeError) : Except DecodeError Unit := if c then .ok () else .error e

/-- Bits [lo + n - 1 : lo] of a word. -/
def bits (w : Word) (lo n : Nat) : BitVec n := w.extractLsb' lo n

/-- A reserved field is zero. -/
def zeroBits (w : Word) (lo n : Nat) : Except DecodeError Unit := must (bits w lo n == 0) .reservedField

/-- One bit as a Bool. -/
def bit (w : Word) (k : Nat) : Bool := w.getLsbD k

/-- A guard at bits [k + 3 : k] (R69). -/
def guardAt (w : Word) (k : Nat) : Guard := { neg := bit w (k + 3), p := bits w k 3 }

/-- A predicate source at bits [k + 3 : k] (R79). -/
def predAt (w : Word) (k : Nat) : PredSrc := { neg := bit w (k + 3), n := bits w k 3 }

namespace dec

def rbin (w : Word) : Except DecodeError RBin := do
  let a ← decodeSrc (bits w 8 8)
  let b ← decodeSrc (bits w 0 8)
  return { nw := bit w 23, d := bits w 16 7, a, b }

def run (w : Word) : Except DecodeError RUn := do
  let a ← decodeSrc (bits w 8 8)
  zeroBits w 0 8
  return { nw := bit w 23, d := bits w 16 7, a }

def pcmp (w : Word) : Except DecodeError PCmp := do
  zeroBits w 19 1
  let a ← decodeSrc (bits w 8 8)
  let b ← decodeSrc (bits w 0 8)
  return { cond := bits w 20 4, pd := bits w 16 3, a, b }

def plog (w : Word) : Except DecodeError PLog := do
  zeroBits w 19 5
  zeroBits w 12 4
  zeroBits w 4 4
  return { pd := bits w 16 3, a := predAt w 8, b := predAt w 0 }

def pget (w : Word) : Except DecodeError PGet := do
  zeroBits w 12 4
  zeroBits w 0 8
  return { nw := bit w 23, d := bits w 16 7, a := predAt w 8 }

def pvote (w : Word) : Except DecodeError PVote := do
  zeroBits w 19 5
  let a ← decodeSrc (bits w 8 8)
  zeroBits w 0 8
  return { pd := bits w 16 3, a }

def affBin (w : Word) : Except DecodeError AffBin := do
  zeroBits w 20 4
  zeroBits w 12 4
  zeroBits w 4 4
  return { d := bits w 16 4, a := bits w 8 4, b := bits w 0 4 }

def affUn (w : Word) : Except DecodeError AffUn := do
  zeroBits w 20 4
  zeroBits w 12 4
  zeroBits w 0 8
  return { d := bits w 16 4, a := bits w 8 4 }

def affSet (w : Word) : Except DecodeError AffSet := do
  zeroBits w 20 4
  let a ← decodeSrc (bits w 8 8)
  zeroBits w 0 8
  return { d := bits w 16 4, a }

def affShl (w : Word) : Except DecodeError AffShl := do
  zeroBits w 20 4
  zeroBits w 12 4
  must (bits w 4 4 == 0xB) .reservedField
  return { d := bits w 16 4, a := bits w 8 4, n := bits w 0 4 }

def xbar (w : Word) : Except DecodeError XBarOp := do
  let a ← decodeSrc (bits w 8 8)
  zeroBits w 3 5
  return { nw := bit w 23, d := bits w 16 7, a, slot := bits w 0 3 }

def branch (w : Word) : Except DecodeError Branch :=
  return { g := guardAt w 20, off := bits w 0 20 }

def guardOnly (w : Word) : Except DecodeError Guard := do
  zeroBits w 0 20
  return guardAt w 20

def jumpReg (w : Word) : Except DecodeError JumpReg := do
  zeroBits w 8 12
  let a ← decodeSrc (bits w 0 8)
  return { g := guardAt w 20, a }

def trapOp (w : Word) : Except DecodeError TrapOp :=
  return { g := guardAt w 20, code := bits w 0 20 }

def winOp (w : Word) : Except DecodeError WinOp := do
  zeroBits w 16 8
  let a ← decodeSrc (bits w 8 8)
  let b ← decodeSrc (bits w 0 8)
  return { a, b }

def idxOp (w : Word) : Except DecodeError IdxOp := do
  zeroBits w 18 6
  let a ← decodeSrc (bits w 8 8)
  zeroBits w 0 8
  return { k := bits w 16 2, a }

def bar (w : Word) : Except DecodeError (BitVec 2) := do
  zeroBits w 18 6
  zeroBits w 0 16
  return bits w 16 2

def clk (w : Word) : Except DecodeError ClkOp := do
  zeroBits w 0 16
  return { nw := bit w 23, d := bits w 16 7 }

def fma (w1 w2 : Word) : Except DecodeError FmaOp := do
  let a ← decodeSrc (bits w1 8 8)
  let b ← decodeSrc (bits w1 0 8)
  let c ← decodeSrc (bits w2 24 8)
  zeroBits w2 4 16
  return { nw := bit w1 23, d := bits w1 16 7, a, b, c, g := guardAt w2 20, rx := bit w2 3, rm := bits w2 0 3 }

def mad (w1 w2 : Word) : Except DecodeError MadOp := do
  let a ← decodeSrc (bits w1 8 8)
  let b ← decodeSrc (bits w1 0 8)
  let c ← decodeSrc (bits w2 24 8)
  zeroBits w2 0 20
  return { nw := bit w1 23, d := bits w1 16 7, a, b, c, g := guardAt w2 20 }

def sel (w1 w2 : Word) : Except DecodeError SelOp := do
  let a ← decodeSrc (bits w1 8 8)
  let b ← decodeSrc (bits w1 0 8)
  zeroBits w2 24 8
  zeroBits w2 4 16
  return { nw := bit w1 23, d := bits w1 16 7, a, b, g := guardAt w2 20, p := predAt w2 0 }

def bfx (w1 w2 : Word) : Except DecodeError BfxOp := do
  let a ← decodeSrc (bits w1 8 8)
  zeroBits w1 0 8
  let c ← decodeSrc (bits w2 24 8)
  zeroBits w2 7 13
  return { nw := bit w1 23, d := bits w1 16 7, a, c, g := guardAt w2 20, signed := bit w2 6, width := bits w2 0 6 }

def bfi (w1 w2 : Word) : Except DecodeError BfiOp := do
  let a ← decodeSrc (bits w1 8 8)
  let b ← decodeSrc (bits w1 0 8)
  let c ← decodeSrc (bits w2 24 8)
  zeroBits w2 6 14
  return { nw := bit w1 23, d := bits w1 16 7, a, b, c, g := guardAt w2 20, width := bits w2 0 6 }

def cvt (w1 w2 : Word) : Except DecodeError CvtOp := do
  let a ← decodeSrc (bits w1 8 8)
  zeroBits w1 0 8
  let c ← decodeSrc (bits w2 24 8)
  zeroBits w2 14 6
  return { nw := bit w1 23, d := bits w1 16 7, a, c, g := guardAt w2 20, sat := bit w2 13, rm := bits w2 10 3,
           fromF := bits w2 5 5, toF := bits w2 0 5 }

def imm (w1 w2 : Word) : Except DecodeError ImmOp := do
  let a ← decodeSrc (bits w1 8 8)
  zeroBits w1 0 8
  return { nw := bit w1 23, d := bits w1 16 7, a, imm := w2 }

def affImm (w1 w2 : Word) : Except DecodeError AffImm := do
  zeroBits w1 20 4
  zeroBits w1 12 4
  zeroBits w1 0 8
  return { d := bits w1 16 4, a := bits w1 8 4, imm := w2 }

def affMovi (w1 w2 : Word) : Except DecodeError AffMovi := do
  zeroBits w1 20 4
  zeroBits w1 8 8
  return { d := bits w1 16 4, stride := bits w1 0 8, imm := w2 }

def mem (w1 w2 : Word) : Except DecodeError MemOp := do
  zeroBits w1 23 1
  let off ← decodeSrc (bits w1 0 8)
  return { d := bits w1 16 7, ab := bits w1 12 4, am := bits w1 8 4, off, size := bits w2 29 3, hint := bits w2 27 2,
           seg := bits w2 24 3, g := guardAt w2 20, wait := bits w2 17 3, imm := bits w2 0 17 }

def eng (w1 w2 : Word) : Except DecodeError EngOp := do
  let a ← decodeSrc (bits w1 8 8)
  let b ← decodeSrc (bits w1 0 8)
  zeroBits w2 24 1
  return { reply := bit w1 23, d := bits w1 16 7, a, b, g := guardAt w2 20, wait := bits w2 17 3, imm := bits w2 0 17 }

def mat (w1 w2 : Word) : Except DecodeError MatOp := do
  zeroBits w2 20 4
  return { md := bits w1 19 5, ma := bits w1 14 5, mb := bits w1 9 5, z := bits w1 6 3, flags := bits w1 0 6,
           aq := bits w2 28 4, qf := bits w2 24 4, wait := bits w2 17 3, imm := bits w2 0 17 }

def task (w1 w2 : Word) : Except DecodeError TaskOp := do
  zeroBits w1 23 1
  let b ← decodeSrc (bits w1 0 8)
  return { d := bits w1 16 7, ao := bits w1 12 4, as := bits w1 8 4, b, tx := bits w2 24 8, g := guardAt w2 20,
           wait := bits w2 17 3, imm := bits w2 0 17 }

end dec

/-- The `eng` function of an fn7 code (Table 3.8). -/
def engOf (o : EngOp) (fn7 : Nat) : Except DecodeError Instr :=
  match fn7 with
  | 0x00 => .ok (.engCopy o)
  | 0x01 => .ok (.engCopy2d o)
  | 0x02 => .ok (.engGather o)
  | 0x03 => .ok (.engScatter o)
  | 0x04 => .ok (.engFill o)
  | 0x08 => .ok (.engAllred o)
  | 0x09 => .ok (.engBcast o)
  | 0x10 => .ok (.engRtrace o)
  | 0x11 => .ok (.engRany o)
  | 0x12 => .ok (.engRlaunch o)
  | 0x13 => .ok (.engBquery o)
  | 0x14 => .ok (.engBrefit o)
  | _ => .error .unassignedFunction

/-- The `mhdr` form of a qf [2:0] sub-operation (R196). -/
def mhdrOf (o : MatOp) (sub : Nat) : Except DecodeError Instr :=
  match sub with
  | 0 => .ok (.mhdrFmt o)
  | 1 => .ok (.mhdrKey o)
  | 2 => .ok (.mhdrWc o)
  | 3 => .ok (.mhdrSofs o)
  | 4 => .ok (.mhdrSt o)
  | _ => .error .unassignedFunction

/-- The fields of a one-word instruction (Table 3.6, opcodes 0x00 to 0x7F). -/
def parseOne (w : Word) : Except DecodeError Instr :=
  match (bits w 24 8).toNat with
  | 0x00 => if w = 0 then .ok .nop else .error .reservedField
  | 0x01 => .iadd <$> dec.rbin w
  | 0x02 => .isub <$> dec.rbin w
  | 0x03 => .imul <$> dec.rbin w
  | 0x04 => .imulh <$> dec.rbin w
  | 0x05 => .imulhu <$> dec.rbin w
  | 0x06 => .imin <$> dec.rbin w
  | 0x07 => .iminu <$> dec.rbin w
  | 0x08 => .imax <$> dec.rbin w
  | 0x09 => .imaxu <$> dec.rbin w
  | 0x0A => .iabs <$> dec.run w
  | 0x0B => .and <$> dec.rbin w
  | 0x0C => .or <$> dec.rbin w
  | 0x0D => .xor <$> dec.rbin w
  | 0x0E => .shl <$> dec.rbin w
  | 0x0F => .shr <$> dec.rbin w
  | 0x10 => .sar <$> dec.rbin w
  | 0x11 => .rotl <$> dec.rbin w
  | 0x12 => .popc <$> dec.run w
  | 0x13 => .clz <$> dec.run w
  | 0x14 => .brev <$> dec.run w
  | 0x15 => .iadds <$> dec.rbin w
  | 0x16 => .isubs <$> dec.rbin w
  | 0x17 => .iadd64 <$> dec.rbin w
  | 0x18 => .isub64 <$> dec.rbin w
  | 0x19 => .mov <$> dec.run w
  | 0x1A => .mov64 <$> dec.run w
  | 0x20 => .icmp <$> dec.pcmp w
  | 0x21 => .icmp64 <$> dec.pcmp w
  | 0x22 => .fcmp <$> dec.pcmp w
  | 0x23 => .dcmp <$> dec.pcmp w
  | 0x24 => .pand <$> dec.plog w
  | 0x25 => .por <$> dec.plog w
  | 0x26 => .pxor <$> dec.plog w
  | 0x27 => .pandn <$> dec.plog w
  | 0x28 => .pget <$> dec.pget w
  | 0x29 => .pset <$> dec.pvote w
  | 0x30 => .fadd <$> dec.rbin w
  | 0x31 => .fsub <$> dec.rbin w
  | 0x32 => .fmul <$> dec.rbin w
  | 0x33 => .fmin <$> dec.rbin w
  | 0x34 => .fmax <$> dec.rbin w
  | 0x35 => .fabs <$> dec.run w
  | 0x36 => .fneg <$> dec.run w
  | 0x37 => .fsat <$> dec.run w
  | 0x38 => .dadd <$> dec.rbin w
  | 0x39 => .dsub <$> dec.rbin w
  | 0x3A => .dmul <$> dec.rbin w
  | 0x3B => .dmin <$> dec.rbin w
  | 0x3C => .dmax <$> dec.rbin w
  | 0x3D => .dabs <$> dec.run w
  | 0x3E => .dneg <$> dec.run w
  | 0x40 => .hadd2 <$> dec.rbin w
  | 0x41 => .hmul2 <$> dec.rbin w
  | 0x42 => .hmin2 <$> dec.rbin w
  | 0x43 => .hmax2 <$> dec.rbin w
  | 0x44 => .badd2 <$> dec.rbin w
  | 0x45 => .bmul2 <$> dec.rbin w
  | 0x46 => .bmin2 <$> dec.rbin w
  | 0x47 => .bmax2 <$> dec.rbin w
  | 0x48 => .frcp <$> dec.run w
  | 0x49 => .frsq <$> dec.run w
  | 0x4A => .fsqrt <$> dec.run w
  | 0x4B => .fexp2 <$> dec.run w
  | 0x4C => .flog2 <$> dec.run w
  | 0x4D => .fsin <$> dec.run w
  | 0x4E => .fcos <$> dec.run w
  | 0x4F => .ftanh <$> dec.run w
  | 0x50 => .aadd <$> dec.affBin w
  | 0x51 => .asub <$> dec.affBin w
  | 0x52 => .amov <$> dec.affUn w
  | 0x53 => .aset <$> dec.affSet w
  | 0x54 => .ashl <$> dec.affShl w
  | 0x55 => .amul <$> dec.affBin w
  | 0x58 => .shfl <$> dec.rbin w
  | 0x59 => .xbar <$> dec.xbar w
  | 0x5A => .vany <$> dec.pvote w
  | 0x5B => .vall <$> dec.pvote w
  | 0x5C => .ballot <$> dec.run w
  | 0x60 => .br <$> dec.branch w
  | 0x61 => .call <$> dec.branch w
  | 0x62 => .ret <$> dec.guardOnly w
  | 0x63 => .jmpr <$> dec.jumpReg w
  | 0x64 => .exit <$> dec.guardOnly w
  | 0x65 => .brk <$> dec.trapOp w
  | 0x66 => .trap <$> dec.trapOp w
  | 0x67 => .yield <$> dec.guardOnly w
  | 0x68 => .xwin <$> dec.winOp w
  | 0x69 => .xset <$> dec.idxOp w
  | 0x6A => .xput <$> dec.idxOp w
  | 0x70 => .bar <$> dec.bar w
  | 0x71 => .clkr <$> dec.clk w
  | _ => .error .unassigned

/-- The fields of a two-word instruction (Table 3.6, opcodes 0x80 to 0xFF). -/
def parseTwo (w1 w2 : Word) : Except DecodeError Instr :=
  match (bits w1 24 8).toNat with
  | 0x80 => .ffus <$> dec.fma w1 w2
  | 0x81 => .dfus <$> dec.fma w1 w2
  | 0x82 => .hfus2 <$> dec.fma w1 w2
  | 0x83 => .bfus2 <$> dec.fma w1 w2
  | 0x84 => .imad <$> dec.mad w1 w2
  | 0x85 => .sel <$> dec.sel w1 w2
  | 0x86 => .bfx <$> dec.bfx w1 w2
  | 0x87 => .bfi <$> dec.bfi w1 w2
  | 0x88 => .cvt <$> dec.cvt w1 w2
  | 0x89 => .movi <$> dec.imm w1 w2
  | 0x8A => .iaddi <$> dec.imm w1 w2
  | 0x8B => .amovi <$> dec.affMovi w1 w2
  | 0x8C => .aaddi <$> dec.affImm w1 w2
  | 0x8D => .amuli <$> dec.affImm w1 w2
  | 0x8E => .rnd <$> dec.mad w1 w2
  | 0xA0 => .ld <$> dec.mem w1 w2
  | 0xA1 => .st <$> dec.mem w1 w2
  | 0xA2 => .pref <$> dec.mem w1 w2
  | 0xA3 => .atom <$> dec.mem w1 w2
  | 0xA4 => .red <$> dec.mem w1 w2
  | 0xA5 => .swinit <$> dec.mem w1 w2
  | 0xA6 => .swadd <$> dec.mem w1 w2
  | 0xA7 => .swwait <$> dec.mem w1 w2
  | 0xC0 => .mclaim <$> dec.mat w1 w2
  | 0xC1 => .mrel <$> dec.mat w1 w2
  | 0xC2 => .mld <$> dec.mat w1 w2
  | 0xC3 => .mst <$> dec.mat w1 w2
  | 0xC4 => .mzero <$> dec.mat w1 w2
  | 0xC6 => .mmul <$> dec.mat w1 w2
  | 0xC7 => .madd <$> dec.mat w1 w2
  | 0xC8 => .msub <$> dec.mat w1 w2
  | 0xC9 => .mscale <$> dec.mat w1 w2
  | 0xCA => .mtrn <$> dec.mat w1 w2
  | 0xCB => .mrecomp <$> dec.mat w1 w2
  | 0xCC => .mdense <$> dec.mat w1 w2
  | 0xCD => .mrank <$> dec.mat w1 w2
  | 0xCE => .mnorm <$> dec.mat w1 w2
  | 0xCF => .mma <$> dec.mat w1 w2
  | 0xD0 => .zld <$> dec.mat w1 w2
  | 0xD1 => .zst <$> dec.mat w1 w2
  | 0xD2 => .zcvt <$> dec.mat w1 w2
  | 0xD3 => .zzero <$> dec.mat w1 w2
  | 0xE0 => .spawn <$> dec.task w1 w2
  | 0xE1 => .await <$> dec.task w1 w2
  | 0xE2 => .phase <$> dec.task w1 w2
  | 0xE3 => .fnew <$> dec.task w1 w2
  | 0xE4 => .fput <$> dec.task w1 w2
  | 0xE5 => .fget <$> dec.task w1 w2
  | 0xE6 => .lacq <$> dec.task w1 w2
  | 0xE7 => .lrel <$> dec.task w1 w2
  | 0xE8 => .qput <$> dec.task w1 w2
  | 0xE9 => .qget <$> dec.task w1 w2
  | 0xEA => .dcdec <$> dec.task w1 w2
  | 0xEB => .tktake <$> dec.task w1 w2
  | 0xEC => .tkwait <$> dec.task w1 w2
  | 0xED => .tself <$> dec.task w1 w2
  | 0xF0 => .temit <$> dec.task w1 w2
  | 0xF1 => .mvtx <$> dec.task w1 w2
  | 0xF2 => .mprim <$> dec.task w1 w2
  | 0xF3 => .mend <$> dec.task w1 w2
  | 0xF4 => .sinfo <$> dec.task w1 w2
  | 0xF5 => .tcomb <$> dec.task w1 w2
  | 0xF6 => .tdone <$> dec.task w1 w2
  | 0xF8 => .ctlr <$> dec.task w1 w2
  | 0xF9 => .ctlw <$> dec.task w1 w2
  | 0xFA => .segw <$> dec.task w1 w2
  | 0xFB => .xbld <$> dec.task w1 w2
  | 0xFC => .perfr <$> dec.task w1 w2
  | 0xFD => .sret <$> dec.task w1 w2
  | 0xB0 => dec.eng w1 w2 >>= fun o => engOf o (bits w2 25 7).toNat
  | 0xC5 => dec.mat w1 w2 >>= fun o => mhdrOf o (bits w2 24 3).toNat
  | _ => .error .unassigned

/-- Accept an instruction whose field values are legal. -/
def acceptWf (i : Instr) : Except DecodeError Instr := if i.wf then .ok i else .error .illegalField

/-- R58: the opcode of W1 tells whether the instruction has a second word. -/
def isTwoWord (w1 : Word) : Bool := bit w1 31

/-- A second word that breaks no condition of its own, for testing the conditions that W1 alone decides (R60). -/
def plainW2 (w1 : Word) : Word :=
  match (bits w1 24 8).toNat with
  | 0x86 | 0x87 => 0x00700001
  | 0x88 => 0x00700084
  | 0xA0 | 0xA1 | 0xA2 => 0x007E0000
  | 0xA3 | 0xA4 => 0x407E0000
  | 0xA5 | 0xA6 | 0xA7 => 0x817E0000
  | 0xC0 => 0x000E0001
  | 0xC5 => if bits w1 14 5 == 0 then 0x000E0000 else 0x040E0000
  | 0xE0 => if bits w1 16 7 == 0 then 0x007E0000 else 0x027E0000
  | 0xF0 => 0x007E0004
  | n => if n < 0xA0 then 0x00700000 else if 0xC0 ≤ n ∧ n < 0xD4 then 0x000E0000 else 0x007E0000

/-- Decode the instruction that begins with W1, given the word after it in the clause, if there is one. -/
def decode (w1 : Word) (w2 : Option Word) : Except DecodeError Instr :=
  if isTwoWord w1 then
    match w2 with
    | some w2 => parseTwo w1 w2 >>= acceptWf
    | none =>
      match parseTwo w1 (plainW2 w1) >>= acceptWf with
      | .error e => .error e
      | .ok _ => .error .truncated
  else parseOne w1 >>= acceptWf

/-- Instruction words of an instruction that begins with W1 (R58). -/
def wordCount (w1 : Word) : Nat := if isTwoWord w1 then 2 else 1

/-- Decode from a list of words: the instruction and how many words it takes. -/
def decodeWords (ws : List Word) : Except DecodeError (Instr × Nat) :=
  match ws with
  | [] => .error .truncated
  | w1 :: rest => (decode w1 rest.head?).map fun i => (i, wordCount w1)

namespace enc

def b1 (x : Bool) : BitVec 1 := BitVec.ofBool x
def guard (g : Guard) : BitVec 4 := b1 g.neg ++ g.p
def pred (p : PredSrc) : BitVec 4 := b1 p.neg ++ p.n

def rbin (op : BitVec 8) (o : RBin) : Word := op ++ b1 o.nw ++ o.d ++ encodeSrc o.a ++ encodeSrc o.b
def run (op : BitVec 8) (o : RUn) : Word := op ++ b1 o.nw ++ o.d ++ encodeSrc o.a ++ (0 : BitVec 8)
def pcmp (op : BitVec 8) (o : PCmp) : Word := op ++ o.cond ++ (0 : BitVec 1) ++ o.pd ++ encodeSrc o.a ++ encodeSrc o.b
def plog (op : BitVec 8) (o : PLog) : Word :=
  op ++ (0 : BitVec 5) ++ o.pd ++ (0 : BitVec 4) ++ pred o.a ++ (0 : BitVec 4) ++ pred o.b
def pget (op : BitVec 8) (o : PGet) : Word := op ++ b1 o.nw ++ o.d ++ (0 : BitVec 4) ++ pred o.a ++ (0 : BitVec 8)
def pvote (op : BitVec 8) (o : PVote) : Word := op ++ (0 : BitVec 5) ++ o.pd ++ encodeSrc o.a ++ (0 : BitVec 8)
def affBin (op : BitVec 8) (o : AffBin) : Word :=
  op ++ (0 : BitVec 4) ++ o.d ++ (0 : BitVec 4) ++ o.a ++ (0 : BitVec 4) ++ o.b
def affUn (op : BitVec 8) (o : AffUn) : Word := op ++ (0 : BitVec 4) ++ o.d ++ (0 : BitVec 4) ++ o.a ++ (0 : BitVec 8)
def affSet (op : BitVec 8) (o : AffSet) : Word := op ++ (0 : BitVec 4) ++ o.d ++ encodeSrc o.a ++ (0 : BitVec 8)
def affShl (op : BitVec 8) (o : AffShl) : Word :=
  op ++ (0 : BitVec 4) ++ o.d ++ (0 : BitVec 4) ++ o.a ++ (0xB : BitVec 4) ++ o.n
def xbar (op : BitVec 8) (o : XBarOp) : Word := op ++ b1 o.nw ++ o.d ++ encodeSrc o.a ++ (0 : BitVec 5) ++ o.slot
def branch (op : BitVec 8) (o : Branch) : Word := op ++ guard o.g ++ o.off
def guardOnly (op : BitVec 8) (g : Guard) : Word := op ++ guard g ++ (0 : BitVec 20)
def jumpReg (op : BitVec 8) (o : JumpReg) : Word := op ++ guard o.g ++ (0 : BitVec 12) ++ encodeSrc o.a
def trapOp (op : BitVec 8) (o : TrapOp) : Word := op ++ guard o.g ++ o.code
def winOp (op : BitVec 8) (o : WinOp) : Word := op ++ (0 : BitVec 8) ++ encodeSrc o.a ++ encodeSrc o.b
def idxOp (op : BitVec 8) (o : IdxOp) : Word := op ++ (0 : BitVec 6) ++ o.k ++ encodeSrc o.a ++ (0 : BitVec 8)
def bar (op : BitVec 8) (b : BitVec 2) : Word := op ++ (0 : BitVec 6) ++ b ++ (0 : BitVec 16)
def clk (op : BitVec 8) (o : ClkOp) : Word := op ++ b1 o.nw ++ o.d ++ (0 : BitVec 16)

def fma (op : BitVec 8) (o : FmaOp) : List Word :=
  [op ++ b1 o.nw ++ o.d ++ encodeSrc o.a ++ encodeSrc o.b,
   encodeSrc o.c ++ guard o.g ++ (0 : BitVec 16) ++ b1 o.rx ++ o.rm]
def mad (op : BitVec 8) (o : MadOp) : List Word :=
  [op ++ b1 o.nw ++ o.d ++ encodeSrc o.a ++ encodeSrc o.b, encodeSrc o.c ++ guard o.g ++ (0 : BitVec 20)]
def sel (op : BitVec 8) (o : SelOp) : List Word :=
  [op ++ b1 o.nw ++ o.d ++ encodeSrc o.a ++ encodeSrc o.b, (0 : BitVec 8) ++ guard o.g ++ (0 : BitVec 16) ++ pred o.p]
def bfx (op : BitVec 8) (o : BfxOp) : List Word :=
  [op ++ b1 o.nw ++ o.d ++ encodeSrc o.a ++ (0 : BitVec 8),
   encodeSrc o.c ++ guard o.g ++ (0 : BitVec 13) ++ b1 o.signed ++ o.width]
def bfi (op : BitVec 8) (o : BfiOp) : List Word :=
  [op ++ b1 o.nw ++ o.d ++ encodeSrc o.a ++ encodeSrc o.b, encodeSrc o.c ++ guard o.g ++ (0 : BitVec 14) ++ o.width]
def cvt (op : BitVec 8) (o : CvtOp) : List Word :=
  [op ++ b1 o.nw ++ o.d ++ encodeSrc o.a ++ (0 : BitVec 8),
   encodeSrc o.c ++ guard o.g ++ (0 : BitVec 6) ++ b1 o.sat ++ o.rm ++ o.fromF ++ o.toF]
def imm (op : BitVec 8) (o : ImmOp) : List Word :=
  [op ++ b1 o.nw ++ o.d ++ encodeSrc o.a ++ (0 : BitVec 8), o.imm]
def affImm (op : BitVec 8) (o : AffImm) : List Word :=
  [op ++ (0 : BitVec 4) ++ o.d ++ (0 : BitVec 4) ++ o.a ++ (0 : BitVec 8), o.imm]
def affMovi (op : BitVec 8) (o : AffMovi) : List Word :=
  [op ++ (0 : BitVec 4) ++ o.d ++ (0 : BitVec 8) ++ o.stride, o.imm]
def mem (op : BitVec 8) (o : MemOp) : List Word :=
  [op ++ (0 : BitVec 1) ++ o.d ++ o.ab ++ o.am ++ encodeSrc o.off,
   o.size ++ o.hint ++ o.seg ++ guard o.g ++ o.wait ++ o.imm]
def eng (fn7 : BitVec 7) (o : EngOp) : List Word :=
  [(0xB0 : BitVec 8) ++ b1 o.reply ++ o.d ++ encodeSrc o.a ++ encodeSrc o.b,
   fn7 ++ (0 : BitVec 1) ++ guard o.g ++ o.wait ++ o.imm]
def mat (op : BitVec 8) (o : MatOp) : List Word :=
  [op ++ o.md ++ o.ma ++ o.mb ++ o.z ++ o.flags, o.aq ++ o.qf ++ (0 : BitVec 4) ++ o.wait ++ o.imm]
def task (op : BitVec 8) (o : TaskOp) : List Word :=
  [op ++ (0 : BitVec 1) ++ o.d ++ o.ao ++ o.as ++ encodeSrc o.b, o.tx ++ guard o.g ++ o.wait ++ o.imm]

end enc

/-- The words of an instruction; an event has none. -/
def encode : Instr → List Word
  | .nop => [0]
  | .iadd o => [enc.rbin 0x01 o]
  | .isub o => [enc.rbin 0x02 o]
  | .imul o => [enc.rbin 0x03 o]
  | .imulh o => [enc.rbin 0x04 o]
  | .imulhu o => [enc.rbin 0x05 o]
  | .imin o => [enc.rbin 0x06 o]
  | .iminu o => [enc.rbin 0x07 o]
  | .imax o => [enc.rbin 0x08 o]
  | .imaxu o => [enc.rbin 0x09 o]
  | .iabs o => [enc.run 0x0A o]
  | .and o => [enc.rbin 0x0B o]
  | .or o => [enc.rbin 0x0C o]
  | .xor o => [enc.rbin 0x0D o]
  | .shl o => [enc.rbin 0x0E o]
  | .shr o => [enc.rbin 0x0F o]
  | .sar o => [enc.rbin 0x10 o]
  | .rotl o => [enc.rbin 0x11 o]
  | .popc o => [enc.run 0x12 o]
  | .clz o => [enc.run 0x13 o]
  | .brev o => [enc.run 0x14 o]
  | .iadds o => [enc.rbin 0x15 o]
  | .isubs o => [enc.rbin 0x16 o]
  | .iadd64 o => [enc.rbin 0x17 o]
  | .isub64 o => [enc.rbin 0x18 o]
  | .mov o => [enc.run 0x19 o]
  | .mov64 o => [enc.run 0x1A o]
  | .icmp o => [enc.pcmp 0x20 o]
  | .icmp64 o => [enc.pcmp 0x21 o]
  | .fcmp o => [enc.pcmp 0x22 o]
  | .dcmp o => [enc.pcmp 0x23 o]
  | .pand o => [enc.plog 0x24 o]
  | .por o => [enc.plog 0x25 o]
  | .pxor o => [enc.plog 0x26 o]
  | .pandn o => [enc.plog 0x27 o]
  | .pget o => [enc.pget 0x28 o]
  | .pset o => [enc.pvote 0x29 o]
  | .fadd o => [enc.rbin 0x30 o]
  | .fsub o => [enc.rbin 0x31 o]
  | .fmul o => [enc.rbin 0x32 o]
  | .fmin o => [enc.rbin 0x33 o]
  | .fmax o => [enc.rbin 0x34 o]
  | .fabs o => [enc.run 0x35 o]
  | .fneg o => [enc.run 0x36 o]
  | .fsat o => [enc.run 0x37 o]
  | .dadd o => [enc.rbin 0x38 o]
  | .dsub o => [enc.rbin 0x39 o]
  | .dmul o => [enc.rbin 0x3A o]
  | .dmin o => [enc.rbin 0x3B o]
  | .dmax o => [enc.rbin 0x3C o]
  | .dabs o => [enc.run 0x3D o]
  | .dneg o => [enc.run 0x3E o]
  | .hadd2 o => [enc.rbin 0x40 o]
  | .hmul2 o => [enc.rbin 0x41 o]
  | .hmin2 o => [enc.rbin 0x42 o]
  | .hmax2 o => [enc.rbin 0x43 o]
  | .badd2 o => [enc.rbin 0x44 o]
  | .bmul2 o => [enc.rbin 0x45 o]
  | .bmin2 o => [enc.rbin 0x46 o]
  | .bmax2 o => [enc.rbin 0x47 o]
  | .frcp o => [enc.run 0x48 o]
  | .frsq o => [enc.run 0x49 o]
  | .fsqrt o => [enc.run 0x4A o]
  | .fexp2 o => [enc.run 0x4B o]
  | .flog2 o => [enc.run 0x4C o]
  | .fsin o => [enc.run 0x4D o]
  | .fcos o => [enc.run 0x4E o]
  | .ftanh o => [enc.run 0x4F o]
  | .aadd o => [enc.affBin 0x50 o]
  | .asub o => [enc.affBin 0x51 o]
  | .amov o => [enc.affUn 0x52 o]
  | .aset o => [enc.affSet 0x53 o]
  | .ashl o => [enc.affShl 0x54 o]
  | .amul o => [enc.affBin 0x55 o]
  | .shfl o => [enc.rbin 0x58 o]
  | .xbar o => [enc.xbar 0x59 o]
  | .vany o => [enc.pvote 0x5A o]
  | .vall o => [enc.pvote 0x5B o]
  | .ballot o => [enc.run 0x5C o]
  | .br o => [enc.branch 0x60 o]
  | .call o => [enc.branch 0x61 o]
  | .ret o => [enc.guardOnly 0x62 o]
  | .jmpr o => [enc.jumpReg 0x63 o]
  | .exit o => [enc.guardOnly 0x64 o]
  | .brk o => [enc.trapOp 0x65 o]
  | .trap o => [enc.trapOp 0x66 o]
  | .yield o => [enc.guardOnly 0x67 o]
  | .xwin o => [enc.winOp 0x68 o]
  | .xset o => [enc.idxOp 0x69 o]
  | .xput o => [enc.idxOp 0x6A o]
  | .bar o => [enc.bar 0x70 o]
  | .clkr o => [enc.clk 0x71 o]
  | .ffus o => enc.fma 0x80 o
  | .dfus o => enc.fma 0x81 o
  | .hfus2 o => enc.fma 0x82 o
  | .bfus2 o => enc.fma 0x83 o
  | .imad o => enc.mad 0x84 o
  | .sel o => enc.sel 0x85 o
  | .bfx o => enc.bfx 0x86 o
  | .bfi o => enc.bfi 0x87 o
  | .cvt o => enc.cvt 0x88 o
  | .movi o => enc.imm 0x89 o
  | .iaddi o => enc.imm 0x8A o
  | .amovi o => enc.affMovi 0x8B o
  | .aaddi o => enc.affImm 0x8C o
  | .amuli o => enc.affImm 0x8D o
  | .rnd o => enc.mad 0x8E o
  | .ld o => enc.mem 0xA0 o
  | .st o => enc.mem 0xA1 o
  | .pref o => enc.mem 0xA2 o
  | .atom o => enc.mem 0xA3 o
  | .red o => enc.mem 0xA4 o
  | .swinit o => enc.mem 0xA5 o
  | .swadd o => enc.mem 0xA6 o
  | .swwait o => enc.mem 0xA7 o
  | .loadArrival _ => []
  | .storeCompletion _ => []
  | .atomicCompletion _ => []
  | .syncWordPieceArrival _ _ => []
  | .engCopy o => enc.eng 0x00 o
  | .engCopy2d o => enc.eng 0x01 o
  | .engGather o => enc.eng 0x02 o
  | .engScatter o => enc.eng 0x03 o
  | .engFill o => enc.eng 0x04 o
  | .engAllred o => enc.eng 0x08 o
  | .engBcast o => enc.eng 0x09 o
  | .engRtrace o => enc.eng 0x10 o
  | .engRany o => enc.eng 0x11 o
  | .engRlaunch o => enc.eng 0x12 o
  | .engBquery o => enc.eng 0x13 o
  | .engBrefit o => enc.eng 0x14 o
  | .engineOperationCompletion _ => []
  | .mclaim o => enc.mat 0xC0 o
  | .mrel o => enc.mat 0xC1 o
  | .mld o => enc.mat 0xC2 o
  | .mst o => enc.mat 0xC3 o
  | .mzero o => enc.mat 0xC4 o
  | .mhdrFmt o => enc.mat 0xC5 o
  | .mhdrKey o => enc.mat 0xC5 o
  | .mhdrWc o => enc.mat 0xC5 o
  | .mhdrSofs o => enc.mat 0xC5 o
  | .mhdrSt o => enc.mat 0xC5 o
  | .mmul o => enc.mat 0xC6 o
  | .madd o => enc.mat 0xC7 o
  | .msub o => enc.mat 0xC8 o
  | .mscale o => enc.mat 0xC9 o
  | .mtrn o => enc.mat 0xCA o
  | .mrecomp o => enc.mat 0xCB o
  | .mdense o => enc.mat 0xCC o
  | .mrank o => enc.mat 0xCD o
  | .mnorm o => enc.mat 0xCE o
  | .mma o => enc.mat 0xCF o
  | .zld o => enc.mat 0xD0 o
  | .zst o => enc.mat 0xD1 o
  | .zcvt o => enc.mat 0xD2 o
  | .zzero o => enc.mat 0xD3 o
  | .matrixCommandStart _ => []
  | .matrixCommandCompletion _ => []
  | .spawn o => enc.task 0xE0 o
  | .await o => enc.task 0xE1 o
  | .phase o => enc.task 0xE2 o
  | .fnew o => enc.task 0xE3 o
  | .fput o => enc.task 0xE4 o
  | .fget o => enc.task 0xE5 o
  | .adoptedPhaseEnd _ => []
  | .lacq o => enc.task 0xE6 o
  | .lrel o => enc.task 0xE7 o
  | .qput o => enc.task 0xE8 o
  | .qget o => enc.task 0xE9 o
  | .dcdec o => enc.task 0xEA o
  | .tktake o => enc.task 0xEB o
  | .tkwait o => enc.task 0xEC o
  | .tself o => enc.task 0xED o
  | .ticketAutomaticTake _ _ => []
  | .deterministicCommit _ => []
  | .temit o => enc.task 0xF0 o
  | .mvtx o => enc.task 0xF1 o
  | .mprim o => enc.task 0xF2 o
  | .mend o => enc.task 0xF3 o
  | .meshletBinning _ => []
  | .sinfo o => enc.task 0xF4 o
  | .tcomb o => enc.task 0xF5 o
  | .tdone o => enc.task 0xF6 o
  | .ctlr o => enc.task 0xF8 o
  | .ctlw o => enc.task 0xF9 o
  | .segw o => enc.task 0xFA o
  | .xbld o => enc.task 0xFB o
  | .perfr o => enc.task 0xFC o
  | .sret o => enc.task 0xFD o
  | .clauseFetch _ _ => []
  | .clauseIssue _ _ => []
  | .reconvergence _ => []
  | .hostFaultRecord _ => []
  | .replay _ _ => []
  | .kill _ _ => []
  | .groupDispatch _ => []
  | .steal _ => []
  | .groupRetirement _ => []
  | .preemption _ => []
  | .preemptionResume _ => []
  | .hostEnqueue _ _ _ => []
  | .skidderRefill _ _ => []
  | .hostMemoryRead _ _ _ => []
  | .hostMemoryWrite _ _ _ => []
  | .hostRegisterWrite _ _ => []
  | .gazeWrite _ _ => []
  | .capabilityExchange _ => []
  | .invalidateWindowPiece _ _ _ _ _ => []
  | .invalidateRange _ _ => []
  | .invalidateAsid _ _ => []
  | .invalidatePartition _ _ => []
  | .l2placeWrite _ => []
  | .l2placeDrainDone => []
  | .l2LineMigration _ _ => []
  | .flumeWriteback _ => []
  | .pstateWrite _ => []
  | .pstateChangeDone => []
  | .cgateWrite _ => []
  | .clusterGated _ => []
  | .partitionEnable _ _ => []
  | .partitionEnableCheckDone _ => []
  | .partitionDisable _ _ => []
  | .pcselWrite _ _ => []
  | .displayEnable _ _ => []
  | .linkTrainingDone _ _ => []
  | .recoveryPoint _ _ => []
  | .rollback _ _ => []
  | .attestationRequest _ _ => []
  | .measurementExtend _ _ _ => []
  | .coldReset => []
  | .thermalTrip _ => []
  | .powerAboveCap _ => []
  | .deviceFatal _ => []
  | .stripStart _ _ => []
  | .tileReconstructionEnqueue _ _ _ => []
  | .stripDeadline _ => []
  | .frameScanoutStart _ => []
  | .scanoutLine _ => []
  | .tcombCompletion _ => []
  | .tdoneCompletion _ => []

/-- The instruction whose bits are w, as spec/opcode_table.json numbers them: bit 0 is the least significant bit of W1, which
lies at the lower address (R2, R78), and W2 counts on from bit 32. Every bit above the table's own is zero. -/
def decodeTableWord (nbits w : Nat) : Option Instr :=
  let w := w % 2 ^ nbits
  match decodeWords [BitVec.ofNat 32 w, BitVec.ofNat 32 (w / 2 ^ 32)] with
  | .ok (i, _) => some i
  | .error _ => none

/-! ## The clause header (Table 3.1) -/

/-- A clause header word's fields (R57). -/
structure Header where
  n : Nat
  cls : Nat
  wait : BitVec 6
  rcv : Bool
  deriving DecidableEq, Repr

/-- R57: n = 0 or a set bit of [17:0] is a header violation. -/
def decodeHeader (w : Word) : Option Header :=
  if bits w 28 4 == 0 || bits w 0 18 != 0 then none
  else some { n := (bits w 28 4).toNat, cls := (bits w 25 3).toNat, wait := bits w 19 6, rcv := bit w 18 }

/-- The header word of these fields. -/
def encodeHeader (h : Header) : Word :=
  BitVec.ofNat 4 h.n ++ BitVec.ofNat 3 h.cls ++ h.wait ++ BitVec.ofBool h.rcv ++ (0 : BitVec 18)

end Sys2Proof
end

