-- ==== Sys2Proof/Config.lean ====
section
/-! DEFINITION. What the Yelide 960 fixes and what the manual leaves open: the sizes of spec/01_device.md, and the free values,
opaque constants with no body, which nothing can evaluate (notes/assumptions). -/
namespace Sys2Proof.Config

/-- A byte that the manual leaves unspecified: the n-th one that a run meets (log entry 1). -/
opaque freeByte : Nat → Byte

/-- Byte i of the n-th HBM sector, holding the plaintext given, as a partition reads it under a key state other than the writer's:
partition and key state of the writer, then of the reader (R420; log entry 1). -/
opaque foreignByte : Nat → Nat → Nat → Nat → Nat → List Byte → Nat → Byte

/-- Byte i of a sector as it leaves the device encrypted: partition and key state it was written under, sector, what it holds (R420,
R424; log entry 42). -/
opaque cipherByte : Nat → Nat → Nat → List Byte → Nat → Byte

/-- A 32-bit register value that the manual leaves unspecified (R72; log entry 1). -/
opaque freeWord : Nat → Word

/-- A choice between old and new that the manual leaves unspecified (R63, R72, R275; log entry 1). -/
opaque freeBool : Nat → Bool

/-- Place of an element, by operation and element, in an order that the manual leaves unspecified (R275; log entry 1). -/
opaque freeOrder : Nat → Nat → Nat

/-- A choice, by operation and part, that the manual leaves unspecified (R275, R276; log entry 1). -/
opaque freePick : Nat → Nat → Bool

/-- How firmware lays out the words it measures into M0 before it hashes them (R423): uninterpreted (log entry 9). -/
opaque measuredBytes : List Word → List Byte

/-- Byte i of the SLH-DSA-SHA2-128f signature over bytes 0 to 215 of an attestation report (R423): uninterpreted (log entry 9). -/
opaque attestByte : List Byte → Nat → Byte

/-- SHA-256 of the firmware image, and the device serial number (R423): uninterpreted (log entry 9). -/
opaque firmwareDigest : BitVec 256
opaque deviceSerial : BitVec 128

/-- Whether a signature of a message verifies under a public key, SLH-DSA-SHA2-192s (R422): uninterpreted (log entry 9). -/
opaque slhVerifies : List Byte → List Byte → List Byte → Bool

/-- The fused hash of the firmware key, byte 0 in the low 8 bits, and the fused anti-rollback counter (R422): uninterpreted (log
entry 9). -/
opaque fusedHash : BitVec 256
opaque fusedVersion : Nat

/-- Byte at an offset of the dump region as the dump lays itself out, where the manual does not fix it (R427; log entry 42). -/
opaque dumpByte {α : Type} : α → Nat → Byte

/-- Length of a recovery stream in host memory, and its byte at an offset, as its record framing makes them (R424; log entry 42). -/
opaque streamLength {α : Type} : α → Nat
opaque streamByte {α : Type} : α → Nat → Byte

/-- How event 4 records which check of an enable failed, by the place of the check in R419 (log entry 16). -/
opaque checkCode : Nat → DWord

/-- Cores of the device (R5). -/
def cores : Nat := 192
/-- Global clusters (R5). -/
def clusters : Nat := 24
/-- Registers of one lane (R26). -/
def laneRegs : Nat := 512
/-- 64-byte sectors of an instruction cache: 64 KiB (R14). -/
def icacheSectors : Nat := 1024
/-- Ways of an L2 set, and sets of a slice: 4 MiB of 512-byte lines (R212). -/
def l2Ways : Nat := 16
def l2Sets : Nat := 512
/-- Leaf and table-pointer entries of a die's translation caches (R366). -/
def tlbLeaves : Nat := 4096
def tlbPointers : Nat := 256
/-- Bytes of a region of the memory region table: 1 GB (R3, R416). -/
def regionBytes : Nat := 1000000000
/-- Scratchpad bytes of a core (R14). -/
def scratchBytes : Nat := 524288
/-- Tile-store slots of a core (R170). -/
def tileSlots : Nat := 256
/-- Accumulator tiles of a core (R185). -/
def accTiles : Nat := 16
/-- Bytes of a die's HBM (R226). -/
def dieBytes : Nat := 96000000000
/-- Deck marks of the skidder (R284). -/
def deckHigh : Nat := 224
def deckLow : Nat := 128
def deckRefill : Nat := 192

end Sys2Proof.Config
end

