-- ==== Sys2Proof/Machine/State.lean ====
section
/-! DEFINITION. The state of the Yelide 960 as plain data: everything spec/04_registers.md (R90, Table 4.1), spec/09_memories.md
(R212, Table 9.1), spec/12_task_queues.md (R281, Table 12.1), spec/15_translation_tables.md (R356, Table 15.1) and
spec/17_counters.md (R396, Table 17.1) give the machine, with what each unit holds while an operation is in progress, and
the state after cold reset (R440). -/
namespace Sys2Proof.Machine

/-- Why a step stops. No run of the machine from a state its own steps build reaches one. -/
inductive Fault where
  /-- Raised by `step` when an issue group in progress names no word of its clause: a state that only a hand-written State
  holds. Safe: the machine stops where the spec describes nothing. -/
  | corruptIssue
  deriving DecidableEq, Repr

/-- Why an instruction has no meaning. -/
inductive Refusal where
  /-- Raised by an arm of `exec` for an instruction the model does not give a meaning yet. Safe: the machine stops. -/
  | notModelled (mnemonic : String)
  deriving DecidableEq, Repr

/-- A memory: cells with rising addresses, none holding zero (what an unlisted address reads as; log entry 2). -/
abbrev Mem := List Host.Cell

/-- A table by number with rising numbers; an unlisted number holds its owner's initial value. -/
abbrev Table (α : Type) := List (Nat × α)

/-! ## Threads -/

/-- A fault as it is taken: its class (Table 18.1), the address it names, its class-specific detail (Table 4.4). -/
structure FaultInfo where
  cls : Nat
  va : DWord := 0
  detail : Nat := 0
  deriving DecidableEq, Repr

/-- Where a thread stands (R32, R37, R54, R107, R162, R293). -/
inductive ThreadStatus where
  /-- Between clauses, or resumed at a word of a clause: may be fetched for and issued. -/
  | ready
  /-- Held at a reconvergence clause, or at a converging instruction whose fault another thread takes (R37, R190). -/
  | held
  /-- A member of an issue group in progress. -/
  | issuing
  /-- Parked on a fault under fault record `seq` of the host fault queue, once written (R414). -/
  | parked (seq : Option Word)
  /-- Faulted while another thread of its group is in a handler (R107): it enters when that thread leaves. -/
  | waitHandler (index : Nat) (f : FaultInfo) (supervisor : Bool)
  /-- Parked at a barrier it has arrived at (R162). -/
  | atBar
  /-- Has executed `exit` (R159). -/
  | exited
  deriving DecidableEq, Repr

/-- One thread (R25, R90). -/
structure Thread where
  idx : Nat
  /-- v0 to v(N-1), N the declared register count. -/
  regs : List Word
  /-- p0 to p6; p7 reads true (Table 4.1). -/
  preds : BitVec 7 := 0
  x : List (BitVec 7) := [0, 0, 0, 0]
  winLo : BitVec 7 := 0
  winHi : BitVec 7
  l0 : DWord := 0
  l1 : DWord := 0
  /-- w0 to w5 (R70). -/
  w : List Nat := [0, 0, 0, 0, 0, 0]
  /-- Operations issued with wait field 7 and not complete: the private counter of R71. -/
  pw : Nat := 0
  /-- The next word: a clause header, or a word of the clause at `hdr` (R56, R35). -/
  pc : DWord
  hdr : DWord
  status : ThreadStatus := .ready
  /-- Barriers bN at which the thread has arrived and which have not opened (R162). -/
  arrived : BitVec 4 := 0
  /-- Its arrivals in clauses it has not finished: barrier and header of the clause (R162). -/
  bars : List (Nat × DWord) := []
  /-- Barriers it is parked at, its clause finished (R162). -/
  parkedOn : BitVec 4 := 0
  inKernel : Bool := false
  inSup : Bool := false
  /-- Header address and n of the clause in which the thread faulted into each handler (R68). -/
  kClause : DWord × Nat := (0, 0)
  sClause : DWord × Nat := (0, 0)
  /-- Poison and engine faults to be taken at a wait, by counter 0 to 5, or 7 for the private one (R262, R276). -/
  deferred : List (Nat × FaultInfo) := []
  /-- Registers that an uncorrectable error poisoned (R233). -/
  poison : BitVec 128 := 0
  /-- When it last became ready, by the order of the model's names: lower is longer ago (R34). -/
  age : Nat := 0
  /-- High half of devtime captured by a `ctlr` of 0x280 (R398). -/
  timeHi : Option Word := none
  /-- The fetched clause the thread waits to issue: header word and instruction words (R62). -/
  clause : Option (Word × List Word) := none
  /-- The VA of a memory-type fault for which the thread is in its kernel handler, and in its supervisor routine: its `ld` and
  `st` to that line are strong (R273). -/
  emulK : Option DWord := none
  emulS : Option DWord := none
  deriving DecidableEq, Repr

/-! ## Task records and kernel descriptors -/

/-- A task record (Table 12.3). -/
structure TaskRecord where
  kdesc : Nat := 0
  kind : Nat := 0
  cls : Nat := 0
  det : Bool := false
  arg : Nat := 0
  part : Nat := 0
  world : Bool := false
  farr : Nat := 0
  depth : Nat := 0
  prec : Nat := 0
  carry : Nat := 0
  gfirst : Nat := 0
  gcount : Nat := 1
  threads : Nat := 1
  regs8 : Nat := 2
  spkib : Nat := 0
  fuse : Bool := false
  slots : Nat := 0
  ztiles : Nat := 0
  pin : Bool := false
  pcore : Nat := 0
  taskid : Nat := 0
  lcores : Nat := 0
  szsel : Nat := 0
  cfut : Nat := 0
  variant : Nat := 0
  /-- Some reserved bit is set: the record is invalid (R287). -/
  rsv : Bool := false
  deriving DecidableEq, Repr

/-- One entry variant (R47, Table 12.4). -/
structure Variant where
  pc : Nat
  bound : Nat
  regs : Nat
  carry : Nat
  valid : Bool
  deriving DecidableEq, Repr

/-- A kernel descriptor (Table 12.4). -/
structure KDesc where
  variants : List Variant := []
  argsz : Nat := 0
  fsz : Nat := 0
  cmax : Nat := 0
  hpcdef : Nat := 0
  segs : List (DWord × DWord) := []
  otab : Nat := 0
  ocount : Nat := 0
  stgE : Nat := 0
  stg : Nat := 0
  ticks : List Nat := []
  rsv : Bool := false
  deriving DecidableEq, Repr

/-! ## Groups -/

/-- An affine register (R96). -/
structure Affine where
  base : DWord := 0
  stride : Word := 0
  deriving DecidableEq, Repr

/-- A segment register (R97). -/
structure Segment where
  base : DWord := 0
  limit : DWord := 0
  deriving DecidableEq, Repr

/-- A matrix register header (Table 7.1). -/
structure MHeader where
  fmt : BitVec 5 := 0
  tr : Bool := false
  rank : BitVec 6 := 0
  sbase : BitVec 8 := 0
  scount : BitVec 9 := 0
  rm : BitVec 3 := 0
  sofs : BitVec 8 := 0
  blog : BitVec 4 := 0
  key : BitVec 16 := 0
  wcount : BitVec 16 := 0
  deriving DecidableEq, Repr

/-- The group-scope control registers that software writes (Table 4.2). -/
structure GroupCtl where
  fpm : Word := 0
  srkey : Word := 0
  srn : Word := 0
  tol : Word := 0x39800000
  mpol : Word := 0
  zbank : Word := 0
  hpc : DWord := 0
  hinfo : Word := 0
  hva : DWord := 0
  svpcr : DWord := 0
  svinfo : Word := 0
  svva : DWord := 0
  deriving DecidableEq, Repr

/-- A sample of a sample-shading group: its grid coordinates and its edge functions (R346, R349). -/
structure Sample where
  i : Nat
  j : Nat
  e0 : Int
  e1 : Int
  e2 : Int
  deriving DecidableEq, Repr

/-- What a sample-shading or tile-reconstruction group knows of its work (R346, R348, R352). -/
structure SampleInfo where
  die : Nat
  part : Nat
  /-- The frame, by the name of its task-stage grid. -/
  frame : Nat
  view : Nat
  strip : Nat
  /-- The tile that launched the group, or the tile it reconstructs. -/
  q : Nat
  key : Word
  /-- Words 0 to 11 of corners 0, 1 and 2. -/
  vwords : List Word
  samples : List Sample
  /-- Tiles whose buffers the samples reach (R350, R352). -/
  reach : List Nat
  deriving DecidableEq, Repr

/-- Graphics identity of a group (chapter 14). -/
inductive GfxInfo where
  | none
  /-- Kind 1: frame number and die (R336). -/
  | task (die : Nat) (fnum : Word)
  /-- Kind 2: the payload slot, the mesh output buffer's place, and whether `mend` has run (R340, R342, R339). -/
  | mesh (cluster slot : Nat) (ended : Bool)
  /-- Kind 3 (R346). -/
  | sample (info : SampleInfo)
  /-- Kind 4 (R352). -/
  | recon (info : SampleInfo)
  deriving DecidableEq, Repr

/-- Where a group stands in its life (R31, R39, R52, R306, R307). -/
inductive GroupRun where
  /-- On a core, with lane registers. -/
  | resident
  /-- Between phases: its continuation is queued, waits on an object or on its children. -/
  | parked
  /-- Evicted under R52: its state is in its pre-emption record. -/
  | preempted
  /-- Every live thread has exited or the group failed; it retires when its pending count is zero (R31). -/
  | exited
  /-- Retired, in a deterministic grid that is not complete: only its place in the grid's steps remains (R250, R256). -/
  | retired
  deriving DecidableEq, Repr

/-- A matrix command in the queue (R181): the group, the instruction, what was decided at issue. -/
structure MCmd where
  gk : Nat
  instr : Instr
  cnt : Nat
  threads : List Nat
  /-- Scratchpad byte offset of the memory operand in the core's scratchpad. -/
  off : Nat := 0
  /-- `mclaim`: the claimed base; `mpol` and `tol` as read at issue (R178, R179). -/
  claim : Option Nat := none
  mpol : Nat := 0
  tol : Word := 0
  /-- Physical accumulator tile named by z (R102). -/
  ztile : Nat := 0
  /-- `mrecomp`, or a recompression of policy 01: the group's next matrix instruction waits for it (R183). -/
  hold : Bool := false
  /-- The poison it met (R184). -/
  fault : Option FaultInfo := none
  deriving DecidableEq, Repr

/-- The wait a group is parked at (Table 13.3). -/
inductive WaitKind where
  | fget | lacq | qput | qget | tktake
  | tkwait (n : Nat)
  /-- `temit` at a full payload ring (R341). -/
  | payload
  deriving DecidableEq, Repr

/-- One group of a grid, from its first dispatch to its retirement. -/
structure Group where
  /-- The model's own name of the group. -/
  gk : Nat
  /-- The grid's name in `State.grids`. -/
  grid : Nat
  gid : Nat
  record : TaskRecord
  kd : KDesc
  run : GroupRun := .resident
  core : Nat
  /-- Group context number 0 to 15: 4 × subcore of its first lane + the place there (R26, R293). -/
  ctx : Nat := 0
  /-- Lane of thread 0 for a group of 32 threads or fewer (R28). -/
  laneBase : Nat := 0
  subBase : Nat := 0
  /-- Declared register count N of the phase (R25). -/
  regCount : Nat := 16
  variant : Nat := 0
  threads : List Thread := []
  affine : List Affine := List.replicate 16 {}
  segs : List Segment := List.replicate 8 {}
  segset : BitVec 3 := 0
  patterns : List (List (BitVec 5)) := []
  barriers : List Nat := [0, 0, 0, 0]
  ctl : GroupCtl := {}
  /-- Frame record VA (R289). -/
  frame : Nat := 0
  /-- Scratchpad allocation: start and KiB; header array start; mesh buffer start (R215, R172, R342). -/
  spBase : Nat := 0
  spKib : Nat := 0
  hdrBase : Option Nat := none
  meshBase : Option Nat := none
  hdrs : List MHeader := []
  /-- Headers as the group's queued commands will leave them (R183). -/
  ihdrs : List MHeader := []
  /-- Physical accumulator tiles, in allocation order (R102). -/
  ztiles : List Nat := []
  /-- Matrix commands kept while the group is pre-empted (R187). -/
  saved : List MCmd := []
  /-- A started matrix command met poison: every later queued one completes with no effect (R184). -/
  mpoison : Bool := false
  /-- A recompression did not fit this register: the next matrix instruction takes the rank-overflow fault (R183, R206). -/
  mover : Option Nat := none
  /-- Waits at `await` for its pending count (R42). -/
  awaiting : Bool := false
  /-- The wait at which its last phase ended, with the object: none when the phase ended at no wait, or the lock is taken (R303, R325). -/
  wait : Option (WaitKind × Nat) := none
  /-- Adoption level, and the class it runs at, during an adopted phase (R46, R303). -/
  adopt : Option (Nat × Nat) := none
  failed : Bool := false
  /-- Listed tickets taken in this step (R256). -/
  taken : List Nat := []
  /-- Order of admission to the core (R300). -/
  admitted : Nat := 0
  /-- Steps the group has ended (R250). -/
  stepsEnded : Nat := 0
  /-- Staging log entries used in the current step (R253). -/
  staged : Nat := 0
  gfx : GfxInfo := .none
  deriving DecidableEq, Repr

/-! ## Issue groups and outstanding operations -/

/-- The control registers and segments of a group as an issue group of it still reads them: another issue group has written
them since the clause began (R98, R104). -/
structure StaleView where
  gk : Nat
  ctl : GroupCtl
  segs : List Segment
  deriving DecidableEq, Repr

/-- An issue group in progress (R32): its members by group and thread index, in ascending subcore and lane. -/
structure Issue where
  core : Nat
  members : List (Nat × Nat)
  hdr : DWord
  /-- The n instruction words of the clause (R62). -/
  words : List Word
  /-- Next word: 0 is the word after the header. -/
  off : Nat := 0
  /-- Instructions already issued in the clause: the next one has index `done + 1` (R58). -/
  done : Nat := 0
  rcv : Bool := false
  /-- A control transfer has set the PCs of these threads (R156). -/
  jumped : List (Nat × Nat) := []
  /-- An engine instruction for which the engine queue had room in part: the members it has issued for, and the faults of those
  (R281). -/
  issued : List (Nat × Nat) := []
  faults : List (Nat × Nat × FaultInfo) := []
  /-- Groups whose control registers and segments it still reads as they were (R104). -/
  stale : List StaleView := []
  deriving DecidableEq, Repr

/-- Attributes of a page (Table 15.2). -/
structure PageAttr where
  r : Bool
  w : Bool
  x : Bool
  u : Bool
  s : Bool
  mtype : Nat
  compr : Bool
  deriving DecidableEq, Repr

/-- Contiguous bytes of one access: virtual and physical address and length. -/
structure Piece where
  va : Nat
  pa : Nat
  len : Nat
  attr : PageAttr
  deriving DecidableEq, Repr

/-- Where an access goes: translated memory of an address space, or the core's scratchpad (R213). -/
inductive Place where
  | mem (asid : Nat) (pieces : List Piece)
  | scratch (off : Nat)
  deriving DecidableEq, Repr

/-- Treatment of a thread's access by a deterministic grid's ownership table (R252). -/
inductive Treat where
  | direct
  | shared
  deriving DecidableEq, Repr

/-- The functions of `eng` (Table 3.8). -/
inductive EngFn where
  | copy | copy2d | gather | scatter | fill | allred | bcast | rtrace | rany | rlaunch | bquery | brefit
  deriving DecidableEq, Repr

/-- An engine operation from its issue to its completion (R275 to R278). -/
structure EngState where
  fn : EngFn
  /-- VA of the command block, argument pair, reply register. -/
  block : DWord
  arg : DWord
  reply : Option Nat := none
  /-- Segments 1 and 4 as they stood at issue. -/
  seg1 : Segment := {}
  seg4 : Segment := {}
  /-- The eight words of the block once read, or the fault of that read. -/
  words : Option (List DWord) := none
  bad : Option FaultInfo := none
  /-- Units of its destination written so far, by address div the unit; whether one carried poison (R277, R239, R234). -/
  done : List Nat := []
  poisoned : Bool := false
  /-- Staged entries of the group before this operation's own, and the 8-byte units its own are reserved for (R253). -/
  start : Nat := 0
  units : List Nat := []
  /-- A participant of a collective round that has arrived: PA of the object and rank (R278). -/
  joined : Option (Nat × Nat) := none
  /-- The line of the tree node it visits, pinned: the node's VA and its PA div 512; whether one was taken from it (R372, R392). -/
  pinned : Option (Nat × Nat) := none
  lost : Bool := false
  deriving DecidableEq, Repr

/-- What a counted operation does when it completes. -/
inductive OpKind where
  /-- A load; `staged` counts the entries that its group had staged when it issued (R252). -/
  | load (place : Place) (d size : Nat) (treat : Treat) (hint staged : Nat)
  | store (place : Place) (data : List Byte) (treat : Treat) (hint : Nat)
  | atomic (place : Place) (am size : Nat) (y cmp : DWord) (ret : Bool) (d : Nat) (treat : Treat)
  | swInit (off : Nat) (target : Word)
  /-- A load or atomic that has been performed: registers it has yet to write (R72). -/
  | reply (vals : List (Nat × Word))
  /-- An arrival of n bytes without data (R271). -/
  | swAdd (off : Nat) (n : Word)
  | swWait (off : Nat) (expect : Word) (d : Nat)
  /-- An engine operation (R275). -/
  | eng (e : EngState)
  | binning (nv np : Nat) (key : BitVec 24)
  /-- An update of a sample's records: the tiles in whose buffers it is done, and whether one was poisoned (R351). -/
  | tcomb (z : Word) (colour : DWord) (done : List Nat) (bad : Bool)
  /-- An entry on its way to the tile hand-off queue of an output, or in it (R354). -/
  | tdone (d : Nat) (pl : Nat) (off : Nat)
  deriving DecidableEq, Repr

/-- A counted operation that has issued and not completed (R70). -/
structure Op where
  id : Nat
  core : Nat
  gk : Nat
  /-- The issuing thread; for a group-scope operation the threads it answers to. -/
  threads : List Nat
  /-- Counter charged: 0 to 5, or 7 for the private one. -/
  cnt : Nat
  /-- Virtual address space, privilege and world of the issuing thread (R275). -/
  asid : Nat
  sup : Bool
  kind : OpKind
  /-- Registers of a reply yet to come that a read has found new, with the value that stands for the new one (R72). -/
  early : List (Nat × Word) := []
  deriving DecidableEq, Repr

/-! ## Caches -/

/-- A 512-byte L1 line (R218): its clean bytes and its dirty bytes by offset in the line. -/
structure L1Line where
  asid : Nat
  line : Nat
  /-- Partition whose key covers the line. -/
  part : Nat
  clean : Table Byte := []
  dirty : Table Byte := []
  attr : PageAttr
  /-- Allocated as the next victim of its set (R220). -/
  next : Bool := false
  /-- Held exclusively for atomics: this L1 is the line's one place (R238, R245). -/
  excl : Bool := false
  deriving DecidableEq, Repr

/-- A valid 64-byte sector of an L2 line (R222). -/
structure L2Sector where
  dirty : Bool := false
  /-- The copy carries poison, whatever HBM holds (R233, R234). -/
  poisoned : Bool := false
  bytes : List Byte
  deriving DecidableEq, Repr

/-- A read-only replica of a line: its slice and way, and the grid it was placed for (R223, R420). -/
structure Replica where
  slice : Nat
  way : Nat
  grid : Nat
  deriving DecidableEq, Repr

/-- A line of an L2 (R222 to R224). -/
structure L2Line where
  /-- PA div 512. -/
  line : Nat
  sectors : Table L2Sector := []
  /-- The line as it came compressed from HBM, by size tag and stream: it serves the sectors that `sectors` does not list (R232). -/
  packed : Option (Nat × List Byte) := none
  /-- Partition that holds the line, for the key of its write-back (R420); its page is compressible (R230). -/
  part : Nat := 0
  compr : Bool := false
  /-- Current slice, 16 × die + slice of the die, and its way of its set there, 0 to 15 (R212, R420). -/
  slice : Nat
  way : Nat := 0
  replicas : List Replica := []
  /-- Slice nearest the last requester, and how many accesses in a row came from there (R224). -/
  near : Nat := 0
  run : Nat := 0
  /-- Engine operations that pin the line (R372). -/
  pins : List Nat := []
  deriving DecidableEq, Repr

/-- An entry of a translation cache (R366). -/
structure TlbEntry where
  /-- Partition whose share of the cache holds it (R421). -/
  part : Nat
  asid : Nat
  /-- Level of the entry, 1 to 5; a leaf of level 1 with `merged` covers 64 KiB (R365). -/
  level : Nat
  leaf : Bool
  merged : Bool
  /-- The VA bits that index down to this level. -/
  vpn : Nat
  pte : DWord
  deriving DecidableEq, Repr

/-- A 64-byte sector of an instruction cache (R63). -/
structure ISector where
  asid : Nat
  sector : Nat
  pa : Nat
  attr : PageAttr
  bytes : List Byte
  deriving DecidableEq, Repr

/-- The write-combining buffer of a core: one 512-byte line (R229). -/
structure Combine where
  die : Nat
  /-- PA div 512. -/
  line : Nat
  part : Nat
  bytes : Table Byte := []
  deriving DecidableEq, Repr

/-! ## Cores, clusters, dies -/

/-- A level of helping on a core (R44, R303): the waiter, the object it waits on, and the adopted group while it runs. -/
structure HelpLevel where
  waiter : Nat
  /-- Another core has adopted the waiter itself, its object being ready: nothing is tested for it when the phase ends (R303). -/
  taken : Bool := false
  kind : WaitKind
  obj : Nat
  part : Nat
  world : Bool
  adopted : Option Nat
  deriving DecidableEq, Repr

/-- One core. -/
structure Core where
  scratch : Mem := []
  tiles : Mem := []
  acc : Mem := []
  /-- Poisoned 64-byte units of scratchpad, tile store and accumulator memory (R233). -/
  scratchPoison : List Nat := []
  tilePoison : List Nat := []
  accPoison : List Nat := []
  l1 : List L1Line := []
  /-- Dirty lines in the order they became dirty: ASID and line (R219). -/
  flume : List (Nat × Nat) := []
  combine : Option Combine := none
  icache : List ISector := []
  /-- Lines, by ASID and number, whose atomics the contention predictor places in this L1 (R245). -/
  predict : List (Nat × Nat) := []
  mqueue : List MCmd := []
  mrun : Option MCmd := none
  /-- The group context whose command started last (R182). -/
  mrr : Nat := 0
  help : List HelpLevel := []
  pc : List Nat := List.replicate 16 0
  deriving DecidableEq, Repr

/-- A record in a deck, a landing or a waiting place, with what its deck slot keeps beside it. -/
structure DeckEntry where
  record : TaskRecord
  grid : Nat
  /-- Age: records of one class are taken oldest first (R50). -/
  seq : Nat
  /-- Deck slot 0 to 255, or landing index (Table 12.10). -/
  slot : Nat := 0
  /-- Of a deterministic grid: this record serves logical cores l with l mod C = c (R296). -/
  split : Option (Nat × Nat) := none
  /-- A continuation's group. -/
  cont : Option Nat := none
  /-- Identity of a sample or reconstruction group to be started (R346, R352). -/
  info : GfxInfo := .none
  /-- Its dispatch failed: it stays where it is and never runs (R48). -/
  failed : Bool := false
  deriving DecidableEq, Repr

/-- A slot of a payload ring (R340). -/
structure PaySlot where
  owner : Option (Nat × Nat) := none
  len : Nat := 0
  data : List Byte := []
  /-- Poisoned 64-byte units (R233). -/
  poison : List Nat := []
  /-- Fill order: larger is newer. -/
  filled : Nat := 0
  reserved : Option Nat := none
  deriving DecidableEq, Repr

/-- One cluster. -/
structure Cluster where
  /-- Decks of classes 0 to 3 (R281). -/
  decks : List (List DeckEntry) := [[], [], [], []]
  /-- Landings: what the hardware keeps of each record in memory, and the ring's next slot (R284). -/
  landings : List (List (Nat × DeckEntry)) := [[], [], [], []]
  landTail : List Nat := [0, 0, 0, 0]
  /-- Records formed by hardware that wait for landing room (R284). -/
  waiting : List (List DeckEntry) := [[], [], [], []]
  resv : Word := 0
  ring : List PaySlot := [{}, {}, {}, {}]
  ringWait : List Nat := []
  /-- Fused grids on the cluster (R221). -/
  fused : List Nat := []
  deriving DecidableEq, Repr

/-- The warp of one axis as latched (R376). -/
structure AxisWarp where
  n0 : Nat
  n1 : Nat
  n2 : Nat
  b1 : Word
  b2 : Word
  s0 : Word
  s1 : Word
  s2 : Word
  deriving DecidableEq, Repr

/-- A view table entry as the front end copies it (Table 16.1). -/
structure ViewEntry where
  mat : List Word := []
  xn : Nat × Nat × Nat := (0, 0, 0)
  xf : Word := 0
  yn : Nat × Nat × Nat := (0, 0, 0)
  yf : Word := 0
  k1 : Word := 0
  k2 : Word := 0
  panel : Nat := 0
  face : Nat := 0
  rtmplVa : Nat := 0
  rtmpl : TaskRecord := {}
  rsv : Bool := false
  deriving DecidableEq, Repr

/-- A view's warp as one strip latched it (R376). -/
structure Latch where
  view : Nat
  strip : Nat
  gaze : Word
  x : AxisWarp
  y : AxisWarp
  jFirst : Nat
  rows : Nat
  deriving DecidableEq, Repr

/-- One tile of an open frame (R347, R352, R355). -/
structure Tile where
  q : Nat
  view : Nat
  strip : Nat
  tx : Nat
  ty : Nat
  core : Nat
  slot : Nat
  assigned : Bool := false
  count : Nat := 0
  enqueued : Bool := false
  /-- none, accepted or late (R355). -/
  accepted : Bool := false
  late : Bool := false
  /-- A `tdone` of it has returned status 1 (R354). -/
  lateDone : Bool := false
  released : Bool := false
  deriving DecidableEq, Repr

/-- A sample group the rasteriser has formed and not launched (R346). -/
structure Launch where
  info : SampleInfo
  seqNo : Nat
  deriving DecidableEq, Repr

/-- Strip timing of an output as captured for a frame (R399). -/
structure Timing where
  fnum : Word
  fbase : Nat
  fper : Nat
  lper : Nat
  k : Nat
  lead : Nat
  h : Nat
  w : Nat
  deriving DecidableEq, Repr

/-- An open frame of a partition on a die's front end (R336). -/
structure Frame where
  /-- Name of the task-stage grid that opened it. -/
  grid : Nat
  part : Nat
  world : Bool
  fnum : Word
  vmask : BitVec 8
  stmpl : TaskRecord
  fhist : List Nat
  bins : Nat
  binkib : Nat
  views : List (Nat × ViewEntry)
  /-- Partition configuration: the pool (R347). -/
  pool : List Nat
  ts : Nat
  geomClosed : Bool := false
  /-- Strips started so far. -/
  started : Nat := 0
  latches : List Latch := []
  /-- Tiles of the strips started so far, in ascending number. -/
  tiles : List Tile := []
  /-- Bin records in use (R345). -/
  binsUsed : Nat := 0
  /-- Sample groups formed and not yet launched, in order. -/
  launches : List Launch := []
  launched : Nat := 0
  /-- Strip timing as captured for each output that an enabled view names (R399). -/
  timing : Table Timing := []
  /-- Strip deadlines of each output that have arrived, or had passed when the frame opened (R402). -/
  deadlines : Table Nat := []
  deriving DecidableEq, Repr

/-- An invalidate command accepted by a die (Table 15.3). -/
structure InvCmd where
  op : Nat
  asid : Nat
  npg : Nat
  start : Nat
  fut : Nat
  core : Option Nat
  deriving DecidableEq, Repr

/-- A translation that the owning die of a VA made for a line of a core's L1, which holds none: where the die performs that line's
write-backs (R358, R366; log entry 55). It matters while the L1 holds the line. -/
structure L1Grant where
  core : Nat
  asid : Nat
  /-- VA div 512, and PA of the line's first byte. -/
  line : Nat
  pa : Nat
  deriving DecidableEq, Repr

/-- One die: L2, translation caches, invalidate queues and windows, front-end frames, error counters. -/
structure Die where
  l2 : List L2Line := []
  tlb : List TlbEntry := []
  /-- Translations made for L1 lines of its quarter of the address space. -/
  grants : List L1Grant := []
  /-- Invalidate queue of each partition (R367). -/
  inv : Table (List InvCmd) := []
  /-- Pieces kept, by partition and writer (R367). -/
  window : List ((Nat × Nat) × List DWord) := []
  /-- Frames of the front end: the open one of each partition, and closed ones whose tiles are not all released. -/
  frames : List Frame := []
  errors : List Nat := [0, 0, 0, 0]
  deriving DecidableEq, Repr

/-! ## Partitions, outputs, grids -/

/-- The partition descriptor as read at enable (R418). -/
structure PartDesc where
  taskTable : Nat
  landing : Nat
  preempt : Nat
  viewTable : Nat
  lockTable : Nat
  invPage : Nat
  m : Nat
  q : Nat
  ts : List Nat
  deriving DecidableEq, Repr

/-- A fault record under which threads are parked (R414): the threads, the record waiting for room if any, and of each group the
`hinfo` and `hva` of its lowest faulting lane, its first fault should it be killed (R413). -/
structure FaultRec where
  seq : Option Word
  words : List DWord
  members : List (Nat × Nat)
  firsts : List (Nat × Word × DWord) := []
  deriving DecidableEq, Repr

/-- One partition's registers (Tables 18.2 and 18.4) and hardware state. -/
structure Partition where
  pclust : Word := 0
  pctl : Word := 0
  pways : Word := 0
  pbw : Word := 0
  proot : DWord := 0
  pasid : Word := 0
  psroot : DWord := 0
  pdesc : DWord := 0
  pkeyst : Word := 0
  pswld : Word := 0
  route0 : Word := 0xA9AAAAA8
  route1 : Word := 0x000000AA
  fqbase : DWord := 0
  qsize : Word := 0
  fqtail : Word := 0
  fqhead : Word := 0
  evbase : DWord := 0
  evtail : Word := 0
  evhead : Word := 0
  svpc : DWord := 0
  desc : Option PartDesc := none
  /-- What the partition's cores count where its supervisor has chosen: counter number and selection (R405). -/
  pcsel : Table Word := []
  parked : List FaultRec := []
  measure : List (BitVec 256) := [0, 0, 0, 0]
  dropped : Nat := 0
  writeLog : List Nat := []
  logOverflow : Bool := false
  deriving DecidableEq, Repr

/-- Frame history of an output: VA, partition and world of the frame block that gave it (Table 14.1). -/
structure Hist where
  va : Nat
  part : Nat
  world : Bool
  deriving DecidableEq, Repr

/-- What an output has captured for a frame number: its strip timing when the first frame of the number opened (R399), the history of a
frame of the number that opened by D(f, 0) (R435), and whether that time had passed then or the frame's scan-out has begun. -/
structure Capture where
  timing : Timing
  hist : Option Hist := none
  begun : Bool := false
  deriving DecidableEq, Repr

/-- Scan-out of a frame in progress (R435): its timing, the next row, and whether the frame had opened. -/
structure Scan where
  timing : Timing
  row : Nat := 0
  opened : Bool
  deriving DecidableEq, Repr

/-- One display output (Tables 17.2 and 19.4). -/
structure Output where
  fbase : DWord := 0
  fper : Word := 0
  lper : Word := 0
  kstrip : Word := 1
  lead : Word := 0
  fcur : Word := 0
  dmode : Word := 0
  dsize : Word := 0
  downer : Word := 0
  late : Nat := 0
  stale : Nat := 0
  scanned : Nat := 0
  scan : Option Scan := none
  /-- The frame whose scan-out comes next. -/
  nextFrame : Nat := 0
  captures : List Capture := []
  /-- The history that the last frame opened on the output named. -/
  hist : Option Hist := none
  /-- The tile hand-off queue: the `tdone` operations whose entry has reached it, each with the status it found (R354). -/
  handoff : List (Nat × Nat) := []
  /-- Rows sent to the panel: frame, row, words. -/
  sent : List (Nat × Nat × List Word) := []
  deriving DecidableEq, Repr

/-- An entry of an ownership table as read (Table 10.2). -/
structure OwnEntry where
  sharedLine : Bool
  line : Nat
  obase : Nat
  lpo : Nat
  count : Nat
  deriving DecidableEq, Repr

/-- A grid that has been accepted and is not complete: what the hardware follows of it beside its grid record. -/
structure Grid where
  id : Nat
  record : TaskRecord
  /-- Identifier of its first group and number of its groups. -/
  gfirst0 : Nat
  total : Nat
  parent : Nat
  hostLaunched : Bool
  cluster : Nat
  /-- Its task-table entry records it (R302). -/
  recorded : Bool := false
  /-- Ownership table, once read; staging area; listed tickets (R251, R253, R256). -/
  table : Option (List OwnEntry) := none
  stg : Nat := 0
  stgE : Nat := 0
  ticks : List Nat := []
  /-- Groups started so far, and steps committed. -/
  started : Nat := 0
  commits : Nat := 0
  /-- Groups not yet retired, and whether one has failed, as the hardware follows them beside the grid record (R291). -/
  remain : Nat
  failed : Bool := false
  /-- A dispatch-time check failed: its unstarted groups never run (R306). -/
  failedAtDispatch : Bool := false
  paySlot : Option (Nat × Nat) := none
  deriving DecidableEq, Repr

/-- A group parked on an object (R314): in the order of the list, oldest first. -/
structure Waiter where
  gk : Nat
  kind : WaitKind
  obj : Nat
  part : Nat
  world : Bool
  deriving DecidableEq, Repr

/-- A region of the memory region table: die, index of the 10^9 bytes it covers (R3), partition (none above 7), secure (R416,
Table 15.1). -/
structure Region where
  die : Nat
  gb : Nat
  part : Nat
  secure : Bool
  deriving DecidableEq, Repr

/-- A sector of a recovery stream (R424): PA div 64, its poison mark, its bytes with the partition and key generation that wrote
them, and the size tag of its line. -/
structure StreamSector where
  sector : Nat
  poisoned : Bool
  bytes : List Byte
  tag : Option (Nat × Nat)
  size : Option Nat
  deriving DecidableEq, Repr

/-- A recovery stream held by the host: partition, key generation, sectors (R424). -/
structure Stream where
  part : Nat
  gen : Nat
  /-- The host address that the command named, and the regions of the partition whose sectors it holds. -/
  addr : DWord := 0
  ranges : List Region := []
  sectors : List StreamSector
  deriving DecidableEq, Repr

/-- What the device has sent to the host (R429, R433, R423 to R425). -/
inductive HostOut where
  | data (bytes : List Byte)
  | poison
  | error
  /-- A line that stays compressed over the link: its size tag and its stream (R232). -/
  | packed (tag : Nat) (stream : List Byte)
  | register (val : Word)
  | counter (val : DWord)
  | capability (word : DWord)
  | report (bytes : List Byte)
  | stream (s : Stream)
  | writeLog (pages : List Nat) (overflow : Bool)
  /-- Whether verified firmware runs, and the modules that failed training, by die (R422, R428). -/
  | bootStatus (ok : Bool) (down : List Nat)
  | fatal
  deriving DecidableEq, Repr

/-- A firmware image in the boot window: the public key, the image, its signature, its version (R422). -/
structure BootImage where
  key : List Byte
  image : List Byte
  signature : List Byte
  version : Nat
  deriving DecidableEq, Repr

/-- The dump of a device-fatal error (R427), section by section: its bytes are a function of this (log entry 42). -/
structure Dump where
  cause : Nat
  time : Nat
  further : Nat
  groups : List Group
  cores : Table Core
  /-- The ck count of every core (R404). -/
  ck : Nat := 0
  clusters : Table Cluster
  dies : Table Die
  partitions : Table Partition
  outputs : Table Output
  grids : List Grid
  /-- The first failure that each grid's record holds, by grid: group and `hinfo` (R291). -/
  firsts : List (Nat × Nat × Nat) := []
  /-- The engine operations outstanding, and the device-scope registers outside the partitions, the outputs and the dies. -/
  ops : List Op := []
  device : List Word := []
  deriving DecidableEq, Repr

/-- A host range of the memory region table: host addresses from `first` up to `last`, partition, secure (Table 15.1, R363). -/
structure HostRange where
  first : Nat
  last : Nat
  part : Nat
  secure : Bool
  deriving DecidableEq, Repr

/-- A block of the device that the block security table marks or not (R416): the six that are always secure, and the others by
number. -/
inductive Block where
  | rootController | bootRom | keyStore | fuses | dumpRegion | measurement
  | other (n : Nat)
  deriving DecidableEq, Repr

/-- An input of the outside world or a choice of timing that the manual leaves open, as the agenda gives them. -/
inductive Action where
  /-- Run the next instruction of the k-th issue group in progress. -/
  | run (k : Nat)
  /-- The event or instruction of a row of the opcode table happens now. -/
  | event (i : Instr)
  /-- n ck go by, in D3 n nanoseconds: the reference clock and the arithmetic clock advance together (R4, R16, R398). -/
  | time (n : Nat)
  /-- The junction temperature and the measured power change (R439). -/
  | sense (celsius watts : Nat)
  /-- The contention predictor places the atomics of a core on a line in its L1, or at home again (R245). -/
  | predict (core asid line : Nat) (inL1 : Bool)
  /-- An L1 line is evicted (R219). -/
  | evictL1 (core asid line : Nat)
  /-- An L2 line is written back and dropped (R222). -/
  | evictL2 (die line : Nat)
  /-- A translation cache entry, an instruction-cache sector is dropped (R366, R63). -/
  | dropTlb (die index : Nat)
  | dropIcache (core asid sector : Nat)
  /-- An uncorrectable error poisons 64 bytes of a memory, or a lane register (R233). -/
  | poisonMem (pa : Nat)
  | poisonScratch (core unit : Nat)
  | poisonTile (core unit : Nat)
  | poisonAcc (core unit : Nat)
  | poisonPay (cluster slot unit : Nat)
  /-- An uncorrectable error in 64 bytes of an L1 or an L2 line: a clean copy goes, dirty bytes poison their sector (R233). -/
  | poisonL1 (core asid line sector : Nat)
  | poisonL2 (die line sector : Nat)
  | poisonReg (gk tid reg : Nat)
  /-- An uncorrectable error in a store of the Fatal row of Table 9.6. -/
  | poisonFatal
  /-- A corrected error in SRAM or HBM of a die (R233). -/
  | corrected (die : Nat) (hbm : Bool)
  /-- A register that an operation will write shows the new value now (R72). -/
  | replyOne (op reg : Nat)
  /-- The n-th aligned 8 bytes of a wider store are performed before the others (R239). -/
  | storeUnit (op n : Nat)
  /-- A piece of an engine operation is written (R243, R277, R395). -/
  | enginePiece (op piece : Nat)
  /-- A cruiser visits the n-th node of an operation's traversal and pins its line (R372, R392). -/
  | pinNode (op n : Nat)
  /-- The entry of a `tdone` reaches the tile hand-off queue (R354). -/
  | handOff (op : Nat)
  /-- The host reads `size` bytes of its register space, or writes its own memory (R430, R227). -/
  | hostRead (offset size : Nat)
  /-- The host reads counter `n` of Table 17.4, of a core and of a partition where the counter is theirs (R404). -/
  | hostCounter (n core part : Nat)
  /-- The host reads bytes of the dump region after a fatal error (R228, R426). -/
  | hostDumpRead (offset n : Nat)
  | hostOwnWrite (pa : Nat) (data : List Byte)
  /-- The host places a firmware image in the boot window (R422). -/
  | hostBootImage (image : BootImage)
  /-- Whether the UCIe module of a die will train at the next bring-up (R428). -/
  | moduleTrains (die : Nat) (ok : Bool)
  /-- Firmware sets its tables: a region's owner and security, a block's security, the dump region (R416, R228). -/
  | firmwareRegion (die gb part : Nat) (secure : Bool)
  | firmwareHostRange (first last part : Nat) (secure : Bool)
  | firmwareBlock (b : Block) (secure : Bool)
  | firmwareDump (first n : Nat)
  /-- Firmware writes a device-scope register: it alone writes `psroot` and `pswld` (R417). -/
  | firmwareReg (n : Nat) (val : Word)
  deriving DecidableEq, Repr

/-- The whole device. -/
structure State where
  /-- What happens next, outside the program's own order (model; see Step.lean). -/
  agenda : List Action := []
  /-- Free values used so far (model; log entry 1). -/
  fresh : Nat := 0
  /-- Names given so far to groups, grids, operations and ages (model). -/
  names : Nat := 0
  issues : List Issue := []
  ops : List Op := []
  groups : List Group := []
  grids : List Grid := []
  waiters : List Waiter := []
  cores : Table Core := []
  clusters : Table Cluster := []
  dies : Table Die := []
  partitions : Table Partition := []
  outputs : Table Output := []
  /-- HBM of the four dies and host memory, by physical address (Table 9.4). -/
  mem : Mem := []
  /-- Poisoned 64-byte sectors of HBM and host memory, by PA div 64 (R233). -/
  poison : List Nat := []
  /-- Sectors of HBM by the partition and the key state (`pkeyst`) that wrote them (R420). -/
  sealed : Table (Nat × Nat) := []
  /-- Size tags of lines of compressible pages as they were written back, by PA div 512: under 7, `mem` holds the line's stream
  in its first tag + 1 sectors (R230, R231). -/
  sizeTags : Table Nat := []
  regions : List Region := []
  hostRanges : List HostRange := []
  /-- Blocks that the block security table marks secure (R416). -/
  secureBlocks : List Block := [.rootController, .bootRom, .keyStore, .fuses, .dumpRegion, .measurement]
  /-- The dump region: offset in die 0's HBM and length, once firmware has set it (R228). -/
  dumpRegion : Option (Nat × Nat) := none
  l2place : Word := 0x00000083
  gaze : List Word := List.replicate 8 0
  /-- The gaze registers as they stood before any write of the current ck (R376). -/
  gazeOld : List Word := List.replicate 8 0
  pcsel : List Word := List.replicate 16 0
  pstate : Word := 0
  cgate : Word := 0
  cgated : Word := 0
  pcap : Word := 1800
  pmeas : Word := 0
  /-- While the measured power exceeds the cap, when event 7 is next recorded, by `devtime` (R439). -/
  capNext : Option Nat := none
  therm : Word := 0
  devtime : Nat := 0
  /-- Cycles of the arithmetic clock: the ck count of every core (R404). -/
  ck : Nat := 0
  /-- What `devtime` does not show of the time gone by, in 24ths of a nanosecond (R4, R16). -/
  part24 : Nat := 0
  hostCap : DWord := 0
  hostCapRead : Bool := false
  /-- The boot window, and the image that runs: none for the one that State.reset stands for (R422; log entry 9). -/
  bootWindow : Option BootImage := none
  running : Option BootImage := none
  /-- Dies whose UCIe module does not train, and those whose module is down since the last bring-up (R428). -/
  untrained : List Nat := []
  modulesDown : List Nat := []
  booted : Bool := true
  fatal : Bool := false
  dump : Option Dump := none
  hostOut : List HostOut := []
  streams : List Stream := []
  deriving DecidableEq, Repr

/-- What a meaning answers. -/
abbrev Res := Host.Outcome State Fault Refusal

/-- The device after cold reset (R440): every register at its reset value, no group resident, nothing in memory. -/
def State.reset : State := {}

end Sys2Proof.Machine
end

