-- ==== Sys2Proof/Machine/Bytes.lean ====
section
/-! DEFINITION. Bytes, tables and canonical memories: the plain operations on the data State holds (R2, R113). -/
namespace Sys2Proof.Machine

/-- The entry of a table, or the value an unlisted number has. -/
def tget {α : Type} (t : Table α) (d : α) (k : Nat) : α :=
  match t with
  | [] => d
  | (i, v) :: r => if i = k then v else tget r d k

/-- The entry of a table, if listed. -/
def tfind {α : Type} (t : Table α) (k : Nat) : Option α :=
  match t with
  | [] => none
  | (i, v) :: r => if i = k then some v else tfind r k

/-- The table with an entry written, numbers rising. -/
def tset {α : Type} (t : Table α) (k : Nat) (v : α) : Table α :=
  match t with
  | [] => [(k, v)]
  | (i, w) :: r => if k < i then (k, v) :: (i, w) :: r else if i = k then (k, v) :: r else (i, w) :: tset r k v

/-- The table without an entry. -/
def tdel {α : Type} (t : Table α) (k : Nat) : Table α := t.filter fun e => e.1 != k

/-- A byte of a memory; an unlisted address reads zero (log entry 2). -/
def memGet (m : Mem) (a : Nat) : Byte :=
  match m with
  | [] => 0
  | (i, v) :: r => if i = a then v else memGet r a

/-- The memory with one byte written, in canonical form. -/
def memSet (m : Mem) (a : Nat) (b : Byte) : Mem :=
  match m with
  | [] => if b = 0 then [] else [(a, b)]
  | (i, v) :: r =>
    if a < i then (if b = 0 then (i, v) :: r else (a, b) :: (i, v) :: r)
    else if i = a then (if b = 0 then r else (a, b) :: r)
    else (i, v) :: memSet r a b

/-- n bytes from an address upwards. -/
def memRead (m : Mem) (a : Nat) : Nat → List Byte
  | 0 => []
  | n + 1 => memGet m a :: memRead m (a + 1) n

/-- Bytes written from an address upwards. -/
def memWrite (m : Mem) (a : Nat) : List Byte → Mem
  | [] => m
  | b :: bs => memWrite (memSet m a b) (a + 1) bs

/-- A memory with every byte of a range zero. -/
def memClear (m : Mem) (a n : Nat) : Mem := m.filter fun c => c.1 < a || c.1 ≥ a + n

/-- Little-endian value of bytes (R2). -/
def leNat : List Byte → Nat
  | [] => 0
  | b :: bs => b.toNat + 256 * leNat bs

/-- The low n bytes of a number, little-endian. -/
def leBytes (v : Nat) : Nat → List Byte
  | 0 => []
  | n + 1 => BitVec.ofNat 8 v :: leBytes (v / 256) n

/-- A field of a number: bits [lo + n − 1 : lo]. -/
def field (v lo n : Nat) : Nat := v / 2 ^ lo % 2 ^ n

/-- Bit lo of a number. -/
def bitOf (v lo : Nat) : Bool := v / 2 ^ lo % 2 == 1

/-- The canonical form of a memory: addresses strictly rising, no listed zero. -/
def memWf : Mem → Bool
  | [] => true
  | [(_, v)] => v != 0
  | (a, v) :: (b, w) :: r => v != 0 && decide (a < b) && memWf ((b, w) :: r)

/-- The canonical form of a memory (R212), as the laws use it. -/
abbrev Memory.wf (m : Mem) : Bool := memWf m

/-- Bytes of a list at an offset replaced. -/
def splice (bs : List Byte) (off : Nat) (new : List Byte) : List Byte :=
  bs.take off ++ new ++ bs.drop (off + new.length)

/-- The first element of a list that satisfies a test, replaced by its update; the others unchanged. -/
def updFirst {α : Type} (p : α → Bool) (f : α → α) : List α → List α
  | [] => []
  | x :: r => if p x then f x :: r else x :: updFirst p f r

/-- Put an element into a list sorted by a measure, after the equal ones. -/
def insertBy {α : Type} (f : α → Nat) (x : α) : List α → List α
  | [] => [x]
  | y :: r => if f x < f y then x :: y :: r else y :: insertBy f x r

/-- A list in ascending order of a measure; equal ones keep their order. -/
def sortBy {α : Type} (f : α → Nat) (l : List α) : List α := l.foldl (fun acc x => insertBy f x acc) []

/-- Values of a list listed with their positions from i upwards. -/
def enumFrom {α : Type} (i : Nat) : List α → List (Nat × α)
  | [] => []
  | x :: r => (i, x) :: enumFrom (i + 1) r

/-- Split n bytes at va at every multiple of u: address and length of each part, in ascending address. -/
def splitAt (u va : Nat) : Nat → Nat → List (Nat × Nat)
  | 0, _ => []
  | fuel + 1, n =>
    if n = 0 then []
    else
      let k := min n (u - va % u)
      (va, k) :: splitAt u (va + k) fuel (n - k)

/-- Split at 64-byte units. -/
def splitSectors (va n : Nat) : List (Nat × Nat) := splitAt 64 va (n / 64 + 2) n

/-- Parts of a byte list of the given lengths. -/
def takeParts (parts : List (Nat × Nat)) (bs : List Byte) : List (Nat × List Byte) :=
  match parts with
  | [] => []
  | (va, k) :: r => (va, bs.take k) :: takeParts r (bs.drop k)

end Sys2Proof.Machine
end

