-- ==== Sys2Proof/Machine/Compress.lean ====
section
/-! DEFINITION. The line compression of spec/09_memories.md: its encoder (R230) and its decoder (R231). -/
namespace Sys2Proof.Machine

/-! ## Encoder (R230) -/

/-- The words of a line. -/
def lineWords (bs : List Byte) : Nat → List Nat
  | 0 => []
  | n + 1 => leNat (bs.take 4) :: lineWords (bs.drop 4) n

/-- d[1] to d[127]. -/
def deltas : List Nat → List Nat
  | a :: b :: r => ((b + 2 ^ 32 - a) % 2 ^ 32) :: deltas (b :: r)
  | _ => []

/-- P[b]: bit b of each delta. -/
def plane (ds : List Nat) (b : Nat) : List Bool := ds.map fun d => bitOf d b

/-- Q[31], …, Q[0]. -/
def planes (ds : List Nat) : List (List Bool) :=
  (List.range 32).map fun i =>
    let b := 31 - i
    if b = 31 then plane ds 31 else List.zipWith xor (plane ds b) (plane ds (b + 1))

/-- The bits that R230 emits after d[0], for planes from Q[b] down; `skip` zero planes are already covered. -/
def emitPlanes : List (List Bool) → Nat → List Bool
  | [], _ => []
  | q :: r, skip =>
    if skip > 0 then emitPlanes r (skip - 1)
    else if (q :: r).all (fun p => p.all fun b => !b) then [false, false]
    else if q.all (fun b => !b) then
      let m := 1 + (r.takeWhile fun p => p.all fun b => !b).length
      [false, true] ++ ((List.range 5).map fun i => bitOf (m - 1) (4 - i)) ++ emitPlanes r (m - 1)
    else true :: q ++ emitPlanes r 0

/-- The bit stream of a line (R230). -/
def compressLine (bs : List Byte) : List Bool :=
  let w := lineWords bs 128
  ((List.range 32).map fun i => bitOf (w.headD 0) i) ++ emitPlanes (planes (deltas w)) 0

/-- The size tag of a stream of n bits: sectors less one of a compressed line, 7 of a raw one (R230). -/
def tagOf (n : Nat) : Nat := if (n + 511) / 512 ≤ 7 then (n + 511) / 512 - 1 else 7

/-- The size tag of a line (R230). -/
def sizeTag (bs : List Byte) : Nat := tagOf (compressLine bs).length

/-- The value of bits, the first the lowest. -/
def bitsNat : List Bool → Nat
  | [] => 0
  | b :: r => b.toNat + 2 * bitsNat r

/-- Bits packed into bytes, bit s of the stream in bit s mod 8 of byte s div 8. -/
def packBits : Nat → List Bool → List Byte
  | 0, _ => []
  | _ + 1, [] => []
  | fuel + 1, b => BitVec.ofNat 8 (bitsNat (b.take 8)) :: packBits fuel (b.drop 8)

/-- The bytes of a line as HBM stores them under its tag: the compressed stream padded to whole sectors, or the line (R230). -/
def storedLine (tag : Nat) (bs : List Byte) : List Byte :=
  if tag = 7 then bs
  else
    let b := packBits 512 (compressLine bs)
    b ++ List.replicate (64 * (tag + 1) - b.length) 0

/-! ## Decoder (R231) -/

/-- The value of bits, the first the highest. -/
def bitsBig (b : List Bool) : Nat := b.foldl (fun n x => 2 * n + x.toNat) 0

/-- The planes that a stream gives from Q[n - 1] down, with the bits it leaves; none when they are not exactly n. -/
def readPlanes : Nat → Nat → List Bool → Option (List (List Bool) × List Bool)
  | 0, _, _ => none
  | _ + 1, 0, bits => some ([], bits)
  | fuel + 1, n + 1, bits =>
    let zeros (k : Nat) : List (List Bool) := List.replicate k (List.replicate 127 false)
    match bits with
    | false :: false :: r => some (zeros (n + 1), r)
    | false :: true :: r =>
      let m := bitsBig (r.take 5) + 1
      if r.length < 5 || m > n + 1 then none
      else (readPlanes fuel (n + 1 - m) (r.drop 5)).map fun x => (zeros m ++ x.1, x.2)
    | true :: r =>
      if r.length < 127 then none else (readPlanes fuel n (r.drop 127)).map fun x => (r.take 127 :: x.1, x.2)
    | _ => none

/-- P[31], …, P[0] from Q[31], …, Q[0]: each is its Q exclusive-or the P above it. -/
def undoPlanes : List Bool → List (List Bool) → List (List Bool)
  | _, [] => []
  | above, q :: r =>
    let p := List.zipWith xor q above
    p :: undoPlanes p r

/-- Column k of planes, the first of them the highest bit: d[k + 1]. -/
def deltaAt (ps : List (List Bool)) (k : Nat) : Nat := bitsBig (ps.map fun p => p.getD k false)

/-- w[0], w[1], … from w[0] and the deltas. -/
def sumWords (w : Nat) : List Nat → List Nat
  | [] => [w]
  | d :: r => w :: sumWords ((w + d) % 2 ^ 32) r

/-- The line that stored sectors hold under a size tag: none when they do not decode to exactly 32 planes, or when the tag is not
the stream's (R231). -/
def decodeLine (tag : Nat) (bs : List Byte) : Option (List Byte) :=
  let bits := bs.flatMap fun b => (List.range 8).map fun i => b.getLsbD i
  match readPlanes 33 32 (bits.drop 32) with
  | none => none
  | some (qs, rest) =>
    if tagOf (bits.length - rest.length) != tag then none
    else
      let ps := undoPlanes (List.replicate 127 false) qs
      some ((sumWords (bitsNat (bits.take 32)) ((List.range 127).map (deltaAt ps))).flatMap fun w => leBytes w 4)

end Sys2Proof.Machine
end

