-- ==== Sys2Proof/Machine/Mem.lean ====
section
/-! DEFINITION. HBM, L2, translation, L1 and scratchpad (spec/09_memories.md, spec/15_translation_tables.md): the one place where
a byte of memory is read or written. -/
namespace Sys2Proof.Machine

/-! ## Units by number -/

/-- A core of the state. -/
def coreOf (s : State) (c : Nat) : Core := tget s.cores {} c
/-- The state with a core updated. -/
def modCore (s : State) (c : Nat) (f : Core → Core) : State := { s with cores := tset s.cores c (f (coreOf s c)) }
/-- A cluster of the state. -/
def clusterOf (s : State) (g : Nat) : Cluster := tget s.clusters {} g
/-- The state with a cluster updated. -/
def modCluster (s : State) (g : Nat) (f : Cluster → Cluster) : State :=
  { s with clusters := tset s.clusters g (f (clusterOf s g)) }
/-- A die of the state. -/
def dieOf (s : State) (d : Nat) : Die := tget s.dies {} d
/-- The state with a die updated. -/
def modDie (s : State) (d : Nat) (f : Die → Die) : State := { s with dies := tset s.dies d (f (dieOf s d)) }
/-- A partition of the state. -/
def partOf (s : State) (p : Nat) : Partition := tget s.partitions {} p
/-- The state with a partition updated. -/
def modPart (s : State) (p : Nat) (f : Partition → Partition) : State :=
  { s with partitions := tset s.partitions p (f (partOf s p)) }
/-- A display output of the state. -/
def outOf (s : State) (o : Nat) : Output := tget s.outputs {} o
/-- The state with an output updated. -/
def modOut (s : State) (o : Nat) (f : Output → Output) : State := { s with outputs := tset s.outputs o (f (outOf s o)) }

/-- Cluster of a core, die of a core, core-in-cluster number (R5). -/
def clusterOfCore (c : Nat) : Nat := c / 8
def dieOfCore (c : Nat) : Nat := c / 48

/-- The state with n free values used. -/
def useFresh (s : State) (n : Nat) : State := { s with fresh := s.fresh + n }

/-- n free bytes from a counter value (log entry 1). -/
def freeBytes (k : Nat) : Nat → List Byte
  | 0 => []
  | n + 1 => Config.freeByte k :: freeBytes (k + 1) n

/-! ## Access contexts -/

/-- On whose behalf an access is made: partition, world, supervisor privilege, and the core whose L1 it may use; `hw` for the
hardware's own and the host's accesses, which no core makes. -/
structure Ctx where
  part : Nat
  sec : Bool := false
  sup : Bool := false
  core : Nat := 0
  hw : Bool := false
  deriving DecidableEq, Repr

/-- Kinds of access, as fault detail [26:25] numbers them (R362). -/
inductive Acc where
  | r | w | rw | x
  deriving DecidableEq, Repr

/-- The number of an access kind in the detail field. -/
def accCode : Acc → Nat
  | .r => 0
  | .w => 1
  | .rw => 2
  | .x => 3

/-- Fault classes (Table 18.1). -/
def fcIllegalInstr : Nat := 1
def fcIllegalClause : Nat := 2
def fcRegIndex : Nat := 3
def fcNonUniform : Nat := 4
def fcMisaligned : Nat := 5
def fcAddress : Nat := 6
def fcSegLimit : Nat := 7
def fcNotPresent : Nat := 8
def fcPermission : Nat := 9
def fcReservedBit : Nat := 10
def fcOwnership : Nat := 11
def fcMemType : Nat := 12
def fcRankOverflow : Nat := 13
def fcTileOccupancy : Nat := 14
def fcFrameDepth : Nat := 15
def fcRecord : Nat := 16
def fcPoison : Nat := 17
def fcPartition : Nat := 18
def fcWorld : Nat := 19
def fcBreakpoint : Nat := 20
def fcTrap : Nat := 21

/-- ASID of a partition's world (R357). -/
def asidOf (s : State) (part : Nat) (sec : Bool) : Nat :=
  let a := (partOf s part).pasid.toNat
  if sec then a / 65536 else a % 65536

/-- Root PA of a partition's world (R357). -/
def rootOf (s : State) (part : Nat) (sec : Bool) : Nat :=
  let p := partOf s part
  (if sec then p.psroot else p.proot).toNat

/-! ## HBM and host memory -/

/-- A PA of host memory (Table 9.4). -/
def isHost (pa : Nat) : Bool := bitOf pa 51

/-- R226: a PA that a translation of die d's quarter may give. -/
def paAllowed (d pa : Nat) : Bool :=
  isHost pa || (pa < 2 ^ 39 && pa / 2 ^ 37 == d && pa % 2 ^ 37 < Config.dieBytes)

/-- Key generation of a partition (Table 18.4 `pkeyst`). -/
def keyGen (s : State) (part : Nat) : Nat := (partOf s part).pkeyst.toNat / 2

/-- The key state under which a partition reads and writes HBM now: its generation and whether its key is loaded (R419, R420). -/
def keyState (s : State) (part : Nat) : Nat := (partOf s part).pkeyst.toNat

/-- A sector as a partition reads it that another partition or key state wrote (R420; log entry 1). -/
def foreignSector (tag now : Nat × Nat) (sec : Nat) (bs : List Byte) : List Byte :=
  (List.range 64).map (Config.foreignByte tag.1 tag.2 now.1 now.2 sec bs)

/-- The 64 bytes stored for a sector of HBM or host memory, as a partition decrypts them (R420). -/
def storedSector (s : State) (part sec : Nat) : List Byte :=
  let bs := memRead s.mem (64 * sec) 64
  match tfind s.sealed sec with
  | some tag => if isHost (64 * sec) || tag = (part, keyState s part) then bs else foreignSector tag (part, keyState s part) sec bs
  | none => bs

/-- Note a page of host memory that a partition writes in its write log (R425). -/
def logHostWrite (s : State) (part pa : Nat) : State :=
  if !(isHost pa) then s
  else
    modPart s part fun p =>
      if p.writeLog.contains (pa / 4096) then p
      else if p.writeLog.length ≥ 65536 then { p with logOverflow := true }
      else { p with writeLog := p.writeLog ++ [pa / 4096] }

/-- The 64 bytes stored for a sector, under a partition's key in HBM (R420, R425). -/
def storeSector (s : State) (part sec : Nat) (bs : List Byte) : State :=
  let s := logHostWrite s part (64 * sec)
  { s with
    mem := memWrite s.mem (64 * sec) bs
    sealed := if isHost (64 * sec) then s.sealed else tset s.sealed sec (part, keyState s part) }

/-- Sectors stored from a number upwards. -/
def storeSectors (s : State) (part sec : Nat) : Nat → List Byte → State
  | 0, _ => s
  | n + 1, bs => storeSectors (storeSector s part sec (bs.take 64)) part (sec + 1) n (bs.drop 64)

/-- The poison of a sector of HBM or host memory is set or cleared (R233, R234). -/
def markPoison (s : State) (sec : Nat) (bad : Bool) : State :=
  if bad then (if s.poison.contains sec then s else { s with poison := sec :: s.poison })
  else if s.poison.contains sec then { s with poison := s.poison.filter (· != sec) }
  else s

/-- An error of a die is counted: 0 and 1 corrected and uncorrectable of SRAM, 2 and 3 of HBM (Table 17.4). -/
def countError (s : State) (die k : Nat) : State :=
  modDie s die fun d => { d with errors := d.errors.set k ((d.errors.getD k 0 + 1) % 2 ^ 64) }

/-! ## Lines as HBM stores them (R230, R231) -/

/-- The size tag of a line that HBM stores compressed. -/
def packedTag (s : State) (line : Nat) : Option Nat := (tfind s.sizeTags line).filter fun t => t != 7

/-- The size tag of a compressed line that a partition wrote under its present key: to any other reader its sectors hold unspecified
bytes, no stream (R420). -/
def ownTag (s : State) (part line : Nat) : Option Nat :=
  if tfind s.sealed (8 * line) = some (part, keyState s part) then packedTag s line else none

/-- The bytes of a compressed line: none when its stream does not decode. -/
def unpackLine (s : State) (part line tag : Nat) : Option (List Byte) :=
  decodeLine tag ((List.range (tag + 1)).flatMap fun k => storedSector s part (8 * line + k))

/-- An uncorrectable error of a whole line: its eight sectors are poisoned (R231, R235). -/
def poisonLine (s : State) (line : Nat) : State :=
  let s := (List.range 8).foldl (fun s k => markPoison s (8 * line + k) true) { s with sizeTags := tdel s.sizeTags line }
  countError s (line / 2 ^ 28) 3

/-- A line about to be read: one whose stream does not decode takes the error (R231). -/
def checkLine (s : State) (part line : Nat) : State :=
  match ownTag s part line with
  | none => s
  | some t => if (unpackLine s part line t).isSome then s else poisonLine s line

/-- The 64 bytes of a sector of HBM or host memory as a partition reads them, and whether they are poisoned. -/
def sectorBytes (s : State) (part sec : Nat) : State × L2Sector :=
  let s := checkLine s part (sec / 8)
  let bs := match ownTag s part (sec / 8) with
    | some t => (((unpackLine s part (sec / 8) t).getD []).drop (64 * (sec % 8))).take 64
    | none => storedSector s part sec
  (s, { bytes := bs, poisoned := s.poison.contains sec })

/-- A compressed line expanded to its raw form, in which one sector of it can be written. -/
def expandLine (s : State) (part line : Nat) : State :=
  let s := checkLine s part line
  match ownTag s part line with
  | none => if (tfind s.sizeTags line).isSome then { s with sizeTags := tdel s.sizeTags line } else s
  | some t => storeSectors { s with sizeTags := tdel s.sizeTags line } part (8 * line) 8 ((unpackLine s part line t).getD [])

/-- A whole sector written to HBM or host memory with its poison. -/
def putSector (s : State) (part sec : Nat) (bs : List Byte) (bad : Bool) : State :=
  markPoison (storeSector (expandLine s part (sec / 8)) part sec bs) sec bad

/-- A raw line of a compressible page compressed, unless it holds poison: its tag, and its stream in its first sectors (R230;
log entry 56). -/
def packLine (s : State) (part line : Nat) : State :=
  if (List.range 8).any fun k => s.poison.contains (8 * line + k) then { s with sizeTags := tset s.sizeTags line 7 }
  else
    let bs := (List.range 8).flatMap fun k => storedSector s part (8 * line + k)
    let tag := sizeTag bs
    let s := { s with sizeTags := tset s.sizeTags line tag }
    if tag = 7 then s else storeSectors s part (8 * line) (tag + 1) (storedLine tag bs)

/-- Bytes within one sector written past the L2, as device and strongly ordered stores are (R229): a partial write leaves the
sector's poison (R234). -/
def directWrite (s : State) (part pa : Nat) (bs : List Byte) : State :=
  let (s, old) := sectorBytes s part (pa / 64)
  putSector s part (pa / 64) (splice old.bytes (pa % 64) bs) (old.poisoned && bs.length != 64)

/-- Bytes within one sector read past the L2, and whether they are poisoned. -/
def directRead (s : State) (part pa n : Nat) : State × List Byte × Bool :=
  let (s, old) := sectorBytes s part (pa / 64)
  (s, (old.bytes.drop (pa % 64)).take n, old.poisoned)

/-- The pieces in which an access of n bytes within one sector to device or strongly ordered memory is performed, offset and length:
one of 8 bytes or fewer, else the aligned 8 bytes it touches (R229). -/
def devicePieces (pa n : Nat) : List (Nat × Nat) :=
  if n ≤ 8 then [(0, n)] else (splitAt 8 pa (n / 8 + 2) n).map fun e => (e.1 - pa, e.2)

/-- A device or strongly ordered write, piece by piece in ascending address. -/
def deviceStore (s : State) (part pa : Nat) (bs : List Byte) : State :=
  (devicePieces pa bs.length).foldl (fun s e => directWrite s part (pa + e.1) ((bs.drop e.1).take e.2)) s

/-- A device or strongly ordered read, piece by piece in ascending address. -/
def deviceLoad (s : State) (part pa n : Nat) : State × List Byte × Bool :=
  (devicePieces pa n).foldl
    (fun r e =>
      let x := directRead r.1 part (pa + e.1) e.2
      (x.1, r.2.1 ++ x.2.1, r.2.2 || x.2.2)) (s, [], false)

/-! ## L2 -/

/-- Home slice of a line: PA [12:9] xor PA [16:13] xor PA [20:17] on the die that caches it (R222). -/
def homeSlice (die line : Nat) : Nat :=
  16 * die + ((line % 16) ^^^ (line / 16 % 16) ^^^ (line / 256 % 16))

/-- Slice nearest a core: three cores of a die to a slice (R222, internal; DESIGN CHOICE, log entry 17). -/
def nearSlice (core : Nat) : Nat := 16 * dieOfCore core + core % 48 / 3

/-- Die whose L2 holds a PA that die d's quarter maps: device memory lies on its own die (R222, R226). -/
def l2DieOf (d pa : Nat) : Nat := if isHost pa then d else pa / 2 ^ 37

/-- The L2 line of a PA, if the die holds it. -/
def l2Find (s : State) (die line : Nat) : Option L2Line := (dieOf s die).l2.find? fun l => l.line == line

/-- The state with an L2 line put in place of the one it replaces, or added. -/
def l2Put (s : State) (die : Nat) (l : L2Line) : State :=
  modDie s die fun d =>
    if d.l2.any (fun x => x.line == l.line) then { d with l2 := updFirst (fun x => x.line == l.line) (fun _ => l) d.l2 }
    else { d with l2 := d.l2 ++ [l] }

/-- One dirty sector of a line written to memory, with its poison. -/
def flushSector (s : State) (l : L2Line) (e : Nat × L2Sector) : State :=
  if e.2.dirty then putSector s l.part (8 * l.line + e.1) e.2.bytes e.2.poisoned else s

/-- The dirty sectors of an L2 line written to memory, its sectors then clean; a line of a compressible page is stored compressed
(R222, R230). -/
def l2WriteBack (s : State) (die line : Nat) : State :=
  match l2Find s die line with
  | none => s
  | some l =>
    if !(l.sectors.any fun e => e.2.dirty) then s
    else
      let s := l.sectors.foldl (fun s e => flushSector s l e) s
      let s := if l.compr && !(isHost (512 * line)) then packLine s l.part line else s
      l2Put s die { l with sectors := l.sectors.map fun e => (e.1, { e.2 with dirty := false }) }

/-- An L2 line written back and dropped. -/
def l2Evict (s : State) (die line : Nat) : State :=
  modDie (l2WriteBack s die line) die fun d => { d with l2 := d.l2.filter fun l => l.line != line }

/-! ### Ways (R212, R222, R420) -/

/-- Set of a line in its slice (log entry 17). -/
def l2Set (line : Nat) : Nat := line / 16 % Config.l2Sets

/-- What holds a way of a set of a slice: the die and line, and whether it is a replica. -/
structure WayUse where
  way : Nat
  die : Nat
  line : Nat
  replica : Bool
  pinned : Bool

/-- The ways in use in the set of a line in a slice, oldest first. -/
def waysUsed (s : State) (slice line : Nat) : List WayUse :=
  s.dies.flatMap fun d => (d.2.l2.filter fun l => l2Set l.line == l2Set line).flatMap fun l =>
    (if l.slice == slice then [⟨l.way, d.1, l.line, false, !(l.pins.isEmpty)⟩] else []) ++
    (l.replicas.filter fun r => r.slice == slice).map fun r => ⟨r.way, d.1, l.line, true, false⟩

/-- The occupant of a way leaves it: a line is written back, a replica goes. -/
def freeWay (s : State) (u : WayUse) (slice : Nat) : State :=
  if u.replica then
    modDie s u.die fun d =>
      { d with l2 := updFirst (fun l => l.line == u.line) (fun l => { l with replicas := l.replicas.filter fun r => r.slice != slice }) d.l2 }
  else l2Evict s u.die u.line

/-- A way for a line in a slice among those that a partition's mask allows: a free one, else the oldest occupant's that is not
pinned; none when there is no such way (R420; log entry 17). -/
def takeWay (s : State) (part slice line : Nat) : State × Option Nat :=
  let used := waysUsed s slice line
  let mine := (List.range Config.l2Ways).filter fun w => (partOf s part).pways.getLsbD w
  match mine.find? fun w => !(used.any fun u => u.way == w) with
  | some w => (s, some w)
  | none =>
    match used.find? fun u => mine.contains u.way && !u.pinned with
    | some u => (freeWay s u slice, some u.way)
    | none => (s, none)

/-! ### Sectors at their place -/

/-- A line of device memory that another partition left in L2 goes to memory under that partition's key: no partition hits
another's plaintext (R23, R222, R420). -/
def l2Own (s : State) (die part line : Nat) : State :=
  match l2Find s die line with
  | some l => if l.part != part && !(isHost (512 * line)) then l2Evict s die line else s
  | none => s

/-- Sector k of an L2 line: as listed, else as the compressed line gives it (R232). -/
def lineSector (l : L2Line) (k : Nat) : Option L2Sector :=
  (tfind l.sectors k).orElse fun _ =>
    l.packed.map fun e => { bytes := (((decodeLine e.1 e.2).getD []).drop (64 * k)).take 64 }

/-- An L2 line expanded: every sector listed (R232). -/
def unpacked (l : L2Line) : L2Line :=
  { l with
    packed := none
    sectors := (List.range 8).foldl (fun t k => match lineSector l k with | some x => tset t k x | none => t) l.sectors }

/-- An L2 line with a sector put into it. A dirty one expands the line first, and takes the replicas away (R223, R232). -/
def lineWith (l : L2Line) (part k : Nat) (compr : Bool) (x : L2Sector) : L2Line :=
  if x.dirty then { unpacked l with part := part, compr := compr, replicas := [], sectors := tset (unpacked l).sectors k x }
  else { l with sectors := tset l.sectors k x }

/-- The L2 line as it is held, or one that takes a way for it; none with no way to take. -/
def l2Line (s : State) (die part line : Nat) (compr : Bool) : State × Option L2Line :=
  match l2Find s die line with
  | some l => (s, some l)
  | none =>
    match takeWay s part (homeSlice die line) line with
    | (s, some w) => (s, some { line := line, part := part, compr := compr, slice := homeSlice die line, way := w })
    | (s, none) => (s, none)

/-- A sector put into its line, which takes a way when it has none; with no way to take, a dirty sector goes to memory. -/
def l2Keep (s : State) (die part line k : Nat) (compr : Bool) (x : L2Sector) : State :=
  match l2Line s die part line compr with
  | (s, some l) => l2Put s die (lineWith l part k compr x)
  | (s, none) => if x.dirty then putSector s part (8 * line + k) x.bytes x.poisoned else s

/-- The size tag and stream of a line that HBM stores compressed, as it comes to L2: not of a line with poison (R232, R233). -/
def packedStream (s : State) (part line : Nat) : Option (Nat × List Byte) :=
  if (List.range 8).any fun k => s.poison.contains (8 * line + k) then none
  else (ownTag s part line).map fun t => (t, (List.range (t + 1)).flatMap fun k => storedSector s part (8 * line + k))

/-- A clean sector comes from memory to L2: of a compressed line the whole line comes, and stays compressed unless the L2 holds
dirty sectors of it (R232). -/
def l2Fill (s : State) (die part line k : Nat) (x : L2Sector) : State :=
  match packedStream s part line, l2Line s die part line false with
  | some e, (s, some l) =>
    l2Put s die (if l.sectors.any fun y => y.2.dirty then lineWith l part k l.compr x else { l with packed := some e })
  | none, (s, some l) => l2Put s die (lineWith l part k l.compr x)
  | _, (s, none) => s

/-- The sector of a PA as the line's place holds it, fetched from memory if it was not there (R222). -/
def l2Fetch (s : State) (die part pa : Nat) : State × L2Sector :=
  let s := l2Own s die part (pa / 512)
  match (l2Find s die (pa / 512)).bind fun l => lineSector l (pa / 64 % 8) with
  | some x => (s, x)
  | none =>
    let (s, x) := sectorBytes s part (pa / 64)
    (l2Fill s die part (pa / 512) (pa / 64 % 8) x, x)

/-- Bytes written into a sector at its place: a whole sector clears its poison, a part of it does not (R222, R234). -/
def l2Store (s : State) (die part pa : Nat) (compr : Bool) (bytes : Table Byte) : State :=
  let (s, old) := if bytes.length = 64 then (l2Own s die part (pa / 512), { bytes := [] }) else l2Fetch s die part pa
  let new := bytes.foldl (fun bs e => splice bs (e.1 % 64) [e.2]) (if bytes.length = 64 then List.replicate 64 0 else old.bytes)
  l2Keep s die part (pa / 512) (pa / 64 % 8) compr { dirty := true, poisoned := old.poisoned, bytes := new }

/-- Bytes of a line written sector by sector, with byte enables (R218). -/
def l2Merge (s : State) (die part line : Nat) (compr : Bool) (bytes : Table Byte) : State :=
  (List.range 8).foldl
    (fun s k =>
      let mine := bytes.filter fun e => e.1 / 64 == k
      if mine.isEmpty then s else l2Store s die part (512 * line + 64 * k) compr mine) s

/-! ### Placement (R223, R224) -/

/-- Every replica of a line goes, as before each store, write-back, atomic and host write to it (R223). -/
def l2Single (s : State) (die line : Nat) : State :=
  modDie s die fun d => { d with l2 := updFirst (fun l => l.line == line) (fun l => { l with replicas := [] }) d.l2 }

/-- Note an access to a line: in migration mode how many in a row came nearest one slice, in replication mode a replica nearest the
core for a grid (R223, R224). An access that no core makes is nearest no slice and ends the run (DESIGN CHOICE, log entry 17). -/
def l2Touch (s : State) (die : Nat) (c : Ctx) (pa : Nat) (replicate : Option Nat) : State :=
  match l2Find s die (pa / 512) with
  | none => s
  | some l =>
    let near := nearSlice c.core
    if s.l2place.getLsbD 0 then
      l2Put s die (if c.hw then { l with run := 0 } else { l with near := near, run := if l.near = near then l.run + 1 else 1 })
    else
      match replicate with
      | none => s
      | some grid =>
        if !(s.l2place.getLsbD 1) || near == l.slice || l.replicas.any (fun r => r.slice == near) then s
        else
          match takeWay s c.part near (pa / 512) with
          | (s, none) => s
          | (s, some w) =>
            modDie s die fun d =>
              { d with l2 := updFirst (fun x => x.line == pa / 512) (fun x => { x with replicas := x.replicas ++ [⟨near, w, grid⟩] }) d.l2 }

/-! ### Translations made for L1 lines (R358; log entry 55) -/

/-- Die that owns a line of the address space: bits [56:55] of its VA (R358). -/
def lineOwner (line : Nat) : Nat := line * 512 / 2 ^ 55 % 4

/-- PA of an L1 line's first byte, as the owning die translated it for the line. -/
def l1Pa (s : State) (core asid line : Nat) : Nat :=
  (((dieOf s (lineOwner line)).grants.find? fun e => e.core == core && e.asid == asid && e.line == line).map fun e => e.pa).getD 0

/-- The owning die has translated a line for an L1. -/
def putGrant (s : State) (core asid line pa : Nat) : State :=
  modDie s (lineOwner line) fun d =>
    { d with grants := d.grants.filter (fun e => !(e.core == core && e.asid == asid && e.line == line)) ++ [⟨core, asid, line, pa⟩] }

/-- The dirty bytes of an L1 line performed at the line's place, its owner translating (R218, R358). -/
def mergeDirty (s : State) (core : Nat) (l : L1Line) : State :=
  let pa := l1Pa s core l.asid l.line
  let die := l2DieOf (lineOwner l.line) pa
  l2Touch (l2Merge s die l.part (pa / 512) l.attr.compr l.dirty) die { part := l.part, core := core } pa none

/-! ### A line held exclusively (R238, R245) -/

/-- An L1 gives up a line it holds exclusively: its dirty bytes go to the line's place and stay as clean ones. -/
def giveUpLine (s : State) (core : Nat) (l : L1Line) : State :=
  let s := if l.dirty.isEmpty then s else mergeDirty s core l
  modCore s core fun c =>
    { c with
      flume := c.flume.filter fun e => e != (l.asid, l.line)
      l1 := updFirst (fun x => x.asid == l.asid && x.line == l.line)
        (fun x => { x with excl := false, dirty := [], clean := l.dirty.foldl (fun t e => tset t e.1 e.2) l.clean }) c.l1 }

/-- Before another party's access to a line, an L1 that holds it exclusively gives it up (R238). -/
def recallLine (s : State) (line : Nat) : State :=
  s.cores.foldl
    (fun s c => (c.2.l1.filter fun l => l.excl && l1Pa s c.1 l.asid l.line / 512 == line).foldl (fun s l => giveUpLine s c.1 l) s) s

/-- n bytes within one sector as the line's place holds them, and whether they are poisoned. -/
def l2Read (s : State) (die part pa n : Nat) : State × List Byte × Bool :=
  let (s, x) := l2Fetch (recallLine s (pa / 512)) die part pa
  (s, (x.bytes.drop (pa % 64)).take n, x.poisoned)

/-- Bytes within one sector written at the line's place: every replica goes first (R222, R223). -/
def l2Write (s : State) (die part pa : Nat) (compr : Bool) (bs : List Byte) : State :=
  l2Store (recallLine s (pa / 512)) die part pa compr (enumFrom (pa % 64) bs)

/-- The sector of a PA is poisoned at its place (R233, R234). -/
def l2Poison (s : State) (die part pa : Nat) : State :=
  let (s, x) := l2Fetch (recallLine s (pa / 512)) die part pa
  l2Keep s die part (pa / 512) (pa / 64 % 8) (((l2Find s die (pa / 512)).map fun l => l.compr).getD false) { x with dirty := true, poisoned := true }

/-! ## Translation -/

/-- Levels of the walk with the VA bit where each index begins (R359). -/
def levelShift (level : Nat) : Nat := 12 + 9 * (level - 1)

/-- Attributes of a leaf (Table 15.2); only a normal page is compressible (Table 9.5). -/
def leafAttr (pte : Nat) : PageAttr :=
  { r := bitOf pte 2, w := bitOf pte 3, x := bitOf pte 4, u := bitOf pte 5, s := bitOf pte 6,
    mtype := field pte 7 2, compr := bitOf pte 10 && field pte 7 2 == 0 }

/-- The PA field of an entry. -/
def ptePa (pte : Nat) : Nat := field pte 12 40 * 4096

/-- What R362 makes of an entry at a level on die d: the class of the fault, or whether it is a leaf. -/
def checkPte (d level pte : Nat) : Except Nat Bool :=
  let leaf := bitOf pte 1
  if !(bitOf pte 0) then .error fcNotPresent
  else if field pte 52 4 != 0 || bitOf pte 63 then .error fcReservedBit
  else if (leaf && level ≥ 4) || (!leaf && level == 1) then .error fcReservedBit
  else if !leaf && field pte 2 9 != 0 then .error fcReservedBit
  else if leaf && ptePa pte % 2 ^ levelShift level != 0 then .error fcReservedBit
  else if !(paAllowed d (ptePa pte)) then .error fcAddress
  else .ok leaf

/-- Fault detail of a walk (R362): level, pointer, access. -/
def walkDetail (level : Nat) (ptr : Bool) (acc : Acc) : Nat := level + 8 * ptr.toNat + 16 * accCode acc

/-- A fault that no walk raises, found in attributes kept with a line (R358) or of a segment: which level its detail names the
manual does not state (log entry 43). -/
def keptFault {α : Type} (s : State) (cls va : Nat) (acc : Acc) : State × Except FaultInfo α :=
  (useFresh s 1, .error { cls := cls, va := BitVec.ofNat 64 va, detail := walkDetail ((Config.freeWord s.fresh).toNat % 8) false acc })

/-- The region or host range of a PA is marked secure (R363, Table 15.1). -/
def regionSecure (s : State) (pa : Nat) : Bool :=
  if isHost pa then s.hostRanges.any fun r => r.secure && decide (r.first ≤ pa) && decide (pa < r.last)
  else s.regions.any fun r => r.secure && r.die == pa / 2 ^ 37 && r.gb == pa % 2 ^ 37 / Config.regionBytes

/-- A PA lies in the HBM that the memory region table assigns to a partition (R416). -/
def ownsPa (s : State) (p pa : Nat) : Bool :=
  !(isHost pa) && s.regions.any fun r => r.part == p && r.die == pa / 2 ^ 37 && r.gb == pa % 2 ^ 37 / Config.regionBytes

/-- A PA lies in the dump region, a block that the block security table marks secure (R228, R416). -/
def blockSecure (s : State) (pa : Nat) : Bool :=
  match s.dumpRegion with
  | some (first, n) => s.secureBlocks.contains .dumpRegion && pa / 2 ^ 37 == 0 && decide (first ≤ pa) && decide (pa < first + n)
  | none => false

/-- R363: the checks of an access on page attributes, world before permission; what is secure is closed to the non-secure world. -/
def checkAttr (c : Ctx) (acc : Acc) (attr : PageAttr) (secure : Bool) : Option Nat :=
  if !c.sec && secure then some fcWorld
  else
    let ok := match acc with
      | .r => attr.r
      | .w => attr.w
      | .rw => attr.r && attr.w
      | .x => attr.x
    if !ok || (!c.sup && !attr.u) then some fcPermission else none

/-- R363 on a leaf: its page, its region or its block may be secure (R416). -/
def checkLeaf (s : State) (c : Ctx) (acc : Acc) (attr : PageAttr) (pa : Nat) : Option Nat :=
  checkAttr c acc attr (attr.s || regionSecure s pa || blockSecure s pa)

/-- A cached leaf that covers a VA. -/
def findLeaf (s : State) (asid va : Nat) : Option TlbEntry :=
  (dieOf s (va / 2 ^ 55 % 4)).tlb.find? fun e =>
    e.leaf && e.asid == asid && (if e.merged then va / 65536 == e.vpn else va / 2 ^ levelShift e.level == e.vpn)

/-- A cached table pointer for a level. -/
def findPointer (s : State) (asid level va : Nat) : Option TlbEntry :=
  (dieOf s (va / 2 ^ 55 % 4)).tlb.find? fun e =>
    !e.leaf && e.asid == asid && e.level == level && va / 2 ^ levelShift level == e.vpn

/-- PA of a VA under a leaf entry. -/
def leafPa (e : TlbEntry) (va : Nat) : Nat :=
  let size := if e.merged then 65536 else 2 ^ levelShift e.level
  ptePa e.pte.toNat / size * size + va % size

/-- The eight bytes of a page-table entry at its home slice. -/
def readPte (s : State) (d part pa : Nat) : State × Nat :=
  let (s, bs, _) := l2Read s (l2DieOf d pa) part pa 8
  (l2Touch s (l2DieOf d pa) { part := part, hw := true } pa none, leNat bs)

/-- Set the accessed bit of an entry by an atomic OR at its home slice (R364). -/
def setAcc (s : State) (d part pa pte : Nat) : State :=
  if bitOf pte 11 then s
  else
    let (s, bs, _) := l2Read s (l2DieOf d pa) part (pa + 1) 1
    l2Touch (l2Write s (l2DieOf d pa) part (pa + 1) false [bs.headD 0 ||| 8#8]) (l2DieOf d pa) { part := part, hw := true } pa none

/-- The aligned group of sixteen of a level-1 leaf forms one 64 KiB translation (R365). -/
def mergeable (s : State) (d part tablePa idx : Nat) : State × Bool × List Nat :=
  let base := tablePa + 8 * (idx / 16 * 16)
  let (s, ptes) := (List.range 16).foldl
    (fun (acc : State × List Nat) k =>
      let (s, p) := readPte acc.1 d part (base + 8 * k)
      (s, acc.2 ++ [p])) (s, [])
  let p0 := ptes.headD 0
  let ok := (enumFrom 0 ptes).all fun e =>
    (match checkPte d 1 e.2 with | .ok true => true | _ => false) && bitOf e.2 9 &&
      field e.2 2 9 == field p0 2 9 && ptePa e.2 == ptePa p0 + 4096 * e.1
  (s, ok && ptePa p0 % 65536 == 0, ptes)

/-- A translation-cache entry of an entry read at a level for a VA. -/
def tlbEntry (part asid level : Nat) (leaf : Bool) (va pte : Nat) : TlbEntry :=
  { part := part, asid := asid, level := level, leaf := leaf, merged := false, vpn := va / 2 ^ levelShift level, pte := BitVec.ofNat 64 pte }

/-- Walk the levels given, the table of the first at `table`; pointers passed are kept to be cached (R359 to R366). -/
def walkLevels (c : Ctx) (acc : Acc) (asid va : Nat) :
    List Nat → State → Nat → List TlbEntry → State × Except FaultInfo (TlbEntry × List TlbEntry)
  | [], s, _, _ => (s, .error { cls := fcNotPresent, va := BitVec.ofNat 64 va })
  | level :: rest, s, table, kept =>
    let d := va / 2 ^ 55 % 4
    let idx := field va (levelShift level) 9
    let fault := fun (cls : Nat) (ptr : Bool) =>
      Except.error { cls := cls, va := BitVec.ofNat 64 va, detail := walkDetail level ptr acc }
    match findPointer s asid level va with
    | some e => walkLevels c acc asid va rest s (ptePa e.pte.toNat) kept
    | none =>
      let (s, pte) := readPte s d c.part (table + 8 * idx)
      match checkPte d level pte with
      | .error cls => (s, fault cls (bitOf pte 0 && !(bitOf pte 1)))
      | .ok false =>
        let e := tlbEntry c.part asid level false va pte
        walkLevels c acc asid va rest s (ptePa pte) (kept ++ [e])
      | .ok true =>
        let e := tlbEntry c.part asid level true va pte
        -- R226: the access's own PA, which a large leaf may carry past the end of the die
        if !(paAllowed d (leafPa e va)) then (s, fault fcAddress false)
        else
        match checkLeaf s c acc (leafAttr pte) (leafPa e va) with
        | some cls => (s, fault cls false)
        | none =>
          if level == 1 && bitOf pte 9 then
            let (s, ok, ptes) := mergeable s d c.part table idx
            if ok then
              let base := table + 8 * (idx / 16 * 16)
              let s := (enumFrom 0 ptes).foldl (fun s e => setAcc s d c.part (base + 8 * e.1) e.2) s
              (s, .ok ({ e with merged := true, vpn := va / 65536, pte := BitVec.ofNat 64 (ptes.headD 0) }, kept))
            else (setAcc s d c.part (table + 8 * idx) pte, .ok (e, kept))
          else (setAcc s d c.part (table + 8 * idx) pte, .ok (e, kept))

/-- A list without the n oldest entries that a test selects. -/
def dropOldest {α : Type} (p : α → Bool) : Nat → List α → List α
  | _, [] => []
  | 0, l => l
  | n + 1, x :: r => if p x then dropOldest p n r else x :: dropOldest p (n + 1) r

/-- The newest n entries of those that a test selects, and all others. -/
def keepNewest {α : Type} (p : α → Bool) (n : Nat) (l : List α) : List α := dropOldest p ((l.filter p).length - n) l

/-- Entries of a die's translation caches within a partition's front-end share of them (R421). -/
def tlbWithin (s : State) (part : Nat) (l : List TlbEntry) : List TlbEntry :=
  let share := if (partOf s part).pctl.getLsbD 0 then field (partOf s part).pbw.toNat 24 8 else 0
  let mine (leaf : Bool) (e : TlbEntry) : Bool := e.part == part && e.leaf == leaf
  keepNewest (mine false) (Config.tlbPointers * share / 256) (keepNewest (mine true) (Config.tlbLeaves * share / 256) l)

/-- Translate a VA for an access: PA and page attributes, or the fault (R358 to R366). A root of zero translates nothing
(Table 15.1). -/
def translate (s : State) (c : Ctx) (acc : Acc) (va : Nat) : State × Except FaultInfo (Nat × PageAttr) :=
  if va ≥ 2 ^ 57 then (s, .error { cls := fcAddress, va := BitVec.ofNat 64 va })
  else
    let asid := asidOf s c.part c.sec
    let d := va / 2 ^ 55 % 4
    let fault (cls level : Nat) : Except FaultInfo (Nat × PageAttr) :=
      .error { cls := cls, va := BitVec.ofNat 64 va, detail := walkDetail level false acc }
    match findLeaf s asid va with
    | some e =>
      if !(paAllowed d (leafPa e va)) then (s, fault fcAddress e.level)
      else
        match checkLeaf s c acc (leafAttr e.pte.toNat) (leafPa e va) with
        | some cls => (s, fault cls e.level)
        | none => (s, .ok (leafPa e va, leafAttr e.pte.toNat))
    | none =>
      if rootOf s c.part c.sec = 0 then (s, fault fcNotPresent 5)
      else
        match walkLevels c acc asid va [5, 4, 3, 2, 1] s (rootOf s c.part c.sec) [] with
        | (s, .error f) => (s, .error f)
        | (s, .ok (e, kept)) =>
          let s := modDie s d fun x => { x with tlb := tlbWithin s c.part (x.tlb ++ kept ++ [e]) }
          (s, .ok (leafPa e va, leafAttr e.pte.toNat))

/-! ## L1 -/

/-- The partition whose clusters hold a core. -/
def partOfCore (s : State) (core : Nat) : Option Nat :=
  (s.partitions.find? fun p => p.2.pctl.getLsbD 0 && p.2.pclust.getLsbD (clusterOfCore core)).map fun p => p.1

/-- What a core's counters count: the choice of its partition's supervisor where it made one, else the host's (R405). -/
def pcselOf (s : State) (core : Nat) : List Word :=
  match partOfCore s core with
  | none => s.pcsel
  | some p => (enumFrom 0 s.pcsel).map fun e => (tfind (partOf s p).pcsel e.1).getD e.2

/-- An event of a core happens: the counters that count it go up by one (R405, R406). -/
def countEvent (s : State) (core ev n : Nat) : State :=
  let hit (sel : Word) : Bool := sel.getLsbD 8 && sel.toNat % 256 == ev
  let sels := pcselOf s core
  if sels.any hit then
    modCore s core fun c => { c with pc := (c.pc.zip sels).map fun e => if hit e.2 then (e.1 + n) % 2 ^ 64 else e.1 }
  else s

/-- The core whose L1 an access uses: with fusion, core-in-cluster (VA div 512) mod 8 (R221). -/
def l1Core (s : State) (core va : Nat) : Nat :=
  if (clusterOf s (clusterOfCore core)).fused.isEmpty then core else 8 * clusterOfCore core + va / 512 % 8

/-- The L1 line of a VA, if present. -/
def l1Find (s : State) (core asid line : Nat) : Option L1Line :=
  (coreOf s core).l1.find? fun l => l.asid == asid && l.line == line

/-- Put an L1 line in place of the one it replaces. -/
def l1Put (s : State) (core : Nat) (l : L1Line) : State :=
  modCore s core fun c =>
    if c.l1.any (fun x => x.asid == l.asid && x.line == l.line) then
      { c with l1 := updFirst (fun x => x.asid == l.asid && x.line == l.line) (fun _ => l) c.l1 }
    else { c with l1 := c.l1 ++ [l] }

/-- Write back the dirty bytes of an L1 line to the line's place; they stay as clean bytes (R218). Another L1 that holds the line
exclusively gives it up first. -/
def l1WriteBack (s : State) (core asid line : Nat) : State :=
  match l1Find s core asid line with
  | none => s
  | some l =>
    let s := modCore s core fun c => { c with flume := c.flume.filter fun e => e != (asid, line) }
    if l.dirty.isEmpty then s
    else
      let s := recallLine (l1Put (countEvent s core 5 1) core { l with excl := false }) (l1Pa s core asid line / 512)
      let s := l1Put s core { l with excl := false, dirty := [], clean := l.dirty.foldl (fun t e => tset t e.1 e.2) l.clean }
      mergeDirty s core l

/-- Evict an L1 line: its dirty bytes go to L2 at once (R219). -/
def l1Evict (s : State) (core asid line : Nat) : State :=
  let s := modCore (l1WriteBack s core asid line) core fun c =>
    { c with l1 := c.l1.filter fun l => !(l.asid == asid && l.line == line) }
  modDie s (lineOwner line) fun d =>
    { d with grants := d.grants.filter fun e => !(e.core == core && e.asid == asid && e.line == line) }

/-- Set of a line, 32 sets of 8 ways (Table 1.1). -/
def l1Set (line : Nat) : Nat := line % 32

/-- Make room for a line in its set: the marked next victim goes first, else the oldest line (R218, R220). -/
def l1Room (s : State) (core line : Nat) : State :=
  let set := (coreOf s core).l1.filter fun l => l1Set l.line == l1Set line
  if set.length < 8 then s
  else
    match (set.find? fun l => l.next).orElse fun _ => set.head? with
    | some v => l1Evict s core v.asid v.line
    | none => s

/-- The line of a normal access, allocated without fetching it if absent. The access's translation is the line's, unless dirty bytes
wait to be performed under an earlier one (log entry 55). -/
def l1Alloc (s : State) (core asid : Nat) (part va pa : Nat) (attr : PageAttr) (next : Bool) : State × L1Line :=
  match l1Find s core asid (va / 512) with
  | some l => (if l.dirty.isEmpty then putGrant s core asid (va / 512) (pa / 512 * 512) else s, l)
  | none =>
    let s := putGrant (l1Room s core (va / 512)) core asid (va / 512) (pa / 512 * 512)
    let l : L1Line := { asid := asid, line := va / 512, part := part, attr := attr, next := next }
    (l1Put s core l, l)

/-- A byte an L1 line holds: a dirty byte before a clean one. -/
def l1Byte (l : L1Line) (off : Nat) : Option Byte := (tfind l.dirty off).orElse fun _ => tfind l.clean off

/-- Drop the clean bytes of an L1 line in a range of offsets. -/
def dropRange (l : L1Line) (off n : Nat) : L1Line := { l with clean := l.clean.filter fun e => !(off ≤ e.1 && e.1 < off + n) }

/-- Load n bytes of one sector of normal memory through the L1 (R218, R220): the bytes, and whether one is poisoned. -/
def l1Load (s : State) (c : Ctx) (va pa n hint : Nat) (attr : PageAttr) (grid : Nat) : State × List Byte × Bool :=
  let core := l1Core s c.core va
  let asid := asidOf s c.part c.sec
  let die := l2DieOf (va / 2 ^ 55 % 4) pa
  let offs := (List.range n).map fun i => va % 512 + i
  let fetch := fun (s : State) =>
    let (s, bs, bad) := l2Read s die c.part (pa / 64 * 64) 64
    (l2Touch s die c pa (if hint = 2 then some grid else none), bs, bad)
  if hint = 3 then
    -- nothing is allocated; dirty bytes of the line are merged, older clean copies of the bytes read are given up
    let dirty := ((l1Find s core asid (va / 512)).map fun l => l.dirty).getD []
    let (s, bs, bad) := fetch s
    let out := (enumFrom 0 offs).map fun e => (tfind dirty e.2).getD (bs.getD (pa % 64 + e.1) 0)
    let s := match l1Find s core asid (va / 512) with
      | some l => l1Put s core (dropRange l (va % 512) n)
      | none => s
    (s, out, bad && !(offs.all fun o => (tfind dirty o).isSome))
  else
    let present := (l1Find s core asid (va / 512)).any fun l => offs.all fun o => (l1Byte l o).isSome
    if present then
      let out := offs.map fun o => (((l1Find s core asid (va / 512)).bind fun l => l1Byte l o)).getD 0
      (s, out, false)
    else
      let (s, bs, bad) := fetch (countEvent s core 4 1)
      if bad then (s, List.replicate n 0, true)
      else
        let (s, l) := l1Alloc s core asid c.part va pa attr (hint == 1)
        let l := { l with clean := (enumFrom (va % 512 / 64 * 64) bs).foldl (fun t e => tset t e.1 e.2) l.clean }
        (l1Put s core l, offs.map (fun o => (l1Byte l o).getD 0), false)

/-- Store bytes of one sector of normal memory through the L1 (R218 to R220): a line it must allocate is a miss (R405). -/
def l1Store (s : State) (c : Ctx) (va pa hint : Nat) (attr : PageAttr) (bs : List Byte) : State :=
  let core := l1Core s c.core va
  let asid := asidOf s c.part c.sec
  if hint = 3 then
    let s := l1WriteBack s core asid (va / 512)
    let s := match l1Find s core asid (va / 512) with
      | some l => l1Put s core (dropRange l (va % 512) bs.length)
      | none => s
    let die := l2DieOf (va / 2 ^ 55 % 4) pa
    l2Touch (l2Write s die c.part pa attr.compr bs) die c pa none
  else
    let s := if (l1Find s core asid (va / 512)).isSome then s else countEvent s core 4 1
    let (s, l) := l1Alloc s core asid c.part va pa attr (hint == 1)
    let s := if l.dirty.isEmpty then modCore s core fun k => { k with flume := k.flume ++ [(asid, va / 512)] } else s
    let l := dropRange l (va % 512) bs.length
    l1Put s core { l with dirty := (enumFrom (va % 512) bs).foldl (fun t e => tset t e.1 e.2) l.dirty }

/-- The contention predictor gives a core's L1 a line of it exclusively: every other holder gives it up, and its replicas go (R223,
R245). -/
def holdLine (s : State) (core asid line : Nat) : State :=
  match l1Find s core asid line with
  | none => s
  | some _ =>
    let pa := l1Pa s core asid line
    let s := l2Single (recallLine (l1WriteBack s core asid line) (pa / 512)) (l2DieOf (lineOwner line) pa) (pa / 512)
    match l1Find s core asid line with
    | some l => l1Put s core { l with excl := true, clean := [] }
    | none => s

/-! ## The write-combining buffer (R229) -/

/-- Write back the combining buffer of a core. -/
def combineFlush (s : State) (core : Nat) : State :=
  match (coreOf s core).combine with
  | none => s
  | some b =>
    let s := recallLine (modCore s core fun c => { c with combine := none }) b.line
    l2Touch (l2Merge s b.die b.part b.line false b.bytes) b.die { part := b.part, core := core } (512 * b.line) none

/-- A store to write-combining memory. -/
def combineStore (s : State) (c : Ctx) (va pa : Nat) (bs : List Byte) : State :=
  let die := l2DieOf (va / 2 ^ 55 % 4) pa
  let keep := match (coreOf s c.core).combine with | some b => b.line == pa / 512 && b.part == c.part | none => false
  let s := if keep then s else combineFlush s c.core
  modCore s c.core fun k =>
    let b := k.combine.getD { die := die, line := pa / 512, part := c.part }
    { k with combine := some { b with bytes := (enumFrom (pa % 512) bs).foldl (fun t e => tset t e.1 e.2) b.bytes } }

/-- A load of write-combining memory merges the core's buffer. -/
def combineLoad (s : State) (c : Ctx) (va pa n : Nat) : State × List Byte × Bool :=
  let die := l2DieOf (va / 2 ^ 55 % 4) pa
  let (s, bs, bad) := l2Read s die c.part pa n
  let own : Table Byte := match (coreOf s c.core).combine with | some b => if b.line == pa / 512 then b.bytes else [] | none => []
  let out := (enumFrom (pa % 512) bs).map fun e => (tfind own e.1).getD e.2
  (l2Touch s die c pa none, out, bad && !((List.range n).all fun i => (tfind own (pa % 512 + i)).isSome))

/-! ## One piece of an access by its page's memory type (Table 9.5) -/

/-- A byte of a partition's invalidate windows, which are write-only and read zero (R6, Table 15.3). -/
def inInvWindow (s : State) (c : Ctx) (va : Nat) : Bool :=
  !c.sec && (List.range 4).any fun d =>
    match (partOf s c.part).desc with
    | some x => decide (x.invPage + 64 * d ≤ va) && decide (va < x.invPage + 64 * d + 32)
    | none => false

/-- Bytes of a piece read at the line's place: the L2, or past it for device and strongly ordered pages. -/
def placeRead (s : State) (c : Ctx) (p : Piece) : State × List Byte × Bool :=
  let die := l2DieOf (p.va / 2 ^ 55 % 4) p.pa
  if p.attr.mtype = 2 || p.attr.mtype = 3 then
    let (s, bs, bad) := deviceLoad s c.part p.pa p.len
    (s, (enumFrom p.va bs).map fun e => if p.attr.mtype = 2 && inInvWindow s c e.1 then 0 else e.2, bad)
  else
    let (s, bs, bad) := l2Read s die c.part p.pa p.len
    (l2Touch s die c p.pa none, bs, bad)

/-- Bytes of a piece written at the line's place. -/
def placeWrite (s : State) (c : Ctx) (p : Piece) (bs : List Byte) : State :=
  let die := l2DieOf (p.va / 2 ^ 55 % 4) p.pa
  if p.attr.mtype = 2 || p.attr.mtype = 3 then deviceStore s c.part p.pa bs
  else l2Touch (l2Write s die c.part p.pa p.attr.compr bs) die c p.pa none

/-- The sector of a piece is poisoned at the line's place. -/
def placePoison (s : State) (c : Ctx) (p : Piece) : State :=
  if p.attr.mtype = 2 || p.attr.mtype = 3 then markPoison s (p.pa / 64) true else l2Poison s (l2DieOf (p.va / 2 ^ 55 % 4) p.pa) c.part p.pa

/-- Load a piece: its bytes and whether one is poisoned. Type 4 stands for an access that an emulating handler makes to a
cached page: it is performed at the line's place, like a strongly ordered one (R273). -/
def loadPiece (s : State) (c : Ctx) (p : Piece) (hint grid : Nat) : State × List Byte × Bool :=
  match p.attr.mtype with
  | 0 => l1Load s c p.va p.pa p.len hint p.attr grid
  | 1 => combineLoad s c p.va p.pa p.len
  | _ => placeRead s c p

/-- Store a piece. -/
def storePiece (s : State) (c : Ctx) (p : Piece) (hint : Nat) (bs : List Byte) : State :=
  match p.attr.mtype with
  | 0 => l1Store s c p.va p.pa hint p.attr bs
  | 1 => combineStore s c p.va p.pa bs
  | _ => placeWrite s c p bs

/-! ## Release and acquire (R247, R248) -/

/-- Cores whose flumes a release of a core drains: all eight of a fused cluster (R221). -/
def flumeCores (s : State) (core : Nat) : List Nat :=
  if (clusterOf s (clusterOfCore core)).fused.isEmpty then [core]
  else (List.range 8).map fun i => 8 * clusterOfCore core + i

/-- Drain one core's flume, oldest line first (R219). -/
def drainFlume (s : State) (core : Nat) : State :=
  (coreOf s core).flume.foldl (fun s e => l1WriteBack s core e.1 e.2) s

/-- Write back everything a core's caches and buffers hold dirty (R247). -/
def drainCore (s : State) (core : Nat) : State :=
  (flumeCores s core).foldl drainFlume (combineFlush s core)

/-- Discard the clean bytes of one L1, except in lines whose page has write permission clear (R219, R248). -/
def dropClean (s : State) (core : Nat) : State :=
  modCore s core fun c =>
    let kept := c.l1.map fun l => if l.attr.w then { l with clean := [] } else l
    { c with l1 := kept.filter fun l => !(l.clean.isEmpty && l.dirty.isEmpty) }

/-- The acquire of a core (R248). -/
def acquireCore (s : State) (core : Nat) : State := (flumeCores s core).foldl dropClean s

/-! ## Hardware and engine accesses at L2 (R228, R243, R311) -/

/-- Translate the parts of a range in ascending address; the first fault stands. -/
def translateParts (s : State) (c : Ctx) (acc : Acc) : List (Nat × Nat) → State × Except FaultInfo (List Piece)
  | [] => (s, .ok [])
  | (va, k) :: r =>
    match translate s c acc va with
    | (s, .error f) => (s, .error f)
    | (s, .ok (pa, attr)) =>
      match translateParts s c acc r with
      | (s, .error f) => (s, .error f)
      | (s, .ok ps) => (s, .ok ({ va := va, pa := pa, len := k, attr := attr } :: ps))

/-- Bytes of pieces of one access at the line's place, and whether one is poisoned. -/
def readPieces (s : State) (c : Ctx) : List Piece → State × List Byte × Bool
  | [] => (s, [], false)
  | p :: r =>
    let (s, bs, bad) := placeRead s c p
    let (s, rest, bad') := readPieces s c r
    (s, bs ++ rest, bad || bad')

/-- Bytes written to pieces at the line's place. -/
def writePieces (s : State) (c : Ctx) : List Piece → List Byte → State
  | [], _ => s
  | p :: r, bs => writePieces (placeWrite s c p (bs.take p.len)) c r (bs.drop p.len)

/-- Read n bytes at a VA at L2. -/
def vmRead (s : State) (c : Ctx) (va n : Nat) : State × Except FaultInfo (List Byte × Bool) :=
  match translateParts s c .r (splitSectors va n) with
  | (s, .error f) => (s, .error f)
  | (s, .ok ps) =>
    let (s, bs, bad) := readPieces s c ps
    (s, .ok (bs, bad))

/-- Write bytes at a VA at L2; nothing is written when a part faults. -/
def vmWrite (s : State) (c : Ctx) (va : Nat) (bs : List Byte) : State × Option FaultInfo :=
  match translateParts s c .w (splitSectors va bs.length) with
  | (s, .error f) => (s, some f)
  | (s, .ok ps) => (writePieces s c ps bs, none)

/-- Context of the hardware's own accesses for a partition's world (R228): user permission is not asked of them. -/
def hwCtx (part : Nat) (sec : Bool) : Ctx := { part := part, sec := sec, sup := true, hw := true }

/-- A poison fault at a VA. -/
def poisonAt (va : Nat) : FaultInfo := { cls := fcPoison, va := BitVec.ofNat 64 va }

/-- The hardware reads n bytes of a record: poison is a fault too (R465). -/
def hwRead (s : State) (part : Nat) (sec : Bool) (va n : Nat) : State × Except FaultInfo (List Byte) :=
  match vmRead s (hwCtx part sec) va n with
  | (s, .error f) => (s, .error f)
  | (s, .ok (bs, bad)) => if bad then (s, .error (poisonAt va)) else (s, .ok bs)

/-- The hardware writes n bytes of a staging log as a function of what they hold: a write in its faults, and poison stops it too
(R253). `bad` carries poison to what it writes (log entry 59). Nothing is written on a fault. -/
def hwAmend (s : State) (part : Nat) (sec : Bool) (va n : Nat) (f : Nat → Nat) (bad : Bool) : State × Option FaultInfo :=
  match translateParts s (hwCtx part sec) .w (splitSectors va n) with
  | (s, .error f) => (s, some f)
  | (s, .ok ps) =>
    let (s, old, was) := readPieces s (hwCtx part sec) ps
    if was then (s, some (poisonAt va))
    else
      let s := writePieces s (hwCtx part sec) ps (leBytes (f (leNat old)) n)
      (if bad then ps.foldl (fun s p => placePoison s (hwCtx part sec) p) s else s, none)

/-- The hardware writes a record. -/
def hwWrite (s : State) (part : Nat) (sec : Bool) (va : Nat) (bs : List Byte) : State × Option FaultInfo :=
  vmWrite s (hwCtx part sec) va bs

/-- Read a record, change it and write it back as one update at its home slice (R311); nothing is written on a fault. -/
def hwUpdate (s : State) (part : Nat) (sec : Bool) (va n : Nat) (f : Nat → Nat) : State × Option FaultInfo :=
  match hwRead s part sec va n with
  | (s, .error e) => (s, some e)
  | (s, .ok bs) => hwWrite s part sec va (leBytes (f (leNat bs)) n)

/-! ## Scratchpad -/

/-- Bytes of a core's scratchpad. -/
def scratchRead (s : State) (core off n : Nat) : List Byte := memRead (coreOf s core).scratch off n

/-- 64-byte units of a store touched by n bytes. -/
def unitsOf (off n : Nat) : List Nat := (splitSectors off n).map fun p => p.1 / 64

/-- Whether a read of scratchpad meets poison (R233). -/
def scratchPoisoned (s : State) (core off n : Nat) : Bool :=
  (unitsOf off n).any fun u => (coreOf s core).scratchPoison.contains u

/-- Poison marks after a write of n bytes: a whole 64-byte unit clears its mark (R234). -/
def clearUnits (marks : List Nat) (off n : Nat) : List Nat :=
  if marks.isEmpty then marks else marks.filter fun u => !(off ≤ 64 * u && 64 * u + 64 ≤ off + n)

/-- Bytes written to a core's scratchpad. -/
def scratchWrite (s : State) (core off : Nat) (bs : List Byte) : State :=
  modCore s core fun c =>
    { c with scratch := memWrite c.scratch off bs, scratchPoison := clearUnits c.scratchPoison off bs.length }

end Sys2Proof.Machine
end

