-- ==== Sys2Proof/Machine/Ops.lean ====
section
/-! DEFINITION. The named operations on threads, groups and issue groups, and taking a fault: routing, handler entry, parking,
group failure, and the return (spec/18_faults_and_security.md R408 to R414, spec/04_registers.md R107, spec/06 R169). -/
namespace Sys2Proof.Machine

/-- A number with the field [lo + n − 1 : lo] replaced. -/
def setField (v lo n x : Nat) : Nat := v - field v lo n * 2 ^ lo + x % 2 ^ n * 2 ^ lo

/-! ## Groups and threads -/

/-- A group by its name. -/
def groupOf (s : State) (gk : Nat) : Option Group := s.groups.find? fun g => g.gk == gk

/-- The state with a group updated. -/
def modGroup (s : State) (gk : Nat) (f : Group → Group) : State :=
  { s with groups := updFirst (fun g => g.gk == gk) f s.groups }

/-- A thread of a group by its index. -/
def threadOf (g : Group) (t : Nat) : Option Thread := g.threads.find? fun x => x.idx == t

/-- A group with a thread updated. -/
def updThread (g : Group) (t : Nat) (f : Thread → Thread) : Group :=
  { g with threads := updFirst (fun x => x.idx == t) f g.threads }

/-- The state with a thread updated. -/
def modThread (s : State) (gk t : Nat) (f : Thread → Thread) : State := modGroup s gk fun g => updThread g t f

/-- A grid by its name. -/
def gridOf (s : State) (id : Nat) : Option Grid := s.grids.find? fun x => x.id == id

/-- The state with a grid updated. -/
def modGrid (s : State) (id : Nat) (f : Grid → Grid) : State :=
  { s with grids := updFirst (fun x => x.id == id) f s.grids }

/-- Subcore of thread t of a group (R27, R28). -/
def subcoreOf (g : Group) (t : Nat) : Nat := if g.record.threads > 32 then t / 32 else g.subBase

/-- Lane of thread t of a group (R27, R28). -/
def laneOf (g : Group) (t : Nat) : Nat := if g.record.threads > 32 then t % 32 else g.laneBase + t

/-- A thread is live from its group's start until it executes `exit` (R37). -/
def isLive (t : Thread) : Bool := t.status != .exited

/-- The live threads of a group, in ascending index. -/
def liveThreads (g : Group) : List Thread := g.threads.filter isLive

/-- A thread is in a handler of either kind (R107, R412). -/
def inHandler (t : Thread) : Bool := t.inKernel || t.inSup

/-- Context of a thread's own accesses (R363). -/
def ctxOf (g : Group) (t : Thread) : Ctx := { part := g.record.part, sec := g.record.world, sup := t.inSup, core := g.core }

/-- The next name or age. -/
def fresh (s : State) : State × Nat := ({ s with names := s.names + 1 }, s.names)

/-- Make a thread ready at an address of its hdr's clause or at a header (R32, R34). -/
def readyAt (s : State) (gk t : Nat) (pc hdr : DWord) : State :=
  let (s, a) := fresh s
  modThread s gk t fun x => { x with status := .ready, pc := pc, hdr := hdr, age := a, clause := none, l0 := 0, l1 := 0 }

/-! ## Host memory and host events -/

/-- Bytes written to host memory by the device's own queues (R414, R433), word by word of 8 bytes. -/
def hostWords (s : State) (part pa : Nat) (ws : List DWord) : State :=
  let s := logHostWrite s part pa
  { s with mem := memWrite s.mem pa (ws.flatMap fun w => leBytes w.toNat 8) }

/-- Write a host event record, or drop and count it (R433, Table 19.5). -/
def hostEvent (s : State) (part code arg0 arg1 : Nat) : State :=
  let p := partOf s part
  let k := field p.qsize.toNat 4 4
  if k = 0 || (p.evtail - p.evhead).toNat ≥ 2 ^ k then modPart s part fun p => { p with dropped := p.dropped + 1 }
  else
    let slot := p.evtail.toNat % 2 ^ k
    let s := hostWords s part (p.evbase.toNat + 32 * slot)
      [BitVec.ofNat 64 (p.evtail.toNat + 2 ^ 32 * code), BitVec.ofNat 64 arg0, BitVec.ofNat 64 arg1, BitVec.ofNat 64 s.devtime]
    modPart s part fun p => { p with evtail := p.evtail + 1 }

/-- A record access made for a grid or a partition-wide area that faulted: event code 9 (R465). -/
def recordEvent (s : State) (part : Nat) (f : Option FaultInfo) : State :=
  match f with
  | none => s
  | some e => hostEvent s part 9 e.va.toNat e.cls

/-- The cores' clocks are gated, in D3 (R437). -/
def clocksGated (s : State) : Bool := field s.pstate.toNat 0 2 == 3

/-- Firmware has stopped, or never ran (R422, R426). -/
def firmwareStopped (s : State) : Bool := s.fatal || !s.booted

/-- Every UCIe module is down: nothing of the host's reaches the device, and nothing reaches the host (R428). -/
def linkDown (s : State) : Bool := decide (s.modulesDown.length = 4)

/-- Host writes and enqueues are rejected (R422, R426); with every module down they do not even arrive (R428). -/
def hostBlocked (s : State) : Bool := firmwareStopped s || linkDown s

/-- Something the device sends to the host, if a module is up. -/
def sendHost (s : State) (x : HostOut) : State := if linkDown s then s else { s with hostOut := s.hostOut ++ [x] }

/-! ## Issue groups -/

/-- Remove threads of a group from every issue group in progress. -/
def dropMembers (s : State) (p : Nat × Nat → Bool) : State :=
  let left := s.issues.map fun i => { i with members := i.members.filter fun m => !(p m) }
  { s with issues := left.filter fun i => !(i.members.isEmpty) }

/-- A thread that has finished or left a clause parks on the barriers it arrived at in it that have not opened (R162). -/
def parkBars (clause : DWord) (t : Thread) : Thread :=
  let mine := t.bars.filter fun e => e.2 == clause
  { t with
    bars := t.bars.filter fun e => e.2 != clause
    parkedOn := mine.foldl (fun m e => m ||| (1#4 <<< e.1)) t.parkedOn
    status := if mine.isEmpty then t.status else .atBar }

/-- A thread as it leaves a finished clause for the next header, unless a control transfer has set its PC (R60, R156); after a `bar`
of this clause it parks there until the barrier opens (R162). -/
def leftClause (i : Issue) (m : Nat × Nat) (a : Nat) (t : Thread) : Thread :=
  let next := i.hdr + BitVec.ofNat 64 (4 * (i.words.length + 1))
  let t := { t with
    pc := if i.jumped.contains m then t.pc else next
    hdr := if i.jumped.contains m then t.hdr else next
    l0 := 0, l1 := 0, clause := none, age := a }
  if t.status = .issuing then parkBars i.hdr { t with status := .ready } else t

/-- A thread leaves a finished clause, ready from now on (R34). -/
def leaveClause (i : Issue) (s : State) (m : Nat × Nat) : State :=
  modThread (fresh s).1 m.1 m.2 (leftClause i m s.names)

/-- The head issue group after an instruction of `w` words: members that stopped leave it, and the clause ends after its last
word. -/
def advance (s : State) (w : Nat) (stopped : List (Nat × Nat)) : State :=
  match s.issues with
  | [] => s
  | i :: rest =>
    let i := { i with members := i.members.filter fun m => !(stopped.contains m), off := i.off + w, done := i.done + 1, issued := [], faults := [] }
    if i.members.isEmpty then { s with issues := rest }
    else if i.off ≥ i.words.length then i.members.foldl (leaveClause i) { s with issues := rest }
    else { s with issues := i :: rest }

/-- Where an instruction of the head issue group stands: what a fault of it records. -/
structure FaultSite where
  /-- Address of the faulting word, or of the header. -/
  pc : DWord
  /-- Instruction index, 0 for the header (Table 4.4). -/
  index : Nat
  hdr : DWord
  /-- Instruction words of the clause (R68). -/
  n : Nat
  deriving DecidableEq, Repr

/-- The site of the next instruction of an issue group. -/
def siteOf (i : Issue) : FaultSite :=
  { pc := i.hdr + BitVec.ofNat 64 (4 * (i.off + 1)), index := i.done + 1, hdr := i.hdr, n := i.words.length }

/-- `hinfo` of a fault (Table 4.4). -/
def hinfoOf (g : Group) (t index : Nat) (f : FaultInfo) : Word :=
  BitVec.ofNat 32 (f.cls + 2 ^ 8 * (index % 16) + 2 ^ 12 * (subcoreOf g t % 4) + 2 ^ 16 * laneOf g t + 2 ^ 21 * (f.detail % 2 ^ 11))

/-! ## Group failure (R413) -/

/-- VA of a group's phase record (R289). -/
def phaseRecordVa (g : Group) : Nat := g.frame + 64

/-- A cluster without what it holds for a group that fails: ring places and its queued continuation, so that it never runs again
(R413). -/
def forgetGroup (gk : Nat) (c : Cluster) : Cluster :=
  let keep (e : DeckEntry) : Bool := e.failed || e.cont != some gk
  { c with
    ringWait := c.ringWait.filter (· != gk)
    ring := c.ring.map fun x => if x.reserved = some gk then { x with reserved := none } else x
    decks := c.decks.map fun l => l.filter keep
    landings := c.landings.map fun l => l.filter fun x => keep x.2
    waiting := c.waiting.map fun l => l.filter keep }

/-- Commands that a core's matrix command queue has room for: 64 entries, one of them the executing command's (R181; log entry 25). -/
def matrixRoom (c : Core) : Nat := 64 - (c.mqueue.length + c.mrun.toList.length)

/-- A group fails: its threads stop, the failed bit and first fault of its frame are set, the entries it staged in this step
are discarded (R413, R253). A grid record that cannot be updated is event 9 (R465). Its resources go at retirement. -/
def failGroup (s : State) (gk : Nat) (hinfo : Word) (va : DWord) : State :=
  match groupOf s gk with
  | none => s
  | some g =>
    if g.failed then s
    else
      let (s, _) := hwUpdate s g.record.part g.record.world g.frame 64 fun v =>
        setField (setField (setField (setField v 166 1 1) 167 1 1) 192 32 hinfo.toNat) 256 64 va.toNat
      -- the first failure of the grid in this order is the one its record keeps (R291)
      let (s, e) := hwUpdate s g.record.part g.record.world g.record.farr 64 fun v =>
        if bitOf v 320 then v else setField (setField (setField v 320 1 1) 256 32 g.gid) 288 32 hinfo.toNat
      let s := recordEvent s g.record.part e
      let s := modGrid s g.grid fun x => { x with failed := true }
      let s := dropMembers s fun m => m.1 == gk
      -- commands kept by a pre-emption execute like every queued one, as the queue has room for them
      let s := if g.saved.isEmpty then s else modCore s g.core fun c => { c with mqueue := c.mqueue ++ g.saved.take (matrixRoom c) }
      let rest := g.saved.drop (matrixRoom (coreOf s g.core))
      let s := { s with
        waiters := s.waiters.filter fun w => w.gk != gk
        clusters := s.clusters.map fun e => (e.1, forgetGroup gk e.2) }
      -- in a deterministic grid the step in progress ends for the group (R250, R256)
      let steps := match gridOf s g.grid with
        | some x => if g.record.det then max g.stepsEnded (x.commits + 1) else g.stepsEnded
        | none => g.stepsEnded
      modGroup s gk fun g =>
        { g with
          failed := true
          run := .exited
          stepsEnded := steps
          awaiting := false
          adopt := none
          saved := rest
          staged := 0
          barriers := [0, 0, 0, 0]
          threads := g.threads.map fun t =>
            { t with status := .exited, inKernel := false, inSup := false, clause := none, arrived := 0, bars := [], parkedOn := 0 } }

/-- A record access made for one group that faulted fails the group (R465). -/
def failRecord (s : State) (gk : Nat) (f : FaultInfo) : State :=
  match groupOf s gk with
  | none => s
  | some g => failGroup s gk (BitVec.ofNat 32 (f.cls + 2 ^ 12 * (g.subBase % 4) + 2 ^ 16 * g.laneBase + 2 ^ 21 * (f.detail % 2 ^ 11))) f.va

/-! ## Routing (R410, R411) -/

/-- The 2-bit route code of a class in a partition's registers (R410). -/
def routeCode (p : Partition) (cls : Nat) : Nat :=
  if cls < 16 then field p.route0.toNat (2 * cls) 2 else field p.route1.toNat (2 * (cls - 16)) 2

/-- The route a fault takes: 0 kernel handler, 1 supervisor routine, 2 host fault queue, 3 fatal (R411). -/
def routeOf (s : State) (g : Group) (t : Thread) (cls : Nat) : Nat :=
  let p := partOf s g.record.part
  let r := routeCode p cls
  let r := if (cls = fcPartition || cls = fcWorld) && r = 0 then 1 else r
  let r := if t.inSup && r != 3 then 2 else r
  let r := if r = 0 && (g.kd.hpcdef = 0 || t.inKernel) then 1 else r
  let r := if r = 1 && p.svpc = 0 then 2 else r
  if r = 2 && (field p.qsize.toNat 0 4 = 0 || p.fqbase = 0) then 3 else r

/-! ## Entry and return (R107, R412, R169) -/

/-- A thread enters its kernel handler or the supervisor routine: the return address, the information and the VA are saved,
and it continues at the entry (R107, R412). -/
def enterHandler (s : State) (site : FaultSite) (gk tid : Nat) (f : FaultInfo) (sup : Bool) : State :=
  match groupOf s gk with
  | none => s
  | some g =>
    let info := hinfoOf g tid site.index f
    let entry := if sup then (partOf s g.record.part).svpc else BitVec.ofNat 64 g.kd.hpcdef
    let emul := if f.cls = fcMemType then some f.va else none
    let s := modGroup s gk fun g =>
      if sup then { g with ctl := { g.ctl with svpcr := site.pc, svinfo := info, svva := f.va } }
      else { g with ctl := { g.ctl with hpc := site.pc, hinfo := info, hva := f.va } }
    let s := modThread s gk tid fun t =>
      if sup then { t with inSup := true, sClause := (site.hdr, site.n), emulS := emul }
      else { t with inKernel := true, kClause := (site.hdr, site.n), emulK := emul }
    readyAt s gk tid entry entry

/-- The host fault record of parked threads of one issue group (Table 18.3), its seq still 0: words 0 to 7. -/
def faultRecord (site : FaultSite) (g : Group) (t : Thread) (f : FaultInfo) (lanes : Nat) : List DWord :=
  [BitVec.ofNat 64 (2 ^ 32 * (hinfoOf g t.idx site.index f).toNat), f.va, site.pc,
   BitVec.ofNat 64 (g.record.taskid + 2 ^ 32 * g.gid),
   BitVec.ofNat 64 (lanes + 2 ^ 32 * g.core + 2 ^ 40 * (subcoreOf g t.idx % 4) + 2 ^ 42 * g.record.world.toNat + 2 ^ 43 * t.inSup.toNat),
   0, 0, 0]

/-- A faulting thread of the issue group: its group, its index, its fault. -/
structure Faulting where
  gk : Nat
  tid : Nat
  f : FaultInfo
  deriving DecidableEq, Repr

/-- One thread takes its fault at a site (R411 to R413): handler entry, waiting to enter, parking, or failure of its group.
A thread that parks for the host is left without a record. -/
def takeOne (site : FaultSite) (s : State) (x : Faulting) : State :=
  match groupOf s x.gk with
  | none => s
  | some g =>
    match threadOf g x.tid with
    | none => s
    | some t =>
      let s := modThread s x.gk x.tid fun t => { t with pc := site.pc, hdr := site.hdr, clause := none }
      let route := routeOf s g t x.f.cls
      if route = 3 then failGroup s x.gk (hinfoOf g x.tid site.index x.f) x.f.va
      else if route = 2 then modThread s x.gk x.tid fun t => { t with status := .parked none }
      else if g.threads.any (fun y => inHandler y && y.idx != x.tid) then
        modThread s x.gk x.tid fun t =>
          let t := { t with status := .waitHandler site.index x.f (route == 1) }
          if route = 1 then { t with sClause := (site.hdr, site.n) } else { t with kClause := (site.hdr, site.n) }
      else enterHandler s site x.gk x.tid x.f (route == 1)

/-- Whether a thread has parked for the host without a record. -/
def parkedHere (s : State) (x : Faulting) : Option (Faulting × Group × Thread) :=
  match groupOf s x.gk with
  | none => none
  | some g =>
    match threadOf g x.tid with
    | some t => if t.status = .parked none then some (x, g, t) else none
    | none => none

/-- Of each group the `hinfo` and `hva` of its first member in a list: its first fault. -/
def firstFaults (site : FaultSite) (ps : List (Faulting × Group × Thread)) : List (Nat × Word × DWord) :=
  ps.foldl
    (fun l b =>
      if l.any fun e => e.1 == b.1.gk then l else l ++ [(b.1.gk, hinfoOf b.2.1 b.2.2.idx site.index b.1.f, b.1.f.va)]) []

/-- One record for the threads of one subcore that parked for the host at an instruction (R414). -/
def addRecord (site : FaultSite) (ps : List (Faulting × Group × Thread)) (s : State) (sub : Nat) : State :=
  match ps.filter fun p => subcoreOf p.2.1 p.2.2.idx == sub with
  | [] => s
  | p :: rest =>
    -- the lowest faulting lane names the record
    let low := rest.foldl (fun a b => if laneOf b.2.1 b.2.2.idx < laneOf a.2.1 a.2.2.idx then b else a) p
    let lanes := (p :: rest).foldl (fun m b => m ||| 2 ^ laneOf b.2.1 b.2.2.idx) 0
    let rec' : FaultRec :=
      { seq := none, words := faultRecord site low.2.1 low.2.2 low.1.f lanes, members := (p :: rest).map fun b => (b.1.gk, b.1.tid)
        firsts := firstFaults site (sortBy (fun b => laneOf b.2.1 b.2.2.idx) (p :: rest)) }
    modPart s low.2.1.record.part fun q => { q with parked := q.parked ++ [rec'] }

/-- Threads of one issue group take faults at one instruction: the one shared operation of every fault of a thread. -/
def takeFaults (s : State) (site : FaultSite) (xs : List Faulting) : State :=
  let s := dropMembers s fun m => xs.any fun x => x.gk == m.1 && x.tid == m.2
  let s := xs.foldl (takeOne site) s
  [0, 1, 2, 3].foldl (addRecord site (xs.filterMap (parkedHere s))) s

/-- The lowest-indexed thread that waits for its group's handler enters it (R107). -/
def nextHandler (s : State) (gk : Nat) : State :=
  match groupOf s gk with
  | none => s
  | some g =>
    if g.threads.any inHandler then s
    else
      match g.threads.find? fun t => match t.status with | .waitHandler _ _ _ => true | _ => false with
      | none => s
      | some t =>
        match t.status with
        | .waitHandler index f sup =>
          let cl := if sup then t.sClause else t.kClause
          enterHandler s { pc := t.pc, index := index, hdr := cl.1, n := cl.2 } gk t.idx f sup
        | _ => s

/-- Return from a handler (R169, R412): the supervisor routine first, else the kernel handler; the thread resumes at the saved
address pc, in its clause when the address lies in it (R68), and a waiting thread may enter. It has finished the clause of the return,
and its `bar`s there park it at the next header it comes to: where it resumes or, in the middle of a clause, where that clause ends;
one that resumes elsewhere has left the clause it faulted in (R162). -/
def leaveHandler (s : State) (gk tid : Nat) (pc : DWord) : State :=
  match groupOf s gk with
  | none => s
  | some g =>
    match threadOf g tid with
    | none => s
    | some t =>
      let cl := if t.inSup then t.sClause else t.kClause
      let inside := decide (cl.1.toNat < pc.toNat) && decide (pc.toNat ≤ cl.1.toNat + 4 * cl.2)
      let s := modThread s gk tid fun t =>
        if t.inSup then { t with inSup := false, emulS := none } else { t with inKernel := false, emulK := none }
      let s := readyAt s gk tid pc (if inside then cl.1 else pc)
      let park (u : Thread) : Thread :=
        if inside then { u with bars := u.bars.map fun e => if e.2 == t.hdr then (e.1, cl.1) else e }
        else parkBars cl.1 (parkBars t.hdr u)
      nextHandler (modThread s gk tid park) gk

end Sys2Proof.Machine
end

