-- ==== Sys2Proof/Machine/Flags.lean ====
section
/-! DEFINITION. The floating-point mode register `fpm` and its five exception flags (spec/04_registers.md Table 4.3, R105, R106). -/
namespace Sys2Proof.Machine

/-- The IEEE 754-2019 exceptions that one operation raises (R106). -/
structure Flags where
  nv : Bool := false
  dz : Bool := false
  of : Bool := false
  uf : Bool := false
  nx : Bool := false
  deriving DecidableEq, Repr

/-- Flags of both of two operations (R112: the flags of packed elements are ORed). -/
def orFlags (a b : Flags) : Flags :=
  { nv := a.nv || b.nv, dz := a.dz || b.dz, of := a.of || b.of, uf := a.uf || b.uf, nx := a.nx || b.nx }

/-- The flags where `fpm` holds them: nv at [8], dz [9], of [10], uf [11], nx [12] (Table 4.3). -/
def flagWord (f : Flags) : Word :=
  BitVec.ofNat 32 (f.nv.toNat * 0x100 + f.dz.toNat * 0x200 + f.of.toNat * 0x400 + f.uf.toNat * 0x800 + f.nx.toNat * 0x1000)

/-- `fpm` after operations raised flags: the OR of R106. -/
def raiseFlags (fpm : Word) (f : Flags) : Word := fpm ||| flagWord f

/-- Default rounding code of `fpm` [2:0]. -/
def fpmRm (fpm : Word) : Nat := (fpm &&& 7#32).toNat

/-- `fpm` [3] ftz. -/
def fpmFtz (fpm : Word) : Bool := fpm.getLsbD 3

/-- `fpm` [4] ftz64. -/
def fpmFtz64 (fpm : Word) : Bool := fpm.getLsbD 4

/-- `fpm` after a `ctlw` (Table 4.3, R105): a rounding value 4 to 7 leaves rm unchanged, reserved bits stay zero, and the
ones of `clear` clear the W1C flags. -/
def writeFpm (old val clear : Word) : Word :=
  let rm := if (val &&& 7#32).toNat < 4 then val &&& 7#32 else old &&& 7#32
  let mode := val &&& 0x18#32
  let flags := (old &&& 0x1F00#32) &&& ~~~clear
  rm ||| mode ||| flags

/-- `tol` after a `ctlw` (R105): the sign bit cleared, and a NaN stored as 0x7FC0_0000. -/
def writeTol (val : Word) : Word :=
  let v := val &&& 0x7FFFFFFF#32
  if v.toNat > 0x7F800000 then 0x7FC00000#32 else v

/-- `mpol` after a `ctlw` (R105): a policy of 3 leaves the field unchanged; [31:2] reads zero. -/
def writeMpol (old val : Word) : Word :=
  if (val &&& 3#32) = 3#32 then old else val &&& 3#32

end Sys2Proof.Machine
end

