-- ==== Sys2Proof/Machine/Formats.lean ====
section
/-! DEFINITION. Number formats, `round_to()`, `srbits()` and the exact arithmetic of spec/05_number_formats.md (R111 to R133).
Every finite value is held exactly as a sign, a natural number and a power of two. -/
namespace Sys2Proof.Machine

/-- An exact operand: a NaN (signalling or not), an infinity, or (−1)^neg × m × 2^e; m = 0 is a signed zero. -/
inductive FVal where
  | nan (signalling : Bool)
  | inf (neg : Bool)
  | fin (neg : Bool) (m : Nat) (e : Int)
  deriving DecidableEq, Repr

/-- Parameters of a binary floating-point format (Table 5.2). -/
structure FParams where
  ebits : Nat
  fbits : Nat
  bias : Nat
  /-- E all ones encodes infinities and NaNs (R115). -/
  ieee : Bool
  /-- Largest finite value: its exponent field and fraction. -/
  maxE : Nat
  maxF : Nat
  nan : Nat
  deriving DecidableEq, Repr

/-- Formats of Table 5.1 outside the block formats. -/
inductive Fmt where
  | int (signed : Bool) (width : Nat)
  | flt (p : FParams)
  | d8
  deriving DecidableEq, Repr

def f64P : FParams := { ebits := 11, fbits := 52, bias := 1023, ieee := true, maxE := 2046, maxF := 0xFFFFFFFFFFFFF, nan := 0x7FF8000000000000 }
def f32P : FParams := { ebits := 8, fbits := 23, bias := 127, ieee := true, maxE := 254, maxF := 0x7FFFFF, nan := 0x7FC00000 }
def f16P : FParams := { ebits := 5, fbits := 10, bias := 15, ieee := true, maxE := 30, maxF := 0x3FF, nan := 0x7E00 }
def bf16P : FParams := { ebits := 8, fbits := 7, bias := 127, ieee := true, maxE := 254, maxF := 0x7F, nan := 0x7FC0 }
def e5m2P : FParams := { ebits := 5, fbits := 2, bias := 15, ieee := true, maxE := 30, maxF := 3, nan := 0x7E }
def e4m3P : FParams := { ebits := 4, fbits := 3, bias := 7, ieee := false, maxE := 15, maxF := 6, nan := 0x7F }
/-- E2M1 has no NaN; where a NaN is written the result is 0x0 (Table 5.7). -/
def e2m1P : FParams := { ebits := 2, fbits := 1, bias := 1, ieee := false, maxE := 3, maxF := 1, nan := 0 }

/-- The format of a code that is legal everywhere (Table 5.1). -/
def fmtOf (code : Nat) : Option Fmt :=
  match code with
  | 0 => some (.int true 8)
  | 1 => some (.int false 8)
  | 2 => some (.int true 16)
  | 3 => some (.int false 16)
  | 4 => some (.int true 32)
  | 5 => some (.int false 32)
  | 6 => some (.int true 64)
  | 7 => some (.int false 64)
  | 8 => some (.flt f16P)
  | 9 => some (.flt bf16P)
  | 10 => some (.flt f32P)
  | 11 => some (.flt f64P)
  | 12 => some (.flt e4m3P)
  | 13 => some (.flt e5m2P)
  | 14 => some (.flt e2m1P)
  | 15 => some .d8
  | _ => none

/-- Width in bits of a format. -/
def fmtWidth : Fmt → Nat
  | .int _ w => w
  | .flt p => p.ebits + p.fbits + 1
  | .d8 => 8

/-- Signed integer of the low w bits of n. -/
def toSigned (w n : Nat) : Int :=
  let m := n % 2 ^ w
  if m ≥ 2 ^ (w - 1) then (m : Int) - (2 ^ w : Nat) else m

/-- An exact integer as an operand; an integer zero is +0 (R133 step 6). -/
def intVal (i : Int) : FVal := .fin (decide (i < 0)) i.natAbs 0

/-- Value of a binary floating-point encoding (R114, R115); with `ftz` a subnormal reads as zero of its sign (R129). -/
def decodeFlt (p : FParams) (ftz : Bool) (bits : Nat) : FVal :=
  let f := bits % 2 ^ p.fbits
  let e := bits / 2 ^ p.fbits % 2 ^ p.ebits
  let s := bits / 2 ^ (p.fbits + p.ebits) % 2 == 1
  if p.ieee && e == 2 ^ p.ebits - 1 then
    if f == 0 then .inf s else .nan (f < 2 ^ (p.fbits - 1))
  else if p.nan == 0x7F && e == 15 && f == 7 then .nan false
  else if e == 0 then
    if ftz then .fin s 0 0 else .fin s f (1 - (p.bias : Int) - p.fbits)
  else .fin s (2 ^ p.fbits + f) ((e : Int) - p.bias - p.fbits)

/-- One D8 term in units of 2^−6 (R117). -/
def d8Term (n : Nat) : Int :=
  let e := n % 8
  if e == 7 then 0 else if n / 8 % 2 == 1 then -(2 ^ (6 - e) : Nat) else (2 ^ (6 - e) : Nat)

/-- Value of a D8 byte in units of 2^−6 (R117). -/
def d8Units (b : Nat) : Int := d8Term (b / 16) + d8Term (b % 16)

/-- Value of a D8 byte; its zero is +0. -/
def decodeD8 (b : Nat) : FVal :=
  let u := d8Units b
  .fin (decide (u < 0)) u.natAbs (-6)

/-- `value(fmt, bits)` of R145: narrow sources are read from the low bits. -/
def decodeVal (f : Fmt) (ftz : Bool) (bits : Nat) : FVal :=
  match f with
  | .int true w => intVal (toSigned w bits)
  | .int false w => intVal (bits % 2 ^ w : Nat)
  | .flt p => decodeFlt p ftz bits
  | .d8 => decodeD8 (bits % 256)

/-- A magnitude m × 2^e rounded to a whole number of 2^q under a rounding code (R122, R123): the number, and whether it is
inexact. `u` holds the 32 random bits of SR. -/
def roundMag (mode : Nat) (neg : Bool) (u : Nat) (m : Nat) (e q : Int) : Nat × Bool :=
  if e ≥ q then (m * 2 ^ (e - q).toNat, false)
  else
    let s := (q - e).toNat
    let lo := m / 2 ^ s
    let r := m % 2 ^ s
    let up : Bool :=
      match mode with
      | 0 => decide (2 * r > 2 ^ s) || (2 * r == 2 ^ s && lo % 2 == 1)
      | 1 => false
      | 2 => neg && r != 0
      | 3 => !neg && r != 0
      | 4 => decide (2 * r ≥ 2 ^ s)
      | _ => decide (u < r * 2 ^ 32 / 2 ^ s) && r != 0
    (if up then lo + 1 else lo, r != 0)

/-- What an overflow of a mode writes: true when the direction keeps the largest finite value (R124). -/
def overflowKeeps (mode : Nat) (neg : Bool) : Bool :=
  mode == 1 || (mode == 2 && !neg) || (mode == 3 && neg)

/-- Encoding of sign, exponent field and fraction. -/
def packFlt (p : FParams) (neg : Bool) (e f : Nat) : Nat :=
  neg.toNat * 2 ^ (p.ebits + p.fbits) + e * 2 ^ p.fbits + f

/-- The entry of Table 5.7 for an infinite result. -/
def infEnc (p : FParams) (neg : Bool) (sat : Bool) : Nat :=
  if sat then packFlt p neg p.maxE p.maxF
  else if p.ieee then packFlt p neg (2 ^ p.ebits - 1) 0
  else if p.nan == 0x7F then p.nan
  else packFlt p neg p.maxE p.maxF

/-- `round_to()` into a binary floating-point format (R123, R124, R126, Table 5.7). `flush` is ftz or ftz64 where it applies. -/
def roundFlt (p : FParams) (flush sat : Bool) (mode u : Nat) (x : FVal) : Nat × Flags :=
  match x with
  | .nan sg => (p.nan, { nv := sg || (p.nan == 0) })
  | .inf neg => (infEnc p neg sat, { nv := !p.ieee })
  | .fin neg m e =>
    if m == 0 then (packFlt p neg 0 0, {})
    else
      let top : Int := (Nat.log2 m : Int) + e
      let emin : Int := 1 - (p.bias : Int)
      let qU : Int := top - p.fbits
      let qS : Int := emin - p.fbits
      let q := if qU < qS then qS else qU
      let (n, inexact) := roundMag mode neg u m e q
      -- the value chosen with an unbounded exponent range, for tininess
      let nU := (roundMag mode neg u m e qU).1
      let tiny := decide (qU < qS) && decide (nU < 2 ^ p.fbits * 2 ^ (qS - qU).toNat)
      -- exponent field and fraction of n × 2^q, n at most 2^(fbits + 1)
      let (n, q) := if n ≥ 2 ^ (p.fbits + 1) then (n / 2, q + 1) else (n, q)
      let field : Nat := if n < 2 ^ p.fbits then 0 else (q + p.fbits + p.bias).toNat
      let frac := if n < 2 ^ p.fbits then n else n - 2 ^ p.fbits
      if field > p.maxE || (field == p.maxE && frac > p.maxF) then
        if overflowKeeps mode neg then (packFlt p neg p.maxE p.maxF, { of := true, nx := true })
        else (infEnc p neg sat, { of := true, nx := true })
      else if flush && field == 0 then (packFlt p neg 0 0, { uf := true, nx := true })
      else (packFlt p neg field frac, { uf := tiny && inexact, nx := inexact })

/-- Non-negative D8 values in units of 2^−6, rising: 0, and each sum or difference of two terms (R117). -/
def d8Values : List Nat :=
  [0, 1, 2, 3, 4, 5, 6, 7, 8, 9, 10, 12, 14, 15, 16, 17, 18, 20, 24, 28, 30, 31, 32, 33, 34, 36, 40, 48, 56, 60, 62, 63, 64, 65, 66, 68, 72, 80, 96, 128]

/-- The canonical D8 byte of a value in units of 2^−6 (R118). -/
def d8Encode (v : Int) : Nat :=
  if v = 0 then 0x77
  else
    let single := (List.range 7).find? fun e => v.natAbs == 2 ^ (6 - e)
    match single with
    | some e => (if v < 0 then 0x80 else 0) + e * 16 + 7
    | none =>
      let cands := (List.range 7).flatMap fun e1 => (List.range 7).flatMap fun e2 =>
        [e1 * 16 + e2, e1 * 16 + e2 + 8, e1 * 16 + e2 + 128, e1 * 16 + e2 + 136]
      (cands.find? fun b => decide (d8Units b = v)).getD 0x77

/-- `round_to()` into D8 (R123, R124, R126): ties to the smaller magnitude under RNE, uf never set. -/
def roundD8 (mode u : Nat) (x : FVal) : Nat × Flags :=
  match x with
  | .nan _ => (0x77, { nv := true })
  | .inf neg => (if neg then 0x88 else 0x00, { nv := true })
  | .fin neg m e =>
    -- |x| in units of 2^-6 is m × 2^(e + 6) = num / den
    let num := m * 2 ^ (e + 6).toNat
    let den := 2 ^ (-(e + 6)).toNat
    let signed := fun (v : Nat) => if neg then -(v : Int) else (v : Int)
    if num > 128 * den then
      (d8Encode (signed 128), { of := !(overflowKeeps mode neg), nx := true })
    else
      let lo := d8Values.foldl (fun acc v => if v * den ≤ num then v else acc) 0
      if lo * den == num then (d8Encode (signed lo), {})
      else
        let hi := (d8Values.find? fun v => decide (v * den > num)).getD 128
        let up : Bool :=
          match mode with
          | 0 => decide (2 * num > (lo + hi) * den)
          | 1 => false
          | 2 => neg
          | 3 => !neg
          | 4 => decide (2 * num ≥ (lo + hi) * den)
          | _ => decide (u < (num - lo * den) * 2 ^ 32 / ((hi - lo) * den))
        (d8Encode (signed (if up then hi else lo)), { nx := true })

/-- Least and greatest integer of an integer format. -/
def intRange (signed : Bool) (w : Nat) : Int × Int :=
  if signed then (-(2 ^ (w - 1) : Nat), (2 ^ (w - 1) : Nat) - 1) else (0, (2 ^ w : Nat) - 1)

/-- The bits of an integer in w bits. -/
def intBits (w : Nat) (i : Int) : Nat := (i % ((2 ^ w : Nat) : Int)).toNat

/-- `round_to()` into an integer format from a floating-point source (R125). -/
def roundInt (signed : Bool) (w : Nat) (mode u : Nat) (x : FVal) : Nat × Flags :=
  let (lo, hi) := intRange signed w
  match x with
  | .nan _ => (0, { nv := true })
  | .inf neg => (intBits w (if neg then lo else hi), { nv := true })
  | .fin neg m e =>
    let (n, inexact) := roundMag mode neg u m e 0
    let i : Int := if neg then -(n : Int) else n
    if i < lo then (intBits w lo, { nv := true })
    else if i > hi then (intBits w hi, { nv := true })
    else (intBits w i, { nx := inexact })

/-- An integer source into an integer format (R125): wraps, or saturates with `sat`; no flag. -/
def convInt (signed : Bool) (w : Nat) (sat : Bool) (i : Int) : Nat :=
  let (lo, hi) := intRange signed w
  if sat && i < lo then intBits w lo else if sat && i > hi then intBits w hi else intBits w i

/-- The flush bit of `fpm` that acts on results of a format (R126): ftz on FP32, FP16 and BF16, ftz64 on FP64. -/
def flushes (fpm : Word) (p : FParams) : Bool :=
  if p = f64P then fpmFtz64 fpm else if p = f32P || p = f16P || p = bf16P then fpmFtz fpm else false

/-- A value in the format `to` (R145): its encoding and the flags. -/
def convertVal (fpm : Word) (toF : Fmt) (mode u : Nat) (sat : Bool) (x : FVal) : Nat × Flags :=
  match toF with
  | .int s' w' => roundInt s' w' mode u x
  | .flt p => roundFlt p (flushes fpm p) sat mode u x
  | .d8 => roundD8 mode u x

/-- `cvt` (R145): the encoding of the result in `to`, and its flags. -/
def convert (fpm : Word) (fromF toF : Fmt) (mode u : Nat) (sat : Bool) (bits : Nat) : Nat × Flags :=
  let ftzIn := match fromF with | .flt p => flushes fpm p | _ => false
  let x := decodeVal fromF ftzIn bits
  let sig : Flags := match x with | .nan true => { nv := true } | _ => {}
  let r :=
    match fromF, toF with
    | .int s w, .int s' w' => (convInt s' w' sat (if s then toSigned w bits else (bits % 2 ^ w : Nat)), ({} : Flags))
    | _, _ => convertVal fpm toF mode u sat x
  (r.1, orFlags sig r.2)

/-- A `cvt` result as it stands in its register or pair (R112): sign-extended for a signed format, zero-extended otherwise. -/
def placeResult (f : Fmt) (bits : Nat) : Nat :=
  match f with
  | .int true w => if w < 32 then intBits 32 (toSigned w bits) else bits
  | _ => bits

/-! ## srbits -/

/-- One of the three rounds of R127. -/
def srRound (x : Nat) : Nat :=
  let x := x ^^^ (x / 2 ^ 32)
  let x := x * 0xE27B4D19A6C358F1 % 2 ^ 64
  x ^^^ (x / 2 ^ 29)

/-- `srbits(k, n, i, j)` (R127). -/
def srbits (k n i j : Nat) : Nat :=
  let x := (k % 2 ^ 32 * 2 ^ 32 + n % 2 ^ 32) ^^^ ((i % 2 ^ 32 * 2 ^ 32 + j % 2 ^ 32) * 0x9A3F6C1D52E8B7A5 % 2 ^ 64)
  srRound (srRound (srRound x)) / 2 ^ 32

/-! ## Exact arithmetic -/

/-- A signed finite value as an integer multiple of 2^e. -/
def signedMag (neg : Bool) (m : Nat) : Int := if neg then -(m : Int) else m

/-- Exact sum of two dyadic numbers. -/
def addDyadic (a : Int × Int) (b : Int × Int) : Int × Int :=
  if a.1 = 0 then b else if b.1 = 0 then a
  else if a.2 ≤ b.2 then (a.1 + b.1 * ((2 ^ (b.2 - a.2).toNat : Nat) : Int), a.2)
  else (a.1 * ((2 ^ (a.2 - b.2).toNat : Nat) : Int) + b.1, b.2)

/-- A dyadic number as a value, a zero taking the sign given. -/
def dyadicVal (zeroNeg : Bool) (a : Int × Int) : FVal :=
  if a.1 = 0 then .fin zeroNeg 0 0 else .fin (decide (a.1 < 0)) a.1.natAbs a.2

/-- An operation's exact result with the invalid flag it raises. -/
abbrev Exact := FVal × Flags

/-- nv of signalling operands (R129). -/
def sigFlags (xs : List FVal) : Flags :=
  { nv := xs.any fun x => match x with | .nan true => true | _ => false }

/-- Exact a + b; an exact zero sum of unlike signs is +0, or −0 under RDN (IEEE 754-2019, R129). -/
def exactAdd (mode : Nat) (a b : FVal) : Exact :=
  let sg := sigFlags [a, b]
  match a, b with
  | .nan _, _ => (.nan false, sg)
  | _, .nan _ => (.nan false, sg)
  | .inf s, .inf s' => if s = s' then (.inf s, {}) else (.nan false, { nv := true })
  | .inf s, _ => (.inf s, {})
  | _, .inf s => (.inf s, {})
  | .fin s m e, .fin s' m' e' =>
    let z := if m == 0 && m' == 0 && s == s' then s else mode == 2
    (dyadicVal z (addDyadic (signedMag s m, e) (signedMag s' m', e')), {})

/-- −a. -/
def negVal : FVal → FVal
  | .nan s => .nan s
  | .inf s => .inf (!s)
  | .fin s m e => .fin (!s) m e

/-- Exact a × b (R129). -/
def exactMul (a b : FVal) : Exact :=
  let sg := sigFlags [a, b]
  match a, b with
  | .nan _, _ => (.nan false, sg)
  | _, .nan _ => (.nan false, sg)
  | .inf s, .inf s' => (.inf (s != s'), {})
  | .inf s, .fin s' m _ => if m == 0 then (.nan false, { nv := true }) else (.inf (s != s'), {})
  | .fin s m _, .inf s' => if m == 0 then (.nan false, { nv := true }) else (.inf (s != s'), {})
  | .fin s m e, .fin s' m' e' => (.fin (s != s') (m * m') (e + e'), {})

/-- Exact a × b + c: an invalid product sets nv even when c is a quiet NaN (R143). -/
def exactFma (mode : Nat) (a b c : FVal) : Exact :=
  let (p, fp) := exactMul a b
  let (r, fr) := exactAdd mode p c
  (r, orFlags (orFlags fp fr) (sigFlags [c]))

/-- Round an exact result into its format under a mode, joining its flags. -/
def finish (p : FParams) (fpm : Word) (mode : Nat) (x : Exact) : Nat × Flags :=
  let r := roundFlt p (flushes fpm p) false mode 0 x.1
  (r.1, orFlags x.2 r.2)

/-- Order of two finite or infinite values as real numbers: a < b; −0 equals +0. -/
def ltVal (a b : FVal) : Bool :=
  match a, b with
  | .inf s, .inf s' => s && !s'
  | .inf s, .fin _ _ _ => s
  | .fin _ _ _, .inf s => !s
  | .fin s m e, .fin s' m' e' =>
    decide ((addDyadic (signedMag s m, e) (-(signedMag s' m'), e')).1 < 0)
  | _, _ => false

/-- Sign of a value. -/
def negOf : FVal → Bool
  | .nan _ => false
  | .inf s => s
  | .fin s _ _ => s

/-- minimumNumber and maximumNumber with −0 below +0 (R130); the result is one of the operands, never rounded. -/
def minMax (wantMax : Bool) (a b : FVal) : FVal :=
  match a, b with
  | .nan _, .nan _ => .nan false
  | .nan _, y => y
  | x, .nan _ => x
  | x, y =>
    let less := ltVal x y || (!ltVal y x && negOf x && !negOf y)
    if less != wantMax then x else y

/-- Ordered or unordered compare under a `fcmp` condition (Table 6.4). -/
def cmpFloat (cond : Nat) (a b : FVal) : Bool :=
  let un := match a, b with | .nan _, _ => true | _, .nan _ => true | _, _ => false
  let lt := ltVal a b
  let gt := ltVal b a
  match cond with
  | 0 => !un && !lt && !gt
  | 1 => un || lt || gt
  | 2 => !un && lt
  | 3 => !un && !gt
  | 4 => !un && gt
  | 5 => !un && !lt
  | 6 => un || lt
  | 7 => un || !gt
  | 8 => un || gt
  | 9 => un || !lt
  | 10 => !un
  | _ => un

/-! ## The exactly rounded dot product -/

/-- One product of `exact_dot()`: a finite product as a dyadic, or what kind of special it is. -/
inductive Term where
  | nan
  | inf (neg : Bool)
  | fin (neg zero : Bool) (d : Int × Int)
  deriving DecidableEq, Repr

/-- The product of two elements (R132, R133 steps 1, 2 and 6). -/
def termOf (a b : FVal) : Term :=
  match (exactMul a b).1 with
  | .nan _ => .nan
  | .inf s => .inf s
  | .fin s m e => .fin s (m == 0) (signedMag s m, e)

/-- `exact_dot()` over products and an accumulator, before the one rounding (R132, R133). -/
def dotVal (terms : List Term) : FVal :=
  if terms.any (fun t => t == .nan) then .nan false
  else
    let pos := terms.any fun t => t == .inf false
    let neg := terms.any fun t => t == .inf true
    if pos && neg then .nan false
    else if pos then .inf false
    else if neg then .inf true
    else
      let s := terms.foldl (fun acc t => match t with | .fin _ _ d => addDyadic acc d | _ => acc) (0, 0)
      let allNegZero := terms.all fun t => match t with | .fin s z _ => s && z | _ => false
      dyadicVal allNegZero s

/-- The accumulator or an addend as a term. -/
def termVal (c : FVal) : Term :=
  match c with
  | .nan _ => .nan
  | .inf s => .inf s
  | .fin s m e => .fin s (m == 0) (signedMag s m, e)

/-- `exact_dot()` to FP32 bits (R132). -/
def exactDot (as bs : List FVal) (c : FVal) : Nat :=
  (roundFlt f32P false false 0 0 (dotVal (termVal c :: List.zipWith termOf as bs))).1

/-! ## Block formats -/

/-- An element scaled by 2^(s − 127) exactly (R119 to R121); scale 255 gives NaN. -/
def scaleVal (s : Nat) (x : FVal) : FVal :=
  if s == 255 then .nan false
  else match x with
    | .fin n m e => .fin n m (e + s - 127)
    | y => y

/-- A TB8 element under its 16-bit scale record (R119, Table 5.5). -/
def tb8Elem (rec b : Nat) : FVal :=
  if rec / 256 % 64 != 0 then .nan false
  else
    let x := match rec / 16384 % 4 with
      | 0 => decodeFlt e4m3P false b
      | 1 => decodeFlt e5m2P false b
      | 2 => decodeD8 b
      | _ => intVal (toSigned 8 b)
    scaleVal (rec % 256) x

/-- A B4 element under its scale byte (R120). -/
def b4Elem (scale nib : Nat) : FVal := scaleVal scale (decodeFlt e2m1P false nib)

end Sys2Proof.Machine
end

