-- ==== Sys2Proof/Machine/Transcend.lean ====
section
/-! DEFINITION. The correctly rounded functions of Table 5.9 (spec/05_number_formats.md R131). A result that is not a dyadic
number is replaced by a dyadic number within 2^−100 of it, relatively, on the same side of every rounding boundary of FP32
(DEDUCED, log entry 13): no FP32 operand of these functions has a result nearer to a boundary unless it is exact. -/
namespace Sys2Proof.Machine

/-- floor(π × 2^512). -/
def piScaled : Nat :=
  0x3243f6a8885a308d313198a2e03707344a4093822299f31d0082efa98ec4e6c89452821e638d01377be5466cf34e90c6cc0ac29b7c97c50dd3f84d5b5b5470917

/-- floor(ln 2 × 2^512). -/
def ln2Scaled : Nat :=
  0xb17217f7d1cf79abc9e3b39803f2f6af40f343267298b62d8a0d175b8baafa2be7b876206debac98559552fb4afa1b10ed2eae35c138214427573b291169b825

/-- Digit-by-digit square root: the largest r with r² ≤ n, for n below 4^bits. -/
def isqrtBits (n : Nat) : Nat → Nat → Nat
  | 0, r => r
  | b + 1, r => isqrtBits n b (if (r + 2 ^ b) * (r + 2 ^ b) ≤ n then r + 2 ^ b else r)

/-- floor(√n). -/
def isqrt (n : Nat) : Nat := isqrtBits n (Nat.log2 n / 2 + 1) 0

/-- Σ term × y^j / ((k+1) ⋯ (k+j)) at scale 2^p, from j = 0: an exponential series, cut where a term is zero. -/
def expSeries (p y : Nat) : Nat → Nat → Nat → Nat
  | 0, _, _ => 0
  | fuel + 1, k, term => if term == 0 then 0 else term + expSeries p y fuel (k + 1) (term * y / ((k + 1) * 2 ^ p))

/-- The alternating sine series: Σ ±θ^(2j+1)/(2j+1)! at scale 2^p. -/
def sinSeries (p t2 : Nat) : Nat → Nat → Nat → Int
  | 0, _, _ => 0
  | fuel + 1, k, term =>
    if term == 0 then 0 else (term : Int) - sinSeries p t2 fuel (k + 2) (term * t2 / ((k + 1) * (k + 2) * 2 ^ p))

/-- Σ z^(2j+1)/(2j+1) at scale 2^p. -/
def atanhSeries (p z2 : Nat) : Nat → Nat → Nat → Nat
  | 0, _, _ => 0
  | fuel + 1, k, pow => if pow == 0 then 0 else pow / k + atanhSeries p z2 fuel (k + 2) (pow * z2 / 2 ^ p)

/-- A result known to lie strictly between n × 2^q and (n + 1) × 2^q. -/
def between (neg : Bool) (n : Nat) (q : Int) : FVal := .fin neg (2 * n + 1) (q - 1)

/-- Scale for an argument whose lowest bit has weight 2^e. -/
def workScale (e : Int) : Nat := 240 + (-e).toNat

/-- 1/x for a finite nonzero x. -/
def rcpVal (neg : Bool) (m : Nat) (e : Int) : FVal :=
  let k := Nat.log2 m + 64
  let n := 2 ^ k / m
  if n * m == 2 ^ k then .fin neg n (-e - k) else between neg n (-e - k)

/-- √(m × 2^e). -/
def sqrtVal (m : Nat) (e : Int) : FVal :=
  let (m, e) := if e % 2 = 0 then (m, e) else (2 * m, e - 1)
  let n := isqrt (m * 2 ^ 128)
  if n * n == m * 2 ^ 128 then .fin false n (e / 2 - 64) else between false n (e / 2 - 64)

/-- 1/√(m × 2^e). -/
def rsqVal (m : Nat) (e : Int) : FVal :=
  let (m, e) := if e % 2 = 0 then (m, e) else (2 * m, e - 1)
  let k := Nat.log2 m + 64
  let n := isqrt (2 ^ (2 * k) / m)
  if n * n * m == 2 ^ (2 * k) then .fin false n (-(e / 2) - k) else between false n (-(e / 2) - k)

/-- 2^x for a finite nonzero x; an integer x is exact. -/
def exp2Val (neg : Bool) (m : Nat) (e : Int) : FVal :=
  let big : FVal := .fin false 1 (if neg then -10000 else 10000)
  if e ≥ 14 then big
  else
    let d : Nat := 2 ^ (-e).toNat
    let x : Int := signedMag neg (m * 2 ^ e.toNat)
    let k := x / (d : Int)
    let f := (x % (d : Int)).toNat
    if f == 0 then (if k > 10000 || k < -10000 then big else .fin false 1 k)
    else if k > 10000 || k < -10000 then big
    else
      let p := workScale e
      let y := f * (2 ^ p / d) * ln2Scaled / 2 ^ 512
      between false (expSeries p y 300 0 (2 ^ p)) (k - p)

/-- log2 of m × 2^e, m nonzero; a power of two is exact. -/
def log2Val (m : Nat) (e : Int) : FVal :=
  let l := Nat.log2 m
  let k : Int := (l : Int) + e
  if m == 2 ^ l then dyadicVal false (k, 0)
  else
    let p := 300
    -- y = m / 2^l lies in (1, 2); ln y = 2 atanh((y - 1) / (y + 1))
    let z := (m - 2 ^ l) * 2 ^ p / (m + 2 ^ l)
    let ln := 2 * atanhSeries p (z * z / 2 ^ p) 200 1 z
    let v : Int := k * ((2 ^ p : Nat) : Int) + (ln * 2 ^ 512 / ln2Scaled : Nat)
    if v < 0 then .fin true (2 * v.natAbs - 1) (-(p : Int) - 1) else .fin false (2 * v.natAbs + 1) (-(p : Int) - 1)

/-- sin(π f × 2^e) for 0 < f × 2^e < 1/2, e below 0. -/
def sinPiSmall (neg : Bool) (f : Nat) (e : Int) : FVal :=
  let p := workScale e
  let t := f * 2 ^ (p - (-e).toNat) * piScaled / 2 ^ 512
  let s := (sinSeries p (t * t / 2 ^ p) 300 1 t).toNat
  between neg (if s ≥ 2 ^ p then 2 ^ p - 1 else s) (-(p : Int))

/-- sin(πx) for a finite nonzero x: an integer gives a zero of x's sign, n + 1/2 gives ±1 (Table 5.9). -/
def sinPiVal (neg : Bool) (m : Nat) (e : Int) : FVal :=
  if e ≥ 0 then .fin neg 0 0
  else
    let d : Nat := 2 ^ (-e).toNat
    let r := m % (2 * d)
    if r % d == 0 then .fin neg 0 0
    else
      let sgn := if r > d then !neg else neg
      let r := r % d
      if 2 * r == d then .fin sgn 1 0
      else sinPiSmall sgn (if 2 * r > d then d - r else r) e

/-- cos(πx) for a finite x: n + 1/2 gives +0. -/
def cosPiVal (m : Nat) (e : Int) : FVal :=
  if e ≥ 0 then .fin (m * 2 ^ e.toNat % 2 == 1) 1 0
  else
    let d : Nat := 2 ^ (-e).toNat
    let r := m % (2 * d)
    let r := if r > d then 2 * d - r else r
    if r == 0 then .fin false 1 0
    else if r == d then .fin true 1 0
    else if 2 * r == d then .fin false 0 0
    -- cos(πr/d) = sin(π(1/2 - r/d)); in halves of 2^e the argument is d - 2r
    else if 2 * r < d then sinPiSmall false (d - 2 * r) (e - 1)
    else sinPiSmall true (2 * r - d) (e - 1)

/-- tanh x for a finite nonzero x. -/
def tanhVal (neg : Bool) (m : Nat) (e : Int) : FVal :=
  if (Nat.log2 m : Int) + e ≥ 4 then between neg (2 ^ 60 - 1) (-60)
  else
    let p := workScale e
    let y := 2 * (m * 2 ^ (p + e).toNat)
    let em1 := expSeries p y 400 1 y
    between neg (em1 * 2 ^ p / (em1 + 2 * 2 ^ p)) (-(p : Int))

/-- The functions of Table 5.9. -/
inductive Fn where
  | rcp | rsq | sqrt | exp2 | log2 | sin | cos | tanh
  deriving DecidableEq, Repr

/-- The exact result of a function of Table 5.9 with its special values and its nv and dz flags. -/
def fnVal (f : Fn) (x : FVal) : Exact :=
  match f, x with
  | _, .nan sg => (.nan false, { nv := sg })
  | .rcp, .inf s => (.fin s 0 0, {})
  | .rcp, .fin s m e => if m == 0 then (.inf s, { dz := true }) else (rcpVal s m e, {})
  | .rsq, .inf s => if s then (.nan false, { nv := true }) else (.fin false 0 0, {})
  | .rsq, .fin s m e =>
    if m == 0 then (.inf s, { dz := true }) else if s then (.nan false, { nv := true }) else (rsqVal m e, {})
  | .sqrt, .inf s => if s then (.nan false, { nv := true }) else (.inf false, {})
  | .sqrt, .fin s m e =>
    if m == 0 then (.fin s 0 0, {}) else if s then (.nan false, { nv := true }) else (sqrtVal m e, {})
  | .exp2, .inf s => (if s then .fin false 0 0 else .inf false, {})
  | .exp2, .fin s m e => (if m == 0 then .fin false 1 0 else exp2Val s m e, {})
  | .log2, .inf s => if s then (.nan false, { nv := true }) else (.inf false, {})
  | .log2, .fin s m e =>
    if m == 0 then (.inf true, { dz := true }) else if s then (.nan false, { nv := true }) else (log2Val m e, {})
  | .sin, .inf _ => (.nan false, { nv := true })
  | .sin, .fin s m e => (if m == 0 then .fin s 0 0 else sinPiVal s m e, {})
  | .cos, .inf _ => (.nan false, { nv := true })
  | .cos, .fin _ m e => (if m == 0 then .fin false 1 0 else cosPiVal m e, {})
  | .tanh, .inf s => (.fin s 1 0, {})
  | .tanh, .fin s m e => (if m == 0 then .fin s 0 0 else tanhVal s m e, {})

/-- A transcendental instruction on FP32 bits: RNE whatever `fpm` rm, ftz obeyed (R131). -/
def transcend (f : Fn) (fpm : Word) (a : Nat) : Nat × Flags :=
  finish f32P fpm 0 (fnVal f (decodeFlt f32P (fpmFtz fpm) a))

end Sys2Proof.Machine
end

