-- ==== Sys2Proof/Machine/Operands.lean ====
section
/-! DEFINITION. Every operand form of a lane instruction: source codes (R73 to R75), affine and predicate operands (R76, R79),
guards (R69), destinations and latches (R66), and the issue of one instruction for an issue group (R65, R134 to R136). -/
namespace Sys2Proof.Machine

/-- The format in which a lane operand is read (R74). -/
inductive SrcKind where
  | int | f32 | f64 | f16 | bf16
  deriving DecidableEq, Repr

/-- Bits of an exact small number in a format, in both halves of a packed one (R74). -/
def constBits (k : SrcKind) (v : FVal) : Nat :=
  match k with
  | .int => (roundFlt f32P false false 0 0 v).1
  | .f32 => (roundFlt f32P false false 0 0 v).1
  | .f64 => (roundFlt f64P false false 0 0 v).1
  | .f16 => (roundFlt f16P false false 0 0 v).1 * 65537
  | .bf16 => (roundFlt bf16P false false 0 0 v).1 * 65537

/-- Bits of an integer source code in a format, at a width (R74). -/
def intConst (k : SrcKind) (width : Nat) (n : BitVec 5) : Nat :=
  let i : Int := (n.toNat : Int) - 16
  match k with
  | .int => intBits width i
  | _ => constBits k (intVal i)

/-- A register-index fault (R75, R91). -/
def regIndexFault : FaultInfo := { cls := fcRegIndex }

/-- A lane register; a register beyond the declared count does not exist for the thread (R91). -/
def regOf (t : Thread) (r : Nat) : Word := t.regs.getD r 0

/-- A register pair: the even register holds bits [31:0] (R112). -/
def pairOf (t : Thread) (r : Nat) : DWord := regOf t (r + 1) ++ regOf t r

/-- A lane register source that an uncorrectable error poisoned (R233, R235). -/
def regChecked (t : Thread) (r n : Nat) : Except FaultInfo Unit :=
  if (List.range n).any fun i => t.poison.getLsbD (r + i) then .error { cls := fcPoison } else .ok ()

/-- Register number of an index register, checked against the thread's window for n registers (R75). -/
def indexed (t : Thread) (k : BitVec 2) (n : Nat) : Except FaultInfo Nat :=
  let r := (t.x.getD k.toNat 0).toNat
  if t.winLo.toNat ≤ r && r + n ≤ t.winHi.toNat + 1 && (n == 1 || r % 2 == 0) then .ok r else .error regIndexFault

/-- Affine register k of a group. -/
def affOf (g : Group) (k : Nat) : Affine := g.affine.getD k {}

/-- Value of an affine register for a thread (R73, R96). -/
def affVal (a : Affine) (t : Nat) : DWord := a.base + a.stride.signExtend 64 * BitVec.ofNat 64 t

/-- A 32-bit source operand of a thread (Table 3.3). -/
def readSrc32 (k : SrcKind) (g : Group) (t : Thread) (src : Src) : Except FaultInfo Word :=
  match src with
  | .v r => do regChecked t r.toNat 1; pure (regOf t r.toNat)
  | .a n => pure ((affVal (affOf g n.toNat) t.idx).setWidth 32)
  | .vx n => do let r ← indexed t n 1; regChecked t r 1; pure (regOf t r)
  | .l0 => pure (t.l0.setWidth 32)
  | .l1 => pure (t.l1.setWidth 32)
  | .zero => pure 0
  | .tid => pure (BitVec.ofNat 32 t.idx)
  | .lane => pure (BitVec.ofNat 32 (laneOf g t.idx))
  | .gid => pure (BitVec.ofNat 32 g.gid)
  | .ones => pure (BitVec.allOnes 32)
  | .one => pure (BitVec.ofNat 32 (constBits k (.fin false 1 0)))
  | .half => pure (BitVec.ofNat 32 (constBits k (.fin false 1 (-1))))
  | .two => pure (BitVec.ofNat 32 (constBits k (.fin false 2 0)))
  | .int n => pure (BitVec.ofNat 32 (intConst k 32 n))

/-- A 64-bit source operand of a thread (Table 3.3). -/
def readSrc64 (k : SrcKind) (g : Group) (t : Thread) (src : Src) : Except FaultInfo DWord :=
  match src with
  | .v r => do regChecked t r.toNat 2; pure (pairOf t r.toNat)
  | .a n => pure (affVal (affOf g n.toNat) t.idx)
  | .vx n => do let r ← indexed t n 2; regChecked t r 2; pure (pairOf t r)
  | .l0 => pure t.l0
  | .l1 => pure t.l1
  | .zero => pure 0
  | .tid => pure (BitVec.ofNat 64 t.idx)
  | .lane => pure (BitVec.ofNat 64 (laneOf g t.idx))
  | .gid => pure (BitVec.ofNat 64 (g.gid % 2 ^ 32))
  | .ones => pure (BitVec.allOnes 64)
  | .one => pure (BitVec.ofNat 64 (constBits k (.fin false 1 0)))
  | .half => pure (BitVec.ofNat 64 (constBits k (.fin false 1 (-1))))
  | .two => pure (BitVec.ofNat 64 (constBits k (.fin false 2 0)))
  | .int n => pure (BitVec.ofNat 64 (intConst k 64 n))

/-- Predicate register n; p7 reads true (Table 4.1). -/
def predOf (t : Thread) (n : BitVec 3) : Bool := if n = 7 then true else t.preds.getLsbD n.toNat

/-- A predicate source: p[n] xor neg (R79, R140). -/
def readPred (t : Thread) (p : PredSrc) : Bool := predOf t p.n != p.neg

/-- A predicate written; a write to p7 is discarded (R90, R138). -/
def putPred (t : Thread) (n : BitVec 3) (b : Bool) : Thread :=
  if n = 7 then t
  else
    let m : BitVec 7 := 1#7 <<< n.toNat
    { t with preds := if b then t.preds ||| m else t.preds &&& ~~~m }

/-- A guard for a thread (R69). -/
def guardTrue (t : Thread) (g : Guard) : Bool := predOf t g.p != g.neg

/-- The latch shift of one instruction (R66). -/
def shiftLatch (t : Thread) (x : DWord) : Thread := { t with l1 := t.l0, l0 := x }

/-- A register written: the value replaces it and any poison mark on it goes. -/
def setReg (t : Thread) (r : Nat) (x : Word) : Thread :=
  { t with regs := t.regs.set r x, poison := if t.poison = 0 then 0 else t.poison &&& ~~~(1#128 <<< r) }

/-- A pair written (R112). -/
def setPair (t : Thread) (r : Nat) (x : DWord) : Thread :=
  setReg (setReg t r (x.setWidth 32)) (r + 1) ((x >>> 32).setWidth 32)

/-- `put(t, x)` of a 32-bit result (R134, R66). -/
def put32 (t : Thread) (nw : Bool) (d : BitVec 7) (x : Word) : Thread :=
  shiftLatch (if nw then t else setReg t d.toNat x) (x.setWidth 64)

/-- `put(t, x)` of a 64-bit result. -/
def put64 (t : Thread) (nw : Bool) (d : BitVec 7) (x : DWord) : Thread :=
  shiftLatch (if nw then t else setPair t d.toNat x) x

/-- What a latch producer whose guard is false shifts in: its destination as it stands, or zero with nw (R69). -/
def keep32 (t : Thread) (nw : Bool) (d : BitVec 7) : Thread :=
  shiftLatch t (if nw then 0 else (regOf t d.toNat).setWidth 64)

/-- The same for a 64-bit producer. -/
def keep64 (t : Thread) (nw : Bool) (d : BitVec 7) : Thread := shiftLatch t (if nw then 0 else pairOf t d.toNat)

/-! ## One instruction of an issue group -/

/-- What a lane instruction makes of one thread: the thread after it with the flags it raised, or the fault it takes. -/
abbrev LaneOut := Except FaultInfo (Thread × Flags)

/-- The view of a group that the head issue group keeps, when another issue group has written its control registers or
segments since the clause began (R104). -/
def staleOf (s : State) (gk : Nat) : Option StaleView :=
  match s.issues with
  | [] => none
  | i :: _ => i.stale.find? fun v => v.gk == gk

/-- A group as the head issue group reads it: flags raised since then show in any case (R104, R106). -/
def viewOf (s : State) (g : Group) : Group :=
  match staleOf s g.gk with
  | none => g
  | some v => { g with ctl := { v.ctl with fpm := v.ctl.fpm ||| (g.ctl.fpm &&& 0x1F00) }, segs := v.segs }

/-- A member of the head issue group with its group, as the issue group reads it, and its thread. -/
def memberOf (s : State) (m : Nat × Nat) : Option (Group × Thread) :=
  match groupOf s m.1 with
  | none => none
  | some g => (threadOf g m.2).map fun t => (viewOf s g, t)

/-- Members of the head issue group. -/
def headMembers (s : State) : List (Nat × Nat) :=
  match s.issues with
  | [] => []
  | i :: _ => i.members

/-- Site of the next instruction of the head issue group. -/
def headSite (s : State) : FaultSite :=
  match s.issues with
  | [] => { pc := 0, index := 0, hdr := 0, n := 0 }
  | i :: _ => siteOf i

/-- Write the result of one thread: its state, and its flags into `fpm` of its group (R106). -/
def applyLane (f : Group → Thread → LaneOut) (s0 s : State) (m : Nat × Nat) : State :=
  match memberOf s0 m with
  | none => s
  | some (g, t) =>
    match f g t with
    | .error _ => s
    | .ok (t', fl) =>
      modGroup s m.1 fun g => { updThread g m.2 (fun _ => t') with ctl := { g.ctl with fpm := raiseFlags g.ctl.fpm fl } }

/-- The fault of one thread, if its operands cause one (R65). -/
def laneFault (f : Group → Thread → LaneOut) (s : State) (m : Nat × Nat) : Option Faulting :=
  match memberOf s m with
  | none => none
  | some (g, t) =>
    match f g t with
    | .error e => some { gk := m.1, tid := m.2, f := e }
    | .ok _ => none

/-- Threads that faulted leave the issue group; the others go on past an instruction of `w` words (R65, R136). -/
def finishInstr (s : State) (w : Nat) (faults : List Faulting) : State :=
  let site := headSite s
  let s := advance s w (faults.map fun x => (x.gk, x.tid))
  if faults.isEmpty then s else takeFaults s site faults

/-- A lane instruction: every thread of the issue group reads its operands before any destination is written (R7); a thread
whose operands fault keeps everything and takes its fault (R65). -/
def runLanes (s : State) (w : Nat) (f : Group → Thread → LaneOut) : State :=
  let ms := headMembers s
  finishInstr (ms.foldl (applyLane f s) s) w (ms.filterMap (laneFault f s))

/-- A lane result with no flags. -/
def plain (t : Thread) : LaneOut := .ok (t, {})

/-- The groups of the head issue group, in the order of their first member. -/
def headGroups (s : State) : List Nat :=
  (headMembers s).foldl (fun acc m => if acc.contains m.1 then acc else acc ++ [m.1]) []

/-- Threads of a group in the head issue group. -/
def headThreads (s : State) (gk : Nat) : List Nat := ((headMembers s).filter fun m => m.1 == gk).map fun m => m.2

/-- Every thread of the issue group shifts zero into l0: the latch effect of an instruction that is no latch producer. -/
def shiftZero (s : State) : State :=
  (headMembers s).foldl (fun s m => modThread s m.1 m.2 fun t => shiftLatch t 0) s

end Sys2Proof.Machine
end

