-- ==== Sys2Proof/Machine/Records.lean ====
section
/-! DEFINITION. The records of the task hardware as bits: task records, kernel descriptors, grid records, frame records, phase
and pre-emption records, ownership tables (spec/12_task_queues.md Tables 12.3 to 12.7, spec/10_memory_model.md Table 10.2). -/
namespace Sys2Proof.Machine

/-- A task record from its 512 bits (Table 12.3). A gcount of 0 means 2^32. -/
def parseRecord (v : Nat) : TaskRecord :=
  { kdesc := field v 0 57
    kind := field v 57 4
    cls := field v 61 2
    det := bitOf v 63
    arg := field v 64 57
    part := field v 121 3
    world := bitOf v 124
    farr := field v 128 57
    depth := field v 185 4
    prec := field v 192 57
    carry := field v 249 7
    gfirst := field v 256 32
    gcount := if field v 288 32 = 0 then 2 ^ 32 else field v 288 32
    threads := field v 320 8
    regs8 := field v 328 5
    spkib := field v 333 10
    fuse := bitOf v 343
    slots := field v 344 9
    ztiles := field v 353 5
    pin := bitOf v 358
    pcore := field v 359 8
    taskid := field v 384 32
    lcores := field v 416 16
    szsel := field v 432 10
    cfut := field v 448 57
    variant := field v 505 2
    rsv := field v 125 3 != 0 || field v 189 3 != 0 || field v 367 17 != 0 || field v 442 6 != 0 || field v 507 5 != 0 }

/-- The 512 bits of a task record (Table 12.3). -/
def encodeRecord (r : TaskRecord) : Nat :=
  r.kdesc + 2 ^ 57 * r.kind + 2 ^ 61 * r.cls + 2 ^ 63 * r.det.toNat + 2 ^ 64 * r.arg + 2 ^ 121 * r.part + 2 ^ 124 * r.world.toNat
  + 2 ^ 128 * r.farr + 2 ^ 185 * r.depth + 2 ^ 192 * r.prec + 2 ^ 249 * r.carry + 2 ^ 256 * r.gfirst
  + 2 ^ 288 * (r.gcount % 2 ^ 32) + 2 ^ 320 * r.threads + 2 ^ 328 * r.regs8 + 2 ^ 333 * r.spkib + 2 ^ 343 * r.fuse.toNat
  + 2 ^ 344 * r.slots + 2 ^ 353 * r.ztiles + 2 ^ 358 * r.pin.toNat + 2 ^ 359 * r.pcore + 2 ^ 384 * r.taskid + 2 ^ 416 * r.lcores
  + 2 ^ 432 * r.szsel + 2 ^ 448 * r.cfut + 2 ^ 505 * r.variant

/-- R287, apart from the world a device enqueuer must match: the record is valid for an enqueuer of a partition. -/
def recordValid (r : TaskRecord) (part : Nat) : Bool :=
  !r.rsv && decide (r.kind < 5) && r.part == part && r.kdesc % 256 == 0 && r.farr % 64 == 0 && r.prec % 512 == 0 &&
  r.cfut % 32 == 0 && decide (1 ≤ r.threads) && decide (r.threads ≤ 128) && decide (2 ≤ r.regs8) && decide (r.regs8 ≤ 16) &&
  decide (r.spkib ≤ 512) && decide (r.slots ≤ 256) && decide (r.ztiles ≤ 16) && decide (r.carry ≤ 64) &&
  (r.prec == 0 || r.gcount == 1) &&
  (if r.det then decide (1 ≤ r.lcores) && decide (r.lcores ≤ 1024) else r.lcores == 0)

/-- Variant k of a kernel descriptor (Table 12.4). -/
def parseVariant (v k : Nat) : Variant :=
  { pc := field v (128 * k) 57
    bound := field v (128 * k + 64) 32
    regs := field v (128 * k + 96) 8
    carry := field v (128 * k + 104) 8
    valid := bitOf v (128 * k + 112) }

/-- Reserved bits of variant k are set. -/
def variantRsv (v k : Nat) : Bool := field v (128 * k + 57) 7 != 0 || field v (128 * k + 113) 15 != 0

/-- A kernel descriptor from its 2,048 bits (Table 12.4); the launch defaults are not read (R89). -/
def parseKDesc (v : Nat) : KDesc :=
  { variants := (List.range 4).map (parseVariant v)
    argsz := field v 512 64
    fsz := field v 576 32
    cmax := field v 608 8
    hpcdef := field v 640 64
    segs := (List.range 3).map fun j => (BitVec.ofNat 64 (field v (704 + 128 * j) 64), BitVec.ofNat 64 (field v (768 + 128 * j) 64))
    otab := field v 1088 64
    ocount := field v 1152 16
    stgE := field v 1168 16
    stg := field v 1184 64
    ticks := (List.range 4).map fun j => field v (1248 + 64 * j) 64
    rsv := field v 616 24 != 0 || field v 1543 9 != 0 || field v 1568 480 != 0 ||
      (List.range 4).any fun k => bitOf v (128 * k + 112) && variantRsv v k }

/-- R288: the descriptor may be dispatched. -/
def kdescValid (d : KDesc) : Bool :=
  let flags := d.variants.map fun x => x.valid
  let count := (flags.takeWhile id).length
  !d.rsv && decide (1 ≤ count) && (flags.drop count).all (fun b => !b) &&
  (d.variants.take count).all fun x =>
    x.pc % 4 == 0 && decide (16 ≤ x.regs) && decide (x.regs ≤ 128) && x.regs % 8 == 0 && decide (x.carry ≤ 64) && decide (x.carry ≤ x.regs)

/-- R47: the variant with the smallest bound that holds the size, else the one with the largest bound; equal bounds go to the
lower index. -/
def chooseVariant (d : KDesc) (size : Nat) : Nat :=
  let vs := (enumFrom 0 d.variants).filter fun e => e.2.valid
  let fits := vs.filter fun e => size ≤ e.2.bound
  let pick (better : Nat → Nat → Bool) (l : List (Nat × Variant)) : Nat :=
    match l with
    | [] => 0
    | e :: r => (r.foldl (fun a b => if better b.2.bound a.2.bound then b else a) e).1
  if fits.isEmpty then pick (fun x y => decide (x > y)) vs else pick (fun x y => decide (x < y)) fits

/-- Bytes of one slot of a frame array (R289). -/
def slotBytes (d : KDesc) : Nat := 1600 + 512 * d.cmax + 128 * d.fsz

/-- Frame record VA of a group's slot (R289). -/
def frameVa (r : TaskRecord) (d : KDesc) (gfirst0 gid : Nat) : Nat := r.farr + 64 + (gid - gfirst0) * slotBytes d

/-- VA of the frame area of a slot: the base of segment 3 (R289). -/
def frameArea (d : KDesc) (frame : Nat) : Nat := frame + 64 + 1536 + 512 * d.cmax

/-- The grid record the hardware writes at accept (Table 12.5). -/
def gridRecord (r : TaskRecord) (parent : Nat) (rec' : Bool) : Nat :=
  r.gcount + 2 ^ 64 * r.gfirst + 2 ^ 96 * r.taskid + 2 ^ 128 * parent + 2 ^ 192 * r.cfut + 2 ^ 321 * r.det.toNat
  + 2 ^ 322 * r.depth + 2 ^ 342 * rec'.toNat

/-- The frame record the hardware writes at group start (Table 12.6). -/
def frameRecord (r : TaskRecord) (parent : Nat) : Nat :=
  2 ^ 64 * parent + 2 ^ 128 * r.taskid + 2 ^ 160 * r.depth + 2 ^ 164 * r.det.toNat

/-- One thread's 8 bytes of a thread block (R292). -/
def threadBlock (t : Thread) : Nat :=
  t.preds.toNat + 2 ^ 8 * (t.x.getD 0 0).toNat + 2 ^ 15 * (t.x.getD 1 0).toNat + 2 ^ 22 * (t.x.getD 2 0).toNat
  + 2 ^ 29 * (t.x.getD 3 0).toNat + 2 ^ 36 * t.winLo.toNat + 2 ^ 43 * t.winHi.toNat

/-- A thread's predicates, index registers and window from its 8 bytes. -/
def loadBlock (t : Thread) (v : Nat) : Thread :=
  { t with
    preds := BitVec.ofNat 7 v
    x := [BitVec.ofNat 7 (field v 8 7), BitVec.ofNat 7 (field v 15 7), BitVec.ofNat 7 (field v 22 7), BitVec.ofNat 7 (field v 29 7)]
    winLo := BitVec.ofNat 7 (field v 36 7)
    winHi := BitVec.ofNat 7 (field v 43 7) }

/-- Σ over a list of numbers, each in its field of w bits from bit lo upwards. -/
def packFields (w : Nat) : Nat → List Nat → Nat
  | _, [] => 0
  | lo, x :: r => 2 ^ lo * (x % 2 ^ w) + packFields w (lo + w) r

/-- The low 4,096 bits of a phase or pre-emption record (Table 12.7). -/
def phaseHeader (g : Group) (rpc : DWord) (carry wobj : Nat) : Nat :=
  let live := (liveThreads g).foldl (fun m t => m + 2 ^ t.idx) 0
  let c := g.ctl
  rpc.toNat + 2 ^ 64 * live + 2 ^ 192 * carry + 2 ^ 200 * g.variant + 2 ^ 208 * g.segset.toNat + 2 ^ 256 * wobj
  + packFields 96 320 (g.affine.map fun a => a.base.toNat + 2 ^ 64 * a.stride.toNat)
  + packFields 128 1856 ((enumFrom 0 (g.segs.drop 5)).map fun e =>
      if g.segset.getLsbD e.1 then e.2.base.toNat + 2 ^ 64 * e.2.limit.toNat else 0)
  + packFields 32 2240 [c.fpm.toNat, c.srkey.toNat, c.srn.toNat, c.tol.toNat, c.mpol.toNat, c.zbank.toNat]
  + 2 ^ 2432 * c.hpc.toNat + 2 ^ 2496 * c.hinfo.toNat + 2 ^ 2560 * c.hva.toNat
  + 2 ^ 2624 * c.svpcr.toNat + 2 ^ 2688 * c.svinfo.toNat + 2 ^ 2752 * c.svva.toNat

/-- `fpm` from a record's word: a rounding code above 3 leaves the field as it was, and reserved bits read zero (R105, R122). -/
def loadFpm (old v : Word) : Word := (if (v &&& 7#32).toNat < 4 then v &&& 7#32 else old &&& 7#32) ||| (v &&& 0x1F18#32)

/-- Group-scope control registers from a record's header (Table 12.7): a field that cannot hold what memory gives keeps its value, as
at a write (R105). -/
def loadCtl (old : GroupCtl) (v : Nat) : GroupCtl :=
  let w (lo : Nat) : Word := BitVec.ofNat 32 (field v lo 32)
  let d (lo : Nat) : DWord := BitVec.ofNat 64 (field v lo 64)
  { fpm := loadFpm old.fpm (w 2240), srkey := w 2272, srn := w 2304, tol := writeTol (w 2336), mpol := writeMpol old.mpol (w 2368)
    zbank := w 2400 &&& 1#32,
    hpc := d 2432, hinfo := w 2496, hva := d 2560, svpcr := d 2624, svinfo := w 2688, svva := d 2752 }

/-- Affine registers from a record's header. -/
def loadAffine (v : Nat) : List Affine :=
  (List.range 16).map fun k =>
    { base := BitVec.ofNat 64 (field v (320 + 96 * k) 64), stride := BitVec.ofNat 32 (field v (384 + 96 * k) 32) }

/-- Segments 5 to 7 from a record's header. -/
def loadSegs (v : Nat) : List Segment :=
  (List.range 3).map fun j =>
    { base := BitVec.ofNat 64 (field v (1856 + 128 * j) 64), limit := BitVec.ofNat 64 (field v (1920 + 128 * j) 64) }

/-- An entry of an ownership table from its 128 bits, with whether it is valid by itself (R251, Table 10.2). -/
def parseOwn (v : Nat) : OwnEntry × Bool :=
  let e : OwnEntry :=
    { sharedLine := bitOf v 0, line := field v 9 48, obase := field v 64 32, lpo := field v 96 16, count := field v 112 16 }
  (e, field v 1 8 == 0 && field v 57 7 == 0 && e.count != 0 &&
    (if e.sharedLine then e.lpo == 0 && e.obase == 0 else e.lpo != 0))

/-- Entries in ascending order of start, none overlapping (R251). -/
def ownOrdered : List OwnEntry → Bool
  | a :: b :: r => decide (a.line + a.count ≤ b.line) && ownOrdered (b :: r)
  | _ => true

end Sys2Proof.Machine
end

