-- ==== Sys2Proof/Machine/Queues.lean ====
section
/-! DEFINITION. Decks, the skidder and landings, the task table, acceptance of a record, parked waiters and futures as the
hardware updates them (spec/12_task_queues.md R281 to R308, spec/13_task_instructions.md R311 to R322). -/
namespace Sys2Proof.Machine

/-- Clusters of a partition in ascending number (Table 18.4 `pclust`). -/
def partClusters (s : State) (p : Nat) : List Nat :=
  (List.range Config.clusters).filter fun g => (partOf s p).pclust.getLsbD g

/-- The partition that owns a cluster and is enabled. -/
def ownerOf (s : State) (g : Nat) : Option Nat :=
  (List.range 8).find? fun p => (partOf s p).pclust.getLsbD g && (partOf s p).pctl.getLsbD 0

/-- A cluster runs in the secure world (Table 18.4 `pswld`). -/
def secureCluster (s : State) (g : Nat) : Bool :=
  match ownerOf s g with
  | some p => (partOf s p).pswld.getLsbD g
  | none => false

/-- A cluster is gated, or its gating is requested (R24, R438). -/
def gated (s : State) (g : Nat) : Bool := s.cgate.getLsbD g || s.cgated.getLsbD g

/-- The descriptor of an enabled partition (R418). -/
def descOf (s : State) (p : Nat) : PartDesc :=
  (partOf s p).desc.getD { taskTable := 0, landing := 0, preempt := 0, viewTable := 0, lockTable := 0, invPage := 0, m := 10, q := 8, ts := [] }

/-! ## The task table (R302, Table 12.10) -/

/-- VA of the entry of a task identifier. -/
def taskEntryVa (s : State) (part taskid : Nat) : Nat := (descOf s part).taskTable + 16 * (taskid % 2 ^ (descOf s part).m)

/-- Read an entry; an entry that cannot be read shows nothing, and event 9 records it (R465). -/
def readEntry (s : State) (part taskid : Nat) : State × Option Nat :=
  match hwRead s part false (taskEntryVa s part taskid) 16 with
  | (s, .ok bs) => (s, some (leNat bs))
  | (s, .error f) => (recordEvent s part (some f), none)

/-- Change the entry of a grid whose entry records it. -/
def entryUpdate (s : State) (g : Grid) (f : Nat → Nat) : State :=
  if !g.recorded then s
  else
    let (s, e) := hwUpdate s g.record.part false (taskEntryVa s g.record.part g.record.taskid) 16 f
    recordEvent s g.record.part e

/-- State of an entry. -/
def entryState (e : Nat) : Nat := field e 32 3

/-- An owner's entry shows state 5 (R303). -/
def ownerFailed (s : State) (part owner : Nat) : State × Bool :=
  if owner = 0 then (s, false)
  else
    match readEntry s part owner with
    | (s, some e) => (s, field e 0 32 == owner && entryState e == 5)
    | (s, none) => (s, false)

/-- A task-table entry with the place of a record: cluster, landing, slot (Table 12.10). -/
def setPlace (v cluster : Nat) (inland : Bool) (slot : Nat) : Nat :=
  setField (setField (setField v 35 5 cluster) 40 1 inland.toNat) 41 14 slot

/-- A task-table entry is about this record: the unstarted groups' in state 1, the parked group's that it names in state 3 (R302). -/
def entryNames (s : State) (e : DeckEntry) (v : Nat) : Bool :=
  match e.cont with
  | none => entryState v == 1
  | some gk => entryState v == 3 && (groupOf s gk).any fun p => field v 64 57 == phaseRecordVa p

/-- Note where a record lies, in its task's entry when that is about it (R302). -/
def noteWhere (s : State) (e : DeckEntry) (cluster : Nat) (inland : Bool) (slot : Nat) : State :=
  match gridOf s e.grid with
  | none => s
  | some g => entryUpdate s g fun v => if entryNames s e v then setPlace v cluster inland slot else v

/-! ## Decks and landings (R283, R284) -/

/-- A deck of a cluster. -/
def deckOf (s : State) (g cls : Nat) : List DeckEntry := (clusterOf s g).decks.getD cls []
/-- A landing of a cluster, oldest first. -/
def landingOf (s : State) (g cls : Nat) : List (Nat × DeckEntry) := (clusterOf s g).landings.getD cls []
/-- Records that wait for landing room. -/
def waitingOf (s : State) (g cls : Nat) : List DeckEntry := (clusterOf s g).waiting.getD cls []
/-- The state with a deck replaced. -/
def setDeck (s : State) (g cls : Nat) (l : List DeckEntry) : State :=
  modCluster s g fun c => { c with decks := c.decks.set cls l }
/-- The state with a landing replaced. -/
def setLanding (s : State) (g cls : Nat) (l : List (Nat × DeckEntry)) : State :=
  modCluster s g fun c => { c with landings := c.landings.set cls l }
/-- The state with a waiting list replaced. -/
def setWaiting (s : State) (g cls : Nat) (l : List DeckEntry) : State :=
  modCluster s g fun c => { c with waiting := c.waiting.set cls l }

/-- Records a landing holds (Table 12.2). -/
def landingRoom (s : State) (part : Nat) : Nat := 2 ^ (descOf s part).q

/-- VA of a landing slot: 4 landings per cluster of the partition, in ascending cluster and then class (Table 12.2). -/
def landingVa (s : State) (part g cls slot : Nat) : Nat :=
  let idx := ((partClusters s part).takeWhile fun c => c != g).length
  (descOf s part).landing + ((idx * 4 + cls) * landingRoom s part + slot) * 64

/-- Where the record of a grid's lowest unstarted group lies: cluster, whether in the landing, slot. -/
def unstartedPlace (s : State) (grid : Nat) : Option (Nat × Bool × Nat) :=
  let mine (e : DeckEntry) : Bool := e.grid == grid && e.cont.isNone && !e.failed
  let all := (List.range Config.clusters).flatMap fun g => [0, 1, 2, 3].flatMap fun cls =>
    ((deckOf s g cls).filter mine).map (fun e => (e.record.gfirst, g, false, e.slot))
    ++ ((landingOf s g cls).filter fun x => mine x.2).map fun x => (x.2.record.gfirst, g, true, x.1)
  (sortBy (fun x => x.1) all).head?.map fun x => x.2

/-- The lowest free slot of a deck. -/
def freeSlot (l : List DeckEntry) : Nat :=
  ((List.range 257).find? fun n => !(l.any fun e => e.slot == n)).getD 0

/-- Append a record to a landing, in memory and in the hardware's own account; a record that cannot be written is lost and
event 9 records it (R465). -/
def pushLanding (part g cls : Nat) (s : State) (e : DeckEntry) : State :=
  let slot := (clusterOf s g).landTail.getD cls 0
  let (s, f) := hwWrite s part false (landingVa s part g cls slot) (leBytes (encodeRecord e.record) 64)
  match f with
  | some f => recordEvent s part (some f)
  | none =>
    let s := modCluster s g fun c => { c with landTail := c.landTail.set cls ((slot + 1) % landingRoom s part) }
    let s := setLanding s g cls (landingOf s g cls ++ [(slot, { e with slot := slot })])
    noteWhere s e g true slot

/-- Append a record to a deck, spilling the newest ones above the high-water mark (R284). -/
def pushDeck (part g cls : Nat) (s : State) (e : DeckEntry) : State :=
  let d := deckOf s g cls
  let e := { e with slot := freeSlot d }
  let s := noteWhere (setDeck s g cls (d ++ [e])) e g false e.slot
  let d := deckOf s g cls
  if d.length > Config.deckHigh then
    let s := setDeck s g cls (d.take Config.deckRefill)
    (d.drop Config.deckRefill).foldl (pushLanding part g cls) s
  else s

/-- Slots of a landing from its oldest record to its tail: a record that an adoption took from among them frees none of the others
(R284, R303). -/
def landingSpan (s : State) (part g cls : Nat) : Nat :=
  let room := landingRoom s part
  match landingOf s g cls with
  | [] => 0
  | x :: _ =>
    let d := ((clusterOf s g).landTail.getD cls 0 + room - x.1 % room) % room
    if d = 0 then room else d

/-- Records that a landing can still take; none while records wait for it (R284). -/
def landingLeft (s : State) (part g cls : Nat) : Nat :=
  if (waitingOf s g cls).isEmpty then landingRoom s part - landingSpan s part g cls else 0

/-- Enqueue a record in FIFO order (R284); one that finds its landing full waits. -/
def enqueueEntry (part g cls : Nat) (s : State) (e : DeckEntry) : State :=
  let (s, a) := fresh s
  let e := { e with seq := a }
  if (landingOf s g cls).isEmpty && (waitingOf s g cls).isEmpty then pushDeck part g cls s e
  else if landingLeft s part g cls = 0 then setWaiting s g cls (waitingOf s g cls ++ [e])
  else pushLanding part g cls s e

/-- The record of a landing slot as memory holds it. -/
def readLanding (s : State) (part g cls : Nat) (x : Nat × DeckEntry) : State × Option DeckEntry :=
  match hwRead s part false (landingVa s part g cls x.1) 64 with
  | (s, .ok bs) => (s, some { x.2 with record := parseRecord (leNat bs) })
  | (s, .error f) => (recordEvent s part (some f), none)

/-- Waiting records enter their landing, in the order they were formed, while it has room: at most n of them (R284). -/
def admitWaiting (part g cls : Nat) : Nat → State → State
  | 0, s => s
  | n + 1, s =>
    match waitingOf s g cls with
    | w :: ws =>
      if landingSpan s part g cls < landingRoom s part then admitWaiting part g cls n (pushLanding part g cls (setWaiting s g cls ws) w)
      else s
    | [] => s

/-- Move the oldest record of a landing to the tail of its deck (R284). -/
def refillOne (part g cls : Nat) (s : State) : State :=
  match landingOf s g cls with
  | [] => s
  | x :: rest =>
    let (s, e) := readLanding s part g cls x
    let s := setLanding s g cls rest
    let s := match e with
      | some e =>
        let e := { e with slot := freeSlot (deckOf s g cls) }
        noteWhere (setDeck s g cls (deckOf s g cls ++ [e])) e g false e.slot
      | none => s
    admitWaiting part g cls (waitingOf s g cls).length s

/-- n moves of `refillOne`, while the deck is below the refill level. -/
def refillMany (part g cls : Nat) : Nat → State → State
  | 0, s => s
  | n + 1, s =>
    if (deckOf s g cls).length ≥ Config.deckRefill || (landingOf s g cls).isEmpty then s
    else refillMany part g cls n (refillOne part g cls s)

/-- Remove the record of a parked group from a deck, a landing or a waiting list (R303). -/
def removeCont (s : State) (gk : Nat) : State :=
  let keep (e : DeckEntry) : Bool := e.cont != some gk
  let clean (c : Cluster) : Cluster :=
    { c with
      decks := c.decks.map fun l => l.filter keep
      landings := c.landings.map fun l => l.filter fun x => keep x.2
      waiting := c.waiting.map fun l => l.filter keep }
  { s with clusters := s.clusters.map fun e => (e.1, clean e.2) }

/-! ## Continuations and waiters (R297, R314) -/

/-- Cluster in which a group last ran. -/
def clusterOfGroup (g : Group) : Nat := clusterOfCore g.core

/-- Enqueue the continuation of a parked group (R297). -/
def enqueueCont (s : State) (gk : Nat) : State :=
  match groupOf s gk with
  | none => s
  | some g =>
    let s := modGroup s gk fun g => { g with awaiting := false }
    enqueueEntry g.record.part (clusterOfGroup g) g.record.cls s { record := g.record, grid := g.grid, seq := 0, cont := some gk }

/-- Bit of the waiter count in the object of a wait; tickets have none (Tables 13.4 to 13.6). -/
def waiterField : WaitKind → Option (Nat × Nat)
  | .fget => some (64, 32)
  | .lacq => some (32, 16)
  | .qput => some (160, 64)
  | .qget => some (160, 64)
  | .tktake => none
  | .tkwait _ => none
  | .payload => none

/-- Add to the waiter count of an object, mod 2^32 (R314). -/
def countWaiter (s : State) (part : Nat) (world : Bool) (obj : Nat) (k : WaitKind) (delta : Nat) : State :=
  match waiterField k with
  | none => s
  | some (lo, n) => (hwUpdate s part world obj n fun v => setField v lo 32 (field v lo 32 + delta)).1

/-- A parked waiter becomes runnable: it leaves the list, its count falls by one, its continuation is enqueued (R314). -/
def wakeWaiter (s : State) (w : Waiter) : State :=
  let s := { s with waiters := s.waiters.filter fun x => x.gk != w.gk }
  enqueueCont (countWaiter s w.part w.world w.obj w.kind (2 ^ 32 - 1)) w.gk

/-- Waiters parked on an object, oldest first. -/
def waitersOn (s : State) (part : Nat) (world : Bool) (obj : Nat) : List Waiter :=
  s.waiters.filter fun w => w.part == part && w.world == world && w.obj == obj

/-- Every waiter parked on an object becomes runnable. -/
def wakeAll (s : State) (part : Nat) (world : Bool) (obj : Nat) : State :=
  (waitersOn s part world obj).foldl wakeWaiter s

/-- Fill a future with a value, or mark it failed, and wake its waiters; a full or failed future is unchanged (R321, R308). -/
def settleFuture (s : State) (part : Nat) (world : Bool) (va : Nat) (value : Nat) (failed : Bool) : State × Option FaultInfo :=
  match hwRead s part world va 32 with
  | (s, .error f) => (s, some f)
  | (s, .ok bs) =>
    let v := leNat bs
    if field v 0 2 ≥ 2 then (s, none)
    else
      let v := if failed then setField v 0 2 3 else setField (setField v 0 2 2) 128 64 value
      match hwWrite s part world va (leBytes v 32) with
      | (s, some f) => (s, some f)
      | (s, none) => (wakeAll s part world va, none)

/-! ## Accepting a record (R289, R296, R302) -/

/-- Logical core of a group of a deterministic grid (R49). -/
def lcoreOf (r : TaskRecord) (gid : Nat) : Nat := if r.lcores = 0 then 0 else gid % r.lcores

/-- The first group from `gid` on, below `limit`, that a split record serves. -/
def nextServed (r : TaskRecord) (split : Nat × Nat) (limit : Nat) : Nat → Nat → Option Nat
  | 0, _ => none
  | fuel + 1, gid =>
    if gid ≥ limit then none
    else if lcoreOf r gid % split.2 == split.1 then some gid
    else nextServed r split limit fuel (gid + 1)

/-- The records a grid's record enters decks as: itself, or one per ungated cluster of its world (R296). With no such cluster a
deterministic grid enters none, and never completes (DESIGN CHOICE, log entry 23). -/
def entriesOf (s : State) (r : TaskRecord) (grid cluster : Nat) : List (Nat × DeckEntry) :=
  if !r.det then [(cluster, { record := r, grid := grid, seq := 0 })]
  else
    let cs := (partClusters s r.part).filter fun g => !(gated s g) && secureCluster s g == r.world
    (enumFrom 0 cs).filterMap fun e =>
      (nextServed r (e.1, cs.length) (r.gfirst + r.gcount) (r.lcores + 1) r.gfirst).map fun first =>
        (e.2, { record := { r with gfirst := first, gcount := r.gfirst + r.gcount - first }, grid := grid, seq := 0,
                split := some (e.1, cs.length) })

/-- Accept a record: its grid, its task-table entry, its grid record, its deck entries (R289, R296, R302). -/
def acceptRecord (s : State) (r : TaskRecord) (parent cluster : Nat) (hostLaunched : Bool) (info : GfxInfo)
    (paySlot : Option (Nat × Nat)) : State :=
  let (s, id) := fresh s
  let (s, e) := readEntry s r.part r.taskid
  let takes := match e with
    | some e => entryState e == 0 || entryState e == 4 || entryState e == 5
    | none => false
  let grid : Grid :=
    { id := id, record := r, gfirst0 := r.gfirst, total := r.gcount, parent := parent, hostLaunched := hostLaunched
      cluster := cluster, recorded := takes, remain := r.gcount, paySlot := paySlot }
  let s := { s with grids := s.grids ++ [grid] }
  let s := entryUpdate s grid fun _ => r.taskid + 2 ^ 32 * 1 + 2 ^ 35 * cluster + 2 ^ 64 * r.farr
  let (s, f) := hwWrite s r.part r.world r.farr (leBytes (gridRecord r parent takes) 64)
  let s := recordEvent s r.part f
  (entriesOf s r id cluster).foldl
    (fun s e => enqueueEntry r.part e.1 r.cls s { e.2 with info := info }) s

end Sys2Proof.Machine
end

