-- ==== Sys2Proof/Machine/Access.lean ====
section
/-! DEFINITION. Addresses of memory instructions, their checks, counted operations and how they complete, staging in
deterministic grids, and release (spec/09 R213, R214, spec/10 R247 to R254, spec/11 R258 to R274, spec/15 R367). -/
namespace Sys2Proof.Machine

/-! ## Addresses (R213, R214, R260) -/

/-- Segment n of a group. -/
def segOf (g : Group) (n : Nat) : Segment := g.segs.getD n {}

/-- Where an access goes before translation: a scratchpad offset, or virtual parts in ascending offset. -/
inductive Formed where
  | scratch (off : Nat)
  | virt (parts : List (Nat × Nat))
  deriving DecidableEq, Repr

/-- VA of byte o of thread t in the frame segment (R214). -/
def frameByte (base o t : Nat) : Nat := (base + (o / 4 * 128 + t) * 4 + o % 4) % 2 ^ 64

/-- Address of an access of `size` bytes at segment offset o, with the alignment and limit checks of Table 11.2 rows 1 and 2. -/
def formAddress (g : Group) (t seg size o : Nat) : Except FaultInfo Formed :=
  let sg := segOf g seg
  let base := sg.base.toNat
  let beyond := decide (o + size > sg.limit.toNat)
  if seg = 3 then
    let va := BitVec.ofNat 64 (frameByte base o t)
    if o % min size 4 != 0 then .error { cls := fcMisaligned, va := va }
    else if beyond then .error { cls := fcSegLimit, va := va }
    else if size ≤ 4 then .ok (.virt [(va.toNat, size)])
    else .ok (.virt ((List.range (size / 4)).map fun k => (frameByte base (o + 4 * k) t, 4)))
  else
    let a := (base + o) % 2 ^ 64
    if a % size != 0 then .error { cls := fcMisaligned, va := BitVec.ofNat 64 a }
    else if beyond then .error { cls := fcSegLimit, va := BitVec.ofNat 64 a }
    else if seg = 1 || seg = 4 then
      if a + size > Config.scratchBytes then .error { cls := fcSegLimit, va := BitVec.ofNat 64 a } else .ok (.scratch a)
    else .ok (.virt [(a, size)])

/-- Segment offset of a memory operand for a thread (R213). -/
def memOffset (g : Group) (t : Thread) (o : MemOp) : Except FaultInfo Nat := do
  let off ← readSrc32 .int g t o.off
  pure (affVal (affOf g o.ab.toNat) t.idx + off.signExtend 64 + o.imm.signExtend 64).toNat

/-! ## Checks (Table 11.2) -/

/-- A present L1 line serves an access by itself: a store that allocates, or a load whose bytes it holds (R218, R220). -/
def servedByL1 (l : L1Line) (acc : Acc) (hint va len : Nat) : Bool :=
  hint != 3 && (acc == .w || (acc == .r && (List.range len).all fun i => (l1Byte l (va % 512 + i)).isSome))

/-- One part of a thread's access: a present L1 line is checked by the attributes it keeps, and what it cannot serve goes to the
owning die, which translates and checks it (R358). Of a part that the line serves the PA is the owner's for the line: it says where
the owner will perform the line's write-back. -/
def resolvePart (s : State) (c : Ctx) (acc : Acc) (hint va len : Nat) : State × Except FaultInfo Piece :=
  let ask (s : State) : State × Except FaultInfo Piece :=
    match translate s c acc va with
    | (s, .error f) => (s, .error f)
    | (s, .ok (pa, attr)) => (s, .ok { va := va, pa := pa, len := len, attr := attr })
  match l1Find s (l1Core s c.core va) (asidOf s c.part c.sec) (va / 512) with
  | some l =>
    match checkAttr c acc l.attr l.attr.s with
    | some cls => keptFault s cls va acc
    | none =>
      if servedByL1 l acc hint va len then
        (s, .ok { va := va, pa := l1Pa s (l1Core s c.core va) l.asid l.line + va % 512, len := len, attr := l.attr })
      else ask s
  | none => ask s

/-- Rank of a fault of rows 3 and 4 of Table 11.2. -/
def faultRank (f : FaultInfo) : Nat :=
  if f.cls = fcAddress then 0
  else if f.cls = fcReservedBit then 1
  else if f.cls = fcNotPresent then 2
  else if f.cls = fcWorld then 3
  else 4

/-- The parts of an access in ascending offset: of the faults they meet, the first in Table 11.2, and of equal ones the lowest
part's (R261). -/
def resolveParts (s : State) (c : Ctx) (acc : Acc) (hint : Nat) : List (Nat × Nat) → State × Except FaultInfo (List Piece)
  | [] => (s, .ok [])
  | (va, len) :: r =>
    let (s, first) := if va ≥ 2 ^ 57 then (s, .error { cls := fcAddress, va := BitVec.ofNat 64 va }) else resolvePart s c acc hint va len
    match first, resolveParts s c acc hint r with
    | .error f, (s, .error f') => (s, .error (if faultRank f' < faultRank f then f' else f))
    | .error f, (s, .ok _) => (s, .error f)
    | .ok _, (s, .error f) => (s, .error f)
    | .ok p, (s, .ok ps) => (s, .ok (p :: ps))

/-- How the ownership table of a group's grid treats an access to a line (R252): `want` is 0 for a read, 1 for a write or
`red`, 2 for an `atom`. -/
def ownership (gr : Grid) (gid line want : Nat) : Except Nat Treat :=
  match gr.table with
  | none => .ok .direct
  | some tbl =>
    match tbl.find? fun e => e.line ≤ line && line < e.line + e.count with
    | none => if want = 0 then .ok .direct else .error 1
    | some e =>
      if e.sharedLine then (if want = 2 then .error 3 else .ok .shared)
      else if want = 0 then .ok .direct
      else
        let owner := e.obase + (line - e.line) / (if e.lpo = 0 then 1 else e.lpo)
        if owner == gid then .ok .direct else .error 0

/-- Ownership of the pieces of a thread's access through a segment: only normal-type pages of segments 0, 2 and 5 to 7 of a
deterministic grid are governed (R252). -/
def treatOf (s : State) (g : Group) (seg want : Nat) : List Piece → Except FaultInfo Treat
  | [] => .ok .direct
  | p :: r =>
    if !g.record.det || seg = 3 || p.attr.mtype != 0 then .ok .direct
    else
      match gridOf s g.grid with
      | none => .ok .direct
      | some gr =>
        match ownership gr g.gid (p.va / 512) want with
        | .error d => .error { cls := fcOwnership, va := BitVec.ofNat 64 p.va, detail := d }
        | .ok tr =>
          match treatOf s g seg want r with
          | .error f => .error f
          | .ok _ => .ok tr

/-- An access a thread may make: where it goes and how its grid's table treats it. -/
structure Target where
  place : Place
  treat : Treat
  deriving DecidableEq, Repr

/-- The fault for which a thread is in a handler lets its accesses to a line be performed strongly (R273). -/
def strongLine (t : Thread) (va : Nat) : Bool :=
  [t.emulK, t.emulS].any fun e => match e with | some a => a.toNat / 512 == va / 512 | none => false

/-- Rows 1 to 6 of Table 11.2 for a thread. -/
def resolve (s : State) (g : Group) (t : Thread) (seg size o : Nat) (acc : Acc) (hint want : Nat) : State × Except FaultInfo Target :=
  match formAddress g t.idx seg size o with
  | .error f => (s, .error f)
  | .ok (.scratch off) => (s, .ok { place := .scratch off, treat := .direct })
  | .ok (.virt parts) =>
    let c := ctxOf g t
    match resolveParts s c acc hint parts with
    | (s, .error f) => (s, .error f)
    | (s, .ok ps) =>
      -- R264: segment 2 is only read
      if seg = 2 && acc != .r then keptFault s fcPermission ((ps.head?.map fun p => p.va).getD 0) acc
      else
        -- R273: an emulating handler's own access to the line of its `hva` or `svva` is performed at the line's place
        let ps := ps.map fun p => if strongLine t p.va && p.attr.mtype < 2 then { p with attr := { p.attr with mtype := 4 } } else p
        match treatOf s g seg want ps with
        | .error f => (s, .error f)
        | .ok tr => (s, .ok { place := .mem (asidOf s c.part c.sec) ps, treat := tr })

/-! ## Atomic operations (Table 11.3) -/

/-- New value of an atomic on x with operand y: none when a `cas` does not match. `n` is the width in bits. -/
def atomNew (am n x y cmp : Nat) : Option Nat :=
  let p := if n = 64 then f64P else f32P
  let fl (f : FVal → FVal → FVal) : Nat := (roundFlt p false false 0 0 (f (decodeFlt p false x) (decodeFlt p false y))).1
  match am with
  | 0 => some ((x + y) % 2 ^ n)
  | 1 => some (x &&& y)
  | 2 => some (x ||| y)
  | 3 => some (x ^^^ y)
  | 4 => some (if toSigned n x ≤ toSigned n y then x else y)
  | 5 => some (if toSigned n x ≤ toSigned n y then y else x)
  | 6 => some (min x y)
  | 7 => some (max x y)
  | 8 => some y
  | 9 => if x = cmp then some y else none
  | 10 => some (fl fun a b => (exactAdd 0 a b).1)
  | 11 => some (fl (minMax false))
  | 12 => some (fl (minMax true))
  | _ => none

/-! ## Sync words (R216, R217) -/

/-- A sync word after a piece of n bytes arrives (R217). -/
def syncArrive (w n : Nat) : Nat :=
  let target := field w 0 32
  let c := field w 32 32 + n
  if target = 0 then setField w 32 32 c
  else if c < target then setField w 32 32 c
  else
    let w := if c > target then setField w 96 1 1 else w
    setField (setField w 32 32 0) 64 32 (field w 64 32 + 1)

/-- A sync word after `swinit` (R270). -/
def syncInit (w : Nat) (target : Word) : Nat := setField (setField (setField w 0 32 target.toNat) 32 32 0) 96 1 0

/-! ## Replies (R92, R93, R263, R276) -/

/-- VA of a group's pre-emption record: slot of its context number on its core (Table 12.2, R293). -/
def preemptVa (s : State) (g : Group) : Nat :=
  let cores := (partClusters s g.record.part).flatMap fun c => (List.range 8).map fun i => 8 * c + i
  let idx := (cores.takeWhile fun c => c != g.core).length
  (descOf s g.record.part).preempt + (idx * 16 + g.ctx) * 71680

/-- Change n bytes of a group's pre-emption record, which lies in the partition's non-secure space (R418); an access that faults
fails the group (R465). -/
def recordUpdate (s : State) (g : Group) (off n : Nat) (f : Nat → Nat) : State :=
  match hwUpdate s g.record.part false (preemptVa s g + off) n f with
  | (s, none) => s
  | (s, some e) => failRecord s g.gk e

/-- A register of a thread is written: it is poisoned no longer (R233). -/
def unpoison (t : Thread) (r : Nat) : Thread := { t with poison := t.poison &&& ~~~(1#128 <<< r) }

/-- Registers of a thread written by a reply; of a pre-empted group, their image in its record (R93). -/
def replyWords (s : State) (gk tid : Nat) (vals : List (Nat × Word)) : State :=
  match groupOf s gk with
  | none => s
  | some g =>
    if g.run = .preempted then
      let s := vals.foldl (fun s e => recordUpdate s g (6144 + 512 * e.1 + 4 * tid) 4 fun _ => e.2.toNat) s
      modThread s gk tid fun t => vals.foldl (fun t e => unpoison t e.1) t
    else modThread s gk tid fun t => vals.foldl (fun t e => setReg t e.1 e.2) t

/-- Registers written at the completion of a `swwait`, an `eng` or a `tdone`: one that a read found new, and that the thread has written
since, keeps the thread's value (R72; log entry 48). -/
def replyLast (s : State) (o : Op) (tid : Nat) (vals : List (Nat × Word)) : State :=
  match groupOf s o.gk with
  | none => s
  | some g =>
    let stands (r : Nat) : Bool :=
      match o.early.find? fun x => x.1 == r with
      | none => true
      | some x => g.run == .preempted || (threadOf g tid).any fun t => regOf t r == x.2
    replyWords s o.gk tid (vals.filter fun e => stands e.1)

/-- A register of a reply whose value is not known yet shows its new value to the thread's reads: a free one (R72; log entry 48). -/
def showEarly (s : State) (o : Op) (reg : Nat) : State :=
  match groupOf s o.gk with
  | none => s
  | some g =>
    if g.run = .preempted || o.early.any (fun x => x.1 == reg) then s
    else
      let v := Config.freeWord s.fresh
      let s := o.threads.foldl (fun s t => modThread s o.gk t fun x => setReg x reg v) (useFresh s 1)
      { s with ops := updFirst (fun x => x.id == o.id) (fun x => { x with early := x.early ++ [(reg, v)] }) s.ops }

/-- Registers d, d + 1, … of a thread written by a reply. -/
def replyRegs (s : State) (gk tid d : Nat) (vals : List Word) : State := replyWords s gk tid (enumFrom d vals)

/-- A predicate of a thread written by a reply; of a pre-empted group, its image in its record (R93). -/
def replyPred (s : State) (gk tid : Nat) (n : BitVec 3) (b : Bool) : State :=
  match groupOf s gk with
  | none => s
  | some g =>
    if g.run = .preempted && n != 7 then recordUpdate s g (2048 + 32 * tid) 32 fun v => setField v n.toNat 1 b.toNat
    else modThread s gk tid fun t => putPred t n b

/-- One operation of a thread completes: its counter falls by one (R70, R71), in the record's image when pre-empted (R93). -/
def creditCounter (s : State) (gk tid cnt : Nat) : State :=
  match groupOf s gk with
  | none => s
  | some g =>
    if cnt ≥ 6 then modThread s gk tid fun t => { t with pw := t.pw - 1 }
    else if g.run = .preempted then
      recordUpdate s g (2048 + 32 * tid) 32 fun v => setField v (128 + 6 * cnt) 6 (field v (128 + 6 * cnt) 6 - 1)
    else modThread s gk tid fun t => { t with w := t.w.set cnt (t.w.getD cnt 0 - 1) }

/-- A fault kept until the thread waits for the counter (R262, R276). -/
def deferFault (s : State) (gk tid cnt : Nat) (f : FaultInfo) : State :=
  modThread s gk tid fun t => { t with deferred := t.deferred ++ [(cnt, f)] }

/-- Words of bytes, upper bytes of a narrow access zero (R259). -/
def bytesToWords : Nat → List Byte → List Word
  | 0, _ => []
  | _ + 1, [] => []
  | fuel + 1, bs => BitVec.ofNat 32 (leNat (bs.take 4)) :: bytesToWords fuel (bs.drop 4)

/-- Remove a completed operation. -/
def dropOp (s : State) (id : Nat) : State := { s with ops := s.ops.filter fun o => o.id != id }

/-- Group and counter of an operation are credited for each of its threads, and the operation is gone. -/
def retireOp (s : State) (o : Op) : State :=
  o.threads.foldl (fun s t => creditCounter s o.gk t o.cnt) (dropOp s o.id)

/-- A `swwait` that may complete: its word's generation differs, and it writes gen and acquires (R272); a poisoned word is a
fault to be taken at the wait, and nothing is written (R262). -/
def wakeOne (core : Nat) (s : State) (o : Op) : State :=
  match o.kind with
  | .swWait off e d =>
    let gen := leNat (scratchRead s core (off + 8) 4)
    if o.core != core then s
    else if scratchPoisoned s core off 16 then retireOp (o.threads.foldl (fun s t => deferFault s o.gk t o.cnt (poisonAt off)) s) o
    else if gen = e.toNat then s
    else retireOp (acquireCore (o.threads.foldl (fun s t => replyLast s o t [(d, BitVec.ofNat 32 gen)]) s) core) o
  | _ => s

/-- Every `swwait` of a core whose word has changed generation completes (R272). -/
def wakeSync (core : Nat) (s : State) : State := s.ops.foldl (wakeOne core) s

/-- Bytes of scratchpad written, in the bank's order: waits on sync words see them (R217, R272). -/
def scratchStore (s : State) (core off : Nat) (bs : List Byte) : State := wakeSync core (scratchWrite s core off bs)

/-! ## Staging (R253) -/

/-- VA of entry i of a group's staging log. -/
def logVa (gr : Grid) (g : Group) (i : Nat) : Nat := gr.stg + 16 * gr.stgE * (g.gid - gr.gfirst0) + 16 * i

/-- A store entry for one 8-byte unit (Table 10.3). -/
def storeEntry (unit mask data : Nat) : Nat := 2 ^ 2 * unit + 2 ^ 56 * mask + 2 ^ 64 * data

/-- Entries of a store of bytes at a VA: one per aligned 8 bytes covered. -/
def storeEntries (va : Nat) (bs : List Byte) : List Nat :=
  (takeParts (splitAt 8 va (bs.length / 8 + 2) bs.length) bs).map fun e =>
    storeEntry (e.1 / 8) ((2 ^ e.2.length - 1) * 2 ^ (e.1 % 8)) (leNat e.2 * 2 ^ (8 * (e.1 % 8)))

/-- The entry of a `red` (Table 10.3). -/
def redEntry (va am size y : Nat) : Nat :=
  1 + 2 ^ 2 * (va / 8) + 2 ^ 56 * am + 2 ^ 60 * (if size = 8 then 1 else 0) + 2 ^ 61 * (if size = 4 && va % 8 == 4 then 1 else 0)
  + 2 ^ 64 * y

/-- A log has no room for n more entries of a group: the ownership fault of detail 2 (R253). -/
def stageFull (s : State) (g : Group) (va n : Nat) : Option FaultInfo :=
  match gridOf s g.grid, groupOf s g.gk with
  | some gr, some now =>
    if now.staged + n > gr.stgE then some { cls := fcOwnership, va := BitVec.ofNat 64 va, detail := 2 } else none
  | _, _ => none

/-- Stage entries for a thread's instruction, all of them or, with no room or on a fault of the log, none (R253). -/
def stage (s : State) (g : Group) (va : Nat) (entries : List Nat) : State × Option FaultInfo :=
  match gridOf s g.grid, groupOf s g.gk with
  | some gr, some now =>
    match stageFull s g va entries.length with
    | some f => (s, some f)
    | none =>
      match hwAmend s g.record.part g.record.world (logVa gr g now.staged) (16 * entries.length)
        (fun _ => leNat (entries.flatMap fun e => leBytes e 16)) false with
      | (s, some f) => (s, some f)
      | (s, none) => (modGroup s g.gk fun g => { g with staged := g.staged + entries.length }, none)
  | _, _ => (s, none)

/-- One staged entry applied to the 8 bytes of its unit (R252, R254). -/
def applyEntry (e old : Nat) : Nat :=
  let data := field e 64 64
  if field e 0 2 = 0 then
    (List.range 8).foldl (fun v b => if bitOf e (56 + b) then setField v (8 * b) 8 (field data (8 * b) 8) else v) old
  else if field e 0 2 = 1 then
    let am := field e 56 4
    if bitOf e 60 then (atomNew am 64 old data 0).getD old
    else
      let lo := if bitOf e 61 then 32 else 0
      setField old lo 32 ((atomNew am 32 (field old lo 32) (field data 0 32) 0).getD (field old lo 32))
  else old

/-- One staged entry applied to bytes from an 8-aligned VA on, which cover whole units (R252). -/
def applyUnit (e va : Nat) (bs : List Byte) : List Byte :=
  let u := 8 * field e 2 54
  if field e 0 2 ≥ 2 || u < va || va + bs.length < u + 8 then bs
  else splice bs (u - va) (leBytes (applyEntry e (leNat ((bs.drop (u - va)).take 8))) 8)

/-- The group's own entries from index i on, n of them, applied in program order to whole units from va on (R252). -/
def applyOwn (gr : Grid) (g : Group) (va : Nat) : Nat → State → Nat → List Byte → State × List Byte
  | 0, s, _, bs => (s, bs)
  | n + 1, s, i, bs =>
    match hwRead s g.record.part g.record.world (logVa gr g i) 16 with
    | (s, .error _) => (s, bs)
    | (s, .ok eb) => applyOwn gr g va n s (i + 1) (applyUnit (leNat eb) va bs)

/-- A piece widened to the aligned 8-byte units it touches. -/
def wholeUnits (p : Piece) : Piece :=
  { p with va := p.va / 8 * 8, pa := p.pa / 8 * 8, len := (p.va % 8 + p.len + 7) / 8 * 8 }

/-! ## The invalidate window (R367) -/

/-- The invalidate window of a die of a partition begins here, in the partition's non-secure space (R418). -/
def windowVa (s : State) (part die : Nat) : Nat := (descOf s part).invPage + 64 * die

/-- The die whose window holds a VA, with the number of the 8-byte piece. -/
def windowOf (s : State) (part : Nat) (sec : Bool) (va : Nat) : Option (Nat × Nat) :=
  if sec || (partOf s part).desc.isNone then none
  else (List.range 4).findSome? fun d =>
    let w := windowVa s part d
    if w ≤ va && va < w + 32 && va % 8 == 0 then some (d, (va - w) / 8) else none

/-- An invalidate command from its 256 bits, and whether it is valid for a partition and die (Table 15.3). -/
def parseInv (s : State) (part die v : Nat) (core : Option Nat) : InvCmd × Bool :=
  let c : InvCmd :=
    { op := field v 0 4, asid := field v 16 16, npg := field v 32 32, start := field v 64 57, fut := field v 128 57, core := core }
  let quarter := c.start / 2 ^ 55 == die && (c.start + 4096 * c.npg - 1) / 2 ^ 55 == die
  let ok := field v 8 8 == 0 && field v 121 7 == 0 && field v 185 71 == 0 && decide (c.op < 3) &&
    (c.asid == asidOf s part false || c.asid == asidOf s part true) &&
    (c.op != 0 || (c.start % 4096 == 0 && c.npg != 0 && quarter)) && c.fut % 32 == 0
  (c, ok)

/-- An invalidate queue has no room (R367). -/
def invFull (s : State) (part die : Nat) : Bool := (tget (dieOf s die).inv [] part).length ≥ 64

/-- One 8-byte piece of a command written to a die's window by a writer (R367). -/
def windowPiece (s : State) (part die writer piece : Nat) (data : DWord) (core : Option Nat) : State :=
  let kept := ((dieOf s die).window.find? fun e => e.1 == (part, writer)).map (fun e => e.2)
  let others := (dieOf s die).window.filter fun e => e.1 != (part, writer)
  let have' := kept.getD []
  let put (l : List DWord) : State :=
    modDie s die fun d => { d with window := if l.isEmpty then others else others ++ [((part, writer), l)] }
  if piece = 0 then put [data]
  else if have'.length != piece then hostEvent (put []) part 5 (windowVa s part die + 8 * piece) data.toNat
  else if piece < 3 then put (have' ++ [data])
  else
    let s := put []
    let v := leNat ((have' ++ [data]).flatMap fun w => leBytes w.toNat 8)
    let (c, ok) := parseInv s part die v core
    if ok then modDie s die fun d => { d with inv := tset d.inv part (tget d.inv [] part ++ [c]) }
    else if field v 128 57 != 0 && field v 128 57 % 32 == 0 then
      -- the future of an invalid command is marked failed
      (settleFuture s part false (field v 128 57) 0 true).1
    else hostEvent s part 5 (windowVa s part die) (field v 0 64)

/-- Name of a thread as a writer of windows: core, subcore, lane and group context (R367). -/
def writerOf (g : Group) (t : Nat) : Nat := ((g.core * 4 + subcoreOf g t) * 32 + laneOf g t) * 16 + g.ctx

/-! ## Performing counted operations -/

/-- Context of an operation: address space, privilege and world of its thread (R275). -/
def opCtx (o : Op) (g : Group) : Ctx := { part := g.record.part, sec := g.record.world, sup := o.sup, core := o.core }

/-- Bytes of the pieces of a load, through L1 or past it by memory type. -/
def loadPieces (s : State) (c : Ctx) (hint grid : Nat) : List Piece → State × List Byte × Bool
  | [] => (s, [], false)
  | p :: r =>
    let (s, bs, bad) := loadPiece s c p hint grid
    let (s, rest, bad') := loadPieces s c hint grid r
    (s, bs ++ rest, bad || bad')

/-- Store the pieces of one access; pieces of a partition's invalidate window become commands (R367). -/
def storePieces (s : State) (c : Ctx) (g : Group) (tid hint : Nat) : List Piece → List Byte → State
  | [], _ => s
  | p :: r, bs =>
    let now := bs.take p.len
    let s :=
      match (if p.attr.mtype = 2 then windowOf s c.part c.sec p.va else none) with
      | some (die, first) =>
        (enumFrom first ((splitAt 8 0 9 p.len).map fun x => leNat ((now.drop x.1).take x.2))).foldl
          (fun s e => windowPiece s c.part die (writerOf g tid) e.1 (BitVec.ofNat 64 e.2) (some c.core)) s
      | none => storePiece s c p hint now
    storePieces s c g tid hint r (bs.drop p.len)

/-- First address of a place. -/
def placeVa : Place → Nat
  | .mem _ (p :: _) => p.va
  | .mem _ [] => 0
  | .scratch off => off

/-- An atomic on bytes as they stand: what they become, if it writes. -/
def atomBytes (bs : List Byte) (am size : Nat) (y cmp : DWord) : Option (List Byte) :=
  (atomNew am (8 * size) (leNat bs) y.toNat cmp.toNat).map fun n => leBytes n size

/-- An atomic in the requester's L1, which holds the line exclusively: the sector is fetched there if a byte is missing, and the
bytes it writes are dirty ones (R245). -/
def atomicInL1 (s : State) (c : Ctx) (asid : Nat) (p : Piece) (am size : Nat) (y cmp : DWord) : State × Nat × Bool :=
  let core := l1Core s c.core p.va
  let s := holdLine (l1Alloc s core asid c.part p.va p.pa p.attr false).1 core asid (p.va / 512)
  let (s, bs, bad) := l1Load s c p.va p.pa size 0 p.attr 0
  if bad then (s, 0, true)
  else
    let s := match l1Find s core asid (p.va / 512) with
      | some l => l1Put s core { l with excl := true }
      | none => s
    match atomBytes bs am size y cmp with
    | some new => (l1Store s c p.va p.pa 0 p.attr new, leNat bs, false)
    | none => (s, leNat bs, false)

/-- An atomic at the line's home: the requester's own bytes of the line go there first (R245), and every replica goes (R223). -/
def atomicAtHome (s : State) (c : Ctx) (asid : Nat) (p : Piece) (am size : Nat) (y cmp : DWord) : State × Nat × Bool :=
  let core := l1Core s c.core p.va
  let s := l1WriteBack s core asid (p.va / 512)
  let s := match l1Find s core asid (p.va / 512) with
    | some l => l1Put s core (dropRange l (p.va % 512) size)
    | none => s
  let die := l2DieOf (p.va / 2 ^ 55 % 4) p.pa
  let (s, bs, bad) := l2Read (l2Single s die (p.pa / 512)) die c.part p.pa size
  if bad then (s, 0, true)
  else
    match atomBytes bs am size y cmp with
    | some new => (l2Touch (l2Write s die c.part p.pa p.attr.compr new) die c p.pa none, leNat bs, false)
    | none => (l2Touch s die c p.pa none, leNat bs, false)

/-- Read-modify-write of one location, at the scratchpad bank, or where the contention predictor places it: the requester's L1 or
the line's home. The old value and whether it is poisoned, in which case nothing is written (R245, R262, R268). -/
def atomicPlace (s : State) (c : Ctx) (place : Place) (am size : Nat) (y cmp : DWord) : State × Nat × Bool :=
  match place with
  | .scratch off =>
    if scratchPoisoned s c.core off size then (s, 0, true)
    else
      let bs := scratchRead s c.core off size
      match atomBytes bs am size y cmp with
      | some new => (scratchStore s c.core off new, leNat bs, false)
      | none => (s, leNat bs, false)
  | .mem asid (p :: _) =>
    if p.attr.mtype = 0 && (coreOf s (l1Core s c.core p.va)).predict.contains (asid, p.va / 512) then atomicInL1 s c asid p am size y cmp
    else atomicAtHome s c asid p am size y cmp
  | .mem _ [] => (s, 0, false)

/-- What a load returns: the bytes, with the group's own entries staged before it where its grid's table says shared (R252), and
whether one is poisoned. -/
def loadValue (s : State) (c : Ctx) (g : Group) (place : Place) (size : Nat) (treat : Treat) (hint staged : Nat) :
    State × List Byte × Bool :=
  match place, treat, gridOf s g.grid with
  | .scratch off, _, _ => (s, scratchRead s c.core off size, scratchPoisoned s c.core off size)
  | .mem _ ps, .shared, some gr =>
    let va := placeVa place / 8 * 8
    let (s, bs, bad) := loadPieces s c hint g.grid (ps.map wholeUnits)
    let (s, bs) := applyOwn gr g va staged s 0 bs
    (s, (bs.drop (placeVa place - va)).take size, bad)
  | .mem _ ps, _, _ => loadPieces s c hint g.grid ps

/-- An access is performed: what it does to memory, and the registers it then writes, none of them when it met poison. -/
def performAccess (s : State) (g : Group) (o : Op) : State × Except Nat (List (Nat × Word)) :=
  let c := opCtx o g
  match o.kind with
  | .load place d size treat hint staged =>
    let (s, bs, bad) := loadValue s c g place size treat hint staged
    (s, if bad then .error (placeVa place) else .ok (enumFrom d (bytesToWords 16 bs)))
  | .store place data treat hint =>
    match place with
    | .scratch off => (scratchStore s o.core off data, .ok [])
    | .mem _ ps => (if treat = .shared then s else storePieces s c g (o.threads.headD 0) hint ps data, .ok [])
  | .atomic place am size y cmp ret d treat =>
    if treat = .shared then (s, .ok [])
    else
      let (s, x, bad) := atomicPlace s c place am size y cmp
      (s, if bad then .error (placeVa place) else .ok (if ret then enumFrom d (bytesToWords 2 (leBytes x size)) else []))
  | .swInit off target =>
    let w := leNat (scratchRead s o.core off 16)
    (scratchStore s o.core off (leBytes (syncInit w target) 16), .ok [])
  | .reply vals => (s, .ok vals)
  | _ => (s, .ok [])

/-- Kinds of operation that are accesses of their thread: not the engine's, which are threads of their own (R243). -/
def isAccessKind : OpKind → Bool
  | .load .. => true
  | .store .. => true
  | .atomic .. => true
  | .swInit .. => true
  | .reply .. => true
  | _ => false

/-- An access is performed and completes for its thread: its registers are written and its counter falls, or its poison is kept for
the wait (R262 to R270). -/
def performOp (s : State) (o : Op) : State :=
  match groupOf s o.gk with
  | none => dropOp s o.id
  | some g =>
    if !(isAccessKind o.kind) then s
    else
      let tid := o.threads.headD 0
      match performAccess s g o with
      | (s, .error va) => retireOp (deferFault s o.gk tid o.cnt (poisonAt va)) o
      | (s, .ok vals) => retireOp (replyWords s o.gk tid vals) o

/-- A load or atomic of several registers is performed and writes one of them now: between then and its completion a read of its span
finds the new value there and the old ones elsewhere, and a write of the thread stands there (R72, R263). -/
def replyEarly (s : State) (o : Op) (reg : Nat) : State :=
  match groupOf s o.gk with
  | none => s
  | some g =>
    match performAccess s g o with
    | (s, .error va) => retireOp (deferFault s o.gk (o.threads.headD 0) o.cnt (poisonAt va)) o
    | (s, .ok vals) =>
      let s := replyWords s o.gk (o.threads.headD 0) (vals.filter fun e => e.1 == reg)
      { s with ops := updFirst (fun x => x.id == o.id) (fun x => { x with kind := .reply (vals.filter fun e => e.1 != reg) }) s.ops }

/-- The aligned 8-byte units of the pieces of a store, each with its bytes. -/
def storeUnits : List Piece → List Byte → List (Piece × List Byte)
  | [], _ => []
  | p :: r, bs =>
    ((splitAt 8 p.va (p.len / 8 + 2) p.len).map fun e =>
      ({ p with va := e.1, pa := p.pa + (e.1 - p.va), len := e.2 }, ((bs.take p.len).drop (e.1 - p.va)).take e.2))
    ++ storeUnits r (bs.drop p.len)

/-- One aligned 8-byte unit of a store of more than one, in memory that caches, is performed now; the others are left for its completion
(R239). -/
def storeEarly (s : State) (o : Op) (n : Nat) : State :=
  match groupOf s o.gk, o.kind with
  | some g, .store (.mem asid ps) data .direct hint =>
    let us := storeUnits ps data
    match us[n]? with
    | none => s
    | some u =>
      if us.length < 2 || ps.any (fun p => p.attr.mtype == 2 || p.attr.mtype == 3) then s
      else
        let s := storePieces s (opCtx o g) g (o.threads.headD 0) hint [u.1] u.2
        let rest := us.eraseIdx n
        let left : OpKind := .store (.mem asid (rest.map fun x => x.1)) (rest.flatMap fun x => x.2) .direct hint
        { s with ops := updFirst (fun x => x.id == o.id) (fun x => { x with kind := left }) s.ops }
  | _, _ => s

/-- Operations that a release of their thread waits for (R247). -/
def isAccess (o : Op) : Bool := isAccessKind o.kind

/-- The invalidate window that a store writes has a full queue: its writer stalls (R367). -/
def windowFull (s : State) (o : Op) : Bool :=
  match o.kind, groupOf s o.gk with
  | .store (.mem asid (p :: _)) _ _ _, some g =>
    match (if p.attr.mtype = 2 then windowOf s g.record.part g.record.world p.va else none) with
    | some (die, _) => asid == asidOf s g.record.part g.record.world && invFull s g.record.part die
    | none => false
  | _, _ => false

/-- Perform every outstanding access of the threads a test selects, oldest first. -/
def performAll (s : State) (p : Op → Bool) : State :=
  s.ops.foldl (fun s o => if isAccess o && p o && !(windowFull s o) then performOp s o else s) s

/-- Perform a thread's outstanding accesses. -/
def performThread (s : State) (gk tid : Nat) : State := performAll s fun o => o.gk == gk && o.threads.contains tid

/-- Release of a thread's earlier operations (R247). -/
def releaseThread (s : State) (gk tid : Nat) : State :=
  match groupOf s gk with
  | none => s
  | some g => drainCore (performThread s gk tid) g.core

/-- Release of every thread of a group. -/
def releaseGroup (s : State) (gk : Nat) : State :=
  match groupOf s gk with
  | none => s
  | some g => drainCore (performAll s fun o => o.gk == gk) g.core

/-- Bytes of memory a place covers, as physical ranges with whether they are scratchpad. -/
def rangesOf : Place → List (Bool × Nat × Nat)
  | .scratch off => [(true, off, 64)]
  | .mem _ ps => ps.map fun p => (false, p.pa, p.len)

/-- The ranges an access touches. -/
def opRanges (o : Op) : List (Bool × Nat × Nat) :=
  match o.kind with
  | .load (.scratch off) _ size _ _ _ => [(true, off, size)]
  | .load p _ _ _ _ _ => rangesOf p
  | .store (.scratch off) data _ _ => [(true, off, data.length)]
  | .store p _ _ _ => rangesOf p
  | .atomic (.scratch off) _ size _ _ _ _ _ => [(true, off, size)]
  | .atomic p _ _ _ _ _ _ _ => rangesOf p
  | .swInit off _ => [(true, off, 16)]
  | _ => []

/-- An access touches one of the pieces. -/
def touchesPieces (ps : List Piece) (o : Op) : Bool :=
  (opRanges o).any fun x => !x.1 && ps.any fun p => decide (x.2.1 < p.pa + p.len) && decide (p.pa < x.2.1 + x.2.2)

/-- Two accesses touch a common byte. -/
def overlaps (a b : Op) : Bool :=
  (opRanges a).any fun x => (opRanges b).any fun y => x.1 == y.1 && x.2.1 < y.2.1 + y.2.2 && y.2.1 < x.2.1 + x.2.2

/-- An access may be performed now: no older access of its thread touches its bytes (R238), and no full queue holds it. -/
def mayPerform (s : State) (o : Op) : Bool :=
  !(windowFull s o) && (s.ops.takeWhile fun x => x.id != o.id).all fun x =>
    !(isAccess x && x.gk == o.gk && x.threads == o.threads && overlaps x o)

/-! ## Issuing counted operations (R70, R71) -/

/-- Add an operation of a thread and charge its counter. -/
def issueOp (s : State) (g : Group) (tid : Nat) (wait : BitVec 3) (sup : Bool) (kind : OpKind) : State :=
  let (s, id) := fresh s
  let cnt := wait.toNat
  let o : Op :=
    { id := id, core := g.core, gk := g.gk, threads := [tid], cnt := cnt, asid := asidOf s g.record.part g.record.world
      sup := sup, kind := kind }
  let s := { s with ops := s.ops ++ [o] }
  modThread s g.gk tid fun t => if cnt < 6 then { t with w := t.w.set cnt (t.w.getD cnt 0 + 1) } else { t with pw := t.pw + 1 }

/-- The issue group stalls before a counted instruction: a thread that would charge it holds 63 (R70). -/
def counterFull (s : State) (gd : Guard) (wait : BitVec 3) : Bool :=
  decide (wait.toNat < 6) && (headMembers s).any fun m =>
    match memberOf s m with
    | some (_, t) => guardTrue t gd && t.w.getD wait.toNat 0 ≥ 63
    | none => false

/-- Run a per-thread instruction with effects on memory for every member with a true guard, in ascending thread order: each
faults by itself (R65). The others shift zero (R69). -/
def runThreads (s : State) (w : Nat) (gd : Guard) (f : State → Group → Thread → State × Option FaultInfo) : State :=
  let step (acc : State × List Faulting) (m : Nat × Nat) : State × List Faulting :=
    match memberOf acc.1 m with
    | none => acc
    | some (g, t) =>
      if guardTrue t gd then
        match f acc.1 g t with
        | (s, some e) => (s, acc.2 ++ [{ gk := m.1, tid := m.2, f := e }])
        | (s, none) => (modThread s m.1 m.2 fun t => shiftLatch t 0, acc.2)
      else (modThread acc.1 m.1 m.2 fun t => shiftLatch t 0, acc.2)
  let r := (headMembers s).foldl step (s, [])
  finishInstr r.1 w r.2

/-- One member at an instruction that issues for its threads one by one: the state, the members it has issued for, the faults. A
held member waits, and the others go on. -/
def partStep (gd : Guard) (held : State → Group → Thread → Bool) (f : State → Group → Thread → State × Option FaultInfo)
    (r : State × List (Nat × Nat) × List Faulting) (m : Nat × Nat) : State × List (Nat × Nat) × List Faulting :=
  match memberOf r.1 m with
  | none => (r.1, r.2.1 ++ [m], r.2.2)
  | some (g, t) =>
    let past (s : State) : State × List (Nat × Nat) × List Faulting :=
      (modThread s m.1 m.2 fun t => shiftLatch t 0, r.2.1 ++ [m], r.2.2)
    if !(guardTrue t gd) then past r.1
    else if held r.1 g t then r
    else
      match f r.1 g t with
      | (s, some e) => (s, r.2.1 ++ [m], r.2.2 ++ [{ gk := m.1, tid := m.2, f := e }])
      | (s, none) => past s

/-- Run an instruction of two words for the members in ascending order, each once it is not held: the issue group stays at the
instruction until it has issued for all of them (R281, R317, R397). -/
def runPartly (s : State) (gd : Guard) (held : State → Group → Thread → Bool)
    (f : State → Group → Thread → State × Option FaultInfo) : State :=
  match s.issues with
  | [] => s
  | i :: _ =>
    let left := i.members.filter fun m => !(i.issued.contains m)
    let r := left.foldl (partStep gd held f) (s, [], [])
    let faults := (i.faults.map fun x => ({ gk := x.1, tid := x.2.1, f := x.2.2 } : Faulting)) ++ r.2.2
    if r.2.1.length = left.length then finishInstr r.1 2 faults
    else
      match r.1.issues with
      | [] => r.1
      | i :: rest =>
        { r.1 with issues := { i with issued := i.issued ++ r.2.1, faults := faults.map fun x => (x.gk, x.tid, x.f) } :: rest }

end Sys2Proof.Machine
end

