-- ==== Sys2Proof/Machine/Phases.lean ====
section
/-! DEFINITION. Barriers, exits, steps of deterministic grids, phase ends and what converging instructions share
(spec/02_execution_model.md R36 to R43, spec/06_lane_instructions.md R159 to R163, spec/10_memory_model.md R250,
spec/12_task_queues.md R290 to R297, spec/13_task_instructions.md R313, spec/04_registers.md R110). -/
namespace Sys2Proof.Machine

/-! ## Barriers (R162, R163) -/

/-- A thread as barrier b opens: it has arrived at it no more, and one parked on no other is ready (R163). -/
def freeBar (b age : Nat) (t : Thread) : Thread :=
  let left := t.parkedOn &&& ~~~(1#4 <<< b)
  let t := { t with arrived := t.arrived &&& ~~~(1#4 <<< b), bars := t.bars.filter fun e => e.1 != b, parkedOn := left }
  if t.status = .atBar ∧ left = 0 then { t with status := .ready, age := age } else t

/-- Open barrier b of a group when its arrival count equals the number of live threads: the count becomes 0, the threads
parked on it become ready from now on, with an acquire. A thread parked on two barriers, at which it arrived in one clause, stays
parked until both have opened: R162 parks it for each, R163 makes it ready at either (DESIGN CHOICE, log entry 57). -/
def openBarrier (gk : Nat) (s : State) (b : Nat) : State :=
  match groupOf s gk with
  | none => s
  | some g =>
    if g.barriers.getD b 0 != 0 && g.barriers.getD b 0 == (liveThreads g).length then
      let (s, a) := fresh (acquireCore s g.core)
      modGroup s gk fun g => { g with barriers := g.barriers.set b 0, threads := g.threads.map (freeBar b a) }
    else s

/-- Compare every barrier of a group with its live threads. -/
def openBarriers (s : State) (gk : Nat) : State := [0, 1, 2, 3].foldl (openBarrier gk) s

/-- A thread arrives at a barrier, counted once until it opens; each time it will park when it has finished the clause (R162). -/
def arriveAt (s : State) (gk tid b : Nat) : State :=
  modGroup s gk fun g =>
    match threadOf g tid with
    | none => g
    | some t =>
      { updThread g tid (fun t => { t with arrived := t.arrived ||| (1#4 <<< b), bars := t.bars ++ [(b, t.hdr)] }) with
        barriers := if t.arrived.getLsbD b then g.barriers else g.barriers.set b (g.barriers.getD b 0 + 1) }

/-! ## Steps and frames -/

/-- A group of a deterministic grid ends its step (R250). -/
def endStep (s : State) (gk : Nat) : State :=
  modGroup s gk fun g => if g.record.det then { g with stepsEnded := g.stepsEnded + 1 } else g

/-- Change a group's frame record; an access that faults fails the group (R465). -/
def frameUpdate (s : State) (g : Group) (f : Nat → Nat) : State :=
  match hwUpdate s g.record.part g.record.world g.frame 64 f with
  | (s, none) => s
  | (s, some e) => failRecord s g.gk e

/-- A group's frame record; an access that faults fails the group (R465). -/
def frameRead (s : State) (g : Group) : State × Option Nat :=
  match hwRead s g.record.part g.record.world g.frame 64 with
  | (s, .ok bs) => (s, some (leNat bs))
  | (s, .error e) => (failRecord s g.gk e, none)

/-- The last live thread of a group has exited: the frame shows it, the step of a deterministic grid ends (R159, R250). -/
def groupExit (s : State) (gk : Nat) : State :=
  match groupOf s gk with
  | none => s
  | some g =>
    let s := modGroup s gk fun g => { g with run := .exited, adopt := none }
    endStep (frameUpdate s g fun v => setField v 167 1 1) gk

/-- Threads of a group execute `exit` (R159): barriers are compared, a waiting thread may enter its handler, and the last one
ends the group. -/
def exitThread (s : State) (gk tid : Nat) : State :=
  let s := modThread s gk tid fun t => { t with status := .exited, inKernel := false, inSup := false, emulK := none, emulS := none, clause := none }
  let s := nextHandler (openBarriers s gk) gk
  match groupOf s gk with
  | some g => if (liveThreads g).isEmpty then groupExit s gk else s
  | none => s

/-- A child grid of a frame completes: its pending count falls by one, `poisoned` is set when the child failed, and a group
that waits at `await` for zero goes on (R290, R291). -/
def childDone (s : State) (part : Nat) (world : Bool) (frame : Nat) (failed : Bool) : State :=
  let (s, e) := hwUpdate s part world frame 64 fun v =>
    let v := setField v 0 32 (field v 0 32 + 2 ^ 32 - 1)
    if failed then setField v 165 1 1 else v
  let parent := s.groups.find? fun g => g.frame == frame && g.record.part == part && g.record.world == world
  match e, parent with
  | some f, some g => failRecord s g.gk f
  | some f, none => recordEvent s part (some f)
  | none, none => s
  | none, some g =>
    if !g.awaiting then s
    else
      match frameRead s g with
      | (s, some v) => if field v 0 32 = 0 then enqueueCont (endStep s g.gk) g.gk else s
      | (s, none) => s

/-! ## Faults of converging and group-scope instructions (R151, R190, R313) -/

/-- Threads of the head issue group's group that are not among the faulting ones stay held at the instruction. -/
def convFault (s : State) (gk : Nat) (xs : List Faulting) : State :=
  let site := headSite s
  let held := (headThreads s gk).filter fun t => !(xs.any fun x => x.tid == t)
  let s := dropMembers s fun m => m.1 == gk
  let s := held.foldl
    (fun s t => modThread s gk t fun x => { x with status := .held, pc := site.pc, hdr := site.hdr }) s
  takeFaults s site xs

/-- Every live thread of a group is a member of the head issue group (R37, R151). -/
def whole (s : State) (g : Group) : Bool := (liveThreads g).all fun t => (headThreads s g.gk).contains t.idx

/-- A fault of a group-scope instruction is taken by the group's lowest-indexed live thread. -/
def groupFault (s : State) (gk : Nat) (f : FaultInfo) : State :=
  match (groupOf s gk).bind fun g => (liveThreads g).head? with
  | some t => convFault s gk [{ gk := gk, tid := t.idx, f := f }]
  | none => s

/-! ## Deferred faults (R262, R276) -/

/-- The first deferred fault of a thread under the counters a test selects. -/
def deferredOf (t : Thread) (sel : Nat → Bool) : Option FaultInfo := (t.deferred.find? fun d => sel d.1).map fun d => d.2

/-- Remove the first deferred fault of the selected counters. -/
def dropFirst (sel : Nat → Bool) : List (Nat × FaultInfo) → List (Nat × FaultInfo)
  | [] => []
  | d :: r => if sel d.1 then r else d :: dropFirst sel r

/-- Threads, as members, with a deferred fault under the selected counters, each with the fault. -/
def deferredAmong (s : State) (ms : List (Nat × Nat)) (sel : Nat → Bool) : List Faulting :=
  ms.filterMap fun m =>
    match memberOf s m with
    | some (_, t) => (deferredOf t sel).map fun f => { gk := m.1, tid := m.2, f := f }
    | none => none

/-- The deferred faults that are taken now are pending no longer. -/
def clearDeferred (s : State) (xs : List Faulting) (sel : Nat → Bool) : State :=
  xs.foldl (fun s x => modThread s x.gk x.tid fun t => { t with deferred := dropFirst sel t.deferred }) s

/-! ## Phase ends (R39 to R43, R110, R292, R297) -/

/-- A group that holds scratchpad, claimed slots or accumulator tiles is pinned to its core (R43). -/
def holdsPinned (g : Group) : Bool :=
  g.record.spkib != 0 || g.hdrs.any (fun h => h.scount != 0) || !g.ztiles.isEmpty || g.meshBase.isSome

/-- Entry t of a list of threads, by index. -/
def lanesOf (g : Group) (f : Thread → Nat) (bytes t : Nat) : List Byte :=
  match threadOf g t with
  | some x => if isLive x then leBytes (f x) bytes else leBytes 0 bytes
  | none => leBytes 0 bytes

/-- The bytes of a phase record with n carried registers (R292). -/
def phaseRecord (g : Group) (rpc : DWord) (n wobj : Nat) : List Byte :=
  leBytes (phaseHeader g rpc n wobj) 512
  ++ (List.range 128).flatMap (lanesOf g threadBlock 8)
  ++ (List.range n).flatMap fun k => (List.range 128).flatMap (lanesOf g (fun t => (regOf t k).toNat) 4)

/-- What a thread keeps between phases: its place, with the clause header of a wait (R68), and whether it is live; the phase record
holds the rest. -/
def parkThread (rpc hdr : DWord) (t : Thread) : Thread :=
  { t with
    regs := [], pc := rpc, hdr := hdr, clause := none, l0 := 0, l1 := 0, arrived := 0, bars := [], parkedOn := 0, inKernel := false, inSup := false
    emulK := none, emulS := none, poison := 0
    status := if t.status = .exited then .exited else .ready }

/-- The continuation record of a group (R297): pinned to its core when the group holds something there, and not otherwise (R43). -/
def contRecord (g : Group) (n : Nat) : TaskRecord :=
  { g.record with
    prec := phaseRecordVa g, carry := n, gfirst := g.gid, gcount := 1, variant := g.variant, pin := holdsPinned g
    pcore := if holdsPinned g then g.core else 0 }

/-- A group's phase ends at rpc, a word of the clause at hdr or that header, with n carried registers, waiting on wobj: release, phase record, registers released, task-table
entry (R39, R40, R302). A record that cannot be written fails the group (R465). -/
def endPhase (s : State) (gk : Nat) (rpc hdr : DWord) (n wobj : Nat) : State :=
  let s := releaseGroup s gk
  match groupOf s gk with
  | none => s
  | some g =>
    match hwWrite s g.record.part g.record.world (phaseRecordVa g) (phaseRecord g rpc n wobj) with
    | (s, some f) => failRecord s gk f
    | (s, none) =>
      let s := dropMembers s fun m => m.1 == gk
      let s := modGroup s gk fun g =>
        { g with
          run := .parked, adopt := none, wait := none, hdrBase := if holdsPinned g then g.hdrBase else none, record := contRecord g n, barriers := [0, 0, 0, 0], patterns := []
          threads := g.threads.map (parkThread rpc hdr) }
      match gridOf s g.grid with
      | none => s
      | some gr => entryUpdate s gr fun e =>
          let e := setField (setField e 32 3 3) 35 5 (clusterOfGroup g)
          setField (setField (setField e 55 1 (holdsPinned g).toNat) 56 8 g.core) 64 57 (phaseRecordVa g)

/-- Carry count of the entry variant a group runs (R41). -/
def variantCarry (g : Group) : Nat := (g.kd.variants.getD g.variant { pc := 0, bound := 0, regs := 0, carry := 0, valid := false }).carry

/-! ## Converging instructions (R36, R37, R189, R313) -/

/-- What a converging instruction makes of one group. -/
inductive GroupOut where
  /-- It faults in the group's lowest-indexed live thread. -/
  | fault (s : State) (f : FaultInfo)
  /-- The group's threads have left the issue group. -/
  | left (s : State)
  /-- It does not issue for the group yet. -/
  | stall (s : State)
  | done (s : State)

/-- A converging instruction at one group of the head issue group, with the groups that have performed it so far. Without every
live thread of the group it does not issue: the threads are held there for the others (R36, R37). -/
def convGroup (f : State → Group → GroupOut) (r : State × List Nat) (gk : Nat) : State × List Nat :=
  match groupOf r.1 gk with
  | none => r
  | some g =>
    if !(whole r.1 g) then (convFault r.1 gk [], r.2)
    else
      match f r.1 g with
      | .fault s e => (groupFault s gk e, r.2)
      | .left s => (s, r.2)
      | .stall s => (s, r.2)
      | .done s => (s, r.2 ++ [gk])

/-- The end of a converging instruction's turn: once each group that is still in the issue group has performed it, the issue group
goes on; until then the issue group keeps which of them have. -/
def closeConv (i : Issue) (fin : State → State) (r : State × List Nat) : State :=
  match r.1.issues with
  | [] => r.1
  | j :: rest =>
    let ran := i.issued ++ i.members.filter fun m => r.2.contains m.1
    if !(j.members.all fun m => i.members.contains m) then r.1
    else if j.members.all fun m => ran.contains m then fin r.1
    else { r.1 with issues := { j with issued := ran } :: rest }

/-- A converging instruction for the groups of the head issue group in the order of their first members, the (subcore, lane) of
each group's lowest-indexed thread there (R189). -/
def runConv (s : State) (fin : State → State) (f : State → Group → GroupOut) : State :=
  match s.issues with
  | [] => s
  | i :: _ => closeConv i fin (((headGroups s).filter fun gk => !(i.issued.any fun m => m.1 == gk)).foldl (convGroup f) (s, []))

/-- The head issue group goes on past an instruction of two words that is no latch producer. -/
def pastTwo (s : State) : State := finishInstr (shiftZero s) 2 []

/-! ## Group-scope instructions (R313) -/

/-- Counters w0 to w5 of a thread are all zero. -/
def waitsDone (t : Thread) : Bool := t.w.all fun n => n == 0

/-- A group-scope instruction, two words long: it issues when every wait counter of the group is zero and takes the deferred
faults that waited for it (R262); with no true guard it has no effect (R313). -/
def runGroup (s : State) (gd : Guard) (f : State → Group → List Thread → GroupOut) : State :=
  runConv s pastTwo fun s g =>
    if !((liveThreads g).all waitsDone) then .stall s
    else
      let late := deferredAmong s ((headThreads s g.gk).map fun t => (g.gk, t)) fun _ => true
      if !late.isEmpty then .left (convFault (clearDeferred s late fun _ => true) g.gk late)
      else
        match (liveThreads g).filter fun t => guardTrue t gd with
        | [] => .done s
        | ts => f s g ts

end Sys2Proof.Machine
end

