-- ==== Sys2Proof/Machine/Static.lean ====
section
/-! DEFINITION. What the decoder reads off an instruction without running it (spec/03_instruction_words.md R59 to R67, Table 3.6,
R91): its clause class, whether it converges, transfers control, produces a latch or may fault, and the registers it names. -/
namespace Sys2Proof.Machine

/-- The lane registers an instruction names: source codes with the registers each takes, other spans it reads, spans it writes. -/
structure RegUse where
  srcs : List (Src × Nat)
  reads : List (Nat × Nat)
  writes : List (Nat × Nat)
  deriving DecidableEq, Repr

/-- No lane register. -/
def noRegs : RegUse := ⟨[], [], []⟩

/-- The span a destination field writes: none with nw (R66). -/
def put (nw : Bool) (d : BitVec 7) (k : Nat) : List (Nat × Nat) := if nw then [] else [(d.toNat, k)]

/-- Registers of a value of a `cvt` format (R145). -/
def regs64 (f : BitVec 5) : Nat := if is64Fmt f then 2 else 1

/-- Lane registers an instruction names directly (Table 3.6 and the instructions' own sections). -/
def regUse : Instr → RegUse
  | .nop => noRegs
  | .iadd o => ⟨[(o.a, 1), (o.b, 1)], [], put o.nw o.d 1⟩
  | .isub o => ⟨[(o.a, 1), (o.b, 1)], [], put o.nw o.d 1⟩
  | .imul o => ⟨[(o.a, 1), (o.b, 1)], [], put o.nw o.d 1⟩
  | .imulh o => ⟨[(o.a, 1), (o.b, 1)], [], put o.nw o.d 1⟩
  | .imulhu o => ⟨[(o.a, 1), (o.b, 1)], [], put o.nw o.d 1⟩
  | .imin o => ⟨[(o.a, 1), (o.b, 1)], [], put o.nw o.d 1⟩
  | .iminu o => ⟨[(o.a, 1), (o.b, 1)], [], put o.nw o.d 1⟩
  | .imax o => ⟨[(o.a, 1), (o.b, 1)], [], put o.nw o.d 1⟩
  | .imaxu o => ⟨[(o.a, 1), (o.b, 1)], [], put o.nw o.d 1⟩
  | .iabs o => ⟨[(o.a, 1)], [], put o.nw o.d 1⟩
  | .and o => ⟨[(o.a, 1), (o.b, 1)], [], put o.nw o.d 1⟩
  | .or o => ⟨[(o.a, 1), (o.b, 1)], [], put o.nw o.d 1⟩
  | .xor o => ⟨[(o.a, 1), (o.b, 1)], [], put o.nw o.d 1⟩
  | .shl o => ⟨[(o.a, 1), (o.b, 1)], [], put o.nw o.d 1⟩
  | .shr o => ⟨[(o.a, 1), (o.b, 1)], [], put o.nw o.d 1⟩
  | .sar o => ⟨[(o.a, 1), (o.b, 1)], [], put o.nw o.d 1⟩
  | .rotl o => ⟨[(o.a, 1), (o.b, 1)], [], put o.nw o.d 1⟩
  | .popc o => ⟨[(o.a, 1)], [], put o.nw o.d 1⟩
  | .clz o => ⟨[(o.a, 1)], [], put o.nw o.d 1⟩
  | .brev o => ⟨[(o.a, 1)], [], put o.nw o.d 1⟩
  | .iadds o => ⟨[(o.a, 1), (o.b, 1)], [], put o.nw o.d 1⟩
  | .isubs o => ⟨[(o.a, 1), (o.b, 1)], [], put o.nw o.d 1⟩
  | .iadd64 o => ⟨[(o.a, 2), (o.b, 2)], [], put o.nw o.d 2⟩
  | .isub64 o => ⟨[(o.a, 2), (o.b, 2)], [], put o.nw o.d 2⟩
  | .mov o => ⟨[(o.a, 1)], [], put o.nw o.d 1⟩
  | .mov64 o => ⟨[(o.a, 2)], [], put o.nw o.d 2⟩
  | .icmp o => ⟨[(o.a, 1), (o.b, 1)], [], []⟩
  | .icmp64 o => ⟨[(o.a, 2), (o.b, 2)], [], []⟩
  | .fcmp o => ⟨[(o.a, 1), (o.b, 1)], [], []⟩
  | .dcmp o => ⟨[(o.a, 2), (o.b, 2)], [], []⟩
  | .pand _ => noRegs
  | .por _ => noRegs
  | .pxor _ => noRegs
  | .pandn _ => noRegs
  | .pget o => ⟨[], [], put o.nw o.d 1⟩
  | .pset o => ⟨[(o.a, 1)], [], []⟩
  | .fadd o => ⟨[(o.a, 1), (o.b, 1)], [], put o.nw o.d 1⟩
  | .fsub o => ⟨[(o.a, 1), (o.b, 1)], [], put o.nw o.d 1⟩
  | .fmul o => ⟨[(o.a, 1), (o.b, 1)], [], put o.nw o.d 1⟩
  | .fmin o => ⟨[(o.a, 1), (o.b, 1)], [], put o.nw o.d 1⟩
  | .fmax o => ⟨[(o.a, 1), (o.b, 1)], [], put o.nw o.d 1⟩
  | .fabs o => ⟨[(o.a, 1)], [], put o.nw o.d 1⟩
  | .fneg o => ⟨[(o.a, 1)], [], put o.nw o.d 1⟩
  | .fsat o => ⟨[(o.a, 1)], [], put o.nw o.d 1⟩
  | .dadd o => ⟨[(o.a, 2), (o.b, 2)], [], put o.nw o.d 2⟩
  | .dsub o => ⟨[(o.a, 2), (o.b, 2)], [], put o.nw o.d 2⟩
  | .dmul o => ⟨[(o.a, 2), (o.b, 2)], [], put o.nw o.d 2⟩
  | .dmin o => ⟨[(o.a, 2), (o.b, 2)], [], put o.nw o.d 2⟩
  | .dmax o => ⟨[(o.a, 2), (o.b, 2)], [], put o.nw o.d 2⟩
  | .dabs o => ⟨[(o.a, 2)], [], put o.nw o.d 2⟩
  | .dneg o => ⟨[(o.a, 2)], [], put o.nw o.d 2⟩
  | .hadd2 o => ⟨[(o.a, 1), (o.b, 1)], [], put o.nw o.d 1⟩
  | .hmul2 o => ⟨[(o.a, 1), (o.b, 1)], [], put o.nw o.d 1⟩
  | .hmin2 o => ⟨[(o.a, 1), (o.b, 1)], [], put o.nw o.d 1⟩
  | .hmax2 o => ⟨[(o.a, 1), (o.b, 1)], [], put o.nw o.d 1⟩
  | .badd2 o => ⟨[(o.a, 1), (o.b, 1)], [], put o.nw o.d 1⟩
  | .bmul2 o => ⟨[(o.a, 1), (o.b, 1)], [], put o.nw o.d 1⟩
  | .bmin2 o => ⟨[(o.a, 1), (o.b, 1)], [], put o.nw o.d 1⟩
  | .bmax2 o => ⟨[(o.a, 1), (o.b, 1)], [], put o.nw o.d 1⟩
  | .frcp o => ⟨[(o.a, 1)], [], put o.nw o.d 1⟩
  | .frsq o => ⟨[(o.a, 1)], [], put o.nw o.d 1⟩
  | .fsqrt o => ⟨[(o.a, 1)], [], put o.nw o.d 1⟩
  | .fexp2 o => ⟨[(o.a, 1)], [], put o.nw o.d 1⟩
  | .flog2 o => ⟨[(o.a, 1)], [], put o.nw o.d 1⟩
  | .fsin o => ⟨[(o.a, 1)], [], put o.nw o.d 1⟩
  | .fcos o => ⟨[(o.a, 1)], [], put o.nw o.d 1⟩
  | .ftanh o => ⟨[(o.a, 1)], [], put o.nw o.d 1⟩
  | .aadd _ => noRegs
  | .asub _ => noRegs
  | .amov _ => noRegs
  | .aset o => ⟨[(o.a, 1)], [], []⟩
  | .ashl _ => noRegs
  | .amul _ => noRegs
  | .shfl o => ⟨[(o.a, 1), (o.b, 1)], [], put o.nw o.d 1⟩
  | .xbar o => ⟨[(o.a, 1)], [], put o.nw o.d 1⟩
  | .vany o => ⟨[(o.a, 1)], [], []⟩
  | .vall o => ⟨[(o.a, 1)], [], []⟩
  | .ballot o => ⟨[(o.a, 1)], [], put o.nw o.d 1⟩
  | .br _ => noRegs
  | .call _ => noRegs
  | .ret _ => noRegs
  | .jmpr o => ⟨[(o.a, 2)], [], []⟩
  | .exit _ => noRegs
  | .brk _ => noRegs
  | .trap _ => noRegs
  | .yield _ => noRegs
  | .xwin o => ⟨[(o.a, 1), (o.b, 1)], [], []⟩
  | .xset o => ⟨[(o.a, 1)], [], []⟩
  | .xput o => ⟨[(o.a, 1)], [], [(0, 128)]⟩
  | .bar _ => noRegs
  | .clkr o => ⟨[], [], put o.nw o.d 2⟩
  | .ffus o => ⟨[(o.a, 1), (o.b, 1), (o.c, 1)], [], put o.nw o.d 1⟩
  | .dfus o => ⟨[(o.a, 2), (o.b, 2), (o.c, 2)], [], put o.nw o.d 2⟩
  | .hfus2 o => ⟨[(o.a, 1), (o.b, 1), (o.c, 1)], [], put o.nw o.d 1⟩
  | .bfus2 o => ⟨[(o.a, 1), (o.b, 1), (o.c, 1)], [], put o.nw o.d 1⟩
  | .imad o => ⟨[(o.a, 1), (o.b, 1), (o.c, 1)], [], put o.nw o.d 1⟩
  | .sel o => ⟨[(o.a, 1), (o.b, 1)], [], put o.nw o.d 1⟩
  | .bfx o => ⟨[(o.a, 1), (o.c, 1)], [], put o.nw o.d 1⟩
  | .bfi o => ⟨[(o.a, 1), (o.b, 1), (o.c, 1)], [], put o.nw o.d 1⟩
  | .cvt o => ⟨(o.a, regs64 o.fromF) :: (if o.rm = 5 then [(o.c, 1)] else []), [], put o.nw o.d (regs64 o.toF)⟩
  | .movi o => ⟨[], [], put o.nw o.d 1⟩
  | .iaddi o => ⟨[(o.a, 1)], [], put o.nw o.d 1⟩
  | .amovi _ => noRegs
  | .aaddi _ => noRegs
  | .amuli _ => noRegs
  | .rnd o => ⟨[(o.a, 2), (o.b, 1), (o.c, 1)], [], put o.nw o.d 1⟩
  | .ld o => ⟨[(o.off, 1)], [], [(o.d.toNat, spanRegs o.size)]⟩
  | .st o => ⟨[(o.off, 1)], [(o.d.toNat, spanRegs o.size)], []⟩
  | .pref o => ⟨[(o.off, 1)], [], []⟩
  | .atom o => ⟨[(o.off, 1)], [(o.d.toNat, atomSpan o.am o.size)], [(o.d.toNat, if o.size = 3 then 2 else 1)]⟩
  | .red o => ⟨[(o.off, 1)], [(o.d.toNat, atomSpan o.am o.size)], []⟩
  | .swinit o => ⟨[(o.off, 1)], [(o.d.toNat, 1)], []⟩
  | .swadd o => ⟨[(o.off, 1)], [(o.d.toNat, 1)], []⟩
  | .swwait o => ⟨[(o.off, 1)], [(o.d.toNat, 1)], [(o.d.toNat, 1)]⟩
  | .loadArrival _ => noRegs
  | .storeCompletion _ => noRegs
  | .atomicCompletion _ => noRegs
  | .syncWordPieceArrival _ _ => noRegs
  | .engCopy o => ⟨[(o.a, 2), (o.b, 2)], [], if o.reply then [(o.d.toNat, 1)] else []⟩
  | .engCopy2d o => ⟨[(o.a, 2), (o.b, 2)], [], if o.reply then [(o.d.toNat, 1)] else []⟩
  | .engGather o => ⟨[(o.a, 2), (o.b, 2)], [], if o.reply then [(o.d.toNat, 1)] else []⟩
  | .engScatter o => ⟨[(o.a, 2), (o.b, 2)], [], if o.reply then [(o.d.toNat, 1)] else []⟩
  | .engFill o => ⟨[(o.a, 2), (o.b, 2)], [], if o.reply then [(o.d.toNat, 1)] else []⟩
  | .engAllred o => ⟨[(o.a, 2), (o.b, 2)], [], if o.reply then [(o.d.toNat, 1)] else []⟩
  | .engBcast o => ⟨[(o.a, 2), (o.b, 2)], [], if o.reply then [(o.d.toNat, 1)] else []⟩
  | .engRtrace o => ⟨[(o.a, 2), (o.b, 2)], [], if o.reply then [(o.d.toNat, 1)] else []⟩
  | .engRany o => ⟨[(o.a, 2), (o.b, 2)], [], if o.reply then [(o.d.toNat, 1)] else []⟩
  | .engRlaunch o => ⟨[(o.a, 2), (o.b, 2)], [], if o.reply then [(o.d.toNat, 1)] else []⟩
  | .engBquery o => ⟨[(o.a, 2), (o.b, 2)], [], if o.reply then [(o.d.toNat, 1)] else []⟩
  | .engBrefit o => ⟨[(o.a, 2), (o.b, 2)], [], if o.reply then [(o.d.toNat, 1)] else []⟩
  | .engineOperationCompletion _ => noRegs
  | .mclaim _ => noRegs
  | .mrel _ => noRegs
  | .mld _ => noRegs
  | .mst _ => noRegs
  | .mzero _ => noRegs
  | .mhdrFmt _ => noRegs
  | .mhdrKey _ => noRegs
  | .mhdrWc _ => noRegs
  | .mhdrSofs _ => noRegs
  | .mhdrSt _ => noRegs
  | .mmul _ => noRegs
  | .madd _ => noRegs
  | .msub _ => noRegs
  | .mscale _ => noRegs
  | .mtrn _ => noRegs
  | .mrecomp _ => noRegs
  | .mdense _ => noRegs
  | .mrank _ => noRegs
  | .mnorm _ => noRegs
  | .mma _ => noRegs
  | .zld _ => noRegs
  | .zst _ => noRegs
  | .zcvt _ => noRegs
  | .zzero _ => noRegs
  | .matrixCommandStart _ => noRegs
  | .matrixCommandCompletion _ => noRegs
  | .spawn o => ⟨[(o.b, 2)], [], if o.tx.getLsbD 1 then [(o.d.toNat, 1)] else []⟩
  | .await _ => noRegs
  | .phase _ => noRegs
  | .fnew o => ⟨[(o.b, 1)], [], []⟩
  | .fput o => ⟨[(o.b, 2)], [], []⟩
  | .fget o => ⟨[], [], [(o.d.toNat, 2)]⟩
  | .adoptedPhaseEnd _ => noRegs
  | .lacq _ => noRegs
  | .lrel _ => noRegs
  | .qput o => ⟨[], [(o.d.toNat, 4)], []⟩
  | .qget o => ⟨[], [], [(o.d.toNat, 4)]⟩
  | .dcdec _ => noRegs
  | .tktake _ => noRegs
  | .tkwait o => ⟨[(o.b, 1)], [], []⟩
  | .tself o => ⟨[], [], [(o.d.toNat, 1)]⟩
  | .ticketAutomaticTake _ _ => noRegs
  | .deterministicCommit _ => noRegs
  | .temit o => ⟨[(o.b, 2)], [], []⟩
  | .mvtx o => ⟨[(o.b, 1)], [(o.d.toNat, 4 + o.tx.toNat % 16)], []⟩
  | .mprim o => ⟨[(o.b, 1)], [(o.d.toNat, 1)], []⟩
  | .mend o => ⟨[(o.b, 2)], [], []⟩
  | .meshletBinning _ => noRegs
  | .sinfo o => ⟨[(o.b, 1)], [], [(o.d.toNat, 1)]⟩
  | .tcomb o => ⟨[(o.b, 1)], [(o.d.toNat, 2)], []⟩
  | .tdone o => ⟨[], [], [(o.d.toNat, 1)]⟩
  | .ctlr o => ⟨[], [], [(o.d.toNat, 1)]⟩
  | .ctlw o => ⟨[(o.b, 1)], [], []⟩
  | .segw _ => noRegs
  | .xbld _ => noRegs
  | .perfr o => ⟨[], [], [(o.d.toNat, 2)]⟩
  | .sret _ => noRegs
  | .clauseFetch _ _ => noRegs
  | .clauseIssue _ _ => noRegs
  | .reconvergence _ => noRegs
  | .hostFaultRecord _ => noRegs
  | .replay _ _ => noRegs
  | .kill _ _ => noRegs
  | .groupDispatch _ => noRegs
  | .steal _ => noRegs
  | .groupRetirement _ => noRegs
  | .preemption _ => noRegs
  | .preemptionResume _ => noRegs
  | .hostEnqueue _ _ _ => noRegs
  | .skidderRefill _ _ => noRegs
  | .hostMemoryRead _ _ _ => noRegs
  | .hostMemoryWrite _ _ _ => noRegs
  | .hostRegisterWrite _ _ => noRegs
  | .gazeWrite _ _ => noRegs
  | .capabilityExchange _ => noRegs
  | .invalidateWindowPiece _ _ _ _ _ => noRegs
  | .invalidateRange _ _ => noRegs
  | .invalidateAsid _ _ => noRegs
  | .invalidatePartition _ _ => noRegs
  | .l2placeWrite _ => noRegs
  | .l2placeDrainDone => noRegs
  | .l2LineMigration _ _ => noRegs
  | .flumeWriteback _ => noRegs
  | .pstateWrite _ => noRegs
  | .pstateChangeDone => noRegs
  | .cgateWrite _ => noRegs
  | .clusterGated _ => noRegs
  | .partitionEnable _ _ => noRegs
  | .partitionEnableCheckDone _ => noRegs
  | .partitionDisable _ _ => noRegs
  | .pcselWrite _ _ => noRegs
  | .displayEnable _ _ => noRegs
  | .linkTrainingDone _ _ => noRegs
  | .recoveryPoint _ _ => noRegs
  | .rollback _ _ => noRegs
  | .attestationRequest _ _ => noRegs
  | .measurementExtend _ _ _ => noRegs
  | .coldReset => noRegs
  | .thermalTrip _ => noRegs
  | .powerAboveCap _ => noRegs
  | .deviceFatal _ => noRegs
  | .stripStart _ _ => noRegs
  | .tileReconstructionEnqueue _ _ _ => noRegs
  | .stripDeadline _ => noRegs
  | .frameScanoutStart _ => noRegs
  | .scanoutLine _ => noRegs
  | .tcombCompletion _ => noRegs
  | .tdoneCompletion _ => noRegs

/-- Opcode of a word (R58). -/
def opcodeOf (w : Word) : Nat := w.toNat / 2 ^ 24

/-- Clause class that allows an opcode; 0 for every class (Table 3.6, R59). -/
def opClass (op : Nat) : Nat :=
  if op = 0 || (0x60 ≤ op && op ≤ 0x67) then 0
  else if op = 0x70 then 5
  else if op < 0xA0 then 1
  else if op < 0xB0 then 2
  else if op < 0xC0 then 4
  else if op < 0xE0 then 3
  else if op < 0xF0 then 5
  else if op < 0xF8 then 6
  else 7

/-- Control transfers (R60). -/
def isTransfer (op : Nat) : Bool := (0x60 ≤ op && op ≤ 0x67) || op == 0xFD

/-- Converging instructions (R36). -/
def isConverging (op : Nat) : Bool :=
  (0xC0 ≤ op && op ≤ 0xD3) || [0x58, 0x59, 0x5A, 0x5B, 0x5C, 0xE1, 0xE2, 0xE5, 0xE6, 0xE8, 0xE9, 0xEB, 0xEC, 0xF0, 0xF3, 0xF6].contains op

/-- Latch producers (Table 3.6, column Latch). -/
def isProducer (op : Nat) : Bool :=
  (0x01 ≤ op && op ≤ 0x1A) || op == 0x28 || (0x30 ≤ op && op ≤ 0x4F && op != 0x3F) || [0x58, 0x59, 0x5C, 0x71].contains op ||
  (0x80 ≤ op && op ≤ 0x8A) || op == 0x8E || op == 0xF8

/-- An indexed source code (R75). -/
def isIndexed : Src → Bool
  | .vx _ => true
  | _ => false

/-- Faultable instructions (Table 3.6, column F, R80). -/
def isFaultable (op : Nat) (i : Instr) : Bool :=
  [0x53, 0x61, 0x62, 0x63, 0x65, 0x66, 0x6A].contains op || decide (op ≥ 0xA0) || (regUse i).srcs.any fun e => isIndexed e.1

/-- Lane registers named directly all exist for N declared registers (R91). -/
def regsExist (n : Nat) (i : Instr) : Bool :=
  let u := regUse i
  let src (e : Src × Nat) : Bool := match e.1 with | .v r => decide (r.toNat + e.2 ≤ n) | _ => true
  let span (e : Nat × Nat) : Bool := decide (e.1 + e.2 ≤ n) || e == (0, 128)
  u.srcs.all src && u.reads.all span && u.writes.all span

/-- A decoded instruction of a clause, with its first word and its place. -/
structure Slot where
  w1 : Word
  instr : Instr
  /-- Words before it in the clause. -/
  off : Nat
  deriving DecidableEq, Repr

/-- An instruction reads a latch: how many instructions back (R67). -/
def latchReads (i : Instr) : List Nat :=
  (regUse i).srcs.filterMap fun e => match e.1 with | .l0 => some 1 | .l1 => some 2 | _ => none

/-- Two register spans share a register. -/
def spansMeet (a b : List (Nat × Nat)) : Bool := a.any fun x => b.any fun y => x.1 < y.1 + y.2 && y.1 < x.1 + x.2

/-- nw of a latch producer (R66). -/
def isNw (x : Slot) : Bool := isProducer (opcodeOf x.w1) && x.w1.getLsbD 23 && opcodeOf x.w1 != 0xF8

/-- R67 for a reader at position i of the instructions of a clause and a latch k back. -/
def latchOk (xs : List Slot) (i k : Nat) : Bool :=
  if i < k then false
  else
    match xs[i - k]? with
    | none => false
    | some p =>
      let faultable (f : Nat) : Bool := match xs[f]? with | some x => isFaultable (opcodeOf x.w1) x.instr | none => false
      let covers (f : Nat) : Bool :=
        f == i - k + 2 && match xs[f - 1]? with
          | some x => spansMeet (regUse x.instr).writes (regUse p.instr).writes
          | none => false
      isProducer (opcodeOf p.w1) &&
        (List.range k).all fun j => !(faultable (i - k + 1 + j) && (isNw p || covers (i - k + 1 + j)))

/-- The illegal-clause conditions of the instruction at position i (R36, R59, R60, R67, R310): `last` says that it ends the
clause. -/
def clauseOk (cls : Nat) (rcv last : Bool) (xs : List Slot) (i : Nat) (x : Slot) : Bool :=
  let op := opcodeOf x.w1
  (cls == 0 || opClass op == 0 || opClass op == cls) && (!(isTransfer op) || last) && (!(op == 0xE1 || op == 0xE2) || last) &&
  (!(isConverging op) || rcv) && (latchReads x.instr).all (latchOk xs i)

/-- A violation of the static rules: index of the instruction, 0 for the header, and fault class (R64). -/
abbrev Violation := Nat × Nat

/-- The violation of a two-word instruction whose W1 ends the clause (R60): the conditions that W1 decides come first, which are a
privileged opcode at user privilege, and a register that W1 names (R64, R91). -/
def cutOff (regs : Nat) (sup : Bool) (w1 : Word) : Nat :=
  if opcodeOf w1 = 0xFA && !sup then 1
  else
    match parseTwo w1 (plainW2 w1) with
    | .ok i => if regsExist regs i then 2 else 3
    | .error _ => 2

/-- Check the instructions of a clause in index order (R64), `done` the ones before, latest last; `regs` is the thread's declared
register count, `sup` its privilege. -/
def checkSlots (h : Header) (regs : Nat) (sup : Bool) : Nat → List Slot → List Word → Nat → Except Violation (List Slot)
  | 0, done, _, _ => .ok done
  | _ + 1, done, [], _ => .ok done
  | fuel + 1, done, w1 :: rest, off =>
    let idx := done.length + 1
    match decode w1 rest.head? with
    | .error .truncated => .error (idx, cutOff regs sup w1)
    | .error _ => .error (idx, 1)
    | .ok i =>
      let x : Slot := { w1 := w1, instr := i, off := off }
      let rest := rest.drop (wordCount w1 - 1)
      if opcodeOf w1 = 0xFA && !sup then .error (idx, 1)
      else if !(regsExist regs i) then .error (idx, 3)
      else if !(clauseOk h.cls h.rcv rest.isEmpty (done ++ [x]) (idx - 1) x) then .error (idx, 2)
      else checkSlots h regs sup fuel (done ++ [x]) rest (off + wordCount w1)

/-- The decode-time checks of a whole clause (R57, R64). -/
def checkClause (regs : Nat) (sup : Bool) (hw : Word) (ws : List Word) : Except Violation (List Slot) :=
  match decodeHeader hw with
  | none => .error (0, 2)
  | some h => checkSlots h regs sup 16 [] ws 0

end Sys2Proof.Machine
end

