-- ==== Sys2Proof/Machine/Clause.lean ====
section
/-! DEFINITION. Clauses: fetch with its checks, formation and issue, reconvergence (spec/02_execution_model.md R32 to R38,
spec/03_instruction_words.md R56 to R68). -/
namespace Sys2Proof.Machine

/-! ## Fetch (R62, R63) -/

/-- A cached sector of code whose bytes at the line's place have changed holds the old words or the new ones, with their poison (R62,
R63, log entry 1). -/
def freshOrStale (s : State) (c : Ctx) (va : Nat) (e : ISector) : State × List Byte × Bool :=
  let now := (placeRead s c { va := va / 64 * 64, pa := e.pa, len := 64, attr := e.attr }).2
  if now.1 == e.bytes then (s, e.bytes, false) else (useFresh s 1, if Config.freeBool s.fresh then now else (e.bytes, false))

/-- A sector joins an instruction cache of 64 KiB (R14); from a full one the sector that joined first goes (DESIGN CHOICE, log
entry 17). -/
def keepSector (l : List ISector) (e : ISector) : List ISector := (l ++ [e]).drop (l.length + 1 - Config.icacheSectors)

/-- A 64-byte sector of code as a core fetches it: from its instruction cache, else from the line's place, as the page's memory type
has it read, which fills the cache. -/
def fetchSector (s : State) (c : Ctx) (va : Nat) : State × Except FaultInfo (List Byte) :=
  let asid := asidOf s c.part c.sec
  match (coreOf s c.core).icache.find? fun e => e.asid == asid && e.sector == va / 64 with
  | some e =>
    match checkLeaf s c .x e.attr e.pa with
    | some cls => keptFault s cls va .x
    | none =>
      let (s, bs, bad) := freshOrStale s c va e
      (s, if bad then .error (poisonAt va) else .ok bs)
  | none =>
    match translate s c .x va with
    | (s, .error f) => (s, .error f)
    | (s, .ok (pa, attr)) =>
      let (s, bs, bad) := placeRead s c { va := va / 64 * 64, pa := pa / 64 * 64, len := 64, attr := attr }
      if bad then (s, .error (poisonAt va))
      else
        let e : ISector := { asid := asid, sector := va / 64, pa := pa / 64 * 64, attr := attr, bytes := bs }
        (modCore s c.core fun k => { k with icache := keepSector k.icache e }, .ok bs)

/-- n code words of fetched bytes from a place on. -/
def codeWords (bs : List Byte) (off n : Nat) : List Word := bytesToWords n (bs.drop off)

/-- The header word of a clause and the instruction words it counts (R56, R62): they lie in one sector or two, each fetched once, so
that a sector shows old words or new ones throughout (R63). -/
def fetchClause (s : State) (c : Ctx) (hdr : Nat) : State × Except FaultInfo (Word × List Word) :=
  if hdr % 4 != 0 then (s, .error { cls := fcMisaligned, va := BitVec.ofNat 64 hdr })
  else
    match fetchSector s c hdr with
    | (s, .error f) => (s, .error f)
    | (s, .ok a) =>
      let w := (codeWords a (hdr % 64) 1).headD 0
      let n := w.toNat / 2 ^ 28
      if (hdr + 4 * n) / 64 = hdr / 64 then (s, .ok (w, codeWords a (hdr % 64 + 4) n))
      else
        match fetchSector s c (hdr / 64 * 64 + 64) with
        | (s, .error f) => (s, .error f)
        | (s, .ok b) => (s, .ok (w, codeWords (a ++ b) (hdr % 64 + 4) n))

/-! ## Threads of a subcore -/

/-- Threads of the resident groups on a subcore that satisfy a test, oldest first (R34). -/
def threadsOn (s : State) (core sub : Nat) (p : Group → Thread → Bool) : List (Group × Thread) :=
  let all := (s.groups.filter fun g => g.core == core && g.run == .resident).flatMap fun g =>
    (g.threads.filter fun t => subcoreOf g t.idx == sub && p g t).map fun t => (g, t)
  sortBy (fun m => m.2.age) all

/-- Threads whose program counters are equal in address and address-space identifier (R32). -/
def samePlace (s : State) (a b : Group × Thread) : Bool :=
  a.2.pc == b.2.pc && a.2.hdr == b.2.hdr &&
  asidOf s a.1.record.part a.1.record.world == asidOf s b.1.record.part b.1.record.world

/-- Instruction of a clause that a resumption address names: the position, if the address is that of an instruction's first
word (R68). -/
def resumeAt (xs : List Slot) (hdr pc : DWord) : Option Nat :=
  let o := (pc - hdr).toNat / 4
  if o = 0 then none else xs.findIdx? fun x => x.off + 1 == o

/-- A thread has its clause: it is held at a reconvergence clause, and at a converging instruction it resumes at (R37). A
resumption address that is no instruction of the clause is taken as a header (R61, R107). -/
def giveClause (hw : Word) (ws : List Word) (xs : List Slot) (t : Thread) : Thread :=
  let rcv := hw.getLsbD 18
  if t.pc = t.hdr then { t with clause := some (hw, ws), status := if rcv then .held else .ready }
  else
    match resumeAt xs t.hdr t.pc with
    | none => { t with hdr := t.pc }
    | some k =>
      let conv := ((xs[k]?).map fun x => isConverging (opcodeOf x.w1)).getD false
      { t with clause := some (hw, ws), status := if conv then .held else .ready }

/-- Fetch for a thread and the ready threads at its place, which take the violation each finds at the header (R64, R91). -/
def fetchFor (s : State) (core : Nat) (lead : Group × Thread) (ms : List (Group × Thread)) : State :=
  let hdr := lead.2.hdr
  let site (index n : Nat) : FaultSite := { pc := hdr, index := index, hdr := hdr, n := n }
  match fetchClause s { ctxOf lead.1 lead.2 with core := core } hdr.toNat with
  | (s, .error f) => takeFaults s (site 0 0) (ms.map fun m => { gk := m.1.gk, tid := m.2.idx, f := f })
  | (s, .ok (hw, ws)) =>
    let check (m : Group × Thread) : Except Violation (List Slot) := checkClause m.1.regCount m.2.inSup hw ws
    let s := ms.foldl
      (fun s m => match check m with
        | .ok xs => modThread s m.1.gk m.2.idx (giveClause hw ws xs)
        | .error _ => s) s
    let bad := ms.filterMap fun m => match check m with
      | .error v => some (v.1, ({ gk := m.1.gk, tid := m.2.idx, f := { cls := v.2 } } : Faulting))
      | .ok _ => none
    (List.range 16).foldl
      (fun s k =>
        match (bad.filter fun b => b.1 == k).map fun b => b.2 with
        | [] => s
        | xs => takeFaults s (site k ws.length) xs) s

/-- The groups, at most four, whose ready threads form the issue group, oldest first. -/
def firstGroups (ms : List (Group × Thread)) : List Nat :=
  (ms.foldl (fun acc m => if acc.contains m.1.gk then acc else acc ++ [m.1.gk]) []).take 4

/-- One thread for each lane, the oldest of the chosen groups' (R32, R34), in ascending lane. -/
def pickLanes (ms : List (Group × Thread)) : List (Group × Thread) :=
  let gs := firstGroups ms
  let mine := ms.filter fun m => gs.contains m.1.gk
  (List.range 32).filterMap fun l => mine.find? fun m => laneOf m.1 m.2.idx == l

/-- CLAUSE_FETCH (R62, R64): the oldest ready thread of a subcore without a clause, with those at its place that may issue
with it, one on each lane (R414). -/
def execClauseFetch (core sub : Nat) (s : State) : Res :=
  let ready := threadsOn s core sub fun _ t => t.status == .ready && t.clause.isNone
  .next (match (if clocksGated s then [] else ready) with
    | [] => s
    | lead :: rest => fetchFor s core lead (pickLanes (lead :: rest.filter fun m => samePlace s lead m && m.2.inSup == lead.2.inSup)))

/-! ## Issue (R32 to R35, R262) -/

/-- Wait counters marked in a header word (Table 3.1). -/
def waitMask (hw : Word) (k : Nat) : Bool := k < 6 && hw.getLsbD (19 + k)

/-- The wait mask that holds for a thread: none in mid-clause (R35); the private counter always (R71). -/
def maskFor (t : Thread) (k : Nat) : Bool :=
  k ≥ 6 || (t.pc == t.hdr && match t.clause with | some (hw, _) => waitMask hw k | none => false)

/-- Every counter a thread waits for is zero. -/
def waitOver (t : Thread) : Bool :=
  t.pw == 0 && (List.range 6).all fun k => !(maskFor t k) || t.w.getD k 0 == 0

/-- Value of a latch when a thread starts at instruction f of a clause: the destination of the producer one or two before (R68). -/
def reload (xs : List Slot) (t : Thread) (f back : Nat) : DWord :=
  if f < back then 0
  else
    match xs[f - back]? with
    | none => 0
    | some p =>
      if !(isProducer (opcodeOf p.w1)) then 0
      else
        match (regUse p.instr).writes with
        | (r, 1) :: _ => (regOf t r).setWidth 64
        | (r, _) :: _ => pairOf t r
        | [] => 0

/-- The instructions of a fetched clause. -/
def slotsOf (g : Group) (t : Thread) : List Slot :=
  match t.clause with
  | some (hw, ws) => (match checkClause g.regCount t.inSup hw ws with | .ok xs => xs | .error _ => [])
  | none => []

/-- A thread enters an issue group (R66, R68). -/
def startThread (s : State) (m : Group × Thread) : State :=
  let xs := slotsOf m.1 m.2
  modThread s m.1.gk m.2.idx fun t =>
    if t.pc = t.hdr then { t with status := .issuing, l0 := 0, l1 := 0 }
    else
      let f := (resumeAt xs t.hdr t.pc).getD 0
      { t with status := .issuing, l0 := reload xs t f 1, l1 := reload xs t f 2 }

/-- Threads at one place issue their clause from where they stand; a nonzero wait mask acquires (R243, R248). -/
def startIssue (s : State) (core : Nat) (rcv : Bool) (clause : Word × List Word) (lead : Group × Thread)
    (ms : List (Group × Thread)) : State :=
  let t := lead.2
  let mid := t.pc != t.hdr
  let f := (resumeAt (slotsOf lead.1 { t with clause := some clause }) t.hdr t.pc).getD 0
  let off := if mid then (t.pc - t.hdr).toNat / 4 - 1 else 0
  let i : Issue :=
    { core := core, members := ms.map fun m => (m.1.gk, m.2.idx), hdr := t.hdr, words := clause.2, off := off
      done := if mid then f else 0, rcv := rcv }
  let s := if !mid && (List.range 6).any (waitMask clause.1) then acquireCore s core else s
  let s := ms.foldl startThread s
  { countEvent s core 1 1 with issues := s.issues ++ [i] }

/-- Deferred faults that threads take at the place they wait at (R262, R276). -/
def takeDeferred (s : State) (lead : Group × Thread) (ms : List (Group × Thread)) : Option State :=
  let late := ms.filterMap fun m => (deferredOf m.2 (maskFor m.2)).map fun f =>
    ({ gk := m.1.gk, tid := m.2.idx, f := f } : Faulting)
  if late.isEmpty then none
  else
    let index := match resumeAt (slotsOf lead.1 lead.2) lead.2.hdr lead.2.pc with | some k => k + 1 | none => 0
    let n := ((lead.2.clause.map fun c => c.2.length)).getD 0
    let s := late.foldl
      (fun s x => modThread s x.gk x.tid fun t => { t with deferred := dropFirst (maskFor t) t.deferred }) s
    some (takeFaults s { pc := lead.2.pc, index := index, hdr := lead.2.hdr, n := n } late)

/-- The clocks stop at the next clause boundary while a change of power state is in progress, and are gated in D3 (R437). -/
def mayIssue (s : State) : Bool := !(s.pstate.getLsbD 2) && !(clocksGated s) && !s.fatal

/-- An issue group in progress holds a subcore: it is at no clause boundary (R32). -/
def subcoreBusy (s : State) (core sub : Nat) : Bool :=
  s.issues.any fun i => i.core == core && i.members.any fun m => (groupOf s m.1).any fun g => subcoreOf g m.2 == sub

/-- Every live thread of a group is held. -/
def allHeld (g : Group) : Bool := g.run == .resident && !(liveThreads g).isEmpty && (liveThreads g).all fun t => t.status == .held

/-- Age of a group whose live threads are all held: that of the thread that has been there shortest. -/
def heldAge (g : Group) : Nat := (liveThreads g).foldl (fun a t => max a t.age) 0

/-- A thread or a held group on one of the subcores has been ready longer than age a, so that it comes first there (R34): a ready thread
whose clause is not fetched yet counts. -/
def olderOn (s : State) (core : Nat) (subs : List Nat) (a : Nat) : Bool :=
  s.groups.any fun g => g.core == core && g.run == .resident &&
    ((g.threads.any fun t =>
        subs.contains (subcoreOf g t.idx) && t.status == .ready && decide (t.age < a) && (t.clause.isNone || waitOver t)) ||
     (allHeld g && decide (heldAge g < a) && (liveThreads g).all waitOver &&
        (liveThreads g).any fun t => subs.contains (subcoreOf g t.idx)))

/-- CLAUSE_ISSUE (R32, R34): at a clause boundary of a subcore, its oldest ready thread that has its clause, with the threads at its
place; nothing that has been ready longer is passed over. -/
def execClauseIssue (core sub : Nat) (s : State) : Res :=
  let ready := threadsOn s core sub fun _ t => t.status == .ready && t.clause.isSome && waitOver t
  .next (if !(mayIssue s) || subcoreBusy s core sub then s
    else
      match ready with
      | [] => s
      | lead :: rest =>
        if olderOn s core [sub] lead.2.age then s
        else
          let ms := pickLanes (lead :: rest.filter fun m => samePlace s lead m && m.2.clause == lead.2.clause)
          match takeDeferred s lead ms with
          | some s => s
          | none => startIssue s core false (lead.2.clause.getD (0, [])) lead ms)

/-- RECONVERGENCE (R37, R38): when every live thread of a group is held at one place the group issues as one, in its turn by age on
every subcore it uses (R34); at two or more places it takes an illegal-clause fault at the clause of its lowest-indexed held thread
(log entry 12). -/
def execReconvergence (gk : Nat) (s : State) : Res :=
  .next (match groupOf s gk with
    | none => s
    | some g =>
      let subs := (liveThreads g).map fun x => subcoreOf g x.idx
      match allHeld g && mayIssue s && !(subs.any (subcoreBusy s g.core)), liveThreads g with
      | true, t :: rest =>
        let clause := ((liveThreads g).findSome? fun x => x.clause).getD (0, [])
        if rest.any fun x => x.pc != t.pc || x.hdr != t.hdr then
          takeFaults s { pc := t.hdr, index := 0, hdr := t.hdr, n := clause.2.length }
            [{ gk := gk, tid := t.idx, f := { cls := fcIllegalClause } }]
        else if (liveThreads g).all waitOver && !(olderOn s g.core subs (heldAge g)) then
          let ms := (liveThreads g).map fun x => (g, x)
          match takeDeferred s (g, t) ms with
          | some s => s
          | none => startIssue s g.core true clause (g, t) ms
        else s
      | _, _ => s)

end Sys2Proof.Machine
end

