-- ==== Sys2Proof/Machine/Lanes.lean ====
section
/-! DEFINITION. Lane instructions: integer, compare, predicate, floating-point, multiply-add, bit-field, conversion and random
bits (spec/06_lane_instructions.md R137 to R147, spec/05_number_formats.md). -/
namespace Sys2Proof.Machine

/-! ## Operand shapes -/

/-- A 32-bit operation on two sources. -/
def bin32 (k : SrcKind) (o : RBin) (f : Group → Word → Word → Word × Flags) (g : Group) (t : Thread) : LaneOut := do
  let a ← readSrc32 k g t o.a
  let b ← readSrc32 k g t o.b
  let r := f g a b
  pure (put32 t o.nw o.d r.1, r.2)

/-- A 32-bit operation on one source. -/
def un32 (k : SrcKind) (o : RUn) (f : Group → Word → Word × Flags) (g : Group) (t : Thread) : LaneOut := do
  let a ← readSrc32 k g t o.a
  let r := f g a
  pure (put32 t o.nw o.d r.1, r.2)

/-- A 64-bit operation on two pairs. -/
def bin64 (k : SrcKind) (o : RBin) (f : Group → DWord → DWord → DWord × Flags) (g : Group) (t : Thread) : LaneOut := do
  let a ← readSrc64 k g t o.a
  let b ← readSrc64 k g t o.b
  let r := f g a b
  pure (put64 t o.nw o.d r.1, r.2)

/-- A 64-bit operation on one pair. -/
def un64 (k : SrcKind) (o : RUn) (f : Group → DWord → DWord × Flags) (g : Group) (t : Thread) : LaneOut := do
  let a ← readSrc64 k g t o.a
  let r := f g a
  pure (put64 t o.nw o.d r.1, r.2)

/-- An integer operation: no flags. -/
def intOp (f : Word → Word → Word) (_ : Group) (a b : Word) : Word × Flags := (f a b, {})

/-- A one-source integer operation. -/
def intUn (f : Word → Word) (_ : Group) (a : Word) : Word × Flags := (f a, {})

/-- A compare: pd := cond(A, B) with the flags of its operands (R138, R139). -/
def compare32 (k : SrcKind) (o : PCmp) (f : Group → Word → Word → Bool × Flags) (g : Group) (t : Thread) : LaneOut := do
  let a ← readSrc32 k g t o.a
  let b ← readSrc32 k g t o.b
  let r := f g a b
  pure (shiftLatch (putPred t o.pd r.1) 0, r.2)

/-- A compare of pairs. -/
def compare64 (k : SrcKind) (o : PCmp) (f : Group → DWord → DWord → Bool × Flags) (g : Group) (t : Thread) : LaneOut := do
  let a ← readSrc64 k g t o.a
  let b ← readSrc64 k g t o.b
  let r := f g a b
  pure (shiftLatch (putPred t o.pd r.1) 0, r.2)

/-- Predicate logic (R140). -/
def predOp (o : PLog) (f : Bool → Bool → Bool) (_ : Group) (t : Thread) : LaneOut :=
  plain (shiftLatch (putPred t o.pd (f (readPred t o.a) (readPred t o.b))) 0)

/-! ## Integer results (Table 6.2) -/

/-- floor(sA × sB ÷ 2^32) mod 2^32. -/
def mulHigh (a b : Word) : Word := BitVec.ofInt 32 (a.toInt * b.toInt / 2 ^ 32)
/-- floor(A × B ÷ 2^32). -/
def mulHighU (a b : Word) : Word := BitVec.ofNat 32 (a.toNat * b.toNat / 2 ^ 32)
/-- A × 2^B for B below 32, else 0. -/
def shiftL (a b : Word) : Word := if b.toNat < 32 then a <<< b.toNat else 0
/-- floor(A ÷ 2^B) for B below 32, else 0. -/
def shiftR (a b : Word) : Word := if b.toNat < 32 then a >>> b.toNat else 0
/-- floor(sA ÷ 2^min(B, 31)). -/
def shiftA (a b : Word) : Word := a.sshiftRight (min b.toNat 31)
/-- A rotated left by B mod 32. -/
def rotL (a b : Word) : Word := a.rotateLeft (b.toNat % 32)
/-- abs(sA) mod 2^32. -/
def absInt (a : Word) : Word := if a.toInt < 0 then -a else a
/-- One bits of the low n bits of a number. -/
def popBits (a : Nat) : Nat → Nat
  | 0 => 0
  | n + 1 => (bitOf a n).toNat + popBits a n
/-- Number of one bits. -/
def popCount (a : Word) : Word := BitVec.ofNat 32 (popBits a.toNat 32)
/-- Leading zero bits; 32 for zero. -/
def leadZero (a : Word) : Word := if a = 0 then 32 else BitVec.ofNat 32 (31 - Nat.log2 a.toNat)
/-- The low n bits of a number in reverse order. -/
def revBits (a : Nat) : Nat → Nat
  | 0 => 0
  | n + 1 => (bitOf a n).toNat + 2 * revBits a n
/-- Bit i of the result is bit 31 - i. -/
def bitRev (a : Word) : Word := BitVec.ofNat 32 (revBits a.toNat 32)
/-- An integer saturated to 32 signed bits. -/
def satInt (i : Int) : Word := BitVec.ofInt 32 (min (max i (-(2 ^ 31))) (2 ^ 31 - 1))
/-- A compare condition of `icmp` and `icmp64` (Table 6.4). -/
def intCond {w : Nat} (cond : BitVec 4) (a b : BitVec w) : Bool :=
  match cond.toNat with
  | 0 => a == b
  | 1 => a != b
  | 2 => a.slt b
  | 3 => a.sle b
  | 4 => b.slt a
  | 5 => b.sle a
  | 6 => a.ult b
  | 7 => a.ule b
  | 8 => b.ult a
  | _ => b.ule a

/-! ## Floating-point results -/

/-- An operation on the exact values of two operands of a format, rounded by `fpm` rm (R141, R129). -/
def floatBits (p : FParams) (f : Nat → FVal → FVal → Exact) (fpm : Word) (a b : Nat) : Nat × Flags :=
  finish p fpm (fpmRm fpm) (f (fpmRm fpm) (decodeFlt p (flushes fpm p) a) (decodeFlt p (flushes fpm p) b))

/-- minimumNumber or maximumNumber of a format: not rounded, nv for a signalling operand (R130). -/
def minMaxBits (p : FParams) (wantMax : Bool) (fpm : Word) (a b : Nat) : Nat × Flags :=
  let x := decodeFlt p (flushes fpm p) a
  let y := decodeFlt p (flushes fpm p) b
  ((roundFlt p false false 0 0 (minMax wantMax x y)).1, sigFlags [x, y])

/-- abs or negation as the operand is read (R142). -/
def signBits (p : FParams) (f : FVal → FVal) (fpm : Word) (a : Nat) : Nat × Flags :=
  let x := decodeFlt p (flushes fpm p) a
  ((roundFlt p false false 0 0 (f x)).1, sigFlags [x])

/-- abs of a value. -/
def absVal : FVal → FVal
  | .nan s => .nan s
  | .inf _ => .inf false
  | .fin _ m e => .fin false m e

/-- `fsat` (R142). -/
def satBits (fpm : Word) (a : Nat) : Nat × Flags :=
  let x := decodeFlt f32P (fpmFtz fpm) a
  let r : FVal :=
    match x with
    | .nan _ => .fin false 0 0
    | _ => if !(ltVal (.fin false 0 0) x) then .fin false 0 0 else if !(ltVal x (.fin false 1 0)) then .fin false 1 0 else x
  ((roundFlt f32P false false 0 0 r).1, sigFlags [x])

/-- a − b. -/
def exactSub (mode : Nat) (a b : FVal) : Exact := exactAdd mode a (negVal b)

/-- A 32-bit float operation on registers. -/
def f32Op (f : Word → Nat → Nat → Nat × Flags) (g : Group) (a b : Word) : Word × Flags :=
  let r := f g.ctl.fpm a.toNat b.toNat
  (BitVec.ofNat 32 r.1, r.2)

/-- A one-source 32-bit float operation. -/
def f32Un (f : Word → Nat → Nat × Flags) (g : Group) (a : Word) : Word × Flags :=
  let r := f g.ctl.fpm a.toNat
  (BitVec.ofNat 32 r.1, r.2)

/-- A 64-bit float operation. -/
def f64Op (f : Word → Nat → Nat → Nat × Flags) (g : Group) (a b : DWord) : DWord × Flags :=
  let r := f g.ctl.fpm a.toNat b.toNat
  (BitVec.ofNat 64 r.1, r.2)

/-- A one-source 64-bit float operation. -/
def f64Un (f : Word → Nat → Nat × Flags) (g : Group) (a : DWord) : DWord × Flags :=
  let r := f g.ctl.fpm a.toNat
  (BitVec.ofNat 64 r.1, r.2)

/-- A packed operation: each 16-bit element on its own, flags ORed (R112). -/
def packed (f : Word → Nat → Nat → Nat × Flags) (g : Group) (a b : Word) : Word × Flags :=
  let lo := f g.ctl.fpm (a.toNat % 65536) (b.toNat % 65536)
  let hi := f g.ctl.fpm (a.toNat / 65536) (b.toNat / 65536)
  (BitVec.ofNat 32 (lo.1 + 65536 * hi.1), orFlags lo.2 hi.2)

/-- A float compare (R138, R139): nv only for a signalling operand. -/
def floatCond (p : FParams) (cond : BitVec 4) (fpm : Word) (a b : Nat) : Bool × Flags :=
  let x := decodeFlt p (flushes fpm p) a
  let y := decodeFlt p (flushes fpm p) b
  (cmpFloat cond.toNat x y, sigFlags [x, y])

/-- Multiply-add of one element under the mode of the instruction (R143). -/
def fmaBits (p : FParams) (o : FmaOp) (fpm : Word) (a b c : Nat) : Nat × Flags :=
  let mode := if o.rx then o.rm.toNat else fpmRm fpm
  finish p fpm mode (exactFma mode (decodeFlt p (flushes fpm p) a) (decodeFlt p (flushes fpm p) b) (decodeFlt p (flushes fpm p) c))

/-- A 32-bit format X operation with three sources under a guard. -/
def tri32 (k : SrcKind) (nw : Bool) (d : BitVec 7) (gd : Guard) (sa sb sc : Src)
    (f : Group → Thread → Word → Word → Word → Word × Flags) (g : Group) (t : Thread) : LaneOut :=
  if guardTrue t gd then do
    let a ← readSrc32 k g t sa
    let b ← readSrc32 k g t sb
    let c ← readSrc32 k g t sc
    let r := f g t a b c
    pure (put32 t nw d r.1, r.2)
  else plain (keep32 t nw d)

/-- `ffus` and the packed forms. -/
def fma32 (k : SrcKind) (o : FmaOp) (f : Word → Nat → Nat → Nat → Nat × Flags) : Group → Thread → LaneOut :=
  tri32 k o.nw o.d o.g o.a o.b o.c fun g _ a b c =>
    let r := f g.ctl.fpm a.toNat b.toNat c.toNat
    (BitVec.ofNat 32 r.1, r.2)

/-- A packed multiply-add. -/
def packedFma (p : FParams) (o : FmaOp) (fpm : Word) (a b c : Nat) : Nat × Flags :=
  let lo := fmaBits p o fpm (a % 65536) (b % 65536) (c % 65536)
  let hi := fmaBits p o fpm (a / 65536) (b / 65536) (c / 65536)
  (lo.1 + 65536 * hi.1, orFlags lo.2 hi.2)

/-- `dfus`. -/
def fma64 (o : FmaOp) (g : Group) (t : Thread) : LaneOut :=
  if guardTrue t o.g then do
    let a ← readSrc64 .f64 g t o.a
    let b ← readSrc64 .f64 g t o.b
    let c ← readSrc64 .f64 g t o.c
    let r := fmaBits f64P o g.ctl.fpm a.toNat b.toNat c.toNat
    pure (put64 t o.nw o.d (BitVec.ofNat 64 r.1), r.2)
  else plain (keep64 t o.nw o.d)

/-! ## Bit fields (R144) -/

/-- `bfx`. -/
def extractField (signed : Bool) (width : Nat) (a c : Word) : Word :=
  let f := field a.toNat (c.toNat % 32) width
  if signed && width < 32 && f ≥ 2 ^ (width - 1) then BitVec.ofInt 32 ((f : Int) - (2 ^ width : Nat)) else BitVec.ofNat 32 f

/-- `bfi`. -/
def insertField (width : Nat) (a b c : Word) : Word :=
  let m : Word := BitVec.ofNat 32 ((2 ^ width - 1) * 2 ^ (c.toNat % 32))
  (b &&& ~~~m) ||| (BitVec.ofNat 32 (a.toNat * 2 ^ (c.toNat % 32)) &&& m)

/-- A format code reads or writes a pair in `cvt` (R145). -/
def wideCode (c : BitVec 5) : Bool := c.toNat == 6 || c.toNat == 7 || c.toNat == 11

/-- Kind in which `cvt` reads its source operand (R74). -/
def srcKindOf (c : BitVec 5) : SrcKind :=
  match c.toNat with
  | 8 => .f16
  | 9 => .bf16
  | 10 => .f32
  | 11 => .f64
  | _ => .int

/-- Bits of a `cvt` source operand (R112). -/
def cvtSource (o : CvtOp) (g : Group) (t : Thread) : Except FaultInfo Nat :=
  if wideCode o.fromF then do let a ← readSrc64 (srcKindOf o.fromF) g t o.a; pure a.toNat
  else do let a ← readSrc32 (srcKindOf o.fromF) g t o.a; pure a.toNat

/-- A constant code read in an 8-bit or 4-bit floating-point format is its exact value (R74). -/
def narrowConst (o : CvtOp) : Option FVal :=
  if o.fromF.toNat < 12 then none
  else
    match o.a with
    | .one => some (.fin false 1 0)
    | .half => some (.fin false 1 (-1))
    | .two => some (.fin false 2 0)
    | .int n => some (intVal ((n.toNat : Int) - 16))
    | _ => none

/-- `cvt` of one thread (R145). -/
def convertLane (o : CvtOp) (g : Group) (t : Thread) : LaneOut :=
  if guardTrue t o.g then do
    let x ← cvtSource o g t
    let j ← (if o.rm = 5 then readSrc32 .int g t o.c else pure 0)
    let i := (g.gid * g.record.threads + t.idx) % 2 ^ 32
    let u := if o.rm = 5 then srbits g.ctl.srkey.toNat g.ctl.srn.toNat i j.toNat else 0
    match fmtOf o.fromF.toNat, fmtOf o.toF.toNat with
    | some ff, some tf =>
      let r := match narrowConst o with
        | some v => convertVal g.ctl.fpm tf o.rm.toNat u o.sat v
        | none => convert g.ctl.fpm ff tf o.rm.toNat u o.sat x
      let bits := placeResult tf r.1
      pure (if wideCode o.toF then put64 t o.nw o.d (BitVec.ofNat 64 bits) else put32 t o.nw o.d (BitVec.ofNat 32 bits), r.2)
    | _, _ => pure (shiftLatch t 0, {})
  else plain (if wideCode o.toF then keep64 t o.nw o.d else keep32 t o.nw o.d)

/-! ## Meanings -/

/-- `nop` (R137): the latch shift alone. -/
def execNop (s : State) : Res := .next (runLanes s 1 fun _ t => plain (shiftLatch t 0))

/-- `iadd` (R137) -/
def execIadd (o : RBin) (s : State) : Res := .next (runLanes s 1 (bin32 .int o (intOp fun a b => a + b)))
/-- `isub` (R137) -/
def execIsub (o : RBin) (s : State) : Res := .next (runLanes s 1 (bin32 .int o (intOp fun a b => a - b)))
/-- `imul` (R137) -/
def execImul (o : RBin) (s : State) : Res := .next (runLanes s 1 (bin32 .int o (intOp fun a b => a * b)))
/-- `imulh` (R137) -/
def execImulh (o : RBin) (s : State) : Res := .next (runLanes s 1 (bin32 .int o (intOp mulHigh)))
/-- `imulhu` (R137) -/
def execImulhu (o : RBin) (s : State) : Res := .next (runLanes s 1 (bin32 .int o (intOp mulHighU)))
/-- `imin` (R137) -/
def execImin (o : RBin) (s : State) : Res := .next (runLanes s 1 (bin32 .int o (intOp fun a b => if a.sle b then a else b)))
/-- `iminu` (R137) -/
def execIminu (o : RBin) (s : State) : Res := .next (runLanes s 1 (bin32 .int o (intOp fun a b => if a.ule b then a else b)))
/-- `imax` (R137) -/
def execImax (o : RBin) (s : State) : Res := .next (runLanes s 1 (bin32 .int o (intOp fun a b => if a.sle b then b else a)))
/-- `imaxu` (R137) -/
def execImaxu (o : RBin) (s : State) : Res := .next (runLanes s 1 (bin32 .int o (intOp fun a b => if a.ule b then b else a)))
/-- `iabs` (R137) -/
def execIabs (o : RUn) (s : State) : Res := .next (runLanes s 1 (un32 .int o (intUn absInt)))
/-- `and` (R137) -/
def execAnd (o : RBin) (s : State) : Res := .next (runLanes s 1 (bin32 .int o (intOp fun a b => a &&& b)))
/-- `or` (R137) -/
def execOr (o : RBin) (s : State) : Res := .next (runLanes s 1 (bin32 .int o (intOp fun a b => a ||| b)))
/-- `xor` (R137) -/
def execXor (o : RBin) (s : State) : Res := .next (runLanes s 1 (bin32 .int o (intOp fun a b => a ^^^ b)))
/-- `shl` (R137) -/
def execShl (o : RBin) (s : State) : Res := .next (runLanes s 1 (bin32 .int o (intOp shiftL)))
/-- `shr` (R137) -/
def execShr (o : RBin) (s : State) : Res := .next (runLanes s 1 (bin32 .int o (intOp shiftR)))
/-- `sar` (R137) -/
def execSar (o : RBin) (s : State) : Res := .next (runLanes s 1 (bin32 .int o (intOp shiftA)))
/-- `rotl` (R137) -/
def execRotl (o : RBin) (s : State) : Res := .next (runLanes s 1 (bin32 .int o (intOp rotL)))
/-- `popc` (R137) -/
def execPopc (o : RUn) (s : State) : Res := .next (runLanes s 1 (un32 .int o (intUn popCount)))
/-- `clz` (R137) -/
def execClz (o : RUn) (s : State) : Res := .next (runLanes s 1 (un32 .int o (intUn leadZero)))
/-- `brev` (R137) -/
def execBrev (o : RUn) (s : State) : Res := .next (runLanes s 1 (un32 .int o (intUn bitRev)))
/-- `iadds` (R137) -/
def execIadds (o : RBin) (s : State) : Res := .next (runLanes s 1 (bin32 .int o (intOp fun a b => satInt (a.toInt + b.toInt))))
/-- `isubs` (R137) -/
def execIsubs (o : RBin) (s : State) : Res := .next (runLanes s 1 (bin32 .int o (intOp fun a b => satInt (a.toInt - b.toInt))))
/-- `iadd64` (R137) -/
def execIadd64 (o : RBin) (s : State) : Res := .next (runLanes s 1 (bin64 .int o fun _ a b => (a + b, {})))
/-- `isub64` (R137) -/
def execIsub64 (o : RBin) (s : State) : Res := .next (runLanes s 1 (bin64 .int o fun _ a b => (a - b, {})))
/-- `mov` (R137) -/
def execMov (o : RUn) (s : State) : Res := .next (runLanes s 1 (un32 .int o (intUn fun a => a)))
/-- `mov64` (R137) -/
def execMov64 (o : RUn) (s : State) : Res := .next (runLanes s 1 (un64 .int o fun _ a => (a, {})))
/-- `icmp` (R138) -/
def execIcmp (o : PCmp) (s : State) : Res := .next (runLanes s 1 (compare32 .int o fun _ a b => (intCond o.cond a b, {})))
/-- `icmp64` (R138) -/
def execIcmp64 (o : PCmp) (s : State) : Res := .next (runLanes s 1 (compare64 .int o fun _ a b => (intCond o.cond a b, {})))
/-- `fcmp` (R138, R139) -/
def execFcmp (o : PCmp) (s : State) : Res := .next (runLanes s 1 (compare32 .f32 o fun g a b => floatCond f32P o.cond g.ctl.fpm a.toNat b.toNat))
/-- `dcmp` (R138, R139) -/
def execDcmp (o : PCmp) (s : State) : Res := .next (runLanes s 1 (compare64 .f64 o fun g a b => floatCond f64P o.cond g.ctl.fpm a.toNat b.toNat))
/-- `pand` (R140) -/
def execPand (o : PLog) (s : State) : Res := .next (runLanes s 1 (predOp o fun a b => a && b))
/-- `por` (R140) -/
def execPor (o : PLog) (s : State) : Res := .next (runLanes s 1 (predOp o fun a b => a || b))
/-- `pxor` (R140) -/
def execPxor (o : PLog) (s : State) : Res := .next (runLanes s 1 (predOp o fun a b => a != b))
/-- `pandn` (R140) -/
def execPandn (o : PLog) (s : State) : Res := .next (runLanes s 1 (predOp o fun a b => a && !b))
/-- `pget` (R140) -/
def execPget (o : PGet) (s : State) : Res :=
  .next (runLanes s 1 fun _ t => plain (put32 t o.nw o.d (if readPred t o.a then 1 else 0)))
/-- `pset` (R140) -/
def execPset (o : PVote) (s : State) : Res :=
  .next (runLanes s 1 fun g t => do
    let a ← readSrc32 .int g t o.a
    plain (shiftLatch (putPred t o.pd (a != 0)) 0))
/-- `fadd` (R141) -/
def execFadd (o : RBin) (s : State) : Res := .next (runLanes s 1 (bin32 .f32 o (f32Op (floatBits f32P exactAdd))))
/-- `fsub` (R141) -/
def execFsub (o : RBin) (s : State) : Res := .next (runLanes s 1 (bin32 .f32 o (f32Op (floatBits f32P exactSub))))
/-- `fmul` (R141) -/
def execFmul (o : RBin) (s : State) : Res := .next (runLanes s 1 (bin32 .f32 o (f32Op (floatBits f32P (fun _ => exactMul)))))
/-- `fmin` (R130) -/
def execFmin (o : RBin) (s : State) : Res := .next (runLanes s 1 (bin32 .f32 o (f32Op (minMaxBits f32P false))))
/-- `fmax` (R130) -/
def execFmax (o : RBin) (s : State) : Res := .next (runLanes s 1 (bin32 .f32 o (f32Op (minMaxBits f32P true))))
/-- `fabs` (R142) -/
def execFabs (o : RUn) (s : State) : Res := .next (runLanes s 1 (un32 .f32 o (f32Un (signBits f32P absVal))))
/-- `fneg` (R142) -/
def execFneg (o : RUn) (s : State) : Res := .next (runLanes s 1 (un32 .f32 o (f32Un (signBits f32P negVal))))
/-- `dadd` (R141) -/
def execDadd (o : RBin) (s : State) : Res := .next (runLanes s 1 (bin64 .f64 o (f64Op (floatBits f64P exactAdd))))
/-- `dsub` (R141) -/
def execDsub (o : RBin) (s : State) : Res := .next (runLanes s 1 (bin64 .f64 o (f64Op (floatBits f64P exactSub))))
/-- `dmul` (R141) -/
def execDmul (o : RBin) (s : State) : Res := .next (runLanes s 1 (bin64 .f64 o (f64Op (floatBits f64P (fun _ => exactMul)))))
/-- `dmin` (R130) -/
def execDmin (o : RBin) (s : State) : Res := .next (runLanes s 1 (bin64 .f64 o (f64Op (minMaxBits f64P false))))
/-- `dmax` (R130) -/
def execDmax (o : RBin) (s : State) : Res := .next (runLanes s 1 (bin64 .f64 o (f64Op (minMaxBits f64P true))))
/-- `dabs` (R142) -/
def execDabs (o : RUn) (s : State) : Res := .next (runLanes s 1 (un64 .f64 o (f64Un (signBits f64P absVal))))
/-- `dneg` (R142) -/
def execDneg (o : RUn) (s : State) : Res := .next (runLanes s 1 (un64 .f64 o (f64Un (signBits f64P negVal))))
/-- `fsat` (R142) -/
def execFsat (o : RUn) (s : State) : Res := .next (runLanes s 1 (un32 .f32 o (f32Un satBits)))
/-- `hadd2` (R141) -/
def execHadd2 (o : RBin) (s : State) : Res := .next (runLanes s 1 (bin32 .f16 o (packed (floatBits f16P exactAdd))))
/-- `hmul2` (R141) -/
def execHmul2 (o : RBin) (s : State) : Res := .next (runLanes s 1 (bin32 .f16 o (packed (floatBits f16P (fun _ => exactMul)))))
/-- `hmin2` (R130, R141) -/
def execHmin2 (o : RBin) (s : State) : Res := .next (runLanes s 1 (bin32 .f16 o (packed (minMaxBits f16P false))))
/-- `hmax2` (R130, R141) -/
def execHmax2 (o : RBin) (s : State) : Res := .next (runLanes s 1 (bin32 .f16 o (packed (minMaxBits f16P true))))
/-- `badd2` (R141) -/
def execBadd2 (o : RBin) (s : State) : Res := .next (runLanes s 1 (bin32 .bf16 o (packed (floatBits bf16P exactAdd))))
/-- `bmul2` (R141) -/
def execBmul2 (o : RBin) (s : State) : Res := .next (runLanes s 1 (bin32 .bf16 o (packed (floatBits bf16P (fun _ => exactMul)))))
/-- `bmin2` (R130, R141) -/
def execBmin2 (o : RBin) (s : State) : Res := .next (runLanes s 1 (bin32 .bf16 o (packed (minMaxBits bf16P false))))
/-- `bmax2` (R130, R141) -/
def execBmax2 (o : RBin) (s : State) : Res := .next (runLanes s 1 (bin32 .bf16 o (packed (minMaxBits bf16P true))))
/-- `frcp` (R131) -/
def execFrcp (o : RUn) (s : State) : Res := .next (runLanes s 1 (un32 .f32 o (f32Un (transcend .rcp))))
/-- `frsq` (R131) -/
def execFrsq (o : RUn) (s : State) : Res := .next (runLanes s 1 (un32 .f32 o (f32Un (transcend .rsq))))
/-- `fsqrt` (R131) -/
def execFsqrt (o : RUn) (s : State) : Res := .next (runLanes s 1 (un32 .f32 o (f32Un (transcend .sqrt))))
/-- `fexp2` (R131) -/
def execFexp2 (o : RUn) (s : State) : Res := .next (runLanes s 1 (un32 .f32 o (f32Un (transcend .exp2))))
/-- `flog2` (R131) -/
def execFlog2 (o : RUn) (s : State) : Res := .next (runLanes s 1 (un32 .f32 o (f32Un (transcend .log2))))
/-- `fsin` (R131) -/
def execFsin (o : RUn) (s : State) : Res := .next (runLanes s 1 (un32 .f32 o (f32Un (transcend .sin))))
/-- `fcos` (R131) -/
def execFcos (o : RUn) (s : State) : Res := .next (runLanes s 1 (un32 .f32 o (f32Un (transcend .cos))))
/-- `ftanh` (R131) -/
def execFtanh (o : RUn) (s : State) : Res := .next (runLanes s 1 (un32 .f32 o (f32Un (transcend .tanh))))
/-- `ffus` (R143) -/
def execFfus (o : FmaOp) (s : State) : Res := .next (runLanes s 2 (fma32 .f32 o (fmaBits f32P o)))
/-- `dfus` (R143) -/
def execDfus (o : FmaOp) (s : State) : Res := .next (runLanes s 2 (fma64 o))
/-- `hfus2` (R143) -/
def execHfus2 (o : FmaOp) (s : State) : Res := .next (runLanes s 2 (fma32 .f16 o (packedFma f16P o)))
/-- `bfus2` (R143) -/
def execBfus2 (o : FmaOp) (s : State) : Res := .next (runLanes s 2 (fma32 .bf16 o (packedFma bf16P o)))
/-- `imad` (R144) -/
def execImad (o : MadOp) (s : State) : Res := .next (runLanes s 2 (tri32 .int o.nw o.d o.g o.a o.b o.c fun _ _ a b c => (a * b + c, {})))
/-- `sel` (R144) -/
def execSel (o : SelOp) (s : State) : Res := .next (runLanes s 2 (tri32 .int o.nw o.d o.g o.a o.b .zero fun _ t a b _ => (if readPred t o.p then a else b, {})))
/-- `bfx` (R144) -/
def execBfx (o : BfxOp) (s : State) : Res := .next (runLanes s 2 (tri32 .int o.nw o.d o.g o.a .zero o.c fun _ _ a _ c => (extractField o.signed o.width.toNat a c, {})))
/-- `bfi` (R144) -/
def execBfi (o : BfiOp) (s : State) : Res := .next (runLanes s 2 (tri32 .int o.nw o.d o.g o.a o.b o.c fun _ _ a b c => (insertField o.width.toNat a b c, {})))
/-- `cvt` (R145) -/
def execCvt (o : CvtOp) (s : State) : Res := .next (runLanes s 2 (convertLane o))
/-- `movi` (R146) -/
def execMovi (o : ImmOp) (s : State) : Res := .next (runLanes s 2 (fun _ t => plain (put32 t o.nw o.d o.imm)))
/-- `iaddi` (R146) -/
def execIaddi (o : ImmOp) (s : State) : Res :=
  .next (runLanes s 2 fun g t => do
    let a ← readSrc32 .int g t o.a
    plain (put32 t o.nw o.d (a + o.imm)))
/-- `rnd` (R147): the key is the odd register of the pair, the count the even one -/
def execRnd (o : MadOp) (s : State) : Res :=
  .next (runLanes s 2 fun g t =>
    if guardTrue t o.g then do
      let a ← readSrc64 .int g t o.a
      let b ← readSrc32 .int g t o.b
      let c ← readSrc32 .int g t o.c
      plain (put32 t o.nw o.d (BitVec.ofNat 32 (srbits (a.toNat / 2 ^ 32) a.toNat b.toNat c.toNat)))
    else plain (keep32 t o.nw o.d))

end Sys2Proof.Machine
end

