-- ==== Sys2Proof/Machine/Memory.lean ====
section
/-! DEFINITION. The memory instructions and the completions of their operations (spec/11_memory_instructions.md R258 to R274). -/
namespace Sys2Proof.Machine

/-- Bytes of an access (R78). -/
def accessBytes (o : MemOp) : Nat := 2 ^ o.size.toNat

/-- Registers d, d + 1, … of a thread as source data, checked for poison (R259, R235). -/
def sourceRegs (t : Thread) (d n : Nat) : Except FaultInfo (List Word) := do
  regChecked t d n
  pure ((List.range n).map fun i => regOf t (d + i))

/-- The value of words, the first the lowest. -/
def wordsNat : List Word → Nat
  | [] => 0
  | w :: r => w.toNat + 2 ^ 32 * wordsNat r

/-- A piece of a device or strongly ordered page, or of a strong access. -/
def devicePlace : Place → Bool
  | .mem _ ps => ps.any fun p => p.attr.mtype ≥ 2
  | .scratch _ => false

/-- Place of an access operation. -/
def opPlace (o : Op) : Option Place :=
  match o.kind with
  | .load p _ _ _ _ _ => some p
  | .store p _ _ _ => some p
  | .atomic p _ _ _ _ _ _ _ => some p
  | _ => none

/-- A device or strongly ordered access issues after the thread's earlier ones have been performed (R229, R249). -/
def deviceOrder (s : State) (g : Group) (t : Thread) (p : Place) : State :=
  if devicePlace p then
    performAll s fun o => o.gk == g.gk && o.threads == [t.idx] && (opPlace o).any devicePlace
  else s

/-- The resolved target of a memory operand for a thread. -/
def memTarget (s : State) (g : Group) (t : Thread) (o : MemOp) (size : Nat) (acc : Acc) (want : Nat) :
    State × Except FaultInfo Target :=
  match memOffset g t o with
  | .error f => (s, .error f)
  | .ok off => resolve s g t o.seg.toNat size off acc o.hint.toNat want

/-- Entries that a group has staged so far. -/
def stagedNow (s : State) (g : Group) : Nat := ((groupOf s g.gk).map fun g => g.staged).getD 0

/-- `ld` for one thread (R263). -/
def issueLoad (o : MemOp) (s : State) (g : Group) (t : Thread) : State × Option FaultInfo :=
  match memTarget s g t o (accessBytes o) .r 0 with
  | (s, .error f) => (s, some f)
  | (s, .ok tg) =>
    let s := deviceOrder s g t tg.place
    (issueOp s g t.idx o.wait t.inSup (.load tg.place o.d.toNat (accessBytes o) tg.treat o.hint.toNat (stagedNow s g)), none)

/-- `ld` (R263). -/
def execLd (o : MemOp) (s : State) : Res :=
  .next (if counterFull s o.g o.wait then s else runThreads s 2 o.g (issueLoad o))

/-- The thread's newest operation is performed at once, unless a full queue holds it. -/
def performLast (s : State) : State :=
  match s.ops.getLast? with
  | some o => if mayPerform s o then performOp s o else s
  | none => s

/-- `st` for one thread: the data is read at issue (R264). Poison of its registers comes after rows 1 to 6 of Table 11.2, and then
the log of a staged store (R253, R261). -/
def issueStore (o : MemOp) (s : State) (g : Group) (t : Thread) : State × Option FaultInfo :=
  let size := accessBytes o
  match memTarget s g t o size .w 1 with
  | (s, .error f) => (s, some f)
  | (s, .ok tg) =>
    let va := placeVa tg.place
    match (if tg.treat = .shared then stageFull s g va (max 1 (size / 8)) else none), sourceRegs t o.d.toNat ((size + 3) / 4) with
    | some f, _ => (s, some f)
    | none, .error f => (s, some f)
    | none, .ok ws =>
      let data := leBytes (wordsNat ws) size
      match (if tg.treat = .shared then stage s g va (storeEntries va data) else (s, none)) with
      | (s, some f) => (s, some f)
      | (s, none) =>
        let s := issueOp (deviceOrder s g t tg.place) g t.idx o.wait t.inSup (.store tg.place data tg.treat o.hint.toNat)
        -- the pieces of an invalidate command are performed before the thread's next instruction (R367)
        if devicePlace tg.place && (windowOf s g.record.part g.record.world va).isSome then (performLast s, none) else (s, none)

/-- `st` (R264). -/
def execSt (o : MemOp) (s : State) : Res :=
  .next (if counterFull s o.g o.wait then s else runThreads s 2 o.g (issueStore o))

/-- One piece of a prefetch: a page that does not cache drops it, and a write-combining page is cached in L2 only (R265, Table 9.5).
Poison is left to the loads. -/
def prefetchPiece (c : Ctx) (hint grid : Nat) (s : State) (p : Piece) : State :=
  if p.attr.mtype > 1 || (p.attr.mtype = 1 && hint < 3) then s
  else if hint < 2 then (loadPiece s c p hint grid).1
  else
    let die := l2DieOf (p.va / 2 ^ 55 % 4) p.pa
    l2Touch (l2Read s die c.part p.pa p.len).1 die c p.pa (if hint = 2 then some grid else none)

/-- `pref` for one thread: whatever would fault drops the request (R265). -/
def prefetch (o : MemOp) (s : State) (g : Group) (t : Thread) : State × Option FaultInfo :=
  match memTarget s g t o (accessBytes o) .r 0 with
  | (s, .error _) => (s, none)
  | (s, .ok tg) =>
    match tg.place with
    | .scratch _ => (s, none)
    | .mem _ ps => (ps.foldl (prefetchPiece (ctxOf g t) o.hint.toNat g.grid) s, none)

/-- `pref` (R265). -/
def execPref (o : MemOp) (s : State) : Res := .next (runThreads s 2 o.g (prefetch o))

/-- Operand and compare value of an atomic, read at issue (R266). -/
def atomOperands (o : MemOp) (t : Thread) : Except FaultInfo (DWord × DWord) := do
  let n := if o.size = 3 then 2 else 1
  let k := if o.am = 9 then 2 * n else n
  let ws ← sourceRegs t o.d.toNat k
  let v := wordsNat ws
  pure (if o.am = 9 then (BitVec.ofNat 64 (v / 2 ^ (32 * n)), BitVec.ofNat 64 (v % 2 ^ (32 * n))) else (BitVec.ofNat 64 v, 0))

/-- Detail of a memory-type fault: am, the size code, and whether it is a `red` (R273). -/
def emulDetail (o : MemOp) (ret : Bool) : Nat := o.am.toNat + 2 ^ 4 * o.size.toNat + 2 ^ 7 * (!ret).toNat

/-- Before a handler emulates an atomic, the thread's outstanding accesses to the line are performed and the core's combining buffer is
written back, so that the handler's accesses there follow them (R237, R273). -/
def settleLine (s : State) (g : Group) (t : Thread) (place : Place) : State :=
  match place with
  | .scratch _ => s
  | .mem _ ps =>
    let lines := ps.map fun p => { p with pa := p.pa / 512 * 512, len := 512 }
    combineFlush (performAll s fun o => o.gk == g.gk && o.threads == [t.idx] && touchesPieces lines o) g.core

/-- `atom` and `red` for one thread (R266, R268, R273), its faults in the order of Table 11.2. -/
def issueAtomic (ret : Bool) (o : MemOp) (s : State) (g : Group) (t : Thread) : State × Option FaultInfo :=
  let size := accessBytes o
  match memTarget s g t o size .rw (if ret then 2 else 1) with
  | (s, .error f) => (s, some f)
  | (s, .ok tg) =>
    let va := placeVa tg.place
    let cached := match tg.place with | .mem _ ps => ps.all (fun p => p.attr.mtype == 0) | .scratch _ => true
    if !cached then (settleLine s g t tg.place, some { cls := fcMemType, va := BitVec.ofNat 64 va, detail := emulDetail o ret })
    else
      match (if tg.treat = .shared then stageFull s g va 1 else none), atomOperands o t with
      | some f, _ => (s, some f)
      | none, .error f => (s, some f)
      | none, .ok (y, cmp) =>
        match (if tg.treat = .shared then stage s g va [redEntry va o.am.toNat size y.toNat] else (s, none)) with
        | (s, some f) => (s, some f)
        | (s, none) => (issueOp s g t.idx o.wait t.inSup (.atomic tg.place o.am.toNat size y cmp ret o.d.toNat tg.treat), none)

/-- `atom` (R266). -/
def execAtom (o : MemOp) (s : State) : Res :=
  .next (if counterFull s o.g o.wait then s else runThreads s 2 o.g (issueAtomic true o))

/-- `red` (R268). -/
def execRed (o : MemOp) (s : State) : Res :=
  .next (if counterFull s o.g o.wait then s else runThreads s 2 o.g (issueAtomic false o))

/-- Scratchpad offset of a sync word for a thread (R269). -/
def syncTarget (s : State) (g : Group) (t : Thread) (o : MemOp) (acc : Acc) : Except FaultInfo Nat :=
  match (memTarget s g t o 16 acc 1).2 with
  | .error f => .error f
  | .ok tg => .ok (placeVa tg.place)

/-- `swinit` for one thread (R270). -/
def issueSyncInit (o : MemOp) (s : State) (g : Group) (t : Thread) : State × Option FaultInfo :=
  match syncTarget s g t o .w, sourceRegs t o.d.toNat 1 with
  | .ok off, .ok ws => (issueOp s g t.idx o.wait t.inSup (.swInit off (ws.headD 0)), none)
  | .error f, _ => (s, some f)
  | _, .error f => (s, some f)

/-- `swinit` (R270). -/
def execSwinit (o : MemOp) (s : State) : Res :=
  .next (if counterFull s o.g o.wait then s else runThreads s 2 o.g (issueSyncInit o))

/-- Operations in a core's engine queue (Table 12.1). -/
def engineCount (s : State) (core : Nat) : Nat :=
  (s.ops.filter fun o => o.core == core && !(isAccess o) &&
    (match o.kind with | .binning .. => false | .tcomb .. => false | .tdone .. => false | _ => true)).length

/-- Run an engine instruction of two words: it issues for as many members as the engine queue has room for, and stalls at the others
until an operation leaves the queue (R281, Table 12.1). -/
def runQueued (s : State) (gd : Guard) (f : State → Group → Thread → State × Option FaultInfo) : State :=
  runPartly s gd (fun s g _ => decide (engineCount s g.core ≥ 64)) f

/-- `swadd` for one thread: an engine operation without data, whose issue is an engine-issue edge (R271). -/
def issueSyncAdd (o : MemOp) (s : State) (g : Group) (t : Thread) : State × Option FaultInfo :=
  match syncTarget s g t o .rw, sourceRegs t o.d.toNat 1 with
  | .ok off, .ok ws => (issueOp (releaseThread s g.gk t.idx) g t.idx o.wait t.inSup (.swAdd off (ws.headD 0)), none)
  | .error f, _ => (s, some f)
  | _, .error f => (s, some f)

/-- `swadd` (R271). -/
def execSwadd (o : MemOp) (s : State) : Res :=
  .next (if counterFull s o.g o.wait then s else runQueued s o.g (issueSyncAdd o))

/-- `swwait` for one thread: it completes at the first moment at which gen differs, at issue when it differs already (R272). -/
def issueSyncWait (o : MemOp) (s : State) (g : Group) (t : Thread) : State × Option FaultInfo :=
  match syncTarget s g t o .r, sourceRegs t o.d.toNat 1 with
  | .ok off, .ok ws =>
    let s := performThread s g.gk t.idx
    (wakeSync g.core (issueOp s g t.idx o.wait t.inSup (.swWait off (ws.headD 0) o.d.toNat)), none)
  | .error f, _ => (s, some f)
  | _, .error f => (s, some f)

/-- `swwait` (R272). -/
def execSwwait (o : MemOp) (s : State) : Res :=
  .next (if counterFull s o.g o.wait then s else runQueued s o.g (issueSyncWait o))

/-! ## Completions -/

/-- An outstanding operation by its name. -/
def opOf (s : State) (id : Nat) : Option Op := s.ops.find? fun o => o.id == id

/-- Perform an outstanding operation of one kind, when it may be performed. -/
def complete (s : State) (id : Nat) (p : OpKind → Bool) : State :=
  match opOf s id with
  | some o => if p o.kind && mayPerform s o then performOp s o else s
  | none => s

/-- LOAD_ARRIVAL (R263): the bytes arrive and are written to the destination span. -/
def execLoadArrival (op : Nat) (s : State) : Res :=
  .next (complete s op fun k => match k with | .load .. => true | .reply .. => true | _ => false)

/-- STORE_COMPLETION (R264): the bytes are performed. -/
def execStoreCompletion (op : Nat) (s : State) : Res :=
  .next (complete s op fun k => match k with | .store .. => true | .swInit .. => true | _ => false)

/-- ATOMIC_COMPLETION (R266). -/
def execAtomicCompletion (op : Nat) (s : State) : Res := .next (complete s op fun k => match k with | .atomic .. => true | _ => false)

end Sys2Proof.Machine
end

