-- ==== Sys2Proof/Machine/Control.lean ====
section
/-! DEFINITION. Affine and cross-lane instructions, index registers, control transfers, barriers and the clock
(spec/06_lane_instructions.md R148 to R164, spec/04_registers.md R96). -/
namespace Sys2Proof.Machine

/-! ## Affine instructions (R148, R149) -/

/-- Write affine register d of a group. -/
def setAffine (g : Group) (d : Nat) (a : Affine) : Group := { g with affine := g.affine.set d a }

/-- An affine instruction of w words: each group of the issue group applies it once (R148). -/
def runAffine (s : State) (w : Nat) (d : BitVec 4) (f : Group → Affine) : State :=
  let s := (headGroups s).foldl (fun s gk => modGroup s gk fun g => setAffine g d.toNat (f g)) s
  finishInstr (shiftZero s) w []

/-- `aadd` (Table 6.9). -/
def execAadd (o : AffBin) (s : State) : Res :=
  .next (runAffine s 1 o.d fun g =>
    let a := affOf g o.a.toNat; let b := affOf g o.b.toNat
    { base := a.base + b.base, stride := a.stride + b.stride })

/-- `asub` (Table 6.9). -/
def execAsub (o : AffBin) (s : State) : Res :=
  .next (runAffine s 1 o.d fun g =>
    let a := affOf g o.a.toNat; let b := affOf g o.b.toNat
    { base := a.base - b.base, stride := a.stride - b.stride })

/-- `amov` (Table 6.9). -/
def execAmov (o : AffUn) (s : State) : Res := .next (runAffine s 1 o.d fun g => affOf g o.a.toNat)

/-- `ashl` (Table 6.9). -/
def execAshl (o : AffShl) (s : State) : Res :=
  .next (runAffine s 1 o.d fun g =>
    let a := affOf g o.a.toNat
    { base := a.base <<< o.n.toNat, stride := a.stride <<< o.n.toNat })

/-- `amul`: the stride of aB is not read (Table 6.9). -/
def execAmul (o : AffBin) (s : State) : Res :=
  .next (runAffine s 1 o.d fun g =>
    let a := affOf g o.a.toNat; let b := affOf g o.b.toNat
    { base := a.base * b.base, stride := a.stride * b.base.setWidth 32 })

/-- `amovi` (Table 6.9). -/
def execAmovi (o : AffMovi) (s : State) : Res :=
  .next (runAffine s 2 o.d fun _ => { base := o.imm.setWidth 64, stride := o.stride.signExtend 32 })

/-- `aaddi` (Table 6.9). -/
def execAaddi (o : AffImm) (s : State) : Res :=
  .next (runAffine s 2 o.d fun g =>
    let a := affOf g o.a.toNat
    { base := a.base + o.imm.signExtend 64, stride := a.stride })

/-- `amuli` (Table 6.9). -/
def execAmuli (o : AffImm) (s : State) : Res :=
  .next (runAffine s 2 o.d fun g =>
    let a := affOf g o.a.toNat
    { base := a.base * o.imm.signExtend 64, stride := a.stride * o.imm })

/-- The affine value that reproduces the sources of the threads present, if there is one (R149). -/
def affineFit : List (Nat × Int) → Option Affine
  | [] => none
  | [(_, v)] => some { base := BitVec.ofInt 64 v, stride := 0 }
  | (t0, v0) :: (t1, v1) :: r =>
    let d : Int := (t1 : Int) - t0
    let st := (v1 - v0) / d
    let b := v0 - st * t0
    if st * d = v1 - v0 && decide (-(2 ^ 31) ≤ st) && decide (st < 2 ^ 31) && r.all (fun e => e.2 == b + st * e.1) then
      some { base := BitVec.ofInt 64 b, stride := BitVec.ofInt 32 st }
    else none

/-- Sources of `aset` for the threads of a group in the head issue group whose operand can be read: a thread whose own operand
faults is left out of the fit, which writes aD for the others (R65, R149; DESIGN CHOICE, log entry 57). -/
def asetSources (s : State) (gk : Nat) (a : Src) : List (Nat × Int) :=
  (headThreads s gk).filterMap fun tid =>
    match memberOf s (gk, tid) with
    | some (g, t) =>
      match readSrc32 .int g t a with
      | .ok v => some (tid, v.toInt)
      | .error _ => none
    | none => none

/-- Faults of `aset`: a thread's own operand fault, or a non-uniform operand for every other thread of its group (R149). -/
def asetFaults (s : State) (a : Src) : List Faulting :=
  (headMembers s).filterMap fun m =>
    match memberOf s m with
    | some (g, t) =>
      match readSrc32 .int g t a with
      | .error f => some { gk := m.1, tid := m.2, f := f }
      | .ok _ => if (affineFit (asetSources s m.1 a)).isNone then some { gk := m.1, tid := m.2, f := { cls := fcNonUniform } } else none
    | none => none

/-- `aset` (R149). -/
def execAset (o : AffSet) (s : State) : Res :=
  let faults := asetFaults s o.a
  let s' := (headGroups s).foldl
    (fun x gk =>
      match affineFit (asetSources s gk o.a) with
      | some v => modGroup x gk fun g => setAffine g o.d.toNat v
      | none => x) s
  .next (finishInstr (shiftZero s') 1 faults)

/-! ## Index registers and windows (R150) -/

/-- `xwin`: the high bound stays below the declared register count (R94). -/
def execXwin (o : WinOp) (s : State) : Res :=
  .next (runLanes s 1 fun g t => do
    let a ← readSrc32 .int g t o.a
    let b ← readSrc32 .int g t o.b
    plain (shiftLatch { t with winLo := BitVec.ofNat 7 (min a.toNat 127), winHi := BitVec.ofNat 7 (min b.toNat (g.regCount - 1)) } 0))

/-- `xset`. -/
def execXset (o : IdxOp) (s : State) : Res :=
  .next (runLanes s 1 fun g t => do
    let a ← readSrc32 .int g t o.a
    plain (shiftLatch { t with x := t.x.set o.k.toNat (a.setWidth 7) } 0))

/-- `xput`: a register outside the window raises a register-index fault (R75). -/
def execXput (o : IdxOp) (s : State) : Res :=
  .next (runLanes s 1 fun g t => do
    let a ← readSrc32 .int g t o.a
    let r ← indexed t o.k 1
    plain (shiftLatch (setReg t r a) 0))

/-! ## Cross-lane instructions (R151 to R155) -/

/-- The source of every live thread of a group, as each holds it, or the lowest thread whose operand faults (R151). -/
def crossRead (k : Group → Thread → Except FaultInfo Word) (g : Group) : List Thread → Except (Nat × FaultInfo) (List (Nat × Word))
  | [] => .ok []
  | t :: r =>
    match k g t with
    | .error f => .error (t.idx, f)
    | .ok v => (crossRead k g r).map fun rest => (t.idx, v) :: rest

/-- Value of the thread with an index; one that is not live reads 0 (R151). -/
def laneValue (vs : List (Nat × Word)) (u : Nat) : Word := ((vs.find? fun e => e.1 == u).map fun e => e.2).getD 0

/-- A cross-lane instruction on the group of an rcv clause: `f` gives each thread its next state from every thread's sources.
A faulting operand stops it for the whole group (R151). -/
def runCross (s : State) (a b : Group → Thread → Except FaultInfo Word)
    (f : Group → List (Nat × Word) → Thread → Word → Thread) : State :=
  runConv s (fun s => finishInstr s 1 []) fun s g =>
    let ts := liveThreads g
    let one (t : Nat) (e : FaultInfo) : GroupOut := .left (convFault s g.gk [{ gk := g.gk, tid := t, f := e }])
    match crossRead a g ts, crossRead b g ts with
    | .error (t, e), .error (t', e') => if t ≤ t' then one t e else one t' e'
    | .error (t, e), _ => one t e
    | _, .error (t, e) => one t e
    | .ok va, .ok vb =>
      .done (modGroup s g.gk fun g' =>
        { g' with threads := g'.threads.map fun t => if isLive t then f g va t (laneValue vb t.idx) else t })

/-- No second operand. -/
def noOperand (_ : Group) (_ : Thread) : Except FaultInfo Word := .ok 0

/-- `shfl` (R152). -/
def execShfl (o : RBin) (s : State) : Res :=
  .next (runCross s (fun g t => readSrc32 .int g t o.a) (fun g t => readSrc32 .int g t o.b) fun _ vs t u =>
    put32 t o.nw o.d (laneValue vs u.toNat))

/-- Entry of a pattern slot: identity until `xbld` writes it (R99). -/
def patternOf (g : Group) (slot t : Nat) : Nat :=
  match g.patterns.getD slot [] with
  | [] => t % 32
  | p => (p.getD t 0).toNat

/-- `xbar` (R153). -/
def execXbar (o : XBarOp) (s : State) : Res :=
  .next (runCross s (fun g t => readSrc32 .int g t o.a) noOperand fun g vs t _ =>
    put32 t o.nw o.d (laneValue vs (32 * (t.idx / 32) + patternOf g o.slot.toNat t.idx)))

/-- `vany` (R155). -/
def execVany (o : PVote) (s : State) : Res :=
  .next (runCross s (fun g t => readSrc32 .int g t o.a) noOperand fun _ vs t _ =>
    shiftLatch (putPred t o.pd (vs.any fun e => e.2 != 0)) 0)

/-- `vall` (R155). -/
def execVall (o : PVote) (s : State) : Res :=
  .next (runCross s (fun g t => readSrc32 .int g t o.a) noOperand fun _ vs t _ =>
    shiftLatch (putPred t o.pd (vs.all fun e => e.2 != 0)) 0)

/-- The mask of `ballot` for a quarter of the group (R155). -/
def ballotMask (vs : List (Nat × Word)) (quarter : Nat) : Word :=
  vs.foldl (fun (m : Word) (e : Nat × Word) => if decide (e.1 / 32 = quarter) && !(e.2 == 0) then m ||| (1#32 <<< (e.1 % 32)) else m) 0

/-- `ballot` (R155). -/
def execBallot (o : RUn) (s : State) : Res :=
  .next (runCross s (fun g t => readSrc32 .int g t o.a) noOperand fun _ vs t _ => put32 t o.nw o.d (ballotMask vs (t.idx / 32)))

/-! ## Control transfers (R156 to R161) -/

/-- A thread of the head issue group continues at a target instead of the next clause (R156). -/
def jump (s : State) (gk tid : Nat) (pc : DWord) : State :=
  let s := modThread s gk tid fun t => { t with pc := pc, hdr := pc }
  match s.issues with
  | [] => s
  | i :: r => { s with issues := { i with jumped := i.jumped ++ [(gk, tid)] } :: r }

/-- Header of the head issue group's clause, and the address of the next clause in memory (R156). -/
def headHdr (s : State) : DWord := (headSite s).hdr
def headNext (s : State) : DWord := (headSite s).hdr + BitVec.ofNat 64 (4 * ((headSite s).n + 1))

/-- Target of a branch (Table 6.10). -/
def branchTarget (s : State) (off : BitVec 20) : DWord := headHdr s + 4 * off.signExtend 64

/-- `br` (Table 6.10). -/
def execBr (o : Branch) (s : State) : Res :=
  let pc := branchTarget s o.off
  .next (runThreads s 1 o.g fun s g t => (jump s g.gk t.idx pc, none))

/-- Frame word k of a thread as a target of a normal access (R157). -/
def frameTarget (s : State) (g : Group) (t : Thread) (k : Nat) (acc : Acc) : State × Except FaultInfo Target :=
  resolve s g t 3 4 (4 * k) acc 0 0

/-- Frame word k read by its thread. -/
def frameWord (s : State) (g : Group) (t : Thread) (k : Nat) : State × Except FaultInfo Nat :=
  match frameTarget s g t k .r with
  | (s, .error f) => (s, .error f)
  | (s, .ok tg) =>
    match tg.place with
    | .scratch _ => (s, .ok 0)
    | .mem _ ps =>
      let (s, bs, bad) := loadPieces s (ctxOf g t) 0 g.grid ps
      if bad then (s, .error (poisonAt (placeVa tg.place))) else (s, .ok (leNat bs))

/-- Frame words written by their thread through resolved targets. -/
def frameStores (s : State) (g : Group) (t : Thread) : List (Target × Nat) → State
  | [] => s
  | (tg, v) :: r =>
    match tg.place with
    | .scratch _ => frameStores s g t r
    | .mem _ ps => frameStores (storePieces s (ctxOf g t) g t.idx 0 ps (leBytes v 4)) g t r

/-- Targets of several frame words for writing; the first fault stands. -/
def frameTargets (s : State) (g : Group) (t : Thread) : List Nat → State × Except FaultInfo (List Target)
  | [] => (s, .ok [])
  | k :: r =>
    match frameTarget s g t k .w with
    | (s, .error f) => (s, .error f)
    | (s, .ok tg) =>
      match frameTargets s g t r with
      | (s, .error f) => (s, .error f)
      | (s, .ok tgs) => (s, .ok (tg :: tgs))

/-- `call` for one thread (R157). -/
def callThread (pc next : DWord) (s : State) (g : Group) (t : Thread) : State × Option FaultInfo :=
  let s := performThread s g.gk t.idx
  match frameWord s g t 0 with
  | (s, .error f) => (s, some f)
  | (s, .ok d) =>
    match frameTargets s g t [0, 2 + 2 * d, 3 + 2 * d] with
    | (s, .error f) => (s, some f)
    | (s, .ok tgs) =>
      let vals := [(d + 1) % 2 ^ 32, field next.toNat 0 32, field next.toNat 32 32]
      (jump (frameStores s g t (tgs.zip vals)) g.gk t.idx pc, none)

/-- `call` (R157). -/
def execCall (o : Branch) (s : State) : Res :=
  let pc := branchTarget s o.off
  let next := headNext s
  .next (runThreads s 1 o.g (callThread pc next))

/-- A code address that a thread may continue at: 4-aligned and below 2^57 (R157, R158). -/
def codeFault (pc : Nat) : Option FaultInfo :=
  if pc % 4 != 0 then some { cls := fcMisaligned, va := BitVec.ofNat 64 pc }
  else if pc ≥ 2 ^ 57 then some { cls := fcAddress, va := BitVec.ofNat 64 pc }
  else none

/-- `ret` for one thread (R157). -/
def retThread (s : State) (g : Group) (t : Thread) : State × Option FaultInfo :=
  let s := performThread s g.gk t.idx
  match frameWord s g t 0 with
  | (s, .error f) => (s, some f)
  | (s, .ok d) =>
    if d = 0 then (s, some { cls := fcSegLimit, va := BitVec.ofNat 64 (frameByte (segOf g 3).base.toNat 0 t.idx) })
    else
      match frameWord s g t (2 * d) with
      | (s, .error f) => (s, some f)
      | (s, .ok lo) =>
        match frameWord s g t (2 * d + 1) with
        | (s, .error f) => (s, some f)
        | (s, .ok hi) =>
          let pc := lo + 2 ^ 32 * hi
          match codeFault pc with
          | some f => (s, some f)
          | none =>
            match frameTargets s g t [0] with
            | (s, .error f) => (s, some f)
            | (s, .ok tgs) => (jump (frameStores s g t (tgs.zip [d - 1])) g.gk t.idx (BitVec.ofNat 64 pc), none)

/-- `ret` (R157). -/
def execRet (gd : Guard) (s : State) : Res := .next (runThreads s 1 gd retThread)

/-- `jmpr` (R158). -/
def execJmpr (o : JumpReg) (s : State) : Res :=
  .next (runThreads s 1 o.g fun s g t =>
    match readSrc64 .int g t o.a with
    | .error f => (s, some f)
    | .ok pc =>
      match codeFault pc.toNat with
      | some f => (s, some f)
      | none => (jump s g.gk t.idx pc, none))

/-- A thread of the head issue group with a true guard waits at `exit` for its counters (R159). -/
def exitWaits (gd : Guard) (s : State) (m : Nat × Nat) : Bool :=
  match memberOf s m with
  | some (_, t) => guardTrue t gd && !(waitsDone t)
  | none => false

/-- `exit` for one thread: a deferred fault that waited for its counters is taken here (R159, R262). -/
def exitOne (s : State) (g : Group) (t : Thread) : State × Option FaultInfo :=
  match deferredOf t fun _ => true with
  | some f => (modThread s g.gk t.idx fun t => { t with deferred := dropFirst (fun _ => true) t.deferred }, some f)
  | none => (exitThread s g.gk t.idx, none)

/-- Members that are live no longer leave the issue groups. -/
def sweepExited (s : State) : State :=
  dropMembers s fun m =>
    match memberOf s m with
    | some (_, t) => t.status == .exited
    | none => true

/-- `exit` (R159): the issue group waits until the counters of every thread it issues for are zero. -/
def execExit (gd : Guard) (s : State) : Res :=
  .next (if (headMembers s).any (exitWaits gd s) then s else sweepExited (runThreads s 1 gd exitOne))

/-- `brk` and `trap`: the fault's detail holds code [10:0] and its address is the next clause (R160). -/
def trapFault (cls : Nat) (o : TrapOp) (s : State) : State :=
  let next := headNext s
  runThreads s 1 o.g fun s _ _ => (s, some { cls := cls, va := next, detail := o.code.toNat % 2 ^ 11 })

/-- `brk` (R160). -/
def execBrk (o : TrapOp) (s : State) : Res := .next (trapFault fcBreakpoint o s)

/-- `trap` (R160). -/
def execTrap (o : TrapOp) (s : State) : Res := .next (trapFault fcTrap o s)

/-- `yield`: every thread goes on at the next clause, ready from now on (R161). -/
def execYield (gd : Guard) (s : State) : Res := .next (runThreads s 1 gd fun s _ _ => (s, none))

/-! ## Barriers and the clock (R162 to R164) -/

/-- `bar` (R162, R163): each thread releases and arrives, and at each arrival the barrier is compared with the live threads. -/
def execBar (b : BitVec 2) (s : State) : Res :=
  let s := (headMembers s).foldl (fun s m => openBarrier m.1 (arriveAt (releaseThread s m.1 m.2) m.1 m.2 b.toNat) b.toNat) s
  .next (finishInstr (shiftZero s) 1 [])

/-- `clkr` (R164). -/
def execClkr (o : ClkOp) (s : State) : Res :=
  .next (runLanes s 1 fun _ t => plain (put64 t o.nw o.d (BitVec.ofNat 64 s.devtime)))

end Sys2Proof.Machine
end

