-- ==== Sys2Proof/Machine/Registers.lean ====
section
/-! DEFINITION. What a core has free (R101, R102, R108, R170, R215), the control registers of group, core and device scope
(spec/04_registers.md Tables 4.2 to 4.6), and the writes of the device-scope ones: reservation, power, partition configuration,
fault routing, performance select, strip timing (R298, R436 to R438, R417, R410, R414, R405, R399). -/
namespace Sys2Proof.Machine

/-! ## Resources of a core -/

/-- Groups that have a place on a core. -/
def groupsOn (s : State) (core : Nat) : List Group := s.groups.filter fun g => g.core == core && g.run != .retired

/-- Slot ranges of a header list. -/
def claimsOf (hs : List MHeader) : List (Nat × Nat) :=
  (hs.filter fun h => h.scount != 0).map fun h => (h.sbase.toNat, h.scount.toNat)

/-- Slot ranges in use on a core: the claims of its groups as they stand and as they will stand, and of queued `mclaim`s
(R171, R194, R195). -/
def slotRanges (s : State) (core : Nat) : List (Nat × Nat) :=
  let c := coreOf s core
  let queued := (c.mqueue ++ c.mrun.toList).filterMap fun m =>
    match m.claim, m.instr with
    | some b, .mclaim o => some (b, o.imm.toNat)
    | _, _ => none
  (groupsOn s core).flatMap (fun g => claimsOf g.hdrs ++ claimsOf g.ihdrs) ++ queued

/-- A slot is claimed. -/
def slotUsed (rs : List (Nat × Nat)) (n : Nat) : Bool := rs.any fun r => r.1 ≤ n && n < r.1 + r.2

/-- Free tile-store slots of a core (`slotfree`). -/
def slotsFree (s : State) (core : Nat) : Nat :=
  let rs := slotRanges s core
  ((List.range Config.tileSlots).filter fun n => !(slotUsed rs n)).length

/-- Accumulator tiles in use on a core. -/
def tilesUsed (s : State) (core : Nat) : List Nat := (groupsOn s core).flatMap fun g => g.ztiles

/-- Free accumulator tiles of a core (`ztfree`). -/
def tilesFree (s : State) (core : Nat) : Nat :=
  let used := tilesUsed s core
  ((List.range Config.accTiles).filter fun n => !(used.contains n)).length

/-- Tile slots per core of a cluster, while its partition is enabled (R347, R418). -/
def clusterTs (s : State) (g : Nat) : Nat :=
  match ownerOf s g with
  | some p => (descOf s p).ts.getD g 0
  | none => 0

/-- KiB of the tile-buffer area of a core (R347). -/
def tileAreaKib (s : State) (core : Nat) : Nat := (6400 * clusterTs s (clusterOfCore core) + 1023) / 1024

/-- Scratchpad ranges of a group in KiB units: its allocation, header array and mesh output buffer (R172, R215, R342). -/
def kibRanges (g : Group) : List (Nat × Nat) :=
  let alloc := if g.run = .parked && !(holdsPinned g) then [] else [(g.spBase / 1024, g.record.spkib)]
  alloc ++ (g.hdrBase.map fun b => (b / 1024, 1)).toList ++ (g.meshBase.map fun b => (b / 1024, 13)).toList

/-- Scratchpad KiB in use on a core. -/
def kibUsed (s : State) (core : Nat) : List (Nat × Nat) := (groupsOn s core).flatMap kibRanges

/-- Free scratchpad KiB outside the tile-buffer area (`spfree`). -/
def kibFree (s : State) (core : Nat) : Nat := 512 - tileAreaKib s core - ((kibUsed s core).map fun r => r.2).sum

/-- Adoption nesting of a core (`adoptd`, R45). -/
def adoptd (s : State) (core : Nat) : Nat := ((coreOf s core).help.filter fun l => l.adopted.isSome).length

/-- A core is reserved for class 0 (R51, Table 12.8). -/
def isReserved (s : State) (core : Nat) : Bool :=
  decide (core % 8 ≥ 8 - field (clusterOf s (clusterOfCore core)).resv.toNat 0 4)

/-! ## Group scope (Table 4.2) -/

/-- Half h of a 64-bit register: 0 low, 1 high. -/
def half (v : Nat) (h : Nat) : Word := BitVec.ofNat 32 (v / 2 ^ (32 * h))

/-- A half of a 64-bit register replaced. -/
def setHalf (v : DWord) (h : Nat) (w : Word) : DWord := BitVec.ofNat 64 (setField v.toNat (32 * h) 32 w.toNat)

/-- Registers that only a supervisor may touch (Table 4.2). -/
def supOnly (n : Nat) : Bool := n == 6 || n == 7 || n == 0xD || n == 0xE || n == 0xF

/-- A group-scope register (Table 4.2). -/
def groupReg (s : State) (g : Group) (n : Nat) : Word :=
  let c := g.ctl
  if n ≥ 0x20 && n < 0x40 then
    let sg := segOf g ((n - 0x20) / 4)
    half (if n / 2 % 2 = 0 then sg.base.toNat else sg.limit.toNat) (n % 2)
  else
    match n with
    | 0x00 => c.fpm
    | 0x01 => c.srkey
    | 0x02 => c.srn
    | 0x03 => c.tol
    | 0x04 => c.mpol
    | 0x05 => c.zbank
    | 0x06 => half c.svpcr.toNat 0
    | 0x07 => half c.svpcr.toNat 1
    | 0x08 => half c.hpc.toNat 0
    | 0x09 => half c.hpc.toNat 1
    | 0x0A => c.hinfo
    | 0x0B => half c.hva.toNat 0
    | 0x0C => half c.hva.toNat 1
    | 0x0D => c.svinfo
    | 0x0E => half c.svva.toNat 0
    | 0x0F => half c.svva.toNat 1
    | 0x10 => half g.gid 0
    | 0x11 => half (((gridOf s g.grid).map fun x => x.total).getD 0) 0
    | 0x12 => half g.record.taskid 0
    | 0x13 => half g.frame 0
    | 0x14 => half g.frame 1
    | 0x15 => half g.record.depth 0
    | 0x16 => half (lcoreOf g.record g.gid) 0
    | 0x17 => half g.variant 0
    | 0x18 => half (g.record.threads + 2 ^ 8 * g.record.regs8) 0
    | _ => 0

/-- The group's control registers after a write of one of them (R6, R105, R166): `ones` are the bits that clear flags. -/
def groupWrite (c : GroupCtl) (n : Nat) (v ones : Word) : GroupCtl :=
  match n with
  | 0x00 => { c with fpm := writeFpm c.fpm v ones }
  | 0x01 => { c with srkey := v }
  | 0x02 => { c with srn := v }
  | 0x03 => { c with tol := writeTol v }
  | 0x04 => { c with mpol := writeMpol c.mpol v }
  | 0x05 => { c with zbank := v &&& 1 }
  | 0x06 => { c with svpcr := setHalf c.svpcr 0 v }
  | 0x07 => { c with svpcr := setHalf c.svpcr 1 v }
  | 0x08 => { c with hpc := setHalf c.hpc 0 v }
  | 0x09 => { c with hpc := setHalf c.hpc 1 v }
  | 0x0A => { c with hinfo := v }
  | 0x0B => { c with hva := setHalf c.hva 0 v }
  | 0x0C => { c with hva := setHalf c.hva 1 v }
  | 0x0D => { c with svinfo := v }
  | 0x0E => { c with svva := setHalf c.svva 0 v }
  | 0x0F => { c with svva := setHalf c.svva 1 v }
  | _ => c

/-! ## Core scope (Table 4.5) -/

/-- A core-scope register. -/
def coreReg (s : State) (core n : Nat) : Word :=
  match n with
  | 0x100 => half (core + 2 ^ 8 * clusterOfCore core + 2 ^ 13 * dieOfCore core) 0
  | 0x101 => half (((ownerOf s (clusterOfCore core)).getD 0) + 2 ^ 3 * (secureCluster s (clusterOfCore core)).toNat) 0
  | 0x102 => half (slotsFree s core) 0
  | 0x103 => half (tilesFree s core) 0
  | 0x104 => half (kibFree s core) 0
  | 0x105 => half (adoptd s core) 0
  | 0x106 => half (isReserved s core).toNat 0
  | _ => 0

/-! ## Device scope: reads -/

/-- Who reads or writes a device-scope register (Table 4.6). -/
inductive Writer where
  | host
  | firmware
  | sup (part : Nat)
  deriving DecidableEq, Repr

/-- `pcsel` k: a supervisor sees its own partition's choice where it has made one (R405). -/
def pcselReg (s : State) (who : Writer) (k : Nat) : Word :=
  match who with
  | .sup p => (tfind (partOf s p).pcsel k).getD (s.pcsel.getD k 0)
  | _ => s.pcsel.getD k 0

/-- Register i of a partition's configuration block (Table 18.4). -/
def confReg (p : Partition) (i : Nat) : Word :=
  match i with
  | 0 => p.pclust
  | 1 => p.pctl
  | 2 => p.pways
  | 3 => p.pbw
  | 4 => half p.proot.toNat 0
  | 5 => half p.proot.toNat 1
  | 6 => p.pasid
  | 7 => half p.psroot.toNat 0
  | 8 => half p.psroot.toNat 1
  | 9 => half p.pdesc.toNat 0
  | 10 => half p.pdesc.toNat 1
  | 11 => p.pkeyst
  | 12 => p.pswld
  | _ => 0

/-- Register i of a partition's routing block (Table 18.2): write-only and reserved registers read zero (R6). -/
def routeReg (p : Partition) (i : Nat) : Word :=
  match i with
  | 0 => p.route0
  | 1 => p.route1
  | 2 => half p.fqbase.toNat 0
  | 3 => half p.fqbase.toNat 1
  | 4 => p.qsize
  | 5 => p.fqtail
  | 6 => p.fqhead
  | 7 => half p.evbase.toNat 0
  | 8 => half p.evbase.toNat 1
  | 9 => p.evtail
  | 10 => p.evhead
  | 13 => half p.svpc.toNat 0
  | 14 => half p.svpc.toNat 1
  | _ => 0

/-- Register i of an output's strip timing (Table 17.2). -/
def timingReg (o : Output) (i : Nat) : Word :=
  match i with
  | 0 => half o.fbase.toNat 0
  | 1 => half o.fbase.toNat 1
  | 2 => o.fper
  | 3 => o.lper
  | 4 => o.kstrip
  | 5 => o.lead
  | 6 => o.fcur
  | _ => 0

/-- A power register (Table 19.6). -/
def powerReg (s : State) (n : Nat) : Word :=
  match n with
  | 0x500 => s.pstate
  | 0x501 => s.cgate
  | 0x502 => s.cgated
  | 0x503 => s.pcap
  | 0x504 => s.pmeas
  | 0x505 => s.therm
  | _ => 0

/-- A device-scope register (Table 4.6); reserved numbers read zero. -/
def deviceReg (s : State) (who : Writer) (n : Nat) : Word :=
  if 0x200 ≤ n && n ≤ 0x217 then (clusterOf s (n - 0x200)).resv
  else if n = 0x220 then s.l2place
  else if 0x240 ≤ n && n ≤ 0x247 then s.gaze.getD (n - 0x240) 0
  else if 0x260 ≤ n && n ≤ 0x26F then timingReg (outOf s ((n - 0x260) / 8)) (n % 8)
  else if n = 0x280 then half s.devtime 0
  else if n = 0x281 then half s.devtime 1
  else if 0x300 ≤ n && n ≤ 0x37F then confReg (partOf s ((n - 0x300) / 16)) (n % 16)
  else if 0x380 ≤ n && n ≤ 0x3FF then routeReg (partOf s ((n - 0x380) / 16)) (n % 16)
  else if 0x400 ≤ n && n ≤ 0x40F then pcselReg s who (n - 0x400)
  else if 0x500 ≤ n && n ≤ 0x50F then powerReg s n
  else 0

/-- A device-scope register belongs to a unit outside a partition (R103): another partition's clusters, configuration or
routing, an output that is not assigned to it (R22). -/
def outside (s : State) (p n : Nat) : Bool :=
  if 0x200 ≤ n && n ≤ 0x217 then !((partOf s p).pclust.getLsbD (n - 0x200))
  else if 0x260 ≤ n && n ≤ 0x26F then field (outOf s ((n - 0x260) / 8)).downer.toNat 0 4 != p + 8
  else if 0x300 ≤ n && n ≤ 0x37F then (n - 0x300) / 16 != p
  else if 0x380 ≤ n && n ≤ 0x3FF then (n - 0x380) / 16 != p
  else false

/-! ## Counters (R404) -/

/-- A counter of Table 17.4 as a core and a partition show it. -/
def counterValue (s : State) (core part n : Nat) : Nat :=
  let c := coreOf s core
  let e (i : Nat) : Nat := (dieOf s (dieOfCore core)).errors.getD i 0
  match n with
  | 0 => s.devtime
  | 1 => s.ck
  | 2 => (outOf s 0).late
  | 3 => (outOf s 1).late
  | 4 => (outOf s 0).stale
  | 5 => (outOf s 1).stale
  | 6 => (outOf s 0).scanned
  | 7 => (outOf s 1).scanned
  | 128 => e 0
  | 129 => e 1
  | 130 => e 2
  | 131 => e 3
  | 132 => (partOf s part).dropped
  | _ => if 16 ≤ n && n < 32 then c.pc.getD (n - 16) 0 else 0

/-! ## Device scope: writes -/

/-- A host event of a host register write: arg0 is the register's offset (Tables 19.2 and 19.5). -/
def writeEvent (s : State) (part code n : Nat) (v : Word) : State := hostEvent s part code (4 * n) v.toNat

/-- A field of a register given a value: kept when the value lies outside its range (R105). -/
def putField (old v : Word) (lo n first last : Nat) : Word :=
  let x := field v.toNat lo n
  if first ≤ x && x ≤ last then BitVec.ofNat 32 (setField old.toNat lo n x) else old

/-- `resv` (Table 12.8). -/
def writeResv (old v : Word) : Word :=
  putField (putField (putField (putField old v 0 4 0 8) v 4 10 0 512) v 14 9 0 256) v 23 5 0 16

/-- `l2place` (R225, Table 9.3): ignored while busy; a change of mode starts the drain. -/
def l2placeWrite (s : State) (v : Word) : State :=
  if s.l2place.getLsbD 8 then s
  else
    let new := v &&& 0xF3
    { s with l2place := if new.getLsbD 0 = s.l2place.getLsbD 0 then new else new ||| 0x100 }

/-- A partition has a grid, group or record (R419, R424, R437). -/
def hasWork (s : State) (p : Nat) : Bool := s.grids.any (fun g => g.record.part == p) || s.groups.any (fun g => g.record.part == p)

/-- First frame of an output whose D(f, 0) has not passed (R400, R435). -/
def firstFrame (now : Nat) (o : Output) : Nat :=
  if o.fper = 0 || now ≤ o.fbase.toNat then 0 else (now - o.fbase.toNat + o.fper.toNat - 1) / o.fper.toNat

/-- Strip timing (Table 17.2). -/
def timingWrite (o : Output) (i : Nat) (v : Word) : Output :=
  match i with
  | 0 => { o with fbase := setHalf o.fbase 0 v }
  | 1 => { o with fbase := setHalf o.fbase 1 v }
  | 2 => { o with fper := v }
  | 3 => { o with lper := v }
  | 4 => { o with kstrip := putField o.kstrip v 0 5 1 16 }
  | 5 => { o with lead := v }
  | _ => o

/-- The first frame from f on whose scan-out has not begun under the timing captured for it; at most n have. -/
def notBegun (x : Output) (f : Nat) : Nat → Nat
  | 0 => f
  | n + 1 => if x.captures.any fun c => c.begun && c.timing.fnum == BitVec.ofNat 32 f then notBegun x (f + 1) n else f

/-- A write of an output's strip timing: between frames, a new base or period decides which frame comes next; those that have opened
keep their times (R399). -/
def outputTiming (s : State) (o i : Nat) (v : Word) : State :=
  modOut s o fun x =>
    let y := timingWrite x i v
    if i < 3 && x.scan.isNone then { y with nextFrame := notBegun y (firstFrame s.devtime y) y.captures.length } else y

/-- `pstate` (R437). The new state is the one that [1:0] shows while the change is busy, so that its clock ratio holds from then on
(DESIGN CHOICE, log entry 10). -/
def pstateWrite (s : State) (v : Word) : State :=
  let want := field v.toNat 0 2
  let now := field s.pstate.toNat 0 2
  if s.pstate.getLsbD 2 then writeEvent s 0 6 0x500 v
  else if want = 3 && ((List.range 8).any (hasWork s) || (outOf s 0).dmode.getLsbD 0 || (outOf s 1).dmode.getLsbD 0) then
    writeEvent s 0 6 0x500 v
  else if want = now then s
  else { s with pstate := BitVec.ofNat 32 (want + 4) }

/-- A cluster has cores in its partition's tile pool: reserved ones, if it has tile slots, or those that an open frame's pool took
(R347). -/
def inTilePool (s : State) (g : Nat) : Bool :=
  let cores := (List.range 8).map fun i => 8 * g + i
  (clusterTs s g != 0 && cores.any (isReserved s)) || s.dies.any fun d => d.2.frames.any fun f => f.pool.any fun c => cores.contains c

/-- `cgate` (R438): a request to gate a cluster of a tile pool whose partition drives an enabled output is ignored. -/
def cgateWrite (s : State) (v : Word) : State :=
  let new := v &&& 0xFFFFFF
  let drives (p : Nat) : Bool := [0, 1].any fun o =>
    field (outOf s o).downer.toNat 0 4 == p + 8 && (outOf s o).dmode.getLsbD 0
  let bad (g : Nat) : Bool := new.getLsbD g && !(s.cgate.getLsbD g) && inTilePool s g && (ownerOf s g).any drives
  if (List.range Config.clusters).any bad then writeEvent s 0 6 0x501 v
  else { s with cgate := new, cgated := s.cgated &&& new }

/-- The measured power against the cap (R439): event 7 as it comes to exceed it, and again for each millisecond that it stays above, as
`devtime` counts (DESIGN CHOICE, log entry 49). -/
def checkCap (s : State) : State :=
  if s.fatal || s.pmeas.toNat ≤ s.pcap.toNat then { s with capNext := none }
  else
    match s.capNext with
    | some t =>
      if s.devtime < t then s else hostEvent { s with capNext := some (t + 1000000) } 0 7 (4 * 0x504) s.pmeas.toNat
    | none => hostEvent { s with capNext := some (s.devtime + 1000000) } 0 7 (4 * 0x504) s.pmeas.toNat

/-- A power register (Table 19.6): host only. -/
def powerWrite (s : State) (n : Nat) (v : Word) : State :=
  match n with
  | 0x500 => pstateWrite s v
  | 0x501 => cgateWrite s v
  | 0x503 => checkCap { s with pcap := putField s.pcap v 0 12 1 1800 }
  | _ => s

/-- `pcsel` (R405): the host's choice is every core's and a supervisor's that of its partition's cores; the counter is zeroed on the cores
it reaches. -/
def pcselWrite (s : State) (who : Writer) (n : Nat) (v : Word) : State :=
  let v := v &&& 0x1FF
  let mine (core : Nat) : Bool := match who with | .sup p => ownerOf s (clusterOfCore core) == some p | _ => true
  let zero (s : State) (core : Nat) : State := if mine core then modCore s core fun c => { c with pc := c.pc.set n 0 } else s
  let s := match who with
    | .sup p => modPart s p fun q => { q with pcsel := tset q.pcsel n v }
    | _ => { s with pcsel := s.pcsel.set n v, partitions := s.partitions.map fun e => (e.1, { e.2 with pcsel := tdel e.2.pcsel n }) }
  (List.range Config.cores).foldl zero s

/-- Cores of a partition. -/
def partCores (s : State) (p : Nat) : List Nat :=
  ((List.range Config.clusters).filter fun g => (partOf s p).pclust.getLsbD g).flatMap fun g => (List.range 8).map fun i => 8 * g + i

/-- Everything dirty that a partition's caches hold goes to memory. -/
def flushPart (s : State) (p : Nat) : State :=
  let s := (partCores s p).foldl (fun s c => drainFlume (combineFlush s c) c) s
  s.dies.foldl (fun s d => d.2.l2.foldl (fun s l => if l.part == p then l2WriteBack s d.1 l.line else s) s) s

/-- A partition's caches are discarded: L1s and instruction caches of its cores, its lines of L2, its translations. -/
def discardCaches (s : State) (p : Nat) : State :=
  let s := (partCores s p).foldl (fun s c => modCore s c fun k => { k with l1 := [], flume := [], combine := none, icache := [] }) s
  let mine (a : Nat) : Bool := a == asidOf s p false || a == asidOf s p true
  { s with
    dies := s.dies.map fun d =>
      (d.1, { d.2 with l2 := d.2.l2.filter (fun l => l.part != p), tlb := d.2.tlb.filter (fun e => !(mine e.asid)) }) }

/-- A partition ends: firmware discards its key (R419); its caches are written back and discarded, and its frames and its supervisor's
counter choices go (log entry 41). -/
def endPartition (s : State) (p : Nat) : State :=
  let s := discardCaches (flushPart s p) p
  let s := { s with dies := s.dies.map fun d => (d.1, { d.2 with frames := d.2.frames.filter fun f => f.part != p }) }
  modPart s p fun q => { q with pkeyst := q.pkeyst &&& 0xFFFFFFFE, desc := none, pcsel := [] }

/-- `pctl` (R417, R419): en := 1 sets busy until the check is done; en := 0 is accepted when the partition has no work. -/
def pctlWrite (s : State) (p : Nat) (v : Word) : State :=
  let q := partOf s p
  let n := 0x301 + 16 * p
  if q.pctl.getLsbD 2 then writeEvent s p 3 n v
  else if q.pctl.getLsbD 0 then
    if v.getLsbD 0 || hasWork s p then writeEvent s p 3 n v
    else modPart (endPartition s p) p fun q => { q with pctl := v &&& 2 }
  else if v.getLsbD 0 then modPart s p fun q => { q with pctl := (v &&& 2) ||| 4 }
  else modPart s p fun q => { q with pctl := v &&& 2 }

/-- ASIDs of a partition's two address spaces: none while the partition is disabled and its register stands as reset left it. -/
def asidsOf (p : Partition) : List Nat := if p.pasid = 0 && !(p.pctl.getLsbD 0) then [] else [field p.pasid.toNat 0 16, field p.pasid.toNat 16 16]

/-- An ASID is held by another address space: the other half of the pair, or another partition's, enabled or not (R357). -/
def asidHeld (s : State) (p : Nat) (v : Word) : Bool :=
  let lo := field v.toNat 0 16
  let hi := field v.toNat 16 16
  lo == hi || (List.range 8).any fun q => q != p && (asidsOf (partOf s q)).any fun a => a == lo || a == hi

/-- An L2 way of a mask is in another enabled partition (R419, R421). -/
def waysTaken (s : State) (p : Nat) (v : Word) : Bool :=
  (List.range 8).any fun q => q != p && (partOf s q).pctl.getLsbD 0 && (partOf s q).pways &&& v &&& 0xFFFF != 0

/-- `pbw`: translations that a partition's new share of the caches does not hold are dropped, the oldest first (R421). -/
def pbwWrite (s : State) (p : Nat) (v : Word) : State :=
  let s := modPart s p fun q => { q with pbw := v }
  { s with dies := s.dies.map fun d => (d.1, { d.2 with tlb := tlbWithin s p d.2.tlb }) }

/-- Register i of a partition's configuration, written by the host or by firmware, which alone writes `psroot` and `pswld` (R417, R421,
R357). -/
def confWrite (s : State) (who : Writer) (p i : Nat) (v : Word) : State :=
  let n := 0x300 + 16 * p + i
  let en := (partOf s p).pctl.getLsbD 0
  let refuse := writeEvent s p 3 n v
  let put (f : Partition → Partition) : State := if en then refuse else modPart s p f
  let firm (f : Partition → Partition) : State := match who with | .firmware => put f | _ => refuse
  match i with
  | 0 => put fun q => { q with pclust := v &&& 0xFFFFFF }
  | 1 => pctlWrite s p v
  | 2 => if en && waysTaken s p v then refuse else modPart s p fun q => { q with pways := v &&& 0xFFFF }
  | 3 => pbwWrite s p v
  | 4 => put fun q => { q with proot := setHalf q.proot 0 v }
  | 5 => put fun q => { q with proot := setHalf q.proot 1 v }
  | 6 => if asidHeld s p v then refuse else put fun q => { q with pasid := v }
  | 7 => firm fun q => { q with psroot := setHalf q.psroot 0 v }
  | 8 => firm fun q => { q with psroot := setHalf q.psroot 1 v }
  | 9 => put fun q => { q with pdesc := setHalf q.pdesc 0 v }
  | 10 => put fun q => { q with pdesc := setHalf q.pdesc 1 v }
  | 12 => firm fun q => { q with pswld := v &&& 0xFFFFFF }
  | _ => s

/-! ## Fault records and their replay (R414) -/

/-- A thread still parks under a fault record. -/
def stillParked (s : State) (seq : Word) (m : Nat × Nat) : Bool :=
  match (groupOf s m.1).bind fun g => threadOf g m.2 with
  | some t => t.status == .parked (some seq)
  | none => false

/-- Threads still parked under fault record `seq` of a partition. -/
def parkedUnder (s : State) (p : Nat) (seq : Word) : List (Nat × Nat) :=
  match (partOf s p).parked.find? fun r => r.seq == some seq with
  | some r => r.members.filter (stillParked s seq)
  | none => []

/-- Forget a fault record. -/
def dropFaultRec (s : State) (p : Nat) (seq : Word) : State :=
  modPart s p fun q => { q with parked := q.parked.filter fun r => r.seq != some seq }

/-- A write to `replay`: the record's still-parked threads become runnable at their faulting word. -/
def replayRecord (s : State) (p : Nat) (seq : Word) : State :=
  let go (s : State) (m : Nat × Nat) : State :=
    match (groupOf s m.1).bind fun g => threadOf g m.2 with
    | some t => readyAt s m.1 m.2 t.pc t.hdr
    | none => s
  dropFaultRec ((parkedUnder s p seq).foldl go s) p seq

/-- A write to `kill`: the groups of the record's still-parked threads fail, each with its own first fault (R413, R414). -/
def killRecord (s : State) (p : Nat) (seq : Word) : State :=
  let firsts := (((partOf s p).parked.find? fun r => r.seq == some seq).map fun r => r.firsts).getD []
  let fail (s : State) (m : Nat × Nat) : State :=
    match firsts.find? fun e => e.1 == m.1 with
    | some e => failGroup s m.1 e.2.1 e.2.2
    | none => s
  dropFaultRec ((parkedUnder s p seq).foldl fail s) p seq

/-- Register i of a partition's routing block: the host writes every one, the supervisor only +0, +1, +13 and +14 (R410). -/
def routeWrite (s : State) (who : Writer) (p i : Nat) (v : Word) : State :=
  let put (f : Partition → Partition) : State := modPart s p f
  let host (x : State) : State := match who with | .host => x | _ => s
  match i with
  | 0 => put fun q => { q with route0 := v &&& 0xFFFFFFFC }
  | 1 => put fun q => { q with route1 := v &&& 0xFFF }
  | 2 => host (put fun q => { q with fqbase := setHalf q.fqbase 0 (v &&& 0xFFFFF000) })
  | 3 => host (put fun q => { q with fqbase := setHalf q.fqbase 1 v })
  | 4 => host (put fun q => { q with qsize := putField (putField q.qsize v 0 4 4 12) v 4 4 4 12 })
  | 6 => host (put fun q => { q with fqhead := v })
  | 7 => host (put fun q => { q with evbase := setHalf q.evbase 0 v })
  | 8 => host (put fun q => { q with evbase := setHalf q.evbase 1 v })
  | 10 => host (put fun q => { q with evhead := v })
  | 11 => host (replayRecord s p v)
  | 12 => host (killRecord s p v)
  | 13 => put fun q => { q with svpc := setHalf q.svpc 0 v }
  | 14 => put fun q => { q with svpc := setHalf q.svpc 1 v }
  | _ => s

/-- A device-scope register written by a party that may reach it: where Table 4.6 does not name the party a writer, the write
is ignored as to a read-only register (R6, R103). -/
def deviceWrite (s : State) (who : Writer) (n : Nat) (v : Word) : State :=
  let host (x : State) : State := match who with | .host => x | _ => s
  let root (x : State) : State := match who with | .sup _ => s | _ => x
  let soft (x : State) : State := match who with | .firmware => s | _ => x
  if 0x200 ≤ n && n ≤ 0x217 then soft (modCluster s (n - 0x200) fun c => { c with resv := writeResv c.resv v })
  else if n = 0x220 then root (l2placeWrite s v)
  else if 0x240 ≤ n && n ≤ 0x247 then soft { s with gaze := s.gaze.set (n - 0x240) v }
  else if 0x260 ≤ n && n ≤ 0x26F then host (outputTiming s ((n - 0x260) / 8) (n % 8) v)
  else if 0x300 ≤ n && n ≤ 0x37F then root (confWrite s who ((n - 0x300) / 16) (n % 16) v)
  else if 0x380 ≤ n && n ≤ 0x3FF then soft (routeWrite s who ((n - 0x380) / 16) (n % 16) v)
  else if 0x400 ≤ n && n ≤ 0x40F then soft (pcselWrite s who (n - 0x400) v)
  else if 0x500 ≤ n && n ≤ 0x50F then host (powerWrite s n v)
  else s

end Sys2Proof.Machine
end

