-- ==== Sys2Proof/Machine/Views.lean ====
section
/-! DEFINITION. The arithmetic of views: the gaze warp, the lens map, strips, tiles and panel rectangles, the transform and the
coverage of primitives, strip times (spec/16_view_and_tree_tables.md R373 to R384, spec/17_counters.md R399, R400,
spec/14_geometry_and_tile_queues.md R347, R349). -/
namespace Sys2Proof.Machine

/-! ## FP32 values under one rounding -/

/-- `rnd(x)` of chapter 16: the FP32 value nearest an exact one. -/
def rnd (x : FVal) : FVal := decodeFlt f32P false (roundFlt f32P false false 0 0 x).1

/-- The FP32 bits of a value. -/
def bits32 (x : FVal) : Word := BitVec.ofNat 32 (roundFlt f32P false false 0 0 x).1

/-- The value of FP32 bits. -/
def val32 (w : Word) : FVal := decodeFlt f32P false w.toNat

/-- Exact sum, difference and product. -/
def xadd (a b : FVal) : FVal := (exactAdd 0 a b).1
def xsub (a b : FVal) : FVal := (exactAdd 0 a (negVal b)).1
def xmul (a b : FVal) : FVal := (exactMul a b).1

/-- a ÷ b, to enough bits that one rounding of it is the rounding of the exact quotient. -/
def xdiv (a b : FVal) : FVal :=
  match a, b with
  | .nan _, _ => .nan false
  | _, .nan _ => .nan false
  | .inf _, .inf _ => .nan false
  | .inf s, .fin s' _ _ => .inf (s != s')
  | .fin s _ _, .inf s' => .fin (s != s') 0 0
  | .fin s m e, .fin s' m' e' =>
    if m' = 0 then (if m = 0 then .nan false else .inf (s != s'))
    else
      let k := Nat.log2 m' + 80
      let n := m * 2 ^ k
      .fin (s != s') (2 * (n / m') + (if n % m' = 0 then 0 else 1)) (e - e' - k - 1)

/-- A whole number and a half of one as values. -/
def wholeVal (n : Nat) : FVal := .fin false n 0
def halfVal (n : Nat) : FVal := .fin false n (-1)

/-- ±m × 2^e. -/
def dy (neg : Bool) (m : Nat) (e : Int) : FVal := .fin neg m e

/-- a < b and a ≤ b as numbers. -/
def vlt (a b : FVal) : Bool := cmpFloat 2 a b
def vle (a b : FVal) : Bool := cmpFloat 3 a b

/-- A value is finite. -/
def isFin (a : FVal) : Bool := match a with | .fin .. => true | _ => false

/-- `round_to(INT64, x × 2^16, RNE)`. -/
def snap (x : FVal) : Int :=
  match xmul x (dy false 1 16) with
  | .fin s m e => signedMag s (roundMag 0 s 0 m e 0).1
  | _ => 0

/-- A NaN, or a magnitude of 256 or more (R379, R380). -/
def tooFar (x : FVal) : Bool :=
  match x with
  | .fin _ m e => !(vlt (.fin false m e) (wholeVal 256))
  | _ => true

/-! ## Warp (R376, R378) -/

/-- A gaze component: signed Q1.14 (Table 16.2). -/
def gazeVal (g16 : Nat) : FVal :=
  let i := toSigned 16 g16
  .fin (decide (i < 0)) i.natAbs (-14)

/-- The warp of an axis with counts n and fovea half-width f at a gaze component (R376). -/
def warpOf (n : Nat × Nat × Nat) (f : Word) (g : FVal) : AxisWarp :=
  let f := val32 f
  let edge := dy false 63 (-6)
  let f2 := rnd (xmul (wholeVal 2) f)
  let b1 := minMax false (minMax true (rnd (xsub g f)) (negVal edge)) (rnd (xsub edge f2))
  let b2 := rnd (xadd b1 f2)
  let sig (p q : FVal) (k : Nat) : Word := bits32 (xdiv (rnd (xsub q p)) (wholeVal k))
  { n0 := n.1, n1 := n.2.1, n2 := n.2.2, b1 := bits32 b1, b2 := bits32 b2
    s0 := sig (dy true 1 0) b1 n.1, s1 := sig b1 b2 n.2.1, s2 := sig b2 (dy false 1 0) n.2.2 }

/-- Samples along an axis. -/
def axisCount (w : AxisWarp) : Nat := w.n0 + w.n1 + w.n2

/-- The inverse warp of an axis at a coordinate given in halves (R378). -/
def unwarp (w : AxisWarp) (c2 : Nat) : FVal :=
  let a := w.n0 + w.n1
  let (start, sigma, p) : Nat × Word × FVal :=
    if c2 ≥ 2 * a then (a, w.s2, val32 w.b2) else if c2 ≥ 2 * w.n0 then (w.n0, w.s1, val32 w.b1) else (0, w.s0, dy true 1 0)
  rnd (xadd (xmul (halfVal (c2 - 2 * start)) (val32 sigma)) p)

/-- The lens map of a panel point (u, v) (R379): none when the sample is never covered. -/
def lensMap (k1 k2 : Word) (u v : FVal) : Option (Int × Int) :=
  let q := rnd (xmul u u)
  let q := rnd (xadd (xmul v v) q)
  let t := rnd (xadd (xmul (val32 k2) q) (val32 k1))
  let s := rnd (xadd (xmul t q) (wholeVal 1))
  let x := rnd (xmul u s)
  let y := rnd (xmul v s)
  if tooFar x || tooFar y then none else some (snap x, snap y)

/-- Snapped position of the centre of sample (i, j) (R378, R379). -/
def samplePoint (xw yw : AxisWarp) (k1 k2 : Word) (i j : Nat) : Option (Int × Int) :=
  lensMap k1 k2 (unwarp xw (2 * i + 1)) (negVal (unwarp yw (2 * j + 1)))

/-! ## Strips, tiles, panel rectangles (R383, R384) -/

/-- lo_k of K strips; above the last strip nothing bounds. -/
def stripLow (k total : Nat) : Option FVal :=
  if k ≥ total then none else some (rnd (xsub (rnd (xdiv (wholeVal (2 * k)) (wholeVal total))) (wholeVal 1)))

/-- A coordinate y' lies in strip k of K. -/
def inStrip (k total : Nat) (y : FVal) : Bool :=
  (match stripLow k total with | some lo => vle lo y | none => false) &&
  (match stripLow (k + 1) total with | some hi => vlt y hi | none => true)

/-- First row of a strip under a warp, and how many rows it holds. -/
def stripRows (yw : AxisWarp) (k total : Nat) : Nat × Nat :=
  let rows := (List.range (axisCount yw)).filter fun j => inStrip k total (unwarp yw (2 * j + 1))
  (rows.headD 0, rows.length)

/-- Tile columns and tile rows of a view's strip. -/
def tileCols (l : Latch) : Nat := (axisCount l.x + 15) / 16
def tileRows (l : Latch) : Nat := (l.rows + 15) / 16

/-- Panel coordinate of the centre of pixel n of a side of m pixels (R384). -/
def pixelVal (n m : Nat) : FVal := rnd (xsub (rnd (xdiv (wholeVal (2 * n + 1)) (wholeVal m))) (wholeVal 1))

/-- First pixel row of strip k of a panel with h rows (R400). -/
def stripFirstRow (k total h : Nat) : Nat :=
  match stripLow k total with
  | none => h
  | some lo => ((List.range h).find? fun y => vle lo (pixelVal y h)).getD h

/-- The largest t below `count` with t = 0 or edge(t) ≤ p. -/
def lastEdge (edge : Nat → FVal) (p : FVal) (count : Nat) : Nat :=
  (List.range count).foldl (fun best t => if t = 0 || vle (edge t) p then t else best) 0

/-- First value and number of the members of a list of consecutive numbers. -/
def runOf (l : List Nat) : Nat × Nat := (l.headD 0, l.length)

/-- Origin and size of the panel rectangle of a tile (R384); without pixels all are 0. -/
def panelRect (l : Latch) (total w h tx ty : Nat) : Nat × Nat × Nat × Nat :=
  let col (x : Nat) : Nat := lastEdge (fun t => unwarp l.x (32 * t)) (pixelVal x w) (tileCols l)
  let row (y : Nat) : Nat := lastEdge (fun t => unwarp l.y (2 * (l.jFirst + 16 * t))) (pixelVal y h) (tileRows l)
  let xs := runOf ((List.range w).filter fun x => col x == tx)
  let ys := runOf ((List.range h).filter fun y => inStrip l.strip total (pixelVal y h) && row y == ty)
  if xs.2 = 0 || ys.2 = 0 then (0, 0, 0, 0) else (xs.1, ys.1, xs.2, ys.2)

/-! ## Vertices, edges, coverage (R380 to R382) -/

/-- Exact Σ of products, rounded once. -/
def dotRnd (a b : List FVal) : FVal := rnd (dotVal (List.zipWith termOf a b))

/-- A row of a matrix of 4 columns. -/
def matRow (m : List Word) (r : Nat) : List FVal := ((m.drop (4 * r)).take 4).map val32

/-- Snapped position of a vertex in a view (R380): none when the primitive is discarded. -/
def viewVertex (mat pos : List Word) : Option (Int × Int) :=
  let p := pos.map val32
  let cl := (List.range 4).map fun r => dotRnd (matRow mat r) p
  let w := cl.getD 3 (.nan false)
  if cl.any (fun c => !(isFin c)) || !(vlt (wholeVal 0) w) then none
  else
    let x := rnd (xdiv (cl.getD 0 w) w)
    let y := rnd (xdiv (cl.getD 1 w) w)
    if tooFar x || tooFar y then none else some (snap x, snap y)

/-- a.X × b.Y − a.Y × b.X. -/
def cross (a b : Int × Int) : Int := a.1 * b.2 - a.2 * b.1

/-- Difference of two points. -/
def psub (a b : Int × Int) : Int × Int := (a.1 - b.1, a.2 - b.2)

/-- The edge functions E0, E1, E2 of a sample (R381). -/
def edges (v0 v1 v2 s : Int × Int) : Int × Int × Int :=
  (cross (psub v2 v1) (psub s v1), cross (psub v0 v2) (psub s v2), cross (psub v1 v0) (psub s v0))

/-- A = E0 + E1 + E2 (R381). -/
def areaOf (v0 v1 v2 : Int × Int) : Int := let e := edges v0 v1 v2 v0; e.1 + e.2.1 + e.2.2

/-- The edge function and direction of one edge let a sample in (R382). -/
def edgeIn (neg : Bool) (e : Int) (d : Int × Int) : Bool :=
  let e := if neg then -e else e
  let d := if neg then (-d.1, -d.2) else d
  decide (e > 0) || (e == 0 && (decide (d.2 < 0) || (d.2 == 0 && decide (d.1 < 0))))

/-- A sample is covered by a primitive with nonzero area (R382). -/
def covered (v0 v1 v2 s : Int × Int) : Bool :=
  let neg := decide (areaOf v0 v1 v2 < 0)
  let e := edges v0 v1 v2 s
  edgeIn neg e.1 (psub v2 v1) && edgeIn neg e.2.1 (psub v0 v2) && edgeIn neg e.2.2 (psub v1 v0)

/-- λ_k of a sample (R349). -/
def lambdaOf (e : Int) (s : Sample) : Word :=
  let iv (i : Int) : FVal := .fin (decide (i < 0)) i.natAbs 0
  bits32 (xdiv (iv e) (iv (s.e0 + s.e1 + s.e2)))

/-! ## View entries and templates (R373, R374) -/

/-- Words of a number. -/
def natWords (v n : Nat) : List Word := (List.range n).map fun i => BitVec.ofNat 32 (field v (32 * i) 32)

/-- A view table entry from its 2,048 bits (Table 16.1). -/
def parseView (v : Nat) : ViewEntry :=
  { mat := natWords v 16
    xn := (field v 512 16, field v 528 16, field v 544 16)
    xf := BitVec.ofNat 32 (field v 576 32)
    yn := (field v 640 16, field v 656 16, field v 672 16)
    yf := BitVec.ofNat 32 (field v 704 32)
    k1 := BitVec.ofNat 32 (field v 768 32)
    k2 := BitVec.ofNat 32 (field v 800 32)
    panel := field v 992 2
    face := field v 994 2
    rtmplVa := field v 1024 64
    rsv := field v 560 16 != 0 || field v 608 32 != 0 || field v 688 16 != 0 || field v 736 32 != 0 || field v 996 28 != 0 ||
      field v 1088 960 != 0 }

/-- The counts and the fovea half-width of an axis are in range. -/
def axisOk (n : Nat × Nat × Nat) (f : Word) : Bool :=
  let ok (k : Nat) : Bool := decide (1 ≤ k) && decide (k ≤ 8191)
  ok n.1 && ok n.2.1 && ok n.2.2 && decide (n.1 + n.2.1 + n.2.2 ≤ 8192) && vlt (wholeVal 0) (val32 f) && vle (val32 f) (dy false 63 (-6))

/-- The entry breaks no constraint of Table 16.1 or R374. -/
def viewOk (v : ViewEntry) : Bool :=
  !v.rsv && axisOk v.xn v.xf && axisOk v.yn v.yf && isFin (val32 v.k1) && isFin (val32 v.k2) && decide (v.panel < 2) &&
  decide (v.face < 3) && v.rtmplVa % 64 == 0

/-- The warps of a view at a gaze word (R376). -/
def viewWarps (v : ViewEntry) (gaze : Word) : AxisWarp × AxisWarp :=
  (warpOf v.xn v.xf (gazeVal (field gaze.toNat 0 16)), warpOf v.yn v.yf (negVal (gazeVal (field gaze.toNat 16 16))))

/-! ## Strip times (R399 to R401) -/

/-- The live strip timing of an output, for a frame number. -/
def liveTiming (o : Output) (fnum : Word) : Timing :=
  { fnum := fnum, fbase := o.fbase.toNat, fper := o.fper.toNat, lper := o.lper.toNat, k := field o.kstrip.toNat 0 5
    lead := o.lead.toNat, h := field o.dsize.toNat 16 16, w := field o.dsize.toNat 0 16 }

/-- Time at which row y of the frame starts scan-out: exact, not wrapped (R400, R435). -/
def rowTime (t : Timing) (y : Nat) : Nat := t.fbase + t.fnum.toNat * t.fper + y * t.lper / 256

/-- Strip deadline D(f, k). -/
def deadlineOf (t : Timing) (k : Nat) : Nat := rowTime t (stripFirstRow k t.k t.h)

/-- A time of a frame that passes 2^64 has wrapped and cannot be met (R400). -/
def timeReached (now t : Nat) : Bool := t ≥ 2 ^ 64 || now ≥ t

/-- Lead in force. -/
def leadOf (t : Timing) : Nat := min t.lead (if t.k = 0 then t.lead else t.fper / t.k)

/-- Raster-start time Rst(f, k). -/
def rasterStart (t : Timing) (k : Nat) : Nat := deadlineOf t k - leadOf t

end Sys2Proof.Machine
end

