-- ==== Sys2Proof/Machine/Frames.lean ====
section
/-! DEFINITION. Opening a frame on a die: the frame block, the view table, the templates, the tile pool, the strip timing
(spec/14_geometry_and_tile_queues.md R336, R337, R347, spec/16_view_and_tree_tables.md R373, R374, spec/17_counters.md R399). -/
namespace Sys2Proof.Machine

/-- Die of a cluster (R5). -/
def dieOfCluster (g : Nat) : Nat := g / 6

/-- A frame of a die by the grid that opened it. -/
def frameOf (s : State) (die grid : Nat) : Option Frame := (dieOf s die).frames.find? fun f => f.grid == grid

/-- The state with a frame updated. -/
def modFrame (s : State) (die grid : Nat) (f : Frame → Frame) : State :=
  modDie s die fun d => { d with frames := updFirst (fun x => x.grid == grid) f d.frames }

/-- Outputs that the enabled views of a frame name. -/
def frameOutputs (views : List (Nat × ViewEntry)) : List Nat := [0, 1].filter fun o => views.any fun v => v.2.panel == o

/-- Timing captured for a frame on an output. -/
def frameTiming (f : Frame) (o : Nat) : Option Timing := tfind f.timing o

/-- Strip count of a frame (R337, R346). -/
def frameStrips (f : Frame) : Nat := match f.timing with | (_, t) :: _ => t.k | [] => 1

/-- Strips closed: all before the first that has not started or has a launch outstanding. -/
def viewStripClosed (f : Frame) (view strip : Nat) : Bool :=
  decide (strip < f.started) && !(f.launches.any fun l => l.info.view == view && l.info.strip == strip)

/-- The last strip of a frame has closed (R336). -/
def frameClosed (f : Frame) : Bool := decide (f.started ≥ frameStrips f) && f.launches.isEmpty

/-- The open frame of a partition on a die. -/
def openFrameOf (s : State) (die part : Nat) : Option Frame :=
  (dieOf s die).frames.find? fun f => f.part == part && !(frameClosed f)

/-- Cores of the tile pool of a partition on a die, and its slots per core (R347). -/
def tilePool (s : State) (die part : Nat) : List Nat × Nat :=
  let cs := (partClusters s part).filter fun g => dieOfCluster g == die && clusterTs s g != 0
  let cores := (cs.flatMap fun g => (List.range 8).map fun i => 8 * g + i).filter (isReserved s)
  let ts := cs.foldl (fun m g => min m (clusterTs s g)) 64
  (cores, ts)

/-- Most rows that strip k of K of a view can hold, over every gaze (R337). -/
def mostRows (v : ViewEntry) (k total : Nat) : Nat :=
  (List.range 65536).foldl (fun m gy => max m (stripRows (warpOf v.yn v.yf (negVal (gazeVal gy))) k total).2) 0

/-- Tiles of strip k that the views can need (R337), each view's rows given by a function. -/
def tilesNeeded (views : List (Nat × ViewEntry)) (rows : ViewEntry → Nat) : Nat :=
  (views.map fun v => (v.2.xn.1 + v.2.xn.2.1 + v.2.xn.2.2 + 15) / 16 * ((rows v.2 + 15) / 16)).sum

/-- Some strip can outgrow the tile pool (R337). -/
def outgrows (views : List (Nat × ViewEntry)) (total pool : Nat) : Bool :=
  -- no strip holds more rows than the view
  decide (tilesNeeded views (fun v => v.yn.1 + v.yn.2.1 + v.yn.2.2) > pool) &&
  (List.range total).any fun k => decide (tilesNeeded views (fun v => mostRows v k total) > pool)

/-- A template of 64 bytes at a VA, read by the hardware. -/
def readTemplate (s : State) (part : Nat) (world : Bool) (va : Nat) : State × Option TaskRecord :=
  match hwRead s part world va 64 with
  | (s, .ok bs) => (s, some (parseRecord (leNat bs)))
  | (s, .error _) => (s, none)

/-- VA of view v's entry (R373, R418). -/
def viewVa (s : State) (part v : Nat) : Nat := (descOf s part).viewTable + 256 * v

/-- Read the entries of the enabled views with their templates: none when one breaks a constraint (R373, R374). -/
def readViews (part : Nat) (world : Bool) : State → List Nat → State × Option (List (Nat × ViewEntry))
  | s, [] => (s, some [])
  | s, v :: r =>
    match hwRead s part false (viewVa s part v) 256 with
    | (s, .error f) => (recordEvent s part (some f), none)
    | (s, .ok bs) =>
      let e := parseView (leNat bs)
      if !(viewOk e) then (s, none)
      else
        match readTemplate s part world e.rtmplVa with
        | (s, none) => (s, none)
        | (s, some t) =>
          if t.kind != 4 then (s, none)
          else
            match readViews part world s r with
            | (s, none) => (s, none)
            | (s, some es) => (s, some ((v, { e with rtmpl := t }) :: es))

/-- The timing of an output for a frame number: as captured when the first frame of the number opened, else as it is (R399). -/
def timingFor (s : State) (o : Nat) (fnum : Word) : Timing :=
  match (outOf s o).captures.find? fun c => c.timing.fnum == fnum with
  | some c => c.timing
  | none => liveTiming (outOf s o) fnum

/-- A frame with a history opens on an output: the output captures its timing, and its history when it opens by D(f, 0) (R399,
R435). A history of 0 does not count as opened (R401). -/
def captureFrame (f : Frame) (s : State) (e : Nat × Timing) : State :=
  let t := e.2
  let va := f.fhist.getD e.1 0
  let hist : Option Hist := if va = 0 then none else some { va := va, part := f.part, world := f.world }
  let first (t : Timing) : Bool := t.fper = 0 || decide (s.devtime ≤ deadlineOf t 0)
  let add (c : Capture) : Capture := if c.hist.isNone && first t then { c with hist := hist } else c
  modOut s e.1 fun x =>
    { x with
      captures :=
        if x.captures.any fun c => c.timing.fnum == f.fnum then updFirst (fun c => c.timing.fnum == f.fnum) add x.captures
        else x.captures ++ [add { timing := t, begun := !(first t) }]
      hist := hist.orElse fun _ => x.hist }

/-- A frame keeps strip deadlines for an output (R401). -/
def hasDeadlines (f : Frame) (o : Nat) (t : Timing) : Bool := t.fper != 0 && f.fhist.getD o 0 != 0

/-- Deadlines of a frame that have passed already when it opens. -/
def passedDeadlines (now : Nat) (t : Timing) : Nat := ((List.range t.k).takeWhile fun k => timeReached now (deadlineOf t k)).length

/-- The frame block's fields are in range (Table 14.1, R374). -/
def blockOk (v : Nat) : Bool :=
  field v 32 8 != 0 && field v 40 24 == 0 && field v 64 64 % 64 == 0 && field v 128 64 % 4096 == 0 && field v 192 64 % 4096 == 0 &&
  field v 256 64 % 4096 == 0 && decide (field v 320 32 ≥ 4) && field v 352 160 == 0

/-- Open the frame of a task-stage grid at its first dispatch (R336): none when the dispatch fails (R337, R374). -/
def openFrame (s : State) (g : Grid) : State × Option Word :=
  let r := g.record
  let die := dieOfCluster g.cluster
  match hwRead s r.part r.world r.arg 64 with
  | (s, .error _) => (s, none)
  | (s, .ok bs) =>
    let v := leNat bs
    if !(blockOk v) then (s, none)
    else
      let vmask : BitVec 8 := BitVec.ofNat 8 (field v 32 8)
      match readViews r.part r.world s ((List.range 8).filter fun k => vmask.getLsbD k), field v 0 32 with
      | (s, none), _ => (s, none)
      | (s, some views), fnum =>
        match readTemplate s r.part r.world (field v 64 64) with
        | (s, none) => (s, none)
        | (s, some stmpl) =>
          let fnum : Word := BitVec.ofNat 32 fnum
          let outs := frameOutputs views
          let timing := outs.map fun o => (o, timingFor s o fnum)
          let ks := timing.map fun e => e.2.k
          let pool := tilePool s die r.part
          if stmpl.kind != 3 || ks.any (fun k => k != ks.headD 0) || outgrows views (ks.headD 1) (pool.1.length * pool.2) then (s, none)
          else
            let frame : Frame :=
              { grid := g.id, part := r.part, world := r.world, fnum := fnum, vmask := vmask, stmpl := stmpl
                fhist := [field v 128 64, field v 192 64], bins := field v 256 64, binkib := field v 320 32, views := views
                pool := pool.1, ts := pool.2, timing := timing }
            let frame :=
              { frame with
                deadlines := timing.map fun e => (e.1, if hasDeadlines frame e.1 e.2 then passedDeadlines s.devtime e.2 else 0) }
            (timing.foldl (captureFrame frame) (modDie s die fun d => { d with frames := d.frames ++ [frame] }), some fnum)

/-- The task-stage grid of a frame has completed: its geometry closes (R337). -/
def closeGeometry (s : State) (g : Grid) : State :=
  modFrame s (dieOfCluster g.cluster) g.id fun f => { f with geomClosed := true }

end Sys2Proof.Machine
end

