-- ==== Sys2Proof/Machine/Objects.lean ====
section
/-! DEFINITION. Objects of the task instructions: their address and checks (R311, R312, Table 13.2), when a wait on one is ready,
and who owns one (R314, Table 13.3, R319 to R330 of spec/13_task_instructions.md). -/
namespace Sys2Proof.Machine

/-- VA of the object of a task instruction (R311). -/
def objectVa (g : Group) (o : TaskOp) : Nat := ((affOf g o.ao.toNat).base + o.imm.signExtend 64).toNat

/-- Before an object is acted on at its home slice, the group's outstanding accesses to its bytes are performed, and the core's L1
gives up the line: no L1 holds an object (R311, R237, R238). -/
def settleObject (s : State) (g : Group) (c : Ctx) (ps : List Piece) : State :=
  let s := performAll s fun o => o.gk == g.gk && touchesPieces ps o
  ps.foldl (fun s p => l1Evict s (l1Core s c.core p.va) (asidOf s c.part c.sec) (p.va / 512)) s

/-- Rows 1 to 6 of Table 13.2 for n bytes at a VA: the pieces and the bytes. -/
def objectRead (s : State) (g : Group) (t : Thread) (va n : Nat) (acc : Acc) : State × Except FaultInfo (List Byte) :=
  if va ≥ 2 ^ 57 then (s, .error { cls := fcAddress, va := BitVec.ofNat 64 va })
  else
    let c := ctxOf g t
    match translateParts s c acc (splitSectors va n) with
    | (s, .error f) => (s, .error f)
    | (s, .ok ps) =>
      match ps.find? fun p => p.attr.mtype != 0 with
      | some p => (s, .error { cls := fcPermission, va := BitVec.ofNat 64 p.va })
      | none =>
        let (s, bs, bad) := readPieces (settleObject s g c ps) c ps
        if bad then (s, .error (poisonAt va)) else (s, .ok bs)

/-- The object of a task instruction of `size` bytes, read after every check of rows 1 to 6 of Table 13.2. -/
def readObject (s : State) (g : Group) (t : Thread) (o : TaskOp) (size : Nat) (acc : Acc) : State × Except FaultInfo Nat :=
  let va := objectVa g o
  if (affOf g o.ao.toNat).stride != 0 then (s, .error { cls := fcNonUniform })
  else if va % size != 0 then (s, .error { cls := fcMisaligned, va := BitVec.ofNat 64 va })
  else
    match objectRead s g t va size acc with
    | (s, .error f) => (s, .error f)
    | (s, .ok bs) => (s, .ok (leNat bs))

/-- An object written back whole at its home slice. -/
def writeObject (s : State) (g : Group) (va size v : Nat) : State :=
  (hwWrite s g.record.part g.record.world va (leBytes v size)).1

/-! ## Rings (R326) -/

/-- Entries in use and free of a ring header. -/
def ringUsed (v : Nat) : Nat := (field v 128 32 + 2 ^ 32 - field v 96 32) % 2 ^ 32
def ringFree (v : Nat) : Nat := 2 ^ field v 64 4 - ringUsed v

/-- VA of entry i of a ring. -/
def ringEntryVa (va v i : Nat) : Nat := va + 64 + 16 * (i % 2 ^ field v 64 4)

/-! ## Readiness (Table 13.3) -/

/-- Bytes of the object of a wait. -/
def objectSize : WaitKind → Nat
  | .fget => 32
  | .lacq => 16
  | .qput => 64
  | .qget => 64
  | .tktake => 8
  | .tkwait _ => 8
  | .payload => 0

/-- A wait of a task and group on an object with these contents is ready (Table 13.3); a ticket that has passed the group's
turn is ready for its fault (R331). -/
def waitReady (s : State) (part task gid : Nat) (k : WaitKind) (v : Nat) : State × Bool :=
  match k with
  | .fget => if field v 0 2 ≥ 2 then (s, true) else ownerFailed s part (field v 32 32)
  | .lacq =>
    if field v 0 32 = 0 then
      if field v 64 32 = 0 || field v 64 32 = task then (s, true) else ownerFailed s part (field v 64 32)
    else ownerFailed s part (field v 0 32)
  | .qput => if ringFree v > 0 then (s, true) else ownerFailed s part (field v 32 32)
  | .qget => if ringUsed v > 0 then (s, true) else ownerFailed s part (field v 0 32)
  | .tktake => (s, decide (field v 0 32 ≥ gid % 2 ^ 32))
  | .tkwait n => (s, decide (field v 0 32 ≥ n))
  | .payload => (s, false)

/-- A slot of a cluster's ring is kept for a group (R341). -/
def slotReserved (s : State) (cluster gk : Nat) : Bool := (clusterOf s cluster).ring.any fun x => x.reserved == some gk

/-- The wait of a group on an object is ready now; an object that cannot be read shows nothing. -/
def objectReady (s : State) (gk : Nat) (k : WaitKind) (obj part : Nat) (world : Bool) : State × Bool :=
  if k = .payload then (s, slotReserved s obj gk)
  else
    match groupOf s gk, hwRead s part world obj (objectSize k) with
    | some g, (s, .ok bs) => waitReady s part g.record.taskid g.gid k (leNat bs)
    | _, (s, _) => (s, false)

/-- The task whose work a core does for a wait of a group that is not ready (Table 13.3, R327, R341), if any: an object's owner of 0
is none. -/
def objectOwner (s : State) (gk : Nat) (k : WaitKind) (obj part : Nat) (world : Bool) : State × Option Nat :=
  match k with
  | .payload =>
    let filled := (clusterOf s obj).ring.filterMap fun x => x.owner.map fun o => (x.filled, o.2)
    let oldest := filled.foldl (fun (b : Option (Nat × Nat)) x => match b with
      | none => some x
      | some y => if x.1 < y.1 then some x else some y) none
    (s, oldest.map fun x => x.2)
  | .tktake => (s, none)
  | .tkwait _ => (s, none)
  | _ =>
    match groupOf s gk, hwRead s part world obj (objectSize k) with
    | some g, (s, .ok bs) =>
      let v := leNat bs
      let owner := match k with
        | .fget => field v 32 32
        | .lacq => if field v 0 32 = g.record.taskid then 0 else field v 0 32
        | .qput => field v 32 32
        | _ => field v 0 32
      (s, if owner = 0 then none else some owner)
    | _, (s, _) => (s, none)

/-- A future whose owner a test has found failed is marked failed, which wakes its waiters (R308, Table 13.3). -/
def markFailed (s : State) (k : WaitKind) (obj part : Nat) (world : Bool) : State :=
  if k = .fget then (settleFuture s part world obj 0 true).1 else s

/-- A lock that `lrel` granted to the task of a waiter is on its way to another group of that task, which alone was woken (R325). -/
def handedOn (s : State) (w : Waiter) : Bool :=
  match w.kind, groupOf s w.gk with
  | .lacq, some g =>
    s.groups.any fun x => x.gk != g.gk && x.wait == some (.lacq, w.obj) && x.record.part == w.part && x.record.world == w.world &&
      x.record.taskid == g.record.taskid && !x.failed && !(s.waiters.any fun v => v.gk == x.gk)
  | _, _ => false

/-- Each parked waiter of a list is tested, and made runnable when its object is ready and for no other waiter (R303, R315, R325). -/
def retest (s : State) (ws : List Waiter) : State :=
  ws.foldl
    (fun s w =>
      match objectReady s w.gk w.kind w.obj w.part w.world with
      | (s, false) => s
      | (s, true) =>
        let on := handedOn s w
        let s := markFailed s w.kind w.obj w.part w.world
        if !on && s.waiters.any (fun x => x.gk == w.gk) then wakeWaiter s w else s) s

end Sys2Proof.Machine
end

