-- ==== Sys2Proof/Machine/Rooms.lean ====
section
/-! DEFINITION. Admission: lanes, group contexts, scratchpad, slots and tiles of a core, and the class-0 reserve
(spec/02_execution_model.md R26 to R28, R51, spec/12_task_queues.md R298, R299, spec/04_registers.md R101, R102). -/
namespace Sys2Proof.Machine

/-- A group of n threads placed at (sub, lane) has a thread on a lane (R27, R28). -/
def covers (n sub lane : Nat) (sub' lane' : Nat) : Bool :=
  if n > 32 then decide (32 * sub' + lane' < n) else sub == sub' && decide (lane ≤ lane') && decide (lane' < lane + n)

/-- Groups with lanes on a core. -/
def residents (s : State) (core : Nat) : List Group := s.groups.filter fun g => g.core == core && g.run == .resident

/-- A group has a thread on a lane. -/
def onLane (g : Group) (sub lane : Nat) : Bool := covers g.record.threads g.subBase g.laneBase sub lane

/-- A lane has room for one more thread of this many registers (R26). -/
def laneRoom (rs : List Group) (regs sub lane : Nat) : Bool :=
  let mine := rs.filter fun g => onLane g sub lane
  decide ((mine.map fun g => 8 * g.record.regs8).sum + regs ≤ Config.laneRegs) && decide (mine.length < 4)

/-- A subcore has a free group context. -/
def contextRoom (rs : List Group) (sub : Nat) : Bool :=
  decide ((rs.filter fun g => (List.range 32).any fun l => onLane g sub l).length < 4)

/-- A place on a core: subcore and first lane, and the group context number (R28, R293). -/
structure Seat where
  sub : Nat
  lane : Nat
  ctx : Nat
  deriving DecidableEq, Repr

/-- s rounded up to a power of two. -/
def roundPow (n : Nat) : Nat := if n ≤ 1 then 1 else 2 ^ (Nat.log2 (n - 1) + 1)

/-- First lanes a group may take on a subcore (R28). -/
def laneBases (n : Nat) : List Nat := (List.range (32 / roundPow n)).map fun k => k * roundPow n

/-- Lowest free context number of a subcore; a lower class leaves those of the core's pre-empted groups alone (R293). -/
def freeContext (s : State) (core cls : Nat) (rs : List Group) (sub : Nat) : Option Nat :=
  let taken := rs ++ s.groups.filter fun g => g.core == core && g.run == .preempted && cls != 0
  (List.range 4).findSome? fun p => if taken.any fun g => g.ctx == 4 * sub + p then none else some (4 * sub + p)

/-- The lowest subcore and lane that take a group of this record among the residents `rs` of a core (R26 to R28). -/
def seatFor (s : State) (core cls : Nat) (rs : List Group) (r : TaskRecord) : Option Seat :=
  let regs := 8 * r.regs8
  let fits (sub lane : Nat) : Bool := (List.range 32).all fun l => !(covers r.threads sub lane sub l) || laneRoom rs regs sub l
  if r.threads > 32 then
    let subs := List.range ((r.threads + 31) / 32)
    let ok := subs.all fun b => contextRoom rs b && (List.range 32).all fun l => !(covers r.threads 0 0 b l) || laneRoom rs regs b l
    if ok then (freeContext s core cls rs 0).map fun c => { sub := 0, lane := 0, ctx := c } else none
  else
    (List.range 4).findSome? fun b =>
      if !(contextRoom rs b) then none
      else
        match (laneBases r.threads).find? (fits b), freeContext s core cls rs b with
        | some l, some c => some { sub := b, lane := l, ctx := c }
        | _, _ => none

/-- Lowest start of n free KiB below `top`, given the ranges in use. A group that asks for none gets start 0, which segment 1 shows as
its base: Table 4.2's row of R97 gives only the limit then (DESIGN CHOICE, log entry 57). -/
def placeKib (used : List (Nat × Nat)) (top n : Nat) : Option Nat :=
  if n = 0 then some 0
  else (List.range (top + 1 - n)).find? fun b => !(used.any fun r => r.1 < b + n && b < r.1 + r.2)

/-- A group has a header array (R172). -/
def needsHeaders (r : TaskRecord) : Bool := r.slots != 0 || r.ztiles != 0

/-- What a core gives a group: its seat, and in KiB its scratchpad, header array and mesh buffer; its accumulator tiles. -/
structure Room where
  seat : Seat
  sp : Nat
  hdr : Option Nat
  mesh : Option Nat
  tiles : List Nat
  deriving DecidableEq, Repr

/-- The class a group runs at: its own, or the waiter's during an adopted phase (R51, R303). -/
def runClass (g : Group) : Nat := match g.adopt with | some (_, c) => c | none => g.record.cls

/-- A group with matrix resources that runs at a lower class (R299). -/
def isMatrixGroup (g : Group) : Bool := runClass g != 0 && needsHeaders g.record

/-- A core has admitted a lower-class group with matrix resources that is resident there, or pre-empted and to resume there (R299). -/
def matrixResident (s : State) (core : Nat) : Bool :=
  s.groups.any fun g => g.core == core && (g.run == .resident || g.run == .preempted) && isMatrixGroup g

/-- A lower-class group leaves the class-0 reserve of a reserved core free (R51, R298, R299). -/
def leavesReserve (s : State) (core cls kib slots tiles : Nat) (r : TaskRecord) : Bool :=
  let v := (clusterOf s (clusterOfCore core)).resv.toNat
  cls == 0 || !(isReserved s core) ||
    (decide (kib + field v 4 10 ≤ kibFree s core) && decide (slots + field v 14 9 ≤ slotsFree s core) &&
     decide (tiles + field v 23 5 ≤ tilesFree s core) && !(needsHeaders r && matrixResident s core))

/-- The room that a core has for the scratchpad, slots and tiles of a fresh group, or of a continuation that holds none. -/
def storesFor (s : State) (core cls : Nat) (r : TaskRecord) (fresh : Bool) (seat : Seat) : Option Room :=
  let top := 512 - tileAreaKib s core
  let h := if needsHeaders r then 1 else 0
  let m := if fresh && r.kind == 2 then 13 else 0
  let z := if fresh then r.ztiles else 0
  let sp := if fresh then r.spkib else 0
  let used := kibUsed s core
  if r.slots > slotsFree s core || z > tilesFree s core || !(leavesReserve s core cls (sp + h + m) r.slots z r) then none
  else
    match placeKib used top sp with
    | none => none
    | some a =>
      match placeKib ((a, sp) :: used) top h with
      | none => none
      | some b =>
        match placeKib ((a, sp) :: (b, h) :: used) top m with
        | none => none
        | some c =>
          let free := (List.range Config.accTiles).filter fun n => !((tilesUsed s core).contains n)
          some { seat := seat, sp := a, hdr := if h = 0 then none else some b, mesh := if m = 0 then none else some c,
                 tiles := free.take z }

/-- The room that a core has for a group at a class, with `rs` as the groups that keep their lanes (R26, R51): `g` is the
parked group of a continuation. -/
def roomAmong (s : State) (core cls : Nat) (rs : List Group) (r : TaskRecord) (g : Option Group) : Option Room :=
  match seatFor s core cls rs r with
  | none => none
  | some seat =>
    match g with
    | none => storesFor s core cls r true seat
    | some g =>
      if holdsPinned g then
        -- what it holds already takes nothing more of the reserve
        if cls = 0 || !(isReserved s core) || !(needsHeaders r && matrixResident s core) then
          some { seat := seat, sp := g.spBase / 1024, hdr := g.hdrBase.map (· / 1024), mesh := g.meshBase.map (· / 1024), tiles := g.ztiles }
        else none
      else storesFor s core cls r false seat

/-- The room that a core has for a group now. -/
def roomFor (s : State) (core cls : Nat) (r : TaskRecord) (g : Option Group) : Option Room :=
  roomAmong s core cls (residents s core) r g

end Sys2Proof.Machine
end

