-- ==== Sys2Proof/Machine/Raster.lean ====
section
/-! DEFINITION. The rasteriser of a die: tiles and their slots, the start of a strip, the sample groups of a primitive, their
launches, the reconstruction record of a tile (spec/14_geometry_and_tile_queues.md R345 to R353, spec/16_view_and_tree_tables.md
R376 to R383). -/
namespace Sys2Proof.Machine

/-! ## Tiles (R347, R350, R352, R353) -/

/-- Byte offset in a core's scratchpad of a slot of its tile-buffer area (R347, R350). -/
def slotBase (s : State) (core slot : Nat) : Nat := Config.scratchBytes - 1024 * tileAreaKib s core + 6400 * slot

/-- An empty sample record (Table 14.5). -/
def emptySample : List Byte := leBytes (0x7F800000 + 2 ^ 32 * 0xFFFFFFFF) 16

/-- The slot of a tile is held by an earlier tile of the die that has not been released (R347). -/
def slotHeld (s : State) (die part core slot : Nat) : Bool :=
  (dieOf s die).frames.any fun f => f.part == part && f.tiles.any fun t => t.assigned && !t.released && t.core == core && t.slot == slot

/-- A tile takes its slot when it is free: every record becomes empty. -/
def assignTile (die grid : Nat) (s : State) (t : Tile) : State :=
  match frameOf s die grid with
  | none => s
  | some f =>
    if t.assigned || slotHeld s die f.part t.core t.slot then s
    else
      let s := scratchStore s t.core (slotBase s t.core t.slot) ((List.range 400).flatMap fun _ => emptySample)
      modFrame s die grid fun f => { f with tiles := updFirst (fun x => x.q == t.q) (fun x => { x with assigned := true }) f.tiles }

/-- Every tile of a die's frames takes its slot where it can, in order of tile number, older frames first. -/
def assignTiles (s : State) (die : Nat) : State :=
  (dieOf s die).frames.foldl (fun s f => f.tiles.foldl (assignTile die f.grid) s) s

/-- A tile of a frame. -/
def tileOf (f : Frame) (q : Nat) : Option Tile := f.tiles.find? fun t => t.q == q

/-- A frame with a tile updated. -/
def updTile (f : Frame) (q : Nat) (u : Tile → Tile) : Frame := { f with tiles := updFirst (fun t => t.q == q) u f.tiles }

/-- Every strip deadline that a frame keeps has arrived (R402). -/
def deadlinesOver (f : Frame) : Bool := f.timing.all fun e => !(hasDeadlines f e.1 e.2) || decide (tget f.deadlines 0 e.1 ≥ e.2.k)

/-- Frames whose strips are closed, whose tiles are all released and whose deadlines have arrived are forgotten, and with the last
frame of a number the timing captured for it, unless its scan-out is still to come. -/
def dropFrames (s : State) (die : Nat) : State :=
  let gone (f : Frame) : Bool := frameClosed f && f.tiles.all (fun t => t.released) && deadlinesOver f
  let s := modDie s die fun d => { d with frames := d.frames.filter fun f => !(gone f) }
  let live (o : Nat) (n : Word) : Bool := s.dies.any fun d => d.2.frames.any fun f => f.fnum == n && (tfind f.timing o).isSome
  let keep (o : Nat) (x : Output) (c : Capture) : Bool := live o c.timing.fnum || (x.dmode.getLsbD 0 && c.timing.fper != 0)
  { s with outputs := s.outputs.map fun e => (e.1, { e.2 with captures := e.2.captures.filter (keep e.1 e.2) }) }

/-- The sample lies in the buffer of a tile: its place there, counted from the corner of the apron (R350). -/
def apronPlace (t : Tile) (i jr : Nat) : Option (Nat × Nat) :=
  let x := i + 2
  let y := jr + 2
  if 16 * t.tx ≤ x && decide (x < 16 * t.tx + 20) && 16 * t.ty ≤ y && decide (y < 16 * t.ty + 20) then some (x - 16 * t.tx, y - 16 * t.ty)
  else none

/-! ## Launches (R346, R352) -/

/-- The record of a group that the front end launches from a template, pinned to the core of its tile. -/
def launchRecord (f : Frame) (tmpl : TaskRecord) (kind cls gfirst threads core : Nat) : TaskRecord :=
  { tmpl with
    kind := kind, cls := cls, part := f.part, world := f.world, prec := 0, carry := 0, variant := 0, gfirst := gfirst % 2 ^ 32
    gcount := 1, threads := threads, pin := true, pcore := core }

/-- The front end enqueues a record it has formed, as a grid with no parent; one that is invalid is discarded with event code 1. -/
def launchFormed (s : State) (r : TaskRecord) (info : GfxInfo) : State :=
  if recordValid r r.part then acceptRecord s r 0 (clusterOfCore r.pcore) false info none else hostEvent s r.part 1 r.farr r.kdesc

/-- The launch of a sample group is held while a tile that it reaches counts 65,535 (R352). -/
def launchHeld (f : Frame) (l : Launch) : Bool :=
  l.info.reach.any fun q => match tileOf f q with | some t => decide (t.count ≥ 65535) | none => false

/-- A launched record of the strip waits for landing room: nothing further of the strip is launched (R284). -/
def launchWaits (s : State) (f : Frame) (strip : Nat) : Bool :=
  s.clusters.any fun c => c.2.waiting.any fun l => l.any fun e =>
    match e.info with | .sample i => i.frame == f.grid && i.strip == strip | _ => false

/-- One sample group is launched: the tiles it reaches count it (R346, R352). -/
def launchGroup (die grid : Nat) (s : State) (l : Launch) : State :=
  match frameOf s die grid with
  | none => s
  | some f =>
    if launchHeld f l || launchWaits s f l.info.strip then s
    else
      let core := ((tileOf f l.info.q).map fun t => t.core).getD 0
      let r := launchRecord f f.stmpl 3 f.stmpl.cls f.launched l.info.samples.length core
      let counted (f : Frame) : Frame :=
        if recordValid r r.part then l.info.reach.foldl (fun f q => updTile f q fun t => { t with count := t.count + 1 }) f else f
      let s := modFrame s die grid fun f =>
        counted { f with launched := f.launched + 1, launches := f.launches.filter fun x => x.seqNo != l.seqNo }
      launchFormed s r (.sample l.info)

/-- Every sample group that a frame has formed and that is not held is launched, in the order they were formed. -/
def launchAll (die grid : Nat) (s : State) : State :=
  match frameOf s die grid with
  | none => s
  | some f => f.launches.foldl (launchGroup die grid) s

/-! ## The samples of a primitive (R381, R382) -/

/-- A bin record as the rasteriser reads it (Table 14.6). -/
structure BinRecord where
  v0 : Int × Int
  v1 : Int × Int
  v2 : Int × Int
  key : Word
  view : Nat
  strip : Nat
  vwords : List Word

/-- A bin record from its 2,048 bits. -/
def parseBin (v : Nat) : BinRecord :=
  let at' (k : Nat) : Int := toSigned 64 (field v (64 * k) 64)
  { v0 := (at' 0, at' 1), v1 := (at' 2, at' 3), v2 := (at' 4, at' 5), key := BitVec.ofNat 32 (field v 384 32)
    view := field v 416 3, strip := field v 419 4, vwords := natWords (v / 2 ^ 512) 36 }

/-- VA of bin record r of a frame (R345). -/
def binVa (f : Frame) (r : Nat) : Nat := f.bins + 2048 + 256 * r

/-- The bin records of a strip, in order; one that cannot be read is passed over, and event 9 records it. -/
def stripBins (f : Frame) (k : Nat) (s : State) : State × List BinRecord :=
  (List.range f.binsUsed).foldl
    (fun (acc : State × List BinRecord) r =>
      match hwRead acc.1 f.part f.world (binVa f r) 256 with
      | (s, .error e) => (recordEvent s f.part (some e), acc.2)
      | (s, .ok bs) =>
        let b := parseBin (leNat bs)
        (s, if b.strip = k then acc.2 ++ [b] else acc.2)) (s, [])

/-- The samples of a strip of a view with their snapped positions, in raster order (R346, R379). -/
def stripSamples (v : ViewEntry) (l : Latch) : List (Nat × Nat × (Int × Int)) :=
  (List.range l.rows).flatMap fun jr => (List.range (axisCount l.x)).filterMap fun i =>
    (samplePoint l.x l.y v.k1 v.k2 i (l.jFirst + jr)).map fun p => (i, l.jFirst + jr, p)

/-- The samples that a primitive covers. -/
def coveredSamples (b : BinRecord) (ps : List (Nat × Nat × (Int × Int))) : List Sample :=
  if areaOf b.v0 b.v1 b.v2 = 0 then []
  else
    (ps.filter fun p => covered b.v0 b.v1 b.v2 p.2.2).map fun p =>
      let e := edges b.v0 b.v1 b.v2 p.2.2
      { i := p.1, j := p.2.1, e0 := e.1, e1 := e.2.1, e2 := e.2.2 }

/-- A list cut into lists of n. -/
def chunksOf {α : Type} (n : Nat) : Nat → List α → List (List α)
  | 0, _ => []
  | _ + 1, [] => []
  | fuel + 1, l => l.take n :: chunksOf n fuel (l.drop n)

/-- The sample groups of a primitive: for each tile that holds covered samples, in raster order, at most the template's threads
each (R346). -/
def groupsOfBin (die : Nat) (f : Frame) (l : Latch) (tiles : List Tile) (ps : List (Nat × Nat × (Int × Int))) (b : BinRecord) :
    List SampleInfo :=
  let ss := coveredSamples b ps
  tiles.flatMap fun t =>
    let mine := ss.filter fun x => x.i / 16 == t.tx && (x.j - l.jFirst) / 16 == t.ty
    (chunksOf (max f.stmpl.threads 1) mine.length mine).map fun c =>
      let reach := tiles.filter fun u => c.any fun x => (apronPlace u x.i (x.j - l.jFirst)).isSome
      { die := die, part := f.part, frame := f.grid, view := l.view, strip := l.strip, q := t.q, key := b.key, vwords := b.vwords
        samples := c, reach := reach.map fun u => u.q }

/-! ## The start of a strip (R346, R347, R376, R377) -/

/-- The warp of every enabled view as strip k latches it. -/
def latchStrip (s : State) (f : Frame) (k : Nat) : List Latch :=
  f.views.map fun e =>
    let gaze := s.gazeOld.getD e.1 0
    let w := viewWarps e.2 gaze
    let rows := stripRows w.2 k (frameStrips f)
    { view := e.1, strip := k, gaze := gaze, x := w.1, y := w.2, jFirst := rows.1, rows := rows.2 }

/-- The latch record of a view (R377); one that cannot be written is not, and event 9 records it. -/
def writeLatch (f : Frame) (s : State) (l : Latch) : State :=
  let v := l.gaze.toNat + 2 ^ 32 * f.fnum.toNat + 2 ^ 64 * s.devtime
  match hwWrite s f.part f.world (f.bins + 16 * (8 * l.strip + l.view)) (leBytes v 16) with
  | (s, e) => recordEvent s f.part e

/-- The tiles of a strip in the order of R347, numbered from `first` on. -/
def stripTiles (f : Frame) (ls : List Latch) (first : Nat) : List Tile :=
  let places := ls.flatMap fun l =>
    (List.range (tileRows l)).flatMap fun ty => (List.range (tileCols l)).map fun tx => (l.view, l.strip, tx, ty)
  let c := f.pool.length
  (enumFrom first places).map fun e =>
    let (view, strip, tx, ty) := e.2
    { q := e.1, view := view, strip := strip, tx := tx, ty := ty, core := f.pool.getD (e.1 % c) 0, slot := e.1 / c % f.ts
      -- the deadline of the strip has come before its start (R402)
      late := match f.views.find? fun v => v.1 == view with
        | some v => decide (tget f.deadlines 0 v.2.panel > strip)
        | none => false }

/-- The next strip of a frame may start (R346): the geometry is closed and every output's raster-start time has come. -/
def stripDue (s : State) (f : Frame) : Bool :=
  f.geomClosed && decide (f.started < frameStrips f) &&
  f.timing.all fun e => !(hasDeadlines f e.1 e.2) || timeReached s.devtime (rasterStart e.2 f.started)

/-- STRIP_START (R346): the next strip of the partition's open frame latches its warps, numbers its tiles, and its sample groups
are formed and launched. -/
def startStrip (s : State) (die : Nat) (f : Frame) : State :=
  let k := f.started
  let ls := latchStrip s f k
  let s := ls.foldl (writeLatch f) s
  let tiles := stripTiles f ls f.tiles.length
  let (s, bins) := stripBins f k s
  let infos := ls.flatMap fun l =>
    match f.views.find? fun v => v.1 == l.view with
    | none => []
    | some v =>
      let ps := stripSamples v.2 l
      let mine := tiles.filter fun t => t.view == l.view
      (bins.filter fun b => b.view == l.view).flatMap (groupsOfBin die f l mine ps)
  let base := f.launched + f.launches.length
  let s := modFrame s die f.grid fun f =>
    { f with
      started := k + 1
      latches := f.latches ++ ls
      tiles := f.tiles ++ tiles
      launches := f.launches ++ (enumFrom base infos).map fun e => { info := e.2, seqNo := e.1 } }
  let s := launchAll die f.grid (assignTiles s die)
  -- the bin records are freed when the last strip closes (R345)
  dropFrames s die

/-- The next strip of the partition's open frame starts if it is due. -/
def startDue (die part : Nat) (s : State) : State :=
  match openFrameOf s die part with
  | none => s
  | some f => if stripDue s f then startStrip s die f else s

/-- STRIP_START (R346). -/
def execStripStart (die part : Nat) (s : State) : Res := .next (startDue die part s)

/-! ## Tile completion (R352, R353) -/

/-- The reconstruction record of a tile may be enqueued: its strip has closed, its count is zero, it has its slot. -/
def reconDue (f : Frame) (t : Tile) : Bool := viewStripClosed f t.view t.strip && t.count == 0 && t.assigned && !t.enqueued

/-- What a reconstruction group knows of its tile. -/
def reconInfo (die : Nat) (f : Frame) (t : Tile) : SampleInfo :=
  { die := die, part := f.part, frame := f.grid, view := t.view, strip := t.strip, q := t.q, key := 0, vwords := [], samples := []
    reach := [] }

/-- TILE_RECONSTRUCTION_ENQUEUE (R352): the record from the view's template, exactly once. -/
def execTileReconstructionEnqueue (die part tile : Nat) (s : State) : Res :=
  let found := (dieOf s die).frames.findSome? fun f =>
    if f.part != part then none else (f.tiles.find? fun t => t.q == tile && reconDue f t).map fun t => (f, t)
  .next (match found with
    | none => s
    | some (f, t) =>
      match f.views.find? fun v => v.1 == t.view with
      | none => s
      | some v =>
        let s := modFrame s die f.grid fun f => updTile f t.q fun t => { t with enqueued := true }
        launchFormed s (launchRecord f v.2.rtmpl 4 0 t.q v.2.rtmpl.threads t.core) (.recon (reconInfo die f t)))

/-! ## Retirement -/

/-- What the retirement of a group of a graphics identity does to the tiles of its frame: a sample group lowers the counts of the tiles it reaches, and
launches that waited for them go; a reconstruction group releases its slot (R352, R353). -/
def retireTiles (s : State) (info : GfxInfo) : State :=
  match info with
  | .sample i =>
    let s := i.reach.foldl (fun s q => modFrame s i.die i.frame fun f => updTile f q fun t => { t with count := t.count - 1 }) s
    launchAll i.die i.frame s
  | .recon i =>
    dropFrames (assignTiles (modFrame s i.die i.frame fun f => updTile f i.q fun t => { t with released := true }) i.die) i.die
  | _ => s

end Sys2Proof.Machine
end

