-- ==== Sys2Proof/Machine/Grids.lean ====
section
/-! DEFINITION. The life of a grid after its acceptance: fusion, the checks of its first dispatch, failure at dispatch, retirement
of its groups, completion (spec/12_task_queues.md R291, R302, R306, R465, spec/09_memories.md R221, spec/10_memory_model.md R244,
R251, spec/14_geometry_and_tile_queues.md R340, R341, R352, R353). -/
namespace Sys2Proof.Machine

/-! ## Host lines and fusion -/

/-- Every clean line of host memory that a partition holds in L2 is discarded (R244). -/
def dropHostLines (s : State) (part : Nat) : State :=
  let clean (l : L2Line) : L2Line :=
    if isHost (512 * l.line) && l.part == part then { l with sectors := l.sectors.filter (fun e => e.2.dirty), packed := none } else l
  { s with dies := s.dies.map fun d => (d.1, { d.2 with l2 := (d.2.l2.map clean).filter fun l => l.packed.isSome || !(l.sectors.isEmpty) }) }

/-- Every dirty line of host memory that a partition holds in L2 is written back (R244). -/
def flushHostLines (s : State) (part : Nat) : State :=
  s.dies.foldl
    (fun s d => d.2.l2.foldl (fun s l => if isHost (512 * l.line) && l.part == part then l2WriteBack s d.1 l.line else s) s) s

/-- Cores of a cluster. -/
def clusterCores (g : Nat) : List Nat := (List.range 8).map fun i => 8 * g + i

/-- Every clean byte of an L1 discarded, of pages without write permission too: what a change of fusion asks, unlike an acquire
(R219, R221). -/
def dropAllClean (s : State) (core : Nat) : State :=
  modCore s core fun c => { c with l1 := (c.l1.map fun l => { l with clean := [] }).filter fun l => !(l.dirty.isEmpty) }

/-- Drain and discard of a cluster's L1s, after the accesses in flight (R221). -/
def settleL1s (s : State) (cluster : Nat) : State :=
  let s := performAll s fun o => clusterOfCore o.core == cluster
  (clusterCores cluster).foldl (fun s c => dropAllClean (drainFlume (combineFlush s c) c) c) s

/-- A fusing grid has a group on a cluster (R221). -/
def beginFusion (s : State) (cluster grid : Nat) : State :=
  let fused := (clusterOf s cluster).fused
  if fused.contains grid then s
  else modCluster (if fused.isEmpty then settleL1s s cluster else s) cluster fun c => { c with fused := c.fused ++ [grid] }

/-- A fusing grid has completed (R221). -/
def endFusion (grid : Nat) (s : State) (cluster : Nat) : State :=
  let fused := (clusterOf s cluster).fused
  if !(fused.contains grid) then s
  else modCluster (if fused = [grid] then settleL1s s cluster else s) cluster fun c => { c with fused := c.fused.filter (· != grid) }

/-! ## The checks of a grid's first dispatch (R251, R336) -/

/-- The ownership table of a deterministic grid: none when it or a listed ticket breaks R251, or its VA is zero (R89). -/
def readOwnership (s : State) (r : TaskRecord) (kd : KDesc) : State × Option (List OwnEntry) :=
  if kd.otab = 0 || kd.ocount = 0 || kd.ocount > 256 then (s, none)
  else
    match hwRead s r.part r.world kd.otab (16 * kd.ocount) with
    | (s, .error _) => (s, none)
    | (s, .ok bs) =>
      let es := (List.range kd.ocount).map fun i => parseOwn (leNat ((bs.drop (16 * i)).take 16))
      let ticketOk (acc : State × Bool) (va : Nat) : State × Bool :=
        if va = 0 then acc
        else
          match translateParts acc.1 (hwCtx r.part r.world) .rw (splitSectors va 8) with
          | (s, .error _) => (s, false)
          | (s, .ok ps) =>
            let (s, _, bad) := readPieces s (hwCtx r.part r.world) ps
            (s, acc.2 && !bad && ps.all fun p => p.attr.mtype == 0)
      let (s, good) := kd.ticks.foldl ticketOk (s, true)
      (s, if good && es.all (fun e => e.2) && ownOrdered (es.map fun e => e.1) then some (es.map fun e => e.1) else none)

/-- A deterministic grid's ownership table, at its first dispatch (R251). False when the dispatch fails. -/
def readFirstTable (s : State) (g : Grid) (r : TaskRecord) (kd : KDesc) : State × Bool :=
  if r.det && g.table.isNone then
    match readOwnership s r kd with
    | (s, none) => (s, false)
    | (s, some t) =>
      (modGrid s g.id fun x => { x with table := some t, stg := kd.stg, stgE := kd.stgE, ticks := kd.ticks }, true)
  else (s, true)

/-- A task-stage grid's frame, at its first dispatch (R336). False when the dispatch fails. -/
def openFirstFrame (s : State) (g : Grid) (r : TaskRecord) : State × Bool :=
  if r.kind = 1 && (frameOf s (dieOfCluster g.cluster) g.id).isNone then
    match openFrame s g with
    | (s, none) => (s, false)
    | (s, some _) => (s, true)
  else (s, true)

/-- What the first dispatch of a grid does: a deterministic grid's table, a task-stage grid's frame. False when it fails. -/
def firstDispatch (s : State) (g : Grid) (r : TaskRecord) (kd : KDesc) : State × Bool :=
  match readFirstTable s g r kd with
  | (s, false) => (s, false)
  | (s, true) => openFirstFrame s g r

/-! ## Payload slots (R340, R341) -/

/-- A group helps on some core. -/
def isHelping (s : State) (gk : Nat) : Bool := s.cores.any fun c => c.2.help.any fun l => l.waiter == gk && !l.taken

/-- A queued continuation belongs to a group. -/
def contQueued (s : State) (gk : Nat) : Bool :=
  s.clusters.any fun c => c.2.decks.any (fun l => l.any fun e => e.cont == some gk) ||
    c.2.landings.any (fun l => l.any fun e => e.2.cont == some gk) || c.2.waiting.any fun l => l.any fun e => e.cont == some gk

/-- A helper whose wait is over by another's doing: its level tests nothing when the adopted phase ends. -/
def endHelp (s : State) (gk : Nat) : State :=
  let take (l : HelpLevel) : HelpLevel := if l.waiter == gk then { l with taken := true } else l
  { s with cores := s.cores.map fun c => (c.1, { c.2 with help := c.2.help.map take }) }

/-- A slot of a payload ring frees: it is kept for the head of the waiter list, which becomes runnable, helping or not (R341). -/
def freeSlotOf (s : State) (at' : Nat × Nat) : State :=
  let c := clusterOf s at'.1
  match c.ringWait with
  | [] => modCluster s at'.1 fun c => { c with ring := c.ring.set at'.2 {} }
  | w :: ws =>
    let s := modCluster s at'.1 fun c => { c with ring := c.ring.set at'.2 { reserved := some w }, ringWait := ws }
    if contQueued s w then s else enqueueCont (endHelp s w) w

/-- A slot of a payload ring that a failed waiter kept goes to the next waiter of the ring (R341). -/
def settleRing (s : State) (cluster : Nat) : State :=
  let c := clusterOf s cluster
  match c.ringWait, (enumFrom 0 c.ring).find? fun e => e.2.owner.isNone && e.2.reserved.isNone with
  | _ :: _, some e => freeSlotOf s (cluster, e.1)
  | _, _ => s

/-! ## Completion and retirement (R291, R302, R306) -/

/-- A grid completes: its release, which writes every dirty host line back (R244), its future, its parent, its task-table entry; then
what it held is given back and parked waiters of the partition are tested (R291, R302, R303). A record whose dispatch failed stays
in its deck (R48). -/
def completeGrid (s : State) (id : Nat) : State :=
  match gridOf s id with
  | none => s
  | some g =>
    let r := g.record
    let s := flushHostLines s r.part
    let s :=
      if r.cfut = 0 then s
      else
        match settleFuture s r.part r.world r.cfut 0 g.failed with
        | (s, f) => recordEvent s r.part f
    let s := if g.parent = 0 then s else childDone s r.part r.world g.parent g.failed
    let s := entryUpdate s g fun e => setField e 32 3 (if g.failed then 5 else 4)
    let s := (List.range Config.clusters).foldl (endFusion id) s
    let unreplicate (l : L2Line) : L2Line := { l with replicas := l.replicas.filter fun x => x.grid != id }
    let keep (e : DeckEntry) : Bool := e.failed || e.grid != id
    let clean (c : Cluster) : Cluster :=
      { c with
        decks := c.decks.map fun l => l.filter keep
        landings := c.landings.map fun l => l.filter fun x => keep x.2
        waiting := c.waiting.map fun l => l.filter keep }
    let s :=
      { s with
        dies := s.dies.map fun d => (d.1, { d.2 with l2 := d.2.l2.map unreplicate })
        clusters := s.clusters.map fun e => (e.1, clean e.2)
        groups := s.groups.filter fun x => !(x.grid == id && x.run == .retired)
        grids := s.grids.filter fun x => x.id != id }
    let s := match g.paySlot with | some p => freeSlotOf s p | none => s
    let s := if r.kind = 1 then dropFrames (closeGeometry s g) (dieOfCluster g.cluster) else s
    retest s (s.waiters.filter fun w => w.part == r.part)

/-- n groups of a grid count as retired: the decrement of remain that reaches zero completes it (R291). A grid record that
cannot be updated leaves the grid incomplete (R465). -/
def retireGroups (s : State) (id n : Nat) : State :=
  match gridOf s id with
  | none => s
  | some g =>
    match hwUpdate s g.record.part g.record.world g.record.farr 64 fun v => setField v 0 64 (g.remain - n) with
    | (s, some f) => recordEvent s g.record.part (some f)
    | (s, none) =>
      let s := modGrid s id fun x => { x with remain := x.remain - n }
      if g.remain ≤ n then completeGrid s id else s

/-- A dispatch-time check of a record fails (R306): the grid fails, its unstarted groups never run and count as retired. -/
def failDispatch (s : State) (id gid : Nat) : State :=
  match gridOf s id with
  | none => s
  | some g =>
    if g.failedAtDispatch then s
    else
      let (s, f) := hwUpdate s g.record.part g.record.world g.record.farr 64 fun v =>
        if bitOf v 320 then v else setField (setField (setField v 320 1 1) 256 32 gid) 288 32 fcRecord
      let s := recordEvent s g.record.part f
      let s := modGrid s id fun x => { x with failed := true, failedAtDispatch := true }
      retireGroups s id (g.total - g.started)

/-- The step in which a group of a deterministic grid ended is committed. One that failed waits for that only as the last of its grid,
which completes with it: the takes and resets of the step come first (R250, R256). -/
def stepCommitted (s : State) (g : Group) : Bool :=
  match gridOf s g.grid with
  | none => true
  | some x => decide (g.stepsEnded ≤ x.commits) || (g.failed && decide (x.remain > 1))

/-- A group may retire (R31, R307): every live thread has exited, no operation or command of it is outstanding, its children are
complete, and in a deterministic grid its last step is committed (R250). -/
def mayRetire (s : State) (g : Group) : Bool :=
  let core := coreOf s g.core
  g.run == .exited && g.saved.isEmpty && !(s.ops.any fun o => o.gk == g.gk) && !((core.mqueue ++ core.mrun.toList).any fun m => m.gk == g.gk) &&
  (!g.record.det || stepCommitted s g) &&
  (match (hwRead s g.record.part g.record.world g.frame 64).2 with
    | .ok bs => field (leNat bs) 0 32 == 0
    | .error _ => true)

/-- A group that would retire and whose frame record cannot be read fails first (R465; log entry 44). -/
def frameFault (s : State) (g : Group) : Option FaultInfo :=
  match (hwRead s g.record.part g.record.world g.frame 64).2 with
  | .ok _ => none
  | .error f => if g.failed then none else some f

/-- GROUP_RETIREMENT (R291): the group releases, with the acquire of its children's completions (R241), gives back what it holds, and
its grid counts it as retired. -/
def execGroupRetirement (gk : Nat) (s : State) : Res :=
  .next (match groupOf s gk with
    | none => s
    | some g =>
      if !(mayRetire s g) then s
      else
        let s := match frameFault s g with | some f => failRecord s gk f | none => s
        let s := acquireCore (releaseGroup s gk) g.core
        let s := settleRing (retireTiles s g.gfx) (clusterOfGroup g)
        let s :=
          if g.record.det then
            modGroup s gk fun g => { g with run := .retired, threads := [], hdrs := [], ihdrs := [], ztiles := [], hdrBase := none, meshBase := none }
          else { s with groups := s.groups.filter fun x => x.gk != gk }
        retireGroups s g.grid 1)

end Sys2Proof.Machine
end

