-- ==== Sys2Proof/Machine/Dispatching.lean ====
section
/-! DEFINITION. Dispatch, stealing and the start of a phase (spec/12_task_queues.md R294 to R297, spec/02_execution_model.md R47 to
R51, spec/04_registers.md R97, R110). -/
namespace Sys2Proof.Machine

/-! ## The start of a phase (R294) -/

/-- Kind of a group's graphics identity at its start (R336, R340, R346, R352). -/
def startInfo (s : State) (g : Grid) (e : DeckEntry) : GfxInfo :=
  match e.record.kind with
  | 1 =>
    let die := dieOfCluster g.cluster
    .task die (((frameOf s die g.id).map fun f => f.fnum).getD 0)
  | 2 => match g.paySlot with | some (c, k) => .mesh c k false | none => .mesh g.cluster 4 false
  | _ => e.info

/-- Segments of a group at a dispatch on a core (R97): `own` gives the base and limit of segments 5 to 7. -/
def startSegs (s : State) (core : Nat) (r : TaskRecord) (kd : KDesc) (frame spBase : Nat) (own : List Segment) : List Segment :=
  let area := 1024 * tileAreaKib s core
  let sg (b l : Nat) : Segment := { base := BitVec.ofNat 64 b, limit := BitVec.ofNat 64 l }
  [sg 0 (2 ^ 57), sg spBase (1024 * r.spkib), sg r.arg kd.argsz, sg (frameArea kd frame) kd.fsz,
   sg (Config.scratchBytes - area) (if r.kind = 0 then 0 else area)] ++ own

/-- Segments 5 to 7 as the kernel descriptor gives them. -/
def kdescSegs (kd : KDesc) : List Segment := kd.segs.map fun x => { base := x.1, limit := x.2 }

/-- A thread at the start of its group (Table 4.1). -/
def freshThread (n idx : Nat) (pc : DWord) (age : Nat) : Thread :=
  { idx := idx, regs := List.replicate n 0, winHi := BitVec.ofNat 7 (n - 1), pc := pc, hdr := pc, age := age }

/-- A thread as the phase record restores it with n carried registers, of `total` declared ones (R292, R94). -/
def carriedThread (bs : List Byte) (total n idx : Nat) (live : Bool) (pc : DWord) (age : Nat) : Thread :=
  let t := loadBlock (freshThread total idx pc age) (leNat ((bs.drop (512 + 8 * idx)).take 8))
  let reg (k : Nat) : Word := if k < n then BitVec.ofNat 32 (leNat ((bs.drop (1536 + 512 * k + 4 * idx)).take 4)) else 0
  { t with
    regs := (List.range total).map reg
    winHi := if t.winHi.toNat > total - 1 then BitVec.ofNat 7 (total - 1) else t.winHi
    status := if live then .ready else .exited }

/-- What the checks of a dispatch find: the kernel descriptor, the variant, and the phase record of a continuation. -/
structure Prepared where
  kd : KDesc
  variant : Nat
  phase : List Byte

/-- Variant k of a descriptor. -/
def variantOf (kd : KDesc) (k : Nat) : Variant := kd.variants.getD k { pc := 0, bound := 0, regs := 16, carry := 0, valid := false }

/-- How the checks of a dispatch end: it may go on, a check failed, or the access to the group's own phase record faulted (R306,
R465). -/
inductive Checked where
  | good (p : Prepared)
  | invalid
  | lost (kd : KDesc) (f : FaultInfo)

/-- The reads and checks of a dispatch (R25, R47, R48, R287, R288, R465). -/
def prepare (s : State) (r : TaskRecord) : State × Checked :=
  match hwRead s r.part r.world r.kdesc 256 with
  | (s, .error _) => (s, .invalid)
  | (s, .ok kb) =>
    let kd := parseKDesc (leNat kb)
    if !(kdescValid kd) || kd.variants.any (fun v => v.valid && decide (v.regs > 8 * r.regs8)) then (s, .invalid)
    else
      let (s, size) : State × Option Nat :=
        if r.szsel = 0 then (s, some (2 ^ 32 - 1))
        else
          match hwRead s r.part r.world (r.arg + 4 * (r.szsel - 1)) 4 with
          | (s, .ok bs) => (s, some (leNat bs))
          | (s, .error _) => (s, none)
      match size with
      | none => (s, .invalid)
      | some size =>
        let v := chooseVariant kd size
        if r.prec = 0 then (s, .good { kd := kd, variant := v, phase := [] })
        else if (variantOf kd v).regs < r.carry then (s, .invalid)
        else
          match hwRead s r.part r.world r.prec (1536 + 512 * r.carry) with
          | (s, .error f) => (s, .lost kd f)
          | (s, .ok bs) => (s, .good { kd := kd, variant := v, phase := bs })

/-- A thread that continues where its group parked keeps the clause header of that place (R68). -/
def keepHeader (parked : Option Group) (t : Thread) : Thread :=
  match parked.bind fun g => threadOf g t.idx with
  | some x => if x.pc = t.pc then { t with hdr := x.hdr } else t
  | none => t

/-- The threads of a group at the start of a phase, each with an age of its own. -/
def startThreads (s : State) (r : TaskRecord) (p : Prepared) (parked : Option Group) : State × List Thread :=
  let n := (variantOf p.kd p.variant).regs
  let pc : DWord :=
    if r.prec = 0 then BitVec.ofNat 64 (variantOf p.kd p.variant).pc else BitVec.ofNat 64 (leNat (p.phase.take 8))
  let live := leNat ((p.phase.drop 8).take 16)
  let one (i : Nat) : Thread :=
    if r.prec = 0 then freshThread n i pc (s.names + i) else carriedThread p.phase n r.carry i (bitOf live i) pc (s.names + i)
  ({ s with names := s.names + r.threads }, (List.range r.threads).map fun i => keepHeader parked (one i))

/-- The affine registers, segments, control registers and segset of a group at the start of a phase. -/
def startGroupState (s : State) (core : Nat) (r : TaskRecord) (p : Prepared) (spBase : Nat) (g : Group) : Group :=
  let hdr := leNat (p.phase.take 512)
  if r.prec = 0 then
    { g with
      affine := { base := BitVec.ofNat 64 r.arg, stride := 0 } :: List.replicate 15 {}
      segs := startSegs s core r p.kd g.frame spBase (kdescSegs p.kd)
      segset := 0
      ctl := {} }
  else
    let segset : BitVec 3 := BitVec.ofNat 3 (field hdr 208 3)
    let own := (enumFrom 0 ((loadSegs hdr).zip (kdescSegs p.kd))).map fun e => if segset.getLsbD e.1 then e.2.1 else e.2.2
    { g with
      affine := loadAffine hdr
      segs := startSegs s core r p.kd g.frame spBase own
      segset := segset
      ctl := loadCtl g.ctl hdr }

/-- What a fresh group takes of its core is cleared: scratchpad, mesh buffer, accumulator tiles (R215, R342, R102). -/
def clearRoom (s : State) (core : Nat) (r : TaskRecord) (room : Room) : State :=
  modCore s core fun c =>
    let wipe (m : Mem × List Nat) (b n : Nat) : Mem × List Nat := (memClear m.1 b n, clearUnits m.2 b n)
    let sp := wipe (c.scratch, c.scratchPoison) (1024 * room.sp) (1024 * r.spkib)
    let sp := match room.mesh with | some b => wipe sp (1024 * b) (13 * 1024) | none => sp
    let ac := room.tiles.foldl (fun m t => wipe m (16384 * t) 16384) (c.acc, c.accPoison)
    { c with scratch := sp.1, scratchPoison := sp.2, acc := ac.1, accPoison := ac.2 }

/-- A group whose phase record shows no live thread has exited (R31). -/
def settleStart (s : State) (gk : Nat) : State :=
  match groupOf s gk with
  | some g => if (liveThreads g).isEmpty then groupExit s gk else s
  | none => s

/-- The group of a fresh record whose phase record cannot be read: it starts, and fails with the fault in its frame (R413, R465). -/
def failFresh (s : State) (core gid : Nat) (e : DeckEntry) (grid : Grid) (kd : KDesc) (room : Room) (f : FaultInfo) : State × Option Nat :=
  let r := e.record
  let (s, name) := fresh s
  let g : Group :=
    { gk := name, grid := e.grid, gid := gid, record := r, kd := kd, core := core, ctx := room.seat.ctx, laneBase := room.seat.lane
      subBase := room.seat.sub, frame := frameVa r kd grid.gfirst0 gid, gfx := startInfo s grid e, admitted := name }
  let s := modGrid { s with groups := s.groups ++ [g] } e.grid fun x => { x with started := x.started + 1 }
  let (s, _) := hwWrite s r.part r.world g.frame (leBytes (frameRecord r grid.parent) 64)
  (failRecord s name f, some name)

/-- A phase of a group starts on a core in the room found for it: `e` is its record, `parked` its group when it is a
continuation; none when a check of the dispatch fails (R294, R306). A fusing grid joins its cluster's L1s once the checks have
passed (R221). -/
def startPhase (s : State) (core : Nat) (e : DeckEntry) (gid : Nat) (parked : Option Group) (room : Room)
    (adopt : Option (Nat × Nat)) : State × Option Nat :=
  let r := { e.record with gfirst := gid, gcount := 1 }
  match gridOf s e.grid with
  | none => (s, none)
  | some grid =>
    -- the acquire of the dispatch
    let s := acquireCore s core
    let s := if grid.hostLaunched then dropHostLines s r.part else s
    match prepare s r with
    | (s, .invalid) => (s, none)
    | (s, .lost kd f) =>
      match parked with
      | some g => (failRecord s g.gk f, some g.gk)
      | none => failFresh s core gid { e with record := r } grid kd room f
    | (s, .good p) =>
      match firstDispatch s grid r p.kd with
      | (s, false) => (s, none)
      | (s, true) =>
        let s := if r.fuse then beginFusion s (clusterOfCore core) e.grid else s
        let (s, threads) := startThreads s r p parked
        let (s, name) := fresh s
        let frame := match parked with | some g => g.frame | none => frameVa r p.kd grid.gfirst0 gid
        let base : Group := match parked with
          | some g => g
          | none =>
            { gk := name, grid := e.grid, gid := gid, record := r, kd := p.kd, core := core, frame := frame
              gfx := startInfo s grid e
              hdrs := if needsHeaders r then List.replicate 32 {} else []
              ihdrs := if needsHeaders r then List.replicate 32 {} else []
              ztiles := room.tiles }
        let g := startGroupState s core r p (1024 * room.sp)
          { base with
            record := { r with variant := p.variant }, kd := p.kd, run := .resident, core := core, ctx := room.seat.ctx
            laneBase := room.seat.lane, subBase := room.seat.sub, regCount := (variantOf p.kd p.variant).regs
            variant := p.variant, threads := threads, patterns := [], barriers := [0, 0, 0, 0], admitted := name
            spBase := 1024 * room.sp, hdrBase := room.hdr.map (1024 * ·), meshBase := room.mesh.map (1024 * ·), adopt := adopt
            awaiting := false }
        match parked with
        | some _ => (settleStart { s with groups := updFirst (fun x => x.gk == g.gk) (fun _ => g) s.groups } g.gk, some g.gk)
        | none =>
          let s := clearRoom { s with groups := s.groups ++ [g] } core r room
          let s := modGrid s e.grid fun x => { x with started := x.started + 1 }
          -- the frame record, and frame word 0 of every thread (R290, R157)
          let (s, f) := hwWrite s r.part r.world frame (leBytes (frameRecord r grid.parent) 64)
          let (s, f') : State × Option FaultInfo :=
            if p.kd.fsz < 4 then (s, none) else hwWrite s r.part r.world (frameArea p.kd frame) (leBytes 0 (4 * r.threads))
          match f.orElse fun _ => f' with
          | some f => (failRecord s g.gk f, some g.gk)
          | none => (settleStart s g.gk, some g.gk)

/-! ## Taking a record -/

/-- A deck entry after its lowest unstarted group has left it (R285, R296): none when no group is left. -/
def takeGroup (e : DeckEntry) : Option DeckEntry :=
  let r := e.record
  let limit := r.gfirst + r.gcount
  if e.cont.isSome then none
  else
    match e.split with
    | none => if r.gcount ≤ 1 then none else some { e with record := { r with gfirst := r.gfirst + 1, gcount := r.gcount - 1 } }
    | some sp =>
      (nextServed r sp limit (r.lcores + 1) (r.gfirst + 1)).map fun n =>
        { e with record := { r with gfirst := n, gcount := limit - n } }

/-- A deck, landing or waiting list after a group has left one of its entries. -/
def leaveList (e : DeckEntry) (l : List DeckEntry) : List DeckEntry :=
  match takeGroup e with
  | some e' => updFirst (fun x => x.seq == e.seq) (fun _ => e') l
  | none => l.filter fun x => x.seq != e.seq

/-- A landing after a group has left one of its entries, in memory too. -/
def leaveLanding (part cluster cls : Nat) (s : State) (e : DeckEntry) : State :=
  match (landingOf s cluster cls).find? fun x => x.2.seq == e.seq with
  | none => s
  | some x =>
    match takeGroup e with
    | none => setLanding s cluster cls ((landingOf s cluster cls).filter fun y => y.2.seq != e.seq)
    | some e' =>
      let (s, f) := hwWrite s part false (landingVa s part cluster cls x.1) (leBytes (encodeRecord e'.record) 64)
      let s := recordEvent s part f
      setLanding s cluster cls (updFirst (fun y => y.2.seq == e.seq) (fun y => (y.1, e')) (landingOf s cluster cls))

/-- The lowest unstarted group leaves an entry, wherever the entry lies (R285, R303). -/
def leaveQueue (s : State) (cluster cls : Nat) (e : DeckEntry) : State :=
  let s := leaveLanding e.record.part cluster cls s e
  let s := setWaiting s cluster cls (leaveList e (waitingOf s cluster cls))
  setDeck s cluster cls (leaveList e (deckOf s cluster cls))

/-- The task-table entry when a group is dispatched or adopted (R302). The last unstarted group leaves its record: 2 running. The
parked group that the entry names, by its phase record, runs again: 2, or, while unstarted groups remain, 1 with their record's place. -/
def noteDispatch (s : State) (id : Nat) (parked : Option Group) : State :=
  match gridOf s id with
  | none => s
  | some g =>
    let left := decide (g.started < g.total) && !g.failedAtDispatch
    match parked with
    | none => if left then s else entryUpdate s g fun e => setField e 32 3 2
    | some p =>
      entryUpdate s g fun e =>
        if !(entryState e == 3 && field e 64 57 == phaseRecordVa p) then e
        else if left then
          let e := setField (setField e 32 3 1) 64 57 g.record.farr
          match unstartedPlace s id with
          | some (c, inland, slot) => setPlace e c inland slot
          | none => e
        else setField e 32 3 2

/-- The parked group of a continuation's entry. -/
def parkedOf (s : State) (e : DeckEntry) : Option Group := e.cont.bind fun gk => groupOf s gk

/-- An entry whose dispatch failed is marked so where it lies (R48). -/
def markEntry (s : State) (cluster cls : Nat) (e : DeckEntry) : State :=
  let mark (x : DeckEntry) : DeckEntry := if x.seq == e.seq then { x with failed := true } else x
  let s := setLanding s cluster cls ((landingOf s cluster cls).map fun y => (y.1, mark y.2))
  let s := setWaiting s cluster cls ((waitingOf s cluster cls).map mark)
  setDeck s cluster cls ((deckOf s cluster cls).map mark)

/-- Dispatch the lowest unstarted group of an entry of a deck on a core, in the room found for it (R294). A record whose dispatch
fails stays where it is, marked failed (R48). -/
def dispatchEntry (s : State) (core cluster cls : Nat) (e : DeckEntry) (room : Room) (adopt : Option (Nat × Nat)) : State × Option Nat :=
  let parked := parkedOf s e
  match startPhase s core e e.record.gfirst parked room adopt with
  | (s, some gk) => (noteDispatch (leaveQueue s cluster cls e) e.grid parked, some gk)
  | (s, none) =>
    let s := markEntry s cluster cls e
    -- a continuation whose dispatch fails takes its group with it
    let s := match e.cont with
      | some gk => failGroup s gk (BitVec.ofNat 32 fcRecord) 0
      | none => retireTiles s e.info
    (failDispatch s e.grid e.record.gfirst, none)

/-! ## Eligibility (R294, R336, R438) -/

/-- The cores that a pinned record may run on, seen from a core of cluster `mine`, the record lying in a deck of `cluster`: those of
the deck's cluster for a fresh group of kinds 0 to 2, else `pcore` alone (Table 12.3). -/
def pinAllows (mine cluster : Nat) (core : Option Nat) (e : DeckEntry) : Bool :=
  if e.cont.isNone && e.record.kind < 3 then mine == cluster
  else match core with
    | some c => e.record.pcore == c
    | none => clusterOfCore e.record.pcore == mine

/-- Only cluster `mine` can run the record, which lies in a deck of `cluster`: a pinned record, or one of a deterministic grid (R24,
R438). -/
def onlyHere (mine cluster : Nat) (e : DeckEntry) : Bool :=
  (e.split.isSome && mine == cluster) || (e.record.pin && pinAllows mine cluster none e) || (e.cont.isSome && e.record.det && mine == cluster)

/-- A continuation of a deterministic grid waits for the commit of the step it has ended (R250). -/
def stepReady (s : State) (e : DeckEntry) : Bool :=
  match parkedOf s e, gridOf s e.grid with
  | some g, some x => !g.record.det || decide (g.stepsEnded ≤ x.commits)
  | _, _ => true

/-- A task-stage record of another frame waits until the partition's open frame has closed (R336). -/
def frameReady (s : State) (e : DeckEntry) : Bool :=
  if e.record.kind != 1 then true
  else
    match gridOf s e.grid with
    | none => false
    | some g =>
      match openFrameOf s (dieOfCluster g.cluster) e.record.part with
      | none => true
      | some f => f.grid == g.id

/-- A record that lies in a deck of `cluster` is eligible on a core (R294). -/
def eligible (s : State) (core cluster : Nat) (e : DeckEntry) : Bool :=
  let mine := clusterOfCore core
  let r := e.record
  let fresh := e.cont.isNone
  !e.failed && ((gridOf s e.grid).any fun g => !fresh || !g.failedAtDispatch) &&
  (!r.pin || pinAllows mine cluster (some core) e) &&
  (!r.det || mine == cluster) && secureCluster s mine == r.world && ownerOf s mine == some r.part &&
  (!(gated s mine) || (!(s.cgated.getLsbD mine) && onlyHere mine cluster e)) &&
  (mine == cluster || !(r.kind == 1 || r.kind == 2) || dieOfCluster mine == dieOfCluster cluster) &&
  stepReady s e && frameReady s e

/-- The oldest of some entries. -/
def oldest (l : List DeckEntry) : Option DeckEntry :=
  l.foldl (fun b e => match b with | none => some e | some x => if e.seq < x.seq then some e else some x) none

/-- The record a core dispatches next from its own decks: class and entry (R50). -/
def ownPick (s : State) (core : Nat) : Option (Nat × DeckEntry) :=
  let g := clusterOfCore core
  [0, 1, 2, 3].findSome? fun cls => (oldest ((deckOf s g cls).filter (eligible s core g))).map fun e => (cls, e)

/-- An adopted phase has ended: its group no longer runs adopted and does not itself help (R44). -/
def levelOver (s : State) (l : HelpLevel) : Bool :=
  match l.adopted with
  | none => true
  | some p => !(isHelping s p) && (match groupOf s p with | some g => g.adopt.isNone | none => true)

/-- An adopted phase of a core has ended and the waited object is not tested yet: the core runs nothing else between (R44). -/
def testDue (s : State) (core : Nat) : Bool := (coreOf s core).help.any (levelOver s)

/-- GROUP_DISPATCH (R294): the oldest eligible record of the highest class, if its next group fits (R50). -/
def execGroupDispatch (core : Nat) (s : State) : Res :=
  .next (if testDue s core || clocksGated s then s
    else
      match ownPick s core with
      | none => s
      | some (cls, e) =>
        match roomFor s core cls e.record (parkedOf s e) with
        | none => s
        | some room => (dispatchEntry s core (clusterOfCore core) cls e room none).1)

/-! ## Steals (R295) -/

/-- The record an idle core steals: cluster, class and entry. -/
def stealPick (s : State) (core : Nat) : Option (Nat × Nat × DeckEntry) :=
  let mine := clusterOfCore core
  let others := match ownerOf s mine with | some p => (partClusters s p).filter fun g => g != mine | none => []
  [0, 1, 2, 3].findSome? fun cls =>
    let can (g : Nat) : Option DeckEntry :=
      oldest ((deckOf s g cls).filter fun e => !e.record.det && !e.record.pin && eligible s core g e)
    let rich := others.filter fun g => (can g).isSome
    let best := rich.foldl (fun (b : Option Nat) g => match b with
      | none => some g
      | some x => if (deckOf s g cls).length > (deckOf s x cls).length then some g else some x) none
    best.bind fun g => (can g).map fun e => (g, cls, e)

/-- STEAL (R295): an idle core without an eligible record of its own dispatches one group of another cluster's record. -/
def execSteal (core : Nat) (s : State) : Res :=
  .next (if !((residents s core).isEmpty) || gated s (clusterOfCore core) || testDue s core || clocksGated s || (ownPick s core).isSome then s
    else
      match stealPick s core with
      | none => s
      | some (g, cls, e) =>
        match roomFor s core cls e.record (parkedOf s e) with
        | none => s
        | some room => countEvent (dispatchEntry s core g cls e room none).1 core 7 1)

/-- SKIDDER_REFILL (R284): below the low-water mark the oldest records of the landing move to the deck; launches of the rasteriser
that waited for the room go on. -/
def execSkidderRefill (cluster cls : Nat) (s : State) : Res :=
  .next (match (if clocksGated s then none else ownerOf s cluster) with
    | none => s
    | some p =>
      let s := admitWaiting p cluster cls (waitingOf s cluster cls).length s
      if (deckOf s cluster cls).length < Config.deckLow && !((landingOf s cluster cls).isEmpty) then
        let s := refillMany p cluster cls Config.deckRefill s
        s.dies.foldl (fun s d => d.2.frames.foldl (fun s f => launchAll d.1 f.grid s) s) s
      else s)

end Sys2Proof.Machine
end

