-- ==== Sys2Proof/Machine/Helping.lean ====
section
/-! DEFINITION. Help on wait: the chain of owners, adoption, the end of an adopted phase, parking
(spec/02_execution_model.md R44 to R46, spec/12_task_queues.md R303, R304, spec/13_task_instructions.md R314). -/
namespace Sys2Proof.Machine

/-- What the chain of R303 comes to. -/
inductive Chased where
  /-- The object waited on is ready. -/
  | ready
  | park
  /-- The lowest unstarted group of a record, or a parked group, that fits the core. -/
  | adopt (cluster cls : Nat) (e : DeckEntry) (room : Room)

/-- A fresh record of a grid, wherever it lies: cluster, class, entry. -/
def unstartedOf (s : State) (grid : Nat) : Option (Nat × Nat × DeckEntry) :=
  (List.range Config.clusters).findSome? fun g => [0, 1, 2, 3].findSome? fun cls =>
    ((deckOf s g cls ++ (landingOf s g cls).map (fun x => x.2) ++ waitingOf s g cls).find? fun e =>
      e.grid == grid && e.cont.isNone && !e.failed).map
      fun e => (g, cls, e)

/-- The queued continuation of a group: cluster, class, entry. -/
def queuedCont (s : State) (gk : Nat) : Option (Nat × Nat × DeckEntry) :=
  (List.range Config.clusters).findSome? fun g => [0, 1, 2, 3].findSome? fun cls =>
    ((deckOf s g cls ++ (landingOf s g cls).map (fun x => x.2) ++ waitingOf s g cls).find? fun e => e.cont == some gk).map
      fun e => (g, cls, e)

/-- What a parked group waits on: in the list of waiters, or as a helper's own wait. -/
def waitOf (s : State) (gk : Nat) : Option Waiter :=
  (s.waiters.find? fun w => w.gk == gk).orElse fun _ =>
    (s.cores.findSome? fun c => c.2.help.find? fun l => l.waiter == gk && !l.taken).map fun l =>
      { gk := l.waiter, kind := l.kind, obj := l.obj, part := l.part, world := l.world }

/-- The room that a core has for the group of an entry, if its owner is adoptable there for a waiter of class cls (R45): its grid has not
failed at a dispatch (R306), it is not deterministic, of the waiter's partition and world, not pinned elsewhere, and fits; a gated
cluster adopts no fresh group that another can run (R24). -/
def adoptable (s : State) (core cls part : Nat) (world : Bool) (x : Nat × Nat × DeckEntry) : Option Room :=
  let e := x.2.2
  let r := e.record
  let mine := clusterOfCore core
  let pinned := r.pin && !(pinAllows mine x.1 (some core) e)
  let far := (r.kind == 1 || r.kind == 2) && dieOfCluster mine != dieOfCluster x.1
  let shut := e.cont.isNone &&
    (((gridOf s e.grid).any fun g => g.failedAtDispatch) || (gated s mine && (s.cgated.getLsbD mine || !(onlyHere mine x.1 e))))
  if e.failed || r.det || r.part != part || r.world != world || pinned || far || shut || !(frameReady s e) then none
  else roomFor s core cls r (parkedOf s e)

/-- What adoption of an entry comes to. -/
def adoptEntry (s : State) (core cls part : Nat) (world : Bool) (x : Nat × Nat × DeckEntry) : Chased :=
  match adoptable s core cls part world x with
  | some room => .adopt x.1 x.2.1 x.2.2 room
  | none => .park

/-- The parked group that a task-table entry in state 3 names. -/
def namedGroup (s : State) (part e : Nat) : Option Group :=
  s.groups.find? fun p => p.run == .parked && p.record.part == part && phaseRecordVa p == field e 64 57

/-- The wait at which a parked group's phase ended, as its phase record and the place of its continuation show it: none at `await`,
`phase` and a payload ring, whose wobj is 0 (R303, R341). -/
def keptWait (p : Group) : Option Waiter :=
  match p.wait with
  | some (.payload, _) => none
  | some (k, obj) => some { gk := p.gk, kind := k, obj := obj, part := p.record.part, world := p.record.world }
  | none => none

/-- The continuation of a parked group as a record, queued or not. -/
def contEntry (s : State) (p : Group) : Nat × Nat × DeckEntry :=
  (queuedCont s p.gk).getD (clusterOfGroup p, p.record.cls, { record := p.record, grid := p.grid, seq := s.names, cont := some p.gk })

/-- Follow the owners from an object that a group waits on, at most `links` objects, for a waiter `w0` of class cls (R303, R45). The
lowest unstarted group of an owner in state 1, or of the task that holds a ring's oldest slot (R341); of an owner in state 3 its
parked group, queued or not, unless the object of its wait is not ready. A group that waits for a payload slot has no object to follow, and
is not adopted, like one at `await` (DESIGN CHOICE, log entry 32). -/
def chase (core cls : Nat) (w0 : Waiter) : Nat → State → Waiter → State × Chased
  | 0, s, _ => (s, .park)
  | links + 1, s, w =>
    match objectReady s w.gk w.kind w.obj w.part w.world with
    | (s, true) => (s, .ready)
    | (s, false) =>
      match objectOwner s w.gk w.kind w.obj w.part w.world with
      | (s, none) => (s, .park)
      | (s, some owner) =>
        match readEntry s w.part owner with
        | (s, none) => (s, .park)
        | (s, some e) =>
          if field e 0 32 != owner then (s, .park)
          else if entryState e = 1 || (entryState e = 3 && w.kind == .payload) then
            match s.grids.find? fun g => g.recorded && g.record.taskid == owner && g.record.part == w.part with
            | none => (s, .park)
            | some g => (s, ((unstartedOf s g.id).map (adoptEntry s core cls w0.part w0.world)).getD .park)
          else if entryState e = 3 then
            match namedGroup s w.part e with
            | none => (s, .park)
            | some p =>
              match queuedCont s p.gk, keptWait p with
              | some x, none => (s, adoptEntry s core cls w0.part w0.world x)
              | none, none => (s, .park)
              | _, some w' =>
                if (adoptable s core cls w0.part w0.world (contEntry s p)).isNone then (s, .park)
                else
                  match objectReady s w'.gk w'.kind w'.obj w'.part w'.world with
                  | (s, true) => (s, adoptEntry s core cls w0.part w0.world (contEntry s p))
                  | (s, false) => chase core cls w0 links s w'
          else (s, .park)

/-- A waiter parks on its object (R314); one on a payload ring is on the ring's own list (R341). -/
def parkWaiter (s : State) (w : Waiter) : State :=
  if w.kind = .payload then s else { s with waiters := s.waiters ++ [w] }

/-- A helper's wait is over: it becomes runnable. -/
def releaseWaiter (s : State) (w : Waiter) : State :=
  if w.kind = .payload then (if contQueued s w.gk then s else enqueueCont s w.gk)
  else
    let s := markFailed s w.kind w.obj w.part w.world
    wakeWaiter s w

/-- A parked group that an adoption takes waits no longer: as a waiter it leaves the list, and as a helper whose object is ready it is
taken from its own core's help, which goes on with the phase it adopted (R303). -/
def takeParked (s : State) (gk : Nat) : State :=
  match waitOf s gk with
  | none => s
  | some w =>
    let s := countWaiter (markFailed s w.kind w.obj w.part w.world) w.part w.world w.obj w.kind (2 ^ 32 - 1)
    endHelp { s with waiters := s.waiters.filter fun x => x.gk != gk } gk

/-- The core of a waiter helps (R303): it makes the waiter runnable, adopts a phase for it, or parks it. A dispatch that fails
ends the adopted phase at once, and the object is tested again. -/
def help (core : Nat) (w : Waiter) : Nat → State → State
  | 0, s => parkWaiter s w
  | n + 1, s =>
    match groupOf s w.gk with
    | none => s
    | some g =>
      match chase core g.record.cls w 4 s w with
      | (s, .ready) => releaseWaiter s w
      | (s, .park) => parkWaiter s w
      | (s, .adopt cluster cls e room) =>
        if adoptd s core ≥ 4 then parkWaiter s w
        else
          let s := match e.cont with | some p => takeParked s p | none => s
          match dispatchEntry s core cluster cls e room (some (adoptd s core + 1, g.record.cls)) with
          | (s, none) => help core w n s
          | (s, some p) =>
            let level : HelpLevel :=
              { waiter := w.gk, kind := w.kind, obj := w.obj, part := w.part, world := w.world, adopted := some p }
            countEvent (modCore s core fun c => { c with help := c.help ++ [level] }) core 6 1

/-- The object of a helper's wait may be tested again: the adopted phase has ended, and a group that ended with it has retired if it
may, so that the completion of its grid comes first (R44, R291). -/
def levelDone (s : State) (l : HelpLevel) : Bool :=
  levelOver s l && (l.adopted.bind (groupOf s)).all fun g => !(mayRetire s g)

/-- ADOPTED_PHASE_END (R44): the deepest adopted phase of a core that has ended: the waited object is tested again. -/
def execAdoptedPhaseEnd (core : Nat) (s : State) : Res :=
  .next (match (coreOf s core).help.reverse.find? (levelDone s) with
    | none => s
    | some l =>
      let s := modCore s core fun c => { c with help := c.help.filter fun x => x != l }
      match groupOf s l.waiter with
      | none => s
      | some g =>
        if l.taken || g.run != .parked then s
        else help core { gk := l.waiter, kind := l.kind, obj := l.obj, part := l.part, world := l.world } 8 s)

end Sys2Proof.Machine
end

