-- ==== Sys2Proof/Machine/System.lean ====
section
/-! DEFINITION. The system instructions: control registers, segments, pattern slots, performance counters and the return from a
handler (spec/06_lane_instructions.md R154, R165 to R169, spec/04_registers.md R98, R103 to R105, spec/17_counters.md R404). -/
namespace Sys2Proof.Machine

/-- Register number of `ctlr` and `ctlw` (R165). -/
def ctlNumber (o : TaskOp) : Nat := o.imm.toNat % 2 ^ 12

/-- A control register read or written at a privilege (R103): the fault it raises, if any. -/
def ctlFault (s : State) (g : Group) (t : Thread) (n : Nat) (write : Bool) : Option FaultInfo :=
  if !t.inSup then
    if supOnly n || n ≥ 0x200 || (write && n ≥ 0x100) then some { cls := fcPermission } else none
  else if n ≥ 0x200 && outside s g.record.part n then some { cls := fcPartition }
  else none

/-- The value of a control register for a thread. -/
def ctlValue (s : State) (g : Group) (t : Thread) (n : Nat) : Word :=
  if n < 0x100 then groupReg s g n
  else if n < 0x200 then coreReg s g.core n
  else if n = 0x281 then t.timeHi.getD (half s.devtime 1)
  else deviceReg s (.sup g.record.part) n

/-- `ctlr` for one thread, a latch producer (Table 3.6); a read of 0x280 captures the high half (R398). -/
def ctlReadThread (s : State) (o : TaskOp) (g : Group) (t : Thread) : LaneOut :=
  let n := ctlNumber o
  if !(guardTrue t o.g) then plain (keep32 t false o.d)
  else
    match ctlFault s g t n false with
    | some f => .error f
    | none =>
      let v := ctlValue s g t n
      plain (put32 (if n = 0x280 then { t with timeHi := some (half s.devtime 1) } else t) false o.d v)

/-- `ctlr` (R165). -/
def execCtlr (o : TaskOp) (s : State) : Res := .next (runLanes s 2 (ctlReadThread s o))

/-- Values that the threads of a group in the head issue group with a true guard give a register (R166). -/
def ctlValues (s : State) (o : TaskOp) (gk : Nat) : List Word :=
  (headThreads s gk).filterMap fun tid =>
    match memberOf s (gk, tid) with
    | some (g, t) =>
      if guardTrue t o.g && (ctlFault s g t (ctlNumber o) true).isNone then
        match readSrc32 .int g t o.b with
        | .ok v => some v
        | .error _ => none
      else none
    | none => none

/-- The other issue groups of a group keep reading what stood before until their next clause boundary (R98, R104); the writing
issue group's own view takes the write. -/
def keepViews (s : State) (g : Group) (f : StaleView → StaleView) : State :=
  let old : StaleView := { gk := g.gk, ctl := g.ctl, segs := g.segs }
  let other (i : Issue) : Issue :=
    if i.members.any (fun m => m.1 == g.gk) && !(i.stale.any fun v => v.gk == g.gk) then { i with stale := i.stale ++ [old] } else i
  match s.issues with
  | [] => s
  | i :: r => { s with issues := { i with stale := updFirst (fun v => v.gk == g.gk) f i.stale } :: r.map other }

/-- A group-scope register written for a group: the lowest-indexed thread's value, with the flag-clearing ones of all (R166). -/
def ctlWriteGroup (o : TaskOp) (s0 s : State) (gk : Nat) : State :=
  match ctlValues s0 o gk, groupOf s gk with
  | v :: r, some g =>
    let n := ctlNumber o
    let ones := (v :: r).foldl (fun (a : Word) (b : Word) => a ||| b) 0
    let s := keepViews s g fun w => { w with ctl := groupWrite w.ctl n v ones }
    modGroup s gk fun g => { g with ctl := groupWrite g.ctl n v ones }
  | _, _ => s

/-- `ctlw` for one thread: its privilege, and a device-scope write of its own (R103, R166). The spec orders the fault of an access that is
refused and the register-index fault of its source in no way: the refused access comes first (DESIGN CHOICE, log entry 48). -/
def ctlWriteThread (o : TaskOp) (s : State) (g : Group) (t : Thread) : State × Option FaultInfo :=
  let n := ctlNumber o
  match ctlFault s g t n true, readSrc32 .int g t o.b with
  | some f, _ => (s, some f)
  | none, .error f => (s, some f)
  | none, .ok v => (if n ≥ 0x200 then deviceWrite s (.sup g.record.part) n v else s, none)

/-- `ctlw` (R165, R166): core-scope registers are read-only (R108). -/
def execCtlw (o : TaskOp) (s : State) : Res :=
  let s' := if ctlNumber o < 0x100 then (headGroups s).foldl (ctlWriteGroup o s) s else s
  .next (runThreads s' 2 o.g (ctlWriteThread o))

/-- A group of the head issue group has a thread with a true guard that may run a privileged instruction. -/
def segwMay (s : State) (o : TaskOp) (gk : Nat) : Bool :=
  (headThreads s gk).any fun tid =>
    match memberOf s (gk, tid) with
    | some (_, t) => guardTrue t o.g && t.inSup
    | none => false

/-- Both affine operands of `segw` are uniform. -/
def segwUniform (g : Group) (o : TaskOp) : Bool := (affOf g o.ao.toNat).stride == 0 && (affOf g o.as.toNat).stride == 0

/-- `segw` for a group (R167, R98). -/
def segwGroup (o : TaskOp) (s0 s : State) (gk : Nat) : State :=
  match groupOf s gk with
  | none => s
  | some g =>
    if segwMay s0 o gk && segwUniform g o then
      let n := o.tx.toNat % 8
      let new : Segment := { base := (affOf g o.ao.toNat).base, limit := (affOf g o.as.toNat).base }
      let s := keepViews s g fun w => { w with segs := w.segs.set n new }
      modGroup s gk fun g =>
        { g with segs := g.segs.set n new, segset := if n ≥ 5 then g.segset ||| (1#3 <<< (n - 5)) else g.segset }
    else s

/-- `segw` (R167): at user privilege an illegal-instruction fault; a nonzero stride is a non-uniform operand. -/
def execSegw (o : TaskOp) (s : State) : Res :=
  let s' := (headGroups s).foldl (segwGroup o s) s
  .next (runThreads s' 2 o.g fun s g t =>
    if !t.inSup then (s, some { cls := fcIllegalInstr })
    else if !(segwUniform g o) then (s, some { cls := fcNonUniform })
    else (s, none))

/-- Address of the table of `xbld` (R154). -/
def xbldVa (g : Group) (o : TaskOp) : Nat := ((affOf g o.ao.toNat).base + o.imm.signExtend 64).toNat

/-- The 128 bytes of a pattern table, read as a normal load of the acting thread (R154). R252 governs the accesses of a deterministic
grid through segments, and this one goes through none: of a shared line it reads memory, without what the group has staged (DESIGN
CHOICE, log entry 57). -/
def xbldRead (s : State) (g : Group) (t : Thread) (va : Nat) : State × Except FaultInfo (List Byte) :=
  if va % 128 != 0 then (s, .error { cls := fcMisaligned, va := BitVec.ofNat 64 va })
  else if va ≥ 2 ^ 57 then (s, .error { cls := fcAddress, va := BitVec.ofNat 64 va })
  else
    let s := performThread s g.gk t.idx
    match resolveParts s (ctxOf g t) .r 0 [(va, 128)] with
    | (s, .error f) => (s, .error f)
    | (s, .ok ps) =>
      let (s, bs, bad) := loadPieces s (ctxOf g t) 0 g.grid ps
      if bad then (s, .error (poisonAt va)) else (s, .ok bs)

/-- The acting thread of a group in the head issue group: its lowest-indexed thread with a true guard (R313). -/
def actingThread (s : State) (gd : Guard) (gk : Nat) : Option Thread :=
  (headThreads s gk).findSome? fun tid =>
    match memberOf s (gk, tid) with
    | some (_, t) => if guardTrue t gd then some t else none
    | none => none

/-- The acting threads of the head issue group. -/
def actingMembers (s : State) (gd : Guard) : List (Nat × Nat) :=
  (headGroups s).filterMap fun gk => (actingThread s gd gk).map fun t => (gk, t.idx)

/-- An instruction that the acting thread of each group performs: the other threads complete it with no effect (R154, R313). -/
def runActing (s : State) (gd : Guard) (f : State → Group → Thread → State × Option FaultInfo) : State :=
  let acting := actingMembers s gd
  runThreads s 2 gd fun s g t => if acting.contains (g.gk, t.idx) then f s g t else (s, none)

/-- `xbld` for a group, performed by its acting thread. -/
def xbldThread (o : TaskOp) (s : State) (g : Group) (t : Thread) : State × Option FaultInfo :=
  match xbldRead s g t (xbldVa g o) with
  | (s, .error f) => (s, some f)
  | (s, .ok bs) =>
    let pattern := bs.map fun b => b.setWidth 5
    (modGroup s g.gk fun g =>
      let ps := if g.patterns.isEmpty then List.replicate 8 [] else g.patterns
      { g with patterns := ps.set (o.tx.toNat % 8) pattern }, none)

/-- A group of the head issue group names a nonzero stride in a uniform position. -/
def strided (s : State) (gk : Nat) (a : BitVec 4) : Bool :=
  match groupOf s gk with
  | some g => (affOf g a.toNat).stride != 0
  | none => false

/-- `xbld` (R154): a nonzero stride faults in every thread of the group with a true guard (R76). -/
def execXbld (o : TaskOp) (s : State) : Res :=
  let acting := actingMembers s o.g
  .next (runThreads s 2 o.g fun s g t =>
    if strided s g.gk o.ao then (s, some { cls := fcNonUniform })
    else if acting.contains (g.gk, t.idx) then xbldThread o s g t
    else (s, none))

/-- A performance or error counter for a thread (Table 17.4). -/
def perfCounter (s : State) (g : Group) (n : Nat) : Nat := counterValue s g.core g.record.part n

/-- `perfr` for one thread (R168). -/
def perfThread (o : TaskOp) (s : State) (g : Group) (t : Thread) : State × Option FaultInfo :=
  let n := o.imm.toNat % 2 ^ 8
  if n ≥ 128 && !t.inSup then (s, some { cls := fcPermission })
  else (modThread s g.gk t.idx fun t => setPair t o.d.toNat (BitVec.ofNat 64 (perfCounter s g n)), none)

/-- `perfr` (R168). -/
def execPerfr (o : TaskOp) (s : State) : Res := .next (runThreads s 2 o.g (perfThread o))

/-- `sret` for one thread: outside a handler an illegal instruction, in one the return to the address as its issue group reads it
(R169, R412, R104). -/
def sretThread (s : State) (g : Group) (t : Thread) : State × Option FaultInfo :=
  if !(inHandler t) then (s, some { cls := fcIllegalInstr })
  else (leaveHandler (dropMembers s fun m => m == (g.gk, t.idx)) g.gk t.idx (if t.inSup then g.ctl.svpcr else g.ctl.hpc), none)

/-- `sret` (R169): a thread that returns leaves its issue group at once; the others end their clause. -/
def execSret (o : TaskOp) (s : State) : Res :=
  let site := headSite s
  let out (m : Nat × Nat) : Bool := match memberOf s m with | some (_, t) => guardTrue t o.g | none => false
  let leave (acc : State × List Faulting) (m : Nat × Nat) : State × List Faulting :=
    match memberOf acc.1 m with
    | none => acc
    | some (g, t) =>
      match sretThread acc.1 g t with
      | (s, some e) => (s, acc.2 ++ [{ gk := m.1, tid := m.2, f := e }])
      | (s, none) => (s, acc.2)
  let going := (headMembers s).filter out
  let stay := (headMembers s).any fun m => !(out m)
  let r := going.foldl leave (s, [])
  let s' := if stay then advance r.1 2 (r.2.map fun x => (x.gk, x.tid)) else r.1
  .next (takeFaults s' site r.2)

end Sys2Proof.Machine
end

