-- ==== Sys2Proof/Machine/Tasks.lean ====
section
/-! DEFINITION. The task instructions (spec/13_task_instructions.md R309 to R334) and the steps of deterministic grids
(spec/10_memory_model.md R250 to R256). -/
namespace Sys2Proof.Machine

/-! ## spawn (R317) -/

/-- A frame's pending count would pass 2^32 − 1 with n more children (R397). -/
def pendingFull (s : State) (g : Group) (n : Nat) : Bool :=
  match (hwRead s g.record.part g.record.world g.frame 64).2 with
  | .ok bs => decide (field (leNat bs) 0 32 + n ≥ 2 ^ 32)
  | .error _ => false

/-- The record that `spawn` forms from its template (R317). -/
def spawnRecord (v : Nat) (o : TaskOp) (g : Group) (t : Thread) (farr childseq depth : Nat) : TaskRecord :=
  let r := parseRecord v
  { r with
    arg := (affVal (affOf g o.as.toNat) t.idx).toNat % 2 ^ 57
    farr := farr % 2 ^ 57
    rsv := r.rsv || decide (farr ≥ 2 ^ 57)
    depth := depth + 1
    part := g.record.part
    world := g.record.world
    prec := 0
    carry := 0
    variant := 0
    taskid := if o.tx.getLsbD 0 then (r.taskid + childseq) % 2 ^ 32 else r.taskid }

/-- A `spawn` that passes its checks holds its thread: the landing has no room for the record, or the pending count no room (R284,
R317, R397). -/
def spawnHeld (o : TaskOp) (s : State) (g : Group) (t : Thread) : Bool :=
  match readSrc64 .int g t o.b, (readObject s g t o 64 .r).2, (hwRead s g.record.part g.record.world g.frame 64).2 with
  | .ok farr, .ok v, .ok bs =>
    let fr := leNat bs
    let r := spawnRecord v o g t farr.toNat (field fr 32 32) (field fr 160 4)
    decide (field fr 160 4 < 10) && recordValid r g.record.part &&
    (pendingFull s g 1 || (!r.det && landingLeft s g.record.part (clusterOfGroup g) r.cls == 0))
  | _, _, _ => false

/-- `spawn` for one thread. -/
def spawnThread (o : TaskOp) (s : State) (g : Group) (t : Thread) : State × Option FaultInfo :=
  match readSrc64 .int g t o.b with
  | .error f => (s, some f)
  | .ok farr =>
    match readObject s g t o 64 .r with
    | (s, .error f) => (s, some f)
    | (s, .ok v) =>
      match frameRead s g with
      | (s, none) => (s, none)
      | (s, some fr) =>
        let r := spawnRecord v o g t farr.toNat (field fr 32 32) (field fr 160 4)
        if field fr 160 4 ≥ 10 then (s, some { cls := fcFrameDepth })
        else if !(recordValid r g.record.part) then (s, some { cls := fcRecord, va := BitVec.ofNat 64 (objectVa g o) })
        else
          let s := releaseThread s g.gk t.idx
          let s := frameUpdate s g fun v => setField (setField v 32 32 (field v 32 32 + 1)) 0 32 (field v 0 32 + 1)
          let s := acceptRecord s r g.frame (clusterOfGroup g) false .none none
          (if o.tx.getLsbD 1 then modThread s g.gk t.idx fun t => setReg t o.d.toNat (BitVec.ofNat 32 r.taskid) else s, none)

/-- `spawn` (R317). -/
def execSpawn (o : TaskOp) (s : State) : Res := .next (runPartly s o.g (spawnHeld o) (spawnThread o))

/-! ## await and phase (R318) -/

/-- The phase end of `await` and `phase`, with what follows it. -/
def phaseEnd (o : TaskOp) (follow : State → Group → State) (s : State) : State :=
  let rpc := headNext s
  runGroup s o.g fun s g _ =>
    let n := if o.tx.toNat = 0 then variantCarry g else o.tx.toNat
    if n > g.regCount then .fault s { cls := fcRecord }
    else
      let s := endPhase s g.gk rpc rpc n 0
      match groupOf s g.gk with
      | some g => if g.failed then .left s else .left (follow s g)
      | none => .left s

/-- A step end and the continuation at once (R297, R250). -/
def continueNow (s : State) (g : Group) : State := enqueueCont (endStep s g.gk) g.gk

/-- `phase` (R318). -/
def execPhase (o : TaskOp) (s : State) : Res := .next (phaseEnd o continueNow s)

/-- `await` (R318, R290): the continuation goes on at once when the pending count is zero, else at its decrement to zero. -/
def execAwait (o : TaskOp) (s : State) : Res :=
  .next (phaseEnd o (fun s g =>
    match frameRead s g with
    | (s, none) => s
    | (s, some v) => if field v 0 32 = 0 then continueNow s g else modGroup s g.gk fun g => { g with awaiting := true }) s)

/-! ## Futures, locks, counters without waiting (R320, R321, R325, R329) -/

/-- `fnew` for the acting thread. -/
def fnewThread (o : TaskOp) (s : State) (g : Group) (t : Thread) : State × Option FaultInfo :=
  match readSrc32 .int g t o.b with
  | .error f => (s, some f)
  | .ok b =>
    match readObject s g t o 32 .rw with
    | (s, .error f) => (s, some f)
    | (s, .ok v) =>
      let v := setField (setField v 0 2 (if b = 0 then 0 else 1)) 32 32 b.toNat
      (writeObject s g (objectVa g o) 32 (setField (setField v 64 32 0) 128 64 0), none)

/-- `fnew` (R320). -/
def execFnew (o : TaskOp) (s : State) : Res := .next (runActing s o.g (fnewThread o))

/-- `fput` for the acting thread. -/
def fputThread (o : TaskOp) (s : State) (g : Group) (t : Thread) : State × Option FaultInfo :=
  match readSrc64 .int g t o.b with
  | .error f => (s, some f)
  | .ok b =>
    match readObject s g t o 32 .rw with
    | (s, .error f) => (s, some f)
    | (s, .ok v) =>
      if field v 0 2 ≥ 2 then (s, none)
      else
        let s := releaseThread s g.gk t.idx
        ((settleFuture s g.record.part g.record.world (objectVa g o) b.toNat false).1, none)

/-- `fput` (R321). -/
def execFput (o : TaskOp) (s : State) : Res := .next (runActing s o.g (fputThread o))

/-- `lrel` for the acting thread. -/
def lrelThread (o : TaskOp) (s : State) (g : Group) (t : Thread) : State × Option FaultInfo :=
  match readObject s g t o 16 .rw with
  | (s, .error f) => (s, some f)
  | (s, .ok v) =>
    let va := objectVa g o
    if field v 0 32 != g.record.taskid then (s, some { cls := fcOwnership, va := BitVec.ofNat 64 va, detail := 5 })
    else
      let s := releaseThread s g.gk t.idx
      match waitersOn s g.record.part g.record.world va with
      | [] => (writeObject s g va 16 (setField (setField v 0 32 0) 64 32 0), none)
      | w :: _ =>
        let task := ((groupOf s w.gk).map fun x => x.record.taskid).getD 0
        (wakeWaiter (writeObject s g va 16 (setField (setField v 0 32 0) 64 32 task)) w, none)

/-- `lrel` (R325). -/
def execLrel (o : TaskOp) (s : State) : Res := .next (runActing s o.g (lrelThread o))

/-- A record that the successor of a counter may be (R329). -/
def successorValid (g : Group) (r : TaskRecord) : Bool := recordValid r g.record.part && r.world == g.record.world

/-- A `dcdec` that would fire a valid successor into a full landing holds its thread (R284, R329). -/
def dcdecHeld (o : TaskOp) (s : State) (g : Group) (t : Thread) : Bool :=
  match (readObject s g t o 128 .r).2 with
  | .error _ => false
  | .ok v =>
    let r := parseRecord (field v 512 512)
    successorValid g r && field v 0 32 == 1 && !r.det && landingLeft s g.record.part (clusterOfGroup g) r.cls == 0

/-- `dcdec` for the acting thread. -/
def dcdecThread (o : TaskOp) (s : State) (g : Group) (t : Thread) : State × Option FaultInfo :=
  match readObject s g t o 128 .rw with
  | (s, .error f) => (s, some f)
  | (s, .ok v) =>
    let va := objectVa g o
    let r := parseRecord (field v 512 512)
    if !(successorValid g r) then (s, some { cls := fcRecord, va := BitVec.ofNat 64 va })
    else
      let s := releaseThread s g.gk t.idx
      let n := field v 0 32
      if n = 0 then (s, none)
      else
        let v := setField v 0 32 (n - 1)
        let s := writeObject s g va 128 (if n = 1 then setField v 32 1 1 else v)
        (if n = 1 then acceptRecord s r 0 (clusterOfGroup g) false .none none else s, none)

/-- `dcdec` (R329). -/
def execDcdec (o : TaskOp) (s : State) : Res :=
  let acting := actingMembers s o.g
  .next (runPartly s o.g (fun s g t => acting.contains (g.gk, t.idx) && dcdecHeld o s g t) fun s g t =>
    if acting.contains (g.gk, t.idx) then dcdecThread o s g t else (s, none))

/-! ## Waits (R314, R322 to R332) -/

/-- A wait that is not ready: the update counts the waiter, the phase ends at the wait, and the core helps or the group parks. -/
def parkWait (s : State) (g : Group) (k : WaitKind) (va : Nat) (at' : FaultSite) : GroupOut :=
  let part := g.record.part
  let s := countWaiter s part g.record.world va k 1
  let s := endPhase s g.gk at'.pc at'.hdr (variantCarry g) va
  match groupOf s g.gk with
  | none => .left s
  | some g =>
    let w : Waiter := { gk := g.gk, kind := k, obj := va, part := part, world := g.record.world }
    let s := modGroup s g.gk fun x => { x with wait := some (k, va) }
    if g.failed then .left s else .left (if g.record.det then parkWaiter s w else help g.core w 8 s)

/-- Threads by index updated. -/
def setThreads (s : State) (gk : Nat) (ts : List Thread) (f : Thread → Thread) : State :=
  ts.foldl (fun s t => modThread s gk t.idx f) s

/-- A wait on an object: its checks, its readiness, its effect when ready or its parking (R312 to R314). `refuse` is the fault of
row 8 or 9 of Table 13.2. -/
def runWait (o : TaskOp) (k : State → Group → List Thread → Except FaultInfo WaitKind) (size : Nat)
    (refuse : Group → Nat → Option FaultInfo) (effect : State → Group → List Thread → Nat → State × Option FaultInfo) (s : State) : State :=
  let at' := headSite s
  runGroup s o.g fun s g ts =>
    match (liveThreads g).head?, k s g ts with
    | none, _ => .done s
    | _, .error f => .fault s f
    | some t, .ok k =>
      match readObject s g t o size .rw with
      | (s, .error f) => .fault s f
      | (s, .ok v) =>
        match refuse g v with
        | some f => .fault s f
        | none =>
          match waitReady s g.record.part g.record.taskid g.gid k v with
          | (s, false) => parkWait s g k (objectVa g o) at'
          | (s, true) =>
            match effect s g ts v with
            | (s, some f) => .fault s f
            | (s, none) => .done (acquireCore s g.core)

/-- A wait of one kind. -/
def waitKind (k : WaitKind) (_ : State) (_ : Group) (_ : List Thread) : Except FaultInfo WaitKind := .ok k

/-- No fault of its own. -/
def noRefusal (_ : Group) (_ : Nat) : Option FaultInfo := none

/-- Predicate field of a wait in tx [2:0], or in [5:3]. -/
def txPred (o : TaskOp) (hi : Bool) : BitVec 3 := if hi then o.tx.extractLsb' 3 3 else o.tx.extractLsb' 0 3

/-- `fget` when ready. -/
def fgetEffect (o : TaskOp) (s : State) (g : Group) (ts : List Thread) (v : Nat) : State × Option FaultInfo :=
  let full := field v 0 2 == 2
  let s := if field v 0 2 < 2 then markFailed s .fget (objectVa g o) g.record.part g.record.world else s
  let x : DWord := if full then BitVec.ofNat 64 (field v 128 64) else 0
  (setThreads s g.gk ts fun t => putPred (setPair t o.d.toNat x) (txPred o false) !full, none)

/-- `fget` (R322). -/
def execFget (o : TaskOp) (s : State) : Res := .next (runWait o (waitKind .fget) 32 noRefusal (fgetEffect o) s)

/-- `lacq` when ready: the lock is the task's, and the predicate shows that the old owner had failed. -/
def lacqEffect (o : TaskOp) (s : State) (g : Group) (ts : List Thread) (v : Nat) : State × Option FaultInfo :=
  let failed := field v 0 32 != 0
  let s := modGroup s g.gk fun x => { x with wait := none }
  let s := writeObject s g (objectVa g o) 16 (setField (setField v 0 32 g.record.taskid) 64 32 0)
  (setThreads s g.gk ts fun t => putPred t (txPred o false) failed, none)

/-- `lacq` (R324). -/
def execLacq (o : TaskOp) (s : State) : Res := .next (runWait o (waitKind .lacq) 16 noRefusal (lacqEffect o) s)

/-- The faults of a ring (R327, Table 13.2): its size, and the party registered in the word at bit lo. -/
def ringRefuse (o : TaskOp) (lo : Nat) (g : Group) (v : Nat) : Option FaultInfo :=
  let c := field v 64 4
  let va := BitVec.ofNat 64 (objectVa g o)
  if c = 0 || c > 12 then some { cls := fcRecord, va := va }
  else if field v lo 32 != 0 && field v lo 32 != g.record.taskid then some { cls := fcOwnership, va := va, detail := 4 }
  else none

/-- Predicates of a ring instruction: pd of the first k threads, pf when no entry moved (R328). -/
def ringPreds (o : TaskOp) (s : State) (gk k : Nat) (ts : List Thread) : State :=
  (enumFrom 0 ts).foldl
    (fun s e => modThread s gk e.2.idx fun t => putPred (putPred t (txPred o false) (decide (e.1 < k))) (txPred o true) (k == 0)) s

/-- Entries of a ring read one by one, with every check before the first (R328): the first fault stands. Table 13.2 checks the object of
64 bytes, and the entries lie beyond it: each one that the instruction moves is checked like the object before any moves, also for
poison where `qput` will write it (DESIGN CHOICE, log entry 22). -/
def readEntries (s : State) (g : Group) (t : Thread) (va v from' : Nat) (acc : Acc) : Nat → State × Except FaultInfo (List (List Byte))
  | 0 => (s, .ok [])
  | n + 1 =>
    match objectRead s g t (ringEntryVa va v from') 16 acc with
    | (s, .error f) => (s, .error f)
    | (s, .ok bs) =>
      match readEntries s g t va v (from' + 1) acc n with
      | (s, .error f) => (s, .error f)
      | (s, .ok r) => (s, .ok (bs :: r))

/-- `qput` when ready. -/
def qputEffect (o : TaskOp) (s : State) (g : Group) (ts : List Thread) (v : Nat) : State × Option FaultInfo :=
  let k := min ts.length (ringFree v)
  let va := objectVa g o
  match (liveThreads g).head? with
  | none => (s, none)
  | some t0 =>
    match readEntries s g t0 va v (field v 128 32) .rw k with
    | (s, .error f) => (s, some f)
    | (s, .ok _) =>
      let s := releaseGroup s g.gk
      let put (s : State) (e : Nat × Thread) : State :=
        let bs := (List.range 4).flatMap fun m => leBytes (regOf e.2 (o.d.toNat + m)).toNat 4
        (hwWrite s g.record.part g.record.world (ringEntryVa va v e.1) bs).1
      let s := (enumFrom (field v 128 32) (ts.take k)).foldl put s
      let s := ringPreds o s g.gk k ts
      if k = 0 then (s, none)
      else (wakeAll (writeObject s g va 64 (setField v 128 32 (field v 128 32 + k))) g.record.part g.record.world va, none)

/-- `qput` (R328): the poisoned data registers fault first (R235). -/
def execQput (o : TaskOp) (s : State) : Res :=
  let k (_ : State) (_ : Group) (ts : List Thread) : Except FaultInfo WaitKind :=
    match ts.findSome? fun t => match regChecked t o.d.toNat 4 with | .error f => some f | .ok _ => none with
    | some f => .error f
    | none => .ok .qput
  .next (runWait o k 64 (ringRefuse o 0) (qputEffect o) s)

/-- `qget` when ready. -/
def qgetEffect (o : TaskOp) (s : State) (g : Group) (ts : List Thread) (v : Nat) : State × Option FaultInfo :=
  let k := min ts.length (ringUsed v)
  let va := objectVa g o
  match (liveThreads g).head? with
  | none => (s, none)
  | some t0 =>
    match readEntries s g t0 va v (field v 96 32) .r k with
    | (s, .error f) => (s, some f)
    | (s, .ok es) =>
      let get (s : State) (e : Thread × List Byte) : State := replyRegs s g.gk e.1.idx o.d.toNat (bytesToWords 4 e.2)
      let s := ((ts.take k).zip es).foldl get s
      let s := ringPreds o s g.gk k ts
      if k = 0 then (s, none)
      else (wakeAll (writeObject s g va 64 (setField v 96 32 (field v 96 32 + k))) g.record.part g.record.world va, none)

/-- `qget` (R328). -/
def execQget (o : TaskOp) (s : State) : Res := .next (runWait o (waitKind .qget) 64 (ringRefuse o 32) (qgetEffect o) s)

/-- Listed tickets of a grid at a VA: their slots. -/
def ticketSlots (s : State) (grid va : Nat) : List Nat :=
  match gridOf s grid with
  | none => []
  | some g => (enumFrom 0 g.ticks).filterMap fun e => if e.2 == va && va != 0 then some e.1 else none

/-- A ticket given a value: parked waiters on it are tested (R315). -/
def setTicket (s : State) (part : Nat) (world : Bool) (va v : Nat) : State × Option FaultInfo :=
  match hwWrite s part world va (leBytes v 8) with
  | (s, some f) => (s, some f)
  | (s, none) => (retest s (waitersOn s part world va), none)

/-- `tktake` when ready. -/
def tktakeEffect (o : TaskOp) (s : State) (g : Group) (ts : List Thread) (v : Nat) : State × Option FaultInfo :=
  let va := objectVa g o
  let s := releaseGroup s g.gk
  let s := modGroup s g.gk fun x => { x with taken := x.taken ++ ticketSlots s g.grid va }
  let s := (setTicket s g.record.part g.record.world va (setField v 0 32 (g.gid + 1))).1
  (setThreads s g.gk ts fun t => putPred t (txPred o false) (bitOf v 32), none)

/-- `tktake` (R331): a ticket past the group's turn faults. -/
def execTktake (o : TaskOp) (s : State) : Res :=
  .next (runWait o (waitKind .tktake) 8
    (fun g v => if field v 0 32 > g.gid % 2 ^ 32 then
        some { cls := fcOwnership, va := BitVec.ofNat 64 (objectVa g o), detail := 6 } else none)
    (tktakeEffect o) s)

/-- `tkwait` (R332): n comes from the lowest-indexed thread with a true guard. -/
def execTkwait (o : TaskOp) (s : State) : Res :=
  let k (_ : State) (g : Group) (ts : List Thread) : Except FaultInfo WaitKind :=
    match ts with
    | [] => .ok (.tkwait 0)
    | t :: _ => (readSrc32 .int g t o.b).map fun n => .tkwait n.toNat
  .next (runWait o k 8 noRefusal
    (fun s g ts v => (setThreads s g.gk ts fun t => putPred t (txPred o false) (bitOf v 32), none)) s)

/-! ## tself (R334) -/

/-- The quantity that `tself` gives: none when the frame or grid record cannot be read. -/
def tselfValue (s : State) (g : Group) (sel : Nat) : State × Option Nat :=
  match sel with
  | 0 => (s, some g.record.taskid)
  | 1 =>
    match frameRead s g with
    | (s, v) => (s, v.map fun v => field v 32 32)
  | 2 =>
    match frameRead s g with
    | (s, v) => (s, v.map fun v => field v 0 32)
  | 3 => (s, some g.record.depth)
  | 4 => (s, some g.adopt.isSome.toNat)
  | _ =>
    if !g.record.det then (s, some 0)
    else
      match gridOf s g.grid with
      | none => (s, some 0)
      | some gr =>
        match hwRead s g.record.part g.record.world gr.record.farr 64 with
        | (s, .ok bs) => (s, some (field (leNat bs) 326 16))
        | (s, .error f) => (recordEvent s g.record.part (some f), none)

/-- `tself` for one thread. -/
def tselfThread (o : TaskOp) (s : State) (g : Group) (t : Thread) : State × Option FaultInfo :=
  match tselfValue s g (o.tx.toNat % 8) with
  | (s, some v) => (modThread s g.gk t.idx fun t => setReg t o.d.toNat (BitVec.ofNat 32 v), none)
  | (s, none) => (s, none)

/-- `tself` (R334). -/
def execTself (o : TaskOp) (s : State) : Res := .next (runThreads s 2 o.g (tselfThread o))

/-! ## Deterministic grids (R250, R254, R256, R333) -/

/-- A group has ended the step that its grid is in, has exited earlier or has failed (R250). -/
def stepDone (gr : Grid) (g : Group) : Bool := decide (g.stepsEnded > gr.commits) || g.run == .exited || g.run == .retired || g.failed

/-- The ticket of a slot whose automatic take is due for a group that has ended the current step or failed in it: VA and contents
(R333, R256). -/
def dueTicket (s : State) (gk slot : Nat) : Option (Group × Nat × Except FaultInfo Nat) :=
  match groupOf s gk with
  | none => none
  | some g =>
    match gridOf s g.grid with
    | none => none
    | some gr =>
      let va := gr.ticks.getD slot 0
      if !g.record.det || va = 0 || g.taken.contains slot || decide (g.stepsEnded ≤ gr.commits) then none
      else
        match (hwRead s g.record.part g.record.world va 8).2 with
        | .error f => some (g, va, .error f)
        | .ok bs => if field (leNat bs) 0 32 = g.gid % 2 ^ 32 then some (g, va, .ok (leNat bs)) else none

/-- TICKET_AUTOMATIC_TAKE (R333, R256): the hardware takes a listed ticket for a group that ended its step without it; a fault
fails a running group, and is an event for one that has failed already. -/
def execTicketAutomaticTake (gk slot : Nat) (s : State) : Res :=
  .next (match dueTicket s gk slot with
    | none => s
    | some (g, va, v) =>
      -- the edge starts at a release of the group's writes (R241, R256)
      let s := modGroup (releaseGroup s gk) gk fun g => { g with taken := g.taken ++ [slot] }
      let bad (s : State) (f : FaultInfo) : State :=
        if g.failed || g.run = .retired then recordEvent s g.record.part (some f) else failRecord s gk f
      match v with
      | .error f => bad s f
      | .ok v =>
        let v := setField v 0 32 (g.gid + 1)
        match setTicket s g.record.part g.record.world va (if g.failed then setField v 32 1 1 else v) with
        | (s, none) => s
        | (s, some f) => bad s f)

/-- A group's entry could not be committed: the group fails; one that has retired is recorded in the grid record (R465). -/
def failCommit (s : State) (gk : Nat) (f : FaultInfo) : State :=
  match groupOf s gk with
  | none => s
  | some g =>
    if g.run != .retired then failRecord s gk f
    else
      let (s, e) := hwUpdate s g.record.part g.record.world g.record.farr 64 fun v =>
        if bitOf v 320 then v else setField (setField (setField v 320 1 1) 256 32 g.gid) 288 32 f.cls
      modGrid (recordEvent s g.record.part e) g.grid fun x => { x with failed := true }

/-- The bytes of a staged store that its mask marks, each written at its place. -/
def commitBytes (s : State) (r : TaskRecord) (unit mask data : Nat) : Nat → State × Option FaultInfo
  | 0 => (s, none)
  | n + 1 =>
    match commitBytes s r unit mask data n with
    | (s, some f) => (s, some f)
    | (s, none) => if bitOf mask n then hwWrite s r.part r.world (unit + n) (leBytes (field data (8 * n) 8) 1) else (s, none)

/-- One entry of a staging log applied (R254). -/
def commitEntry (s : State) (r : TaskRecord) (e : Nat) : State × Option FaultInfo :=
  let unit := 8 * field e 2 54
  if field e 0 2 = 0 then commitBytes s r unit (field e 56 8) (field e 64 64) 8
  else if field e 0 2 = 1 then hwUpdate s r.part r.world unit 8 (applyEntry e)
  else (s, none)

/-- The entries of a group's log in program order. -/
def commitGroup (gr : Grid) (s : State) (g : Group) : State :=
  (List.range g.staged).foldl
    (fun s i =>
      match hwRead s g.record.part g.record.world (logVa gr g i) 16 with
      | (s, .error f) => failCommit s g.gk f
      | (s, .ok bs) =>
        match commitEntry s g.record (leNat bs) with
        | (s, some f) => failCommit s g.gk f
        | (s, none) => s) s

/-- The step of a deterministic grid may be committed: every group has started and is done with it, one ended it, and no
automatic take is due (R250, R333). -/
def mayCommit (s : State) (gr : Grid) : Bool :=
  let gs := s.groups.filter fun g => g.grid == gr.id
  gr.record.det && (decide (gr.started ≥ gr.total) || gr.failedAtDispatch) && gs.all (stepDone gr) &&
  gs.any (fun g => decide (g.stepsEnded > gr.commits)) &&
  gs.all (fun g => (List.range 4).all fun k => (dueTicket s g.gk k).isNone) &&
  !(s.ops.any fun o => gs.any fun g => g.gk == o.gk)

/-- The release at a commit's end: a group that exited in the step holds dirty bytes yet (R255). -/
def releaseGrid (grid : Nat) (s : State) : State :=
  (s.groups.filter fun g => g.grid == grid).foldl (fun s g => releaseGroup s g.gk) s

/-- DETERMINISTIC_COMMIT (R254 to R256): staged entries in ascending group and program order; the committed step counted; every
listed ticket reset. -/
def execDeterministicCommit (grid : Nat) (s : State) : Res :=
  .next (match gridOf s grid with
    | none => s
    | some gr =>
      if !(mayCommit s gr) then s
      else
        let r := gr.record
        let gs := sortBy (fun g => g.gid) (s.groups.filter fun g => g.grid == grid && !g.failed)
        let s := gs.foldl (commitGroup gr) s
        let (s, f) := hwUpdate s r.part r.world r.farr 64 fun v => setField v 326 16 (field v 326 16 + 1)
        let s := recordEvent s r.part f
        let s := modGrid s grid fun x => { x with commits := x.commits + 1 }
        let s := { s with groups := s.groups.map fun g => if g.grid == grid then { g with taken := [], staged := 0 } else g }
        let reset (s : State) (va : Nat) : State :=
          if va = 0 then s
          else
            match hwRead s r.part r.world va 8 with
            | (s, .error f) => recordEvent s r.part (some f)
            | (s, .ok bs) =>
              match setTicket s r.part r.world va (setField (leNat bs) 0 32 gr.gfirst0) with
              | (s, f) => recordEvent s r.part f
        releaseGrid grid (gr.ticks.foldl reset s))

end Sys2Proof.Machine
end

