-- ==== Sys2Proof/Machine/Graphics.lean ====
section
/-! DEFINITION. The graphics instructions, the binning of a meshlet, the completions of `tcomb` and `tdone`
(spec/14_geometry_and_tile_queues.md R338 to R355, spec/16_view_and_tree_tables.md R380, R381, R384). -/
namespace Sys2Proof.Machine

/-! ## What a group knows (Table 14.4) -/

/-- A group is not of the kind that an instruction asks for (Table 14.3). -/
def kindFault (g : Group) (k : Nat) : Option FaultInfo := if g.record.kind = k then none else some { cls := fcPermission }

/-- A segment-limit fault that names an offset, index or value (Table 14.3). -/
def limitFault (v : Nat) : FaultInfo := { cls := fcSegLimit, va := BitVec.ofNat 64 v }

/-- The frame of a sample or reconstruction group, with its tile and its view's entry and latch. -/
structure TileView where
  frame : Frame
  tile : Tile
  entry : ViewEntry
  latch : Latch

/-- The tile of a sample or reconstruction group. -/
def tileView (s : State) (i : SampleInfo) : Option TileView := do
  let f ← frameOf s i.die i.frame
  let t ← tileOf f i.q
  let v ← f.views.find? fun v => v.1 == i.view
  let l ← f.latches.find? fun l => l.view == i.view && l.strip == i.strip
  pure { frame := f, tile := t, entry := v.2, latch := l }

/-- Timing of the output that a view names. -/
def viewTiming (x : TileView) : Option Timing := tfind x.frame.timing x.entry.panel

/-- Origin and size of the panel rectangle of a tile (R384). -/
def tileRect (x : TileView) : Nat × Nat × Nat × Nat :=
  match viewTiming x with
  | none => (0, 0, 0, 0)
  | some t => panelRect x.latch t.k t.w t.h x.tile.tx x.tile.ty

/-- The payload slot of a mesh group. -/
def slotOfGroup (s : State) (g : Group) : PaySlot :=
  match g.gfx with
  | .mesh cluster slot _ => (clusterOf s cluster).ring.getD slot {}
  | _ => {}

/-- What `sinfo` gives of a tile to a group of kind 3 or 4 (Table 14.4). -/
def tileInfo (s : State) (i : SampleInfo) (kind sel : Nat) : Nat :=
  match tileView s i with
  | none => 0
  | some x =>
    match sel with
    | 2 => if kind = 4 then 16 * x.tile.tx + 2 ^ 16 * (x.latch.jFirst + 16 * x.tile.ty) else 0
    | 6 => i.view + 2 ^ 3 * i.strip + 2 ^ 8 * (i.q % 2 ^ 24)
    | 8 => if kind = 4 then (tileRect x).1 + 2 ^ 16 * (tileRect x).2.1 else 0
    | 9 => if kind = 4 then (tileRect x).2.2.1 + 2 ^ 16 * (tileRect x).2.2.2 else 0
    | 10 => 6400 * x.tile.slot
    | 11 =>
      match viewTiming x with
      | none => 2 ^ 32 - 1
      | some t => if hasDeadlines x.frame x.entry.panel t then deadlineOf t i.strip else 2 ^ 32 - 1
    | _ => 0

/-- What `sinfo` gives of its own sample to a thread of kind 3 (Table 14.4). -/
def sampleInfo (i : SampleInfo) (t : Thread) (sel b : Nat) : Word :=
  match i.samples[t.idx]? with
  | none => 0
  | some x =>
    match sel with
    | 2 => BitVec.ofNat 32 (x.i + 2 ^ 16 * x.j)
    | 3 => lambdaOf x.e1 x
    | 4 => lambdaOf x.e2 x
    | 5 => i.key
    | 7 => if b % 4 = 3 || b / 4 % 16 ≥ 12 then 0 else i.vwords.getD (12 * (b % 4) + b / 4 % 16) 0
    | _ => 0

/-- The quantity of `sinfo` for a thread, or its fault (R348, Table 14.3). -/
def sinfoValue (s : State) (g : Group) (t : Thread) (sel b : Nat) : Except FaultInfo Word :=
  match g.gfx with
  | .task _ fnum => .ok (if sel = 1 then fnum else 0)
  | .mesh .. =>
    let p := slotOfGroup s g
    if sel = 1 then .ok (BitVec.ofNat 32 p.len)
    else if sel = 0 then
      if b % 4 != 0 then .error { cls := fcMisaligned, va := BitVec.ofNat 64 b }
      else if b ≥ p.len then .error (limitFault b)
      else if p.poison.contains (b / 64) then .error (poisonAt b)
      else .ok (BitVec.ofNat 32 (leNat ((p.data.drop b).take 4)))
    else .ok 0
  | .sample i =>
    if sel = 2 || sel = 3 || sel = 4 || sel = 5 || sel = 7 then .ok (sampleInfo i t sel b)
    else .ok (BitVec.ofNat 32 (tileInfo s i 3 sel))
  | .recon i => .ok (BitVec.ofNat 32 (tileInfo s i 4 sel))
  | .none => .ok 0

/-- `sinfo` (R348). -/
def execSinfo (o : TaskOp) (s : State) : Res :=
  .next (runThreads s 2 o.g fun s g t =>
    match readSrc32 .int g t o.b with
    | .error f => (s, some f)
    | .ok b =>
      match sinfoValue s g t (o.tx.toNat % 16) b.toNat with
      | .error f => (s, some f)
      | .ok v => (modThread s g.gk t.idx fun t => setReg t o.d.toNat v, none))

/-! ## temit (R340, R341) -/

/-- The slot that a group may take: the one kept for it, else the lowest free one kept for nobody. -/
def slotFor (s : State) (cluster gk : Nat) : Option Nat :=
  let ring := enumFrom 0 (clusterOf s cluster).ring
  ((ring.find? fun e => e.2.reserved == some gk).orElse fun _ => ring.find? fun e => e.2.owner.isNone && e.2.reserved.isNone).map
    fun e => e.1

/-- Length of the payload of a `temit`, and its place in the core's scratchpad. -/
def payLen (o : TaskOp) : Nat := o.imm.toNat % 2 ^ 15
def payOff (g : Group) (o : TaskOp) : Nat := (affOf g o.as.toNat).base.toNat
def payPlace (g : Group) (o : TaskOp) : Nat := (segOf g 1).base.toNat + payOff g o

/-- VA of the mesh template of a `temit`. -/
def temitVa (g : Group) (o : TaskOp) : Nat := (affOf g o.ao.toNat).base.toNat

/-- 64 bytes at a VA as a load of a thread reads them (Table 14.3). -/
def loadTemplate (s : State) (g : Group) (t : Thread) (va : Nat) : State × Except FaultInfo Nat :=
  if va ≥ 2 ^ 57 then (s, .error { cls := fcAddress, va := BitVec.ofNat 64 va })
  else
    let s := performThread s g.gk t.idx
    match resolveParts s (ctxOf g t) .r 0 [(va, 64)] with
    | (s, .error f) => (s, .error f)
    | (s, .ok ps) =>
      let (s, bs, bad) := loadPieces s (ctxOf g t) 0 g.grid ps
      if bad then (s, .error (poisonAt va)) else (s, .ok (leNat bs))

/-- The record that `temit` forms from its template and the frame record of its group (R340). -/
def temitRecord (v fr : Nat) (o : TaskOp) (g : Group) (farr : Nat) : TaskRecord :=
  let r := parseRecord v
  { r with
    farr := farr % 2 ^ 57
    rsv := r.rsv || decide (farr ≥ 2 ^ 57)
    depth := field fr 160 4 + 1
    gfirst := 0
    gcount := o.tx.toNat + 1
    taskid := (r.taskid + field fr 32 32) % 2 ^ 32
    part := g.record.part
    world := g.record.world
    prec := 0
    carry := 0
    variant := 0 }

/-- What the checks of Table 14.3 leave of a `temit`: its record, or its fault; none when its frame record cannot be read. -/
def temitChecks (o : TaskOp) (s : State) (g : Group) (t : Thread) : State × Option (Except FaultInfo TaskRecord) :=
  match kindFault g 1, readSrc64 .int g t o.b with
  | some f, _ => (s, some (.error f))
  | none, .error f => (s, some (.error f))
  | none, .ok farr =>
    let va := temitVa g o
    let off := payOff g o
    if (affOf g o.ao.toNat).stride != 0 || (affOf g o.as.toNat).stride != 0 then (s, some (.error { cls := fcNonUniform }))
    else if va % 64 != 0 then (s, some (.error { cls := fcMisaligned, va := BitVec.ofNat 64 va }))
    else if off % 4 != 0 then (s, some (.error { cls := fcMisaligned, va := BitVec.ofNat 64 off }))
    else if off + payLen o > (segOf g 1).limit.toNat || payPlace g o + payLen o > Config.scratchBytes then (s, some (.error (limitFault off)))
    else
      match loadTemplate s g t va with
      | (s, .error f) => (s, some (.error f))
      | (s, .ok v) =>
        if scratchPoisoned s g.core (payPlace g o) (payLen o) then (s, some (.error (poisonAt off)))
        else
          match frameRead s g with
          | (s, none) => (s, none)
          | (s, some fr) =>
            let r := temitRecord v fr o g farr.toNat
            if field fr 160 4 ≥ 10 then (s, some (.error { cls := fcFrameDepth }))
            else if !(recordValid r g.record.part) || r.kind != 2 then
              (s, some (.error { cls := fcRecord, va := BitVec.ofNat 64 va }))
            else (s, some (.ok r))

/-- `temit` takes a slot of its cluster's ring: the payload, the release, the counts of the frame, the enqueue (R340). -/
def emitPayload (o : TaskOp) (s : State) (g : Group) (r : TaskRecord) (slot : Nat) : State :=
  let cluster := clusterOfGroup g
  let data := scratchRead s g.core (payPlace g o) (payLen o)
  let (s, age) := fresh s
  let entry : PaySlot := { owner := some (r.part, r.taskid), len := payLen o, data := data, filled := age }
  let s := modCluster s cluster fun c => { c with ring := c.ring.set slot entry }
  let s := releaseGroup s g.gk
  let s := frameUpdate s g fun v => setField (setField v 32 32 (field v 32 32 + 1)) 0 32 (field v 0 32 + 1)
  acceptRecord s r g.frame cluster false .none (some (cluster, slot))

/-- A `temit` without a slot joins the ring's waiter list and its phase ends; the core helps (R341). -/
def waitForSlot (s : State) (g : Group) (at' : FaultSite) : State :=
  let cluster := clusterOfGroup g
  let s := endPhase s g.gk at'.pc at'.hdr (variantCarry g) 0
  match groupOf s g.gk with
  | none => s
  | some g =>
    if g.failed then s
    else
      let s := modCluster (modGroup s g.gk fun x => { x with wait := some (.payload, cluster) }) cluster fun c =>
        { c with ringWait := c.ringWait ++ [g.gk] }
      help g.core { gk := g.gk, kind := .payload, obj := cluster, part := g.record.part, world := g.record.world } 8 s

/-- A `temit` with a slot to take holds its group: the landing of the record's class is full, or the pending count has no room (R284,
R397). -/
def temitHeld (s : State) (g : Group) (r : TaskRecord) : Bool :=
  pendingFull s g 1 || (!r.det && landingLeft s g.record.part (clusterOfGroup g) r.cls == 0)

/-- `temit` (R340, R341). -/
def execTemit (o : TaskOp) (s : State) : Res :=
  let at' := headSite s
  .next (runGroup s o.g fun s g ts =>
    match ts.head? with
    | none => .done s
    | some t =>
      match temitChecks o s g t with
      | (s, none) => .left s
      | (s, some (.error f)) => .fault s f
      | (s, some (.ok r)) =>
        match slotFor s (clusterOfGroup g) g.gk with
        | none => .left (waitForSlot s g at')
        | some slot => if temitHeld s g r then .stall s else .done (emitPayload o s g r slot))

/-! ## Meshlets (R342 to R345) -/

/-- `mend` of the group has run (Table 14.3, order 8). -/
def meshEnded (g : Group) : Bool := match g.gfx with | .mesh _ _ e => e | _ => false

/-- The ownership fault of a mesh group after its `mend`. -/
def endedFault : FaultInfo := { cls := fcOwnership, detail := 7 }

/-- Write of n registers of a thread into its group's mesh output buffer, at a place that record B gives (R343). -/
def meshWrite (o : TaskOp) (n : Nat) (place : Nat → Nat) (s : State) (g : Group) (t : Thread) : State × Option FaultInfo :=
  match kindFault g 2, readSrc32 .int g t o.b, sourceRegs t o.d.toNat n with
  | some f, _, _ => (s, some f)
  | none, .error f, _ => (s, some f)
  | none, .ok b, regs =>
    if b.toNat ≥ 256 then (s, some (limitFault b.toNat))
    else
      match regs with
      | .error f => (s, some f)
      | .ok ws =>
        match meshEnded g, g.meshBase with
        | false, some base => (scratchStore s g.core (base + place b.toNat) (leBytes (wordsNat ws) (4 * n)), none)
        | _, _ => (s, some endedFault)

/-- `mvtx` (R343): words 0 to 3 + m of vertex record B. -/
def execMvtx (o : TaskOp) (s : State) : Res := .next (runThreads s 2 o.g (meshWrite o (4 + o.tx.toNat % 16) fun b => 48 * b))

/-- `mprim` (R343): primitive word B. -/
def execMprim (o : TaskOp) (s : State) : Res := .next (runThreads s 2 o.g (meshWrite o 1 fun b => 12288 + 4 * b))

/-- Primitive word p of a mesh group's buffer: its corners and whether it is culled (R343). -/
def meshPrim (s : State) (core base p : Nat) : Nat × Nat × Nat × Bool :=
  let v := leNat (scratchRead s core (base + 12288 + 4 * p) 4)
  (field v 0 8, field v 8 8, field v 16 8, bitOf v 24)

/-- The first index of an unculled primitive that is not below nv (R344). -/
def badIndex (s : State) (core base nv np : Nat) : Option Nat :=
  (List.range np).findSome? fun p =>
    let (a, b, c, cull) := meshPrim s core base p
    if cull then none else [a, b, c].find? fun i => i ≥ nv

/-- The fault of a `mend` beyond its kind: its counts and indices, which a second `mend` breaks before it meets its own while the
buffer is still held, poison, and the group's earlier `mend` (R339, R344). -/
def mendFault (s : State) (g : Group) (v : Nat) : Option FaultInfo :=
  let nv := field v 0 9
  let np := field v 16 9
  if field v 9 7 != 0 || field v 25 7 != 0 || field v 56 8 != 0 then some (limitFault v)
  else if nv > 256 then some (limitFault nv)
  else if np > 256 then some (limitFault np)
  else
    match g.meshBase with
    | none => some endedFault
    | some base =>
      match badIndex s g.core base nv np with
      | some i => some (limitFault i)
      | none =>
        if scratchPoisoned s g.core (base + 12288) (4 * np) then some (poisonAt (base + 12288))
        else if meshEnded g then some endedFault
        else none

/-- A counted operation of a group, charged to the given threads (R70, R313). -/
def issueGroupOp (s : State) (g : Group) (ts : List Thread) (wait : BitVec 3) (kind : OpKind) : State :=
  let (s, id) := fresh s
  let cnt := wait.toNat
  let o : Op :=
    { id := id, core := g.core, gk := g.gk, threads := ts.map fun t => t.idx, cnt := cnt, asid := asidOf s g.record.part g.record.world
      sup := false, kind := kind }
  setThreads { s with ops := s.ops ++ [o] } g.gk ts fun t =>
    if cnt < 6 then { t with w := t.w.set cnt (t.w.getD cnt 0 + 1) } else { t with pw := t.pw + 1 }

/-- `mend` (R344): the checks, the release, the submission of the meshlet; its buffer is read-only from now on. -/
def execMend (o : TaskOp) (s : State) : Res :=
  .next (if counterFull s o.g o.wait then s
    else runGroup s o.g fun s g ts =>
      match ts.head?, kindFault g 2 with
      | none, _ => .done s
      | _, some f => .fault s f
      | some t, none =>
        match readSrc64 .int g t o.b with
        | .error f => .fault s f
        | .ok b =>
          match mendFault s g b.toNat with
          | some f => .fault s f
          | none =>
            let s := releaseGroup s g.gk
            let s := modGroup s g.gk fun g => { g with gfx := match g.gfx with | .mesh c k _ => .mesh c k true | x => x }
            .done (issueGroupOp s g ts o.wait (.binning (field b.toNat 0 9) (field b.toNat 16 9) (BitVec.ofNat 24 (field b.toNat 32 24)))))

/-- Vertex words 0 to 11 of a mesh group's buffer. -/
def meshVertex (s : State) (core base i : Nat) : List Word := bytesToWords 12 (scratchRead s core (base + 48 * i) 48)

/-- −x of a strip bound, snapped (R344). -/
def bandEdge (k total : Nat) : Option Int := (stripLow k total).map fun lo => snap (negVal lo)

/-- Strips of a view in which a primitive may cover a sample (R344). -/
def binStrips (v : ViewEntry) (total : Nat) (ys : List Int) : List Nat :=
  let flat := vle (val32 v.k1) (wholeVal 0) && vle (wholeVal 0) (val32 v.k1) && vle (val32 v.k2) (wholeVal 0) && vle (wholeVal 0) (val32 v.k2)
  let lo := ys.foldl min (ys.headD 0)
  let hi := ys.foldl max (ys.headD 0)
  (List.range total).filter fun k =>
    !flat ||
      ((match bandEdge (k + 1) total with | some e => decide (e ≤ hi) | none => true) &&
       (match bandEdge k total with | some e => decide (lo ≤ e) | none => true))

/-- The bin records of one primitive in one view, as numbers (R344, R380, R381, Table 14.6). -/
def binRecords (e : Nat × ViewEntry) (total : Nat) (key : Nat) (corners : List (List Word)) : List Nat :=
  match corners.map fun c => viewVertex e.2.mat (c.take 4) with
  | [some v0, some v1, some v2] =>
    let a := areaOf v0 v1 v2
    if a = 0 || (e.2.face = 1 && decide (a < 0)) || (e.2.face = 2 && decide (a > 0)) then []
    else
      let geo := packFields 64 0 ([v0.1, v0.2, v1.1, v1.2, v2.1, v2.2].map (intBits 64))
      let words := packFields 32 512 (corners.flatMap fun c => c.map fun w => w.toNat)
      (binStrips e.2 total [v0.2, v1.2, v2.2]).map fun k =>
        geo + 2 ^ 384 * key + 2 ^ 416 * e.1 + 2 ^ 419 * k + 2 ^ 423 * (decide (a < 0)).toNat + words
  | _ => []

/-- The bin records of a meshlet: view by view, then in primitive and strip order (R345; log entry 40). -/
def meshletRecords (s : State) (f : Frame) (core base np : Nat) (key : BitVec 24) : List Nat :=
  f.views.flatMap fun e =>
    let total := ((tfind f.timing e.2.panel).map fun t => t.k).getD 1
    (List.range np).flatMap fun p =>
      let (a, b, c, cull) := meshPrim s core base p
      if cull then [] else binRecords e total (256 * key.toNat + p) ([a, b, c].map (meshVertex s core base))

/-- Bin records of a frame that its area has room for (R345). -/
def binRoom (f : Frame) : Nat := (1024 * f.binkib - 2048) / 256

/-- Bin records written one after another from record r on: every place is translated first, so a fault leaves none written (R345). -/
def writeBins (f : Frame) (s : State) (r : Nat) (records : List Nat) : State × Option FaultInfo :=
  hwWrite s f.part f.world (binVa f r) (records.flatMap fun v => leBytes v 256)

/-- The amplifier bins a meshlet into the open frame: all of its records or none (R344, R345). -/
def binMeshlet (s : State) (g : Group) (die base nv np : Nat) (key : BitVec 24) : State × Option FaultInfo :=
  if scratchPoisoned s g.core base (48 * nv) then (s, some (poisonAt base))
  else
    match openFrameOf s die g.record.part with
    | none => (s, none)
    | some f =>
      let rs := meshletRecords s f g.core base np key
      if f.binsUsed + rs.length > binRoom f then (s, some (limitFault (f.bins + 1024 * f.binkib)))
      else
        match writeBins f s f.binsUsed rs with
        | (s, some e) => (s, some e)
        | (s, none) => (modFrame s die f.grid fun f => { f with binsUsed := f.binsUsed + rs.length }, none)

/-- The die whose amplifier bins a mesh group's meshlet. -/
def meshDie (s : State) (g : Group) : Nat := ((gridOf s g.grid).map fun x => dieOfCluster x.cluster).getD (dieOfCore g.core)

/-- An operation is a meshlet submitted to a die's amplifier by a partition. -/
def submittedTo (s : State) (die part : Nat) (o : Op) : Bool :=
  match o.kind, groupOf s o.gk with
  | .binning .., some g => meshDie s g == die && g.record.part == part
  | _, _ => false

/-- MESHLET_BINNING (R344, R345): meshlets of a partition's frame are binned in submission order. The binning is done, the counter
falls, the buffer is released; a fault waits for the clause that waits for the counter. -/
def execMeshletBinning (op : Nat) (s : State) : Res :=
  .next (match opOf s op with
    | none => s
    | some o =>
      match o.kind, groupOf s o.gk with
      | .binning nv np key, some g =>
        let die := meshDie s g
        if (s.ops.takeWhile fun x => x.id != op).any (submittedTo s die g.record.part) then s
        else
        let (s, f) : State × Option FaultInfo :=
          match g.meshBase with | some base => binMeshlet s g die base nv np key | none => (s, none)
        let s := modGroup s g.gk fun g => { g with meshBase := none }
        let s := match f with | some f => deferFault s o.gk (o.threads.headD 0) o.cnt f | none => s
        retireOp s o
      | _, _ => s)

/-! ## tcomb (R350, R351) -/

/-- `tcomb` (R351): depth, key and colour are read at issue. -/
def execTcomb (o : TaskOp) (s : State) : Res :=
  .next (if counterFull s o.g o.wait then s
    else runThreads s 2 o.g fun s g t =>
      match kindFault g 3, readSrc32 .f32 g t o.b, sourceRegs t o.d.toNat 2 with
      | some f, _, _ => (s, some f)
      | none, .error f, _ => (s, some f)
      | none, .ok _, .error f => (s, some f)
      | none, .ok z, .ok ws => (issueOp s g t.idx o.wait t.inSup (.tcomb z (BitVec.ofNat 64 (wordsNat ws)) [] false), none))

/-- (Z, K, colour) is less than a record: depths as FP32 values, then keys, then colours (R351). -/
def tripleLess (z key : Word) (colour : DWord) (old : Nat) : Bool :=
  let a := val32 z
  let b := val32 (BitVec.ofNat 32 (field old 0 32))
  let k := field old 32 32
  vlt a b || (vle a b && vle b a && (decide (key.toNat < k) || (key.toNat == k && decide (colour.toNat < field old 64 64))))

/-- The update of one record of one buffer (R351): a poisoned record is not updated. -/
def combineOne (z key : Word) (colour : DWord) (acc : State × Bool) (p : Nat × Nat) : State × Bool :=
  let s := acc.1
  if scratchPoisoned s p.1 p.2 16 then (s, true)
  else
    let old := leNat (scratchRead s p.1 p.2 16)
    if tripleLess z key colour old then
      (scratchStore s p.1 p.2 (leBytes (z.toNat + 2 ^ 32 * key.toNat + 2 ^ 64 * colour.toNat) 16), acc.2)
    else acc

/-- The tiles whose buffers a sample lies in, each with the place of its record there (R350). -/
def sampleTiles (f : Frame) (i : SampleInfo) (x : Sample) : List (Tile × Nat) :=
  match f.latches.find? fun l => l.view == i.view && l.strip == i.strip with
  | none => []
  | some l => f.tiles.filterMap fun t =>
      if t.view == i.view && t.strip == i.strip then
        (apronPlace t x.i (x.j - l.jFirst)).map fun p => (t, 16 * (20 * p.2 + p.1))
      else none

/-- The tiles in whose buffers a thread's sample lies, each with whether it has its slot and the place of its record (R350, R351). -/
def combinePlaces (s : State) (g : Group) (tid : Nat) : Word × List (Tile × Nat × Nat) :=
  match g.gfx with
  | .sample i =>
    match frameOf s i.die i.frame, i.samples[tid]? with
    | some f, some x => (i.key, (sampleTiles f i x).map fun t => (t.1, t.1.core, slotBase s t.1.core t.1.slot + t.2))
    | _, _ => (i.key, [])
  | _ => (0, [])

/-- TCOMB_COMPLETION (R351): after the thread's earlier `tcomb`s, the update in every buffer whose tile has its slot by now; the
counter falls when all of them are done. -/
def execTcombCompletion (op : Nat) (s : State) : Res :=
  .next (match opOf s op with
    | none => s
    | some o =>
      let earlier := (s.ops.takeWhile fun x => x.id != op).any fun x =>
        x.gk == o.gk && x.threads == o.threads && (match x.kind with | .tcomb .. => true | _ => false)
      match o.kind, groupOf s o.gk with
      | .tcomb z colour done bad, some g =>
        if earlier then s
        else
          let (key, tiles) := combinePlaces s g (o.threads.headD 0)
          let now := tiles.filter fun t => t.1.assigned && !(done.contains t.1.q)
          let (s, bad) := (now.map fun t => t.2).foldl (combineOne z key colour) (s, bad)
          if tiles.all fun t => t.1.assigned then
            retireOp (if bad then deferFault s o.gk (o.threads.headD 0) o.cnt { cls := fcPoison } else s) o
          else
            let left : OpKind := .tcomb z colour (done ++ now.map fun t => t.1.q) bad
            { s with ops := updFirst (fun x => x.id == op) (fun x => { x with kind := left }) s.ops }
      | _, _ => s)

/-! ## tdone (R354, R355) -/

/-- Segment 1 offset of the pixel block of a `tdone`. -/
def pixelOff (g : Group) (o : TaskOp) : Nat := ((affOf g o.ao.toNat).base + o.imm.signExtend 64).toNat

/-- Width and height of the panel rectangle of a reconstruction group's tile. -/
def reconSize (s : State) (g : Group) : Nat × Nat :=
  match g.gfx with
  | .recon i => match tileView s i with | some x => ((tileRect x).2.2.1, (tileRect x).2.2.2) | none => (0, 0)
  | _ => (0, 0)

/-- The fault of a `tdone` (Table 14.3). -/
def tdoneFault (s : State) (g : Group) (o : TaskOp) : Option FaultInfo :=
  let off := pixelOff g o
  let n := 4 * (reconSize s g).1 * (reconSize s g).2
  match kindFault g 4 with
  | some f => some f
  | none =>
    if (affOf g o.ao.toNat).stride != 0 then some { cls := fcNonUniform }
    else if off % 64 != 0 then some { cls := fcMisaligned, va := BitVec.ofNat 64 off }
    else if off + n > (segOf g 1).limit.toNat || (segOf g 1).base.toNat + off + n > Config.scratchBytes then some (limitFault off)
    else none

/-- `tdone` (R354): the checks and the release; the pixels are on their way to the hand-off queue. -/
def execTdone (o : TaskOp) (s : State) : Res :=
  .next (if counterFull s o.g o.wait then s
    else runGroup s o.g fun s g ts =>
      match tdoneFault s g o with
      | some f => .fault s f
      | none =>
        .done (issueGroupOp (releaseGroup s g.gk) g ts o.wait
          (.tdone o.d.toNat (txPred o false).toNat ((segOf g 1).base.toNat + pixelOff g o))))

/-- The status of a `tdone` that arrives now (R354), its conditions in their order. -/
def tdoneStatus (s : State) (x : TileView) : Nat :=
  let o := x.entry.panel
  let owner := (outOf s o).downer.toNat
  if x.tile.accepted || x.tile.lateDone then 3
  else if !(bitOf owner 3 && field owner 0 3 == x.frame.part) || x.frame.fhist.getD o 0 == 0 ||
      x.frame.views.any (fun v => decide (v.1 < x.tile.view) && v.2.panel == o) then 2
  else
    match viewTiming x with
    | none => 0
    | some t => if t.fper != 0 && timeReached s.devtime (deadlineOf t x.tile.strip) then 1 else 0

/-- VA of the word of pixel (x, y) in buffer n mod 2 of a history (R354). -/
def histWord (hist n w h x y : Nat) : Nat := hist + n % 2 * (4 * w * h) + 4 * (y * w + x)

/-- Words written into a frame history; a history that cannot be written is not, and event 9 records it. Poison goes with the
words (R234). -/
def writeHist (s : State) (part : Nat) (world : Bool) (va : Nat) (bs : List Byte) (bad : Bool) : State :=
  match hwWrite s part world va bs with
  | (s, some e) => recordEvent s part (some e)
  | (s, none) =>
    if !bad then s
    else
      match translateParts s (hwCtx part world) .w (splitSectors va bs.length) with
      | (s, .ok ps) => ps.foldl (fun s p => placePoison s (hwCtx part world) p) s
      | (s, .error _) => s

/-- The serialiser copies the block of an accepted tile into the frame history, row by row (R354). -/
def copyTile (s : State) (core off : Nat) (x : TileView) : State :=
  match viewTiming x with
  | none => s
  | some t =>
    let (px, py, w, h) := tileRect x
    let row (s : State) (r : Nat) : State :=
      let src := off + 4 * w * r
      writeHist s x.frame.part x.frame.world (histWord (x.frame.fhist.getD x.entry.panel 0) x.frame.fnum.toNat t.w t.h px (py + r))
        (scratchRead s core src (4 * w)) (scratchPoisoned s core src (4 * w))
    (List.range h).foldl row s

/-- A group's operation as a `tdone` of the tile it reconstructs. -/
def handingOff (s : State) (op : Nat) : Option (Op × Nat × SampleInfo × TileView) :=
  match opOf s op with
  | none => none
  | some o =>
    match o.kind, groupOf s o.gk with
    | .tdone _ _ off, some g => (match g.gfx with | .recon i => (tileView s i).map fun x => (o, off, i, x) | _ => none)
    | _, _ => none

/-- The status with which the entry of a `tdone` reached a hand-off queue, if it has. -/
def handedOff (s : State) (op : Nat) : Option Nat :=
  (s.outputs.flatMap fun e => e.2.handoff).findSome? fun e => if e.1 == op then some e.2 else none

/-- The entry of a `tdone` reaches the tile hand-off queue of its output: its status is decided, and the serialiser copies an accepted
block (R354). -/
def handOff (op : Nat) (s : State) : State :=
  match handedOff s op, handingOff s op with
  | none, some (o, off, i, x) =>
    let st := tdoneStatus s x
    let s := if st = 0 then copyTile s o.core off x else s
    let note (t : Tile) : Tile := { t with accepted := t.accepted || st == 0, lateDone := t.lateDone || st == 1 }
    modOut (modFrame s i.die i.frame fun f => updTile f i.q note) x.entry.panel fun y => { y with handoff := y.handoff ++ [(op, st)] }
  | _, _ => s

/-- TDONE_COMPLETION (R354): the entry has reached the hand-off queue and leaves it; the status goes to vD and pL, and the counter
falls. -/
def execTdoneCompletion (op : Nat) (s : State) : Res :=
  .next (match opOf s op with
    | none => s
    | some o =>
      match o.kind with
      | .tdone d pl _ =>
        let s := handOff op s
        let status := (handedOff s op).getD 2
        let s := { s with outputs := s.outputs.map fun e => (e.1, { e.2 with handoff := e.2.handoff.filter fun x => x.1 != op }) }
        let give (s : State) (t : Nat) : State :=
          replyPred (replyLast s o t [(d, BitVec.ofNat 32 status)]) o.gk t (BitVec.ofNat 3 pl) (status != 0)
        retireOp (o.threads.foldl give s) o
      | _ => s)

end Sys2Proof.Machine
end

