-- ==== Sys2Proof/Machine/Display.lean ====
section
/-! DEFINITION. The display serialiser: strip deadlines and the late-tile rule, the start of a frame's scan-out, its rows
(spec/17_counters.md R399 to R403, spec/14_geometry_and_tile_queues.md R355, spec/19_host_link_and_power.md R435). -/
namespace Sys2Proof.Machine

/-! ## The late-tile rule (R402) -/

/-- A channel of a sample record as 10 bits: clamped to 0 and 1, a NaN 0 (R402). -/
def channelBits (c : Nat) : Nat :=
  let v := decodeFlt f16P false c
  if vlt (wholeVal 1) v then 1023
  else if vlt (wholeVal 0) v then
    match xmul v (wholeVal 1023) with
    | .fin s m e => (roundMag 0 s 0 m e 0).1
    | _ => 0
  else 0

/-- The word of a sample record as the serialiser shows it (R402, R354). -/
def shownWord (rec' : Nat) : Nat :=
  channelBits (field rec' 64 16) + 2 ^ 10 * channelBits (field rec' 80 16) + 2 ^ 20 * channelBits (field rec' 96 16)

/-- Record in a tile's buffer of the sample nearest a pixel: its byte in the slot (R402). -/
def nearestRecord (l : Latch) (t : Tile) (w h x y : Nat) : Nat :=
  let cols := min 16 (axisCount l.x - 16 * t.tx)
  let rows := min 16 (l.rows - 16 * t.ty)
  let i := lastEdge (fun n => unwarp l.x (2 * (16 * t.tx + n))) (pixelVal x w) cols
  let j := lastEdge (fun n => unwarp l.y (2 * (l.jFirst + 16 * t.ty + n))) (pixelVal y h) rows
  16 * ((j + 2) * 20 + i + 2)

/-- The nearest-sample word of a pixel, and whether its record is poisoned; a tile that has no slot shows empty records. -/
def nearestWord (s : State) (x : TileView) (w h px py : Nat) : Nat × Bool :=
  if !x.tile.assigned then (0, false)
  else
    let off := slotBase s x.tile.core x.tile.slot + nearestRecord x.latch x.tile w h px py
    (shownWord (leNat (scratchRead s x.tile.core off 16)), scratchPoisoned s x.tile.core off 16)

/-- Words of n pixels of the other buffer of a history, from pixel (x, y) on: those of frame f − 1 (Table 17.3). A history that
cannot be read gives zeros, and event 9 records it. -/
def earlierWords (s : State) (h : Hist) (fnum : Nat) (t : Timing) (x y n : Nat) : State × List Byte × Bool :=
  match vmRead s (hwCtx h.part h.world) (histWord h.va (fnum + 1) t.w t.h x y) (4 * n) with
  | (s, .ok (bs, bad)) => (s, bs, bad)
  | (s, .error f) => (recordEvent s h.part (some f), List.replicate (4 * n) 0, false)

/-- n pixels of frame f's row y, from x on, filled from the history of frame f − 1. -/
def fillEarlier (s : State) (h : Hist) (fnum : Nat) (t : Timing) (x y n : Nat) : State :=
  let (s, bs, bad) := earlierWords s h fnum t x y n
  writeHist s h.part h.world (histWord h.va fnum t.w t.h x y) bs bad

/-- History of a frame on an output. -/
def frameHist (f : Frame) (o : Nat) : Hist := { va := f.fhist.getD o 0, part := f.part, world := f.world }

/-- The counts of late and stale tiles of an output rise. -/
def countLate (s : State) (o late stale : Nat) : State :=
  modOut s o fun x => { x with late := (x.late + late) % 2 ^ 64, stale := (x.stale + stale) % 2 ^ 64 }

/-- A late tile's rectangle is filled (Table 17.3). -/
def fillLate (o : Nat) (t : Timing) (s : State) (x : TileView) : State :=
  let (px, py, w, h) := tileRect x
  let hist := frameHist x.frame o
  if viewStripClosed x.frame x.tile.view x.tile.strip && x.tile.count == 0 then
    let row (s : State) (r : Nat) : State :=
      let ws := (List.range w).map fun c => nearestWord s x t.w t.h (px + c) (py + r)
      writeHist s hist.part hist.world (histWord hist.va x.frame.fnum.toNat t.w t.h px (py + r)) (ws.flatMap fun e => leBytes e.1 4)
        (ws.any fun e => e.2)
    countLate ((List.range h).foldl row s) o 1 0
  else
    countLate ((List.range h).foldl (fun s r => fillEarlier s hist x.frame.fnum.toNat t px (py + r) w) s) o 1 1

/-- Every pixel row of a strip that has not started is filled from frame f − 1 (R402). -/
def fillStrip (s : State) (f : Frame) (o k : Nat) (t : Timing) : State :=
  let y0 := stripFirstRow k t.k t.h
  let y1 := stripFirstRow (k + 1) t.k t.h
  let s := (List.range (y1 - y0)).foldl (fun s r => fillEarlier s (frameHist f o) f.fnum.toNat t 0 (y0 + r) t.w) s
  countLate s o 1 1

/-- Strip k of a frame closes at its deadline on an output: every tile of the views of that panel without an accepted `tdone` is
late, and those of the lowest-numbered view are filled (R355, R402). -/
def closeStrip (s : State) (die : Nat) (f : Frame) (o k : Nat) (t : Timing) : State :=
  let s := modFrame s die f.grid fun f => { f with deadlines := tset f.deadlines o (k + 1) }
  if f.started ≤ k then fillStrip s f o k t
  else
    let onPanel (x : Tile) : Bool := x.strip == k && (f.views.any fun v => v.1 == x.view && v.2.panel == o)
    let shown := ((f.views.filter fun v => v.2.panel == o).headD (0, {})).1
    let late := f.tiles.filter fun x => onPanel x && !x.accepted
    let s := (late.filter fun x => x.view == shown).foldl
      (fun s x =>
        match tileView s { die := die, part := f.part, frame := f.grid, view := x.view, strip := k, q := x.q, key := 0, vwords := [],
                           samples := [], reach := [] } with
        | some v => fillLate o t s v
        | none => s) s
    dropFrames (late.foldl (fun s x => modFrame s die f.grid fun f => updTile f x.q fun y => { y with late := true }) s) die

/-- The next strip deadline of a frame on an output that has arrived. -/
def deadlineDue (s : State) (o : Nat) (f : Frame) : Option (Nat × Timing) :=
  match tfind f.timing o with
  | none => none
  | some t =>
    let k := tget f.deadlines 0 o
    if hasDeadlines f o t && decide (k < t.k) && timeReached s.devtime (deadlineOf t k) then some (k, t) else none

/-- The first frame of the device with a strip deadline that has arrived on an output. -/
def dueStrip (s : State) (o : Nat) : Option (Nat × Frame × Nat × Timing) :=
  s.dies.findSome? fun d => d.2.frames.findSome? fun f => (deadlineDue s o f).map fun e => (d.1, f, e.1, e.2)

/-- The next strip whose deadline has arrived on an output closes. -/
def closeDue (out : Nat) (s : State) : State :=
  match dueStrip s out with
  | none => s
  | some (die, f, k, t) => closeStrip s die f out k t

/-- STRIP_DEADLINE (R402). -/
def execStripDeadline (out : Nat) (s : State) : Res := .next (closeDue out s)

/-! ## Scan-out (R435) -/

/-- The output sends video: enabled and trained. -/
def sending (x : Output) : Bool := x.dmode.getLsbD 0 && x.dmode.getLsbD 2

/-- The output's capture for a frame number. -/
def captureOf (x : Output) (fnum : Word) : Option Capture := x.captures.find? fun c => c.timing.fnum == fnum

/-- Frame f's scan-out as it would begin now: with the timing captured for the frame, or the live one where none was, or one without
deadlines (R399, R401), and whether a frame of that number has opened. -/
def scanOf (x : Output) (f : Word) : Scan :=
  match captureOf x f with
  | some c => { timing := if c.timing.fper = 0 then liveTiming x f else c.timing, opened := c.hist.isSome }
  | none => { timing := liveTiming x f, opened := false }

/-- The scan-out that begins first: of the frame that comes next, or of one that has opened and keeps its times (R399). -/
def nextScan (x : Output) : Scan :=
  let ahead := x.captures.filter fun c => !c.begun && c.timing.fper != 0
  (ahead.map fun c => scanOf x c.timing.fnum).foldl
    (fun b c => if b.timing.fper = 0 || decide (deadlineOf c.timing 0 < deadlineOf b.timing 0) then c else b)
    (scanOf x (BitVec.ofNat 32 x.nextFrame))

/-- An output waits for the first line of its next frame. -/
def scanAhead (x : Output) : Bool := x.scan.isNone && sending x && (nextScan x).timing.fper != 0 && (nextScan x).timing.h != 0

/-- The next frame's first line is due: a time that has wrapped never comes (R400). -/
def scanDue (s : State) (x : Output) : Bool := scanAhead x && decide (deadlineOf (nextScan x).timing 0 ≤ s.devtime)

/-- At D(f, 0) the serialiser begins frame f with the timing captured for it, or the live one (R399, R435). -/
def startScan (out : Nat) (s : State) : State :=
  if scanDue s (outOf s out) then
    modOut s out fun x =>
      let c := nextScan x
      { x with
        scan := some c, fcur := c.timing.fnum
        captures := updFirst (fun k => k.timing.fnum == c.timing.fnum) (fun k => { k with begun := true }) x.captures }
  else s

/-- FRAME_SCANOUT_START (R435, R399). -/
def execFrameScanoutStart (out : Nat) (s : State) : Res := .next (startScan out s)

/-- The words of a row as the serialiser sends them: from the frame's own buffer, or from the earlier frame's, whose words then
become the frame's (R435). Without any history the row is black. -/
def rowBytes (s : State) (hist : Option Hist) (c : Scan) : State × List Byte :=
  let f := c.timing.fnum.toNat
  let t := c.timing
  match hist with
  | none => (s, List.replicate (4 * t.w) 0)
  | some h =>
    if c.opened then
      match vmRead s (hwCtx h.part h.world) (histWord h.va f t.w t.h 0 c.row) (4 * t.w) with
      | (s, .ok (bs, _)) => (s, bs)
      | (s, .error e) => (recordEvent s h.part (some e), List.replicate (4 * t.w) 0)
    else
      let (s, bs, bad) := earlierWords s h f t 0 c.row t.w
      (writeHist s h.part h.world (histWord h.va f t.w t.h 0 c.row) bs bad, bs)

/-- An output that sends, without a frame in scan-out and with `fper` 0, sends black (R401, R435). -/
def sendsBlack (x : Output) : Bool := x.scan.isNone && sending x && x.fper == 0

/-- The next row of the frame in scan-out is sent at its time; the last one counts the frame. With `fper` 0 a black row is sent. -/
def sendRow (out : Nat) (s : State) : State :=
  let x := outOf s out
  match x.scan with
  | none =>
    if sendsBlack x then modOut s out fun x => { x with sent := x.sent ++ [(x.fcur.toNat, 0, List.replicate (field x.dsize.toNat 0 16) 0)] }
    else s
  | some c =>
    if rowTime c.timing c.row > s.devtime then s
    else
      let own := (captureOf x c.timing.fnum).bind fun k => k.hist
      let (s, bs) := rowBytes s (if c.opened then own.orElse fun _ => x.hist else x.hist) c
      let last := decide (c.row + 1 ≥ c.timing.h)
      modOut s out fun x =>
        { x with
          sent := x.sent ++ [(c.timing.fnum.toNat, c.row, bytesToWords c.timing.w bs)]
          scan := if last then none else some { c with row := c.row + 1 }
          scanned := if last then (x.scanned + 1) % 2 ^ 64 else x.scanned
          nextFrame := if last && c.timing.fnum == BitVec.ofNat 32 x.nextFrame then x.nextFrame + 1 else x.nextFrame
          captures := if last then x.captures.filter (fun k => k.timing.fnum != c.timing.fnum) else x.captures }

/-- SCANOUT_LINE (R435). -/
def execScanoutLine (out : Nat) (s : State) : Res := .next (sendRow out s)

/-! ## What is due (R346, R399, R402, R403) -/

/-- What the front end and the serialisers do at a time of their own. At one time a strip starts before one closes, then a frame's
scan-out starts, then a row is sent (DESIGN CHOICE, log entry 35). -/
inductive Timed where
  | start (die part : Nat)
  | close (out : Nat)
  | scan (out : Nat)
  | row (out : Nat)
  deriving DecidableEq, Repr

/-- Order of the kinds at one time. -/
def Timed.rank : Timed → Nat
  | .start _ _ => 0
  | .close _ => 1
  | .scan _ => 2
  | .row _ => 3

/-- What comes next of each kind, with its time: none that never comes. -/
def timedEvents (s : State) : List (Nat × Timed) :=
  (s.dies.flatMap fun d => (d.2.frames.filter fun f => !s.fatal && f.geomClosed && decide (f.started < frameStrips f)).map fun f =>
    ((f.timing.filter fun e => hasDeadlines f e.1 e.2).foldl (fun m e => max m (rasterStart e.2 f.started)) 0, Timed.start d.1 f.part)) ++
  s.outputs.flatMap fun o =>
    (s.dies.flatMap fun d => d.2.frames.filterMap fun f =>
      match tfind f.timing o.1 with
      | none => none
      | some t =>
        let k := tget f.deadlines 0 o.1
        if hasDeadlines f o.1 t && decide (k < t.k) then some (deadlineOf t k, Timed.close o.1) else none) ++
    (if scanAhead o.2 then [(deadlineOf (nextScan o.2).timing 0, Timed.scan o.1)] else []) ++
    (match o.2.scan with | some c => [(rowTime c.timing c.row, Timed.row o.1)] | none => [])

/-- An event's time has come: a strip's also when it does not fit 64 bits (R400; log entry 10). -/
def timedDue (s : State) (e : Nat × Timed) : Bool :=
  match e.2 with
  | .start _ _ => timeReached s.devtime e.1
  | .close _ => timeReached s.devtime e.1
  | _ => decide (e.1 ≤ s.devtime)

/-- Events whose time has come, in the order of their times. -/
def dueTimed (s : State) : List (Nat × Timed) := sortBy (fun e => 4 * e.1 + e.2.rank) ((timedEvents s).filter (timedDue s))

/-- A timed event happens. -/
def doTimed (s : State) (e : Timed) : State :=
  match e with
  | .start die part => startDue die part s
  | .close out => closeDue out s
  | .scan out => startScan out s
  | .row out => sendRow out s

/-- The front end and the serialisers do what is due, at most n events of it, in the order of their times. -/
def serveDisplay : Nat → State → State
  | 0, s => s
  | n + 1, s =>
    match dueTimed s with
    | [] => s
    | e :: _ => serveDisplay n (doTimed s e.2)

end Sys2Proof.Machine
end

