-- ==== Sys2Proof/Machine/Engine.lean ====
section
/-! DEFINITION. Engine commands: issue, the command block and its checks, the data functions, their pieces and sync words, and
collectives (spec/11_memory_instructions.md R269 to R280, spec/10_memory_model.md R243 and R253, spec/09_memories.md R217, R234). -/
namespace Sys2Proof.Machine

/-- fn7 of a function (Table 3.8). -/
def fnCode : EngFn → Nat
  | .copy => 0
  | .copy2d => 1
  | .gather => 2
  | .scatter => 3
  | .fill => 4
  | .allred => 8
  | .bcast => 9
  | .rtrace => 0x10
  | .rany => 0x11
  | .rlaunch => 0x12
  | .bquery => 0x13
  | .brefit => 0x14

/-- A fault of an operation as it is reported: detail [27:21] of `hinfo` holds fn7 (R276). -/
def engFault (e : EngState) (f : FaultInfo) : FaultInfo := { f with detail := fnCode e.fn }

/-- Word i of a block that has been read. -/
def blockWord (e : EngState) (i : Nat) : Nat := ((e.words.getD []).getD i 0).toNat

/-- Low and high half of the argument pair. -/
def argLow (e : EngState) : Nat := e.arg.toNat % 2 ^ 32
def argHigh (e : EngState) : Nat := e.arg.toNat / 2 ^ 32

/-- Control fields of word 2 (Table 11.4). -/
def srcSpace (e : EngState) : Nat := field (blockWord e 2) 0 2
def dstSpace (e : EngState) : Nat := field (blockWord e 2) 2 2
def syncBit (e : EngState) : Bool := decide (fnCode e.fn < 0x10) && bitOf (blockWord e 2) 6
def syncOffset (e : EngState) : Nat := 16 * field (blockWord e 2) 16 16
def elemSize (e : EngState) : Nat := 2 ^ field (blockWord e 2) 32 3

/-- The segment that a space of 1 or 2 names, as it stood at issue (R275). -/
def spaceSeg (e : EngState) (space : Nat) : Segment := if space = 1 then e.seg1 else e.seg4

/-- The sync word lies in the destination segment, 16-aligned (R277). -/
def syncOk (e : EngState) : Bool :=
  !(syncBit e) ||
    ((dstSpace e == 1 || dstSpace e == 2) && decide (syncOffset e + 16 ≤ (spaceSeg e (dstSpace e)).limit.toNat) &&
      (spaceSeg e (dstSpace e)).base.toNat % 16 == 0)

/-- Words of the block that must be zero are. -/
def zeroAt (e : EngState) (is : List Nat) : Bool := is.all fun i => blockWord e i == 0

/-- R275: the block and argument pair of a data function are valid. -/
def dataOk (e : EngState) : Bool :=
  let c := blockWord e 2
  let size := field c 32 3
  zeroAt e [5, 6, 7] && field c 7 9 == 0 && field c 35 29 == 0 && field c 4 2 != 3 && dstSpace e != 3 && syncOk e &&
  match e.fn with
  | .copy => srcSpace e != 3 && zeroAt e [3, 4] && argHigh e == 0
  | .copy2d => srcSpace e != 3
  | .gather => srcSpace e != 3 && zeroAt e [4] && decide (size ≤ 6) && argHigh e == 0
  | .scatter => srcSpace e != 3 && zeroAt e [4] && decide (size ≤ 6) && argHigh e == 0
  | .fill => zeroAt e [4] && decide (size ≤ 3) && argHigh e == 0
  | .allred => srcSpace e != 3 && zeroAt e [4] && argHigh e == 0
  | .bcast => srcSpace e != 3 && zeroAt e [4] && argHigh e == 0
  | _ => false

/-- A length, row count or element count of 0 (R275). -/
def dataEmpty (e : EngState) : Bool := argLow e == 0 || (e.fn == .copy2d && argHigh e == 0)

/-! ## Places of an operation's bytes -/

/-- Where n bytes of one 64-byte unit of a space lie, with how a deterministic grid treats them (R275, R252). -/
def engTarget (s : State) (g : Group) (c : Ctx) (e : EngState) (space addr n : Nat) (acc : Acc) :
    State × Except FaultInfo Target :=
  if space = 0 then
    match translate s c acc addr with
    | (s, .error f) => (s, .error f)
    | (s, .ok (pa, attr)) =>
      let p : Piece := { va := addr, pa := pa, len := n, attr := attr }
      match treatOf s g 0 (if acc = .r then 0 else 1) [p] with
      | .error f => (s, .error f)
      | .ok tr => (s, .ok { place := .mem (asidOf s c.part c.sec) [p], treat := tr })
  else
    let sg := spaceSeg e space
    let a := (sg.base.toNat + addr) % 2 ^ 64
    if addr + n > sg.limit.toNat || a + n > Config.scratchBytes then (s, .error { cls := fcSegLimit, va := BitVec.ofNat 64 a })
    else (s, .ok { place := .scratch a, treat := .direct })

/-- Bytes at a place for an operation, and whether one is poisoned: a shared line shows the step's start with the group's
entries staged before the operation (R252). The stream and replicate hints of a block place nothing: R223 lets a read with the hint
make a replica and asks for none (DESIGN CHOICE, log entry 28). -/
def engFetch (s : State) (g : Group) (c : Ctx) (e : EngState) (n : Nat) (t : Target) : State × List Byte × Bool :=
  match t.place with
  | .scratch off => (s, scratchRead s c.core off n, scratchPoisoned s c.core off n)
  | .mem _ ps =>
    match t.treat, gridOf s g.grid with
    | .shared, some gr =>
      let va := placeVa t.place / 8 * 8
      let (s, bs, bad) := readPieces s c (ps.map wholeUnits)
      let (s, bs) := applyOwn gr g va e.start s 0 bs
      (s, (bs.drop (placeVa t.place - va)).take n, bad)
    | _, _ => readPieces s c ps

/-- n bytes of a space for an operation. -/
def engRead (s : State) (g : Group) (c : Ctx) (e : EngState) (space addr n : Nat) :
    State × Except FaultInfo (List Byte × Bool) :=
  match engTarget s g c e space addr n .r with
  | (s, .error f) => (s, .error f)
  | (s, .ok t) =>
    let (s, bs, bad) := engFetch s g c e n t
    (s, .ok (bs, bad))

/-- Bytes of parts of one 64-byte unit each of a space, each with whether its unit is poisoned (R234). -/
def engParts (g : Group) (c : Ctx) (e : EngState) (space : Nat) : List (Nat × Nat) → State → State × Except FaultInfo (List (Byte × Bool))
  | [], s => (s, .ok [])
  | (a, k) :: r, s =>
    match engRead s g c e space a k with
    | (s, .error f) => (s, .error f)
    | (s, .ok (bs, bad)) =>
      match engParts g c e space r s with
      | (s, .error f) => (s, .error f)
      | (s, .ok rest) => (s, .ok (bs.map (fun b => (b, bad)) ++ rest))

/-- An operation with its block read, as a normal read of the operation: the words, or the fault that makes the block unusable (R275,
R276, R252). -/
def readBlock (s : State) (g : Group) (c : Ctx) (e : EngState) : State × EngState :=
  if e.words.isSome || e.bad.isSome then (s, e)
  else
    match engRead s g c e 0 e.block.toNat 64 with
    | (s, .error f) => (s, { e with bad := some f })
    | (s, .ok (bs, bad)) =>
      if bad then (s, { e with bad := some (poisonAt e.block.toNat) })
      else (s, { e with words := some ((List.range 8).map fun i => BitVec.ofNat 64 (leNat ((bs.drop (8 * i)).take 8))) })

/-- n bytes at a VA for an operation, and whether one of their units is poisoned. -/
def engVa (s : State) (g : Group) (c : Ctx) (e : EngState) (va n : Nat) : State × Except FaultInfo (List Byte × Bool) :=
  match engParts g c e 0 (splitSectors va n) s with
  | (s, .error f) => (s, .error f)
  | (s, .ok bs) => (s, .ok (bs.map (fun b => b.1), bs.any fun b => b.2))

/-! ## The bytes a data function moves (Table 11.5) -/

/-- Where a destination byte comes from: a byte of the source space, or a value. -/
inductive EngSource where
  | at (addr : Nat)
  | val (b : Byte) (bad : Bool)
  deriving DecidableEq, Repr

/-- One destination byte of an operation and the element, or row, it belongs to; `bad` when its index was poisoned. -/
structure EngMove where
  dst : Nat
  src : EngSource
  elem : Nat
  bad : Bool := false
  deriving DecidableEq, Repr

/-- An address of a space, mod 2^64. -/
def wrap64 (i : Int) : Nat := (i % (2 ^ 64 : Nat)).toNat

/-- Bytes of element `el` moved from one address to another. -/
def moveRun (dst src : Int) (n el : Nat) (bad : Bool) : List EngMove :=
  (List.range n).map fun (x : Nat) => { dst := wrap64 (dst + x), src := .at (wrap64 (src + x)), elem := el, bad := bad }

/-- The moves of a data function; `idx` holds the indexes of a gather or scatter, each with whether it was poisoned (Table 11.5). -/
def movesOf (e : EngState) (idx : List (Nat × Bool)) : List EngMove :=
  let s0 : Int := blockWord e 0
  let d0 : Int := blockWord e 1
  let n := argLow e
  let k := elemSize e
  match e.fn with
  | .copy => moveRun d0 s0 n 0 false
  | .copy2d =>
    (List.range (argHigh e)).flatMap fun (r : Nat) =>
      moveRun (d0 + r * toSigned 64 (blockWord e 4)) (s0 + r * toSigned 64 (blockWord e 3)) n r false
  | .gather => (enumFrom 0 idx).flatMap fun x => moveRun (d0 + x.1 * k) (s0 + x.2.1 * k) k x.1 x.2.2
  | .scatter => (enumFrom 0 idx).flatMap fun x => moveRun (d0 + x.2.1 * k) (s0 + x.1 * k) k x.1 x.2.2
  | .fill =>
    (List.range n).map fun (x : Nat) =>
      { dst := wrap64 (d0 + x), src := .val (BitVec.ofNat 8 (field (blockWord e 3) (8 * (x % k)) 8)) false, elem := 0 }
  | _ => []

/-- The indexes of a gather or scatter: 32-bit unsigned entries, each with whether it was poisoned. -/
def readIndexes (s : State) (g : Group) (c : Ctx) (e : EngState) : State × Except FaultInfo (List (Nat × Bool)) :=
  if e.fn = .gather || e.fn = .scatter then
    match engParts g c e 0 (splitSectors (blockWord e 3) (4 * argLow e)) s with
    | (s, .error f) => (s, .error f)
    | (s, .ok bs) =>
      (s, .ok ((List.range (argLow e)).map fun i =>
        let b := (bs.drop (4 * i)).take 4
        (leNat (b.map fun x => x.1), b.any fun x => x.2)))
  else (s, .ok [])

/-- Moves grouped into pieces: the bytes within one aligned unit of destination, in the order of their first byte (R277). -/
def addToPieces (unit : Nat) (ps : List (Nat × List EngMove)) (m : EngMove) : List (Nat × List EngMove) :=
  if ps.any fun p => p.1 == m.dst / unit then updFirst (fun p => p.1 == m.dst / unit) (fun p => (p.1, p.2 ++ [m])) ps
  else ps ++ [(m.dst / unit, [m])]

/-- Bytes of the units in which an operation's writes end: 8 for the boxes of `brefit`, else 64 (R277, R395). -/
def pieceUnit (e : EngState) : Nat := if e.fn = .brefit then 8 else 64

/-- Bytes of the units that an operation may write one by one: 8, or the pieces that its sync word counts (R239, R243, R277). -/
def earlyUnit (e : EngState) : Nat := if syncBit e then 64 else 8

/-- A move's destination has not been written ahead of the others. -/
def moveLeft (e : EngState) (m : EngMove) : Bool := !(e.done.contains (m.dst / earlyUnit e))

/-- Pieces of an operation, numbered. -/
def piecesOf (e : EngState) (ms : List EngMove) : List (Nat × Nat × List EngMove) :=
  enumFrom 0 (ms.foldl (addToPieces (pieceUnit e)) [])

/-! ## Moving the bytes -/

/-- A destination byte with the value of its source as it stands, and the physical places of both: scratchpad or memory. -/
structure EngByte where
  move : EngMove
  val : Byte
  bad : Bool
  src : Option (Bool × Nat)
  dst : Bool × Nat
  deriving DecidableEq, Repr

/-- Physical place of byte i of a target. -/
def physOf (t : Target) (i : Nat) : Bool × Nat :=
  match t.place with
  | .scratch off => (true, off + i)
  | .mem _ ps => (false, (ps.head?.map fun p => p.pa).getD 0 + i)

/-- The source of a move follows the other's within one 64-byte unit. -/
def follows (m n : EngMove) : Bool :=
  match m.src, n.src with
  | .at a, .at b => b == a + 1 && b % 64 != 0
  | _, _ => false

/-- Moves in runs whose sources are read by one access each: consecutive bytes of one 64-byte unit. -/
def sourceRuns : List EngMove → List (List EngMove)
  | [] => []
  | m :: r =>
    match sourceRuns r with
    | (n :: ms) :: rest => if follows m n then (m :: n :: ms) :: rest else [m] :: (n :: ms) :: rest
    | rest => [m] :: rest

/-- Source bytes of one run of moves: each with whether its unit is poisoned, and its physical place. -/
def readRun (s : State) (g : Group) (c : Ctx) (e : EngState) (ms : List EngMove) :
    State × Except FaultInfo (List (Byte × Bool × Option (Bool × Nat))) :=
  match ms with
  | [] => (s, .ok [])
  | m :: _ =>
    match m.src with
    | .val b bad => (s, .ok [(b, bad, none)])
    | .at a =>
      match engTarget s g c e (srcSpace e) a ms.length .r with
      | (s, .error f) => (s, .error f)
      | (s, .ok st) =>
        let (s, bs, bad) := engFetch s g c e ms.length st
        (s, .ok ((enumFrom 0 bs).map fun x => (x.2, bad, some (physOf st x.1))))

/-- Source bytes of runs of moves of one piece, whose first destination byte is `lo` at target `t`. -/
def readRuns (g : Group) (c : Ctx) (e : EngState) (t : Target) (lo : Nat) :
    List (List EngMove) → State → State × Except FaultInfo (List EngByte)
  | [], s => (s, .ok [])
  | ms :: r, s =>
    match readRun s g c e ms with
    | (s, .error f) => (s, .error f)
    | (s, .ok got) =>
      match readRuns g c e t lo r s with
      | (s, .error f) => (s, .error f)
      | (s, .ok rest) =>
        (s, .ok ((ms.zip got).map (fun x =>
          ({ move := x.1, val := x.2.1, bad := x.2.2.1 || x.1.bad, src := x.2.2.2, dst := physOf t (x.1.dst - lo) } : EngByte)) ++ rest))

/-- Source bytes of the moves of one piece, whose first destination byte is `lo` at target `t`: each run is read once (R224, R229). -/
def readMoves (g : Group) (c : Ctx) (e : EngState) (t : Target) (lo : Nat) (ms : List EngMove) (s : State) :
    State × Except FaultInfo (List EngByte) := readRuns g c e t lo (sourceRuns ms) s

/-- The target of one piece: where its destination bytes from the lowest to the highest lie. -/
def pieceTarget (s : State) (g : Group) (c : Ctx) (e : EngState) (space : Nat) (ms : List EngMove) :
    State × Except FaultInfo (Target × Nat) :=
  let lo := ms.foldl (fun a m => min a m.dst) ((ms.head?.map fun m => m.dst).getD 0)
  let hi := ms.foldl (fun a m => max a m.dst) 0
  match engTarget s g c e space lo (hi + 1 - lo) .w with
  | (s, .error f) => (s, .error f)
  | (s, .ok t) => (s, .ok (t, lo))

/-- A piece of an operation ready to be written. -/
structure EngPiece where
  index : Nat
  target : Target
  lo : Nat
  bytes : List EngByte
  deriving DecidableEq, Repr

/-- A piece evaluated: its target and the values of its sources, or the fault it meets. -/
def evalPiece (s : State) (g : Group) (c : Ctx) (e : EngState) (space : Nat) (p : Nat × Nat × List EngMove) :
    State × Except FaultInfo EngPiece :=
  match pieceTarget s g c e space p.2.2 with
  | (s, .error f) => (s, .error f)
  | (s, .ok (t, lo)) =>
    match readMoves g c e t lo p.2.2 s with
    | (s, .error f) => (s, .error f)
    | (s, .ok bs) => (s, .ok { index := p.1, target := t, lo := lo, bytes := bs })

/-- Pieces evaluated: the ones that can be written, and the faults of the others. -/
def evalPieces (g : Group) (c : Ctx) (e : EngState) (space : Nat) :
    List (Nat × Nat × List EngMove) → State → State × List EngPiece × List FaultInfo
  | [], s => (s, [], [])
  | p :: r, s =>
    match evalPiece s g c e space p with
    | (s, .error f) =>
      let (s, ok, bad) := evalPieces g c e space r s
      (s, ok, f :: bad)
    | (s, .ok x) =>
      let (s, ok, bad) := evalPieces g c e space r s
      (s, x :: ok, bad)

/-- A byte takes its source's value from before the operation, or from after the operation's own write of that source: which
one is free (R275). -/
def resolveByte (id : Nat) (all : List EngByte) : Nat → EngByte → Byte × Bool
  | 0, x => (x.val, x.bad)
  | n + 1, x =>
    if Config.freePick id (2 * x.move.dst) then (x.val, x.bad)
    else
      match all.find? fun w => x.src == some w.dst with
      | some w => resolveByte id all n w
      | none => (x.val, x.bad)

/-- Some source byte may be a destination byte of the same operation: their ranges of places meet. -/
def rangesMeet (bs : List EngByte) : Bool :=
  let srcs := bs.filterMap fun b => b.src
  let side (m : Bool) : Bool :=
    let ss := (srcs.filter fun k => k.1 == m).map fun k => k.2
    let ds := (bs.filter fun b => b.dst.1 == m).map fun b => b.dst.2
    match ss, ds with
    | a :: ss, d :: ds =>
      decide (ss.foldl min a ≤ ds.foldl max d) && decide (ds.foldl min d ≤ ss.foldl max a)
    | _, _ => false
  side true || side false

/-- Pieces with every byte's value settled. -/
def settle (id : Nat) (ps : List EngPiece) : List EngPiece :=
  let all := ps.flatMap fun p => p.bytes
  if !(rangesMeet all) then ps
  else
    ps.map fun p =>
      { p with bytes := p.bytes.map fun b => let v := resolveByte id all all.length b; { b with val := v.1, bad := v.2 } }

/-- Bytes of a piece in the order in which they are written: elements that share bytes in a free order (R275). -/
def writeOrder (id : Nat) (fn : EngFn) (bs : List EngByte) : List EngByte :=
  if fn = .scatter || fn = .copy2d then sortBy (fun b => Config.freeOrder id b.move.elem) bs else bs

/-- Contiguous runs of a table of bytes. -/
def runsOf : Table Byte → List (Nat × List Byte)
  | [] => []
  | (a, b) :: r =>
    match runsOf r with
    | (x, bs) :: rest => if x = a + 1 then (a, b :: bs) :: rest else (a, [b]) :: (x, bs) :: rest
    | [] => [(a, [b])]

/-- A staging log entry of the operation filled in: bytes of one unit join what it already stages there (R253). Poison that the
operation carries goes to the log's sector, where the commit meets it (DESIGN CHOICE, log entry 59). -/
def fillEntry (s : State) (gr : Grid) (g : Group) (i unit : Nat) (bytes : Table Byte) (bad : Bool) : State × Option FaultInfo :=
  let mask := bytes.foldl (fun m e => m ||| 2 ^ (e.1 % 8)) 0
  let data := bytes.foldl (fun v e => setField v (8 * (e.1 % 8)) 8 e.2.toNat) 0
  let fill (old : Nat) : Nat :=
    if field old 0 2 == 0 && field old 2 54 == unit then
      bytes.foldl (fun v e => setField v (64 + 8 * (e.1 % 8)) 8 e.2.toNat) (setField old 56 8 (field old 56 8 ||| mask))
    else storeEntry unit mask data
  hwAmend s g.record.part g.record.world (logVa gr g i) 16 fill bad

/-- Entries of one element of a scatter: for each aligned 8 bytes it covers (R253). -/
def scatterParts (e : EngState) : Nat :=
  let k := elemSize e
  (if k ≤ 8 then 1 else k / 8) + (if blockWord e 1 % min 8 k = 0 then 0 else 1)

/-- The log entry in which a byte of an operation is staged, if one is reserved for it. -/
def entryOf (e : EngState) (b : EngByte) (elemFirst : Nat) : Option Nat :=
  if e.fn = .scatter then some (e.start + b.move.elem * scatterParts e + (b.move.dst / 8 - elemFirst / 8))
  else
    let i := (e.units.takeWhile fun u => u != b.move.dst / 8).length
    if i < e.units.length then some (e.start + i) else none

/-- First destination byte of the scatter element of a byte: elements lie at multiples of their size from the destination. -/
def elemStart (e : EngState) (b : EngByte) : Nat :=
  let base := blockWord e 1
  if b.move.dst ≥ base then base + (b.move.dst - base) / elemSize e * elemSize e else b.move.dst

/-- Bytes of a piece on shared lines go into the operation's reserved entries, grouped by entry. -/
def stageGroup (e : EngState) (bs : List EngByte) : List (Option Nat × List EngByte) :=
  bs.foldl
    (fun acc b =>
      let k := entryOf e b (elemStart e b)
      if acc.any fun x => x.1 == k then updFirst (fun x => x.1 == k) (fun x => (x.1, x.2 ++ [b])) acc else acc ++ [(k, [b])])
    []

/-- Write the reserved entries of a piece. -/
def stageAll (gr : Grid) (g : Group) : List (Option Nat × List EngByte) → State → State × Option FaultInfo
  | [], s => (s, none)
  | (none, bs) :: _, s =>
    (s, some { cls := fcOwnership, va := BitVec.ofNat 64 ((bs.head?.map fun b => b.move.dst).getD 0), detail := 2 })
  | (some i, bs) :: r, s =>
    let t : Table Byte := bs.foldl (fun t b => tset t (b.move.dst % 8) b.val) []
    match fillEntry s gr g i ((bs.head?.map fun b => b.move.dst / 8).getD 0) t (bs.any fun b => b.bad) with
    | (s, some f) => (s, some f)
    | (s, none) => stageAll gr g r s

/-- A piece written at its place: with its poison, or to the staging log (R234, R252). -/
def writePiece (s : State) (g : Group) (c : Ctx) (e : EngState) (id : Nat) (p : EngPiece) : State × Option FaultInfo :=
  let bs := writeOrder id e.fn p.bytes
  let bad := bs.any fun b => b.bad
  match p.target.treat, gridOf s g.grid with
  | .shared, some gr => stageAll gr g (stageGroup e p.bytes) s
  | _, _ =>
    match p.target.place with
    | .scratch off =>
      let t : Table Byte := bs.foldl (fun t b => tset t (off + (b.move.dst - p.lo)) b.val) []
      let s := (runsOf t).foldl (fun s r => scratchWrite s c.core r.1 r.2) s
      let mark (k : Core) : Core := { k with scratchPoison := (unitsOf off 1 ++ k.scratchPoison.filter fun u => u != off / 64) }
      (wakeSync c.core (if bad then modCore s c.core mark else s), none)
    | .mem _ ps =>
      match ps with
      | [] => (s, none)
      | q :: _ =>
        let t : Table Byte := bs.foldl (fun t b => tset t (q.pa % 512 + (b.move.dst - p.lo)) b.val) []
        let die := l2DieOf (q.va / 2 ^ 55 % 4) q.pa
        let s :=
          if q.attr.mtype < 2 then l2Touch (l2Merge (recallLine s (q.pa / 512)) die c.part (q.pa / 512) q.attr.compr t) die c q.pa none
          else (runsOf t).foldl (fun s r => deviceStore s c.part (q.pa / 512 * 512 + r.1) r.2) s
        (if bad then placePoison s c q else s, none)

/-- Pieces of n bytes arrive at an operation's sync word, in the bank's order (R217, R277). -/
def countPiece (s : State) (core off n : Nat) : State :=
  scratchStore s core off (leBytes (syncArrive (leNat (scratchRead s core off 16)) n) 16)

/-- Bytes of a piece, each counted once. -/
def pieceBytes (p : EngPiece) : Nat := (p.bytes.foldl (fun (t : Table Byte) b => tset t b.move.dst 0) []).length

/-- Pieces written one by one, each counted at the sync word after its bytes (R277). -/
def writePieceList (g : Group) (c : Ctx) (e : EngState) (id : Nat) : List EngPiece → State → State × Option FaultInfo
  | [], s => (s, none)
  | p :: r, s =>
    match writePiece s g c e id p with
    | (s, some f) => (s, some f)
    | (s, none) =>
      let s := if syncBit e then countPiece s c.core ((spaceSeg e (dstSpace e)).base.toNat + syncOffset e) (pieceBytes p) else s
      writePieceList g c e id r s

/-- What an operation comes to: its status code, and the fault of a status 3. -/
structure EngEnd where
  status : Nat
  fault : Option FaultInfo := none
  deriving DecidableEq, Repr

/-- Every move not yet written is written, piece by piece: all of them, or, when some fault, a free choice of the others, the fault reported
being one of those met (R276); `pre` holds faults met before. -/
def runPieces (s : State) (g : Group) (c : Ctx) (e : EngState) (id space : Nat) (ms : List EngMove)
    (pre : List FaultInfo) (carried : Bool) : State × EngEnd :=
  let (s, ok, late) := evalPieces g c e space (piecesOf e (ms.filter (moveLeft e))) s
  let faults := pre ++ late
  let ok := settle id ok
  let carries := carried || e.poisoned || ok.any fun p => p.bytes.any fun b => b.bad
  match faults[Config.freeOrder id 0 % (faults.length + (if faults.isEmpty then 1 else 0))]? with
  | some f =>
    let (s, _) := writePieceList g c e id (ok.filter fun p => Config.freePick id (2 * p.index + 1)) s
    (s, { status := 3, fault := some (engFault e f) })
  | none =>
    match writePieceList g c e id ok s with
    | (s, some f) => (s, { status := 3, fault := some (engFault e f) })
    | (s, none) => (s, { status := if carries then 1 else 0 })

/-- A data function from its block to its end (R275 to R277). -/
def runData (s : State) (g : Group) (c : Ctx) (e : EngState) (id : Nat) : State × EngEnd :=
  if !(dataOk e) then (s, { status := 4 })
  else if dataEmpty e then (s, { status := 0 })
  else
    match readIndexes s g c e with
    | (s, .error f) => (s, { status := 3, fault := some (engFault e f) })
    | (s, .ok idx) => runPieces s g c e id (dstSpace e) (movesOf e idx) [] false

/-- An operation ends: its status goes to vD, its counter falls, its fault waits for the thread (R276). -/
def endEng (s : State) (o : Op) (e : EngState) (r : EngEnd) : State :=
  let tid := o.threads.headD 0
  let s := match e.reply with | some d => replyLast s o tid [(d, BitVec.ofNat 32 r.status)] | none => s
  let s := match r.fault with | some f => deferFault s o.gk tid o.cnt f | none => s
  retireOp s o

/-- The operation of a name with its state replaced. -/
def putEng (s : State) (id : Nat) (e : EngState) : State :=
  { s with ops := updFirst (fun o => o.id == id) (fun o => { o with kind := .eng e }) s.ops }

/-- A unit of an operation's destination, by its number among those of the moves given, is written ahead of the others with the values
that stand then (R239, R243, R277). One that would fault is left to the completion. -/
def writeEarly (s : State) (g : Group) (o : Op) (e : EngState) (space : Nat) (ms : List EngMove) (piece : Nat) : Option State :=
  match (ms.foldl (addToPieces (earlyUnit e)) [])[piece]? with
  | none => none
  | some p =>
    if e.done.contains p.1 then none
    else
      match evalPiece s g (opCtx o g) e space (piece, p) with
      | (_, .error _) => none
      | (s, .ok x) =>
        match writePieceList g (opCtx o g) e o.id [x] s with
        | (_, some _) => none
        | (s, none) => some (putEng s o.id { e with done := e.done ++ [p.1], poisoned := e.poisoned || x.bytes.any fun b => b.bad })

/-- A piece of a data function is written ahead of the others. -/
def earlyPiece (s : State) (o : Op) (e : EngState) (piece : Nat) : State :=
  match groupOf s o.gk with
  | none => s
  | some g =>
    let c := opCtx o g
    let (s', e) := readBlock s g c e
    if e.bad.isSome || !(dataOk e) || dataEmpty e || e.fn == .allred || e.fn == .bcast then s
    else
      match readIndexes s' g c e with
      | (_, .error _) => s
      | (s', .ok idx) => (writeEarly s' g o e (dstSpace e) (movesOf e idx) piece).getD s

/-- An arrival of `swadd` (R271): one piece of n bytes, then the operation is complete. -/
def completeSyncAdd (s : State) (o : Op) (off : Nat) (n : Word) : State :=
  if scratchPoisoned s o.core off 16 then retireOp (deferFault s o.gk (o.threads.headD 0) o.cnt (poisonAt off)) o
  else retireOp (if n = 0 then s else countPiece s o.core off n.toNat) o

/-- SYNC_WORD_PIECE_ARRIVAL (R217): a counted piece of an engine operation arrives at its sync word. -/
def execSyncWordPieceArrival (op piece : Nat) (s : State) : Res :=
  .next (match opOf s op with
    | none => s
    | some o =>
      match o.kind with
      | .swAdd off n => if piece = 0 then completeSyncAdd s o off n else s
      | .eng e => if syncBit (match groupOf s o.gk with | some g => (readBlock s g (opCtx o g) e).2 | none => e) then earlyPiece s o e piece else s
      | _ => s)

/-! ## Issue (R275, R253) -/

/-- Aligned 8-byte units of ranges of a destination that may lie in shared lines of a grid, ascending, each once. -/
def sharedUnits (gr : Grid) (gid : Nat) (ranges : List (Nat × Nat)) : List Nat :=
  let us := ranges.flatMap fun r => (splitAt 8 r.1 (r.2 / 8 + 2) r.2).map fun p => p.1 / 8
  let us := (sortBy id us).foldr (fun u l => if l.head? = some u then l else u :: l) []
  us.filter fun u => match ownership gr gid (u / 64) 1 with | .ok .shared => true | _ => false

/-- Bytes of normal memory that a data function may write, as ranges (R253). -/
def dataRanges (e : EngState) : List (Nat × Nat) :=
  if !(dataOk e) || dataEmpty e || dstSpace e != 0 then []
  else
    match e.fn with
    | .copy => [(blockWord e 1, argLow e)]
    | .fill => [(blockWord e 1, argLow e)]
    | .gather => [(blockWord e 1, argLow e * elemSize e)]
    | .copy2d =>
      (List.range (argHigh e)).map fun (r : Nat) => (wrap64 (blockWord e 1 + r * toSigned 64 (blockWord e 4)), argLow e)
    | _ => []

/-- Entries that a scatter reserves: its element count times those of one element, when the grid has shared lines (R253). -/
def scatterEntries (gr : Grid) (e : EngState) : Nat :=
  if e.fn != .scatter || !(dataOk e) || dataEmpty e || dstSpace e != 0 then 0
  else if (gr.table.getD []).any fun x => x.sharedLine then argLow e * scatterParts e else 0

/-- In a deterministic grid the block is read and the entries are reserved at the `eng`'s position (R253). -/
def reserve (s : State) (g : Group) (c : Ctx) (e : EngState)
    (ranges : State → Group → Ctx → EngState → State × List (Nat × Nat)) : State × Except FaultInfo EngState :=
  if !g.record.det then (s, .ok e)
  else
    match gridOf s g.grid, groupOf s g.gk with
    | some gr, some now =>
      let (s, e) := readBlock s g c { e with start := now.staged }
      if e.bad.isSome then (s, .ok e)
      else
        let (s, rs) := ranges s g c e
        let us := sharedUnits gr g.gid rs
        let n := us.length + scatterEntries gr e
        match (if n = 0 then (s, none) else stage s g (8 * us.headD (blockWord e 1 / 8)) (List.replicate n 3)) with
        | (s, some f) => (s, .error f)
        | (s, none) => (s, .ok { e with units := us })
    | _, _ => (s, .ok e)

/-- `eng` for one thread (R275): the address of the block is checked, the thread's earlier operations are released, and the
operation is issued. `after` is what happens to it at once. -/
def issueEng (fn : EngFn) (o : EngOp) (ranges : State → Group → Ctx → EngState → State × List (Nat × Nat))
    (after : State → Op → EngState → State) (s : State) (g : Group) (t : Thread) : State × Option FaultInfo :=
  match readSrc64 .int g t o.a, readSrc64 .int g t o.b with
  | .error f, _ => (s, some f)
  | .ok a, rb =>
    let va := a + o.imm.signExtend 64
    if va.toNat % 64 != 0 then (s, some { cls := fcMisaligned, va := va })
    else if va.toNat ≥ 2 ^ 57 then (s, some { cls := fcAddress, va := va })
    else
      match rb with
      | .error f => (s, some f)
      | .ok b =>
        let s := releaseThread s g.gk t.idx
        let e : EngState :=
          { fn := fn, block := va, arg := b, reply := if o.reply then some o.d.toNat else none
            seg1 := segOf g 1, seg4 := segOf g 4, start := g.staged }
        match reserve s g (ctxOf g t) e ranges with
        | (s, .error f) => (s, some f)
        | (s, .ok e) =>
          let s := issueOp s g t.idx o.wait t.inSup (.eng e)
          match s.ops.getLast? with
          | some op => (after s op e, none)
          | none => (s, none)

/-- An `eng` instruction: it waits for a counter below 63 and for room in the engine queue (R70, Table 12.1). -/
def runEng (fn : EngFn) (o : EngOp) (ranges : State → Group → Ctx → EngState → State × List (Nat × Nat))
    (after : State → Op → EngState → State) (s : State) : State :=
  if counterFull s o.g o.wait then s else runQueued s o.g (issueEng fn o ranges after)

/-- Ranges of a data function. -/
def plainRanges (s : State) (_ : Group) (_ : Ctx) (e : EngState) : State × List (Nat × Nat) := (s, dataRanges e)

/-- Nothing happens at once. -/
def laterEng (s : State) (_ : Op) (_ : EngState) : State := s

/-- ENG_COPY (Table 11.5). -/
def execEngCopy (o : EngOp) (s : State) : Res := .next (runEng .copy o plainRanges laterEng s)
/-- ENG_COPY2D (Table 11.5). -/
def execEngCopy2d (o : EngOp) (s : State) : Res := .next (runEng .copy2d o plainRanges laterEng s)
/-- ENG_GATHER (Table 11.5). -/
def execEngGather (o : EngOp) (s : State) : Res := .next (runEng .gather o plainRanges laterEng s)
/-- ENG_SCATTER (Table 11.5). -/
def execEngScatter (o : EngOp) (s : State) : Res := .next (runEng .scatter o plainRanges laterEng s)
/-- ENG_FILL (Table 11.5). -/
def execEngFill (o : EngOp) (s : State) : Res := .next (runEng .fill o plainRanges laterEng s)

/-! ## Collectives (R278 to R280) -/

/-- Fields of a collective object (Table 11.7). -/
def objP (v : Nat) : Nat := field v 0 16
def objLen (v : Nat) : Nat := field v 32 32
def objRoot (v : Nat) : Nat := field v 64 8
def objArrived (v : Nat) : Nat := field v 80 16

/-- R278: the object is valid for a function. -/
def objOk (fn : EngFn) (v : Nat) : Bool :=
  let fmt := field v 20 5
  let op := field v 16 4
  field v 25 7 == 0 && field v 72 8 == 0 && field v 384 128 == 0 && decide (1 ≤ objP v) && decide (objP v ≤ 256) &&
  decide (1 ≤ objLen v) && decide (objLen v ≤ 65536) &&
  (if fn = .bcast then decide (objRoot v < objP v)
   else
    decide (op < 6) && decide (4 ≤ fmt) && decide (fmt ≤ 11) && (op < 3 || fmt < 8) &&
      (match fmtOf fmt with | some f => objLen v % (fmtWidth f / 8) == 0 | none => false))

/-- One step of the fold of an `allred` on elements of a format (R279). -/
def foldElem (f : Fmt) (op a b : Nat) : Nat :=
  let w := fmtWidth f
  match f with
  | .flt p =>
    let x := decodeFlt p false a
    let y := decodeFlt p false b
    (roundFlt p false false 0 0 (if op = 0 then (exactAdd 0 x y).1 else minMax (op == 2) x y)).1
  | .int signed _ =>
    let le := if signed then decide (toSigned w a ≤ toSigned w b) else decide (a ≤ b)
    match op with
    | 0 => (a + b) % 2 ^ w
    | 1 => if le then a else b
    | 2 => if le then b else a
    | 3 => a &&& b
    | 4 => a ||| b
    | _ => a ^^^ b
  | .d8 => a

/-- The fold of one rank's bytes into the accumulated ones, element by element (R279). -/
def foldBytes (f : Fmt) (op : Nat) : Nat → List Byte → List Byte → List Byte
  | 0, _, _ => []
  | n + 1, a, b =>
    let k := fmtWidth f / 8
    leBytes (foldElem f op (leNat (a.take k)) (leNat (b.take k))) k ++ foldBytes f op n (a.drop k) (b.drop k)

/-- Participants of a round at an object, in ascending rank (R278). -/
def roundOps (s : State) (pa : Nat) : List (Nat × Op × EngState) :=
  sortBy (fun x => x.1) (s.ops.filterMap fun o =>
    match o.kind with
    | .eng e => (match e.joined with | some j => if j.1 = pa then some (j.2, o, e) else none | none => none)
    | _ => none)

/-- Source bytes of a participant. -/
def sourceOf (s : State) (o : Op) (e : EngState) (n : Nat) : State × Except FaultInfo (List (Byte × Bool)) :=
  match groupOf s o.gk with
  | none => (s, .ok (List.replicate n (0, false)))
  | some g =>
    match engParts g (opCtx o g) e (srcSpace e) (splitSectors (blockWord e 0) n) s with
    | (s, .error f) => (s, .error (engFault e f))
    | (s, .ok bs) => (s, .ok bs)

/-- Every source that a round reads (R278). -/
def sourcesOf (n : Nat) : List (Nat × Op × EngState) → State → State × Except FaultInfo (List (List (Byte × Bool)))
  | [], s => (s, .ok [])
  | x :: r, s =>
    match sourceOf s x.2.1 x.2.2 n with
    | (s, .error f) => (s, .error f)
    | (s, .ok bs) =>
      match sourcesOf n r s with
      | (s, .error f) => (s, .error f)
      | (s, .ok rest) => (s, .ok (bs :: rest))

/-- The bytes that every participant receives (R279). -/
def roundResult (fn : EngFn) (obj n : Nat) (srcs : List (List (Byte × Bool))) : List (Byte × Bool) :=
  match srcs with
  | [] => []
  | a :: r =>
    if fn = .bcast then a
    else
      match fmtOf (field obj 20 5) with
      | none => a
      | some f =>
        let k := fmtWidth f / 8
        let bytes := r.foldl (fun acc b => foldBytes f (field obj 16 4) (n / k) acc (b.map fun x => x.1)) (a.map fun x => x.1)
        -- an element carries the poison of any of its operands
        (enumFrom 0 bytes).map fun x =>
          (x.2, (a :: r).any fun b => (List.range k).any fun i => (b.getD (x.1 / k * k + i) (0, false)).2)

/-- A participant's destination is written and its operation ends (R278). -/
def endRound (out : List (Byte × Bool)) (s : State) (x : Nat × Op × EngState) : State :=
  match groupOf s x.2.1.gk with
  | none => dropOp s x.2.1.id
  | some g =>
    let e := x.2.2
    let moves : List EngMove := (enumFrom 0 out).map fun b =>
      { dst := wrap64 (blockWord e 1 + b.1), src := .val b.2.1 b.2.2, elem := 0 }
    let (s, r) := runPieces s g (opCtx x.2.1 g) e x.2.1.id (dstSpace e) moves [] (out.any fun b => b.2)
    endEng s x.2.1 e r

/-- The round is complete: sources read, destinations written, every participant done (R278). A source that faults ends the
round with that fault for every participant, and a round that joins both functions is performed as its last arrival's (DESIGN CHOICE,
log entry 27). -/
def runRound (s : State) (fn : EngFn) (pa obj : Nat) : State :=
  let ops := roundOps s pa
  let read := if fn = .bcast then ops.filter fun x => x.1 == objRoot obj else ops
  match sourcesOf (objLen obj) read s with
  | (s, .error f) => ops.foldl (fun s x => endEng s x.2.1 x.2.2 { status := 3, fault := some f }) s
  | (s, .ok srcs) => ops.foldl (endRound (roundResult fn obj (objLen obj) srcs)) s

/-- Memory of a partition: a region of HBM that the memory region table assigns to it, or host memory of no other partition's range
(R278, R416). -/
def partOwns (s : State) (part pa : Nat) : Bool :=
  if isHost pa then !(s.hostRanges.any fun r => r.part != part && decide (r.first ≤ pa) && decide (pa < r.last)) else ownsPa s part pa

/-- Where a collective object lies, or the fault of an access to it (R278, R280). One that is misaligned or not in normal memory is a
fault of the access, with status 3: R278 gives it no outcome (DESIGN CHOICE, log entry 27). -/
def objectPiece (s : State) (c : Ctx) (va : Nat) : State × Except FaultInfo Piece :=
  if va % 64 != 0 then (s, .error { cls := fcMisaligned, va := BitVec.ofNat 64 va })
  else
    match translate s c .rw va with
    | (s, .error f) => (s, .error f)
    | (s, .ok (pa, attr)) =>
      if attr.mtype != 0 then (s, .error { cls := fcMemType, va := BitVec.ofNat 64 va })
      else if !(partOwns s c.part pa) then (s, .error { cls := fcPartition, va := BitVec.ofNat 64 va })
      else
        let p : Piece := { va := va, pa := pa, len := 64, attr := attr }
        let (s, _, bad) := readPieces s c [p]
        (s, if bad then .error (poisonAt va) else .ok p)

/-- A participant arrives at its object; the last one runs the round (R278). -/
def arrive (s : State) (o : Op) (e : EngState) : State :=
  match groupOf s o.gk with
  | none => s
  | some g =>
    let c := opCtx o g
    let (s, e) := readBlock s g c e
    match e.bad with
    | some f => endEng s o e { status := 3, fault := some (engFault e f) }
    | none =>
      if !(dataOk e) then endEng s o e { status := 4 }
      else
        match objectPiece s c (blockWord e 3) with
        | (s, .error f) => endEng s o e { status := 3, fault := some (engFault e f) }
        | (s, .ok p) =>
          let (s, bs, _) := readPieces s c [p]
          let v := leNat bs
          let rank := argLow e
          if !(objOk e.fn v) then endEng s o e { status := 4 }
          else if rank ≥ objP v || bitOf v (128 + rank) then endEng s o e { status := 2 }
          else
            let last := objArrived v + 1 == objP v
            let v' :=
              if last then setField (setField (setField v 80 16 0) 128 256 0) 96 32 (field v 96 32 + 1)
              else setField (setField v 80 16 (objArrived v + 1)) (128 + rank) 1 1
            let s := writePieces s c [p] (leBytes v' 64)
            let s := putEng s o.id { e with joined := some (p.pa, rank) }
            if last then runRound s e.fn p.pa v else s

/-- Destination of a participant, for its reserved entries (R253). -/
def roundRanges (s : State) (_ : Group) (c : Ctx) (e : EngState) : State × List (Nat × Nat) :=
  if !(dataOk e) || dstSpace e != 0 then (s, [])
  else
    match objectPiece s c (blockWord e 3) with
    | (s, .error _) => (s, [])
    | (s, .ok p) =>
      let (s, bs, _) := readPieces s c [p]
      (s, if objOk e.fn (leNat bs) then [(blockWord e 1, objLen (leNat bs))] else [])

/-- ENG_ALLRED (R278, R279): the thread's arrival at an all-reduce round. -/
def execEngAllred (o : EngOp) (s : State) : Res := .next (runEng .allred o roundRanges arrive s)
/-- ENG_BCAST (R278, R279): the thread's arrival at a broadcast round. -/
def execEngBcast (o : EngOp) (s : State) : Res := .next (runEng .bcast o roundRanges arrive s)

end Sys2Proof.Machine
end

