-- ==== Sys2Proof/Machine/HostLink.lean ====
section
/-! DEFINITION. What the host does over Ivyoner: enqueues, memory and register accesses, the gaze path, the capability word, fault
records and their replay, display registers (spec/19_host_link_and_power.md R429 to R434, spec/12_task_queues.md R283, R284,
spec/18_faults_and_security.md R414, spec/17_counters.md R405). -/
namespace Sys2Proof.Machine

/-- A host event whose arg1 the manual does not state: a free word (log entry 1). -/
def eventFree (s : State) (part code arg0 : Nat) : State :=
  hostEvent (useFresh s 1) part code arg0 (Config.freeWord s.fresh).toNat

/-- A host event of which the manual states neither the code nor an argument (log entry 1). -/
def eventUnnamed (s : State) (part : Nat) : State :=
  hostEvent (useFresh s 3) part (Config.freeByte s.fresh).toNat (Config.freeWord (s.fresh + 1)).toNat
    (Config.freeWord (s.fresh + 2)).toNat

/-! ## Enqueue (R283, R284, R287, R440) -/

/-- The cluster that a host enqueue at a window offset goes to: none when it is rejected (R283). -/
def enqueueCluster (s : State) (part offset cls : Nat) : Option Nat :=
  let open' := (partClusters s part).filter fun g => !(gated s g)
  if offset = 0 then
    open'.foldl (fun (b : Option Nat) g => match b with
      | none => some g
      | some x => if (deckOf s g cls).length < (deckOf s x cls).length then some g else some x) none
  else if offset % 64 = 0 && open'.contains (offset / 64 - 1) then some (offset / 64 - 1)
  else none

/-- A host launch invalidates the instruction caches for its partition (R63). -/
def dropPartCode (s : State) (part : Nat) : State :=
  let mine (e : ISector) : Bool := e.asid == asidOf s part false || e.asid == asidOf s part true
  { s with cores := s.cores.map fun c => (c.1, { c.2 with icache := c.2.icache.filter fun e => !(mine e) }) }

/-- Bytes written into a partition's enqueue window (R283, R430): a whole 64-byte record enters a deck, as a grid of depth 0 (R30); every
other write is rejected with event 1. -/
def enqueueBytes (s : State) (part offset : Nat) (data : List Byte) : State :=
  let r := parseRecord (leNat data)
  if data.length != 64 || !((partOf s part).pctl.getLsbD 0) || !(recordValid r part) then eventFree s part 1 offset
  else
    match enqueueCluster s part offset r.cls with
    | none => eventFree s part 1 offset
    | some g =>
      if !r.det && landingLeft s part g r.cls == 0 then eventFree s part 1 offset
      else acceptRecord (dropPartCode s part) { r with depth := 0 } 0 g true .none none

/-- HOST_ENQUEUE (R283). -/
def execHostEnqueue (part offset : Nat) (words : List DWord) (s : State) : Res :=
  .next (if hostBlocked s || part ≥ 8 then s else enqueueBytes s part offset (words.flatMap fun w => leBytes w.toNat 8))

/-! ## Memory (R429) -/

/-- Context of the host's accesses to a partition's non-secure space. -/
def hostCtx (part : Nat) : Ctx := hwCtx part false

/-- A transaction lies within one 512-byte line and names a partition. -/
def lineOk (part va len : Nat) : Bool := decide (part < 8) && decide (1 ≤ len) && decide (va % 512 + len ≤ 512)

/-- A read of a whole line stays compressed over the link: a line of a compressible page of device memory, for a host that holds
compressed lines (R232, Table 19.3). -/
def staysPacked (s : State) (va len : Nat) (ps : List Piece) (bs : List Byte) : Bool :=
  s.hostCap.getLsbD 0 && va % 512 == 0 && len == 512 && ps.all (fun p => p.attr.compr && !(isHost p.pa)) && sizeTag bs != 7

/-- HOST_MEMORY_READ (R429): data, a poison response (R432), or an error completion, with event 2 when the access faulted. -/
def execHostMemoryRead (part : Nat) (va : DWord) (len : Nat) (s : State) : Res :=
  .next (if hostBlocked s || !(lineOk part va.toNat len) then sendHost s .error
    else
      match translateParts s (hostCtx part) .r (splitSectors va.toNat len) with
      | (s, .error _) => eventFree (sendHost s .error) part 2 va.toNat
      | (s, .ok ps) =>
        let (s, bs, bad) := readPieces s (hostCtx part) ps
        sendHost s
          (if bad then (if s.hostCap.getLsbD 1 then .poison else .error)
           else if staysPacked s va.toNat len ps bs then .packed (sizeTag bs) (storedLine (sizeTag bs) bs)
           else .data bs))

/-- Runs of enabled bytes of a write, by offset. -/
def enabledRuns : Nat → List (Option Byte) → List (Nat × List Byte)
  | _, [] => []
  | i, none :: r => enabledRuns (i + 1) r
  | i, some b :: r =>
    match enabledRuns (i + 1) r with
    | (j, bs) :: rest => if j = i + 1 then (i, b :: bs) :: rest else (i, [b]) :: (j, bs) :: rest
    | [] => [(i, [b])]

/-- HOST_MEMORY_WRITE (R429): the enabled bytes are written at the owning die's L2, which removes replicas (R223). -/
def execHostMemoryWrite (part : Nat) (va : DWord) (data : List (Option Byte)) (s : State) : Res :=
  .next (if hostBlocked s || !(lineOk part va.toNat data.length) then sendHost s .error
    else
      match translateParts s (hostCtx part) .w (splitSectors va.toNat data.length) with
      | (s, .error _) => eventFree (sendHost s .error) part 2 va.toNat
      | (s, .ok _) => (enabledRuns 0 data).foldl (fun s r => (vmWrite s (hostCtx part) (va.toNat + r.1) r.2).1) s)

/-! ## Display registers (R434) -/

/-- A display register's write that is ignored while the output is enabled: event 3. -/
def displayIgnored (s : State) (o i : Nat) (v : Word) : State := hostEvent s 0 3 (0x4000 + 0x20 * o + 4 * i) v.toNat

/-- `dmode` (Table 19.4): setting en starts link training; clearing it stops the video. dsc keeps its value while en is 1. -/
def dmodeWrite (s : State) (o : Nat) (v : Word) : State :=
  let old := (outOf s o).dmode
  let s := if old.getLsbD 0 && v.getLsbD 1 != old.getLsbD 1 then displayIgnored s o 0 v else s
  let dsc := if old.getLsbD 0 then old &&& 2 else v &&& 2
  if v.getLsbD 0 then modOut s o fun x => { x with dmode := dsc ||| 1 ||| (if old.getLsbD 0 then old &&& 4 else 0) }
  else modOut s o fun x => { x with dmode := dsc, scan := none }

/-- Register i of an output (Table 19.4). -/
def displayWrite (s : State) (o i : Nat) (v : Word) : State :=
  let en := (outOf s o).dmode.getLsbD 0
  match i with
  | 0 => dmodeWrite s o v
  | 1 => if en then displayIgnored s o i v else modOut s o fun x => { x with dsize := putField (putField x.dsize v 0 16 1 8192) v 16 16 1 8192 }
  | 2 => if en then displayIgnored s o i v else modOut s o fun x => { x with downer := v &&& 0xF }
  | _ => s

/-- A display register as the host reads it. -/
def displayReg (s : State) (o i : Nat) : Word :=
  match i with
  | 0 => (outOf s o).dmode
  | 1 => (outOf s o).dsize
  | 2 => (outOf s o).downer
  | _ => 0

/-- DISPLAY_ENABLE (R434): a write of `dmode`. -/
def execDisplayEnable (out : Nat) (val : Word) (s : State) : Res := .next (if hostBlocked s || out ≥ 2 then s else dmodeWrite s out val)

/-- LINK_TRAINING_DONE (R434): a trained output sends video, from the first frame that has not begun. -/
def execLinkTrainingDone (out : Nat) (ok : Bool) (s : State) : Res :=
  .next (if out ≥ 2 || !((outOf s out).dmode.getLsbD 0) || (outOf s out).dmode.getLsbD 2 || !ok then s
    else modOut s out fun x =>
      let late (c : Capture) : Capture := { c with begun := c.begun || decide (deadlineOf c.timing 0 < s.devtime) }
      { x with dmode := x.dmode ||| 4, nextFrame := firstFrame s.devtime x, captures := x.captures.map late })

/-! ## Registers (R430) -/

/-- Where an offset of the host register space lies (Table 19.2). -/
inductive HostPlace where
  | device (n : Nat)
  | display (o i : Nat)
  | enqueue (part offset : Nat)
  | invalidate (part die : Nat)
  | nothing

/-- The place of an access of n bytes: outside the enqueue windows it is a whole aligned 4-byte access. -/
def hostPlace (off n : Nat) : HostPlace :=
  if 0x10000 ≤ off && off < 0x18000 then .enqueue ((off - 0x10000) / 0x1000) (off % 0x1000)
  else if off % 4 != 0 || n != 4 then .nothing
  else if off < 0x4000 then .device (off / 4)
  else if off < 0x4040 then .display ((off - 0x4000) / 0x20) (off % 0x20 / 4)
  else if 0x20000 ≤ off && off < 0x20800 && off % 0x100 < 0x80 then .invalidate ((off - 0x20000) / 0x100) (off % 0x100 / 0x20)
  else .nothing

/-- HOST_REGISTER_WRITE (R430): bytes at an offset; what enters an enqueue window is an enqueue, and anything else that is no register
is dropped with an error completion. -/
def execHostRegisterWrite (offset : Nat) (data : List Byte) (s : State) : Res :=
  let val : Word := BitVec.ofNat 32 (leNat data)
  .next (if hostBlocked s then s
    else
      match hostPlace offset data.length with
      | .device n => deviceWrite s .host n val
      | .display o i => displayWrite s o i val
      | .enqueue p off => enqueueBytes s p off data
      | .invalidate _ _ => sendHost s .error
      | .nothing => sendHost s .error)

/-- An access of the host's to n bytes of its register space that reads them (R430): numbers below 0x200 and the write-only invalidate
windows read zero (R6), and what a 4-byte read in an enqueue window gives the spec does not say: a free word (DESIGN CHOICE, log
entry 19). Without verified firmware only the boot status is offered (R422). -/
def hostRegisterRead (s : State) (offset n : Nat) : State :=
  if !s.booted then sendHost s .error
  else
    match hostPlace offset n with
    | .device k => sendHost s (.register (if k < 0x200 then 0 else deviceReg s .host k))
    | .display o i => sendHost s (.register (displayReg s o i))
    | .invalidate _ _ => sendHost s (.register 0)
    | .enqueue _ off =>
      if off % 4 != 0 || n != 4 then sendHost s .error else sendHost (useFresh s 1) (.register (Config.freeWord s.fresh))
    | .nothing => sendHost s .error

/-- A counter as the host reads it through its register path, of a core and a partition where it is theirs (R404). -/
def hostCounterRead (s : State) (n core part : Nat) : State :=
  sendHost s (if !s.booted then .error else .counter (BitVec.ofNat 64 (counterValue s core part n)))

/-- GAZE_WRITE (R431): the low-latency path. -/
def execGazeWrite (view : Nat) (val : Word) (s : State) : Res :=
  .next (if hostBlocked s || view ≥ 8 then s else deviceWrite s .host (0x240 + view) val)

/-- PCSEL_WRITE (R405). -/
def execPcselWrite (n : Nat) (val : Word) (s : State) : Res :=
  .next (if hostBlocked s || n ≥ 16 then s else deviceWrite s .host (0x400 + n) val)

/-- The device's capability word (Table 19.3): the gaze path, version 1, and pois 0 (DESIGN CHOICE for pois, log entry 19). -/
def deviceCap : DWord := 0x104

/-- CAPABILITY_EXCHANGE (R432): the device reads the host's word once and sends its own. -/
def execCapabilityExchange (word : DWord) (s : State) : Res :=
  .next (if hostBlocked s || s.hostCapRead then s
    else sendHost { s with hostCap := word, hostCapRead := true } (.capability deviceCap))

/-! ## Fault records (R414) -/

/-- A fault record's threads that have no record yet. -/
def waitingFor (s : State) (r : FaultRec) : List (Nat × Nat) :=
  r.members.filter fun m =>
    match (groupOf s m.1).bind fun g => threadOf g m.2 with
    | some t => t.status == .parked none
    | none => false

/-- The oldest fault record of a partition that waits for room (R414). -/
def nextFaultRec (s : State) (part : Nat) : Option FaultRec := (partOf s part).parked.find? fun r => r.seq.isNone

/-- The host fault queue has room. -/
def faultRoom (p : Partition) : Bool := decide ((p.fqtail - p.fqhead).toNat < 2 ^ field p.qsize.toNat 0 4)

/-- HOST_FAULT_RECORD (R414): the record is written at slot `fqtail` mod 2^k, `fqtail` goes up, its threads park under it. One
whose threads have all gone meanwhile is forgotten. -/
def execHostFaultRecord (part : Nat) (s : State) : Res :=
  .next (match nextFaultRec s part with
    | none => s
    | some r =>
      let p := partOf s part
      let ms := waitingFor s r
      if ms.isEmpty then modPart s part fun q => { q with parked := q.parked.filter fun x => x != r }
      else if !(faultRoom p) then s
      else
        let seq := p.fqtail
        let words := match r.words with | w :: ws => BitVec.ofNat 64 (setField w.toNat 0 32 seq.toNat) :: ws | [] => []
        let s := hostWords s part (p.fqbase.toNat + 64 * (seq.toNat % 2 ^ field p.qsize.toNat 0 4)) words
        let s := modPart s part fun q =>
          { q with
            fqtail := seq + 1
            parked := updFirst (fun x => x == r) (fun x => { x with seq := some seq, words := words, members := ms }) q.parked }
        ms.foldl (fun s m => modThread s m.1 m.2 fun t => { t with status := .parked (some seq) }) s)

/-- REPLAY (R414). -/
def execReplay (part : Nat) (seq : Word) (s : State) : Res := .next (if hostBlocked s then s else replayRecord s part seq)

/-- KILL (R414). -/
def execKill (part : Nat) (seq : Word) (s : State) : Res := .next (if hostBlocked s then s else killRecord s part seq)

end Sys2Proof.Machine
end

