-- ==== Sys2Proof/Machine/MatrixValues.lean ====
section
/-! DEFINITION. Matrix registers as values: headers and their validity, images in the tile store, the algebra on factors,
recompression, block scales (spec/07_matrix_registers.md R172 to R180, spec/08_matrix_instructions.md R192, R198, R199, R207 to
R210). -/
namespace Sys2Proof.Machine

/-! ## Headers (R172, R173, R177, R192) -/

/-- Codes of TB8 and B4 (Table 5.1). -/
def fmtTB8 : Nat := 16
def fmtB4 : Nat := 17

/-- A block format. -/
def isBlock (f : Nat) : Bool := f == fmtTB8 || f == fmtB4

/-- A format that holds factors (R173). -/
def holdsFactors (f : Nat) : Bool := f == 8 || f == 9 || f == 10 || f == 12 || f == 13

/-- Bits of an element in a tile (Table 7.2). -/
def elemBits (f : Nat) : Nat :=
  if f = 14 || f = fmtB4 then 4 else if f = fmtTB8 then 8 else match fmtOf f with | some x => fmtWidth x | none => 8

/-- Bytes of a factor element. -/
def elemBytes (f : Nat) : Nat := elemBits f / 8

/-- Slots of a dense tile (Table 7.2). -/
def denseSlots (f : Nat) : Nat := if f = fmtTB8 then 5 else if f = fmtB4 then 3 else elemBits f / 2

/-- Capacity of a register (R177). -/
def capacity (h : MHeader) : Nat :=
  if holdsFactors h.fmt.toNat then min 31 (h.scount.toNat * (8 / elemBytes h.fmt.toNat)) else 0

/-- Bytes of the elements and of the scale array of a block format. -/
def blockElems (f : Nat) : Nat := 512 * elemBits f
def scaleBytes (f : Nat) : Nat := if f = fmtTB8 then 256 else 128

/-- A header is valid (R173). -/
def hdrValid (h : MHeader) : Bool :=
  let f := h.fmt.toNat
  let r := h.rank.toNat
  !(f == 6 || f == 7 || f == 11 || decide (f ≥ 18)) && !(decide (32 ≤ r) && decide (r ≤ 62)) &&
  (r == 0 || r == 63 || (holdsFactors f && decide (r ≤ capacity h))) && (r != 63 || decide (denseSlots f ≤ h.scount.toNat)) &&
  (if isBlock f then
    h.blog == 5 && decide (blockElems f ≤ 64 * h.sofs.toNat) && decide (64 * h.sofs.toNat + scaleBytes f ≤ 1024 * h.scount.toNat)
   else h.blog == 0 && h.sofs == 0)

/-- Bytes of the image of a register at a rank (R192). -/
def imageLen (h : MHeader) (rank : Nat) : Nat :=
  let f := h.fmt.toNat
  if rank = 0 then 0
  else if rank < 63 then 128 * rank * elemBytes f
  else if isBlock f then 64 * h.sofs.toNat + scaleBytes f
  else 512 * elemBits f

/-- The bytes of an image that are read or written, as offset and length: a gap before a scale array is none of them. -/
def imageParts (h : MHeader) (rank : Nat) : List (Nat × Nat) :=
  let f := h.fmt.toNat
  if isBlock f && rank = 63 then [(0, blockElems f), (64 * h.sofs.toNat, scaleBytes f)] else [(0, imageLen h rank)]

/-- The 16 bytes of a header (Table 7.1). -/
def hdrBytes (h : MHeader) : List Byte :=
  leBytes (h.fmt.toNat + 2 ^ 5 * h.tr.toNat + 2 ^ 8 * h.rank.toNat + 2 ^ 16 * h.sbase.toNat + 2 ^ 24 * h.scount.toNat
    + 2 ^ 33 * h.rm.toNat + 2 ^ 40 * h.sofs.toNat + 2 ^ 48 * h.blog.toNat + 2 ^ 64 * h.key.toNat + 2 ^ 80 * h.wcount.toNat) 16

/-! ## Values -/

/-- The value of a register or a result: the zero matrix, a factor pair by columns, a dense matrix by rows. -/
inductive MatVal where
  | zero
  | pair (us vs : List (List FVal))
  | dense (rows : List (List FVal))
  deriving DecidableEq, Repr

/-- +0. -/
def zeroVal : FVal := .fin false 0 0

/-- Entry (i, j) of a list of lists. -/
def at2 (m : List (List FVal)) (i j : Nat) : FVal := (m.getD i []).getD j zeroVal

/-- A list of 64 × 64 values. -/
def grid64 (f : Nat → Nat → FVal) : List (List FVal) := (List.range 64).map fun i => (List.range 64).map (f i)

/-- Rank of a value. -/
def rankOf : MatVal → Nat
  | .zero => 0
  | .pair us _ => us.length
  | .dense _ => 63

/-- The transpose of a value. -/
def transposed : MatVal → MatVal
  | .zero => .zero
  | .pair us vs => .pair vs us
  | .dense m => .dense (grid64 fun i j => at2 m j i)

/-- The exact sum that `exact_dot()` forms with accumulator +0, before its rounding (R176). -/
def sumTerms (ts : List Term) : FVal := dotVal (termVal zeroVal :: ts)

/-- The exact dot product of two vectors. -/
def dotExact (a b : List FVal) : FVal := sumTerms (List.zipWith termOf a b)

/-- Column c of a list of rows or of columns as a vector across them. -/
def across (m : List (List FVal)) (c : Nat) : List FVal := m.map fun v => v.getD c zeroVal

/-- The elements of a value, exactly (R176). -/
def denseOf : MatVal → List (List FVal)
  | .zero => grid64 fun _ _ => zeroVal
  | .dense m => m
  | .pair us vs => grid64 fun i j => dotExact (across us i) (across vs j)

/-! ## The algebra (Table 7.3) -/

/-- The core C: entry (p, q) is the dot product of column p of Va and column q of Ub, in FP32. -/
def coreC (va ub : List (List FVal)) : List (List FVal) := va.map fun v => ub.map fun u => rnd (dotExact v u)

/-- Combinations Σ_p X[i, p] × k[p] of some columns X. -/
def combine (xs : List (List FVal)) (k : List FVal) : List FVal := (List.range 64).map fun i => dotExact (across xs i) k

/-- A·B. -/
def matMul : MatVal → MatVal → MatVal
  | .zero, _ => .zero
  | _, .zero => .zero
  | .pair ua va, .pair ub vb =>
    let c := coreC va ub
    if ua.length ≤ ub.length then .pair ua (c.map (combine vb))
    else .pair ((List.range ub.length).map fun q => combine ua (across c q)) vb
  | .pair ua va, .dense b => .pair ua (va.map fun v => (List.range 64).map fun j => dotExact (across b j) v)
  | .dense a, .pair ub vb => .pair (ub.map fun u => a.map fun row => dotExact row u) vb
  | .dense a, .dense b => .dense (grid64 fun i j => dotExact (a.getD i []) (across b j))

/-- −B: of a factor pair the V factor carries the sign, which Table 7.3 leaves open (DESIGN CHOICE, log entry 58). -/
def negated : MatVal → MatVal
  | .zero => .zero
  | .pair us vs => .pair us (vs.map fun v => v.map negVal)
  | .dense m => .dense (m.map fun r => r.map negVal)

/-- Elements a + b, each an exact sum. -/
def addDense (a b : List (List FVal)) : MatVal := .dense (grid64 fun i j => sumTerms [termVal (at2 a i j), termVal (at2 b i j)])

/-- A + B. -/
def matAdd : MatVal → MatVal → MatVal
  | .zero, .zero => .zero
  | .zero, .pair us vs => .pair us vs
  | .pair us vs, .zero => .pair us vs
  | .pair ua va, .pair ub vb => .pair (ua ++ ub) (va ++ vb)
  | a, b => addDense (denseOf a) (denseOf b)

/-- s × A (R202). -/
def matScale (s : FVal) : MatVal → MatVal
  | .zero => .zero
  | .pair us vs => .pair (us.map fun u => u.map fun x => sumTerms [termOf s x]) vs
  | .dense m => .dense (m.map fun r => r.map fun x => sumTerms [termOf s x])

/-- Some factor element is NaN or infinite. -/
def factorsBad : MatVal → Bool
  | .pair us vs => (us ++ vs).any fun c => c.any fun x => !(isFin x)
  | _ => false

/-! ## Elements and blocks as bytes -/

/-- Parts of a list, n at a time. -/
def chunks {α : Type} (n : Nat) : Nat → List α → List (List α)
  | 0, _ => []
  | _ + 1, [] => []
  | fuel + 1, l => l.take n :: chunks n fuel (l.drop n)

/-- Element codes of bytes, at an element width of 4, 8, 16 or 32 bits (R113, R174). -/
def codesOf (bits : Nat) (bs : List Byte) : List Nat :=
  if bits = 4 then bs.flatMap fun b => [b.toNat % 16, b.toNat / 16]
  else (chunks (bits / 8) bs.length bs).map leNat

/-- Bytes of element codes. -/
def bytesOf (bits : Nat) (cs : List Nat) : List Byte :=
  if bits = 4 then (chunks 2 cs.length cs).map fun p => BitVec.ofNat 8 (p.headD 0 % 16 + 16 * (p.getD 1 0 % 16))
  else cs.flatMap fun c => leBytes c (bits / 8)

/-- The value of an element code of a format outside the block formats. -/
def codeVal (f c : Nat) : FVal := match fmtOf f with | some x => decodeVal x false c | none => .nan false

/-- Format of the elements of a TB8 block by its tag (Table 5.5). -/
def tagFmt (tag : Nat) : Nat := [12, 13, 15, 0].getD tag 12

/-- A code as it is copied to or from a tile: a NaN becomes the canonical one, a D8 element its canonical encoding (R198). -/
def canonCode (f c : Nat) : Nat :=
  match fmtOf f with
  | some (.flt p) => (match decodeFlt p false c with | .nan _ => p.nan | _ => c)
  | some .d8 => d8Encode (d8Units c)
  | _ => c

/-- The image of a register's elements with its copies canonical (R198, R199): block elements under their block's tag. -/
def canonImage (h : MHeader) (rank : Nat) (bs : List Byte) : List Byte :=
  let f := h.fmt.toNat
  if f = fmtB4 && rank = 63 then bs
  else if f = fmtTB8 && rank = 63 then
    let rec16 (e : Nat) : Nat := leNat ((bs.drop (64 * h.sofs.toNat + 2 * (e / 32))).take 2)
    ((enumFrom 0 (bs.take 4096)).map fun e => BitVec.ofNat 8 (canonCode (tagFmt (rec16 e.1 / 16384)) e.2.toNat)) ++ bs.drop 4096
  else bytesOf (elemBits f) ((codesOf (elemBits f) bs).map (canonCode f))

/-- The stored matrix of an image, before tr (R174). -/
def storedVal (h : MHeader) (bs : List Byte) : MatVal :=
  let f := h.fmt.toNat
  let r := h.rank.toNat
  if r = 0 then .zero
  else if r < 63 then
    let cols := chunks 64 (2 * r) ((codesOf (elemBits f) bs).map (codeVal f))
    .pair ((List.range r).map fun c => cols.getD (2 * c) []) ((List.range r).map fun c => cols.getD (2 * c + 1) [])
  else
    let codes := codesOf (elemBits f) (bs.take (blockElems f))
    let scales := bs.drop (64 * h.sofs.toNat)
    let vals :=
      if f = fmtTB8 then (enumFrom 0 codes).map fun e => tb8Elem (leNat ((scales.drop (2 * (e.1 / 32))).take 2)) e.2
      else if f = fmtB4 then (enumFrom 0 codes).map fun e => b4Elem (scales.getD (e.1 / 32) 0).toNat e.2
      else codes.map (codeVal f)
    .dense (chunks 64 64 vals)

/-- The value of a register from its image (R175). -/
def valueOf (h : MHeader) (bs : List Byte) : MatVal := if h.tr then transposed (storedVal h bs) else storedVal h bs

/-! ## Rounding into a register (R176, R193, R210) -/

/-- `round_to(fmt, x, rm)` for element (i, j) of a destination (R128, R193). R125 does not say which kind of source a computed sum is: in
an integer format one outside the range takes the minimum or maximum, as from a floating-point source (DESIGN CHOICE, log entry
58). -/
def roundElem (h : MHeader) (f : Nat) (sat : Bool) (i j : Nat) (x : FVal) : Nat :=
  let u := srbits h.key.toNat h.wcount.toNat i j
  match fmtOf f with
  | some (.flt p) => (roundFlt p false sat h.rm.toNat u x).1
  | some .d8 => (roundD8 h.rm.toNat u x).1
  | some (.int s w) => (roundInt s w h.rm.toNat u x).1
  | none => 0

/-- The integer that a value of an integer format is. -/
def wholeOf : FVal → Int
  | .fin neg m e => (if neg then -(m : Int) else m) * 2 ^ e.toNat
  | _ => 0

/-- An element copied from a register into md: from an integer format into an integer format it wraps modulo 2^width, as R125 has an
integer source with sat = 0 do (R176, R203, R204). -/
def copyElem (src dst : Nat) (x : FVal) : FVal :=
  match fmtOf src, fmtOf dst with
  | some (.int _ _), some (.int _ w) => codeVal dst (intBits w (wholeOf x))
  | _, _ => x

/-- The elements of a dense value copied into md; the factors of a pair are no integers. -/
def copied (src dst : Nat) : MatVal → MatVal
  | .dense rows => .dense (rows.map fun r => r.map (copyElem src dst))
  | v => v

/-- Magnitude of a finite value as (m, e), m × 2^e. -/
def magOf : FVal → Nat × Int
  | .fin _ m e => (m, e)
  | _ => (0, 0)

/-- The smallest e with M ≤ L × 2^e. -/
def scaleExp (l : Nat) (m : FVal) : Int :=
  let (n, x) := magOf m
  let t : Int := (Nat.log2 n : Int) + x - Nat.log2 l
  if vle m (.fin false l (t - 1)) then t - 1 else if vle m (.fin false l t) then t else t + 1

/-- Largest finite value of a block's element format, in units that keep it whole (R210). -/
def blockMax (f : Nat) : Nat :=
  match f with
  | 12 => 448
  | 13 => 57344
  | 15 => 2
  | 0 => 127
  | _ => 6

/-- Scale and element codes of one block whose first element has index e0 (R210): `f` is its element format. -/
def blockCodes (h : MHeader) (f : Nat) (sat : Bool) (e0 : Nat) (xs : List FVal) : Nat × List Nat :=
  let isNan (x : FVal) : Bool := match x with | .nan _ => true | _ => false
  let isInf (x : FVal) : Bool := match x with | .inf _ => true | _ => false
  if xs.any isNan || (f != 13 && xs.any isInf) then (255, xs.map fun _ => 0)
  else
    let mag (x : FVal) : FVal := match x with | .fin _ m e => .fin false m e | _ => zeroVal
    let big := xs.foldl (fun b x => if vlt b (mag x) then mag x else b) zeroVal
    let s : Nat := if (magOf big).1 = 0 then 127 else (127 + min (max (scaleExp (blockMax f) big) (-127)) 127).toNat
    let scaled (x : FVal) : FVal := match x with | .fin n m e => .fin n m (e + 127 - s) | y => y
    (s, (enumFrom e0 xs).map fun e => roundElem h f (sat && !(isInf e.2)) (e.1 / 64) (e.1 % 64) (scaled e.2))

/-- Bytes of the claim that a dense value writes, by offset (R174, R210). -/
def denseParts (h : MHeader) (tag : Nat) (sat : Bool) (rows : List (List FVal)) : List (Nat × List Byte) :=
  let f := h.fmt.toNat
  if isBlock f then
    let ef := if f = fmtTB8 then tagFmt tag else 14
    let blocks := (enumFrom 0 (chunks 32 128 rows.flatten)).map fun b => blockCodes h ef sat (32 * b.1) b.2
    let scales := blocks.flatMap fun b => if f = fmtTB8 then leBytes (b.1 + 16384 * tag) 2 else leBytes b.1 1
    [(0, bytesOf (elemBits f) (blocks.flatMap fun b => b.2)), (64 * h.sofs.toNat, scales)]
  else
    [(0, bytesOf (elemBits f) ((enumFrom 0 rows).flatMap fun r => (enumFrom 0 r.2).map fun e => roundElem h f sat r.1 e.1 e.2))]

/-- Codes of factor column c. -/
def factorCodes (h : MHeader) (c : Nat) (xs : List FVal) : List Nat :=
  (enumFrom 0 xs).map fun e => roundElem h h.fmt.toNat false e.1 c e.2

/-- Bytes of the claim that a value writes, by offset. -/
def valueParts (h : MHeader) (tag : Nat) (sat : Bool) : MatVal → List (Nat × List Byte)
  | .zero => []
  | .dense rows => denseParts h tag sat rows
  | .pair us vs =>
    [(0, (enumFrom 0 (us.zip vs)).flatMap fun e =>
      bytesOf (elemBits h.fmt.toNat) (factorCodes h e.1 e.2.1 ++ factorCodes h e.1 e.2.2))]

/-! ## Recompression (R179, R180) -/

/-- An exact zero is +0 in the exact reals of R180. -/
def unsign (x : FVal) : FVal := match x with | .fin _ 0 _ => zeroVal | y => y

/-- `rnd(x)` of R180: none when the value is NaN or infinite (R179). -/
def rndF (x : FVal) : Option FVal :=
  let y := rnd (unsign x)
  if isFin y then some y else none

/-- √x of a value that is not negative. -/
def vsqrt : FVal → FVal
  | .fin _ m e => if m = 0 then zeroVal else sqrtVal m e
  | x => x

/-- dot(x, y) of R180. -/
def dotF (x y : List FVal) : Option FVal := rndF (dotExact x y)

/-- rnd(√ x). -/
def rootF (x : FVal) : Option FVal := rndF (vsqrt x)

/-- rnd(a × x + b × y), rounded once. -/
def mulAddF (a x b y : FVal) : Option FVal := rndF (sumTerms [termOf a x, termOf b y])

/-- A value is zero. -/
def isZeroVal (x : FVal) : Bool := (magOf x).1 == 0 && isFin x

/-- Take the projections of a column on the earlier columns Q out of it: R entries and what is left. -/
def project (w : List FVal) : List (List FVal) → Option (List FVal × List FVal)
  | [] => some ([], w)
  | q :: qs => do
    let r ← dotF q w
    let w ← (w.zip q).mapM fun e => mulAddF (.fin false 1 0) e.1 (negVal r) e.2
    let (rs, w) ← project w qs
    pure (r :: rs, w)

/-- mgs(X): Q by columns, and R by columns c, each with one entry for each row p up to its last. -/
def mgs : List (List FVal) → List (List FVal) → List (List FVal) → Option (List (List FVal) × List (List FVal))
  | [], qs, rs => some (qs, rs)
  | x :: xs, qs, rs => do
    let (r, w) ← project x qs
    let d ← dotF w w
    let s ← rootF d
    if isZeroVal s then mgs xs qs (rs ++ [r])
    else do
      let q ← w.mapM fun y => rndF (xdiv y s)
      mgs xs (qs ++ [q]) (rs ++ [r ++ [s]])

/-- Row p of R. -/
def rowR (rs : List (List FVal)) (p : Nat) : List FVal := rs.map fun c => c.getD p zeroVal

/-- |x|. -/
def magnitude : FVal → FVal
  | .fin _ m e => .fin false m e
  | .inf _ => .inf false
  | x => x

/-- Rotate entries of two columns. -/
def rotate (cs sn : FVal) (x y : List FVal) : Option (List FVal × List FVal) := do
  let ps ← (x.zip y).mapM fun e => mulAddF cs e.1 (negVal sn) e.2
  let qs ← (x.zip y).mapM fun e => mulAddF sn e.1 cs e.2
  pure (ps, qs)

/-- One visit of the pair (p, q): C and W by columns. -/
def jacobiPair (cw : List (List FVal) × List (List FVal)) (p q : Nat) : Option (List (List FVal) × List (List FVal)) := do
  let (c, w) := cw
  let cp := c.getD p []
  let cq := c.getD q []
  let al ← dotF cp cp
  let be ← dotF cq cq
  let ga ← dotF cp cq
  let ab ← rndF (xmul al be)
  let root ← rootF ab
  let bound ← rndF (xmul (.fin false 1 (-24)) root)
  if vle (magnitude ga) bound then pure (c, w)
  else do
    let num ← rndF (xsub be al)
    let den ← rndF (xmul (wholeVal 2) ga)
    let z ← rndF (unsign (xdiv num den))
    let zz ← rndF (xmul z z)
    let one ← rndF (xadd (wholeVal 1) zz)
    let r1 ← rootF one
    let d1 ← rndF (xadd (magnitude z) r1)
    let t ← rndF (xdiv (.fin (negOf z) 1 0) d1)
    let tt ← rndF (xmul t t)
    let two ← rndF (xadd (wholeVal 1) tt)
    let r2 ← rootF two
    let cs ← rndF (xdiv (wholeVal 1) r2)
    let sn ← rndF (xmul cs t)
    let (cp, cq) ← rotate cs sn cp cq
    let (wp, wq) ← rotate cs sn (w.getD p []) (w.getD q [])
    pure ((c.set p cp).set q cq, (w.set p wp).set q wq)

/-- The pairs (p, q) of one sweep, in order. -/
def sweepPairs (k : Nat) : List (Nat × Nat) :=
  (List.range k).flatMap fun p => ((List.range k).filter fun q => decide (p < q)).map fun q => (p, q)

/-- Insert an index into an order by descending σ, equal σ in ascending index. -/
def insertDown (sg : Nat → FVal) (x : Nat) : List Nat → List Nat
  | [] => [x]
  | y :: r => if vlt (sg y) (sg x) then x :: y :: r else y :: insertDown sg x r

/-- The smallest k' whose tail lies within the bound. -/
def keptRank (ns : List FVal) (bound : FVal) : Nat → Nat → Option Nat
  | 0, k => some k
  | fuel + 1, k => do
    let s ← rndF (sumTerms ((ns.drop k).map termVal))
    let t ← rootF s
    if vle t bound then pure k else keptRank ns bound fuel (k + 1)

/-- R180 up to the last rounding: the columns of U' and V', exact. -/
def recompressExact (us vs : List (List FVal)) (tol : FVal) : Option (List (List FVal) × List (List FVal)) := do
  let (qu, ru) ← mgs us [] []
  let (qv, rv) ← mgs vs [] []
  if qu.isEmpty || qv.isEmpty then pure ([], [])
  else do
    let k := qv.length
    -- C by columns q
    let c ← (List.range k).mapM fun q => (List.range qu.length).mapM fun p => dotF (rowR ru p) (rowR rv q)
    let w := (List.range k).map fun q => (List.range k).map fun p => if p = q then wholeVal 1 else zeroVal
    let sweeps := (List.range 6).flatMap fun _ => sweepPairs k
    let (c, w) ← sweeps.foldlM (fun cw pq => jacobiPair cw pq.1 pq.2) (c, w)
    let n ← c.mapM fun x => dotF x x
    let sg ← n.mapM rootF
    let order := (List.range k).foldl (fun l x => insertDown (fun i => sg.getD i zeroVal) x l) []
    let total ← rndF (sumTerms (n.map termVal))
    let rt ← rootF total
    let bound ← rndF (xmul tol rt)
    let kept ← keptRank (order.map fun j => n.getD j zeroVal) bound k 0
    let cols (x m : List (List FVal)) : List (List FVal) := (order.take kept).map fun j => combine x (m.getD j [])
    pure (cols qu c, cols qv w)

/-- The result when an element or a step is NaN or infinite (R179). -/
def nanPair : MatVal := .pair [List.replicate 64 (.nan false)] [List.replicate 64 (.nan false)]

/-- `tol` as recompression reads it: a NaN counts as 0 (R105). -/
def tolVal (tol : Word) : FVal := match val32 tol with | .nan _ => zeroVal | x => x

/-- The recompression of a value into a destination (R179, R180). An element of the new pair that its format cannot hold as a
finite number is such a step too (log entry 24). -/
def recompressed (h : MHeader) (tol : Word) (v : MatVal) : MatVal :=
  match v with
  | .pair us vs =>
    if factorsBad v then nanPair
    else
      match recompressExact us vs (tolVal tol) with
      | none => nanPair
      | some ([], _) => .zero
      | some (us, vs) =>
        let bad (cols : List (List FVal)) : Bool :=
          (enumFrom 0 cols).any fun e => (factorCodes h e.1 e.2).any fun c => !(isFin (codeVal h.fmt.toNat c))
        if holdsFactors h.fmt.toNat && (bad us || bad vs) then nanPair else .pair us vs
  | x => x

/-! ## `mnorm` and `mma` (R207, R208) -/

/-- FP32 bits of the norm of a value. -/
def normBits (v : MatVal) : Word :=
  if factorsBad v then 0x7FC00000
  else
    let xs := (denseOf v).flatten
    bits32 (vsqrt (sumTerms (xs.map fun x => termOf x x)))

/-- One accumulator element after `mma`, given row i of A and column j of B. -/
def accumulate (row col : List FVal) (c : Nat) : Nat := exactDot row col (decodeFlt f32P false c)

/-- The FP32 codes of an accumulator tile after `mma`. -/
def mmaCodes (a b : MatVal) (neg : Bool) (z : List Nat) : List Nat :=
  if a = .zero || b = .zero then z.map fun c => if c = 0x80000000 then 0 else c
  else if factorsBad a || factorsBad b then z.map fun _ => 0x7FC00000
  else
    let ra := denseOf a
    let rb := denseOf (if neg then .dense ((denseOf b).map fun r => r.map negVal) else b)
    (enumFrom 0 z).map fun e => accumulate (ra.getD (e.1 / 64) []) (across rb (e.1 % 64)) e.2

end Sys2Proof.Machine
end

