-- ==== Sys2Proof/Machine/Rays.lean ====
section
/-! DEFINITION. Bounding-volume trees: the box and triangle tests, traversal with the short stack and restart trail, and the ray
and box functions of `eng` (spec/16_view_and_tree_tables.md R385 to R395), with the completion of every engine operation (R276). -/
namespace Sys2Proof.Machine

/-- A point or direction. -/
structure Vec where
  x : FVal
  y : FVal
  z : FVal
  deriving DecidableEq, Repr

/-- Component of an axis 0, 1, 2. -/
def Vec.at (v : Vec) (a : Nat) : FVal := if a = 0 then v.x else if a = 1 then v.y else v.z

/-- The vector of a function of the axis. -/
def vec (f : Nat → FVal) : Vec := { x := f 0, y := f 1, z := f 2 }

/-- A box: its two corners. -/
structure Box where
  lo : Vec
  hi : Vec
  deriving DecidableEq, Repr

/-- FP32 value i of a record. -/
def recVal (v i : Nat) : FVal := val32 (BitVec.ofNat 32 (field v (32 * i) 32))

/-- Three FP32 values from value i on. -/
def recVec (v i : Nat) : Vec := vec fun a => recVal v (i + a)

/-- A value is a NaN. -/
def isNan (x : FVal) : Bool := match x with | .nan _ => true | _ => false

/-- Every axis satisfies a test. -/
def allAxes (p : Nat → Bool) : Bool := p 0 && p 1 && p 2

/-! ## The tests (R387, R388, R394) -/

/-- A ray in one space, with the reciprocals of its direction, which are formed once (R387). -/
structure Ray where
  o : Vec
  d : Vec
  inv : Vec
  tmin : FVal
  tmax : FVal
  /-- Instance identifier that its hits report; whether it is in a bottom tree (R385). -/
  iid : Word
  bottom : Bool
  deriving DecidableEq, Repr

/-- A ray in a space. -/
def rayIn (o d : Vec) (tmin tmax : FVal) (iid : Word) (bottom : Bool) : Ray :=
  { o := o, d := d, inv := vec fun a => rnd (xdiv (wholeVal 1) (d.at a)), tmin := tmin, tmax := tmax, iid := iid, bottom := bottom }

/-- min and max of FP32 values (R130). -/
def vmin (a b : FVal) : FVal := minMax false a b
def vmax (a b : FVal) : FVal := minMax true a b

/-- |tn| × 2^−20, rounded: how far an entry or exit distance is moved outwards (R387). -/
def slack (t : FVal) : FVal := rnd (xmul (absVal t) (dy false 1 (-20)))

/-- The box test: the entry distance of a box that is hit (R387). -/
def boxTest (r : Ray) (b : Box) : Option FVal :=
  let bad := !(allAxes fun a => vle (b.lo.at a) (b.hi.at a))
  let t0 (a : Nat) : FVal := rnd (xmul (rnd (xsub (b.lo.at a) (r.o.at a))) (r.inv.at a))
  let t1 (a : Nat) : FVal := rnd (xmul (rnd (xsub (b.hi.at a) (r.o.at a))) (r.inv.at a))
  let near (a : Nat) : FVal := vmin (t0 a) (t1 a)
  let far (a : Nat) : FVal := vmax (t0 a) (t1 a)
  let tn := vmax (vmax (vmax (near 0) (near 1)) (near 2)) r.tmin
  let tf := vmin (vmin (vmin (far 0) (far 1)) (far 2)) r.tmax
  let tn := rnd (xsub tn (slack tn))
  let tf := rnd (xadd tf (slack tf))
  if !bad && vle tn tf then some tn else none

/-- The axis of the largest magnitude, the lowest on ties (R388). -/
def majorAxis (d : Vec) : Nat :=
  let m (a : Nat) : FVal := absVal (d.at a)
  let k := if vlt (m 0) (m 1) then 1 else 0
  if vlt (m k) (m 2) then 2 else k

/-- The triangle test: t, u, v of a hit (R388). -/
def triTest (r : Ray) (v0 v1 v2 : Vec) : Option (FVal × FVal × FVal) :=
  let kz := majorAxis r.d
  let k1 := (kz + 1) % 3
  let k2 := (k1 + 1) % 3
  let flip := vlt (r.d.at kz) zeroVal
  let kx := if flip then k2 else k1
  let ky := if flip then k1 else k2
  let sx := rnd (xdiv (r.d.at kx) (r.d.at kz))
  let sy := rnd (xdiv (r.d.at ky) (r.d.at kz))
  let sz := rnd (xdiv (wholeVal 1) (r.d.at kz))
  let shear (v : Vec) : Vec :=
    let w (a : Nat) : FVal := rnd (xsub (v.at a) (r.o.at a))
    let less (a s : FVal) : FVal := dotRnd [a, negVal s] [wholeVal 1, w kz]
    { x := less (w kx) sx, y := less (w ky) sy, z := rnd (xmul sz (w kz)) }
  let a := shear v0
  let b := shear v1
  let c := shear v2
  let u := dotRnd [c.x, negVal c.y] [b.y, b.x]
  let v := dotRnd [a.x, negVal a.y] [c.y, c.x]
  let w := dotRnd [b.x, negVal b.y] [a.y, a.x]
  let uvw := [u, v, w]
  let mixed := (uvw.any fun x => vlt x zeroVal) && uvw.any fun x => vlt zeroVal x
  let det := dotRnd uvw [wholeVal 1, wholeVal 1, wholeVal 1]
  let t := rnd (xdiv (dotRnd uvw [a.z, b.z, c.z]) det)
  if uvw.any isNan || mixed || isNan det || isZeroVal det || !(vle r.tmin t && vle t r.tmax) then none
  else some (t, rnd (xdiv v det), rnd (xdiv w det))

/-- The closed exact overlap of two boxes (R394). -/
def boxesMeet (b q : Box) : Bool := allAxes fun a => vle (b.lo.at a) (q.hi.at a) && vle (q.lo.at a) (b.hi.at a)

/-- The smallest box of two (R395). -/
def boxJoin (a b : Box) : Box :=
  { lo := vec fun i => vmin (a.lo.at i) (b.lo.at i), hi := vec fun i => vmax (a.hi.at i) (b.hi.at i) }

/-! ## Traversal state -/

/-- A hit (R389). -/
structure Hit where
  t : FVal
  u : FVal
  v : FVal
  iid : Word
  pid : Word
  geom : Word
  deriving DecidableEq, Repr

/-- A child reference that may be followed: its type, address and count (Table 16.3). -/
structure Child where
  tn : FVal := .nan false
  index : Nat
  box : Box
  kind : Nat
  addr : Nat
  cnt : Nat
  deriving DecidableEq, Repr

/-- A node to visit: its address, its level, the space it is in. -/
structure Work where
  va : Nat
  level : Nat
  ray : Ray
  deriving DecidableEq, Repr

/-- An entry of the short stack (R390). -/
structure Sibling where
  level : Nat
  ordinal : Nat
  child : Child
  ray : Ray
  deriving DecidableEq, Repr

/-- A traversal in progress. -/
structure Trace where
  s : State
  poisoned : Bool := false
  deep : Bool := false
  badNode : Bool := false
  boxes : Nat := 0
  tris : Nat := 0
  fault : Option FaultInfo := none
  best : Option Hit := none
  /-- Any hit ends the traversal (`rany`); the ray mask. -/
  any : Bool := false
  mask : Nat := 0
  /-- Top first. -/
  stack : List Sibling := []
  dropped : Bool := false
  trail : List Nat := []
  restarts : Nat := 0
  /-- VAs of the nodes visited, in order. -/
  nodes : List Nat := []

/-- On whose behalf an operation traverses. -/
structure Tracer where
  g : Group
  c : Ctx
  e : EngState

/-- n bytes of a record read for a traversal; poison is carried, a fault ends it. -/
def readRec (k : Tracer) (x : Trace) (va n : Nat) : Trace × Nat :=
  match engVa x.s k.g k.c k.e va n with
  | (s, .error f) => ({ x with s := s, fault := some (x.fault.getD f) }, 0)
  | (s, .ok (bs, bad)) => ({ x with s := s, poisoned := x.poisoned || bad }, leNat bs)

/-! ## Nodes (R385, R386) -/

/-- Child c of a node. -/
def nodeBox (v c : Nat) : Box := { lo := recVec v (6 * c), hi := recVec v (6 * c + 3) }

/-- The child reference c of a node as it may be followed: empty ones are passed over, invalid ones set the flag, and one too
deep sets the other (R386). `query` is set for `bquery`, to which an instance is invalid (R394). -/
def followRef (k : Tracer) (bottom query : Bool) (level v c : Nat) (x : Trace) : Trace × Option Child :=
  let r := field v (768 + 64 * c) 64
  let kind := field r 62 2
  let cnt := field r 0 7
  let addr := field r 7 50 * 128
  if kind = 0 then (x, none)
  else
    let wrong := field r 57 5 != 0 || (if kind = 2 then cnt == 0 else cnt != 0) || (kind == 3 && (bottom || query))
    if wrong then ({ x with badNode := true }, none)
    else
      let (x, rec') := if kind = 3 then readRec k x addr 64 else (x, 0)
      if kind == 3 && field rec' 384 57 % 128 != 0 then ({ x with badNode := true }, none)
      else if level + 1 ≥ 32 then ({ x with deep := true }, none)
      else (x, some { index := c, box := nodeBox v c, kind := kind, addr := addr, cnt := cnt })

/-- The non-empty children of a node, in ascending index: the box of each, and the child where it may be followed. -/
def kidsOf (k : Tracer) (bottom query : Bool) (va level : Nat) (x : Trace) : Trace × List (Box × Option Child) :=
  let (x, v) := readRec k { x with nodes := x.nodes ++ [va] } va 128
  ((List.range 4).filter fun c => field v (768 + 64 * c + 62) 2 != 0).foldl
    (fun (acc : Trace × List (Box × Option Child)) c =>
      let r := followRef k bottom query level v c acc.1
      (r.1, acc.2 ++ [(nodeBox v c, r.2)]))
    (x, [])

/-- The children of a node that may be followed, in ascending index. -/
def childrenOf (k : Tracer) (bottom query : Bool) (va level : Nat) (x : Trace) : Trace × List Child :=
  let (x, cs) := kidsOf k bottom query va level x
  (x, cs.filterMap fun c => c.2)

/-- Put a child into a list sorted by entry distance, behind the equal ones. -/
def insertChild (c : Child) : List Child → List Child
  | [] => [c]
  | y :: r => if vlt c.tn y.tn then c :: y :: r else y :: insertChild c r

/-- H of R389: the children whose box test hits, sorted by (tn, child index). -/
def hitChildren (k : Tracer) (w : Work) (x : Trace) : Trace × List Child :=
  let (x, cs) := childrenOf k w.ray.bottom false w.va w.level x
  let x := { x with boxes := x.boxes + cs.length }
  (x, cs.foldl (fun l c => match boxTest w.ray c.box with | some tn => insertChild { c with tn := tn } l | none => l) [])

/-! ## Leaves and instances -/

/-- Closest hit keeps a hit that is nearer, or as near and lower in (iid, pid, geom) (R389). -/
def better (a b : Hit) : Bool :=
  vlt a.t b.t || (!(vlt b.t a.t) &&
    (decide (a.iid.toNat < b.iid.toNat) || (a.iid == b.iid &&
      (decide (a.pid.toNat < b.pid.toNat) || (a.pid == b.pid && decide (a.geom.toNat < b.geom.toNat))))))

/-- A vertex j of a leaf entry. -/
def vertexOf (v j : Nat) : Vec := recVec v (3 * j)

/-- The triangle tests of a leaf's entries in order, n entries from va on (R389). -/
def testLeaf (k : Tracer) (r : Ray) : Nat → Nat → Trace → Trace
  | 0, _, x => x
  | n + 1, va, x =>
    if x.any && x.best.isSome then x
    else
      let (x, v) := readRec k x va 48
      if x.fault.isSome then x
      else
        let x := { x with tris := x.tris + 1 }
        let x :=
          match triTest r (vertexOf v 0) (vertexOf v 1) (vertexOf v 2) with
          | none => x
          | some (t, a, b) =>
            let h : Hit := { t := t, u := a, v := b, iid := r.iid, pid := BitVec.ofNat 32 (field v 288 32), geom := BitVec.ofNat 32 (field v 320 32) }
            match x.best with
            | none => { x with best := some h }
            | some old => if better h old then { x with best := some h } else x
        testLeaf k r n (va + 48) x

/-- A point or direction under a 3×4 matrix: each component one rounding of its exact sum (R389). -/
def transform (m : Nat) (v : Vec) (w : FVal) : Vec :=
  vec fun r => dotRnd [recVal m (4 * r), recVal m (4 * r + 1), recVal m (4 * r + 2), recVal m (4 * r + 3)] [v.x, v.y, v.z, w]

/-- Enter a child: an inner node is next, a leaf is tested, an instance leads to its bottom root when the masks meet (R389). -/
def enterChild (k : Tracer) (level : Nat) (r : Ray) (c : Child) (x : Trace) : Trace × Option Work :=
  if c.kind = 1 then (x, some { va := c.addr, level := level + 1, ray := r })
  else if c.kind = 2 then (testLeaf k r c.cnt c.addr x, none)
  else
    let (x, v) := readRec k x c.addr 64
    if field v 480 8 &&& x.mask = 0 then (x, none)
    else
      let ray := rayIn (transform v r.o (wholeVal 1)) (transform v r.d zeroVal) r.tmin r.tmax (BitVec.ofNat 32 (field v 448 32)) true
      (x, some { va := field v 384 57, level := level + 1, ray := ray })

/-! ## The short stack and the restart trail (R390) -/

/-- Later children pushed in reverse order; a push onto a full stack discards the bottom entry. -/
def pushLater (w : Work) (h : List Child) (ordinal : Nat) (x : Trace) : Trace :=
  let later := (enumFrom 0 h).drop (ordinal + 1)
  let all := later.map (fun e => { level := w.level, ordinal := e.1, child := e.2, ray := w.ray : Sibling }) ++ x.stack
  { x with stack := all.take 8, dropped := x.dropped || decide (all.length > 8) }

/-- A child beyond the best hit is skipped (R389). -/
def pruned (x : Trace) (c : Child) : Bool := !x.any && (match x.best with | some h => vlt h.t c.tn | none => false)

/-- Set the trail at a level and clear the deeper fields. -/
def setTrail (x : Trace) (level ordinal : Nat) : Trace := { x with trail := x.trail.take level ++ [ordinal] }

/-- Visit a node: descend into the first child that survives pruning. -/
def visitNode (k : Tracer) (w : Work) (x : Trace) : Trace × Option Work :=
  let (x, h) := hitChildren k w x
  match (enumFrom 0 h).find? fun e => !(pruned x e.2) with
  | none => (x, none)
  | some e => enterChild k w.level w.ray e.2 (setTrail (pushLater w h e.1 x) w.level e.1)

/-- Descend again from the root along the trail, the later siblings pushed as in a visit. -/
def redescend (k : Tracer) : List Nat → Work → Trace → Trace
  | [], _, x => x
  | o :: r, w, x =>
    let (x, h) := hitChildren k w x
    match h[o]? with
    | none => x
    | some c =>
      let x := pushLater w h o x
      if c.kind = 2 then x
      else
        match enterChild k w.level w.ray c x with
        | (x, some w) => redescend k r w x
        | (x, none) => x

/-- The traversal of one ray, at most n moves of it (R389, R390). -/
def traceLoop (k : Tracer) (root : Work) : Nat → Option Work → Trace → Trace
  | 0, _, x => x
  | n + 1, w, x =>
    if x.fault.isSome || (x.any && x.best.isSome) then x
    else
      match w with
      | some w =>
        let (x, w) := visitNode k w x
        traceLoop k root n w x
      | none =>
        match x.stack with
        | e :: rest =>
          let x := setTrail { x with stack := rest } e.level e.ordinal
          if pruned x e.child then traceLoop k root n none x
          else
            let (x, w) := enterChild k e.level e.ray e.child x
            traceLoop k root n w x
        | [] =>
          if x.dropped then traceLoop k root n none (redescend k x.trail root { x with dropped := false, restarts := x.restarts + 1 })
          else x

/-- More moves than a traversal of 32 levels has. -/
def traceFuel : Nat := 2 ^ 80

/-! ## The five functions (R391 to R395) -/

/-- What an operation of a cruiser comes to: the bytes it writes, each with its poison, the faults it met, its flags. -/
structure RayRun where
  s : State
  moves : List EngMove := []
  faults : List FaultInfo := []
  carried : Bool := false
  deep : Bool := false
  badNode : Bool := false
  ovf : Bool := false
  boxes : Nat := 0
  tris : Nat := 0
  nodes : List Nat := []

/-- Bytes that an operation writes from an address on. -/
def outBytes (va : Nat) (bs : List Byte) (bad : Bool) : List EngMove :=
  (enumFrom 0 bs).map fun b => { dst := va + b.1, src := .val b.2 bad, elem := 0 }

/-- A hit record (Table 16.6). -/
def hitRecord (best : Option Hit) (deep badNode badRay : Bool) (restarts : Nat) : Nat :=
  let flags := 2 ^ 193 * deep.toNat + 2 ^ 194 * badNode.toNat + 2 ^ 195 * badRay.toNat + 2 ^ 200 * min restarts 255
  match best with
  | none => 0x7F800000 + 2 ^ 96 * (2 ^ 96 - 1) + flags
  | some h =>
    (bits32 h.t).toNat + 2 ^ 32 * (bits32 h.u).toNat + 2 ^ 64 * (bits32 h.v).toNat + 2 ^ 96 * h.pid.toNat + 2 ^ 128 * h.geom.toNat
    + 2 ^ 160 * h.iid.toNat + 2 ^ 192 + flags

/-- R392: a NaN component, tmin > tmax, or a zero direction makes a ray invalid. -/
def rayInvalid (v : Nat) : Bool :=
  ((List.range 8).any fun i => isNan (recVal v i)) || vlt (recVal v 7) (recVal v 3) || allAxes fun a => isZeroVal (recVal v (4 + a))

/-- One ray of `rtrace` or `rany` and its hit record (R392). -/
def traceRay (k : Tracer) (any : Bool) (x : RayRun) (i : Nat) : RayRun :=
  let t0 : Trace := { s := x.s, any := any, mask := field (blockWord k.e 3) 0 8 }
  let (t, v) := readRec k t0 (blockWord k.e 0 + 32 * i) 32
  let t :=
    if t.fault.isSome || rayInvalid v then t
    else
      let root : Work := { va := blockWord k.e 2, level := 0, ray := rayIn (recVec v 0) (recVec v 4) (recVal v 3) (recVal v 7) 0xFFFFFFFF false }
      traceLoop k root traceFuel (some root) t
  let out := outBytes (blockWord k.e 1 + 32 * i) (leBytes (hitRecord t.best t.deep t.badNode (rayInvalid v) t.restarts) 32) t.poisoned
  { x with
    s := t.s
    moves := if t.fault.isSome then x.moves else x.moves ++ out
    faults := x.faults ++ t.fault.toList
    carried := x.carried || t.poisoned
    deep := x.deep || t.deep
    badNode := x.badNode || t.badNode
    boxes := x.boxes + t.boxes
    tris := x.tris + t.tris
    nodes := x.nodes ++ t.nodes }

/-- `rtrace` and `rany` (R392). -/
def runTrace (k : Tracer) (any : Bool) (s : State) : RayRun := (List.range (argLow k.e)).foldl (traceRay k any) { s := s }

/-- The ray of one sample, or 32 zero bytes (R393). -/
def launchRay (view : ViewEntry) (warps : AxisWarp × AxisWarp) (rows : Nat × Nat) (inv tmm i j : Nat) : Nat :=
  let inGrid := decide (i < axisCount warps.1) && decide (rows.1 ≤ j) && decide (j < rows.1 + rows.2)
  match (if inGrid then samplePoint warps.1 warps.2 view.k1 view.k2 i j else none) with
  | none => 0
  | some (px, py) =>
    let fx (n : Int) : FVal := .fin (decide (n < 0)) n.natAbs (-16)
    let row (r : Nat) : List FVal := (List.range 4).map fun m => recVal inv (4 * r + m)
    let near (r : Nat) : FVal := dotRnd (row r) [fx px, fx py, zeroVal, wholeVal 1]
    let far (r : Nat) : FVal := dotRnd (row r) [fx px, fx py, wholeVal 1, wholeVal 1]
    let origin (a : Nat) : FVal := rnd (xdiv (near a) (near 3))
    let dir (a : Nat) : FVal := rnd (xsub (rnd (xdiv (far a) (far 3))) (origin a))
    let w (x : FVal) : Nat := (bits32 x).toNat
    packFields 32 0 [w (origin 0), w (origin 1), w (origin 2), field tmm 0 32, w (dir 0), w (dir 1), w (dir 2), field tmm 32 32]

/-- Width and height of an `rlaunch` rectangle. -/
def launchSize (e : EngState) : Nat × Nat := (field (blockWord e 2) 32 16, field (blockWord e 2) 48 16)

/-- `rlaunch` once its view entry `v` is read (R393). -/
def runLaunch (k : Tracer) (v : Nat) (bad : Bool) (s : State) : RayRun :=
  let view := parseView v
  let (wd, ht) := launchSize k.e
  let w1 := blockWord k.e 1
  match engVa s k.g k.c k.e (blockWord k.e 4) 64 with
  | (s, .error f) => { s := s, faults := [f] }
  | (s, .ok (bs, bad')) =>
    let warps := viewWarps view (BitVec.ofNat 32 (field w1 0 32))
    let rows := stripRows warps.2 (field w1 32 4) (field w1 36 5)
    let i0 := field (blockWord k.e 2) 0 16
    let j0 := field (blockWord k.e 2) 16 16
    let ray (n : Nat) : List EngMove :=
      outBytes (blockWord k.e 3 + 32 * n) (leBytes (launchRay view warps rows (leNat bs) (blockWord k.e 5) (i0 + n % wd) (j0 + n / wd)) 32)
        (bad || bad')
    { s := s, moves := (List.range (wd * ht)).flatMap ray, carried := bad || bad' }

/-- The exact box of a leaf entry (R394). -/
def entryBox (v : Nat) : Box :=
  let b (j : Nat) : Box := { lo := vertexOf v j, hi := vertexOf v j }
  boxJoin (boxJoin (b 0) (b 1)) (b 2)

/-- Entries of a leaf, n from va on: each with its address. -/
def leafEntries (k : Tracer) : Nat → Nat → Trace → Trace × List (Nat × Nat)
  | 0, _, x => (x, [])
  | n + 1, va, x =>
    let (x, v) := readRec k x va 48
    let (x, r) := leafEntries k n (va + 48) x
    (x, (va, v) :: r)

/-- Leaf entries that a query box overlaps, in traversal order, `n` levels deep at most (R394). -/
def queryNode (k : Tracer) (q : Box) : Nat → Nat → Nat → Trace → Trace × List (Nat × Nat)
  | 0, _, _, x => (x, [])
  | n + 1, va, level, x =>
    let (x, cs) := childrenOf k false true va level x
    let x := { x with boxes := x.boxes + cs.length }
    cs.foldl
      (fun (acc : Trace × List (Nat × Nat)) c =>
        if acc.1.fault.isSome || !(boxesMeet c.box q) then acc
        else if c.kind = 1 then
          let (x, l) := queryNode k q n c.addr (level + 1) acc.1
          (x, acc.2 ++ l)
        else
          let (x, l) := leafEntries k c.cnt c.addr acc.1
          (x, acc.2 ++ l.filter fun e => boxesMeet (entryBox e.2) q))
      (x, [])

/-- `bquery` (R394). -/
def runQuery (k : Tracer) (s : State) : RayRun :=
  let (x, v) := readRec k { s := s } (blockWord k.e 0) 32
  let q : Box := { lo := recVec v 0, hi := recVec v 3 }
  let (x, found) := if x.fault.isSome then (x, []) else queryNode k q 32 (blockWord k.e 2) 0 x
  let cap := argLow k.e
  let ovf := decide (found.length > cap)
  let header := min found.length (2 ^ 32 - 1) + 2 ^ 32 * ovf.toNat + 2 ^ 33 * x.deep.toNat + 2 ^ 34 * x.badNode.toNat
  let entry (e : Nat × Nat) : List Byte := leBytes (field e.2 288 32 + 2 ^ 32 * field e.2 320 32 + 2 ^ 64 * (e.1 % 2 ^ 57)) 16
  let out := leBytes header 16 ++ (found.take cap).flatMap entry
  { s := x.s, moves := if x.fault.isSome then [] else outBytes (blockWord k.e 1) out x.poisoned, faults := x.fault.toList
    carried := x.poisoned, deep := x.deep, badNode := x.badNode, ovf := ovf, boxes := x.boxes, nodes := x.nodes }

/-- The 24 bytes of a box. -/
def boxBytes (b : Box) : List Byte :=
  [b.lo.x, b.lo.y, b.lo.z, b.hi.x, b.hi.y, b.hi.z].flatMap fun f => leBytes (bits32 f).toNat 4

/-- The box of a leaf's entries. -/
def boxOfEntries (es : List (Nat × Nat)) : Option Box :=
  es.foldl (fun acc e => some (match acc with | none => entryBox e.2 | some b => boxJoin b (entryBox e.2))) none

/-- Refit of a node, `n` levels deep at most: the box of its non-empty children, those it may not follow with the box they have, and
the boxes to be written in post-order (R395). -/
def refitNode (k : Tracer) : Nat → Nat → Nat → Trace → Trace × Option Box × List EngMove
  | 0, _, _, x => (x, none, [])
  | n + 1, va, level, x =>
    let (x, cs) := kidsOf k false false va level x
    cs.foldl
      (fun (acc : Trace × Option Box × List EngMove) kid =>
        let (x, sum, out) := acc
        if x.fault.isSome then acc
        else
          let (x, new, below) : Trace × Option Box × List EngMove :=
            match kid.2 with
            | none => (x, none, [])
            | some c =>
              if c.kind = 1 then refitNode k n c.addr (level + 1) x
              else if c.kind = 2 then
                let (x, l) := leafEntries k c.cnt c.addr x
                (x, boxOfEntries l, [])
              else (x, none, [])
          let b := new.getD kid.1
          let mine := match new, kid.2 with
            | some _, some c => if x.fault.isSome then [] else outBytes (va + 24 * c.index) (boxBytes b) x.poisoned
            | _, _ => []
          (x, some (match sum with | none => b | some t => boxJoin t b), out ++ below ++ mine))
      (x, none, [])

/-- `brefit` (R395). -/
def runRefit (k : Tracer) (s : State) : RayRun :=
  let (x, _, out) := refitNode k 32 (blockWord k.e 0) 0 { s := s }
  { s := x.s, moves := out, faults := x.fault.toList, carried := x.poisoned, deep := x.deep, badNode := x.badNode, boxes := x.boxes, nodes := x.nodes }

/-- R391: the block and argument pair are valid, apart from the view entry. -/
def rayOk (e : EngState) : Bool :=
  let w := blockWord e
  match e.fn with
  | .rtrace | .rany => w 0 % 32 == 0 && w 1 % 32 == 0 && w 2 % 128 == 0 && w 3 / 256 == 0 && zeroAt e [4, 5, 6, 7] && argHigh e == 0
  | .rlaunch =>
    w 0 % 256 == 0 && w 1 / 2 ^ 41 == 0 && decide (1 ≤ field (w 1) 36 5) && decide (field (w 1) 36 5 ≤ 16) &&
      decide (field (w 1) 32 4 < field (w 1) 36 5) && w 3 % 32 == 0 && w 4 % 64 == 0 && zeroAt e [6, 7] && e.arg == 0
  | .bquery => w 0 % 32 == 0 && w 1 % 16 == 0 && w 2 % 128 == 0 && zeroAt e [3, 4, 5, 6, 7]
  | .brefit => w 0 % 128 == 0 && zeroAt e [1, 2, 3, 4, 5, 6, 7] && e.arg == 0
  | _ => false

/-- The result of a function of the cruiser, as far as its block lets it run: what it writes, or its end (R391). -/
def rayResult (k : Tracer) (s : State) : State × Except EngEnd RayRun :=
  if !(rayOk k.e) then (s, .error { status := 4 })
  else
    match k.e.fn with
    | .rtrace => if argLow k.e = 0 then (s, .error { status := 0 }) else (s, .ok (runTrace k false s))
    | .rany => if argLow k.e = 0 then (s, .error { status := 0 }) else (s, .ok (runTrace k true s))
    | .rlaunch =>
      match engVa s k.g k.c k.e (blockWord k.e 0) 256 with
      | (s, .error f) => (s, .error { status := 3, fault := some (engFault k.e f) })
      | (s, .ok (bs, bad)) =>
        if !(viewOk (parseView (leNat bs))) then (s, .error { status := 4 })
        else if (launchSize k.e).1 = 0 || (launchSize k.e).2 = 0 then (s, .error { status := 0 })
        else (s, .ok (runLaunch k (leNat bs) bad s))
    | .bquery => (s, .ok (runQuery k s))
    | _ => (s, .ok (runRefit k s))

/-- A line that an operation pinned was written back and unpinned (R372). -/
def pinLost (s : State) (e : EngState) (id : Nat) : Bool :=
  e.lost || match e.pinned with
    | none => false
    | some (_, line) => !(s.dies.any fun d => d.2.l2.any fun l => l.line == line && l.pins.contains id)

/-- Unpin every line of an operation. -/
def unpin (s : State) (id : Nat) : State :=
  { s with dies := s.dies.map fun d => (d.1, { d.2 with l2 := d.2.l2.map fun l => { l with pins := l.pins.filter (· != id) } }) }

/-- What a function of the cruiser would do from here, if its block lets it run. -/
def rayPreview (s : State) (g : Group) (o : Op) (e : EngState) : Option (State × RayRun) :=
  if e.bad.isSome then none
  else match rayResult { g := g, c := opCtx o g, e := e } s with
    | (_, .error _) => none
    | (s, .ok x) => some (s, x)

/-- A cruiser visits the n-th node of its traversal: it pins the node's line, and lets go of the line of the node before
(R372, R392). -/
def pinNode (s : State) (o : Op) (e : EngState) (n : Nat) : State :=
  match groupOf s o.gk with
  | none => s
  | some g =>
    let c := opCtx o g
    let (s', e) := readBlock s g c e
    match (rayPreview s' g o e).bind fun x => x.2.nodes[n]? with
    | none => s
    | some va =>
      match translate s' c .r va with
      | (_, .error _) => s
      | (s', .ok (pa, _)) =>
        let die := l2DieOf (va / 2 ^ 55 % 4) pa
        let lost := pinLost s' e o.id
        let s' := (l2Fetch (recallLine (unpin s' o.id) (pa / 512)) die c.part pa).1
        let s' := modDie s' die fun d =>
          { d with l2 := updFirst (fun l => l.line == pa / 512) (fun l => { l with pins := l.pins ++ [o.id] }) d.l2 }
        let held := (l2Find s' die (pa / 512)).isSome
        putEng s' o.id { e with pinned := if held then some (va, pa / 512) else none, lost := lost }

/-- A piece of what a function of the cruiser writes is written before the operation completes (R243, R395). -/
def earlyRay (s : State) (o : Op) (e : EngState) (piece : Nat) : State :=
  match groupOf s o.gk with
  | none => s
  | some g =>
    let (s', e) := readBlock s g (opCtx o g) e
    match rayPreview s' g o e with
    | none => s
    | some (s', x) => if x.faults.isEmpty then (writeEarly s' g o e 0 x.moves piece).getD s else s

/-- A function of the cruiser from its block to its end (R391 to R395). -/
def runRays (s : State) (g : Group) (c : Ctx) (e : EngState) (id : Nat) : State × EngEnd :=
  let lost := pinLost s e id
  let s := unpin s id
  match rayResult { g := g, c := c, e := e } s with
  | (s, .error r) => (s, r)
  | (_, .ok x) =>
    let s := countEvent (countEvent x.s c.core 8 x.boxes) c.core 9 x.tris
    let (s, r) := runPieces s g c e id 0 x.moves x.faults x.carried
    (s, { r with status := r.status + 16 * lost.toNat + 32 * x.ovf.toNat + 64 * x.deep.toNat + 128 * x.badNode.toNat })

/-- Bytes of normal memory that a function of the cruiser may write (R253). -/
def rayRanges (s : State) (g : Group) (c : Ctx) (e : EngState) : State × List (Nat × Nat) :=
  if !(rayOk e) then (s, [])
  else
    match e.fn with
    | .rtrace | .rany => (s, [(blockWord e 1, 32 * argLow e)])
    | .rlaunch => (s, [(blockWord e 3, 32 * ((launchSize e).1 * (launchSize e).2))])
    | .bquery => (s, [(blockWord e 1, 16 + 16 * argLow e)])
    | _ => (s, (runRefit { g := g, c := c, e := e } s).moves.map fun m => (m.dst, 1))

/-- ENG_RTRACE (R392). -/
def execEngRtrace (o : EngOp) (s : State) : Res := .next (runEng .rtrace o rayRanges laterEng s)
/-- ENG_RANY (R392). -/
def execEngRany (o : EngOp) (s : State) : Res := .next (runEng .rany o rayRanges laterEng s)
/-- ENG_RLAUNCH (R393). -/
def execEngRlaunch (o : EngOp) (s : State) : Res := .next (runEng .rlaunch o rayRanges laterEng s)
/-- ENG_BQUERY (R394). -/
def execEngBquery (o : EngOp) (s : State) : Res := .next (runEng .bquery o rayRanges laterEng s)
/-- ENG_BREFIT (R395). -/
def execEngBrefit (o : EngOp) (s : State) : Res := .next (runEng .brefit o rayRanges laterEng s)

/-! ## Completion -/

/-- Functions of the cruiser. -/
def isRayFn : EngFn → Bool
  | .rtrace | .rany | .rlaunch | .bquery | .brefit => true
  | _ => false

/-- An engine operation runs to its end (R275, R276). A participant of a collective that has arrived waits for its round. -/
def completeEng (s : State) (o : Op) (e : EngState) : State :=
  match groupOf s o.gk with
  | none => dropOp s o.id
  | some g =>
    if e.joined.isSome then s
    else
      let c := opCtx o g
      let (s, e) := readBlock s g c e
      match e.bad with
      | some f => endEng s o e { status := 3, fault := some (engFault e f) }
      | none =>
        if e.fn == .allred || e.fn == .bcast then arrive s o e
        else
          let (s, r) := if isRayFn e.fn then runRays s g c e o.id else runData s g c e o.id
          endEng s o e r

/-- ENGINE_OPERATION_COMPLETION (R276, R271). -/
def execEngineOperationCompletion (op : Nat) (s : State) : Res :=
  .next (match opOf s op with
    | none => s
    | some o =>
      match o.kind with
      | .swAdd off n => completeSyncAdd s o off n
      | .eng e => completeEng s o e
      | _ => s)

end Sys2Proof.Machine
end

