-- ==== Sys2Proof/Machine/Invalidate.lean ====
section
/-! DEFINITION. Translation invalidate commands: their pieces and what a die does for one (spec/15_translation_tables.md R367, R368,
R372). -/
namespace Sys2Proof.Machine

/-- Writers of windows from here on are host modules; below, threads as `writerOf` names them. -/
def hostWriter : Nat := Config.cores * 4 * 32 * 16

/-- Core of a writer of a window, if it is a thread. -/
def writerCore (writer : Nat) : Option Nat := if writer < hostWriter then some (writer / (4 * 32 * 16)) else none

/-- INVALIDATE_WINDOW_PIECE (R367): a piece arrives; with the partition's queue full its writer stalls, and the host's writes are rejected
while it is blocked (R426). -/
def execInvalidateWindowPiece (part die writer piece : Nat) (data : DWord) (s : State) : Res :=
  .next (if invFull s part die || (hostBlocked s && (writerCore writer).isNone) then s else windowPiece s part die writer piece data (writerCore writer))

/-- Address spaces that a command covers. -/
def invAsids (s : State) (part : Nat) (c : InvCmd) : List Nat := if c.op = 2 then [asidOf s part false, asidOf s part true] else [c.asid]

/-- The bytes of a range that a command covers. -/
def invMeets (c : InvCmd) (va len : Nat) : Bool := c.op != 0 || (decide (va < c.start + 4096 * c.npg) && decide (c.start < va + len))

/-- First VA and size of what a leaf entry translates. -/
def leafSpan (e : TlbEntry) : Nat × Nat := if e.merged then (65536 * e.vpn, 65536) else (2 ^ levelShift e.level * e.vpn, 2 ^ levelShift e.level)

/-- The physical range that an old entry names for the pages of a command. -/
def oldRange (c : InvCmd) (e : TlbEntry) : Nat × Nat :=
  let sp := leafSpan e
  if c.op != 0 then (leafPa e sp.1, sp.2)
  else
    let lo := max sp.1 c.start
    (leafPa e lo, min (sp.1 + sp.2) (c.start + 4096 * c.npg) - lo)

/-- VAs that an access operation touches. -/
def opVas (o : Op) : List (Nat × Nat) :=
  match opPlace o with
  | some (.mem _ ps) => ps.map fun p => (p.va, p.len)
  | _ => []

/-- Step 1 of R368: cached leaf entries of the pages and every pointer entry of the address spaces go; the old leaf entries. -/
def dropEntries (s : State) (die part : Nat) (c : InvCmd) : State × List TlbEntry :=
  let as := invAsids s part c
  let old (e : TlbEntry) : Bool := e.leaf && as.contains e.asid && invMeets c (leafSpan e).1 (leafSpan e).2
  let gone (e : TlbEntry) : Bool := old e || (!e.leaf && as.contains e.asid)
  (modDie s die fun d => { d with tlb := d.tlb.filter fun e => !(gone e) }, (dieOf s die).tlb.filter old)

/-- Step 2 of R368 on a core: dirty bytes of the lines go to L2, the lines are discarded, and so are instruction-cache sectors. -/
def dropCoreLines (part : Nat) (c : InvCmd) (s : State) (core : Nat) : State :=
  let as := invAsids s part c
  let s := combineFlush s core
  let hit (l : L1Line) : Bool := as.contains l.asid && invMeets c (512 * l.line) 512
  let s := ((coreOf s core).l1.filter hit).foldl (fun s l => l1Evict s core l.asid l.line) s
  modCore s core fun k => { k with icache := k.icache.filter fun i => !(as.contains i.asid && invMeets c (64 * i.sector) 64) }

/-- Step 2 of R368: replicas of the lines that the old entries named go. -/
def dropReplicas (s : State) (ranges : List (Nat × Nat)) : State :=
  let hit (l : L2Line) : Bool := ranges.any fun r => decide (512 * l.line < r.1 + r.2) && decide (r.1 < 512 * l.line + 512)
  { s with
    dies := s.dies.map fun d => (d.1, { d.2 with l2 := d.2.l2.map fun l => if hit l then { l with replicas := [] } else l }) }

/-- The line of a tree node in the range that an operation holds pinned (R372). -/
def pinIn (s : State) (as : List Nat) (c : InvCmd) (o : Op) : Option Nat :=
  match o.kind with
  | .eng e => e.pinned.bind fun p =>
      if as.contains o.asid && invMeets c (p.1 / 512 * 512) 512 &&
        s.dies.any fun d => d.2.l2.any fun l => l.line == p.2 && l.pins.contains o.id then some p.2 else none
  | _ => none

/-- An operation whose pinned line was taken from it (R372). -/
def losePin (o : Op) : Op :=
  match o.kind with
  | .eng e => { o with kind := .eng { e with pinned := none, lost := true } }
  | _ => o

/-- Step 4 of R368: lines that engine operations pin in the range are written back and unpinned; how many there were. -/
def unpinLines (s : State) (part : Nat) (c : InvCmd) : State × Nat :=
  let as := invAsids s part c
  let held := s.ops.filterMap fun o => (pinIn s as c o).map fun l => (o.id, l)
  let pinnedBy (l : L2Line) : Bool := held.any fun h => h.2 == l.line && l.pins.contains h.1
  let lines := s.dies.flatMap fun d => (d.2.l2.filter pinnedBy).map fun l => (d.1, l.line)
  let free (s : State) (x : Nat × Nat) : State :=
    let s := l2WriteBack s x.1 x.2
    modDie s x.1 fun d =>
      { d with l2 := updFirst (fun l => l.line == x.2) (fun l => { l with pins := l.pins.filter fun i => !(held.any fun h => h.1 == i) }) d.l2 }
  let t := lines.foldl free s
  ({ t with ops := t.ops.map fun o => if held.any fun h => h.1 == o.id then losePin o else o }, lines.length)

/-- An engine operation of the address spaces that has used its translations: it has written pieces, and holds no pinned line in the
range, which step 4 takes from it. -/
def engUsed (s : State) (as : List Nat) (c : InvCmd) (o : Op) : Option EngState :=
  match o.kind with
  | .eng e => if as.contains o.asid && !(e.done.isEmpty) && (pinIn s as c o).isNone then some e else none
  | _ => none

/-- Step 3 of R368: the accesses to the pages, and the engine operations that have used their translations, complete. -/
def finishOld (s : State) (part : Nat) (c : InvCmd) : State :=
  let as := invAsids s part c
  let s := performAll s fun o => as.contains o.asid && (opVas o).any fun v => invMeets c v.1 v.2
  s.ops.foldl (fun s o => match engUsed s as c o with | some e => completeEng s o e | none => s) s

/-- A participant of a collective has arrived at an object in the pages: the command waits until its round is complete (R368). -/
def roundHeld (s : State) (part : Nat) (c : InvCmd) : Bool :=
  let as := invAsids s part c
  s.ops.any fun o =>
    match o.kind with
    | .eng e => e.joined.isSome && as.contains o.asid && invMeets c (blockWord e 3) 64
    | _ => false

/-- The die performs a command (R368): the release of the writing core, then the steps; the accesses translated with old entries
are complete before the lines go. -/
def performInvalidate (s : State) (die part : Nat) (c : InvCmd) : State :=
  let s := match c.core with
    | some k => drainCore (performAll s fun o => o.core == k) k
    | none => s
  let (s, old) := dropEntries s die part c
  let s := finishOld s part c
  let cores := (partClusters s part).flatMap fun g => (List.range 8).map fun i => 8 * g + i
  let s := dropReplicas (cores.foldl (dropCoreLines part c) s) (old.map (oldRange c))
  let (s, n) := unpinLines s part c
  if c.fut = 0 then s
  else
    match settleFuture s part false c.fut n false with
    | (s, f) => recordEvent s part f

/-- The oldest command of a partition on a die, if it is of the given op, is performed (R368). -/
def nextInvalidate (op die part : Nat) (s : State) : State :=
  match tget (dieOf s die).inv [] part with
  | [] => s
  | c :: rest =>
    if c.op != op || roundHeld s part c then s
    else performInvalidate (modDie s die fun d => { d with inv := tset d.inv part rest }) die part c

/-- INVALIDATE_RANGE (R368). -/
def execInvalidateRange (die part : Nat) (s : State) : Res := .next (nextInvalidate 0 die part s)

/-- INVALIDATE_ASID (R368). -/
def execInvalidateAsid (die part : Nat) (s : State) : Res := .next (nextInvalidate 1 die part s)

/-- INVALIDATE_PARTITION (R368). -/
def execInvalidatePartition (die part : Nat) (s : State) : Res := .next (nextInvalidate 2 die part s)

end Sys2Proof.Machine
end

