-- ==== Sys2Proof/Machine/Matrix.lean ====
section
/-! DEFINITION. The twenty matrix instructions: their checks and issue against the issue-side headers, the matrix command queue,
the execution and completion of commands (spec/07_matrix_registers.md R170 to R187, spec/08_matrix_instructions.md R188 to R210). -/
namespace Sys2Proof.Machine

/-! ## Issue (R181, R183, R189 to R191) -/

/-- Register m of a header list. -/
def hdrAt (hs : List MHeader) (r : BitVec 5) : MHeader := hs.getD r.toNat {}

/-- How a result is placed in a register (R177, R178). -/
inductive Placing where
  | fits
  | noDense
  | fallback
  | recompress
  | overflow
  deriving DecidableEq, Repr

/-- A register can hold a dense tile of its format (R177). -/
def holdsDense (h : MHeader) : Bool := decide (denseSlots h.fmt.toNat ≤ h.scount.toNat)

/-- Placement of a result of a rank in a register under `mpol` (R177, R178, Table 7.4). -/
def placing (h : MHeader) (mpol rank : Nat) : Placing :=
  if rank = 0 then .fits
  else if rank = 63 then (if holdsDense h then .fits else .noDense)
  else if rank ≤ 31 && rank ≤ capacity h then .fits
  else if mpol = 1 then .recompress
  else if mpol = 2 && holdsDense h then .fallback
  else .overflow

/-- Rank of a product, of a sum, by the ranks of the operands (Table 7.3). -/
def mulRank (a b : Nat) : Nat := if a = 0 || b = 0 then 0 else if a = 63 then (if b = 63 then 63 else b) else if b = 63 then a else min a b
def addRank (a b : Nat) : Nat := if a = 63 || b = 63 then 63 else a + b

/-- What a matrix instruction asks of the headers as they stand for it: the fields it names (0 md, 1 ma, 2 mb, 3 z), those
among them whose header must be valid, further violations, its scratchpad operand, the rank of its result, and the header of md
it leaves when it has no ranked result. -/
structure MatPlan where
  names : List Nat
  valid : List Nat
  bad : List Nat := []
  mem : Option (Nat × Nat) := none
  rank : Option Nat := none
  hdr : Option MHeader := none
  hold : Bool := false
  deriving DecidableEq, Repr

/-- The number that a field of an instruction names. -/
def fieldReg (o : MatOp) (f : Nat) : Nat :=
  match f with
  | 0 => o.md.toNat
  | 1 => o.ma.toNat
  | 2 => o.mb.toNat
  | _ => o.z.toNat

/-- Physical accumulator tile that z names (R102). -/
def physTile (g : Group) (o : MatOp) : Option Nat := g.ztiles[o.z.toNat + 8 * (g.ctl.zbank.toNat % 2)]?

/-- A matrix fault (R190). -/
def matFault (cls reg field : Nat) (va : Nat := 0) : FaultInfo :=
  { cls := cls, va := BitVec.ofNat 64 va, detail := reg + 2 ^ 5 * field }

/-- Segment of a scratchpad operand (R191). -/
def matSeg (o : MatOp) : Nat := if o.qf.getLsbD 3 then 4 else 1

/-- Segment offset of a scratchpad operand (R191). -/
def matOff (g : Group) (o : MatOp) : Nat := ((affOf g o.aq.toNat).base + o.imm.signExtend 64).toNat

/-- Rows 2 to 4 of Table 8.2. R190 numbers no field for aq and gives `hva` for the address faults alone: the non-uniform fault has
detail 0 and names no address (DESIGN CHOICE, log entry 58). -/
def memFault (g : Group) (o : MatOp) (m : Nat × Nat) : Option FaultInfo :=
  let off := matOff g o
  if (affOf g o.aq.toNat).stride != 0 then some { cls := fcNonUniform }
  else if off % m.2 != 0 then some { cls := fcMisaligned, va := BitVec.ofNat 64 off }
  else if off + m.1 > (segOf g (matSeg o)).limit.toNat then some { cls := fcSegLimit, va := BitVec.ofNat 64 off }
  else none

/-- How the result of a plan is placed. -/
def planPlacing (g : Group) (o : MatOp) (p : MatPlan) : Placing :=
  match p.rank with
  | some r => placing (hdrAt g.ihdrs o.md) (g.ctl.mpol.toNat % 4) r
  | none => .fits

/-- The lowest field of a plan that breaks row 1 of Table 8.2. -/
def badField (g : Group) (o : MatOp) (p : MatPlan) : Option Nat :=
  let invalid (f : Nat) : Bool := p.valid.contains f && !(hdrValid (g.ihdrs.getD (fieldReg o f) {}))
  let noTile : Bool := p.names.contains 3 && (physTile g o).isNone
  -- the rank of a result stands for something only when its operands are valid
  let sources := !(invalid 1) && !(invalid 2)
  let noRoom : Bool := planPlacing g o p == .noDense && (sources || p.rank == some 63)
  [0, 1, 2, 3].find? fun f => invalid f || p.bad.contains f || (f == 3 && noTile) || (f == 0 && noRoom)

/-- The fault that the instruction takes at issue, if any (Table 8.2). -/
def issueFault (g : Group) (o : MatOp) (p : MatPlan) : Option FaultInfo :=
  let occ (f : Nat) : FaultInfo := matFault fcTileOccupancy (fieldReg o f) f
  if g.hdrs.isEmpty then some (occ (p.names.headD 0))
  else
    match badField g o p with
    | some f => some (occ f)
    | none =>
      match p.mem.bind (memFault g o) with
      | some f => some f
      | none => if planPlacing g o p = .overflow then some (matFault fcRankOverflow o.md.toNat 0) else none

/-- The issue-side headers after the command (R183). -/
def headersAfter (g : Group) (o : MatOp) (p : MatPlan) : List MHeader :=
  let h := hdrAt g.ihdrs o.md
  match p.hdr with
  | some h => g.ihdrs.set o.md.toNat h
  | none =>
    match p.rank with
    | none => g.ihdrs
    | some r =>
      if p.hold || planPlacing g o p = .recompress then g.ihdrs
      else
        let r := if planPlacing g o p = .fallback then 63 else r
        g.ihdrs.set o.md.toNat { h with tr := false, rank := BitVec.ofNat 6 r, wcount := h.wcount + 1 }

/-- Commands of a group that have issued and not completed. -/
def commandsOf (s : State) (g : Group) : List MCmd :=
  let c := coreOf s g.core
  ((c.mrun.toList ++ c.mqueue).filter fun m => m.gk == g.gk) ++ g.saved

/-- The issue stalls: a full queue, sixteen commands, a recompression that has not completed, a wait counter at 63 (R70, R181,
R183). -/
def matStalled (s : State) (g : Group) (o : MatOp) : Bool :=
  decide ((commandsOf s g).length ≥ 16) || decide (matrixRoom (coreOf s g.core) = 0) || (commandsOf s g).any (fun m => m.hold) ||
  (decide (o.wait.toNat < 6) && (liveThreads g).any fun t => decide (t.w.getD o.wait.toNat 0 ≥ 63))

/-- A command enters the queue of its core and charges its counter in every live thread (R181). Its issue is ordered after the
threads' earlier accesses (R182). -/
def enqueueCommand (s : State) (g : Group) (o : MatOp) (cmd : MCmd) : State :=
  let s := releaseGroup s g.gk
  let charge (t : Thread) : Thread :=
    if !(isLive t) then t
    else if o.wait.toNat < 6 then { t with w := t.w.set o.wait.toNat (t.w.getD o.wait.toNat 0 + 1) }
    else { t with pw := t.pw + 1 }
  let s := modGroup s g.gk fun g => { g with threads := g.threads.map charge }
  modCore s g.core fun c => { c with mqueue := c.mqueue ++ [cmd] }

/-- The command of an instruction of a group. -/
def commandOf (g : Group) (instr : Instr) (o : MatOp) (p : MatPlan) : MCmd :=
  { gk := g.gk, instr := instr, cnt := o.wait.toNat, threads := (liveThreads g).map fun t => t.idx
    off := (segOf g (matSeg o)).base.toNat + matOff g o
    mpol := g.ctl.mpol.toNat % 4, tol := g.ctl.tol, ztile := (physTile g o).getD 0
    hold := p.hold || planPlacing g o p == .recompress }

/-- A matrix instruction for one group: the rank overflow of an earlier recompression, a full queue, the first fault, or its command
in the queue. The overflow comes before the instruction's own faults: R183 and Table 8.2 do not order the two (DESIGN CHOICE, log entry
25). `claim` gives the claim of `mclaim` with the issue-side headers it leaves (R194). -/
def issueMatrix (o : MatOp) (instr : Instr) (plan : List MHeader → MatPlan)
    (claim : State → Group → Option Nat × List MHeader → Option Nat × List MHeader) (s : State) (g : Group) : GroupOut :=
  let g := viewOf s g
  if (commandsOf s g).any (fun m => m.hold) then .stall s
  else
    match g.mover with
    | some r => .fault (modGroup s g.gk fun g => { g with mover := none }) (matFault fcRankOverflow r 0)
    | none =>
      let p := plan g.ihdrs
      if matStalled s g o then .stall s
      else
        match issueFault g o p with
        | some f => .fault s f
        | none =>
          let (at', hs) := claim s g (none, headersAfter g o p)
          let s := enqueueCommand s g o { commandOf g instr o p with claim := at' }
          .done (modGroup s g.gk fun g => { g with ihdrs := hs })

/-- A matrix instruction: converging, two words long, once for each group (R36, R189). -/
def runMatrix (s : State) (o : MatOp) (instr : Instr) (plan : List MHeader → MatPlan)
    (claim : State → Group → Option Nat × List MHeader → Option Nat × List MHeader := fun _ _ x => x) : State :=
  runConv s pastTwo (issueMatrix o instr plan claim)

/-! ## What each instruction asks -/

/-- An instruction that only names md. -/
def planD (h : MHeader → MHeader) (o : MatOp) (hs : List MHeader) : MatPlan :=
  { names := [0], valid := [0], hdr := some (h (hdrAt hs o.md)) }

/-- A result of md from ma at a rank. -/
def planDA (rank : Nat → Nat) (o : MatOp) (hs : List MHeader) : MatPlan :=
  { names := [0, 1], valid := [0, 1], rank := some (rank (hdrAt hs o.ma).rank.toNat) }

/-- A result of md from ma and mb. -/
def planDAB (rank : Nat → Nat → Nat) (o : MatOp) (hs : List MHeader) : MatPlan :=
  { names := [0, 1, 2], valid := [0, 1, 2], rank := some (rank (hdrAt hs o.ma).rank.toNat (hdrAt hs o.mb).rank.toNat) }

/-- An instruction of ma with a scratchpad operand. -/
def planA (len align : Nat) (o : MatOp) (hs : List MHeader) : MatPlan :=
  { names := [1], valid := [1], mem := some (if len = 0 then imageLen (hdrAt hs o.ma) (hdrAt hs o.ma).rank.toNat else len, align) }

/-- An instruction that needs factors of ma (R205, R206). -/
def needsFactors (o : MatOp) (hs : List MHeader) (p : MatPlan) : MatPlan :=
  if (hdrAt hs o.ma).rank = 63 then { p with bad := [1], rank := none } else p

/-- The header that `mhdr` forms 0 to 3 produce, valid or not (R196). -/
def planHdr (h : MHeader → MHeader) (o : MatOp) (hs : List MHeader) : MatPlan :=
  let h := h (hdrAt hs o.md)
  { names := [0], valid := [], bad := if hdrValid h then [] else [0], hdr := some h }

/-- A header with its rank and write count moved on. -/
def withRank (r : BitVec 6) (h : MHeader) : MHeader := { h with rank := r, wcount := h.wcount + 1 }

/-- `mhdr.fmt` (R196). -/
def setFmt (o : MatOp) (h : MHeader) : MHeader :=
  let f := o.imm.toNat % 32
  { h with
    fmt := BitVec.ofNat 5 f, tr := o.imm.getLsbD 5, rm := BitVec.ofNat 3 (field o.imm.toNat 6 3)
    blog := if isBlock f then 5 else 0, sofs := if f = fmtTB8 then 64 else if f = fmtB4 then 32 else 0 }

/-- The header after `mrel`, `mzero`, `mld` and the forms of `mhdr` (R171, R196 to R198). Where only the rank is set, tr stays: R175 clears
it with a result, and setting a rank to 0 is not called one (DESIGN CHOICE, log entry 58). -/
def relHdr (h : MHeader) : MHeader := { withRank 0 h with scount := 0 }
def zeroHdr (h : MHeader) : MHeader := withRank 0 h
def loadHdr (o : MatOp) (h : MHeader) : MHeader := { withRank o.flags h with tr := false }
def keyHdr (o : MatOp) (h : MHeader) : MHeader := { h with key := o.imm.setWidth 16 }
def wcHdr (o : MatOp) (h : MHeader) : MHeader := { h with wcount := o.imm.setWidth 16 }
def sofsHdr (o : MatOp) (h : MHeader) : MHeader := { h with sofs := o.imm.setWidth 8 }

/-- The lowest base of c free slots of a core (R171). -/
def claimBase (s : State) (core c : Nat) : Option Nat :=
  let rs := slotRanges s core
  (List.range (Config.tileSlots + 1 - c)).find? fun b => !(rs.any fun r => r.1 < b + c && b < r.1 + r.2)

/-- The decision of `mclaim` at issue (R171, R194). -/
def claimNow (o : MatOp) (s : State) (g : Group) (x : Option Nat × List MHeader) : Option Nat × List MHeader :=
  let h := hdrAt g.ihdrs o.md
  if h.scount != 0 then x
  else
    match claimBase s g.core o.imm.toNat with
    | none => x
    | some b => (some b, x.2.set o.md.toNat { withRank 0 h with sbase := BitVec.ofNat 8 b, scount := BitVec.ofNat 9 o.imm.toNat })

/-- `mclaim` (R194). -/
def execMclaim (o : MatOp) (s : State) : Res :=
  .next (runMatrix s o (.mclaim o) (fun _ => { names := [0], valid := [0] }) (claimNow o))

/-- `mrel` (R195). -/
def execMrel (o : MatOp) (s : State) : Res := .next (runMatrix s o (.mrel o) (planD relHdr o))

/-- `mld` (R198). -/
def execMld (o : MatOp) (s : State) : Res :=
  .next (runMatrix s o (.mld o) fun hs =>
    let h := loadHdr o (hdrAt hs o.md)
    { names := [0], valid := [0], bad := if hdrValid h then [] else [0], mem := some (imageLen h o.flags.toNat, 64), hdr := some h })

/-- `mst` (R199). -/
def execMst (o : MatOp) (s : State) : Res :=
  .next (runMatrix s o (.mst o) fun hs =>
    let h := hdrAt hs o.ma
    { planA 0 64 o hs with bad := if isBlock h.fmt.toNat && h.tr then [1] else [] })

/-- `mzero` (R197). -/
def execMzero (o : MatOp) (s : State) : Res := .next (runMatrix s o (.mzero o) (planD zeroHdr o))

/-- `mhdr.fmt` (R196). -/
def execMhdrFmt (o : MatOp) (s : State) : Res := .next (runMatrix s o (.mhdrFmt o) (planHdr (setFmt o) o))

/-- `mhdr.key` (R196). -/
def execMhdrKey (o : MatOp) (s : State) : Res := .next (runMatrix s o (.mhdrKey o) (planHdr (keyHdr o) o))

/-- `mhdr.wc` (R196). -/
def execMhdrWc (o : MatOp) (s : State) : Res := .next (runMatrix s o (.mhdrWc o) (planHdr (wcHdr o) o))

/-- `mhdr.sofs` (R196). -/
def execMhdrSofs (o : MatOp) (s : State) : Res := .next (runMatrix s o (.mhdrSofs o) (planHdr (sofsHdr o) o))

/-- `mhdr.st` (R196): any header, valid or not. -/
def execMhdrSt (o : MatOp) (s : State) : Res :=
  .next (runMatrix s o (.mhdrSt o) fun _ => { names := [1], valid := [], mem := some (16, 16) })

/-- `mmul` (R201). -/
def execMmul (o : MatOp) (s : State) : Res := .next (runMatrix s o (.mmul o) (planDAB mulRank o))

/-- `madd` (R201). -/
def execMadd (o : MatOp) (s : State) : Res := .next (runMatrix s o (.madd o) (planDAB addRank o))

/-- `msub` (R201). -/
def execMsub (o : MatOp) (s : State) : Res := .next (runMatrix s o (.msub o) (planDAB addRank o))

/-- `mscale` (R202). -/
def execMscale (o : MatOp) (s : State) : Res :=
  .next (runMatrix s o (.mscale o) fun hs => { planDA id o hs with mem := some (4, 4) })

/-- `mtrn` (R203). -/
def execMtrn (o : MatOp) (s : State) : Res := .next (runMatrix s o (.mtrn o) (planDA id o))

/-- `mrecomp` (R206): where its result fits is known only at its end. -/
def execMrecomp (o : MatOp) (s : State) : Res :=
  .next (runMatrix s o (.mrecomp o) fun hs => needsFactors o hs { names := [0, 1], valid := [0, 1], hold := true })

/-- `mdense` (R204). -/
def execMdense (o : MatOp) (s : State) : Res := .next (runMatrix s o (.mdense o) (planDA (fun _ => 63) o))

/-- `mrank` (R205). -/
def execMrank (o : MatOp) (s : State) : Res :=
  .next (runMatrix s o (.mrank o) fun hs => needsFactors o hs (planDA (fun r => min o.imm.toNat r) o hs))

/-- `mnorm` (R207). -/
def execMnorm (o : MatOp) (s : State) : Res := .next (runMatrix s o (.mnorm o) (planA 8 8 o))

/-- `mma` (R208). -/
def execMma (o : MatOp) (s : State) : Res := .next (runMatrix s o (.mma o) fun _ => { names := [1, 2, 3], valid := [1, 2] })

/-- `zld` (R200). -/
def execZld (o : MatOp) (s : State) : Res := .next (runMatrix s o (.zld o) fun _ => { names := [3], valid := [], mem := some (16384, 64) })

/-- `zst` (R200). -/
def execZst (o : MatOp) (s : State) : Res := .next (runMatrix s o (.zst o) fun _ => { names := [3], valid := [], mem := some (16384, 64) })

/-- `zcvt` (R209). -/
def execZcvt (o : MatOp) (s : State) : Res :=
  .next (runMatrix s o (.zcvt o) fun _ => { names := [0, 3], valid := [0], rank := some 63 })

/-- `zzero` (R200). -/
def execZzero (o : MatOp) (s : State) : Res := .next (runMatrix s o (.zzero o) fun _ => { names := [3], valid := [] })

/-! ## Execution of a command (R182 to R184, R192 to R210) -/

/-- Bytes of a claim. -/
def claimBytes (s : State) (core : Nat) (h : MHeader) (n : Nat) : List Byte := memRead (coreOf s core).tiles (1024 * h.sbase.toNat) n

/-- Bytes of a claim written at an offset. -/
def claimWrite (core : Nat) (h : MHeader) (s : State) (p : Nat × List Byte) : State :=
  let a := 1024 * h.sbase.toNat + p.1
  modCore s core fun c => { c with tiles := memWrite c.tiles a p.2, tilePoison := clearUnits c.tilePoison a p.2.length }

/-- The image of a register. -/
def imageOf (s : State) (core : Nat) (h : MHeader) : List Byte := claimBytes s core h (imageLen h h.rank.toNat)

/-- The value of register r of a group. -/
def regValue (s : State) (g : Group) (r : BitVec 5) : MatVal := valueOf (hdrAt g.hdrs r) (imageOf s g.core (hdrAt g.hdrs r))

/-- FP32 codes of an accumulator tile. -/
def tileCodes (s : State) (core z : Nat) : List Nat := codesOf 32 (memRead (coreOf s core).acc (16384 * z) 16384)

/-- An accumulator tile written. -/
def tileWrite (s : State) (core z : Nat) (cs : List Nat) : State :=
  modCore s core fun c =>
    { c with acc := memWrite c.acc (16384 * z) (bytesOf 32 cs), accPoison := clearUnits c.accPoison (16384 * z) 16384 }

/-- Poison in the image of register r of a group, named by a field (R184). -/
def regPoison (s : State) (g : Group) (o : MatOp) (f : Nat) : Option FaultInfo :=
  let h := g.hdrs.getD (fieldReg o f) {}
  let units := (imageParts h h.rank.toNat).flatMap fun p => unitsOf (1024 * h.sbase.toNat + p.1) p.2
  if units.any fun u => (coreOf s g.core).tilePoison.contains u then
    some (matFault fcPoison (fieldReg o f) f)
  else none

/-- Poison in an accumulator tile. -/
def tilePoisoned (s : State) (g : Group) (o : MatOp) (z : Nat) : Option FaultInfo :=
  if (unitsOf (16384 * z) 16384).any fun u => (coreOf s g.core).accPoison.contains u then some (matFault fcPoison o.z.toNat 3) else none

/-- Poison in a scratchpad operand: its fault names the byte of the core's scratchpad, with detail 0, where R190 is silent (DESIGN CHOICE,
log entry 58). -/
def operandPoison (s : State) (g : Group) (off n : Nat) : Option FaultInfo :=
  if n != 0 && scratchPoisoned s g.core off n then some (poisonAt off) else none

/-- The poison a command meets (R184). -/
def commandPoison (s : State) (g : Group) (m : MCmd) : Option FaultInfo :=
  let a (o : MatOp) := regPoison s g o 1
  let ab (o : MatOp) := (a o).orElse fun _ => regPoison s g o 2
  match m.instr with
  | .mld o => (imageParts (hdrAt g.hdrs o.md) o.flags.toNat).findSome? fun p => operandPoison s g (m.off + p.1) p.2
  | .mst o => a o
  | .mmul o => ab o
  | .madd o => ab o
  | .msub o => ab o
  | .mscale o => (a o).orElse fun _ => if (hdrAt g.hdrs o.ma).rank = 0 then none else operandPoison s g m.off 4
  | .mtrn o => a o
  | .mrecomp o => a o
  | .mdense o => a o
  | .mrank o => a o
  | .mnorm o => a o
  | .mma o => (ab o).orElse fun _ => tilePoisoned s g o m.ztile
  | .zld _ => operandPoison s g m.off 16384
  | .zst o => tilePoisoned s g o m.ztile
  | .zcvt o => tilePoisoned s g o m.ztile
  | _ => none

/-- The headers of a group with md's replaced. -/
def putHdr (s : State) (gk : Nat) (md : BitVec 5) (f : MHeader → MHeader) : State :=
  modGroup s gk fun g => { g with hdrs := g.hdrs.set md.toNat (f (hdrAt g.hdrs md)) }

/-- A value is written to md: its bytes, its rank, its write count (R175, R176, R193). -/
def writeValue (s : State) (g : Group) (md : BitVec 5) (tag : Nat) (sat : Bool) (v : MatVal) : State :=
  let h := hdrAt g.hdrs md
  let s := (valueParts h tag sat v).foldl (claimWrite g.core h) s
  putHdr s g.gk md fun h => { withRank (BitVec.ofNat 6 (rankOf v)) h with tr := false }

/-- A recompressed value is written to md if it fits; else the rank-overflow fault waits for the next matrix instruction (R183,
R206). -/
def writeKept (s : State) (g : Group) (md : BitVec 5) (v : MatVal) : State :=
  if rankOf v ≤ capacity (hdrAt g.hdrs md) then writeValue s g md 0 false v
  else modGroup s g.gk fun g => { g with mover := some md.toNat }

/-- The factors of a result rounded to FP32 (Table 7.4). -/
def factors32 : MatVal → MatVal
  | .pair us vs => .pair (us.map fun c => c.map rnd) (vs.map fun c => c.map rnd)
  | v => v

/-- A result is placed in md (R177, R178): `exact` gives it again from the operands as if they were dense. -/
def placeMatrix (s : State) (g : Group) (m : MCmd) (md : BitVec 5) (v : MatVal) (exact : Unit → MatVal) : State :=
  let h := hdrAt g.hdrs md
  match placing h m.mpol (rankOf v) with
  | .fits => writeValue s g md 0 false v
  | .fallback => writeValue s g md 0 false (exact ())
  | .recompress => writeKept s g md (recompressed h m.tol (factors32 v))
  | _ => s

/-- A value as a dense one. -/
def asDense (v : MatVal) : MatVal := .dense (denseOf v)

/-- The scalar of `mscale`. -/
def scalarOf (s : State) (g : Group) (m : MCmd) : FVal := val32 (BitVec.ofNat 32 (leNat (scratchRead s g.core m.off 4)))

/-- The first columns of a factor pair (R205). -/
def truncated (k : Nat) : MatVal → MatVal
  | .pair us vs => if k = 0 then .zero else .pair (us.take k) (vs.take k)
  | v => v

/-- The bytes of `mst` (R199): with tr the image of the transposed value. -/
def storeImage (s : State) (g : Group) (h : MHeader) : List Byte :=
  let img := imageOf s g.core h
  let f := h.fmt.toNat
  let codes := codesOf (elemBits f) img
  let turned :=
    if !h.tr then img
    else if h.rank = 63 then
      let rows := chunks 64 64 codes
      bytesOf (elemBits f) ((List.range 64).flatMap fun i => (List.range 64).map fun j => (rows.getD j []).getD i 0)
    else
      let cols := chunks 64 (2 * h.rank.toNat) codes
      bytesOf (elemBits f) ((List.range h.rank.toNat).flatMap fun c => cols.getD (2 * c + 1) [] ++ cols.getD (2 * c) [])
  canonImage { h with tr := false } h.rank.toNat turned

/-- The effect of a command (R193 to R210). -/
def runCommand (s : State) (g : Group) (m : MCmd) : State :=
  let val (r : BitVec 5) : MatVal := regValue s g r
  let copy (d a : BitVec 5) : MatVal := copied (hdrAt g.hdrs a).fmt.toNat (hdrAt g.hdrs d).fmt.toNat (val a)
  match m.instr with
  | .mclaim o =>
    match m.claim with
    | none => s
    | some b =>
      let s := modCore s g.core fun c =>
        { c with
          tiles := memClear c.tiles (1024 * b) (1024 * o.imm.toNat)
          tilePoison := clearUnits c.tilePoison (1024 * b) (1024 * o.imm.toNat) }
      putHdr s g.gk o.md fun h => { withRank 0 h with sbase := BitVec.ofNat 8 b, scount := BitVec.ofNat 9 o.imm.toNat }
  | .mrel o => putHdr s g.gk o.md relHdr
  | .mld o =>
    let h := loadHdr o (hdrAt g.hdrs o.md)
    let bs := canonImage h o.flags.toNat (scratchRead s g.core m.off (imageLen h o.flags.toNat))
    let s := ((imageParts h o.flags.toNat).map fun p => (p.1, (bs.drop p.1).take p.2)).foldl (claimWrite g.core h) s
    putHdr s g.gk o.md (loadHdr o)
  | .mst o =>
    let h := hdrAt g.hdrs o.ma
    let bs := storeImage s g h
    (imageParts h h.rank.toNat).foldl (fun s p => scratchStore s g.core (m.off + p.1) ((bs.drop p.1).take p.2)) s
  | .mzero o => putHdr s g.gk o.md zeroHdr
  | .mhdrFmt o => putHdr s g.gk o.md (setFmt o)
  | .mhdrKey o => putHdr s g.gk o.md (keyHdr o)
  | .mhdrWc o => putHdr s g.gk o.md (wcHdr o)
  | .mhdrSofs o => putHdr s g.gk o.md (sofsHdr o)
  | .mhdrSt o => scratchStore s g.core m.off (hdrBytes (hdrAt g.hdrs o.ma))
  | .mmul o => placeMatrix s g m o.md (matMul (val o.ma) (val o.mb)) fun _ => matMul (asDense (val o.ma)) (asDense (val o.mb))
  | .madd o => placeMatrix s g m o.md (matAdd (val o.ma) (val o.mb)) fun _ => matAdd (asDense (val o.ma)) (asDense (val o.mb))
  | .msub o =>
    placeMatrix s g m o.md (matAdd (val o.ma) (negated (val o.mb))) fun _ => matAdd (asDense (val o.ma)) (asDense (negated (val o.mb)))
  | .mscale o => placeMatrix s g m o.md (matScale (scalarOf s g m) (val o.ma)) fun _ => matScale (scalarOf s g m) (asDense (val o.ma))
  | .mtrn o => placeMatrix s g m o.md (transposed (copy o.md o.ma)) fun _ => transposed (asDense (copy o.md o.ma))
  | .mrecomp o => writeKept s g o.md (recompressed (hdrAt g.hdrs o.md) m.tol (val o.ma))
  | .mdense o => writeValue s g o.md 0 false (asDense (copy o.md o.ma))
  | .mrank o => placeMatrix s g m o.md (truncated o.imm.toNat (val o.ma)) fun _ => asDense (truncated o.imm.toNat (val o.ma))
  | .mnorm o =>
    scratchStore s g.core m.off (leBytes ((normBits (val o.ma)).toNat + 2 ^ 32 * (hdrAt g.hdrs o.ma).rank.toNat) 8)
  | .mma o => tileWrite s g.core m.ztile (mmaCodes (val o.ma) (val o.mb) (o.qf.getLsbD 0) (tileCodes s g.core m.ztile))
  | .zld _ => tileWrite s g.core m.ztile ((codesOf 32 (scratchRead s g.core m.off 16384)).map (canonCode 10))
  | .zst _ => scratchStore s g.core m.off (bytesOf 32 (tileCodes s g.core m.ztile))
  | .zcvt o =>
    writeValue s g o.md (o.qf.toNat % 4) (o.qf.getLsbD 2) (.dense (chunks 64 64 ((tileCodes s g.core m.ztile).map (codeVal 10))))
  | .zzero _ => tileWrite s g.core m.ztile (List.replicate 4096 0)
  | _ => s

/-- A command acts, unless an earlier one of its group met poison or it meets poison itself (R184): the fault, if any. -/
def actCommand (s : State) (m : MCmd) : State × Option FaultInfo :=
  match groupOf s m.gk with
  | none => (s, none)
  | some g =>
    if g.mpoison then (s, none)
    else
      match commandPoison s g m with
      | some f => (modGroup s m.gk fun g => { g with mpoison := true }, some f)
      | none => (runCommand s g m, none)

/-- Group contexts of a core that have a queued command, with the context and the command. -/
def readyCommands (s : State) (core : Nat) : List (Nat × MCmd) :=
  let c := coreOf s core
  let firsts := c.mqueue.foldl (fun (l : List MCmd) m => if l.any (fun x => x.gk == m.gk) then l else l ++ [m]) []
  firsts.filterMap fun m => (groupOf s m.gk).map fun g => (g.ctx, m)

/-- The command that starts next: round-robin over the group contexts (R182). -/
def nextCommand (s : State) (core : Nat) : Option (Nat × MCmd) :=
  let last := (coreOf s core).mrr
  let dist (k : Nat) : Nat := (k + 15 - last % 16) % 16
  (readyCommands s core).foldl
    (fun b x => match b with | none => some x | some y => if dist x.1 < dist y.1 then some x else some y) none

/-- A command leaves the queue and starts; a recompression writes only at its end (R182, R187). -/
def startCommand (s : State) (core ctx : Nat) (m : MCmd) : State :=
  let rec drop : List MCmd → List MCmd
    | [] => []
    | x :: r => if x.gk == m.gk then r else x :: drop r
  let s := modCore s core fun c => { c with mqueue := drop c.mqueue, mrr := ctx }
  let (s, f) := if m.hold then (s, none) else actCommand s m
  modCore s core fun c => { c with mrun := some { m with fault := f } }

/-- A group that failed while it was pre-empted holds commands that wait for the queue (R413). -/
def keepsCommands (core : Nat) (g : Group) : Bool := g.core == core && g.run == .exited && !g.saved.isEmpty

/-- Commands that such a group keeps enter the queue in their order as it has room (R181, R413). -/
def feedSaved (s : State) (core : Nat) : State :=
  match s.groups.find? (keepsCommands core) with
  | none => s
  | some g =>
    let n := matrixRoom (coreOf s core)
    modGroup (modCore s core fun c => { c with mqueue := c.mqueue ++ g.saved.take n }) g.gk fun g => { g with saved := g.saved.drop n }

/-- MATRIX_COMMAND_START (R182). -/
def execMatrixCommandStart (core : Nat) (s : State) : Res :=
  .next (if (coreOf s core).mrun.isSome then s
    else
      let s := feedSaved s core
      match nextCommand s core with
      | none => s
      | some (ctx, m) => startCommand s core ctx m)

/-- What a completed command gives its group: the predicate of `mclaim`, the counters, the deferred poison fault, and, when none
is left after poison or a recompression, issue-side headers equal to the headers (R181, R183, R184, R194). -/
def finishCommand (s : State) (m : MCmd) (dead : Bool) (f : Option FaultInfo) : State :=
  match groupOf s m.gk with
  | none => s
  | some g =>
    let s :=
      match m.instr with
      | .mclaim o =>
        if dead then s
        else (liveThreads g).foldl (fun s t => modThread s m.gk t.idx fun t => putPred t (o.flags.setWidth 3) m.claim.isSome) s
      | _ => s
    let s := match f, (liveThreads g).head? with
      | some f, some t => deferFault s m.gk t.idx m.cnt f
      | _, _ => s
    let s := m.threads.foldl (fun s t => creditCounter s m.gk t m.cnt) s
    match groupOf s m.gk with
    | none => s
    | some g =>
      if (commandsOf s g).isEmpty && (g.mpoison || m.hold) then
        modGroup s m.gk fun g => { g with ihdrs := g.hdrs, mpoison := false }
      else s

/-- The running command of a core completes. -/
def completeCommand (s : State) (core : Nat) : State :=
  match (coreOf s core).mrun with
  | none => s
  | some m =>
    let dead := m.fault.isNone && (groupOf s m.gk).any fun g => g.mpoison
    let (s, f) := if m.hold then actCommand s m else (s, m.fault)
    finishCommand (modCore s core fun c => { c with mrun := none }) m dead f

/-- MATRIX_COMMAND_COMPLETION (R181). -/
def execMatrixCommandCompletion (core : Nat) (s : State) : Res := .next (completeCommand s core)

end Sys2Proof.Machine
end

