-- ==== Sys2Proof/Machine/Sha.lean ====
section
/-! DEFINITION. SHA-256, which spec/18_faults_and_security.md R422 and R423 name, by its published definition: the constants are
fractional parts of roots of the first primes (log entry 9). -/
namespace Sys2Proof.Machine

/-- The greatest x below r + 2^n whose k-th power is at most m, found bit by bit from bit n - 1 down, given that r is too small. -/
def rootFrom (k m : Nat) : Nat → Nat → Nat
  | 0, r => r
  | n + 1, r => rootFrom k m n (if (r + 2 ^ n) ^ k ≤ m then r + 2 ^ n else r)

/-- The first 32 bits of the fractional part of the k-th root of p. -/
def rootBits (k p : Nat) : Nat := rootFrom k (p * 2 ^ (32 * k)) 40 0 % 2 ^ 32

/-- The primes below 312, of which there are 64. -/
def shaPrimes : List Nat := (List.range 312).filter fun n => decide (2 ≤ n) && (List.range n).all fun d => d < 2 || n % d != 0

/-- The eight working variables of SHA-256, by the letters of its definition. -/
structure ShaVars where
  (a b c d e f g h : Word)
  deriving DecidableEq, Repr

/-- Working variables from eight words. -/
def shaVars (w : Nat → Word) : ShaVars := ⟨w 0, w 1, w 2, w 3, w 4, w 5, w 6, w 7⟩

/-- The exclusive or of three rotations of a word. -/
def rot3 (x : Word) (i j k : Nat) : Word := x.rotateRight i ^^^ x.rotateRight j ^^^ x.rotateRight k

/-- The exclusive or of two rotations and a shift. -/
def rotShift (x : Word) (i j k : Nat) : Word := x.rotateRight i ^^^ x.rotateRight j ^^^ (x >>> k)

/-- One round with the sum of its constant and its word: bits of f or g as e chooses, and the majority of a, b and c. -/
def shaRound (v : ShaVars) (kw : Word) : ShaVars :=
  let choose := (v.e &&& v.f) ||| (~~~v.e &&& v.g)
  let major := (v.a &&& (v.b ||| v.c)) ||| (v.b &&& v.c)
  let t := kw + v.h + choose + rot3 v.e 6 11 25
  { a := t + major + rot3 v.a 2 13 22, b := v.a, c := v.b, d := v.c, e := v.d + t, f := v.e, g := v.f, h := v.g }

/-- The 64 words of the message schedule: the window holds the last sixteen, oldest first. -/
def shaWords : Nat → List Word → List Word
  | n + 1, w0 :: rest =>
    w0 :: shaWords n (rest ++ [w0 + rotShift (rest.getD 0 0) 7 18 3 + rest.getD 8 0 + rotShift (rest.getD 13 0) 17 19 10])
  | _, _ => []

/-- A block of sixteen words joins the hash value. -/
def shaBlock (v : ShaVars) (block : List Word) : ShaVars :=
  let ks := shaPrimes.map fun p => BitVec.ofNat 32 (rootBits 3 p)
  let r := (List.zipWith (· + ·) ks (shaWords 64 block)).foldl shaRound v
  ⟨v.a + r.a, v.b + r.b, v.c + r.c, v.d + r.d, v.e + r.e, v.f + r.f, v.g + r.g, v.h + r.h⟩

/-- The value of a byte list, the first byte the highest. -/
def beNat (bs : List Byte) : Nat := leNat bs.reverse

/-- A message with its padding: a one bit, zero bytes up to 8 short of a multiple of 64, its length in bits. -/
def shaPadded (bs : List Byte) : List Byte :=
  bs ++ 0x80#8 :: (List.replicate ((119 - bs.length % 64) % 64) 0 ++ (leBytes (8 * bs.length) 8).reverse)

/-- n blocks of 64 bytes join the hash value. -/
def shaBlocks : Nat → List Byte → ShaVars → ShaVars
  | 0, _, v => v
  | n + 1, bs, v => shaBlocks n (bs.drop 64) (shaBlock v ((List.range 16).map fun i => BitVec.ofNat 32 (beNat ((bs.drop (4 * i)).take 4))))

/-- SHA-256 of a message, as its 32 bytes. -/
def sha256 (bs : List Byte) : List Byte :=
  let v0 := shaVars fun i => BitVec.ofNat 32 (rootBits 2 (shaPrimes.getD i 0))
  let r := shaBlocks ((shaPadded bs).length / 64) (shaPadded bs) v0
  [r.a, r.b, r.c, r.d, r.e, r.f, r.g, r.h].flatMap fun w => (leBytes w.toNat 4).reverse

/-- Extension of a measurement register by a digest: SHA-256 (M ‖ digest), byte 0 of each in its low 8 bits (R423). -/
def measureExtend (m digest : BitVec 256) : BitVec 256 :=
  BitVec.ofNat 256 (leNat (sha256 (leBytes m.toNat 32 ++ leBytes digest.toNat 32)))

end Sys2Proof.Machine
end

