-- ==== Sys2Proof/Machine/Power.lean ====
section
/-! DEFINITION. L2 placement and the flumes as they move by themselves, power, gating, temperature, the enable of a partition,
recovery points, attestation, fatal errors and cold reset (spec/09_memories.md R219, R224, R225,
spec/19_host_link_and_power.md R436 to R440, spec/18_faults_and_security.md R417 to R427). -/
namespace Sys2Proof.Machine

/-! ## L2 placement and the flumes -/

/-- FLUME_WRITEBACK (R219): the oldest dirty line of a core goes to L2. -/
def execFlumeWriteback (core : Nat) (s : State) : Res :=
  .next (match (coreOf s core).flume with
    | [] => s
    | e :: _ => l1WriteBack s core e.1 e.2)

/-- Accesses in a row that move a line (Table 9.3). -/
def moveAfter (s : State) : Nat := max 1 (field s.l2place.toNat 4 4)

/-- A line of a die takes a way in another slice and moves there; with none to take it stays. -/
def moveLine (s : State) (die : Nat) (l : L2Line) (slice : Nat) : State × Bool :=
  match takeWay s l.part slice l.line with
  | (s, none) => (s, false)
  | (s, some w) =>
    (modDie s die fun d =>
      { d with l2 := updFirst (fun x => x.line == l.line) (fun x => { x with slice := slice, way := w, run := 0 }) d.l2 }, true)

/-- L2_LINE_MIGRATION (R224): in migration mode a line moves to the slice nearest its last requesters. -/
def execL2LineMigration (line slice : Nat) (s : State) : Res :=
  let may (l : L2Line) : Bool := l.line == line && l.near == slice && l.slice != slice && decide (l.run ≥ moveAfter s)
  .next (if !(s.l2place.getLsbD 0) then s
    else
      match s.dies.findSome? fun d => (d.2.l2.find? may).map fun l => (d.1, l) with
      | none => s
      | some (d, l) => (moveLine s d l slice).1)

/-- L2PLACE_WRITE (R225). -/
def execL2placeWrite (val : Word) (s : State) : Res := .next (if hostBlocked s then s else deviceWrite s .host 0x220 val)

/-- A line away from home goes there, or to memory when it finds no way. -/
def sendHome (s : State) (x : Nat × Nat) : State :=
  match l2Find s x.1 x.2 with
  | none => s
  | some l =>
    if l.slice = homeSlice x.1 x.2 then s
    else
      match moveLine s x.1 l (homeSlice x.1 x.2) with
      | (s, true) => s
      | (s, false) => l2Evict s x.1 x.2

/-- L2PLACE_DRAIN_DONE (R225): in replication mode every line is home again, in migration mode no replica is left. -/
def execL2placeDrainDone (s : State) : Res :=
  .next (if !(s.l2place.getLsbD 8) then s
    else
      let s := { s with l2place := s.l2place &&& 0xFFFFFEFF }
      if s.l2place.getLsbD 0 then
        { s with dies := s.dies.map fun d => (d.1, { d.2 with l2 := d.2.l2.map fun l => { l with replicas := [] } }) }
      else (s.dies.flatMap fun d => d.2.l2.map fun l => (d.1, l.line)).foldl sendHome s)

/-! ## Power and gating (R436 to R439) -/

/-- PSTATE_WRITE (R437). -/
def execPstateWrite (val : Word) (s : State) : Res := .next (if hostBlocked s then s else deviceWrite s .host 0x500 val)

/-- PSTATE_CHANGE_DONE (R437): the clock has changed; busy clears and issue resumes. -/
def execPstateChangeDone (s : State) : Res := .next (if s.pstate.getLsbD 2 then { s with pstate := s.pstate &&& 3 } else s)

/-- CGATE_WRITE (R438). -/
def execCgateWrite (val : Word) (s : State) : Res := .next (if hostBlocked s then s else deviceWrite s .host 0x501 val)

/-- A cluster holds a group that gating waits for: one that is not between phases, or that is tied to the cluster (R438). -/
def holdsGroup (s : State) (cluster : Nat) : Bool :=
  s.groups.any fun g => clusterOfGroup g == cluster && g.run != .retired && (g.run != .parked || holdsPinned g || g.record.det)

/-- A cluster holds a record that only it can run (R438). -/
def holdsOwn (s : State) (cluster : Nat) : Bool :=
  [0, 1, 2, 3].any fun cls =>
    (deckOf s cluster cls ++ (landingOf s cluster cls).map (fun x => x.2) ++ waitingOf s cluster cls).any (onlyHere cluster cluster)

/-- CLUSTER_GATED (R438): the cluster's bit of `cgated` is set when nothing holds it. -/
def execClusterGated (cluster : Nat) (s : State) : Res :=
  .next (if s.cgate.getLsbD cluster && !(s.cgated.getLsbD cluster) && decide (cluster < Config.clusters) &&
        !(holdsGroup s cluster) && !(holdsOwn s cluster) then
      { s with cgated := s.cgated ||| BitVec.ofNat 32 (2 ^ cluster) }
    else s)

/-- POWER_ABOVE_CAP (R439): the measured power, against the cap: event 7 once for each millisecond that it stays above. -/
def execPowerAboveCap (watts : Nat) (s : State) : Res := .next (checkCap { s with pmeas := BitVec.ofNat 32 (watts % 4096) })

/-! ## Fatal errors and the dump (R426, R427) -/

/-- A partition whose data a dump may not show. -/
def sealedPart (s : State) (p : Nat) : Bool := (partOf s p).pctl.getLsbD 1

/-- A cluster of a sealed partition. -/
def sealedCluster (s : State) (g : Nat) : Bool := (List.range 8).any fun p => (partOf s p).pclust.getLsbD g && sealedPart s p

/-- What the dump keeps of a partition: of a sealed one its identity, its routing and fault registers, its fault records not yet written,
its counters. -/
def dumpPart (q : Partition) : Partition :=
  if !(q.pctl.getLsbD 1) then q
  else
    { pclust := q.pclust, pctl := q.pctl, pkeyst := q.pkeyst, pswld := q.pswld, route0 := q.route0, route1 := q.route1
      fqbase := q.fqbase, qsize := q.qsize, fqtail := q.fqtail, fqhead := q.fqhead, evbase := q.evbase, evtail := q.evtail, evhead := q.evhead
      svpc := q.svpc, parked := q.parked.filter fun r => r.seq.isNone, measure := q.measure, dropped := q.dropped }

/-- What the dump keeps of a group: of a sealed partition's its place and its counters (Table 17.1). -/
def dumpGroup (s : State) (g : Group) : Group :=
  if !(sealedPart s g.record.part) then g
  else
    { gk := g.gk, grid := g.grid, gid := 0, record := { part := g.record.part }, kd := {}, core := g.core, barriers := g.barriers
      hdrs := g.hdrs.map fun h => { wcount := h.wcount }
      threads := g.threads.map fun t => { idx := t.idx, regs := [], winHi := 0, w := t.w, pw := t.pw, pc := 0, hdr := 0 } }

/-- What the dump keeps of a frame: of a sealed partition's the counts of its tiles and its deadlines (Table 17.1). -/
def dumpFrame (s : State) (f : Frame) : Frame :=
  if !(sealedPart s f.part) then f
  else
    { grid := f.grid, part := f.part, world := false, fnum := 0, vmask := 0, stmpl := {}, fhist := [], bins := 0, binkib := 0, views := []
      pool := [], ts := 0, timing := f.timing, deadlines := f.deadlines
      tiles := f.tiles.map fun t => { q := t.q, view := 0, strip := 0, tx := 0, ty := 0, core := 0, slot := 0, count := t.count } }

/-- What the dump keeps of a core: the memories and queues, of L1 the dirty bytes. -/
def dumpCore (c : Core) : Core :=
  { c with l1 := (c.l1.map fun l => { l with clean := [] }).filter (fun l => !(l.dirty.isEmpty)), icache := [] }

/-- What the dump keeps of a die: dirty L2 sectors, invalidate queues and open frames of partitions that are not sealed, its error
counters. -/
def dumpDie (s : State) (d : Die) : Die :=
  let line (l : L2Line) : L2Line := { l with packed := none, sectors := l.sectors.filter fun e => e.2.dirty }
  { l2 := ((d.l2.filter fun l => !(sealedPart s l.part)).map line).filter fun l => !(l.sectors.isEmpty)
    inv := d.inv.filter fun e => !(sealedPart s e.1)
    frames := d.frames.map (dumpFrame s)
    errors := d.errors }

/-- What the dump keeps of an output: of a sealed partition's its counters. -/
def dumpOutput (s : State) (o : Output) : Output :=
  if o.downer.getLsbD 3 && sealedPart s (field o.downer.toNat 0 3) then { downer := o.downer, late := o.late, stale := o.stale, scanned := o.scanned }
  else { o with sent := [] }

/-- Device-scope registers that the dump writes beside those of partitions, outputs and dies. -/
def deviceRegs (s : State) : List Word :=
  [s.l2place, s.pstate, s.cgate, s.cgated, s.pcap, s.pmeas, s.therm] ++ s.gaze ++ s.pcsel

/-- The first failure that a grid's record in memory holds: the group and its `hinfo` (R291). -/
def firstFailure (s : State) (g : Grid) : Option (Nat × Nat × Nat) :=
  match (hwRead s g.record.part g.record.world g.record.farr 64).2 with
  | .error _ => none
  | .ok bs => if bitOf (leNat bs) 320 then some (g.id, field (leNat bs) 256 32, field (leNat bs) 288 32) else none

/-- The dump of the device as it stands (Table 18.6). -/
def dumpOf (s : State) (cause : Nat) : Dump :=
  let hide (p : Nat) (g : Grid) : Grid := if sealedPart s p then { g with record := { part := p, taskid := g.record.taskid }, table := none, ticks := [] } else g
  { cause := cause, time := s.devtime, further := 0, ck := s.ck, firsts := s.grids.filterMap (firstFailure s)
    groups := s.groups.map (dumpGroup s)
    cores := s.cores.map fun c => (c.1, if sealedCluster s (clusterOfCore c.1) then { pc := c.2.pc } else dumpCore c.2)
    clusters := s.clusters.map fun c => (c.1, if sealedCluster s c.1 then {} else c.2)
    dies := s.dies.map fun d => (d.1, dumpDie s d.2)
    partitions := s.partitions.map fun p => (p.1, dumpPart p.2)
    outputs := s.outputs.map fun o => (o.1, dumpOutput s o.2)
    grids := s.grids.map fun g => hide g.record.part g
    ops := s.ops.filter fun o => !(((groupOf s o.gk).map fun g => sealedPart s g.record.part).getD true)
    device := deviceRegs s }

/-- The fatal event, whose arguments the manual does not state. -/
def eventUnnamed8 (s : State) : State := hostEvent (useFresh s 2) 0 8 (Config.freeWord s.fresh).toNat (Config.freeWord (s.fresh + 1)).toNat

/-- A device-fatal condition: the first one stops the cores, writes the dump and signals the host; a further one is counted. -/
def raiseFatal (s : State) (cause : Nat) : State :=
  if s.fatal then { s with dump := s.dump.map fun d => { d with further := d.further + 1 } }
  else eventUnnamed8 (sendHost { s with fatal := true, dump := some (dumpOf s cause) } .fatal)

/-- A byte of the dump region: the magic number first; the rest is made of the dump as it stands, its cause, time, further count, sections
and their places, in a layout that the manual does not fix (R427; log entry 42). -/
def dumpByte (d : Dump) (off : Nat) : Byte :=
  if off < 4 then (leBytes 0x44554D50 4).getD off 0 else Config.dumpByte d off

/-- The host reads n bytes of the dump region, after a fatal error only (R228, R426). -/
def hostDumpRead (s : State) (off n : Nat) : State :=
  sendHost s (match s.dump, s.dumpRegion with
    | some d, some (_, len) => if off + n ≤ len then .data ((List.range n).map fun i => dumpByte d (off + i)) else .error
    | _, _ => .error)

/-- DEVICE_FATAL (R426). -/
def execDeviceFatal (cause : Nat) (s : State) : Res := .next (raiseFatal s cause)

/-- THERMAL_TRIP (R439): a junction at 115 °C or more sets trip and is fatal. -/
def execThermalTrip (celsius : Nat) (s : State) : Res :=
  .next (if celsius < 115 then s else raiseFatal { s with therm := BitVec.ofNat 32 (min celsius 255 + 256) } 1)

/-! ## Partitions (R417 to R423) -/

/-- PARTITION_ENABLE (R419): a write of `pctl` that sets en. -/
def execPartitionEnable (part : Nat) (val : Word) (s : State) : Res :=
  .next (if hostBlocked s || part ≥ 8 || !(val.getLsbD 0) then s else deviceWrite s .host (0x301 + 16 * part) val)

/-- PARTITION_DISABLE (R419): a write of `pctl` that clears en. -/
def execPartitionDisable (part : Nat) (val : Word) (s : State) : Res :=
  .next (if hostBlocked s || part ≥ 8 || val.getLsbD 0 then s else deviceWrite s .host (0x301 + 16 * part) val)

/-- The partition descriptor from its bytes, when it keeps its ranges (R418, Table 12.2, R273, R274, R367). -/
def parseDesc (v : Nat) : Option PartDesc :=
  let at' (b : Nat) : Nat := field v (8 * b) 64
  let d : PartDesc :=
    { taskTable := at' 0, landing := at' 8, preempt := at' 16, viewTable := at' 24, lockTable := at' 32, invPage := at' 40
      m := field v 384 8, q := field v 392 8, ts := (List.range 24).map fun g => field v (512 + 8 * g) 8 }
  let ok := field v 400 112 == 0 && field v 704 1344 == 0 && decide (10 ≤ d.m) && decide (d.m ≤ 20) && decide (8 ≤ d.q) && decide (d.q ≤ 14) &&
    d.ts.all (fun t => decide (t ≤ 64)) && d.taskTable % 4096 == 0 && d.landing % 4096 == 0 && d.preempt % 4096 == 0 &&
    d.viewTable % 256 == 0 && d.lockTable % 32768 == 0 && d.invPage % 4096 == 0
  if ok then some d else none

/-- Bytes at a PA as firmware reads them for a partition: none when one is poisoned. -/
def physRead (s : State) (part pa n : Nat) : Option (List Byte) :=
  let parts := (splitSectors pa n).map fun p => (l2Read s (l2DieOf 0 p.1) part p.1 p.2).2
  if parts.any fun p => p.2 then none else some (parts.flatMap fun p => p.1)

/-- The leaf entry that translates a VA for a partition, with its level: none when the walk meets a fault (R362). -/
def leafAt (s : State) (part va : Nat) : List Nat → Nat → Option (Nat × Nat)
  | [], _ => none
  | level :: rest, table =>
    let d := va / 2 ^ 55 % 4
    let pte := (readPte s d part (table + 8 * field va (levelShift level) 9)).2
    match checkPte d level pte with
    | .error _ => none
    | .ok false => leafAt s part va rest (ptePa pte)
    | .ok true => some (pte, level)

/-- A page of an area translates as it must in the partition's non-secure space: to normal memory that can be read and written, or to
device memory without user (R419). -/
def pageOk (s : State) (part va : Nat) (device : Bool) : Bool :=
  match (if va ≥ 2 ^ 57 || rootOf s part false = 0 then none else leafAt s part va [5, 4, 3, 2, 1] (rootOf s part false)) with
  | none => false
  | some (pte, level) =>
    let a := leafAttr pte
    let pa := leafPa (tlbEntry part 0 level true va pte) va
    paAllowed (va / 2 ^ 55 % 4) pa && !(a.s || regionSecure s pa || blockSecure s pa) &&
      (if device then a.mtype == 2 && !a.u else a.mtype == 0 && a.r && a.w)

/-- Every page of an area is as it must be. -/
def areaOk (s : State) (part va n : Nat) (device : Bool) : Bool :=
  (List.range ((va + n + 4095) / 4096 - va / 4096)).all fun k => pageOk s part (4096 * (va / 4096 + k)) device

/-- The shares of each kind of the enabled partitions, with this one, sum to at most 256 (R419). -/
def sharesOk (s : State) (p : Nat) : Bool :=
  [0, 8, 16, 24].all fun lo =>
    let on := (List.range 8).filter fun q => q == p || (partOf s q).pctl.getLsbD 0
    decide ((on.map fun q => field (partOf s q).pbw.toNat lo 8).sum ≤ 256)

/-- A cluster or an L2 way of a partition is in another enabled one (R419). -/
def unitsTaken (s : State) (p : Nat) : Bool :=
  (List.range 8).any fun q =>
    q != p && (partOf s q).pctl.getLsbD 0 &&
      ((partOf s q).pclust &&& (partOf s p).pclust != 0 || (partOf s q).pways &&& (partOf s p).pways != 0)

/-- Why an enable of a partition with a descriptor fails: the first check of R419 that does, by its place in the rule's list. -/
def enableFault (s : State) (p : Nat) (d : Option PartDesc) : Option Nat :=
  let clusters := (partClusters s p).length
  if unitsTaken s p then some 0
  else if !(sharesOk s p) then some 1
  else
    match d with
    | none => some 2
    | some d =>
      if !(s.regions.any fun r => r.part == p) then some 3
      else if areaOk s p d.taskTable (16 * 2 ^ d.m) false && areaOk s p d.landing (clusters * 4 * 2 ^ d.q * 64) false &&
          areaOk s p d.preempt (clusters * 8 * 16 * 71680) false && areaOk s p d.viewTable 2048 false &&
          areaOk s p d.lockTable 32768 false && areaOk s p d.invPage 256 true then none
      else some 4

/-- The descriptor of a partition that passes every check of R419, or the check that failed. -/
def enableCheck (s : State) (p : Nat) : Except Nat PartDesc :=
  let pa := (partOf s p).pdesc.toNat
  let desc := if pa % 4096 = 0 then (physRead s p pa 256).bind fun bs => parseDesc (leNat bs) else none
  match enableFault s p desc, desc with
  | none, some d => .ok d
  | some k, _ => .error k
  | none, none => .error 2

/-- Words that firmware measures into M0: registers, descriptor, region-table entries (R423). -/
def measuredWords (s : State) (p : Nat) (d : PartDesc) : List Word :=
  let num (n : Nat) : List Word := [half n 0, half n 1]
  (List.range 13).map (confReg (partOf s p)) ++
    [d.taskTable, d.landing, d.preempt, d.viewTable, d.lockTable, d.invPage, d.m, d.q].flatMap num ++ d.ts.flatMap num ++
    ((s.regions.filter fun r => r.part == p).flatMap fun r => num (2 * (1024 * r.die + r.gb) + r.secure.toNat)) ++
    ((s.hostRanges.filter fun r => r.part == p).flatMap fun r => num r.first ++ num r.last ++ num r.secure.toNat)

/-- n pages of zeros from a VA of a partition on. -/
def clearPages (s : State) (p va n : Nat) : State :=
  (List.range n).foldl (fun s k => (hwWrite s p false (va + 4096 * k) (List.replicate 4096 0)).1) s

/-- The task table starts with every entry free, and the hashed lock table with zeros (Tables 12.10 and 15.1). -/
def clearTables (s : State) (p : Nat) (d : PartDesc) : State :=
  clearPages (clearPages s p d.taskTable (2 ^ d.m / 256)) p d.lockTable 8

/-- Event 4 records the check that failed (R419, Table 19.5), in a code that the manual does not give. -/
def eventEnableFailed (part check : Nat) (s : State) : State :=
  hostEvent (useFresh s 1) part 4 (Config.checkCode check).toNat (Config.freeWord s.fresh).toNat

/-- SHA-256 of bytes as a 256-bit number, byte 0 lowest. -/
def digestOf (bs : List Byte) : BitVec 256 := BitVec.ofNat 256 (leNat (sha256 bs))

/-- PARTITION_ENABLE_CHECK_DONE (R419): the partition is enabled under a fresh key, under which firmware reads what the check needs, or
en stays 0, no key is drawn, and event 4 tells it. -/
def execPartitionEnableCheckDone (part : Nat) (s : State) : Res :=
  .next (if !((partOf s part).pctl.getLsbD 2) then s
    else
      let keyed := modPart s part fun q => { q with pkeyst := BitVec.ofNat 32 (2 * (q.pkeyst.toNat / 2 + 1) + 1) }
      match enableCheck keyed part with
      | .error k => eventEnableFailed part k (modPart s part fun q => { q with pctl := q.pctl &&& 2 })
      | .ok d =>
        let m0 := measureExtend 0 (digestOf (Config.measuredBytes (measuredWords keyed part d)))
        let s := modPart keyed part fun q => { q with pctl := (q.pctl &&& 2) ||| 1, desc := some d, measure := [m0, 0, 0, 0] }
        clearTables s part d)

/-- MEASUREMENT_EXTEND (R423): M1 to M3 of an enabled partition. -/
def execMeasurementExtend (part reg : Nat) (digest : BitVec 256) (s : State) : Res :=
  .next (if hostBlocked s || reg = 0 || reg > 3 || !((partOf s part).pctl.getLsbD 0) then s
    else modPart s part fun q => { q with measure := q.measure.set reg (measureExtend (q.measure.getD reg 0) digest) })

/-- SHA-256 of the firmware image that runs (R423). -/
def runningDigest (s : State) : BitVec 256 := match s.running with | some x => digestOf x.image | none => Config.firmwareDigest

/-- Bytes 0 to 215 of an attestation report (Table 18.5). -/
def reportBytes (s : State) (part : Nat) (nonce : BitVec 256) : List Byte :=
  leBytes 1 4 ++ leBytes Config.deviceSerial.toNat 16 ++ leBytes nonce.toNat 32 ++ leBytes (runningDigest s).toNat 32 ++
    leBytes part 4 ++ (partOf s part).measure.flatMap fun m => leBytes m.toNat 32

/-- ATTESTATION_REQUEST (R423). -/
def execAttestationRequest (part : Nat) (nonce : BitVec 256) (s : State) : Res :=
  .next (if hostBlocked s || part ≥ 8 then s
    else sendHost s (.report (reportBytes s part nonce ++ (List.range 17088).map (Config.attestByte (reportBytes s part nonce)))))

/-! ## Recovery points (R424, R425) -/

/-- The sectors of a partition's HBM that hold anything: every other one of its ranges is as memory that nothing has written. -/
def heldSectors (s : State) (p : Nat) : List Nat :=
  let all := (s.mem.map fun c => c.1 / 64) ++ s.sealed.map (fun e => e.1) ++ s.poison
  let mine := sortBy id (all.filter fun n => ownsPa s p (64 * n))
  mine.foldr (fun n l => if l.head? = some n then l else n :: l) []

/-- The recovery stream of a partition as it stands. -/
def streamOf (s : State) (p : Nat) : Stream :=
  { part := p, gen := keyGen s p, ranges := s.regions.filter fun r => r.part == p
    sectors := (heldSectors s p).map fun n =>
      { sector := n, poisoned := s.poison.contains n, bytes := memRead s.mem (64 * n) 64, tag := tfind s.sealed n
        size := tfind s.sizeTags (n / 8) } }

/-- A sector of a stream as the host holds it: what a partition wrote is encrypted under the key it was written with (R420, R424). -/
def encrypted (x : StreamSector) : StreamSector :=
  match x.tag with
  | none => x
  | some (p, k) => { x with bytes := (List.range 64).map (Config.cipherByte p k x.sector x.bytes) }

/-- A stream written to host memory from its address on, as far as host memory goes; its bytes have a framing that the manual does not give
(R424; log entry 42). -/
def writeStream (s : State) (x : Stream) : State :=
  let pa := x.addr.toNat
  let n := min (Config.streamLength x) (2 ^ 52 - pa)
  if isHost pa then { s with mem := memWrite s.mem pa ((List.range n).map (Config.streamByte x)) } else s

/-- RECOVERY_POINT (R424): every sector of the partition's HBM ranges is streamed to the host address, and its write log is cleared; a
partition with work is refused. -/
def execRecoveryPoint (part : Nat) (addr : DWord) (s : State) : Res :=
  .next (if hostBlocked s || part ≥ 8 then s
    else if hasWork s part then eventUnnamed s part
    else
      let s := flushPart s part
      let x := { streamOf s part with addr := addr }
      let sent := { x with sectors := x.sectors.map encrypted }
      sendHost (modPart (writeStream { s with streams := s.streams ++ [x] } sent) part fun q => { q with writeLog := [], logOverflow := false })
        (.stream sent))

/-- Every grid, group, record and waiting operation of a partition is gone. -/
def dropWork (s : State) (p : Nat) : State :=
  let gks := (s.groups.filter fun g => g.record.part == p).map fun g => g.gk
  let mine (gk : Nat) : Bool := gks.contains gk
  let core (c : Core) : Core :=
    { c with
      mqueue := c.mqueue.filter (fun m => !(mine m.gk)), mrun := c.mrun.filter (fun m => !(mine m.gk))
      help := c.help.filter fun l => !(mine l.waiter) }
  let cluster (e : Nat × Cluster) : Nat × Cluster :=
    if (partOf s p).pclust.getLsbD e.1 then (e.1, { resv := e.2.resv }) else e
  { s with
    issues := s.issues.filter fun i => !(i.members.any fun m => mine m.1)
    ops := s.ops.filter fun o => !(mine o.gk)
    groups := s.groups.filter fun g => g.record.part != p
    grids := s.grids.filter fun g => g.record.part != p
    waiters := s.waiters.filter fun w => w.part != p
    cores := s.cores.map fun c => (c.1, core c.2)
    clusters := s.clusters.map cluster
    dies := s.dies.map fun d => (d.1, { d.2 with frames := d.2.frames.filter (fun f => f.part != p), inv := tdel d.2.inv p }) }

/-- The HBM of a partition as a stream holds it. -/
def restoreStream (s : State) (x : Stream) : State :=
  let mine (n : Nat) : Bool := ownsPa s x.part (64 * n)
  let s :=
    { s with
      mem := s.mem.filter fun c => !(mine (c.1 / 64))
      sealed := s.sealed.filter fun e => !(mine e.1)
      sizeTags := s.sizeTags.filter fun e => !(mine (8 * e.1))
      poison := s.poison.filter fun n => !(mine n) }
  x.sectors.foldl
    (fun s e =>
      { s with
        mem := memWrite s.mem (64 * e.sector) e.bytes
        sealed := match e.tag with | some t => tset s.sealed e.sector t | none => s.sealed
        sizeTags := match e.size with | some n => tset s.sizeTags (e.sector / 8) n | none => s.sizeTags
        poison := if e.poisoned then s.poison ++ [e.sector] else s.poison }) s

/-- ROLLBACK (R425): a stream of the partition's current key generation is written back, the partition's caches, decks and landings
are discarded, and the write log is returned. -/
def execRollback (part stream : Nat) (s : State) : Res :=
  .next (if hostBlocked s then s
    else
      match s.streams[stream]? with
      | none => eventUnnamed s part
      | some x =>
        if x.part != part || x.gen != keyGen s part then eventUnnamed s part
        else
          let p := partOf s part
          sendHost (restoreStream (discardCaches (dropWork s part) part) x) (.writeLog p.writeLog p.logOverflow))

/-! ## Cold reset (R440) -/

/-- The boot ROM accepts an image: its key has the fused hash, its signature verifies, its version has not been rolled back (R422). -/
def imageVerifies (x : BootImage) : Bool :=
  digestOf x.key == Config.fusedHash && Config.slhVerifies x.key x.image x.signature && decide (Config.fusedVersion ≤ x.version)

/-- COLD_RESET (R422, R428, R440): every register takes its reset value, and firmware runs if the image in the boot window verifies;
else the device offers its boot status and nothing more. Verified firmware publishes the capability word with it. A module that fails
training is down. HBM is not scrubbed, but what partitions wrote is under keys that are gone; host
memory, the boot window, the host's streams and what it has received stay, and so do the inputs to come. -/
def execColdReset (s : State) : Res :=
  let image := s.bootWindow.filter imageVerifies
  let t :=
    { State.reset with
      agenda := s.agenda, fresh := s.fresh, names := s.names, mem := s.mem, poison := s.poison, sizeTags := s.sizeTags
      sealed := s.sealed.map fun e => (e.1, (8, 0))
      bootWindow := s.bootWindow, running := image, booted := image.isSome
      untrained := s.untrained, modulesDown := s.untrained
      hostOut := s.hostOut ++ [.bootStatus image.isSome s.untrained], streams := s.streams }
  .next (if image.isSome then sendHost t (.capability deviceCap) else t)

end Sys2Proof.Machine
end

