-- ==== Sys2Proof/Machine/Preempt.lean ====
section
/-! DEFINITION. Pre-emption on a reserved core and resumption: the drain of matrix commands, the pre-emption record
(spec/02_execution_model.md R52, R53, spec/04_registers.md R93, R110, spec/07_matrix_registers.md R187,
spec/12_task_queues.md R293, R299, R300). -/
namespace Sys2Proof.Machine

/-! ## The record (R293) -/

/-- A bit of a thread's entry as a number at its place. -/
def flagAt (lo : Nat) (b : Bool) : Nat := 2 ^ lo * b.toNat

/-- The 32 bytes of a thread. -/
def threadEntry (t : Thread) : Nat :=
  let parked := match t.status with | .parked _ => true | .waitHandler _ _ _ => true | _ => false
  threadBlock t + 2 ^ 64 * t.pc.toNat + packFields 6 128 t.w + flagAt 164 parked + flagAt 165 (t.status == .held)
  + flagAt 166 (t.status == .atBar) + flagAt 167 (t.status == .exited) + flagAt 168 t.inKernel + flagAt 169 t.inSup

/-- Entry k of a pattern slot: identity until `xbld` (R99). -/
def patternEntry (g : Group) (slot k : Nat) : Nat :=
  match g.patterns.getD slot [] with
  | [] => k % 32
  | p => (p.getD k 0).toNat

/-- The instruction words of saved matrix commands. -/
def savedWords (ms : List MCmd) : List Nat := ms.flatMap fun m => (encode m.instr).map fun w => w.toNat

/-- The header of a pre-emption record. -/
def preemptHeader (g : Group) : Nat :=
  phaseHeader g 0 g.regCount 0 + packFields 8 4096 g.barriers + 2 ^ 4128 * (g.saved.length % 256) + packFields 32 4160 (savedWords g.saved)
  + packFields 5 5184 ((List.range 8).flatMap fun s => (List.range 128).map (patternEntry g s))

/-- The entry of thread t: of a thread that has exited, that alone. -/
def entryBytes (g : Group) (t : Nat) : List Byte :=
  leBytes (match threadOf g t with | some x => if isLive x then threadEntry x else flagAt 167 true | none => 0) 32

/-- The bytes of a pre-emption record. -/
def preemptRecord (g : Group) : List Byte :=
  leBytes (preemptHeader g) 2048
  ++ (List.range 128).flatMap (entryBytes g)
  ++ (List.range g.regCount).flatMap fun k => (List.range 128).flatMap (lanesOf g (fun t => (regOf t k).toNat) 4)

/-! ## Eviction (R52, R187, R300) -/

/-- The running command of a core gives way to a group that is being pre-empted: a recompression, whichever group's, is abandoned and
stays first in the queue, any other command completes (R187). -/
def clearEngine (s : State) (g : Group) : State :=
  match (coreOf s g.core).mrun with
  | none => s
  | some m =>
    if m.hold then modCore s g.core fun c => { c with mrun := none, mqueue := m :: c.mqueue }
    else completeCommand s g.core

/-- Serve a group's queued commands in issue order until none is left or the next one is a recompression. -/
def drainCommands (gk core : Nat) : Nat → State → State
  | 0, s => s
  | n + 1, s =>
    match (coreOf s core).mqueue.find? fun m => m.gk == gk with
    | none => s
    | some m => if m.hold then s else drainCommands gk core n (completeCommand (startCommand s core (coreOf s core).mrr m) core)

/-- The commands of a group that were not drained leave the queue and are kept. -/
def saveCommands (s : State) (g : Group) : State :=
  let left := (coreOf s g.core).mqueue.filter fun m => m.gk == g.gk
  let s := modCore s g.core fun c => { c with mqueue := c.mqueue.filter fun m => m.gk != g.gk }
  modGroup s g.gk fun g => { g with saved := left }

/-- A thread while its group is pre-empted: its registers are in the record. -/
def evictThread (t : Thread) : Thread := { t with regs := [], clause := none, l0 := 0, l1 := 0 }

/-- A group is pre-empted: drain, outstanding accesses, record with its release, lane registers (R52, R93). The pre-emption area lies in
the non-secure space, whatever the group's world (R418). A record that cannot be written fails the group (R465). -/
def evictGroup (s : State) (gk : Nat) : State :=
  match groupOf s gk with
  | none => s
  | some g =>
    let s := if needsHeaders g.record then saveCommands (drainCommands gk g.core 17 (clearEngine s g)) g else s
    let s := releaseGroup s gk
    match groupOf s gk with
    | none => s
    | some g =>
      match hwWrite s g.record.part false (preemptVa s g) (preemptRecord g) with
      | (s, some f) => failRecord s gk f
      | (s, none) =>
        let s := countEvent s g.core 10 1
        modGroup s gk fun g => { g with run := .preempted, threads := g.threads.map evictThread, patterns := [] }

/-- Groups of a core that class 0 may pre-empt, youngest admission first: a thread in the handler of a memory-type fault keeps
its group (R273, R300). -/
def evictable (s : State) (core : Nat) : List Group :=
  (sortBy (fun g => g.admitted) ((residents s core).filter fun g => runClass g != 0 && !(g.threads.any fun t => t.emulK.isSome || t.emulS.isSome))).reverse

/-- The fewest of them, youngest first, whose lanes make a class-0 record fit. -/
def victimsFor (s : State) (core : Nat) (e : DeckEntry) : Option (List Group) :=
  let vs := evictable s core
  (List.range vs.length).findSome? fun n =>
    let out := vs.take (n + 1)
    let stay := (residents s core).filter fun g => !(out.any fun v => v.gk == g.gk)
    if (roomAmong s core 0 stay e.record (parkedOf s e)).isSome then some out else none

/-- PREEMPTION (R52, R300): a class-0 record waits for a reserved core that lower-class groups fill, and each of them has reached
its clause boundaries. -/
def execPreemption (core : Nat) (s : State) : Res :=
  .next (match ownPick s core with
    | some (0, e) =>
      if !(isReserved s core) || (roomFor s core 0 e.record (parkedOf s e)).isSome then s
      else
        match victimsFor s core e with
        | some vs =>
          if vs.any fun g => g.threads.any fun t => t.status == .issuing then s else vs.foldl (fun s g => evictGroup s g.gk) s
        | none => s
    | _ => s)

/-! ## Resumption (R53, R93, R110) -/

/-- A group that holds nothing on its core may resume elsewhere. -/
def tied (g : Group) : Bool := holdsPinned g || g.hdrBase.isSome || g.record.det

/-- Class-0 work of a core needs the room of a pre-empted group that would take a seat there: its record would fit without lower-class
groups and not beside this one; a record that waits for scratchpad, slots or tiles needs no lanes (R53, R300). -/
def class0Needs (s : State) (g : Group) (core : Nat) (seat : Seat) : Bool :=
  match ownPick s core with
  | some (0, e) =>
    let rs := residents s core
    let stay := rs.filter fun x => !((evictable s core).any fun v => v.gk == x.gk)
    let back := { g with core := core, ctx := seat.ctx, laneBase := seat.lane, subBase := seat.sub }
    (roomAmong s core 0 stay e.record (parkedOf s e)).isSome && (roomAmong s core 0 (rs ++ [back]) e.record (parkedOf s e)).isNone
  | _ => false

/-- A core may take a pre-empted group: the group's seat is free, class-0 work does not need the room, a reserved core runs no other
lower-class matrix group (R299), and the matrix queue takes its saved commands (R281). -/
def resumeSeat (s : State) (g : Group) (core : Nat) : Option Seat :=
  let mine := clusterOfCore core
  let other := isReserved s core && isMatrixGroup g && (residents s core).any fun x => isMatrixGroup x
  let full := !g.saved.isEmpty && decide (g.saved.length > matrixRoom (coreOf s core))
  if other || full || gated s mine || secureCluster s mine != g.record.world || ownerOf s mine != some g.record.part then none
  else
    let others := { s with groups := s.groups.filter fun x => x.gk != g.gk }
    (seatFor others core (runClass g) (residents others core) g.record).filter fun seat => !(class0Needs s g core seat)

/-- The core a pre-empted group resumes on: its own, else the lowest that takes it. -/
def resumeCore (s : State) (g : Group) : Option (Nat × Seat) :=
  let all := if tied g then [g.core] else g.core :: (partClusters s g.record.part).flatMap clusterCores
  all.findSome? fun c => (resumeSeat s g c).map fun x => (c, x)

/-- A thread as its entry and lanes in the record give it back (R293, R68). -/
def resumedThread (bs : List Byte) (n : Nat) (t : Thread) : Thread :=
  let v := leNat ((bs.drop (2048 + 32 * t.idx)).take 32)
  let t := loadBlock t v
  { t with
    regs := (List.range n).map fun k => BitVec.ofNat 32 (leNat ((bs.drop (6144 + 512 * k + 4 * t.idx)).take 4))
    pc := BitVec.ofNat 64 (field v 64 64)
    hdr := if t.pc.toNat = field v 64 64 then t.hdr else BitVec.ofNat 64 (field v 64 64)
    w := (List.range 6).map fun k => field v (128 + 6 * k) 6
    inKernel := bitOf v 168
    inSup := bitOf v 169
    clause := none
    -- a thread that was held comes to its clause again
    status := if t.status = .held then .ready else t.status }

/-- A pre-empted group resumes on a core from its record. Barrier counts are restored on another core too: Table 4.7 shows them zero
there, R93 and R100 have the record hold those partly arrived (DESIGN CHOICE, log entry 26). -/
def resumeGroup (s : State) (g : Group) (core : Nat) (seat : Seat) : State :=
  let s := acquireCore s core
  match hwRead s g.record.part false (preemptVa s g) (6144 + 512 * g.regCount) with
  | (s, .error f) => failRecord s g.gk f
  | (s, .ok bs) =>
    let hdr := leNat (bs.take 2048)
    let own := (enumFrom 0 ((loadSegs hdr).zip (kdescSegs g.kd))).map fun e => if bitOf hdr (208 + e.1) then e.2.1 else e.2.2
    let low := if core = g.core then g.segs.take 5 else (startSegs s core g.record g.kd g.frame g.spBase own).take 5
    let s := modCore s core fun c => { c with mqueue := c.mqueue ++ g.saved }
    modGroup s g.gk fun g =>
      { g with
        run := .resident, core := core, ctx := seat.ctx, laneBase := seat.lane, subBase := seat.sub, saved := []
        affine := loadAffine hdr, segs := low ++ own, segset := BitVec.ofNat 3 (field hdr 208 3), ctl := loadCtl g.ctl hdr
        barriers := (List.range 4).map fun b => field hdr (4096 + 8 * b) 8
        patterns := (List.range 8).map fun p => (List.range 128).map fun k => BitVec.ofNat 5 (field hdr (5184 + 640 * p + 5 * k) 5)
        threads := g.threads.map fun t => if isLive t then resumedThread bs g.regCount t else t }

/-- PREEMPTION_RESUME (R53). -/
def execPreemptionResume (gk : Nat) (s : State) : Res :=
  .next (match groupOf s gk with
    | none => s
    | some g =>
      if g.run != .preempted then s
      else
        match resumeCore s g with
        | some (core, seat) => resumeGroup s g core seat
        | none => s)

end Sys2Proof.Machine
end

