-- ==== Sys2Proof/Machine/Dispatch.lean ====
section
/-! DEFINITION. One arm for each constructor of Instr: the meaning of every row of spec/opcode_table.json. -/
namespace Sys2Proof.Machine

def exec (i : Instr) (s : State) : Host.Outcome State Fault Refusal :=
  match i with
  | .nop => Sys2Proof.Machine.execNop s
  | .iadd o => Sys2Proof.Machine.execIadd o s
  | .isub o => Sys2Proof.Machine.execIsub o s
  | .imul o => Sys2Proof.Machine.execImul o s
  | .imulh o => Sys2Proof.Machine.execImulh o s
  | .imulhu o => Sys2Proof.Machine.execImulhu o s
  | .imin o => Sys2Proof.Machine.execImin o s
  | .iminu o => Sys2Proof.Machine.execIminu o s
  | .imax o => Sys2Proof.Machine.execImax o s
  | .imaxu o => Sys2Proof.Machine.execImaxu o s
  | .iabs o => Sys2Proof.Machine.execIabs o s
  | .and o => Sys2Proof.Machine.execAnd o s
  | .or o => Sys2Proof.Machine.execOr o s
  | .xor o => Sys2Proof.Machine.execXor o s
  | .shl o => Sys2Proof.Machine.execShl o s
  | .shr o => Sys2Proof.Machine.execShr o s
  | .sar o => Sys2Proof.Machine.execSar o s
  | .rotl o => Sys2Proof.Machine.execRotl o s
  | .popc o => Sys2Proof.Machine.execPopc o s
  | .clz o => Sys2Proof.Machine.execClz o s
  | .brev o => Sys2Proof.Machine.execBrev o s
  | .iadds o => Sys2Proof.Machine.execIadds o s
  | .isubs o => Sys2Proof.Machine.execIsubs o s
  | .iadd64 o => Sys2Proof.Machine.execIadd64 o s
  | .isub64 o => Sys2Proof.Machine.execIsub64 o s
  | .mov o => Sys2Proof.Machine.execMov o s
  | .mov64 o => Sys2Proof.Machine.execMov64 o s
  | .icmp o => Sys2Proof.Machine.execIcmp o s
  | .icmp64 o => Sys2Proof.Machine.execIcmp64 o s
  | .fcmp o => Sys2Proof.Machine.execFcmp o s
  | .dcmp o => Sys2Proof.Machine.execDcmp o s
  | .pand o => Sys2Proof.Machine.execPand o s
  | .por o => Sys2Proof.Machine.execPor o s
  | .pxor o => Sys2Proof.Machine.execPxor o s
  | .pandn o => Sys2Proof.Machine.execPandn o s
  | .pget o => Sys2Proof.Machine.execPget o s
  | .pset o => Sys2Proof.Machine.execPset o s
  | .fadd o => Sys2Proof.Machine.execFadd o s
  | .fsub o => Sys2Proof.Machine.execFsub o s
  | .fmul o => Sys2Proof.Machine.execFmul o s
  | .fmin o => Sys2Proof.Machine.execFmin o s
  | .fmax o => Sys2Proof.Machine.execFmax o s
  | .fabs o => Sys2Proof.Machine.execFabs o s
  | .fneg o => Sys2Proof.Machine.execFneg o s
  | .fsat o => Sys2Proof.Machine.execFsat o s
  | .dadd o => Sys2Proof.Machine.execDadd o s
  | .dsub o => Sys2Proof.Machine.execDsub o s
  | .dmul o => Sys2Proof.Machine.execDmul o s
  | .dmin o => Sys2Proof.Machine.execDmin o s
  | .dmax o => Sys2Proof.Machine.execDmax o s
  | .dabs o => Sys2Proof.Machine.execDabs o s
  | .dneg o => Sys2Proof.Machine.execDneg o s
  | .hadd2 o => Sys2Proof.Machine.execHadd2 o s
  | .hmul2 o => Sys2Proof.Machine.execHmul2 o s
  | .hmin2 o => Sys2Proof.Machine.execHmin2 o s
  | .hmax2 o => Sys2Proof.Machine.execHmax2 o s
  | .badd2 o => Sys2Proof.Machine.execBadd2 o s
  | .bmul2 o => Sys2Proof.Machine.execBmul2 o s
  | .bmin2 o => Sys2Proof.Machine.execBmin2 o s
  | .bmax2 o => Sys2Proof.Machine.execBmax2 o s
  | .frcp o => Sys2Proof.Machine.execFrcp o s
  | .frsq o => Sys2Proof.Machine.execFrsq o s
  | .fsqrt o => Sys2Proof.Machine.execFsqrt o s
  | .fexp2 o => Sys2Proof.Machine.execFexp2 o s
  | .flog2 o => Sys2Proof.Machine.execFlog2 o s
  | .fsin o => Sys2Proof.Machine.execFsin o s
  | .fcos o => Sys2Proof.Machine.execFcos o s
  | .ftanh o => Sys2Proof.Machine.execFtanh o s
  | .aadd o => Sys2Proof.Machine.execAadd o s
  | .asub o => Sys2Proof.Machine.execAsub o s
  | .amov o => Sys2Proof.Machine.execAmov o s
  | .aset o => Sys2Proof.Machine.execAset o s
  | .ashl o => Sys2Proof.Machine.execAshl o s
  | .amul o => Sys2Proof.Machine.execAmul o s
  | .shfl o => Sys2Proof.Machine.execShfl o s
  | .xbar o => Sys2Proof.Machine.execXbar o s
  | .vany o => Sys2Proof.Machine.execVany o s
  | .vall o => Sys2Proof.Machine.execVall o s
  | .ballot o => Sys2Proof.Machine.execBallot o s
  | .br o => Sys2Proof.Machine.execBr o s
  | .call o => Sys2Proof.Machine.execCall o s
  | .ret g => Sys2Proof.Machine.execRet g s
  | .jmpr o => Sys2Proof.Machine.execJmpr o s
  | .exit g => Sys2Proof.Machine.execExit g s
  | .brk o => Sys2Proof.Machine.execBrk o s
  | .trap o => Sys2Proof.Machine.execTrap o s
  | .yield g => Sys2Proof.Machine.execYield g s
  | .xwin o => Sys2Proof.Machine.execXwin o s
  | .xset o => Sys2Proof.Machine.execXset o s
  | .xput o => Sys2Proof.Machine.execXput o s
  | .bar b => Sys2Proof.Machine.execBar b s
  | .clkr o => Sys2Proof.Machine.execClkr o s
  | .ffus o => Sys2Proof.Machine.execFfus o s
  | .dfus o => Sys2Proof.Machine.execDfus o s
  | .hfus2 o => Sys2Proof.Machine.execHfus2 o s
  | .bfus2 o => Sys2Proof.Machine.execBfus2 o s
  | .imad o => Sys2Proof.Machine.execImad o s
  | .sel o => Sys2Proof.Machine.execSel o s
  | .bfx o => Sys2Proof.Machine.execBfx o s
  | .bfi o => Sys2Proof.Machine.execBfi o s
  | .cvt o => Sys2Proof.Machine.execCvt o s
  | .movi o => Sys2Proof.Machine.execMovi o s
  | .iaddi o => Sys2Proof.Machine.execIaddi o s
  | .amovi o => Sys2Proof.Machine.execAmovi o s
  | .aaddi o => Sys2Proof.Machine.execAaddi o s
  | .amuli o => Sys2Proof.Machine.execAmuli o s
  | .rnd o => Sys2Proof.Machine.execRnd o s
  | .ld o => Sys2Proof.Machine.execLd o s
  | .st o => Sys2Proof.Machine.execSt o s
  | .pref o => Sys2Proof.Machine.execPref o s
  | .atom o => Sys2Proof.Machine.execAtom o s
  | .red o => Sys2Proof.Machine.execRed o s
  | .swinit o => Sys2Proof.Machine.execSwinit o s
  | .swadd o => Sys2Proof.Machine.execSwadd o s
  | .swwait o => Sys2Proof.Machine.execSwwait o s
  | .loadArrival op => Sys2Proof.Machine.execLoadArrival op s
  | .storeCompletion op => Sys2Proof.Machine.execStoreCompletion op s
  | .atomicCompletion op => Sys2Proof.Machine.execAtomicCompletion op s
  | .syncWordPieceArrival op piece => Sys2Proof.Machine.execSyncWordPieceArrival op piece s
  | .engCopy o => Sys2Proof.Machine.execEngCopy o s
  | .engCopy2d o => Sys2Proof.Machine.execEngCopy2d o s
  | .engGather o => Sys2Proof.Machine.execEngGather o s
  | .engScatter o => Sys2Proof.Machine.execEngScatter o s
  | .engFill o => Sys2Proof.Machine.execEngFill o s
  | .engAllred o => Sys2Proof.Machine.execEngAllred o s
  | .engBcast o => Sys2Proof.Machine.execEngBcast o s
  | .engRtrace o => Sys2Proof.Machine.execEngRtrace o s
  | .engRany o => Sys2Proof.Machine.execEngRany o s
  | .engRlaunch o => Sys2Proof.Machine.execEngRlaunch o s
  | .engBquery o => Sys2Proof.Machine.execEngBquery o s
  | .engBrefit o => Sys2Proof.Machine.execEngBrefit o s
  | .engineOperationCompletion op => Sys2Proof.Machine.execEngineOperationCompletion op s
  | .mclaim o => Sys2Proof.Machine.execMclaim o s
  | .mrel o => Sys2Proof.Machine.execMrel o s
  | .mld o => Sys2Proof.Machine.execMld o s
  | .mst o => Sys2Proof.Machine.execMst o s
  | .mzero o => Sys2Proof.Machine.execMzero o s
  | .mhdrFmt o => Sys2Proof.Machine.execMhdrFmt o s
  | .mhdrKey o => Sys2Proof.Machine.execMhdrKey o s
  | .mhdrWc o => Sys2Proof.Machine.execMhdrWc o s
  | .mhdrSofs o => Sys2Proof.Machine.execMhdrSofs o s
  | .mhdrSt o => Sys2Proof.Machine.execMhdrSt o s
  | .mmul o => Sys2Proof.Machine.execMmul o s
  | .madd o => Sys2Proof.Machine.execMadd o s
  | .msub o => Sys2Proof.Machine.execMsub o s
  | .mscale o => Sys2Proof.Machine.execMscale o s
  | .mtrn o => Sys2Proof.Machine.execMtrn o s
  | .mrecomp o => Sys2Proof.Machine.execMrecomp o s
  | .mdense o => Sys2Proof.Machine.execMdense o s
  | .mrank o => Sys2Proof.Machine.execMrank o s
  | .mnorm o => Sys2Proof.Machine.execMnorm o s
  | .mma o => Sys2Proof.Machine.execMma o s
  | .zld o => Sys2Proof.Machine.execZld o s
  | .zst o => Sys2Proof.Machine.execZst o s
  | .zcvt o => Sys2Proof.Machine.execZcvt o s
  | .zzero o => Sys2Proof.Machine.execZzero o s
  | .matrixCommandStart core => Sys2Proof.Machine.execMatrixCommandStart core s
  | .matrixCommandCompletion core => Sys2Proof.Machine.execMatrixCommandCompletion core s
  | .spawn o => Sys2Proof.Machine.execSpawn o s
  | .await o => Sys2Proof.Machine.execAwait o s
  | .phase o => Sys2Proof.Machine.execPhase o s
  | .fnew o => Sys2Proof.Machine.execFnew o s
  | .fput o => Sys2Proof.Machine.execFput o s
  | .fget o => Sys2Proof.Machine.execFget o s
  | .adoptedPhaseEnd core => Sys2Proof.Machine.execAdoptedPhaseEnd core s
  | .lacq o => Sys2Proof.Machine.execLacq o s
  | .lrel o => Sys2Proof.Machine.execLrel o s
  | .qput o => Sys2Proof.Machine.execQput o s
  | .qget o => Sys2Proof.Machine.execQget o s
  | .dcdec o => Sys2Proof.Machine.execDcdec o s
  | .tktake o => Sys2Proof.Machine.execTktake o s
  | .tkwait o => Sys2Proof.Machine.execTkwait o s
  | .tself o => Sys2Proof.Machine.execTself o s
  | .ticketAutomaticTake gk slot => Sys2Proof.Machine.execTicketAutomaticTake gk slot s
  | .deterministicCommit grid => Sys2Proof.Machine.execDeterministicCommit grid s
  | .temit o => Sys2Proof.Machine.execTemit o s
  | .mvtx o => Sys2Proof.Machine.execMvtx o s
  | .mprim o => Sys2Proof.Machine.execMprim o s
  | .mend o => Sys2Proof.Machine.execMend o s
  | .meshletBinning op => Sys2Proof.Machine.execMeshletBinning op s
  | .sinfo o => Sys2Proof.Machine.execSinfo o s
  | .tcomb o => Sys2Proof.Machine.execTcomb o s
  | .tdone o => Sys2Proof.Machine.execTdone o s
  | .ctlr o => Sys2Proof.Machine.execCtlr o s
  | .ctlw o => Sys2Proof.Machine.execCtlw o s
  | .segw o => Sys2Proof.Machine.execSegw o s
  | .xbld o => Sys2Proof.Machine.execXbld o s
  | .perfr o => Sys2Proof.Machine.execPerfr o s
  | .sret o => Sys2Proof.Machine.execSret o s
  | .clauseFetch core sub => Sys2Proof.Machine.execClauseFetch core sub s
  | .clauseIssue core sub => Sys2Proof.Machine.execClauseIssue core sub s
  | .reconvergence gk => Sys2Proof.Machine.execReconvergence gk s
  | .hostFaultRecord part => Sys2Proof.Machine.execHostFaultRecord part s
  | .replay part seq => Sys2Proof.Machine.execReplay part seq s
  | .kill part seq => Sys2Proof.Machine.execKill part seq s
  | .groupDispatch core => Sys2Proof.Machine.execGroupDispatch core s
  | .steal core => Sys2Proof.Machine.execSteal core s
  | .groupRetirement gk => Sys2Proof.Machine.execGroupRetirement gk s
  | .preemption core => Sys2Proof.Machine.execPreemption core s
  | .preemptionResume gk => Sys2Proof.Machine.execPreemptionResume gk s
  | .hostEnqueue part offset words => Sys2Proof.Machine.execHostEnqueue part offset words s
  | .skidderRefill cluster cls => Sys2Proof.Machine.execSkidderRefill cluster cls s
  | .hostMemoryRead part va len => Sys2Proof.Machine.execHostMemoryRead part va len s
  | .hostMemoryWrite part va data => Sys2Proof.Machine.execHostMemoryWrite part va data s
  | .hostRegisterWrite offset data => Sys2Proof.Machine.execHostRegisterWrite offset data s
  | .gazeWrite view val => Sys2Proof.Machine.execGazeWrite view val s
  | .capabilityExchange word => Sys2Proof.Machine.execCapabilityExchange word s
  | .invalidateWindowPiece part die writer piece data => Sys2Proof.Machine.execInvalidateWindowPiece part die writer piece data s
  | .invalidateRange die part => Sys2Proof.Machine.execInvalidateRange die part s
  | .invalidateAsid die part => Sys2Proof.Machine.execInvalidateAsid die part s
  | .invalidatePartition die part => Sys2Proof.Machine.execInvalidatePartition die part s
  | .l2placeWrite val => Sys2Proof.Machine.execL2placeWrite val s
  | .l2placeDrainDone => Sys2Proof.Machine.execL2placeDrainDone s
  | .l2LineMigration line slice => Sys2Proof.Machine.execL2LineMigration line slice s
  | .flumeWriteback core => Sys2Proof.Machine.execFlumeWriteback core s
  | .pstateWrite val => Sys2Proof.Machine.execPstateWrite val s
  | .pstateChangeDone => Sys2Proof.Machine.execPstateChangeDone s
  | .cgateWrite val => Sys2Proof.Machine.execCgateWrite val s
  | .clusterGated cluster => Sys2Proof.Machine.execClusterGated cluster s
  | .partitionEnable part val => Sys2Proof.Machine.execPartitionEnable part val s
  | .partitionEnableCheckDone part => Sys2Proof.Machine.execPartitionEnableCheckDone part s
  | .partitionDisable part val => Sys2Proof.Machine.execPartitionDisable part val s
  | .pcselWrite n val => Sys2Proof.Machine.execPcselWrite n val s
  | .displayEnable out val => Sys2Proof.Machine.execDisplayEnable out val s
  | .linkTrainingDone out ok => Sys2Proof.Machine.execLinkTrainingDone out ok s
  | .recoveryPoint part dest => Sys2Proof.Machine.execRecoveryPoint part dest s
  | .rollback part stream => Sys2Proof.Machine.execRollback part stream s
  | .attestationRequest part nonce => Sys2Proof.Machine.execAttestationRequest part nonce s
  | .measurementExtend part reg digest => Sys2Proof.Machine.execMeasurementExtend part reg digest s
  | .coldReset => Sys2Proof.Machine.execColdReset s
  | .thermalTrip celsius => Sys2Proof.Machine.execThermalTrip celsius s
  | .powerAboveCap watts => Sys2Proof.Machine.execPowerAboveCap watts s
  | .deviceFatal cause => Sys2Proof.Machine.execDeviceFatal cause s
  | .stripStart die part => Sys2Proof.Machine.execStripStart die part s
  | .tileReconstructionEnqueue die part tile => Sys2Proof.Machine.execTileReconstructionEnqueue die part tile s
  | .stripDeadline out => Sys2Proof.Machine.execStripDeadline out s
  | .frameScanoutStart out => Sys2Proof.Machine.execFrameScanoutStart out s
  | .scanoutLine out => Sys2Proof.Machine.execScanoutLine out s
  | .tcombCompletion op => Sys2Proof.Machine.execTcombCompletion op s
  | .tdoneCompletion op => Sys2Proof.Machine.execTdoneCompletion op s

end Sys2Proof.Machine
end

