-- ==== Sys2Proof/Machine/Agenda.lean ====
section
/-! DEFINITION. What happens next: the actions of the outside world and the choices of timing that the manual leaves open, the
order in which the model takes the device's own events, and the next instruction of an issue group
(spec/02_execution_model.md R32 to R35, spec/04 R71, spec/11 R262). -/
namespace Sys2Proof.Machine

/-! ## Issue groups in progress -/

/-- The k-th issue group in progress comes first. -/
def bringFront (s : State) (k : Nat) : State :=
  match s.issues[k]? with
  | some i => { s with issues := i :: (s.issues.take k ++ s.issues.drop (k + 1)) }
  | none => s

/-- A thread of the head issue group waits for an operation of wait field 7 (R71). -/
def waitsPrivate (s : State) (m : Nat × Nat) : Bool := match memberOf s m with | some (_, t) => t.pw != 0 | none => false

/-- A thread of the head issue group waits for an invalidate command to enter a full queue (R367). -/
def waitsWindow (s : State) (m : Nat × Nat) : Bool := s.ops.any fun o => o.gk == m.1 && o.threads == [m.2] && windowFull s o

/-- A deferred fault of the private counter is taken before the thread's next instruction (R71, R262). -/
def takePrivate (s : State) : Option State :=
  let late := deferredAmong s (headMembers s) fun k => k == 7
  if late.isEmpty then none
  else
    let site := headSite s
    some (takeFaults (clearDeferred s late fun k => k == 7) site late)

/-- The instruction words that the head issue group comes to. -/
def headWords (s : State) : List Word :=
  match s.issues with
  | [] => []
  | i :: _ => i.words.drop i.off

/-- The next instruction of the head issue group, which waits while one of its threads stalls: it keeps its threads for the whole
clause (R32, R71). -/
def runHead (s : State) : Res :=
  if (headMembers s).any (waitsPrivate s) || (headMembers s).any (waitsWindow s) then .next s
  else
    match takePrivate s with
    | some s => .next s
    | none =>
      match decodeWords (headWords s) with
      | .ok (i, _) => exec i s
      | .error _ => .fault .corruptIssue

/-- The k-th issue group runs its next instruction: none when it stalls, so that nothing of it moved, and after a device-fatal
error, which stops every core (R426). -/
def runIssue (s : State) (k : Nat) : Option Res :=
  if s.fatal then none
  else
    let s := bringFront s k
    match runHead s with
    | .next t => if t.issues = s.issues then none else some (.next t)
    | r => some r

/-- The issue groups from the k-th on, n of them, are tried in turn. -/
def runAny (s : State) : Nat → Nat → Option Res
  | 0, _ => none
  | n + 1, k => (runIssue s k).orElse fun _ => runAny s n (k + 1)

/-! ## Events of the device -/

/-- The event that completes an operation. -/
def completionOf (o : Op) : Option Instr :=
  match o.kind with
  | .load .. => some (.loadArrival o.id)
  | .reply .. => some (.loadArrival o.id)
  | .store .. => some (.storeCompletion o.id)
  | .swInit .. => some (.storeCompletion o.id)
  | .swAdd .. => some (.syncWordPieceArrival o.id 0)
  | .swWait .. => none
  | .atomic .. => some (.atomicCompletion o.id)
  | .eng .. => some (.engineOperationCompletion o.id)
  | .binning .. => some (.meshletBinning o.id)
  | .tcomb .. => some (.tcombCompletion o.id)
  | .tdone .. => some (.tdoneCompletion o.id)

/-- The event of the opcode table that a timed event of the display is. -/
def timedInstr : Timed → Instr
  | .start die part => .stripStart die part
  | .close out => .stripDeadline out
  | .scan out => .frameScanoutStart out
  | .row out => .scanoutLine out

/-- Events of the front end and the display serialisers that are due, in the order of their times. -/
def displayEvents (s : State) : List Instr := (dueTimed s).map fun e => timedInstr e.2

/-- Events of the matrix engines and of adopted phases. -/
def coreEvents (s : State) : List Instr :=
  s.cores.flatMap fun c =>
    let queued := !(c.2.mqueue.isEmpty) || s.groups.any (keepsCommands c.1)
    (if c.2.mrun.isSome then [.matrixCommandCompletion c.1] else []) ++ (if queued then [.matrixCommandStart c.1] else []) ++
    (if c.2.help.isEmpty then [] else [.adoptedPhaseEnd c.1])

/-- Retirements, resumptions, and what a deterministic grid does between its steps. -/
def groupEvents (s : State) : List Instr :=
  ((s.groups.filter fun g => g.record.det).flatMap fun g =>
    (List.range (((gridOf s g.grid).map fun x => x.ticks.length).getD 0)).map fun k => .ticketAutomaticTake g.gk k)
  ++ (s.grids.filter fun g => g.record.det).map (fun g => .deterministicCommit g.id)
  ++ (s.groups.filter fun g => g.run == .exited).map (fun g => .groupRetirement g.gk)
  ++ (s.groups.filter fun g => g.run == .preempted).map (fun g => .preemptionResume g.gk)

/-- Firmware, fault queues, power, invalidate queues. -/
def deviceEvents (s : State) : List Instr :=
  (s.partitions.flatMap fun p =>
    (if p.2.pctl.getLsbD 2 then [.partitionEnableCheckDone p.1] else []) ++
    (if p.2.parked.any fun r => r.seq.isNone then [.hostFaultRecord p.1] else []))
  ++ (if s.capNext.any fun t => decide (t ≤ s.devtime) then [.powerAboveCap s.pmeas.toNat] else [])
  ++ (if s.pstate.getLsbD 2 then [.pstateChangeDone] else []) ++ (if s.l2place.getLsbD 8 then [.l2placeDrainDone] else [])
  ++ ((List.range Config.clusters).filter fun g => s.cgate.getLsbD g && !(s.cgated.getLsbD g)).map (fun g => .clusterGated g)
  ++ (s.dies.flatMap fun d => d.2.inv.flatMap fun q =>
    match q.2 with
    | [] => []
    | c :: _ => [if c.op = 0 then .invalidateRange d.1 q.1 else if c.op = 1 then .invalidateAsid d.1 q.1 else .invalidatePartition d.1 q.1])

/-- Tiles of the open frames. -/
def frameEvents (s : State) : List Instr :=
  s.dies.flatMap fun d => d.2.frames.flatMap fun f =>
    (f.tiles.filter (reconDue f)).map fun t => .tileReconstructionEnqueue d.1 f.part t.q

/-- Cores of the enabled partitions. -/
def enabledCores (s : State) : List Nat :=
  (s.partitions.filter fun p => p.2.pctl.getLsbD 0).flatMap fun p => (partClusters s p.1).flatMap clusterCores

/-- Refills, and while any deck holds a record, dispatch, pre-emption and steals. -/
def queueEvents (s : State) : List Instr :=
  let busy (c : Cluster) (k : Nat) : Bool := !((c.landings.getD k []).isEmpty) || !((c.waiting.getD k []).isEmpty)
  let lands := s.clusters.flatMap fun c => ([0, 1, 2, 3].filter (busy c.2)).map fun k => .skidderRefill c.1 k
  if s.clusters.any fun c => c.2.decks.any fun l => !(l.isEmpty) then
    lands ++ (enabledCores s).flatMap fun c => [.groupDispatch c, .preemption c, .steal c]
  else lands

/-- What a group's threads wait for, by the time from which they have: its reconvergence, the fetch of a clause, its issue. -/
def clauseEventsOf (g : Group) : List (Nat × Instr) :=
  (if allHeld g then [(heldAge g, .reconvergence g.gk)] else []) ++
  (g.threads.filter fun t => t.status == .ready).filterMap fun t =>
    if t.clause.isNone then some (t.age, .clauseFetch g.core (subcoreOf g t.idx))
    else if waitOver t then some (t.age, .clauseIssue g.core (subcoreOf g t.idx))
    else none

/-- Clauses, the longest ready first (R34). -/
def clauseEvents (s : State) : List Instr :=
  (sortBy (fun e => e.1) ((s.groups.filter fun g => g.run == .resident).flatMap clauseEventsOf)).map fun e => e.2

/-- The flumes drain when nothing else happens (R219). -/
def flumeEvents (s : State) : List Instr := (s.cores.filter fun c => !(c.2.flume.isEmpty)).map fun c => .flumeWriteback c.1

/-- An event happens: none when it changes nothing. -/
def tryEvent (s : State) (i : Instr) : Option Res :=
  match exec i s with
  | .next t => if t = s then none else some (.next t)
  | r => some r

/-- The events that the state offers, kind by kind, in the order in which the model takes them. After a device-fatal error only the
display goes on. -/
def eventKinds (s : State) : List (State → List Instr) :=
  if s.fatal then [displayEvents]
  else
    [displayEvents, fun s => s.ops.filterMap completionOf, groupEvents, coreEvents, deviceEvents, frameEvents, queueEvents, clauseEvents,
     flumeEvents]

/-- A parked waiter whose object is ready, whatever changed the object: it becomes runnable (R314, R315). -/
def wakeReady (s : State) : Option State :=
  (s.waiters.find? fun w => !(handedOn s w) && (objectReady s w.gk w.kind w.obj w.part w.world).2).map fun w => retest s [w]

/-- A waiter whose object is ready becomes runnable, or else the first event that changes the state happens; with none, nothing
does. -/
def background (s : State) : Res :=
  match (if s.fatal then none else wakeReady s) with
  | some s => .next s
  | none => ((eventKinds s).findSome? fun f => (f s).findSome? (tryEvent s)).getD (.next s)

/-! ## Errors (R233 to R235) -/

/-- A unit joins a list of poisoned units. -/
def poisonUnit (l : List Nat) (u : Nat) : List Nat := if l.contains u then l else u :: l

/-- An uncorrectable error in HBM or host memory: the sector stored there is poisoned, of a compressed line all eight (R233, R235); a
copy that L2 holds is untouched. -/
def poisonHbm (s : State) (pa : Nat) : State :=
  if (packedTag s (pa / 512)).isSome then poisonLine s (pa / 512)
  else
    let s := markPoison s (pa / 64) true
    if isHost pa then s else countError s (pa / 2 ^ 37) 3

/-- An uncorrectable error in a sector of an L1 line: clean bytes go, dirty ones poison the sector at its place, and a line that is no
longer dirty leaves the flume (R219, R233). -/
def poisonL1Sector (s : State) (core asid line k : Nat) : State :=
  match l1Find s core asid line with
  | none => s
  | some l =>
    let here (e : Nat × Byte) : Bool := e.1 / 64 == k
    let dirty := l.dirty.filter fun e => !(here e)
    let pa := l1Pa s core asid line
    let t := l1Put s core { l with clean := l.clean.filter fun e => !(here e), dirty := dirty }
    let t := if dirty.isEmpty then modCore t core fun c => { c with flume := c.flume.filter fun e => e != (asid, line) } else t
    let t := if l.dirty.any here then l2Poison t (l2DieOf (line * 512 / 2 ^ 55 % 4) pa) l.part (pa + 64 * k) else t
    countError t (dieOfCore core) 1

/-- An uncorrectable error in a sector of an L2 line: a clean one goes, with the compressed copy that held it, and a dirty one is poisoned
(R232, R233). -/
def poisonL2Sector (s : State) (die line k : Nat) : State :=
  match l2Find s die line with
  | none => s
  | some l =>
    let sectors := (l.sectors.filter fun e => e.1 != k || e.2.dirty).map fun e => if e.1 = k then (e.1, { e.2 with poisoned := true }) else e
    let packed := if (l.sectors.find? fun e => e.1 == k).isSome then l.packed else none
    countError (l2Put s die { l with sectors := sectors, packed := packed }) die 1

/-! ## Actions -/

/-- Temperature and power as measured now: above the cap event 7 follows, and at 115 °C or more the thermal trip (R439). -/
def senseNow (s : State) (celsius watts : Nat) : State :=
  let s := checkCap { s with therm := BitVec.ofNat 32 (min celsius 255 + s.therm.toNat / 256 % 2 * 256), pmeas := BitVec.ofNat 32 (watts % 4096) }
  if celsius < 115 then s else raiseFatal { s with therm := s.therm ||| 0x100 } 1

/-- Firmware sets the owner, none for a number above 7, and the security of a region (R416). -/
def setRegion (s : State) (die gb part : Nat) (secure : Bool) : State :=
  let rest := s.regions.filter fun r => !(r.die == die && r.gb == gb)
  let all := if part < 8 || secure then { die := die, gb := gb, part := part, secure := secure } :: rest else rest
  { s with regions := sortBy (fun r => 1024 * r.die + r.gb) all }

/-- Firmware sets a host range of the memory region table; one of no partition that is not secure is none (R363, R416). -/
def setHostRange (s : State) (first last part : Nat) (secure : Bool) : State :=
  let rest := s.hostRanges.filter fun r => r.first != first
  let all := if part < 8 || secure then { first := first, last := last, part := part, secure := secure } :: rest else rest
  { s with hostRanges := sortBy (fun r => r.first) all }

/-- Blocks that are always marked secure (R416). -/
def alwaysSecure : List Block := [.rootController, .bootRom, .keyStore, .fuses, .dumpRegion, .measurement]

/-- Firmware marks a block in the block security table, or clears its mark (R416). -/
def setBlock (s : State) (b : Block) (secure : Bool) : State :=
  let rest := s.secureBlocks.filter (· != b)
  { s with secureBlocks := if secure || alwaysSecure.contains b then rest ++ [b] else rest }

/-- Firmware writes a device-scope register: `l2place`, or the configuration of a partition (R225, R417, Table 4.6). -/
def firmwareWrite (s : State) (n : Nat) (v : Word) : State :=
  if n = 0x220 || (0x300 ≤ n && n ≤ 0x37F) then deviceWrite s .firmware n v else s

/-- A piece of an engine operation is written before the operation completes. -/
def engineMoves (s : State) (op piece : Nat) : State :=
  match opOf s op with
  | none => s
  | some o =>
    match o.kind with
    | .eng e =>
      match e.fn with
      | .rtrace | .rany | .rlaunch | .bquery | .brefit => earlyRay s o e piece
      | _ => if syncBit (match groupOf s o.gk with | some g => (readBlock s g (opCtx o g) e).2 | none => e) then s else earlyPiece s o e piece
    | _ => s

/-- A cruiser visits a node of an operation's traversal. -/
def engineVisits (s : State) (op n : Nat) : State :=
  match opOf s op with
  | none => s
  | some o =>
    match o.kind with
    | .eng e => (match e.fn with | .rtrace | .rany | .rlaunch | .bquery | .brefit => pinNode s o e n | _ => s)
    | _ => s

/-- An operation shows one of the registers that it will write before it completes (R72): a load or an atomic that may be performed
writes it, and what a wait, an engine operation or a `tdone` will write is shown by a free word. -/
def replyPart (s : State) (op reg : Nat) : State :=
  match opOf s op with
  | none => s
  | some o =>
    match o.kind with
    | .load .. | .atomic .. | .reply .. => if mayPerform s o then replyEarly s o reg else s
    | .swWait _ _ d => if d = reg then showEarly s o reg else s
    | .eng e => if e.reply = some reg then showEarly s o reg else s
    | .tdone d _ _ => if d = reg then showEarly s o reg else s
    | _ => s

/-- The n-th aligned 8 bytes of a store that may be performed are stored before the others (R239). -/
def storePart (s : State) (op n : Nat) : State :=
  match opOf s op with
  | some o => if mayPerform s o then storeEarly s o n else s
  | none => s

/-- The host writes its own memory: a whole sector clears its poison (R227, R234). -/
def hostStore (s : State) (pa : Nat) (data : List Byte) : State :=
  if isHost pa && isHost (pa + data.length) then
    (splitSectors pa data.length).foldl (fun s p => if p.2 = 64 then markPoison s (p.1 / 64) false else s)
      { s with mem := memWrite s.mem pa data }
  else s

/-- The contention predictor's choice for a core's atomics on a line (R245). -/
def setPredict (s : State) (core asid line : Nat) (inL1 : Bool) : State :=
  modCore s core fun c =>
    { c with predict := (c.predict.filter (· != (asid, line))) ++ if inL1 then [(asid, line)] else [] }

/-- A ready thread of the core has its clause and waits for a counter of its wait mask (Table 17.5, event 2). -/
def heldByMask (s : State) (core : Nat) : Bool :=
  s.groups.any fun g => g.core == core && g.run == .resident &&
    g.threads.any fun t => t.status == .ready && t.clause.isSome && t.pw == 0 && !(waitOver t)

/-- The clock events of a core over ck cycles: a thread held by a wait mask, a busy matrix engine (R405). -/
def countClocks (ck : Nat) (s : State) (core : Nat) : State :=
  let s := if heldByMask s core then countEvent s core 2 ck else s
  if (coreOf s core).mrun.isSome then countEvent s core 3 ck else s

/-- 24ths of a nanosecond in a ck at 1.6, 1.2 and 0.8 GHz (R15, R16). -/
def ckParts (pstate : Nat) : Nat := [15, 20, 30].getD pstate 15

/-- Display events at one time, and times of such events in one passage, at most (model). -/
def displayFuel : Nat := 2 ^ 32

/-- n ck go by, in D3, where the clocks are gated, n nanoseconds: both clocks advance in the ratio of the power state (R16, R398, R404,
R437; log entry 10). -/
def tick (s : State) (n : Nat) : State :=
  let s := { s with gazeOld := s.gaze }
  if clocksGated s then { s with devtime := (s.devtime + n) % 2 ^ 64 }
  else
    let t := ckParts (field s.pstate.toNat 0 2) * n + s.part24
    (List.range Config.cores).foldl (countClocks n)
      { s with devtime := (s.devtime + t / 24) % 2 ^ 64, part24 := t % 24, ck := (s.ck + n) % 2 ^ 64 }

/-- The fewest ck, in D3 nanoseconds, in which `devtime` comes from now to t. -/
def ticksTo (s : State) (t : Nat) : Nat :=
  if clocksGated s then t - s.devtime
  else
    let parts := ckParts (field s.pstate.toNat 0 2)
    (24 * (t - s.devtime) - s.part24 + parts - 1) / parts

/-- Event 7 of a millisecond that is over (R439). -/
def serveCap (s : State) : State := if s.capNext.any fun t => decide (t ≤ s.devtime) then checkCap s else s

/-- What has a time of its own and is due happens: strips, scan-outs and rows, and event 7 (R346, R402, R435, R439). -/
def serveTimes (s : State) : State := serveCap (serveDisplay displayFuel s)

/-- Ticks to the next time ahead at which something happens of itself: none within n. -/
def nextTime (s : State) (n : Nat) : Option Nat :=
  let times := ((timedEvents s).map fun e => e.1) ++ s.capNext.toList
  let ahead := (times.filter fun t => decide (s.devtime < t)).map (ticksTo s)
  (ahead.filter fun k => decide (0 < k) && decide (k ≤ n)).foldl (fun (b : Option Nat) k => some (min k (b.getD k))) none

/-- Time goes by, from one time at which something happens of itself to the next; it happens then. -/
def passFrom : Nat → State → Nat → State
  | 0, s, n => serveTimes (tick s n)
  | fuel + 1, s, n =>
    match nextTime s n with
    | none => serveTimes (tick s n)
    | some k => if k = n then serveTimes (tick s n) else passFrom fuel (serveTimes (tick s k)) (n - k)

/-- n ck go by, in D3 n nanoseconds: what is due already happens first, and what comes due on the way happens at its time. -/
def passTime (s : State) (n : Nat) : State := if n = 0 then serveTimes s else passFrom displayFuel (serveTimes s) n

/-- The effect of an action that is no instruction and no event of the opcode table. -/
def smallAction (a : Action) (s : State) : State :=
  match a with
  | .run _ => s
  | .event _ => s
  | .time n => passTime s n
  | .sense celsius watts => senseNow s celsius watts
  | .predict core asid line inL1 => setPredict s core asid line inL1
  | .evictL1 core asid line => l1Evict s core asid line
  | .evictL2 die line => if (l2Find s die line).any fun l => !(l.pins.isEmpty) then s else l2Evict s die line
  | .dropTlb die k => modDie s die fun d => { d with tlb := d.tlb.eraseIdx k }
  | .dropIcache core asid sector =>
    modCore s core fun c => { c with icache := c.icache.filter fun e => !(e.asid == asid && e.sector == sector) }
  | .poisonMem pa => poisonHbm s pa
  | .poisonScratch core u => countError (modCore s core fun c => { c with scratchPoison := poisonUnit c.scratchPoison u }) (dieOfCore core) 1
  | .poisonTile core u => countError (modCore s core fun c => { c with tilePoison := poisonUnit c.tilePoison u }) (dieOfCore core) 1
  | .poisonAcc core u => countError (modCore s core fun c => { c with accPoison := poisonUnit c.accPoison u }) (dieOfCore core) 1
  | .poisonPay cluster slot u =>
    countError (modCluster s cluster fun c =>
      { c with ring := c.ring.mapIdx fun k x => if k = slot then { x with poison := poisonUnit x.poison u } else x }) (dieOfCluster cluster) 1
  | .poisonL1 core asid line k => poisonL1Sector s core asid line k
  | .poisonL2 die line k => poisonL2Sector s die line k
  | .poisonReg gk tid r =>
    let core := ((groupOf s gk).map fun g => g.core).getD 0
    countError (modThread s gk tid fun t => { t with poison := t.poison ||| BitVec.ofNat 128 (2 ^ r) }) (dieOfCore core) 1
  | .poisonFatal => raiseFatal s 0
  | .corrected die hbm => countError s die (if hbm then 2 else 0)
  | .replyOne op reg => replyPart s op reg
  | .storeUnit op n => storePart s op n
  | .enginePiece op piece => engineMoves s op piece
  | .pinNode op n => engineVisits s op n
  | .handOff op => handOff op s
  | .hostRead offset size => hostRegisterRead s offset size
  | .hostCounter n core part => hostCounterRead s n core part
  | .hostDumpRead offset n => hostDumpRead s offset n
  | .hostOwnWrite pa data => hostStore s pa data
  | .hostBootImage image => { s with bootWindow := some image }
  | .moduleTrains die ok =>
    { s with untrained := s.untrained.filter (· != die) ++ if !ok && decide (die < 4) then [die] else [] }
  | .firmwareRegion die gb part secure => if firmwareStopped s then s else setRegion s die gb part secure
  | .firmwareHostRange first last part secure => if firmwareStopped s then s else setHostRange s first last part secure
  | .firmwareBlock b secure => if firmwareStopped s then s else setBlock s b secure
  | .firmwareDump first n => if firmwareStopped s then s else { s with dumpRegion := some (first, n) }
  | .firmwareReg n v => if firmwareStopped s then s else firmwareWrite s n v

/-- Events that still happen after a device-fatal error: the display's, what the host sends, which is rejected, further conditions, and
cold reset (R426). -/
def outlivesFatal : Instr → Bool
  | .stripDeadline _ | .frameScanoutStart _ | .scanoutLine _ => true
  | .hostEnqueue _ _ _ | .hostMemoryRead _ _ _ | .hostMemoryWrite _ _ _ | .hostRegisterWrite _ _ | .gazeWrite _ _ | .pcselWrite _ _ => true
  | .capabilityExchange _ | .replay _ _ | .kill _ _ | .l2placeWrite _ | .pstateWrite _ | .cgateWrite _ | .displayEnable _ _ => true
  | .partitionEnable _ _ | .partitionDisable _ _ | .measurementExtend _ _ _ | .attestationRequest _ _ => true
  | .recoveryPoint _ _ | .rollback _ _ | .invalidateWindowPiece _ _ _ _ _ => true
  | .deviceFatal _ | .thermalTrip _ | .coldReset => true
  | _ => false

/-- Actions that still happen after a device-fatal error: nothing of the cores, the caches or the engines (R426). -/
def actionOutlives : Action → Bool
  | .time _ | .sense _ _ | .hostRead _ _ | .hostCounter _ _ _ | .hostDumpRead _ _ | .hostOwnWrite _ _ | .hostBootImage _ => true
  | .moduleTrains _ _ | .poisonMem _ | .poisonFatal | .corrected _ _ => true
  | .event i => outlivesFatal i
  | _ => false

/-- An action of the agenda. An event is a row of the opcode table that no instruction word encodes. -/
def doAction (a : Action) (s : State) : Res :=
  if s.fatal && !(actionOutlives a) then .next s
  else
    match a with
    | .run k => (runIssue s k).getD (.next s)
    | .event i => if (encode i).isEmpty then exec i s else .next s
    | a => .next (smallAction a s)

end Sys2Proof.Machine
end

