-- ==== Sys2Proof/Machine/Step.lean ====
section
/-! DEFINITION. One step of the device: the next action of the agenda; without one, the next instruction of an issue group in
progress; without one that can go on, the next event of the device (spec/02_execution_model.md R32 to R35). -/
namespace Sys2Proof.Machine

/-- One step. -/
def step (s : State) : Host.Outcome State Fault Refusal :=
  match s.agenda with
  | a :: rest => doAction a { s with agenda := rest }
  | [] => (runAny s s.issues.length 0).getD (background s)

/-- The words of an instruction as `spec/opcode_table.json` numbers them, one or two by the first one (R78). -/
def tableWords (nbits w : Nat) : List Word :=
  let w1 : Word := BitVec.ofNat 32 (w % 2 ^ nbits)
  if isTwoWord w1 then [w1, BitVec.ofNat 32 (w % 2 ^ nbits / 2 ^ 32)] else [w1]

/-- A group of one thread on core 0 whose issue group has reached the given words: what `withFetchWord` puts on the device. -/
def loadedGroup (ws : List Word) : Group :=
  { gk := 0, grid := 0, gid := 0, record := { threads := 1, regs8 := 16 }, kd := {}, core := 0, regCount := 128
    threads := [{ idx := 0, regs := List.replicate 128 0, winHi := 127, pc := 0, hdr := 0, status := .issuing
                  clause := some (encodeHeader { n := ws.length, cls := 0, wait := 0, rcv := true }, ws) }] }

/-- The state with an instruction placed where `step` fetches its next one: an issue group in progress on subcore 0 of core 0
(log entry 20). -/
def State.withFetchWord (s : State) (nbits w : Nat) : State :=
  let ws := tableWords nbits w
  { s with
    agenda := []
    groups := loadedGroup ws :: s.groups.filter fun g => g.gk != 0
    issues := { core := 0, members := [(0, 0)], hdr := 0, words := ws, rcv := true } :: s.issues }

end Sys2Proof.Machine
end

