-- ==== Sys2Proof/Safety.lean ====
section
/-! DEFINITION. The terms that claims use: what a safe run is, how a claim names a thread and the issue group in progress, and what
one instruction of an issue group leaves behind. -/
namespace Sys2Proof

/-- A run of n steps from a state goes on to its end. -/
def runsOn (n : Nat) (s : Machine.State) : Bool :=
  match core.run n s with
  | .next _ => true
  | .fault _ => false
  | .refused _ => false

/-- Every memory of a state is in canonical form: the physical memory, and scratchpad, tile store and accumulator memory of each
core (spec/09_memories.md R212). -/
def memoriesWf (s : Machine.State) : Bool :=
  Machine.Memory.wf s.mem && s.cores.all fun c =>
    Machine.Memory.wf c.2.scratch && Machine.Memory.wf c.2.tiles && Machine.Memory.wf c.2.acc

/-- A source code that names a constant: 1.0, 0.5, 2.0 or an integer (R74). -/
def Src.isConstant : Src → Bool
  | .one | .half | .two | .int _ => true
  | _ => false

namespace Machine

/-- A thread of the device by its group's name and its index. -/
def threadAt (s : State) (m : Nat × Nat) : Option Thread := (groupOf s m.1).bind fun g => threadOf g m.2

/-- The issue group that runs next: each member once, at least one (R32). -/
structure Head (s : State) (i : Issue) (rest : List Issue) : Prop where
  issues : s.issues = i :: rest
  nodup : i.members.Nodup
  nonempty : i.members ≠ []

/-- The next instruction of an issue group has not begun for some of its members alone (R281, R317, R397). -/
def Unbegun (i : Issue) : Prop := i.issued = [] ∧ i.faults = []

/-- Two states differ at most in physical memory with its marks, in caches, translations and write logs, and in free values: every
scratchpad, tile store and accumulator memory, and all that is not a memory, is the same. -/
structure CachesOnly (s s1 : State) : Prop where
  frame : s1 = { s with fresh := s1.fresh, mem := s1.mem, poison := s1.poison, sealed := s1.sealed, sizeTags := s1.sizeTags,
                        dies := s1.dies, cores := s1.cores, partitions := s1.partitions }
  stores : ∀ c, (coreOf s1 c).scratch = (coreOf s c).scratch ∧ (coreOf s1 c).tiles = (coreOf s c).tiles ∧
    (coreOf s1 c).acc = (coreOf s c).acc

/-- No operation of a thread is outstanding. -/
def idle (s : State) (m : Nat × Nat) : Prop := ∀ o ∈ s.ops, o.gk = m.1 → m.2 ∉ o.threads

/-- A 32-bit source of a thread, where it can be read. -/
def src32 (k : SrcKind) (g : Group) (t : Thread) (a : Src) : Word :=
  match readSrc32 k g t a with
  | .ok v => v
  | .error _ => 0

/-- A 64-bit source of a thread, where it can be read. -/
def src64 (k : SrcKind) (g : Group) (t : Thread) (a : Src) : DWord :=
  match readSrc64 k g t a with
  | .ok v => v
  | .error _ => 0

/-- A member of the issue group is a thread of the device and reads a 32-bit source without a fault. -/
def reads32 (s : State) (k : SrcKind) (a : Src) (m : Nat × Nat) : Bool :=
  match memberOf s m with
  | some (g, t) => match readSrc32 k g t a with | .ok _ => true | .error _ => false
  | none => false

/-- The same for a 64-bit source. -/
def reads64 (s : State) (k : SrcKind) (a : Src) (m : Nat × Nat) : Bool :=
  match memberOf s m with
  | some (g, t) => match readSrc64 k g t a with | .ok _ => true | .error _ => false
  | none => false

/-- A member of the issue group is a thread of the device. -/
def isMember (s : State) (m : Nat × Nat) : Bool := (memberOf s m).isSome

/-- The guard of an instruction holds for a member (R69). -/
def guardHolds (s : State) (gd : Guard) (m : Nat × Nat) : Bool :=
  match memberOf s m with
  | some (_, t) => guardTrue t gd
  | none => false

/-- The register that an index register of a member names lies in its window (R75). -/
def inWindow (s : State) (k : BitVec 2) (m : Nat × Nat) : Bool :=
  match memberOf s m with
  | some (_, t) => decide (t.winLo.toNat ≤ (t.x.getD k.toNat 0).toNat) && decide ((t.x.getD k.toNat 0).toNat ≤ t.winHi.toNat)
  | none => false

/-- The thread an instruction of w words leaves: in the clause while the clause has another word, else at the next clause. -/
def afterWords (i : Issue) (w : Nat) (m : Nat × Nat) (t t' : Thread) : Prop :=
  if i.off + w < i.words.length then t' = t else ∃ a, t' = leftClause i m a t

/-- The issue groups after an instruction of w words in which no member stopped. -/
def issuesAfter (i : Issue) (rest : List Issue) (w : Nat) : List Issue :=
  if i.off + w < i.words.length then { i with off := i.off + w, done := i.done + 1, issued := [], faults := [] } :: rest else rest

/-- `fpm` of a group after the members of an issue group raised flags (R106). -/
def fpmAfter (fl : Group → Thread → Flags) (s : State) (ms : List (Nat × Nat)) (gk : Nat) (fpm : Word) : Word :=
  ms.foldl (fun v m => if m.1 = gk then match memberOf s m with | some (g, t) => raiseFlags v (fl g t) | none => v else v) fpm

/-- What a lane instruction of w words does when no operand faults: each member becomes what `f` makes of it and goes past the words,
its group collects the flags; no other thread, no other part of a group and no other part of the device changes. -/
structure LaneRun (s s' : State) (i : Issue) (rest : List Issue) (w : Nat) (f : Group → Thread → Thread)
    (fl : Group → Thread → Flags) : Prop where
  member : ∀ m ∈ i.members, ∀ g t, memberOf s m = some (g, t) → ∃ t', threadAt s' m = some t' ∧ afterWords i w m (f g t) t'
  other : ∀ n, n ∉ i.members → threadAt s' n = threadAt s n
  group : ∀ gk g, groupOf s gk = some g → ∃ ts, groupOf s' gk =
    some { g with threads := ts, ctl := { g.ctl with fpm := fpmAfter fl s i.members gk g.ctl.fpm } }
  issues : s'.issues = issuesAfter i rest w
  frame : s' = { s with groups := s'.groups, issues := s'.issues, names := s'.names }

/-- A group has a member in the issue group. -/
def takesPart (i : Issue) (gk : Nat) : Bool := i.members.any fun m => m.1 == gk

/-- What an instruction that acts on the groups of the issue group does: each of them becomes what `u` makes of it, its members become
what `f` makes of them and go past the words; nothing else changes. -/
structure GroupsRun (s s' : State) (i : Issue) (rest : List Issue) (w : Nat) (f : Group → Thread → Thread) (u : Group → Group) :
    Prop where
  member : ∀ m ∈ i.members, ∀ g t, memberOf s m = some (g, t) → ∃ t', threadAt s' m = some t' ∧ afterWords i w m (f g t) t'
  other : ∀ n, n ∉ i.members → threadAt s' n = threadAt s n
  group : ∀ gk g, groupOf s gk = some g → ∃ ts, groupOf s' gk =
    some { (if takesPart i gk then u g else g) with threads := ts }
  issues : s'.issues = issuesAfter i rest w
  frame : s' = { s with groups := s'.groups, issues := s'.issues, names := s'.names }

/-- A thread that goes on at an address, ready from the moment a (R156, R34). -/
def goesTo (t : Thread) (pc : DWord) (a : Nat) : Thread :=
  { t with pc := pc, hdr := pc, l0 := 0, l1 := 0, clause := none, age := a, status := .ready }

/-- The clause that follows the issue group's clause in memory (R156). -/
def nextClause (i : Issue) : DWord := i.hdr + BitVec.ofNat 64 (4 * (i.words.length + 1))

/-- Where a control transfer takes the members of an issue group: each goes on at its own address, and nothing else changes. -/
structure Transfers (s s' : State) (i : Issue) (rest : List Issue) (pc : Group → Thread → DWord) : Prop where
  member : ∀ m ∈ i.members, ∀ g t, memberOf s m = some (g, t) → ∃ a, threadAt s' m = some (goesTo t (pc g t) a)
  other : ∀ n, n ∉ i.members → threadAt s' n = threadAt s n
  group : ∀ gk g, groupOf s gk = some g → ∃ ts, groupOf s' gk = some { g with threads := ts }
  issues : s'.issues = rest
  frame : s' = { s with groups := s'.groups, issues := s'.issues, names := s'.names }

/-- A thread arrived at no barrier in the clause at an address (R162). -/
abbrev NoBars (hdr : DWord) (t : Thread) : Prop := ∀ e ∈ t.bars, e.2 ≠ hdr

/-- The issue group stands at the last word of its clause, its members issuing, at no barrier in it, none gone before (R60, R162). -/
structure LastWord (s : State) (i : Issue) (rest : List Issue) : Prop where
  head : Head s i rest
  last : i.off + 1 = i.words.length
  jumped : i.jumped = []
  member : ∀ m ∈ i.members, ∃ g t, memberOf s m = some (g, t) ∧ t.status = .issuing ∧ NoBars i.hdr t

/-- The issue group that runs next has one member. -/
structure Alone (s : State) (i : Issue) (rest : List Issue) (m : Nat × Nat) (g : Group) (t : Thread) : Prop where
  issues : s.issues = i :: rest
  members : i.members = [m]
  member : memberOf s m = some (g, t)

/-- The one member goes past w words after an effect has made s1 of the state: a zero goes into its latch, and nothing else of s1
changes. -/
structure Past (s1 s' : State) (i : Issue) (rest : List Issue) (m : Nat × Nat) (w : Nat) : Prop where
  member : ∀ t, threadAt s1 m = some t → ∃ t', threadAt s' m = some t' ∧ afterWords i w m (shiftLatch t 0) t'
  other : ∀ n, n ≠ m → threadAt s' n = threadAt s1 n
  group : ∀ gk g, groupOf s1 gk = some g → ∃ ts, groupOf s' gk = some { g with threads := ts }
  issues : s'.issues = issuesAfter i rest w
  frame : s' = { s1 with groups := s'.groups, issues := s'.issues, names := s'.names }

/-- The one member goes on at an address after an effect has made s1 of the state; nothing else of s1 changes. -/
structure Goes (s1 s' : State) (rest : List Issue) (m : Nat × Nat) (pc : DWord) : Prop where
  member : ∀ t, threadAt s1 m = some t → ∃ a, threadAt s' m = some (goesTo t pc a)
  other : ∀ n, n ≠ m → threadAt s' n = threadAt s1 n
  group : ∀ gk g, groupOf s1 gk = some g → ∃ ts, groupOf s' gk = some { g with threads := ts }
  issues : s'.issues = rest
  frame : s' = { s1 with groups := s'.groups, issues := s'.issues, names := s'.names }

/-- The members of an issue group go past w words after an effect has made s1 of the state: a zero goes into each latch, and nothing
else of s1 changes. -/
structure AllPast (s1 s' : State) (i : Issue) (rest : List Issue) (w : Nat) : Prop where
  member : ∀ m ∈ i.members, ∀ t, threadAt s1 m = some t → ∃ t', threadAt s' m = some t' ∧ afterWords i w m (shiftLatch t 0) t'
  other : ∀ n, n ∉ i.members → threadAt s' n = threadAt s1 n
  group : ∀ gk g, groupOf s1 gk = some g → ∃ ts, groupOf s' gk = some { g with threads := ts }
  issues : s'.issues = issuesAfter i rest w
  frame : s' = { s1 with groups := s'.groups, issues := s'.issues, names := s'.names }

/-- A thread with one more operation outstanding under its counter (R70, R71). -/
def charged (wait : BitVec 3) (t : Thread) : Thread :=
  if wait.toNat < 6 then { t with w := t.w.set wait.toNat (t.w.getD wait.toNat 0 + 1) } else { t with pw := t.pw + 1 }

/-- A thread with one operation fewer outstanding under a counter. -/
def credited (cnt : Nat) (t : Thread) : Thread :=
  if cnt < 6 then { t with w := t.w.set cnt (t.w.getD cnt 0 - 1) } else { t with pw := t.pw - 1 }

/-- The counter that an instruction charges is below 63 (R70). -/
def hasRoom (wait : BitVec 3) (t : Thread) : Prop := wait.toNat < 6 → t.w.getD wait.toNat 0 < 63

/-- The operation that a thread issues (R70): named, charged to its counter, for its address space and privilege. -/
def opFor (s : State) (m : Nat × Nat) (g : Group) (t : Thread) (wait : BitVec 3) (kind : OpKind) : Op :=
  { id := s.names, core := g.core, gk := m.1, threads := [m.2], cnt := wait.toNat, asid := asidOf s g.record.part g.record.world
    sup := t.inSup, kind := kind }

/-- The one member issues an operation after an effect has made s1 of the state, and goes past the instruction's two words: the
operation joins the outstanding ones, the counter rises, and nothing else of s1 changes. -/
structure Issued (s1 s' : State) (i : Issue) (rest : List Issue) (m : Nat × Nat) (g : Group) (t : Thread) (wait : BitVec 3)
    (kind : OpKind) : Prop where
  ops : s'.ops = s1.ops ++ [opFor s1 m g t wait kind]
  member : ∀ t1, threadAt s1 m = some t1 → ∃ t', threadAt s' m = some t' ∧ afterWords i 2 m (shiftLatch (charged wait t1) 0) t'
  other : ∀ n, n ≠ m → threadAt s' n = threadAt s1 n
  group : ∀ gk g, groupOf s1 gk = some g → ∃ ts, groupOf s' gk = some { g with threads := ts }
  issues : s'.issues = issuesAfter i rest 2
  frame : s' = { s1 with groups := s'.groups, issues := s'.issues, names := s'.names, ops := s'.ops }

/-- An operation of one thread is complete after an effect has made s1 of the state: it is outstanding no longer, its counter falls,
the thread is what `f` makes of it, and nothing else of s1 changes. -/
structure Completed (s1 s' : State) (o : Op) (m : Nat × Nat) (f : Thread → Thread) : Prop where
  ops : s'.ops = s1.ops.filter fun x => x.id != o.id
  member : ∀ t, threadAt s1 m = some t → threadAt s' m = some (credited o.cnt (f t))
  other : ∀ n, n ≠ m → threadAt s' n = threadAt s1 n
  group : ∀ gk g, groupOf s1 gk = some g → ∃ ts, groupOf s' gk = some { g with threads := ts }
  frame : s' = { s1 with groups := s'.groups, ops := s'.ops }

/-- Words written to the registers of a thread from register d on (R263). -/
def withRegs (d : Nat) (ws : List Word) (t : Thread) : Thread := (enumFrom d ws).foldl (fun t e => setReg t e.1 e.2) t

/-- A fault that waits for the thread under a counter (R262, R276). -/
def withDeferred (cnt : Nat) (f : FaultInfo) (t : Thread) : Thread := { t with deferred := t.deferred ++ [(cnt, f)] }

/-- An outstanding operation of one thread that may be performed, of a group that is on its core. -/
structure Outstanding (s : State) (id : Nat) (o : Op) (g : Group) (tid : Nat) : Prop where
  op : opOf s id = some o
  threads : o.threads = [tid]
  may : mayPerform s o = true
  group : groupOf s o.gk = some g
  resident : g.run ≠ .preempted

/-- No `swwait` is outstanding. -/
def noSyncWaits (s : State) : Prop := ∀ x ∈ s.ops, ∀ off e d, x.kind ≠ .swWait off e d

/-- A byte of the scratchpad of a core. -/
def scratchByte (s : State) (core a : Nat) : Byte := memGet (coreOf s core).scratch a

/-- One thread is what `f` made of it and its group what `u` made of it; every other thread, the rest of its group and the rest of the
device, but for names, are as in s. -/
structure Changed (s s' : State) (m : Nat × Nat) (t' : Thread) (u : Group → Group) : Prop where
  member : threadAt s' m = some t'
  other : ∀ n, n ≠ m → threadAt s' n = threadAt s n
  group : ∀ gk g, groupOf s gk = some g → ∃ ts, groupOf s' gk = some { (if gk = m.1 then u g else g) with threads := ts }
  frame : s' = { s with groups := s'.groups, names := s'.names }

/-- No issue group is empty or has this member. -/
def apart (issues : List Issue) (m : Nat × Nat) : Prop := ∀ i ∈ issues, i.members ≠ [] ∧ m ∉ i.members

/-- An instruction answers a next state in which it has done this. -/
def Runs (ins : Instr) (s : State) (P : State → Prop) : Prop := ∃ s', exec ins s = .next s' ∧ P s'

end Machine
end Sys2Proof
end

