-- ==== Sys2Proof/Certificates/Slice0/Obligations.lean ====
section
/-! DEFINITION. The statements for the provers, each a proposition over the model; the tables that a statement runs over stand before
it. -/
namespace Sys2Proof.Claims
open Sys2Proof.Machine

/-! ## Lane instructions -/

/-- What a lane instruction of w words answers at the head issue group when no operand faults. -/
def LaneDone (ins : Instr) (s : State) (i : Issue) (rest : List Issue) (w : Nat) (f : Group → Thread → Thread)
    (fl : Group → Thread → Flags) : Prop :=
  Runs ins s fun s' => LaneRun s s' i rest w f fl

/-- No flags (R137). -/
def noFlags (_ : Group) (_ : Thread) : Flags := {}

/-- Arithmetic instructions of two 32-bit sources (Table 6.2). -/
def intArithmetic : List ((RBin → Instr) × (Word → Word → Word)) :=
  [(.iadd, fun a b => BitVec.ofNat 32 (a.toNat + b.toNat)),
   (.isub, fun a b => BitVec.ofInt 32 (a.toNat - b.toNat)),
   (.imul, fun a b => BitVec.ofNat 32 (a.toNat * b.toNat)),
   (.imulh, fun a b => BitVec.ofInt 32 (a.toInt * b.toInt / 2 ^ 32)),
   (.imulhu, fun a b => BitVec.ofNat 32 (a.toNat * b.toNat / 2 ^ 32)),
   (.imin, fun a b => BitVec.ofInt 32 (min a.toInt b.toInt)),
   (.iminu, fun a b => BitVec.ofNat 32 (min a.toNat b.toNat)),
   (.imax, fun a b => BitVec.ofInt 32 (max a.toInt b.toInt)),
   (.imaxu, fun a b => BitVec.ofNat 32 (max a.toNat b.toNat))]

/-- Logic, shifts and saturating instructions of two 32-bit sources (Table 6.2). -/
def intLogic : List ((RBin → Instr) × (Word → Word → Word)) :=
  [(.and, fun a b => a &&& b),
   (.or, fun a b => a ||| b),
   (.xor, fun a b => a ^^^ b),
   (.shl, fun a b => if b.toNat < 32 then BitVec.ofNat 32 (a.toNat * 2 ^ b.toNat) else 0),
   (.shr, fun a b => if b.toNat < 32 then BitVec.ofNat 32 (a.toNat / 2 ^ b.toNat) else 0),
   (.sar, fun a b => BitVec.ofInt 32 (a.toInt / 2 ^ min b.toNat 31)),
   (.rotl, fun a b => a <<< (b.toNat % 32) ||| a >>> (32 - b.toNat % 32)),
   (.iadds, fun a b => BitVec.ofInt 32 (min (max (a.toInt + b.toInt) (-2 ^ 31)) (2 ^ 31 - 1))),
   (.isubs, fun a b => BitVec.ofInt 32 (min (max (a.toInt - b.toInt) (-2 ^ 31)) (2 ^ 31 - 1)))]

/-- Integer instructions of two 32-bit sources. -/
def intBinary : List ((RBin → Instr) × (Word → Word → Word)) := intArithmetic ++ intLogic

/-- Number of one bits, leading zero bits, and the bits in reverse order (Table 6.2). -/
def oneBits (a : Word) : Nat := ((List.range 32).filter fun k => a.getLsbD k).length
def leadingZeros (a : Word) : Nat := ((List.range 32).takeWhile fun k => !(a.getLsbD (31 - k))).length
def reversed (a : Word) : Nat := ((List.range 32).map fun k => if a.getLsbD (31 - k) then 2 ^ k else 0).sum

/-- Integer instructions of one 32-bit source (Table 6.2). -/
def intUnary : List ((RUn → Instr) × (Word → Word)) :=
  [(.iabs, fun a => BitVec.ofNat 32 a.toInt.natAbs),
   (.popc, fun a => BitVec.ofNat 32 (oneBits a)),
   (.clz, fun a => BitVec.ofNat 32 (leadingZeros a)),
   (.brev, fun a => BitVec.ofNat 32 (reversed a)),
   (.mov, fun a => a)]

/-- Integer instructions of two pairs (Table 6.2). -/
def intBinary64 : List ((RBin → Instr) × (DWord → DWord → DWord)) :=
  [(.iadd64, fun a b => BitVec.ofNat 64 (a.toNat + b.toNat)),
   (.isub64, fun a b => BitVec.ofInt 64 (a.toNat - b.toNat))]

/-- A condition of `icmp` and `icmp64` (Table 6.4). -/
def intCondition {w : Nat} (a b : BitVec w) : Nat → Prop
  | 0 => a.toNat = b.toNat
  | 1 => a.toNat ≠ b.toNat
  | 2 => a.toInt < b.toInt
  | 3 => a.toInt ≤ b.toInt
  | 4 => b.toInt < a.toInt
  | 5 => b.toInt ≤ a.toInt
  | 6 => a.toNat < b.toNat
  | 7 => a.toNat ≤ b.toNat
  | 8 => b.toNat < a.toNat
  | _ => b.toNat ≤ a.toNat

/-- A finite or infinite value in the extended real line; a NaN has no place on it. -/
def place : FVal → Option (WithBot (WithTop ℚ))
  | .nan _ => none
  | .inf true => some ⊥
  | .inf false => some (⊤ : WithTop ℚ)
  | .fin s m e => some (((if s then -1 else 1) * m * (2 : ℚ) ^ e : ℚ) : WithTop ℚ)

/-- Two values are ordered, the first less, equal: −0 and +0 are equal, an infinity lies beyond every number (R139). -/
def unordered (x y : FVal) : Prop := place x = none ∨ place y = none
def less (x y : FVal) : Prop := ∃ a b, place x = some a ∧ place y = some b ∧ a < b
def same (x y : FVal) : Prop := ∃ a, place x = some a ∧ place y = some a

/-- A condition of `fcmp` and `dcmp` (Table 6.4). -/
def floatCondition (x y : FVal) : Nat → Prop
  | 0 => same x y
  | 1 => unordered x y ∨ ¬ same x y
  | 2 => less x y
  | 3 => less x y ∨ same x y
  | 4 => less y x
  | 5 => less y x ∨ same x y
  | 6 => unordered x y ∨ less x y
  | 7 => unordered x y ∨ less x y ∨ same x y
  | 8 => unordered x y ∨ less y x
  | 9 => unordered x y ∨ less y x ∨ same x y
  | 10 => ¬ unordered x y
  | _ => unordered x y

/-- Predicate instructions of two predicate sources (R140). -/
def predBinary : List ((PLog → Instr) × (Bool → Bool → Bool)) :=
  [(.pand, fun a b => a && b), (.por, fun a b => a || b), (.pxor, fun a b => a != b), (.pandn, fun a b => a && !b)]

end Sys2Proof.Claims

open Sys2Proof Sys2Proof.Machine Sys2Proof.Claims

/-- R137, Table 6.2: an integer instruction of two 32-bit sources puts its result, in every thread of the issue group; it sets no flag
and changes nothing else. -/
def Obligations.IntegerBinaryResults : Prop :=
  ∀ e ∈ intBinary, ∀ (o : RBin) (s : State) (i : Issue) (rest : List Issue), Head s i rest →
    (∀ m ∈ i.members, reads32 s .int o.a m ∧ reads32 s .int o.b m) →
    LaneDone (e.1 o) s i rest 1 (fun g t => put32 t o.nw o.d (e.2 (src32 .int g t o.a) (src32 .int g t o.b))) noFlags

/-- R137, Table 6.2: the integer instructions of one 32-bit source.
R137, Table 6.2: the 64-bit integer instructions read and write pairs. -/
def Obligations.IntegerUnaryAndPairResults : Prop :=
  (∀ e ∈ intUnary, ∀ (o : RUn) (s : State) (i : Issue) (rest : List Issue), Head s i rest →
    (∀ m ∈ i.members, reads32 s .int o.a m) →
    LaneDone (e.1 o) s i rest 1 (fun g t => put32 t o.nw o.d (e.2 (src32 .int g t o.a))) noFlags) ∧
  (∀ (s : State) (i : Issue) (rest : List Issue), Head s i rest →
    (∀ e ∈ intBinary64, ∀ o : RBin, (∀ m ∈ i.members, reads64 s .int o.a m ∧ reads64 s .int o.b m) →
      LaneDone (e.1 o) s i rest 1 (fun g t => put64 t o.nw o.d (e.2 (src64 .int g t o.a) (src64 .int g t o.b))) noFlags) ∧
    ∀ o : RUn, (∀ m ∈ i.members, reads64 s .int o.a m) →
      LaneDone (.mov64 o) s i rest 1 (fun g t => put64 t o.nw o.d (src64 .int g t o.a)) noFlags)

/-- R138, Table 6.4: an integer compare of a legal condition writes its predicate in every thread.
R138, R139, Table 6.4: a floating-point compare of a legal condition writes its predicate, with subnormals read as zero under ftz
or ftz64; it sets nv for a signalling NaN operand and no other flag. -/
def Obligations.CompareResults : Prop :=
  (∀ (o : PCmp) (s : State) (i : Issue) (rest : List Issue), Head s i rest → o.cond.toNat ≤ 9 →
    ((∀ m ∈ i.members, reads32 s .int o.a m ∧ reads32 s .int o.b m) →
      ∃ r : Word → Word → Bool, (∀ a b, r a b = true ↔ intCondition a b o.cond.toNat) ∧
        LaneDone (.icmp o) s i rest 1
          (fun g t => shiftLatch (putPred t o.pd (r (src32 .int g t o.a) (src32 .int g t o.b))) 0) noFlags) ∧
    ((∀ m ∈ i.members, reads64 s .int o.a m ∧ reads64 s .int o.b m) →
      ∃ r : DWord → DWord → Bool, (∀ a b, r a b = true ↔ intCondition a b o.cond.toNat) ∧
        LaneDone (.icmp64 o) s i rest 1
          (fun g t => shiftLatch (putPred t o.pd (r (src64 .int g t o.a) (src64 .int g t o.b))) 0) noFlags)) ∧
  (∀ (o : PCmp) (s : State) (i : Issue) (rest : List Issue), Head s i rest → o.cond.toNat ≤ 11 →
    ((∀ m ∈ i.members, reads32 s .f32 o.a m ∧ reads32 s .f32 o.b m) →
      ∃ r : FVal → FVal → Bool, (∀ x y, r x y = true ↔ floatCondition x y o.cond.toNat) ∧
        let v (g : Group) (t : Thread) (a : Src) : FVal := decodeFlt f32P (fpmFtz g.ctl.fpm) (src32 .f32 g t a).toNat
        LaneDone (.fcmp o) s i rest 1 (fun g t => shiftLatch (putPred t o.pd (r (v g t o.a) (v g t o.b))) 0)
          fun g t => { nv := v g t o.a = .nan true || v g t o.b = .nan true }) ∧
    ((∀ m ∈ i.members, reads64 s .f64 o.a m ∧ reads64 s .f64 o.b m) →
      ∃ r : FVal → FVal → Bool, (∀ x y, r x y = true ↔ floatCondition x y o.cond.toNat) ∧
        let v (g : Group) (t : Thread) (a : Src) : FVal := decodeFlt f64P (fpmFtz64 g.ctl.fpm) (src64 .f64 g t a).toNat
        LaneDone (.dcmp o) s i rest 1 (fun g t => shiftLatch (putPred t o.pd (r (v g t o.a) (v g t o.b))) 0)
          fun g t => { nv := v g t o.a = .nan true || v g t o.b = .nan true }))

/-- R140: predicate logic, `pget` and `pset`. -/
def Obligations.PredicateResults : Prop :=
  ∀ (s : State) (i : Issue) (rest : List Issue), Head s i rest → (∀ m ∈ i.members, isMember s m) →
    (∀ e ∈ predBinary, ∀ o : PLog,
      LaneDone (e.1 o) s i rest 1 (fun _ t => shiftLatch (putPred t o.pd (e.2 (readPred t o.a) (readPred t o.b))) 0) noFlags) ∧
    (∀ o : PGet, LaneDone (.pget o) s i rest 1 (fun _ t => put32 t o.nw o.d (if readPred t o.a then 1 else 0)) noFlags) ∧
    ∀ o : PVote, (∀ m ∈ i.members, reads32 s .int o.a m) →
      LaneDone (.pset o) s i rest 1 (fun g t => shiftLatch (putPred t o.pd (src32 .int g t o.a != 0)) 0) noFlags

namespace Sys2Proof.Claims

/-- Rounded results of two operands of a format: the exact result in the mode of `fpm`, rounded once, with the flags of both (R129). -/
def roundedPair (p : FParams) (f : Nat → FVal → FVal → Exact) (fpm : Word) (a b : Nat) : Nat × Flags :=
  let ftz := if p.ebits = 11 then fpmFtz64 fpm else fpmFtz fpm
  let x := f (fpmRm fpm) (decodeFlt p ftz a) (decodeFlt p ftz b)
  let r := roundFlt p ftz false (fpmRm fpm) 0 x.1
  (r.1, orFlags x.2 r.2)

/-- Sum, difference and product of a mode (Table 6.5). -/
def sumOf (mode : Nat) (a b : FVal) : Exact := exactAdd mode a b
def differenceOf (mode : Nat) (a b : FVal) : Exact := exactAdd mode a (negVal b)
def productOf (_ : Nat) (a b : FVal) : Exact := exactMul a b

/-- Arithmetic of two FP32 operands, of two FP64 pairs, of packed FP16 and BF16 operands (Table 6.5). -/
def arith32 : List ((RBin → Instr) × (Nat → FVal → FVal → Exact)) := [(.fadd, sumOf), (.fsub, differenceOf), (.fmul, productOf)]
def arith64 : List ((RBin → Instr) × (Nat → FVal → FVal → Exact)) := [(.dadd, sumOf), (.dsub, differenceOf), (.dmul, productOf)]
def arithPacked : List ((RBin → Instr) × SrcKind × FParams × (Nat → FVal → FVal → Exact)) :=
  [(.hadd2, .f16, f16P, sumOf), (.hmul2, .f16, f16P, productOf), (.badd2, .bf16, bf16P, sumOf), (.bmul2, .bf16, bf16P, productOf)]

/-- minimumNumber of two values (R130): a number beside a NaN, a canonical NaN for two, else an operand that the other is not below,
−0 being below +0. -/
def IsMinimum (x y z : FVal) : Prop :=
  (place x = none → place y = none → z = .nan false) ∧ (place x = none → place y ≠ none → z = y) ∧
  (place x ≠ none → place y = none → z = x) ∧
  (place x ≠ none → place y ≠ none → (z = x ∨ z = y) ∧ ¬ less x z ∧ ¬ less y z ∧
    (same x y → negOf x = true ∨ negOf y = true → negOf z = true))

/-- maximumNumber of two values (R130). -/
def IsMaximum (x y z : FVal) : Prop :=
  (place x = none → place y = none → z = .nan false) ∧ (place x = none → place y ≠ none → z = y) ∧
  (place x ≠ none → place y = none → z = x) ∧
  (place x ≠ none → place y ≠ none → (z = x ∨ z = y) ∧ ¬ less z x ∧ ¬ less z y ∧
    (same x y → negOf x = false ∨ negOf y = false → negOf z = false))

/-- The encoding of a value that its format holds. -/
def encoded (p : FParams) (x : FVal) : Nat := (roundFlt p false false 0 0 x).1

/-- nv for a signalling operand, no other flag. -/
def signalling (xs : List FVal) : Flags := { nv := xs.contains (.nan true) }

/-- The operand of a format as an instruction reads it under `fpm` (R129). -/
def operand (p : FParams) (fpm : Word) (a : Nat) : FVal :=
  decodeFlt p (if p.ebits = 11 then fpmFtz64 fpm else fpmFtz fpm) a

/-- Minimum and maximum, by width (Table 6.5). -/
def extreme32 : List ((RBin → Instr) × (FVal → FVal → FVal → Prop)) := [(.fmin, IsMinimum), (.fmax, IsMaximum)]
def extreme64 : List ((RBin → Instr) × (FVal → FVal → FVal → Prop)) := [(.dmin, IsMinimum), (.dmax, IsMaximum)]
def extremePacked : List ((RBin → Instr) × SrcKind × FParams × (FVal → FVal → FVal → Prop)) :=
  [(.hmin2, .f16, f16P, IsMinimum), (.hmax2, .f16, f16P, IsMaximum), (.bmin2, .bf16, bf16P, IsMinimum), (.bmax2, .bf16, bf16P, IsMaximum)]

/-- A value with its sign bit cleared or inverted; a NaN is canonical (R142). -/
def withoutSign : FVal → FVal
  | .nan _ => .nan false
  | .inf _ => .inf false
  | .fin _ m e => .fin false m e
def withOtherSign : FVal → FVal
  | .nan _ => .nan false
  | .inf s => .inf (!s)
  | .fin s m e => .fin (!s) m e

/-- What `fsat` makes of a value: +0 for a NaN and for all that is not above zero, 1 for all that is not below one (R142). -/
def IsSaturated (x z : FVal) : Prop :=
  ((place x = none ∨ ¬ less (.fin false 0 0) x) → z = .fin false 0 0) ∧
  (less (.fin false 0 0) x → ¬ less x (.fin false 1 0) → z = .fin false 1 0) ∧
  (less (.fin false 0 0) x → less x (.fin false 1 0) → z = x)

/-- What a function of Table 5.9 answers for FP32 bits: its exact result rounded to nearest even whatever rm says, under ftz (R131). -/
def functionResult (fn : Fn) (fpm : Word) (a : Nat) : Nat × Flags :=
  let x := fnVal fn (operand f32P fpm a)
  let r := roundFlt f32P (fpmFtz fpm) false 0 0 x.1
  (r.1, orFlags x.2 r.2)

/-- A value is the number v. -/
def isNumber (x : FVal) (v : ℚ) : Prop := place x = some (v : WithTop ℚ)

end Sys2Proof.Claims

/-- R129, R141, Table 6.5: sum, difference and product of FP32 operands and of FP64 pairs, rounded once in the mode of `fpm`; the flags
go into `fpm`. -/
def Obligations.FloatArithmeticResults : Prop :=
  ∀ (o : RBin) (s : State) (i : Issue) (rest : List Issue), Head s i rest →
    ((∀ m ∈ i.members, reads32 s .f32 o.a m ∧ reads32 s .f32 o.b m) → ∀ e ∈ arith32,
      let r (g : Group) (t : Thread) := roundedPair f32P e.2 g.ctl.fpm (src32 .f32 g t o.a).toNat (src32 .f32 g t o.b).toNat
      LaneDone (e.1 o) s i rest 1 (fun g t => put32 t o.nw o.d (BitVec.ofNat 32 (r g t).1)) fun g t => (r g t).2) ∧
    ((∀ m ∈ i.members, reads64 s .f64 o.a m ∧ reads64 s .f64 o.b m) → ∀ e ∈ arith64,
      let r (g : Group) (t : Thread) := roundedPair f64P e.2 g.ctl.fpm (src64 .f64 g t o.a).toNat (src64 .f64 g t o.b).toNat
      LaneDone (e.1 o) s i rest 1 (fun g t => put64 t o.nw o.d (BitVec.ofNat 64 (r g t).1)) fun g t => (r g t).2)

/-- R112, R141, Table 6.5: the packed instructions work on each 16-bit element, low and high, and OR their flags. -/
def Obligations.PackedArithmeticResults : Prop :=
  ∀ (o : RBin) (s : State) (i : Issue) (rest : List Issue), Head s i rest → ∀ e ∈ arithPacked,
    (∀ m ∈ i.members, reads32 s e.2.1 o.a m ∧ reads32 s e.2.1 o.b m) →
    let half (k : Nat) (g : Group) (t : Thread) := roundedPair e.2.2.1 e.2.2.2 g.ctl.fpm
      ((src32 e.2.1 g t o.a).extractLsb' (16 * k) 16).toNat ((src32 e.2.1 g t o.b).extractLsb' (16 * k) 16).toNat
    LaneDone (e.1 o) s i rest 1
      (fun g t => put32 t o.nw o.d (BitVec.ofNat 16 (half 1 g t).1 ++ BitVec.ofNat 16 (half 0 g t).1))
      fun g t => orFlags (half 0 g t).2 (half 1 g t).2

/-- R130, Table 6.5: minimum and maximum return an operand, are not rounded, and set nv for a signalling NaN and no other flag.
R142: sign instructions and `fsat`: no rounding, no flag but nv for a signalling NaN. -/
def Obligations.FloatExtremeAndSignResults : Prop :=
  (∀ (o : RBin) (s : State) (i : Issue) (rest : List Issue), Head s i rest →
    (∀ e ∈ extreme32, (∀ m ∈ i.members, reads32 s .f32 o.a m ∧ reads32 s .f32 o.b m) →
      ∃ z : FVal → FVal → FVal, (∀ x y, e.2 x y (z x y)) ∧
        let v (g : Group) (t : Thread) (a : Src) := operand f32P g.ctl.fpm (src32 .f32 g t a).toNat
        LaneDone (e.1 o) s i rest 1
          (fun g t => put32 t o.nw o.d (BitVec.ofNat 32 (encoded f32P (z (v g t o.a) (v g t o.b)))))
          fun g t => signalling [v g t o.a, v g t o.b]) ∧
    (∀ e ∈ extreme64, (∀ m ∈ i.members, reads64 s .f64 o.a m ∧ reads64 s .f64 o.b m) →
      ∃ z : FVal → FVal → FVal, (∀ x y, e.2 x y (z x y)) ∧
        let v (g : Group) (t : Thread) (a : Src) := operand f64P g.ctl.fpm (src64 .f64 g t a).toNat
        LaneDone (e.1 o) s i rest 1
          (fun g t => put64 t o.nw o.d (BitVec.ofNat 64 (encoded f64P (z (v g t o.a) (v g t o.b)))))
          fun g t => signalling [v g t o.a, v g t o.b]) ∧
    ∀ e ∈ extremePacked, (∀ m ∈ i.members, reads32 s e.2.1 o.a m ∧ reads32 s e.2.1 o.b m) →
      ∃ z : FVal → FVal → FVal, (∀ x y, e.2.2.2 x y (z x y)) ∧
        let v (k : Nat) (g : Group) (t : Thread) (a : Src) :=
          operand e.2.2.1 g.ctl.fpm ((src32 e.2.1 g t a).extractLsb' (16 * k) 16).toNat
        let half (k : Nat) (g : Group) (t : Thread) := encoded e.2.2.1 (z (v k g t o.a) (v k g t o.b))
        LaneDone (e.1 o) s i rest 1
          (fun g t => put32 t o.nw o.d (BitVec.ofNat 16 (half 1 g t) ++ BitVec.ofNat 16 (half 0 g t)))
          fun g t => signalling [v 0 g t o.a, v 0 g t o.b, v 1 g t o.a, v 1 g t o.b]) ∧
  (∀ (o : RUn) (s : State) (i : Issue) (rest : List Issue), Head s i rest →
    ((∀ m ∈ i.members, reads32 s .f32 o.a m) →
      let v (g : Group) (t : Thread) := operand f32P g.ctl.fpm (src32 .f32 g t o.a).toNat
      let done (ins : Instr) (f : FVal → FVal) := LaneDone ins s i rest 1
        (fun g t => put32 t o.nw o.d (BitVec.ofNat 32 (encoded f32P (f (v g t))))) fun g t => signalling [v g t]
      done (.fabs o) withoutSign ∧ done (.fneg o) withOtherSign ∧ ∃ z, (∀ x, IsSaturated x (z x)) ∧ done (.fsat o) z) ∧
    ((∀ m ∈ i.members, reads64 s .f64 o.a m) →
      let v (g : Group) (t : Thread) := operand f64P g.ctl.fpm (src64 .f64 g t o.a).toNat
      let done (ins : Instr) (f : FVal → FVal) := LaneDone ins s i rest 1
        (fun g t => put64 t o.nw o.d (BitVec.ofNat 64 (encoded f64P (f (v g t))))) fun g t => signalling [v g t]
      done (.dabs o) withoutSign ∧ done (.dneg o) withOtherSign))

/-- R131, Table 5.9: `frcp`, `frsq`, `fsqrt`, `fexp2`, `flog2`, `fsin`, `fcos` and `ftanh` put their exact result rounded to nearest
even whatever rm says, under ftz, with their flags.
Table 5.9: special values of the functions, with the flags they raise; reciprocal and roots of a positive number lie within 2^−60 of the
exact result, relatively (an irrational result is stood for by a nearby number, log entry 13). -/
def Obligations.FunctionAndSpecialValueResults : Prop :=
  (∀ (o : RUn) (s : State) (i : Issue) (rest : List Issue), Head s i rest → (∀ m ∈ i.members, reads32 s .f32 o.a m) →
    let done (ins : Instr) (fn : Fn) : Prop :=
      Runs ins s fun s' => LaneRun s s' i rest 1
        (fun g t => put32 t o.nw o.d (BitVec.ofNat 32 (functionResult fn g.ctl.fpm (src32 .f32 g t o.a).toNat).1))
        fun g t => (functionResult fn g.ctl.fpm (src32 .f32 g t o.a).toNat).2
    done (.frcp o) .rcp ∧ done (.frsq o) .rsq ∧ done (.fsqrt o) .sqrt ∧ done (.fexp2 o) .exp2 ∧ done (.flog2 o) .log2 ∧
      done (.fsin o) .sin ∧ done (.fcos o) .cos ∧ done (.ftanh o) .tanh) ∧
  (∀ f sg, fnVal f (.nan sg) = (.nan false, { nv := sg })) ∧
  (∀ s e, fnVal .rcp (.fin s 0 e) = (.inf s, { dz := true })) ∧ (∀ s, fnVal .rcp (.inf s) = (.fin s 0 0, {})) ∧
  (∀ s e, fnVal .rsq (.fin s 0 e) = (.inf s, { dz := true })) ∧ fnVal .rsq (.inf false) = (.fin false 0 0, {}) ∧
  (∀ s e, fnVal .sqrt (.fin s 0 e) = (.fin s 0 0, {})) ∧ fnVal .sqrt (.inf false) = (.inf false, {}) ∧
  (∀ m e, m ≠ 0 → fnVal .rsq (.fin true m e) = (.nan false, { nv := true }) ∧
    fnVal .sqrt (.fin true m e) = (.nan false, { nv := true }) ∧ fnVal .log2 (.fin true m e) = (.nan false, { nv := true })) ∧
  (∀ (m : Nat) (e : Int), m ≠ 0 → let x : ℚ := m * (2 : ℚ) ^ e
    (∃ v : ℚ, isNumber (fnVal .rcp (.fin false m e)).1 v ∧ |v * x - 1| ≤ 1 / 2 ^ 60) ∧
    (∃ v : ℚ, isNumber (fnVal .sqrt (.fin false m e)).1 v ∧ 0 ≤ v ∧ |v * v / x - 1| ≤ 1 / 2 ^ 60) ∧
    ∃ v : ℚ, isNumber (fnVal .rsq (.fin false m e)).1 v ∧ 0 ≤ v ∧ |v * v * x - 1| ≤ 1 / 2 ^ 60) ∧
  fnVal .exp2 (.inf true) = (.fin false 0 0, {}) ∧ fnVal .exp2 (.inf false) = (.inf false, {}) ∧
  (∀ k : Nat, k ≤ 200 → isNumber (fnVal .exp2 (.fin false k 0)).1 ((2 : ℚ) ^ k)) ∧
  (∀ s e, fnVal .log2 (.fin s 0 e) = (.inf true, { dz := true })) ∧ fnVal .log2 (.inf false) = (.inf false, {}) ∧
  (∀ (m : Nat) (e : Int), isNumber (fnVal .log2 (.fin false (2 ^ m) e)).1 (m + e)) ∧
  (∀ s e, fnVal .sin (.fin s 0 e) = (.fin s 0 0, {})) ∧ (∀ s, fnVal .sin (.inf s) = (.nan false, { nv := true })) ∧
  (∀ s n, n ≠ 0 → fnVal .sin (.fin s n 0) = (.fin s 0 0, {})) ∧ (∀ s, fnVal .cos (.inf s) = (.nan false, { nv := true })) ∧
  (∀ s n, n % 2 = 1 → fnVal .cos (.fin s n (-1)) = (.fin false 0 0, {})) ∧
  (∀ s e, fnVal .tanh (.fin s 0 e) = (.fin s 0 0, {})) ∧ ∀ s, fnVal .tanh (.inf s) = (.fin s 1 0, {})

namespace Sys2Proof.Claims

/-- Where the guard of a thread is false an instruction leaves its destination and shifts it into l0 (R69). -/
def guarded32 (gd : Guard) (nw : Bool) (d : BitVec 7) (r : Group → Thread → Word) (g : Group) (t : Thread) : Thread :=
  if guardTrue t gd then put32 t nw d (r g t) else keep32 t nw d

/-- The same for a pair. -/
def guarded64 (gd : Guard) (nw : Bool) (d : BitVec 7) (r : Group → Thread → DWord) (g : Group) (t : Thread) : Thread :=
  if guardTrue t gd then put64 t nw d (r g t) else keep64 t nw d

/-- Flags of the threads whose guard is true (R106). -/
def guardedFlags (gd : Guard) (fl : Group → Thread → Flags) (g : Group) (t : Thread) : Flags :=
  if guardTrue t gd then fl g t else {}

/-- A thread whose guard is true reads these 32-bit sources. -/
def guardedReads32 (s : State) (gd : Guard) (as : List (SrcKind × Src)) (m : Nat × Nat) : Prop :=
  isMember s m ∧ (guardHolds s gd m → ∀ e ∈ as, reads32 s e.1 e.2 m)

/-- A thread whose guard is true reads these 64-bit sources. -/
def guardedReads64 (s : State) (gd : Guard) (as : List (SrcKind × Src)) (m : Nat × Nat) : Prop :=
  isMember s m ∧ (guardHolds s gd m → ∀ e ∈ as, reads64 s e.1 e.2 m)

/-- a × b + c rounded once, in the mode of the instruction or of `fpm` (R143). -/
def fusedResult (p : FParams) (o : FmaOp) (fpm : Word) (a b c : Nat) : Nat × Flags :=
  let mode := if o.rx then o.rm.toNat else fpmRm fpm
  let ftz := if p.ebits = 11 then fpmFtz64 fpm else fpmFtz fpm
  let x := exactFma mode (operand p fpm a) (operand p fpm b) (operand p fpm c)
  let r := roundFlt p ftz false mode 0 x.1
  (r.1, orFlags x.2 r.2)

/-- Fused multiply-add of packed elements (R143). -/
def fusedPacked : List ((FmaOp → Instr) × SrcKind × FParams) := [(.hfus2, .f16, f16P), (.bfus2, .bf16, bf16P)]

/-- `bfx` of R144. -/
def fieldExtracted (o : BfxOp) (a c : Word) : Word :=
  let w := o.width.toNat
  let f := a.toNat / 2 ^ (c.toNat % 32) % 2 ^ w
  if o.signed ∧ w < 32 ∧ 2 ^ (w - 1) ≤ f then BitVec.ofInt 32 ((f : Int) - 2 ^ w) else BitVec.ofNat 32 f

/-- `bfi` of R144. -/
def fieldInserted (o : BfiOp) (a b c : Word) : Word :=
  let m : Word := BitVec.ofNat 32 ((2 ^ o.width.toNat - 1) * 2 ^ (c.toNat % 32))
  (b &&& ~~~m) ||| (BitVec.ofNat 32 (a.toNat * 2 ^ (c.toNat % 32)) &&& m)

/-- Source bits of `cvt`: a pair for the 64-bit formats (R145). -/
def cvtBits (o : CvtOp) (g : Group) (t : Thread) : Nat :=
  if is64Fmt o.fromF then (src64 (srcKindOf o.fromF) g t o.a).toNat else (src32 (srcKindOf o.fromF) g t o.a).toNat

/-- The random bits of `cvt`: those of R128 under rm = 5. -/
def cvtRandom (o : CvtOp) (g : Group) (t : Thread) : Nat :=
  if o.rm = 5 then
    srbits g.ctl.srkey.toNat g.ctl.srn.toNat ((g.gid * g.record.threads + t.idx) % 2 ^ 32) (src32 .int g t o.c).toNat
  else 0

/-- The exact value of a constant code (Table 3.3, R74). -/
def constantValue : Src → Option FVal
  | .one => some (.fin false 1 0)
  | .half => some (.fin false 1 (-1))
  | .two => some (.fin false 2 0)
  | .int n => some (.fin (decide (n.toNat < 16)) ((n.toNat : Int) - 16).natAbs 0)
  | _ => none

/-- The result of `cvt` before it is placed (R145): a constant code in an 8-bit or 4-bit floating-point format is its exact value. -/
def cvtResult (o : CvtOp) (ff tf : Fmt) (g : Group) (t : Thread) : Nat × Flags :=
  match (if 12 ≤ o.fromF.toNat then constantValue o.a else none) with
  | some v => convertVal g.ctl.fpm tf o.rm.toNat (cvtRandom o g t) o.sat v
  | none => convert g.ctl.fpm ff tf o.rm.toNat (cvtRandom o g t) o.sat (cvtBits o g t)

end Sys2Proof.Claims

/-- R143, R69: fused multiply-add, on threads whose guard is true. -/
def Obligations.FusedResults : Prop :=
  ∀ (o : FmaOp) (s : State) (i : Issue) (rest : List Issue), Head s i rest →
    ((∀ m ∈ i.members, guardedReads32 s o.g [(.f32, o.a), (.f32, o.b), (.f32, o.c)] m) →
      let r (g : Group) (t : Thread) := fusedResult f32P o g.ctl.fpm (src32 .f32 g t o.a).toNat (src32 .f32 g t o.b).toNat
        (src32 .f32 g t o.c).toNat
      LaneDone (.ffus o) s i rest 2 (guarded32 o.g o.nw o.d fun g t => BitVec.ofNat 32 (r g t).1)
        (guardedFlags o.g fun g t => (r g t).2)) ∧
    ((∀ m ∈ i.members, guardedReads64 s o.g [(.f64, o.a), (.f64, o.b), (.f64, o.c)] m) →
      let r (g : Group) (t : Thread) := fusedResult f64P o g.ctl.fpm (src64 .f64 g t o.a).toNat (src64 .f64 g t o.b).toNat
        (src64 .f64 g t o.c).toNat
      LaneDone (.dfus o) s i rest 2 (guarded64 o.g o.nw o.d fun g t => BitVec.ofNat 64 (r g t).1)
        (guardedFlags o.g fun g t => (r g t).2)) ∧
    ∀ e ∈ fusedPacked, (∀ m ∈ i.members, guardedReads32 s o.g [(e.2.1, o.a), (e.2.1, o.b), (e.2.1, o.c)] m) →
      let half (k : Nat) (g : Group) (t : Thread) := fusedResult e.2.2 o g.ctl.fpm
        ((src32 e.2.1 g t o.a).extractLsb' (16 * k) 16).toNat ((src32 e.2.1 g t o.b).extractLsb' (16 * k) 16).toNat
        ((src32 e.2.1 g t o.c).extractLsb' (16 * k) 16).toNat
      LaneDone (e.1 o) s i rest 2
        (guarded32 o.g o.nw o.d fun g t => BitVec.ofNat 16 (half 1 g t).1 ++ BitVec.ofNat 16 (half 0 g t).1)
        (guardedFlags o.g fun g t => orFlags (half 0 g t).2 (half 1 g t).2)

/-- R144, R69: multiply-add, select and bit fields, on threads whose guard is true. -/
def Obligations.SelectAndBitFieldResults : Prop :=
  ∀ (s : State) (i : Issue) (rest : List Issue), Head s i rest →
    (∀ o : MadOp, (∀ m ∈ i.members, guardedReads32 s o.g [(.int, o.a), (.int, o.b), (.int, o.c)] m) →
      LaneDone (.imad o) s i rest 2 (guarded32 o.g o.nw o.d fun g t =>
        BitVec.ofNat 32 ((src32 .int g t o.a).toNat * (src32 .int g t o.b).toNat + (src32 .int g t o.c).toNat)) noFlags) ∧
    (∀ o : SelOp, (∀ m ∈ i.members, guardedReads32 s o.g [(.int, o.a), (.int, o.b)] m) →
      LaneDone (.sel o) s i rest 2 (guarded32 o.g o.nw o.d fun g t =>
        if readPred t o.p then src32 .int g t o.a else src32 .int g t o.b) noFlags) ∧
    (∀ o : BfxOp, (∀ m ∈ i.members, guardedReads32 s o.g [(.int, o.a), (.int, o.c)] m) →
      LaneDone (.bfx o) s i rest 2 (guarded32 o.g o.nw o.d fun g t => fieldExtracted o (src32 .int g t o.a) (src32 .int g t o.c))
        noFlags) ∧
    ∀ o : BfiOp, (∀ m ∈ i.members, guardedReads32 s o.g [(.int, o.a), (.int, o.b), (.int, o.c)] m) →
      LaneDone (.bfi o) s i rest 2 (guarded32 o.g o.nw o.d fun g t =>
        fieldInserted o (src32 .int g t o.a) (src32 .int g t o.b) (src32 .int g t o.c)) noFlags

/-- R145, R112, R128: `cvt` converts, rounds under its own code, and places the result in a register or a pair. -/
def Obligations.ConversionResults : Prop :=
  ∀ (o : CvtOp) (s : State) (i : Issue) (rest : List Issue) (ff tf : Fmt), Head s i rest →
    fmtOf o.fromF.toNat = some ff → fmtOf o.toF.toNat = some tf →
    (∀ m ∈ i.members, guardedReads32 s o.g (if o.rm = 5 then [(.int, o.c)] else []) m) →
    (∀ m ∈ i.members, if is64Fmt o.fromF then guardedReads64 s o.g [(srcKindOf o.fromF, o.a)] m
      else guardedReads32 s o.g [(srcKindOf o.fromF, o.a)] m) →
    if is64Fmt o.toF then
      LaneDone (.cvt o) s i rest 2
        (guarded64 o.g o.nw o.d fun g t => BitVec.ofNat 64 (placeResult tf (cvtResult o ff tf g t).1))
        (guardedFlags o.g fun g t => (cvtResult o ff tf g t).2)
    else
      LaneDone (.cvt o) s i rest 2
        (guarded32 o.g o.nw o.d fun g t => BitVec.ofNat 32 (placeResult tf (cvtResult o ff tf g t).1))
        (guardedFlags o.g fun g t => (cvtResult o ff tf g t).2)

/-- R137, R146, R147, R164: `nop`, the constants, the random bits and the clock. -/
def Obligations.ConstantRandomAndClockResults : Prop :=
  ∀ (s : State) (i : Issue) (rest : List Issue), Head s i rest → (∀ m ∈ i.members, isMember s m) →
    LaneDone .nop s i rest 1 (fun _ t => shiftLatch t 0) noFlags ∧
    (∀ o : ImmOp, LaneDone (.movi o) s i rest 2 (fun _ t => put32 t o.nw o.d o.imm) noFlags) ∧
    (∀ o : ImmOp, (∀ m ∈ i.members, reads32 s .int o.a m) →
      LaneDone (.iaddi o) s i rest 2
        (fun g t => put32 t o.nw o.d (BitVec.ofNat 32 ((src32 .int g t o.a).toNat + o.imm.toNat))) noFlags) ∧
    (∀ o : MadOp, (∀ m ∈ i.members, guardedReads64 s o.g [(.int, o.a)] m ∧ guardedReads32 s o.g [(.int, o.b), (.int, o.c)] m) →
      LaneDone (.rnd o) s i rest 2 (guarded32 o.g o.nw o.d fun g t =>
        let a := src64 .int g t o.a
        BitVec.ofNat 32 (srbits (a.extractLsb' 32 32).toNat (a.extractLsb' 0 32).toNat (src32 .int g t o.b).toNat
          (src32 .int g t o.c).toNat)) noFlags) ∧
    ∀ o : ClkOp, LaneDone (.clkr o) s i rest 1 (fun _ t => put64 t o.nw o.d (BitVec.ofNat 64 s.devtime)) noFlags

/-- R150, R94, R75: windows, index registers, and `xput` inside the window. R66, R134, R69: what `put` and a false guard do to a thread's
registers and latches. -/
def Obligations.IndexRegistersAndPut : Prop :=
  (∀ (s : State) (i : Issue) (rest : List Issue), Head s i rest →
    (∀ o : WinOp, (∀ m ∈ i.members, reads32 s .int o.a m ∧ reads32 s .int o.b m) →
      LaneDone (.xwin o) s i rest 1 (fun g t => shiftLatch
        { t with
          winLo := BitVec.ofNat 7 (min (src32 .int g t o.a).toNat 127)
          winHi := BitVec.ofNat 7 (min (src32 .int g t o.b).toNat (g.regCount - 1)) } 0) noFlags) ∧
    (∀ o : IdxOp, (∀ m ∈ i.members, reads32 s .int o.a m) →
      LaneDone (.xset o) s i rest 1
        (fun g t => shiftLatch { t with x := t.x.set o.k.toNat ((src32 .int g t o.a).setWidth 7) } 0) noFlags) ∧
    ∀ o : IdxOp, (∀ m ∈ i.members, reads32 s .int o.a m ∧ inWindow s o.k m) →
      LaneDone (.xput o) s i rest 1
        (fun g t => shiftLatch (setReg t (t.x.getD o.k.toNat 0).toNat (src32 .int g t o.a)) 0) noFlags) ∧
  (∀ (t : Thread) (d : BitVec 7),
    (∀ x : Word, (put32 t false d x).regs = t.regs.set d.toNat x ∧ (put32 t true d x).regs = t.regs ∧
      ∀ nw, (put32 t nw d x).l0 = x.setWidth 64 ∧ (put32 t nw d x).l1 = t.l0) ∧
    (∀ x : DWord, (put64 t false d x).regs = (t.regs.set d.toNat (x.extractLsb' 0 32)).set (d.toNat + 1) (x.extractLsb' 32 32) ∧
      (put64 t true d x).regs = t.regs ∧ ∀ nw, (put64 t nw d x).l0 = x ∧ (put64 t nw d x).l1 = t.l0) ∧
    (keep32 t false d).l0 = (regOf t d.toNat).setWidth 64 ∧ (keep32 t true d).l0 = 0 ∧
    (keep64 t false d).l0 = regOf t (d.toNat + 1) ++ regOf t d.toNat ∧ (keep64 t true d).l0 = 0 ∧
    ∀ nw, keep32 t nw d = { t with l0 := (keep32 t nw d).l0, l1 := t.l0 } ∧
      keep64 t nw d = { t with l0 := (keep64 t nw d).l0, l1 := t.l0 })

/-- R127: `srbits` as its rounds compute it. -/
def Obligations.RandomBitsFollowTheRounds : Prop :=
  ∀ k n i j : Word,
    let round (x : DWord) : DWord :=
      let x := x ^^^ (x >>> 32)
      let x := x * 0xE27B4D19A6C358F1#64
      x ^^^ (x >>> 29)
    let x : DWord := (k ++ n) ^^^ ((i ++ j) * 0x9A3F6C1D52E8B7A5#64)
    BitVec.ofNat 32 (srbits k.toNat n.toNat i.toNat j.toNat) = (round (round (round x))).extractLsb' 32 32

namespace Sys2Proof.Claims

/-- Affine instructions of two affine sources, of one, with an immediate: the new base and stride (Table 6.9). -/
def affineBinary : List ((AffBin → Instr) × (Affine → Affine → Affine)) :=
  [(.aadd, fun a b => { base := a.base + b.base, stride := a.stride + b.stride }),
   (.asub, fun a b => { base := a.base - b.base, stride := a.stride - b.stride }),
   (.amul, fun a b => { base := a.base * b.base, stride := BitVec.ofNat 32 (a.stride.toNat * b.base.toNat) })]
def affineImmediate : List ((AffImm → Instr) × (Affine → Word → Affine)) :=
  [(.aaddi, fun a imm => { base := a.base + imm.signExtend 64, stride := a.stride }),
   (.amuli, fun a imm => { base := a.base * imm.signExtend 64, stride := a.stride * imm })]

/-- Affine register d of a group replaced. -/
def withAffine (d : BitVec 4) (f : Group → Affine) (g : Group) : Group := { g with affine := g.affine.set d.toNat (f g) }

/-- Sources of `aset` in the members of a group: thread index and signed value (R149). -/
def asetValues (s : State) (i : Issue) (gk : Nat) (a : Src) : List (Nat × Int) :=
  (i.members.filter fun m => m.1 == gk).filterMap fun m =>
    (memberOf s m).map fun e => (m.2, (src32 .int e.1 e.2 a).toInt)

/-- An affine register reproduces the sources: base B and stride S in range with s(t) = B + S × t for every thread present (R149);
one thread alone gets stride 0. -/
def Fits (vs : List (Nat × Int)) (x : Affine) : Prop :=
  ∃ b st : Int, x = { base := BitVec.ofInt 64 b, stride := BitVec.ofInt 32 st } ∧ -(2 ^ 31) ≤ st ∧ st < 2 ^ 31 ∧
    (∀ e ∈ vs, e.2 = b + st * e.1) ∧ (vs.length = 1 → st = 0)

/-- A group alone in an issue group in which every live thread of it stands, as a converging instruction issues (R36, R151). -/
structure Converged (s : State) (i : Issue) (rest : List Issue) (g : Group) : Prop where
  head : Head s i rest
  group : groupOf s g.gk = some g
  fresh : i.stale = []
  start : Unbegun i
  member : ∀ m, m ∈ i.members ↔ m.1 = g.gk ∧ ∃ t, threadOf g m.2 = some t ∧ t.status ≠ .exited
  distinct : (g.threads.map fun t => t.idx).Nodup

/-- The source of the live thread with an index; 0 when no live thread has it (R151). -/
def sourceOf (k : SrcKind) (g : Group) (a : Src) (u : Nat) : Word :=
  match threadOf g u with
  | some t => if t.status = .exited then 0 else src32 k g t a
  | none => 0

/-- Every live thread of a group reads a source. -/
def allRead (g : Group) (a : Src) : Prop :=
  ∀ t ∈ g.threads, t.status ≠ .exited → readSrc32 .int g t a = .ok (src32 .int g t a)

/-- Bit i of the ballot of a quarter: the live thread 32 × quarter + i has a source that is not zero (R155). -/
def IsBallot (g : Group) (a : Src) (quarter : Nat) (w : Word) : Prop :=
  ∀ i < 32, w.getLsbD i = true ↔ ∃ t ∈ g.threads, t.status ≠ .exited ∧ t.idx = 32 * quarter + i ∧ src32 .int g t a ≠ 0

end Sys2Proof.Claims

/-- R148, Table 6.9: an affine instruction writes its affine register in each group of the issue group, once, and no lane register.
R149: `aset` writes the base and stride that reproduce the sources of a group's members, in each group of the issue group. -/
def Obligations.AffineRegisterResults : Prop :=
  (∀ (s : State) (i : Issue) (rest : List Issue), Head s i rest → (∀ m ∈ i.members, isMember s m) →
    let done (ins : Instr) (w : Nat) (d : BitVec 4) (f : Group → Affine) :=
      Runs ins s fun s' => GroupsRun s s' i rest w (fun _ t => shiftLatch t 0) (withAffine d f)
    (∀ e ∈ affineBinary, ∀ o : AffBin, done (e.1 o) 1 o.d fun g => e.2 (affOf g o.a.toNat) (affOf g o.b.toNat)) ∧
    (∀ o : AffUn, done (.amov o) 1 o.d fun g => affOf g o.a.toNat) ∧
    (∀ o : AffShl, done (.ashl o) 1 o.d fun g =>
      { base := BitVec.ofNat 64 ((affOf g o.a.toNat).base.toNat * 2 ^ o.n.toNat)
        stride := BitVec.ofNat 32 ((affOf g o.a.toNat).stride.toNat * 2 ^ o.n.toNat) }) ∧
    (∀ o : AffMovi, done (.amovi o) 2 o.d fun _ => { base := o.imm.setWidth 64, stride := o.stride.signExtend 32 }) ∧
    ∀ e ∈ affineImmediate, ∀ o : AffImm, done (e.1 o) 2 o.d fun g => e.2 (affOf g o.a.toNat) o.imm) ∧
  (∀ (o : AffSet) (s : State) (i : Issue) (rest : List Issue), Head s i rest → (∀ m ∈ i.members, reads32 s .int o.a m) →
    (∀ gk, (asetValues s i gk o.a).Pairwise fun x y => x.1 < y.1) →
    (∀ gk, takesPart i gk → ∃ x, Fits (asetValues s i gk o.a) x) →
    ∃ x : Nat → Affine, (∀ gk, takesPart i gk → Fits (asetValues s i gk o.a) (x gk)) ∧
      Runs (.aset o) s fun s' => GroupsRun s s' i rest 1 (fun _ t => shiftLatch t 0) (fun g => withAffine o.d (fun _ => x g.gk) g))

/-- R151 to R153: `shfl` and `xbar` put the source of another live thread of the group.
R155: votes and ballots over the live threads of a group. -/
def Obligations.CrossLaneAndVoteResults : Prop :=
  (∀ (s : State) (i : Issue) (rest : List Issue) (g : Group), Converged s i rest g →
    (∀ o : RBin, allRead g o.a → allRead g o.b →
      LaneDone (.shfl o) s i rest 1
        (fun g t => put32 t o.nw o.d (sourceOf .int g o.a (src32 .int g t o.b).toNat)) noFlags) ∧
    ∀ o : XBarOp, allRead g o.a →
      LaneDone (.xbar o) s i rest 1
        (fun g t => put32 t o.nw o.d (sourceOf .int g o.a (32 * (t.idx / 32) + patternOf g o.slot.toNat t.idx))) noFlags) ∧
  (∀ (s : State) (i : Issue) (rest : List Issue) (g : Group), Converged s i rest g →
    (∀ o : PVote, allRead g o.a →
      (∃ b : Bool, (b = true ↔ ∃ t ∈ g.threads, t.status ≠ .exited ∧ src32 .int g t o.a ≠ 0) ∧
        LaneDone (.vany o) s i rest 1 (fun _ t => shiftLatch (putPred t o.pd b) 0) noFlags) ∧
      ∃ b : Bool, (b = true ↔ ∀ t ∈ g.threads, t.status ≠ .exited → src32 .int g t o.a ≠ 0) ∧
        LaneDone (.vall o) s i rest 1 (fun _ t => shiftLatch (putPred t o.pd b) 0) noFlags) ∧
    ∀ o : RUn, allRead g o.a → ∃ w : Nat → Word, (∀ q, IsBallot g o.a q (w q)) ∧
      LaneDone (.ballot o) s i rest 1 (fun _ t => put32 t o.nw o.d (w (t.idx / 32))) noFlags)

/-- R156, R158, R161: `br`, `jmpr` and `yield` set the program counter of the threads whose guard is true; the others go on at the next
clause. -/
def Obligations.TransfersSetTheProgramCounter : Prop :=
  ∀ (s : State) (i : Issue) (rest : List Issue), LastWord s i rest →
    (∀ o : Branch, Runs (.br o) s fun s' => Transfers s s' i rest fun _ t =>
      if guardTrue t o.g then i.hdr + BitVec.ofInt 64 (4 * o.off.toInt) else nextClause i) ∧
    (∀ o : JumpReg, (∀ m ∈ i.members, ∀ g t, memberOf s m = some (g, t) → guardTrue t o.g →
        reads64 s .int o.a m ∧ (src64 .int g t o.a).toNat % 4 = 0 ∧ (src64 .int g t o.a).toNat < 2 ^ 57) →
      Runs (.jmpr o) s fun s' => Transfers s s' i rest fun g t => if guardTrue t o.g then src64 .int g t o.a else nextClause i) ∧
    ∀ gd : Guard, Runs (.yield gd) s fun s' => Transfers s s' i rest fun _ _ => nextClause i

namespace Sys2Proof.Claims

/-- `hinfo` of a fault (Table 4.4): class, index, subcore, lane, detail. -/
def faultInformation (cls index subcore lane detail : Nat) : Word :=
  BitVec.ofNat 11 detail ++ BitVec.ofNat 5 lane ++ (0 : BitVec 2) ++ BitVec.ofNat 2 subcore ++ BitVec.ofNat 4 index ++ BitVec.ofNat 8 cls

/-- Subcore and lane of a thread (R27, R28): a group of more than 32 threads has 32 on each subcore from subcore 0. -/
def subcoreNumber (g : Group) (k : Nat) : Nat := if g.record.threads > 32 then k / 32 else g.subBase
def laneNumber (g : Group) (k : Nat) : Nat := if g.record.threads > 32 then k % 32 else g.laneBase + k

/-- The route code of a class in the routing registers of a partition (R410). -/
def codeOf (p : Partition) (cls : Nat) : Nat := (p.route1 ++ p.route0).toNat / 2 ^ (2 * cls) % 4

/-- R411: the five rules in order, each on what the one before left. -/
def routeByRules (p : Partition) (hpcdef cls : Nat) (inKernel inSup : Bool) : Nat :=
  let r1 := if (cls = 18 ∨ cls = 19) ∧ codeOf p cls = 0 then 1 else codeOf p cls
  let r2 := if inSup ∧ r1 ≠ 3 then 2 else r1
  let r3 := if r2 = 0 ∧ (hpcdef = 0 ∨ inKernel) then 1 else r2
  let r4 := if r3 = 1 ∧ p.svpc = 0 then 2 else r3
  if r4 = 2 ∧ (p.qsize.toNat % 16 = 0 ∨ p.fqbase = 0) then 3 else r4

/-- One thread takes a fault at a site: it stands in no issue group and no other thread of its group is in a handler. -/
structure TakesFault (s : State) (m : Nat × Nat) (g : Group) (t : Thread) : Prop where
  group : groupOf s m.1 = some g
  thread : threadOf g m.2 = some t
  apart : apart s.issues m
  alone : ∀ u ∈ g.threads, u.idx ≠ m.2 → u.inKernel = false ∧ u.inSup = false
  lane : laneNumber g m.2 < 32

/-- The thread continues at a handler's entry (R412). -/
def entered (t : Thread) (pc : DWord) (a : Nat) : Thread :=
  { t with pc := pc, hdr := pc, status := .ready, age := a, clause := none, l0 := 0, l1 := 0 }

/-- A memory-type fault makes its handler emulate the access (R273). -/
def emulates (f : FaultInfo) : Option DWord := if f.cls = 12 then some f.va else none

/-- What a thread that returns from a handler to an address is (R162, R169): in the clause of the fault when the address is a word of it,
with its arrivals at barriers in the handler's last clause counted as that clause's; else at a header, parked on the barriers at which
it arrived in the two clauses that it has left. `e` is the thread but for its place and its barriers. -/
def returned (t : Thread) (cl : DWord × Nat) (pc : DWord) (e t' : Thread) : Prop :=
  if cl.1.toNat < pc.toNat ∧ pc.toNat ≤ cl.1.toNat + 4 * cl.2 then
    t' = { e with hdr := cl.1, bars := t.bars.map fun x => if x.2 = t.hdr then (x.1, cl.1) else x }
  else
    let left := t.bars.filter fun x => x.2 = t.hdr ∨ x.2 = cl.1
    (∀ b < 4, t'.parkedOn.getLsbD b = (t.parkedOn.getLsbD b || left.any fun x => x.1 = b)) ∧
    t' = { e with
      hdr := pc, bars := t.bars.filter fun x => x.2 ≠ t.hdr ∧ x.2 ≠ cl.1, parkedOn := t'.parkedOn
      status := if left = [] then .ready else .atBar }

/-- What `bar` does at the one member of an issue group, once its release has made s1 of the state. -/
def BarArrives (b : BitVec 2) (s s1 : State) (i : Issue) (m : Nat × Nat) (g1 : Group) (t1 : Thread) : Prop :=
  let again := t1.arrived.getLsbD b.toNat
  let count := g1.barriers.getD b.toNat 0 + if again then 0 else 1
  let arrivedNow : Thread := { t1 with arrived := t1.arrived ||| (1#4 <<< b.toNat), bars := t1.bars ++ [(b.toNat, t1.hdr)] }
  let live := (g1.threads.filter fun u => u.status != .exited).length
  (count ≠ live → Runs (.bar b) s fun s' =>
    (∃ t', threadAt s' m = some t' ∧ afterWords i 1 m (shiftLatch arrivedNow 0) t') ∧ (∀ n, n ≠ m → threadAt s' n = threadAt s1 n) ∧
    ∃ ts, groupOf s' m.1 = some { g1 with threads := ts, barriers := g1.barriers.set b.toNat count }) ∧
  (count = live → again = false → Runs (.bar b) s fun s' => ∃ g', groupOf s' m.1 = some g' ∧ g'.barriers.getD b.toNat 0 = 0 ∧
    (∀ u ∈ g'.threads, u.arrived.getLsbD b.toNat = false) ∧
    ∀ u ∈ g1.threads, u.idx ≠ m.2 → u.status = .atBar → u.parkedOn = 1#4 <<< b.toNat →
      ∃ u' ∈ g'.threads, u'.idx = u.idx ∧ u'.status = .ready ∧ u'.parkedOn = 0)

/-- The counters of Table 17.4, as a thread of a group reads them. -/
def counterValue (s : State) (g : Group) (n : Nat) : Nat :=
  if n = 0 then s.devtime
  else if n = 1 then s.ck
  else if n = 2 ∨ n = 3 then (outOf s (n - 2)).late
  else if n = 4 ∨ n = 5 then (outOf s (n - 4)).stale
  else if n = 6 ∨ n = 7 then (outOf s (n - 6)).scanned
  else if 16 ≤ n ∧ n ≤ 31 then (coreOf s g.core).pc.getD (n - 16) 0
  else if 128 ≤ n ∧ n ≤ 131 then (dieOf s (g.core / 48)).errors.getD (n - 128) 0
  else if n = 132 then (partOf s g.record.part).dropped
  else 0

/-- A user may read these control registers (R103, Table 4.2); a supervisor those of its partition too. -/
def mayRead (s : State) (g : Group) (t : Thread) (n : Nat) : Prop :=
  if t.inSup then n < 0x200 ∨ outside s g.record.part n = false
  else n < 0x200 ∧ n ∉ [0x006, 0x007, 0x00D, 0x00E, 0x00F]

/-- What `ctlr` of register n makes of a thread. -/
def readControl (o : TaskOp) (n : Nat) (s : State) (g : Group) (t : Thread) : Thread :=
  if guardTrue t o.g then
    put32 (if n = 0x280 then { t with timeHi := some (BitVec.ofNat 32 (s.devtime / 2 ^ 32)) } else t) false o.d (ctlValue s g t n)
  else keep32 t false o.d

/-- Group-scope registers of Table 4.2 that hold any value written to them. -/
def plainRegisters : List Nat :=
  [0x001, 0x002, 0x006, 0x007, 0x008, 0x009, 0x00A, 0x00B, 0x00C, 0x00D, 0x00E, 0x00F]

end Sys2Proof.Claims

/-- R157: `call` reads the depth D, writes the return address into entry D and D + 1 into word 0, and goes to its target. The frame words
are accessed through `frameWord`, `frameTargets` and `frameStores`, the thread's own loads and stores.
R157: `ret` with a depth D above 0 reads entry D − 1, writes D − 1 into word 0 and goes to the address, when it is a code address. -/
def Obligations.CallAndReturnResults : Prop :=
  (∀ (o : Branch) (s s0 s1 s2 : State) (i : Issue) (rest : List Issue) (m : Nat × Nat) (g : Group) (t : Thread) (d : Nat)
    (tgs : List Target), LastWord s i rest → Alone s i rest m g t → guardTrue t o.g = true →
    performThread s g.gk t.idx = s0 → frameWord s0 g t 0 = (s1, .ok d) → frameTargets s1 g t [0, 2 + 2 * d, 3 + 2 * d] = (s2, .ok tgs) →
    let vals := [(d + 1) % 2 ^ 32, ((nextClause i).extractLsb' 0 32).toNat, ((nextClause i).extractLsb' 32 32).toNat]
    let s3 := frameStores s2 g t (tgs.zip vals)
    s3.issues = s.issues → (∃ t3, threadAt s3 m = some t3 ∧ t3.status = .issuing ∧ NoBars i.hdr t3) →
    Runs (.call o) s fun s' => Goes s3 s' rest m (i.hdr + BitVec.ofInt 64 (4 * o.off.toInt))) ∧
  (∀ (gd : Guard) (s s0 s1 s2 s3 s4 : State) (i : Issue) (rest : List Issue) (m : Nat × Nat) (g : Group) (t : Thread) (d lo hi : Nat)
    (tgs : List Target), LastWord s i rest → Alone s i rest m g t → guardTrue t gd = true →
    performThread s g.gk t.idx = s0 → frameWord s0 g t 0 = (s1, .ok d) → 0 < d →
    frameWord s1 g t (2 * d) = (s2, .ok lo) → frameWord s2 g t (2 * d + 1) = (s3, .ok hi) →
    (lo + 2 ^ 32 * hi) % 4 = 0 → lo + 2 ^ 32 * hi < 2 ^ 57 → frameTargets s3 g t [0] = (s4, .ok tgs) →
    let s5 := frameStores s4 g t (tgs.zip [d - 1])
    s5.issues = s.issues → (∃ t5, threadAt s5 m = some t5 ∧ t5.status = .issuing ∧ NoBars i.hdr t5) →
    Runs (.ret gd) s fun s' => Goes s5 s' rest m (BitVec.ofNat 64 (lo + 2 ^ 32 * hi)))

/-- R159: `exit` of a thread whose counters are zero ends the thread; with the last live thread the group has exited. -/
def Obligations.ExitEndsTheThread : Prop :=
  ∀ (gd : Guard) (s : State) (i : Issue) (rest : List Issue) (m : Nat × Nat) (g : Group) (t : Thread),
    Alone s i rest m g t → guardTrue t gd = true → (∀ n ∈ t.w, n = 0) → t.deferred = [] →
    Runs (.exit gd) s fun s' => (∃ t', threadAt s' m = some t' ∧ t'.status = .exited) ∧
      ((∀ u ∈ g.threads, u.idx ≠ m.2 → u.status = .exited) → ∃ g', groupOf s' m.1 = some g' ∧ g'.run = .exited)

/-- R160, R65: `brk` raises class 20 and `trap` class 21, with the code's low 11 bits as detail and the next clause as address; the
thread takes it at the instruction and leaves its issue group. -/
def Obligations.TrapsRaiseTheirFault : Prop :=
  ∀ (o : TrapOp) (s : State) (i : Issue) (rest : List Issue) (m : Nat × Nat) (g : Group) (t : Thread),
    Alone s i rest m g t → guardTrue t o.g = true →
    let site : FaultSite :=
      { pc := i.hdr + BitVec.ofNat 64 (4 * (i.off + 1)), index := i.done + 1, hdr := i.hdr, n := i.words.length }
    let f (cls : Nat) : FaultInfo := { cls := cls, va := nextClause i, detail := o.code.toNat % 2 ^ 11 }
    exec (.brk o) s = .next (takeFaults { s with issues := rest } site [{ gk := m.1, tid := m.2, f := f 20 }]) ∧
    exec (.trap o) s = .next (takeFaults { s with issues := rest } site [{ gk := m.1, tid := m.2, f := f 21 }])

/-- R107, R412: on route 0 the thread writes `hpc`, `hinfo` and `hva` and continues at hpcdef, in its kernel handler.
R412: on route 1 the thread writes `svpcr`, `svinfo` and `svva` and continues at `svpc` at supervisor privilege; `hpc`, `hinfo` and
`hva` are kept. -/
def Obligations.HandlerEntrySavesAndContinues : Prop :=
  (∀ (s : State) (site : FaultSite) (m : Nat × Nat) (g : Group) (t : Thread) (f : FaultInfo), TakesFault s m g t → f.cls < 32 →
    routeByRules (partOf s g.record.part) g.kd.hpcdef f.cls t.inKernel t.inSup = 0 →
    ∃ a, Changed s (takeFaults s site [{ gk := m.1, tid := m.2, f := f }]) m
      { entered t (BitVec.ofNat 64 g.kd.hpcdef) a with
        inKernel := true, kClause := (site.hdr, site.n), emulK := emulates f }
      fun g => { g with ctl := { g.ctl with
        hpc := site.pc, hva := f.va
        hinfo := faultInformation f.cls site.index (subcoreNumber g m.2) (laneNumber g m.2) f.detail } }) ∧
  (∀ (s : State) (site : FaultSite) (m : Nat × Nat) (g : Group) (t : Thread) (f : FaultInfo), TakesFault s m g t → f.cls < 32 →
    routeByRules (partOf s g.record.part) g.kd.hpcdef f.cls t.inKernel t.inSup = 1 →
    ∃ a, Changed s (takeFaults s site [{ gk := m.1, tid := m.2, f := f }]) m
      { entered t (partOf s g.record.part).svpc a with
        inSup := true, sClause := (site.hdr, site.n), emulS := emulates f }
      fun g => { g with ctl := { g.ctl with
        svpcr := site.pc, svva := f.va
        svinfo := faultInformation f.cls site.index (subcoreNumber g m.2) (laneNumber g m.2) f.detail } })

/-- R413: on route 3 the group fails: every thread of it stops, it leaves every issue group, and its grid's failure is noted.
R414: on route 2 the thread parks at the faulting word and one fault record waits to be written for it: information, address, pc, task,
group, lanes, core, subcore, world and privilege. -/
def Obligations.FatalAndHostRoutes : Prop :=
  (∀ (s : State) (site : FaultSite) (m : Nat × Nat) (g : Group) (t : Thread) (f : FaultInfo), TakesFault s m g t → f.cls < 32 → g.failed = false →
    routeByRules (partOf s g.record.part) g.kd.hpcdef f.cls t.inKernel t.inSup = 3 →
    let s' := takeFaults s site [{ gk := m.1, tid := m.2, f := f }]
    (∃ g', groupOf s' m.1 = some g' ∧ g'.failed = true ∧ g'.run = .exited ∧ ∀ u ∈ g'.threads, u.status = .exited) ∧
      ∀ i ∈ s'.issues, ∀ n ∈ i.members, n.1 ≠ m.1) ∧
  (∀ (s : State) (site : FaultSite) (m : Nat × Nat) (g : Group) (t : Thread) (f : FaultInfo), TakesFault s m g t → f.cls < 32 →
    subcoreNumber g m.2 < 4 →
    routeByRules (partOf s g.record.part) g.kd.hpcdef f.cls t.inKernel t.inSup = 2 →
    let s' := takeFaults s site [{ gk := m.1, tid := m.2, f := f }]
    (∃ t', threadAt s' m = some t' ∧
      t' = { t with pc := site.pc, hdr := site.hdr, clause := none, status := .parked none }) ∧
    ∃ ws, (partOf s' g.record.part).parked =
        (partOf s g.record.part).parked ++ [{ seq := none, words := ws, members := [m], firsts := [(m.1,
          faultInformation f.cls site.index (subcoreNumber g m.2) (laneNumber g m.2) f.detail, f.va)] }] ∧
      ws = [BitVec.setWidth 64 (faultInformation f.cls site.index (subcoreNumber g m.2) (laneNumber g m.2) f.detail) <<< 32, f.va, site.pc,
        BitVec.ofNat 64 (g.record.taskid + 2 ^ 32 * g.gid),
        BitVec.ofNat 64 (2 ^ laneNumber g m.2 + 2 ^ 32 * g.core + 2 ^ 40 * subcoreNumber g m.2 + 2 ^ 42 * g.record.world.toNat +
          2 ^ 43 * t.inSup.toNat), 0, 0, 0])

/-- R411: the route of a fault is the code of its class changed by the five rules, each applied to what the one before left (log entry
54). -/
def Obligations.RoutesFollowTheRules : Prop :=
  ∀ (s : State) (g : Group) (t : Thread) (cls : Nat), cls < 32 →
    routeOf s g t cls = routeByRules (partOf s g.record.part) g.kd.hpcdef cls t.inKernel t.inSup

/-- R169, R412: `sret` leaves the supervisor routine first, else the kernel handler, and resumes at the saved address: in the clause of the
fault when the address is a word of it, else at a header. What becomes of its arrivals at barriers in the clauses it leaves is the
model's reading of R162 (log entry 57). No thread waits for the handler. -/
def Obligations.HandlerReturnResumes : Prop :=
  ∀ (o : TaskOp) (s : State) (i : Issue) (rest : List Issue) (m : Nat × Nat) (g : Group) (t : Thread),
    Alone s i rest m g t → guardTrue t o.g = true → apart rest m →
    (∀ u ∈ g.threads, ∀ k f b, u.status ≠ .waitHandler k f b) →
    (t.inSup = true → let pc := g.ctl.svpcr
      Runs (.sret o) s fun s' => ∃ a t', returned t t.sClause pc { entered t pc a with inSup := false, emulS := none } t' ∧
        Changed { s with issues := rest } s' m t' id) ∧
    (t.inSup = false → t.inKernel = true → let pc := g.ctl.hpc
      Runs (.sret o) s fun s' => ∃ a t', returned t t.kClause pc { entered t pc a with inKernel := false, emulK := none } t' ∧
        Changed { s with issues := rest } s' m t' id)

/-- R162, R163: a thread that arrives at a barrier releases, is counted once until the barrier opens, and parks after its clause; the
last arrival opens the barrier, and the threads parked on it alone become ready. A thread parked on two barriers waits for both, which is
the model's choice (log entry 57). With no operation of the thread outstanding the release leaves every thread as it is. -/
def Obligations.BarrierArrivalAndOpening : Prop :=
  ∀ (b : BitVec 2) (s : State) (i : Issue) (rest : List Issue) (m : Nat × Nat) (g : Group) (t : Thread), Alone s i rest m g t →
    (∀ g0, groupOf s m.1 = some g0 → b.toNat < g0.barriers.length → idle s m →
      BarArrives b s s i m g0 t) ∧
    let s1 := releaseThread s m.1 m.2
    s1.issues = s.issues → ∀ g1 t1, groupOf s1 m.1 = some g1 → threadOf g1 m.2 = some t1 → b.toNat < g1.barriers.length →
      BarArrives b s s1 i m g1 t1

/-- R165, R103: `ctlr` puts the value of a control register that the thread may read; a read of 0x280 keeps the high half of the time
beside it (R398). -/
def Obligations.ControlRegisterReads : Prop :=
  ∀ (o : TaskOp) (s : State) (i : Issue) (rest : List Issue), Head s i rest →
    let n := o.imm.toNat % 2 ^ 12
    (∀ m ∈ i.members, ∃ g t, memberOf s m = some (g, t) ∧ (guardTrue t o.g → mayRead s g t n)) →
    LaneDone (.ctlr o) s i rest 2 (readControl o n s) noFlags

namespace Sys2Proof.Claims

/-- `fpm` after a write (Table 4.3, R105): rm keeps its value when the written one is above 3, ftz and ftz64 follow the value, a flag
clears where the value has a one, and reserved bits read zero. -/
def IsModeWritten (old v new : Word) : Prop :=
  new.toNat % 8 = (if v.toNat % 8 < 4 then v.toNat % 8 else old.toNat % 8) ∧
  ∀ k, 3 ≤ k → new.getLsbD k =
    (if k = 3 ∨ k = 4 then v.getLsbD k else if 8 ≤ k ∧ k ≤ 12 then old.getLsbD k && !v.getLsbD k else false)

/-- What group-scope register n reads after a write of v (Table 4.2, R105, R6). -/
def IsWritten (n : Nat) (old v new : Word) : Prop :=
  if n = 0x000 then IsModeWritten old v new
  else if n = 0x003 then new = (if v.toNat % 2 ^ 31 > 0x7F800000 then 0x7FC00000#32 else BitVec.ofNat 32 (v.toNat % 2 ^ 31))
  else if n = 0x004 then new = (if v.toNat % 4 = 3 then old else BitVec.ofNat 32 (v.toNat % 4))
  else if n = 0x005 then new = BitVec.ofNat 32 (v.toNat % 2)
  else if n ∈ plainRegisters then new = v
  else new = old

/-- A thread may write these control registers (R103, Table 4.2). -/
def mayWrite (s : State) (g : Group) (t : Thread) (n : Nat) : Prop :=
  if t.inSup then n < 0x200 ∨ outside s g.record.part n = false
  else n < 0x100 ∧ n ∉ [0x006, 0x007, 0x00D, 0x00E, 0x00F]

/-- What a device-scope write of the supervisor of partition p does: registers that it alone or with the host writes (Table 4.6). -/
def supervisorWrite (s : State) (p n : Nat) (v : Word) : State :=
  if 0x200 ≤ n ∧ n ≤ 0x217 then modCluster s (n - 0x200) fun c => { c with resv := writeResv c.resv v }
  else if 0x240 ≤ n ∧ n ≤ 0x247 then { s with gaze := s.gaze.set (n - 0x240) v }
  else if n = 0x380 + 16 * p then modPart s p fun q => { q with route0 := v &&& 0xFFFFFFFC#32 }
  else if n = 0x381 + 16 * p then modPart s p fun q => { q with route1 := v &&& 0xFFF#32 }
  else if n = 0x38D + 16 * p then modPart s p fun q => { q with svpc := q.svpc.extractLsb' 32 32 ++ v }
  else if 0x400 ≤ n ∧ n ≤ 0x40F then pcselWrite s (.sup p) (n - 0x400) v
  else if n = 0x38E + 16 * p then modPart s p fun q => { q with svpc := v ++ q.svpc.extractLsb' 0 32 }
  else s

/-- Where an instruction of the one member of an issue group stands (R65). -/
def siteNow (i : Issue) : FaultSite :=
  { pc := i.hdr + BitVec.ofNat 64 (4 * (i.off + 1)), index := i.done + 1, hdr := i.hdr, n := i.words.length }

/-- The one member of an issue group takes a fault at its instruction. -/
def OneFaults (ins : Instr) (s : State) (i : Issue) (rest : List Issue) (m : Nat × Nat) (f : FaultInfo) : Prop :=
  exec ins s = .next (takeFaults { s with issues := rest } (siteNow i) [{ gk := m.1, tid := m.2, f := f }])

end Sys2Proof.Claims

/-- R165, R166, R103, R105: `ctlw` writes a group-scope register for its group, which then reads as Table 4.2 says, every other as
before; the read-only core-scope registers keep their values; a supervisor writes the device-scope registers of its partition that
Table 4.6 gives it. -/
def Obligations.ControlRegisterWrites : Prop :=
  ∀ (o : TaskOp) (s : State) (i : Issue) (rest : List Issue) (m : Nat × Nat) (g : Group) (t : Thread) (v : Word),
    Alone s i rest m g t → guardTrue t o.g = true → readSrc32 .int g t o.b = .ok v →
    i.stale = [] → (∀ j ∈ rest, takesPart j m.1 = false) →
    let n := o.imm.toNat % 2 ^ 12
    mayWrite s g t n →
    (n < 0x100 → Runs (.ctlw o) s fun s' => ∃ c,
      Past (modGroup s m.1 fun g => { g with ctl := c }) s' i rest m 2 ∧
      ∀ k < 0x100, let reads (g : Group) := groupReg s g k
        if k = n then IsWritten n (reads g) v (reads { g with ctl := c }) else reads { g with ctl := c } = reads g) ∧
    (0x100 ≤ n → n < 0x200 → Runs (.ctlw o) s fun s' => Past s s' i rest m 2) ∧
    (0x200 ≤ n →
      Runs (.ctlw o) s fun s' => Past (supervisorWrite s g.record.part n v) s' i rest m 2)

/-- R167, R154, R168: `segw` writes a segment of its group, `xbld` loads a pattern slot from 128 bytes, `perfr` puts a counter. -/
def Obligations.SegmentPatternAndCounterResults : Prop :=
  ∀ (o : TaskOp) (s : State) (i : Issue) (rest : List Issue) (m : Nat × Nat) (g : Group) (t : Thread),
    Alone s i rest m g t → guardTrue t o.g = true →
    (t.inSup = true → i.stale = [] → (∀ j ∈ rest, takesPart j m.1 = false) →
      (affOf g o.ao.toNat).stride = 0 → (affOf g o.as.toNat).stride = 0 →
      let n := o.tx.toNat % 8
      Runs (.segw o) s fun s' => ∃ kept, (∀ k < 3, kept.getLsbD k = (g.segset.getLsbD k || decide (k + 5 = n))) ∧
        Past (modGroup s m.1 fun g => { g with
          segs := g.segs.set n { base := (affOf g o.ao.toNat).base, limit := (affOf g o.as.toNat).base }, segset := kept }) s' i rest m 2) ∧
    (∀ (s1 : State) (bs : List Byte), (affOf g o.ao.toNat).stride = 0 →
      xbldRead s g t ((affOf g o.ao.toNat).base + o.imm.signExtend 64).toNat = (s1, .ok bs) → s1.issues = s.issues →
      Runs (.xbld o) s fun s' => Past (modGroup s1 m.1 fun g => { g with
        patterns := (if g.patterns = [] then List.replicate 8 [] else g.patterns).set (o.tx.toNat % 8) (bs.map fun b => b.setWidth 5) })
        s' i rest m 2) ∧
    let n := o.imm.toNat % 2 ^ 8
    (n < 128 ∨ t.inSup = true →
      Runs (.perfr o) s fun s' =>
        Past (modThread s m.1 m.2 fun t => setPair t o.d.toNat (BitVec.ofNat 64 (counterValue s g n))) s' i rest m 2)

/-- R103, R167, R168, R169, R260: a form that a thread may not execute takes its fault at the instruction: control registers and
counters of the supervisor in user mode (permission, class 9), `segw` in user mode and `sret` outside a handler (illegal instruction,
class 1), and a load, store, atomic or sync-word instruction that is misaligned or beyond its segment's limit (classes 5 and 7, with the
address). -/
def Obligations.RefusedFormsTakeTheirFault : Prop :=
  ∀ (s : State) (i : Issue) (rest : List Issue) (m : Nat × Nat) (g : Group) (t : Thread), Alone s i rest m g t →
    (∀ j ∈ rest, j.members ≠ [] ∧ m ∉ j.members) →
    (∀ o : TaskOp, guardTrue t o.g = true → t.inSup = false →
      let n := o.imm.toNat % 2 ^ 12
      let user := [0x006, 0x007, 0x00D, 0x00E, 0x00F]
      (n ∈ user ∨ 0x200 ≤ n → OneFaults (.ctlr o) s i rest m { cls := 9 }) ∧
      (n ∈ user ∨ 0x100 ≤ n → OneFaults (.ctlw o) s i rest m { cls := 9 }) ∧
      (128 ≤ o.imm.toNat % 2 ^ 8 → OneFaults (.perfr o) s i rest m { cls := 9 }) ∧
      OneFaults (.segw o) s i rest m { cls := 1 } ∧
      (t.inKernel = false → OneFaults (.sret o) s i rest m { cls := 1 })) ∧
    ∀ (o : MemOp) (off : Nat), guardTrue t o.g = true → hasRoom o.wait t → memOffset g t o = .ok off →
      let a := ((segOf g o.seg.toNat).base.toNat + off) % 2 ^ 64
      let w := frameByte (segOf g 3).base.toNat off t.idx
      let limit := (segOf g o.seg.toNat).limit.toNat
      (∀ e ∈ [Instr.ld, Instr.st, Instr.atom, Instr.red], let n := 2 ^ o.size.toNat
        (o.seg ≠ 3 → a % n ≠ 0 → OneFaults (e o) s i rest m { cls := 5, va := BitVec.ofNat 64 a }) ∧
        (o.seg ≠ 3 → a % n = 0 → off + n > limit → OneFaults (e o) s i rest m { cls := 7, va := BitVec.ofNat 64 a }) ∧
        (o.seg = 3 → off % min n 4 ≠ 0 → OneFaults (e o) s i rest m { cls := 5, va := BitVec.ofNat 64 w }) ∧
        (o.seg = 3 → off % min n 4 = 0 → off + n > limit → OneFaults (e o) s i rest m { cls := 7, va := BitVec.ofNat 64 w })) ∧
      (o.seg ≠ 3 → Unbegun i → engineCount s g.core < 64 → ∀ e ∈ [Instr.swinit, Instr.swadd, Instr.swwait],
        (a % 16 ≠ 0 → OneFaults (e o) s i rest m { cls := 5, va := BitVec.ofNat 64 a }) ∧
        (a % 16 = 0 → off + 16 > limit → OneFaults (e o) s i rest m { cls := 7, va := BitVec.ofNat 64 a }))


namespace Sys2Proof.Claims

/-- Every piece of a place lies on normal pages, or it lies in scratchpad: what an atomic asks for (R273). -/
def normalPlace : Place → Bool
  | .mem _ ps => ps.all fun p => p.attr.mtype == 0
  | .scratch _ => true

/-- What staging leaves of a state: nothing on direct lines, the entries of the log on shared ones (R252, R253). -/
def stagedFor (s : State) (g : Group) (tg : Target) (entries : List Nat) : State × Option FaultInfo :=
  if tg.treat = .shared then stage s g (placeVa tg.place) entries else (s, none)

/-- The log of the group has room for n more entries, where the access is staged (R253). -/
def stagingRoom (s : State) (g : Group) (tg : Target) (n : Nat) : Prop :=
  tg.treat = .shared → ∀ gr now, gridOf s g.grid = some gr → groupOf s g.gk = some now → now.staged + n ≤ gr.stgE

/-- The memory-type fault of an atomic (R273): its address, the operation, the size, and whether it is a `red`. -/
def typeFault (o : MemOp) (ret : Bool) (va : Nat) : FaultInfo :=
  { cls := 12, va := BitVec.ofNat 64 va, detail := o.am.toNat + 16 * o.size.toNat + (if ret then 0 else 128) }

/-- `atom` and `red` with what they answer (R266, R268). -/
def atomics : List ((MemOp → Instr) × Bool) := [(.atom, true), (.red, false)]

/-- Integer atomic operations by number: old value and operand give the new value (Table 11.3). -/
def atomicResults (w : Nat) : List (Nat × (BitVec w → BitVec w → BitVec w)) :=
  [(0, fun x y => x + y), (1, fun x y => x &&& y), (2, fun x y => x ||| y), (3, fun x y => x ^^^ y),
   (4, fun x y => if x.toInt ≤ y.toInt then x else y), (5, fun x y => if x.toInt ≤ y.toInt then y else x),
   (6, fun x y => if x.toNat ≤ y.toNat then x else y), (7, fun x y => if x.toNat ≤ y.toNat then y else x), (8, fun _ y => y)]

/-- A sync word w' is w after a piece of n bytes arrived (R217): the count below the target grows; at or above it the count is zero,
gen is one higher, and the overrun bit is set when the count passed the target. -/
def IsArrival (w w' n : Nat) : Prop :=
  let c := field w 32 32 + n
  field w' 0 32 = field w 0 32 ∧
  (if field w 0 32 = 0 ∨ c < field w 0 32 then
    field w' 32 32 = c % 2 ^ 32 ∧ field w' 64 32 = field w 64 32 ∧ bitOf w' 96 = bitOf w 96
  else
    field w' 32 32 = 0 ∧ field w' 64 32 = (field w 64 32 + 1) % 2 ^ 32 ∧
    bitOf w' 96 = (bitOf w 96 || decide (field w 0 32 < c)))

/-- The 16 bytes of the sync word at an offset. -/
def syncWord (s : State) (core off : Nat) : Nat := leNat (scratchRead s core off 16)

/-- Bytes are written to the scratchpad of a core at an offset: no other byte of it changes, no other part of the core but poison marks of
whole units written, and no other core. -/
structure ScratchWritten (s s1 : State) (core off : Nat) (bs : List Byte) : Prop where
  bytes : ∀ a, scratchByte s1 core a = if off ≤ a ∧ a < off + bs.length then bs.getD (a - off) 0 else scratchByte s core a
  kept : ∃ m, coreOf s1 core = { coreOf s core with scratch := m, scratchPoison := clearUnits (coreOf s core).scratchPoison off bs.length }
  others : ∀ k, k ≠ core → coreOf s1 k = coreOf s k
  frame : s1 = { s with cores := s1.cores }

/-- s1 holds what s0 holds in memory with its marks and in every L2 line, L1 line and combining buffer, but in the L2 line (of a die), the
L1 line (of a core and address space) and the buffer (of a core) that are named. -/
structure SameBytes (s0 s1 : State) (l2 : Option (Nat × Nat)) (l1 : Option (Nat × Nat × Nat)) (buffer : Option Nat) : Prop where
  memory : s1.mem = s0.mem ∧ s1.poison = s0.poison ∧ s1.sealed = s0.sealed ∧ s1.sizeTags = s0.sizeTags
  l2 : ∀ die line, some (die, line) ≠ l2 → l2Find s1 die line = l2Find s0 die line
  l1 : ∀ core asid line, some (core, asid, line) ≠ l1 → l1Find s1 core asid line = l1Find s0 core asid line
  buffer : ∀ core, some core ≠ buffer → (coreOf s1 core).combine = (coreOf s0 core).combine

/-- No L1 holds a line exclusively (R245). -/
def noneExclusive (s : State) : Prop := ∀ c ∈ s.cores, ∀ l ∈ c.2.l1, l.excl = false

/-- A piece as accesses have them: its bytes lie within one sector of its line. -/
def wholePiece (p : Piece) (bs : List Byte) : Prop :=
  bs.length = p.len ∧ 0 < p.len ∧ p.len ≤ 32 ∧ p.va % 512 + p.len ≤ 512 ∧ p.pa % 64 + p.len ≤ 64

/-- Bytes are written into an L1 line: the line holds them as it held its other bytes, and nothing else changes (R218). -/
def LineWritten (s0 s1 : State) (core asid : Nat) (p : Piece) (bs : List Byte) : Prop :=
  let o := p.va % 512
  let key := (core, asid, p.va / 512)
  SameBytes s0 s1 none (some key) none ∧ ∃ l, l1Find s1 core asid (p.va / 512) = some l ∧
    ∀ k < 512, l1Byte l k = if o ≤ k ∧ k < o + bs.length then some (bs.getD (k - o) 0)
      else (l1Find s0 core asid (p.va / 512)).bind fun x => l1Byte x k

/-- Bytes are written to a sector at its place in L2, once the sector is there (R222): the sector holds them as it held its other bytes,
and nothing else changes; a read at the place answers them. -/
def PlaceWritten (s0 s1 : State) (c : Ctx) (p : Piece) (bs : List Byte) : Prop :=
  let die := l2DieOf (p.va / 2 ^ 55 % 4) p.pa
  let f := l2Fetch s0 die c.part p.pa
  ∀ l, l2Find f.1 die (p.pa / 512) = some l → f.2.bytes.length = 64 →
    SameBytes f.1 s1 (some (die, p.pa / 512)) none none ∧
    (∃ l', l2Find s1 die (p.pa / 512) = some l' ∧ ∀ k < 8, lineSector l' k =
      if k = p.pa / 64 % 8 then some { bytes := splice f.2.bytes (p.pa % 64) bs, dirty := true, poisoned := f.2.poisoned }
      else lineSector l k) ∧
    (placeRead s1 c { p with attr := { p.attr with mtype := 0 } }).2 = (bs, f.2.poisoned)

/-- Bytes join the combining buffer of a core, which keeps its other bytes of the line; nothing else changes, and a load of the core
answers them (R229). -/
def BufferWritten (s0 s1 : State) (c : Ctx) (p : Piece) (bs : List Byte) : Prop :=
  let o := p.pa % 512
  SameBytes s0 s1 none none (some c.core) ∧
  (∃ b, (coreOf s1 c.core).combine = some b ∧ b.line = p.pa / 512 ∧
    ∀ k < 512, tfind b.bytes k = if o ≤ k ∧ k < o + bs.length then some (bs.getD (k - o) 0)
      else (coreOf s0 c.core).combine.bind fun x => tfind x.bytes k) ∧
  ((l2Read s1 (l2DieOf (p.va / 2 ^ 55 % 4) p.pa) c.part p.pa p.len).2.1.length = p.len →
    (combineLoad s1 c p.va p.pa p.len).2 = (bs, false))

/-- Bytes are written to a sector past the L2: the sector is what it was with the bytes in it, every other sector, every mark and every
cache is as before, and a read past the L2 answers the bytes (R229). -/
def DeviceWritten (s s1 : State) (c : Ctx) (p : Piece) (bs : List Byte) : Prop :=
  let sec := p.pa / 64
  let old := (sectorBytes s c.part sec).2
  (sectorBytes s1 c.part sec).2.bytes = splice old.bytes (p.pa % 64) bs ∧
  (deviceLoad s1 c.part p.pa p.len).2 = (bs, old.poisoned) ∧
  (∀ a, a / 64 ≠ sec → memGet s1.mem a = memGet s.mem a) ∧ (∀ k, k ≠ sec → tfind s1.sealed k = tfind s.sealed k) ∧
  (∀ k, s1.poison.contains k = s.poison.contains k) ∧ s1.sizeTags = s.sizeTags ∧
  (∀ die line, l2Find s1 die line = l2Find s die line) ∧ ∀ core, coreOf s1 core = coreOf s core

/-- Room for the L1 line of a store: the set's victim leaves when the line is absent and the set is full (R218, R220, R405). -/
def lineRoom (s : State) (core asid line : Nat) : State :=
  if (l1Find s core asid line).isSome then s else l1Room (countEvent s core 4 1) core line

/-- Before an access past the L1 of its core, the line's dirty bytes are written back there and its copies of the bytes go (R220, R245). -/
def ownCopiesGone (s : State) (core asid : Nat) (p : Piece) : State :=
  let s := l1WriteBack s core asid (p.va / 512)
  match l1Find s core asid (p.va / 512) with
  | some l => l1Put s core (dropRange l (p.va % 512) p.len)
  | none => s

/-- One piece of a store is performed as its page's memory type and its hint say (Table 9.5, R220, R229). -/
def PieceStored (s s1 : State) (c : Ctx) (hint : Nat) (p : Piece) (bs : List Byte) : Prop :=
  let core := l1Core s c.core p.va
  let asid := asidOf s c.part c.sec
  wholePiece p bs →
  (p.attr.mtype = 0 → hint ≠ 3 → LineWritten (lineRoom s core asid (p.va / 512)) s1 core asid p bs ∧
    ∀ h grid, (loadPiece s1 c p h grid).2 = (bs, false)) ∧
  (p.attr.mtype = 0 → hint = 3 → noneExclusive s → PlaceWritten (ownCopiesGone s core asid p) s1 c p bs) ∧
  (p.attr.mtype = 1 →
    let same := (coreOf s c.core).combine.any fun b => b.line = p.pa / 512 ∧ b.part = c.part
    BufferWritten (if same then s else combineFlush s c.core) s1 c p bs) ∧
  (p.attr.mtype = 2 ∨ p.attr.mtype = 3 → windowOf s c.part c.sec p.va = none → memoriesWf s = true →
    tfind s.sizeTags (p.pa / 512) = none → DeviceWritten s s1 c p bs) ∧
  (4 ≤ p.attr.mtype → noneExclusive s → PlaceWritten s s1 c p bs)

/-- The pieces of a store are performed one after the other. -/
def PiecesStored (c : Ctx) (hint : Nat) : List Piece → List Byte → State → State → Prop
  | [], _, s, s1 => s1 = s
  | p :: r, bs, s, s1 => ∃ m, PieceStored s m c hint p (bs.take p.len) ∧ PiecesStored c hint r (bs.drop p.len) m s1

/-- An atomic is performed at the line's home (R245): it answers the bytes that stood there, and its new value replaces them; poison is
answered, and nothing is written (R262). -/
def HomeAtomic (s : State) (c : Ctx) (asid : Nat) (p : Piece) (new : Nat → Option Nat) (r : State × Nat × Bool) : Prop :=
  let die := l2DieOf (p.va / 2 ^ 55 % 4) p.pa
  let s0 := l2Single (ownCopiesGone s (l1Core s c.core p.va) asid p) die (p.pa / 512)
  let f := l2Fetch s0 die c.part p.pa
  let x := leNat ((f.2.bytes.drop (p.pa % 64)).take p.len)
  ∀ l, l2Find f.1 die (p.pa / 512) = some l → f.2.bytes.length = 64 →
    r.2.2 = f.2.poisoned ∧
    (f.2.poisoned = true → r.1 = f.1) ∧
    (f.2.poisoned = false → r.2.1 = x ∧
      (∀ n, new x = some n → PlaceWritten s0 r.1 c p (leBytes n p.len)) ∧
      (new x = none → SameBytes f.1 r.1 (some (die, p.pa / 512)) none none ∧
        ∃ l', l2Find r.1 die (p.pa / 512) = some l' ∧ ∀ k < 8, lineSector l' k = lineSector l k))

/-- An atomic is performed in the L1 of its core, to which the contention predictor gives the line (R245): it answers the bytes that the
L1 then holds, and its new value replaces them; poison is answered, and nothing is written. -/
def HeldAtomic (s : State) (c : Ctx) (asid : Nat) (p : Piece) (new : Nat → Option Nat) (r : State × Nat × Bool) : Prop :=
  let core := l1Core s c.core p.va
  let h := holdLine (l1Alloc s core asid c.part p.va p.pa p.attr false).1 core asid (p.va / 512)
  let f := l1Load h c p.va p.pa p.len 0 p.attr 0
  let x := leNat f.2.1
  r.2.2 = f.2.2 ∧
  (f.2.2 = true → r.1 = f.1) ∧
  (f.2.2 = false → r.2.1 = x ∧ ∀ l, l1Find f.1 core asid (p.va / 512) = some l →
    (∀ n, new x = some n → LineWritten f.1 r.1 core asid p (leBytes n p.len) ∧ (loadPiece r.1 c p 0 0).2 = (leBytes n p.len, false)) ∧
    (new x = none → SameBytes f.1 r.1 none (some (core, asid, p.va / 512)) none ∧
      ∃ l', l1Find r.1 core asid (p.va / 512) = some l' ∧ ∀ k, l1Byte l' k = l1Byte l k))

end Sys2Proof.Claims

/-- R263 to R268, R259, R252: `ld`, `st`, `atom` and `red` issue a counted operation on the place their operand names, with the store
data and operands as the registers stand; forming and checking an address changes caches only. A staged store or `red` first puts its
entries into the log (R253), and a store to a page of an invalidate window is performed at once (R367); an atomic on a page that is not
normal takes a memory-type fault (R273), after the thread's outstanding accesses to its lines are performed.
R265: `pref` never faults and writes no register and no byte of a scratchpad or tile: it forms its address, and where that gives a place
in memory it fills caches piece by piece. -/
def Obligations.MemoryAccessesIssue : Prop :=
  (∀ (o : MemOp) (s : State) (i : Issue) (rest : List Issue) (m : Nat × Nat) (g : Group) (t : Thread),
    Alone s i rest m g t → guardTrue t o.g = true → hasRoom o.wait t →
    let size := 2 ^ o.size.toNat
    (∀ acc want, CachesOnly s (memTarget s g t o size acc want).1) ∧
    (let r := memTarget s g t o size .r 0
      ∀ tg, r.2 = .ok tg → let s2 := deviceOrder r.1 g t tg.place
        s2.issues = s.issues →
        Runs (.ld o) s fun s' => Issued s2 s' i rest m g t o.wait
          (.load tg.place o.d.toNat size tg.treat o.hint.toNat (((groupOf s2 g.gk).map fun x => x.staged).getD 0))) ∧
    (let r := memTarget s g t o size .w 1
      ∀ tg ws, r.2 = .ok tg → sourceRegs t o.d.toNat ((size + 3) / 4) = .ok ws → stagingRoom r.1 g tg (max 1 (size / 8)) →
        let data := leBytes (wordsNat ws) size
        let st := stagedFor r.1 g tg (storeEntries (placeVa tg.place) data)
        let s3 := deviceOrder st.1 g t tg.place
        let kind := OpKind.store tg.place data tg.treat o.hint.toNat
        let window := devicePlace tg.place && (windowOf s3 g.record.part g.record.world (placeVa tg.place)).isSome
        st.2 = none →
        (window = false → s3.issues = s.issues → Runs (.st o) s fun s' => Issued s3 s' i rest m g t o.wait kind) ∧
        (window = true → let s4 := performLast (issueOp s3 g m.2 o.wait t.inSup kind)
          s4.issues = s.issues → Runs (.st o) s fun s' => Past s4 s' i rest m 2)) ∧
    ∀ e ∈ atomics, let r := memTarget s g t o size .rw (if e.2 then 2 else 1)
      ∀ tg, r.2 = .ok tg →
        (∀ y cmp, normalPlace tg.place = true → atomOperands o t = .ok (y, cmp) → stagingRoom r.1 g tg 1 →
          let st := stagedFor r.1 g tg [redEntry (placeVa tg.place) o.am.toNat size y.toNat]
          st.2 = none → st.1.issues = s.issues → Runs (e.1 o) s fun s' =>
            Issued st.1 s' i rest m g t o.wait (.atomic tg.place o.am.toNat size y cmp e.2 o.d.toNat tg.treat)) ∧
        (normalPlace tg.place = false →
          let s1 := settleLine r.1 g t tg.place
          s1.issues = s.issues → exec (e.1 o) s = .next (takeFaults { s1 with issues := rest } (siteNow i)
            [{ gk := m.1, tid := m.2, f := typeFault o e.2 (placeVa tg.place) }]))) ∧
  (∀ (o : MemOp) (s : State) (i : Issue) (rest : List Issue) (m : Nat × Nat) (g : Group) (t : Thread),
    Alone s i rest m g t →
    (guardTrue t o.g = false → Runs (.pref o) s fun s' => Past s s' i rest m 2) ∧
    (guardTrue t o.g = true →
      let r := memTarget s g t o (2 ^ o.size.toNat) .r 0
      let s1 := match r.2 with
        | .ok { place := .mem _ ps, .. } => ps.foldl (prefetchPiece (ctxOf g t) o.hint.toNat g.grid) r.1
        | _ => r.1
      CachesOnly s s1 ∧ Runs (.pref o) s fun s' => Past s1 s' i rest m 2))

/-- R269 to R272, R217: sync words. `swinit` issues and completes with the target set, the count zero and gen kept; `swadd` issues
after a release and its arrival counts n bytes; `swwait` issues, and completes at once when gen differs already. -/
def Obligations.SyncWordOperations : Prop :=
  (∀ (o : MemOp) (s : State) (i : Issue) (rest : List Issue) (m : Nat × Nat) (g : Group) (t : Thread) (x : Word) (off : Nat),
    Alone s i rest m g t → Unbegun i → guardTrue t o.g = true → hasRoom o.wait t → sourceRegs t o.d.toNat 1 = .ok [x] →
    (syncTarget s g t o .w = .ok off → Runs (.swinit o) s fun s' => Issued s s' i rest m g t o.wait (.swInit off x)) ∧
    (syncTarget s g t o .rw = .ok off → engineCount s g.core < 64 →
      let s1 := releaseThread s m.1 m.2
      s1.issues = s.issues → Runs (.swadd o) s fun s' => Issued s1 s' i rest m g t o.wait (.swAdd off x)) ∧
    (syncTarget s g t o .r = .ok off → scratchPoisoned s g.core off 16 = false → s.ops = [] →
      let gen := leNat (scratchRead s g.core (off + 8) 4)
      (gen = x.toNat → Runs (.swwait o) s fun s' => Issued s s' i rest m g t o.wait (.swWait off x o.d.toNat)) ∧
      (gen ≠ x.toNat → g.run ≠ .preempted → groupOf s m.1 = some g → Runs (.swwait o) s fun s' => ∃ s1,
        Past s1 s' i rest m 2 ∧ s1 = { modThread s m.1 m.2 (fun t =>
          credited o.wait.toNat (withRegs o.d.toNat [BitVec.ofNat 32 gen] (charged o.wait t))) with
            cores := (acquireCore s g.core).cores, names := s.names + 1 } ∧
        ∀ k, ∃ lines, coreOf s1 k = { coreOf s k with l1 := lines }))) ∧
  (∀ (s : State) (id : Nat) (op : Op) (g : Group) (tid : Nat), memoriesWf s = true → Outstanding s id op g tid → noSyncWaits s →
    (∀ off x, op.kind = .swInit off x → Runs (.storeCompletion id) s fun s' => ∃ s1, Completed s1 s' op (op.gk, tid) (fun t => t) ∧
      let w := syncWord s op.core off
      let w' := syncWord s1 op.core off
      ScratchWritten s s1 op.core off (leBytes w' 16) ∧
      field w' 0 32 = x.toNat ∧ field w' 32 32 = 0 ∧ field w' 64 32 = field w 64 32 ∧ bitOf w' 96 = false) ∧
    ∀ off n, op.kind = .swAdd off n → scratchPoisoned s op.core off 16 = false →
      (n = 0 → Runs (.syncWordPieceArrival id 0) s fun s' => Completed s s' op (op.gk, tid) fun t => t) ∧
      (n ≠ 0 → Runs (.syncWordPieceArrival id 0) s fun s' => ∃ s1, Completed s1 s' op (op.gk, tid) (fun t => t) ∧
        ScratchWritten s s1 op.core off (leBytes (syncWord s1 op.core off) 16) ∧
        IsArrival (syncWord s op.core off) (syncWord s1 op.core off) n.toNat))

/-- R263, R262, R252: a load's bytes arrive in the registers from d on and its counter falls; of a poisoned place the fault waits for
the thread, and no register changes. A shared line of a deterministic grid answers with the group's own entries that were staged before
the load. -/
def Obligations.LoadsArrive : Prop :=
  ∀ (s : State) (id : Nat) (op : Op) (g : Group) (tid d size hint staged : Nat) (treat : Treat), Outstanding s id op g tid →
    let m := (op.gk, tid)
    (∀ off, op.kind = .load (.scratch off) d size treat hint staged →
      (scratchPoisoned s op.core off size = false → Runs (.loadArrival id) s fun s' =>
        Completed s s' op m (withRegs d (bytesToWords 16 (scratchRead s op.core off size)))) ∧
      (scratchPoisoned s op.core off size = true → Runs (.loadArrival id) s fun s' =>
        Completed s s' op m (withDeferred op.cnt (poisonAt off)))) ∧
    (∀ (asid : Nat) (ps : List Piece), op.kind = .load (.mem asid ps) d size treat hint staged →
      let arrives (s1 : State) (bs : List Byte) (bad : Bool) : Prop := CachesOnly s s1 ∧ Runs (.loadArrival id) s fun s' =>
        Completed s1 s' op m (if bad then withDeferred op.cnt (poisonAt (placeVa (.mem asid ps))) else withRegs d (bytesToWords 16 bs))
      (treat = .direct ∨ gridOf s g.grid = none → let r := loadPieces s (opCtx op g) hint g.grid ps
        arrives r.1 r.2.1 r.2.2) ∧
      ∀ gr, treat = .shared → gridOf s g.grid = some gr →
        let va := placeVa (.mem asid ps)
        let unit := va - va % 8
        let r := loadPieces s (opCtx op g) hint g.grid (ps.map wholeUnits)
        let own := applyOwn gr g unit staged r.1 0 r.2.1
        arrives own.1 ((own.2.drop (va % 8)).take size) r.2.2) ∧
    ∀ vals, op.kind = .reply vals → Runs (.loadArrival id) s fun s' =>
      Completed s s' op m fun t => vals.foldl (fun t e => setReg t e.1 e.2) t

/-- R264, R266, R268, R262, R245, Table 11.3: a store's bytes are performed at its place and nowhere else, and read back there: in the
scratchpad, or piece by piece in the L1 line, at the line's place in L2, in the combining buffer or past the L2, as the page's memory type
says. An atomic replaces the value of its place by the operation's result, and `atom` answers the old value; one that meets poison writes
nothing, and its fault waits. -/
def Obligations.StoresAndAtomicsPerform : Prop :=
  (∀ (s : State) (id : Nat) (op : Op) (g : Group) (tid hint : Nat) (data : List Byte),
    memoriesWf s = true → Outstanding s id op g tid →
    (∀ off treat, op.kind = .store (.scratch off) data treat hint → noSyncWaits s → Runs (.storeCompletion id) s fun s' => ∃ s1,
      Completed s1 s' op (op.gk, tid) (fun t => t) ∧ ScratchWritten s s1 op.core off data) ∧
    (∀ asid ps, op.kind = .store (.mem asid ps) data .shared hint → Runs (.storeCompletion id) s fun s' =>
      Completed s s' op (op.gk, tid) (fun t => t)) ∧
    ∀ asid ps, op.kind = .store (.mem asid ps) data .direct hint →
      let s1 := storePieces s (opCtx op g) g tid hint ps data
      ((∀ p ∈ ps, p.attr.mtype ≠ 2) → CachesOnly s s1) ∧
      ((∀ p ∈ ps, p.attr.mtype = 2 → windowOf s g.record.part g.record.world p.va = none) →
        PiecesStored (opCtx op g) hint ps data s s1) ∧
      ((∀ p ∈ ps, p.attr.mtype ≠ 2) ∨ (∃ g1, groupOf s1 op.gk = some g1 ∧ g1.run ≠ .preempted) →
        Runs (.storeCompletion id) s fun s' => Completed s1 s' op (op.gk, tid) (fun t => t))) ∧
  (∀ (s : State) (id : Nat) (op : Op) (g : Group) (tid am size d : Nat) (y cmp : DWord) (ret : Bool),
    memoriesWf s = true → Outstanding s id op g tid →
    let answers (x : Nat) : Thread → Thread := if ret then withRegs d (bytesToWords 2 (leBytes x size)) else fun t => t
    let new (x : Nat) : Option Nat := atomNew am (8 * size) x y.toNat cmp.toNat
    (∀ off, op.kind = .atomic (.scratch off) am size y cmp ret d .direct → noSyncWaits s →
      let x := leNat (scratchRead s op.core off size)
      (scratchPoisoned s op.core off size = false → Runs (.atomicCompletion id) s fun s' => ∃ s1,
        Completed s1 s' op (op.gk, tid) (answers x) ∧
        (∀ n, new x = some n → ScratchWritten s s1 op.core off (leBytes n size)) ∧ (new x = none → s1 = s)) ∧
      (scratchPoisoned s op.core off size = true → Runs (.atomicCompletion id) s fun s' =>
        Completed s s' op (op.gk, tid) (withDeferred op.cnt (poisonAt off)))) ∧
    (∀ place, op.kind = .atomic place am size y cmp ret d .shared → Runs (.atomicCompletion id) s fun s' =>
      Completed s s' op (op.gk, tid) (fun t => t)) ∧
    ∀ asid ps, op.kind = .atomic (.mem asid ps) am size y cmp ret d .direct →
      let r := atomicPlace s (opCtx op g) (.mem asid ps) am size y cmp
      CachesOnly s r.1 ∧
      (∀ p more, ps = p :: more → p.len = size → wholePiece p (leBytes 0 size) → asid = asidOf s g.record.part g.record.world →
        let predicted := p.attr.mtype = 0 ∧ (coreOf s (l1Core s op.core p.va)).predict.contains (asid, p.va / 512)
        (¬ predicted → noneExclusive s → HomeAtomic s (opCtx op g) asid p new r) ∧
        (predicted → HeldAtomic s (opCtx op g) asid p new r)) ∧
      Runs (.atomicCompletion id) s fun s' =>
        Completed r.1 s' op (op.gk, tid) (if r.2.2 then withDeferred op.cnt (poisonAt (placeVa (.mem asid ps))) else answers r.2.1)) ∧
  ∀ w ∈ [32, 64], (∀ e ∈ atomicResults w, ∀ (x y : BitVec w) (c : Nat), atomNew e.1 w x.toNat y.toNat c = some (e.2 x y).toNat) ∧
    ∀ x y c : BitVec w, atomNew 9 w x.toNat y.toNat c.toNat = if x = c then some y.toNat else none

namespace Sys2Proof.Claims

/-- The engine functions that run later (Table 3.8), each with the destinations it reserves staging entries for (R253). -/
def engines : List ((EngOp → Instr) × EngFn × (State → Group → Ctx → EngState → State × List (Nat × Nat))) :=
  [(.engCopy, .copy, plainRanges), (.engCopy2d, .copy2d, plainRanges), (.engGather, .gather, plainRanges),
   (.engScatter, .scatter, plainRanges), (.engFill, .fill, plainRanges), (.engRtrace, .rtrace, rayRanges),
   (.engRany, .rany, rayRanges), (.engRlaunch, .rlaunch, rayRanges), (.engBquery, .bquery, rayRanges), (.engBrefit, .brefit, rayRanges)]

/-- The collectives, whose thread arrives at its round as the operation issues (R278). -/
def collectives : List ((EngOp → Instr) × EngFn) := [(.engAllred, .allred), (.engBcast, .bcast)]

/-- The operation of an `eng` before its block is read: block address, argument pair, reply register, segments as they stand (R275). -/
def newEng (fn : EngFn) (o : EngOp) (g : Group) (va arg : DWord) : EngState :=
  { fn := fn, block := va, arg := arg, reply := if o.reply then some o.d.toNat else none
    seg1 := segOf g 1, seg4 := segOf g 4, start := g.staged }

/-- What the end of an engine operation makes of its thread (R276): the status in the reply register, a fault that waits. -/
def withStatus (e : EngState) (cnt : Nat) (r : EngEnd) (t : Thread) : Thread :=
  let t := match e.reply with | some d => withRegs d [BitVec.ofNat 32 r.status] t | none => t
  match r.fault with | some f => withDeferred cnt f t | none => t

/-- An engine operation of one thread is outstanding, of a group on its core; no read has found its reply register new yet (R72), and it
has joined the round named, if any. -/
structure EngineOutstanding (s : State) (id : Nat) (o : Op) (e : EngState) (joined : Option (Nat × Nat)) (g : Group) (tid : Nat) :
    Prop where
  op : opOf s id = some o
  kind : o.kind = .eng e
  round : e.joined = joined
  early : o.early = []
  threads : o.threads = [tid]
  group : groupOf s o.gk = some g
  resident : g.run ≠ .preempted

/-- What a valid arrival of a rank makes of a collective object (R278, Table 11.7): the mask bit and one arrival more; the last arrival
clears both and raises gen. -/
def IsJoined (v v' rank : Nat) : Prop :=
  field v' 0 80 = field v 0 80 ∧
  if objArrived v + 1 = objP v then
    objArrived v' = 0 ∧ (∀ k < 256, bitOf v' (128 + k) = false) ∧ field v' 96 32 = (field v 96 32 + 1) % 2 ^ 32
  else
    objArrived v' = (objArrived v + 1) % 2 ^ 16 ∧ (∀ k < 256, bitOf v' (128 + k) = (bitOf v (128 + k) || decide (k = rank))) ∧
    field v' 96 32 = field v 96 32

/-- A participant's destination takes the bytes of a round's result, each with its poison (R278). -/
def roundMoves (e : EngState) (out : List (Byte × Bool)) : List EngMove :=
  (enumFrom 0 out).map fun b => { dst := (blockWord e 1 + b.1) % 2 ^ 64, src := .val b.2.1 b.2.2, elem := 0 }

/-- The participants whose sources a round reads: all, or the root of a `bcast` (R279). -/
def roundReads (fn : EngFn) (obj : Nat) (ops : List (Nat × Op × EngState)) : List (Nat × Op × EngState) :=
  if fn = .bcast then ops.filter fun x => x.1 == objRoot obj else ops

end Sys2Proof.Claims

/-- R275, R253, R70, R278: an `eng` whose block address is 64-aligned and below 2^57 releases the thread's earlier operations and
issues its operation; in a deterministic grid it reserves its staging entries; a collective arrives at once, where a block that faults
or is invalid ends it. -/
def Obligations.EngineOperationsIssue : Prop :=
  ∀ (o : EngOp) (s : State) (i : Issue) (rest : List Issue) (m : Nat × Nat) (g : Group) (t : Thread) (a b : DWord),
    Alone s i rest m g t → Unbegun i → guardTrue t o.g = true → hasRoom o.wait t → engineCount s g.core < 64 →
    readSrc64 .int g t o.a = .ok a → readSrc64 .int g t o.b = .ok b →
    let va := a + o.imm.signExtend 64
    va.toNat % 64 = 0 → va.toNat < 2 ^ 57 →
    let s0 := releaseThread s m.1 m.2
    (idle s m → CachesOnly s s0) ∧
    (g.record.det = false → idle s m ∨ s0.issues = s.issues →
      (∀ x ∈ engines, Runs (x.1 o) s fun s' => Issued s0 s' i rest m g t o.wait (.eng (newEng x.2.1 o g va b))) ∧
      ∀ x ∈ collectives, let e := newEng x.2 o g va b
        let op := opFor s0 m g t o.wait (.eng e)
        let s2 := issueOp s0 g m.2 o.wait t.inSup (.eng e)
        let r := readBlock s2 g (opCtx op g) e
        let ends (y : EngEnd) : Prop := Runs (x.1 o) s fun s' => Past (endEng r.1 op r.2 y) s' i rest m 2
        (∀ f, r.2.bad = some f → ends { status := 3, fault := some { f with detail := fnCode x.2 } }) ∧
        (r.2.bad = none → dataOk r.2 = false → ends { status := 4 }) ∧
        let s3 := arrive s2 op e
        s3.issues = s.issues → Runs (x.1 o) s fun s' => Past s3 s' i rest m 2) ∧
    (∀ x ∈ engines, let r := reserve s0 g (ctxOf g t) (newEng x.2.1 o g va b) x.2.2
      ∀ e, r.2 = .ok e → r.1.issues = s.issues → Runs (x.1 o) s fun s' => Issued r.1 s' i rest m g t o.wait (.eng e)) ∧
    ∀ x ∈ collectives, let r := reserve s0 g (ctxOf g t) (newEng x.2 o g va b) roundRanges
      ∀ e, r.2 = .ok e →
        let s2 := issueOp r.1 g m.2 o.wait t.inSup (.eng e)
        let s3 := arrive s2 (opFor r.1 m g t o.wait (.eng e)) e
        s3.issues = s.issues → Runs (x.1 o) s fun s' => Past s3 s' i rest m 2

/-- R275, R276: an engine operation completes once: its block is read; a block that faults gives status 3 and a fault that waits for
the thread, an invalid block status 4 and nothing written, an empty operation status 0, any other the status of its function; the
reply register and the counter follow.
R278: an arrival at a collective object that is invalid completes with status 4, one of a rank that is too high or has arrived with status
2; a valid one joins the round, and the last one performs it: every participant's destination takes the result, and every participant
completes with status 0 or 1, or 3 when its destination faults. That a source that faults ends the round for all, and that a round that
joins both functions is its last arrival's, is the model's choice (log entry 27). -/
def Obligations.EngineOperationsComplete : Prop :=
  (∀ (s : State) (id : Nat) (op : Op) (e : EngState) (g : Group) (tid : Nat), EngineOutstanding s id op e none g tid →
    let b := readBlock s g (opCtx op g) e
    let done (s2 : State) (r : EngEnd) : Prop :=
      Runs (.engineOperationCompletion id) s fun s' => Completed s2 s' op (op.gk, tid) (withStatus b.2 op.cnt r)
    CachesOnly s b.1 ∧
    (∀ f, b.2.bad = some f → done b.1 { status := 3, fault := some { f with detail := fnCode e.fn } }) ∧
    (b.2.bad = none → isRayFn e.fn = false → e.fn ≠ .allred → e.fn ≠ .bcast →
      (dataOk b.2 = false → done b.1 { status := 4 }) ∧
      (dataOk b.2 = true → dataEmpty b.2 = true → done b.1 { status := 0 }) ∧
      let r := runData b.1 g (opCtx op g) b.2 id
      (∃ g2, groupOf r.1 op.gk = some g2 ∧ g2.run ≠ .preempted) → done r.1 r.2) ∧
    (b.2.bad = none → isRayFn e.fn = true →
      let r := runRays b.1 g (opCtx op g) b.2 id
      (∃ g2, groupOf r.1 op.gk = some g2 ∧ g2.run ≠ .preempted) → done r.1 r.2)) ∧
  (∀ (s s1 : State) (id : Nat) (op : Op) (e : EngState) (g : Group) (tid : Nat) (p : Piece), EngineOutstanding s id op e none g tid →
    let b := readBlock s g (opCtx op g) e
    b.2.bad = none → dataOk b.2 = true → objectPiece b.1 (opCtx op g) (blockWord b.2 3) = (s1, .ok p) →
    let q := readPieces s1 (opCtx op g) [p]
    let v := leNat q.2.1
    let rank := argLow b.2
    (objOk e.fn v = false → arrive s op e = endEng q.1 op b.2 { status := 4 }) ∧
    (objOk e.fn v = true → rank ≥ objP v ∨ bitOf v (128 + rank) = true → arrive s op e = endEng q.1 op b.2 { status := 2 }) ∧
    (objOk e.fn v = true → rank < objP v → bitOf v (128 + rank) = false → ∃ v', IsJoined v v' rank ∧
      let s2 := putEng (writePieces q.1 (opCtx op g) [p] (leBytes v' 64)) op.id { b.2 with joined := some (p.pa, rank) }
      arrive s op e = if objArrived v + 1 = objP v then runRound s2 e.fn p.pa v else s2)) ∧
  (∀ (s : State) (fn : EngFn) (pa obj : Nat),
    let ops := roundOps s pa
    let r := sourcesOf (objLen obj) (roundReads fn obj ops) s
    (∀ srcs, r.2 = .ok srcs → runRound s fn pa obj = ops.foldl (endRound (roundResult fn obj (objLen obj) srcs)) r.1) ∧
    ∀ f, r.2 = .error f → runRound s fn pa obj = ops.foldl (fun s x => endEng s x.2.1 x.2.2 { status := 3, fault := some f }) r.1) ∧
  ∀ (s : State) (id pa rank : Nat) (op : Op) (e : EngState) (g : Group) (tid : Nat), EngineOutstanding s id op e (some (pa, rank)) g tid →
    (∀ out, let r := runPieces s g (opCtx op g) e op.id (dstSpace e) (roundMoves e out) [] (out.any fun b => b.2)
      (r.2.status = 0 ∨ r.2.status = 1 ∨ (r.2.status = 3 ∧ r.2.fault.isSome)) ∧
      ((∃ g2, groupOf r.1 op.gk = some g2 ∧ g2.run ≠ .preempted) →
        Completed r.1 (endRound out s (rank, op, e)) op (op.gk, tid) (withStatus e op.cnt r.2))) ∧
    ∀ r : EngEnd, Completed s (endEng s op e r) op (op.gk, tid) (withStatus e op.cnt r)

namespace Sys2Proof.Claims

/-- The matrix instructions but `mclaim`, each with what it asks of the headers (Tables 8.1 and 8.2, R195 to R209). -/
def matrixHeaderForms : List ((MatOp → Instr) × (MatOp → List MHeader → MatPlan)) :=
  [(.mrel, planD relHdr), (.mzero, planD zeroHdr), (.mhdrFmt, fun o => planHdr (setFmt o) o), (.mhdrKey, fun o => planHdr (keyHdr o) o),
   (.mhdrWc, fun o => planHdr (wcHdr o) o), (.mhdrSofs, fun o => planHdr (sofsHdr o) o),
   (.mhdrSt, fun _ _ => { names := [1], valid := [], mem := some (16, 16) })]
def matrixMoveForms : List ((MatOp → Instr) × (MatOp → List MHeader → MatPlan)) :=
  [(.mld, fun o hs =>
    let h := loadHdr o (hdrAt hs o.md)
    { names := [0], valid := [0], bad := if hdrValid h then [] else [0], mem := some (imageLen h o.flags.toNat, 64), hdr := some h }),
   (.mst, fun o hs => { planA 0 64 o hs with bad := if isBlock (hdrAt hs o.ma).fmt.toNat && (hdrAt hs o.ma).tr then [1] else [] }),
   (.zld, fun _ _ => { names := [3], valid := [], mem := some (16384, 64) }),
   (.zst, fun _ _ => { names := [3], valid := [], mem := some (16384, 64) }),
   (.zzero, fun _ _ => { names := [3], valid := [] }), (.zcvt, fun _ _ => { names := [0, 3], valid := [0], rank := some 63 }),
   (.mnorm, planA 8 8), (.mma, fun _ _ => { names := [1, 2, 3], valid := [1, 2] })]
def matrixAlgebraForms : List ((MatOp → Instr) × (MatOp → List MHeader → MatPlan)) :=
  [(.mmul, planDAB mulRank), (.madd, planDAB addRank), (.msub, planDAB addRank),
   (.mscale, fun o hs => { planDA id o hs with mem := some (4, 4) }), (.mtrn, planDA id), (.mdense, planDA fun _ => 63),
   (.mrank, fun o hs => needsFactors o hs (planDA (fun r => min o.imm.toNat r) o hs)),
   (.mrecomp, fun o hs => needsFactors o hs { names := [0, 1], valid := [0, 1], hold := true })]
def matrixForms : List ((MatOp → Instr) × (MatOp → List MHeader → MatPlan)) := matrixHeaderForms ++ (matrixMoveForms ++ matrixAlgebraForms)

/-- The group's next matrix instruction may issue: no recompression outstanding or overflowed, room in the queue and in the counters
(R70, R181, R183). -/
structure MatrixReady (s : State) (o : MatOp) (g : Group) : Prop where
  held : (commandsOf s g).all (fun m => !m.hold) = true
  mover : g.mover = none
  room : matStalled s g o = false

/-- A matrix instruction has issued after an effect has made s1 of the state: its command stands last in the queue of the core, the
counter of every thread rises, the group's issue-side headers are `hs`; nothing else of s1 changes. -/
structure MatrixIssued (s1 s' : State) (i : Issue) (rest : List Issue) (g : Group) (wait : BitVec 3) (cmd : MCmd) (hs : List MHeader) :
    Prop where
  cores : s'.cores = (modCore s1 g.core fun c => { c with mqueue := c.mqueue ++ [cmd] }).cores
  member : ∀ m ∈ i.members, ∀ t, threadAt s1 m = some t → t.status ≠ .exited →
    ∃ t', threadAt s' m = some t' ∧ afterWords i 2 m (shiftLatch (charged wait t) 0) t'
  other : ∀ n, n.1 ≠ g.gk → threadAt s' n = threadAt s1 n
  group : ∀ gk x, groupOf s1 gk = some x → ∃ ts, groupOf s' gk = some { (if gk = g.gk then { x with ihdrs := hs } else x) with threads := ts }
  issues : s'.issues = issuesAfter i rest 2
  frame : s' = { s1 with groups := s'.groups, cores := s'.cores, issues := s'.issues, names := s'.names }

/-- A header changed in a group (R193 to R198). -/
def headerChanged (s : State) (g : Group) (md : BitVec 5) (f : MHeader → MHeader) : State :=
  modGroup s g.gk fun x => { x with hdrs := x.hdrs.set md.toNat (f (hdrAt x.hdrs md)) }

/-- The value of ma with its elements copied from the format of ma to that of md (R125, R203, R204). -/
def converted (g : Group) (o : MatOp) (v : MatVal) : MatVal := copied (hdrAt g.hdrs o.ma).fmt.toNat (hdrAt g.hdrs o.md).fmt.toNat v

/-- What the command of a matrix instruction does when the engine starts it (R193 to R209): instructions on headers, moves. -/
def headerEffects : List ((MatOp → Instr) × (State → Group → MCmd → MatOp → State)) :=
  [(.mrel, fun s g _ o => headerChanged s g o.md fun h => { h with rank := 0, scount := 0, wcount := h.wcount + 1 }),
   (.mzero, fun s g _ o => headerChanged s g o.md fun h => { h with rank := 0, wcount := h.wcount + 1 }),
   (.mhdrKey, fun s g _ o => headerChanged s g o.md fun h => { h with key := o.imm.setWidth 16 }),
   (.mhdrWc, fun s g _ o => headerChanged s g o.md fun h => { h with wcount := o.imm.setWidth 16 }),
   (.mhdrSofs, fun s g _ o => headerChanged s g o.md fun h => { h with sofs := o.imm.setWidth 8 }),
   (.mhdrFmt, fun s g _ o => headerChanged s g o.md fun h =>
     let f := o.imm.toNat % 32
     { h with fmt := BitVec.ofNat 5 f, tr := o.imm.getLsbD 5, rm := BitVec.ofNat 3 (o.imm.toNat / 64 % 8)
              blog := if f = 16 ∨ f = 17 then 5 else 0, sofs := if f = 16 then 64 else if f = 17 then 32 else 0 }),
   (.mhdrSt, fun s g m o => scratchStore s g.core m.off (hdrBytes (hdrAt g.hdrs o.ma)))]
def moveEffects : List ((MatOp → Instr) × (State → Group → MCmd → MatOp → State)) :=
  [(.mclaim, fun s g m o => match m.claim with
     | none => s
     | some b =>
       headerChanged (modCore s g.core fun c =>
         { c with tiles := memClear c.tiles (1024 * b) (1024 * o.imm.toNat)
                  tilePoison := clearUnits c.tilePoison (1024 * b) (1024 * o.imm.toNat) }) g o.md
         fun h => { h with rank := 0, sbase := BitVec.ofNat 8 b, scount := BitVec.ofNat 9 o.imm.toNat, wcount := h.wcount + 1 }),
   (.mst, fun s g m o => (imageParts (hdrAt g.hdrs o.ma) (hdrAt g.hdrs o.ma).rank.toNat).foldl
     (fun s p => scratchStore s g.core (m.off + p.1) (((storeImage s g (hdrAt g.hdrs o.ma)).drop p.1).take p.2)) s),
   (.mld, fun s g m o =>
     let h := loadHdr o (hdrAt g.hdrs o.md)
     let bs := canonImage h o.flags.toNat (scratchRead s g.core m.off (imageLen h o.flags.toNat))
     headerChanged (((imageParts h o.flags.toNat).map fun p => (p.1, (bs.drop p.1).take p.2)).foldl (claimWrite g.core h) s) g o.md
       fun h => { h with rank := o.flags, tr := false, wcount := h.wcount + 1 }),
   (.mdense, fun s g _ o => writeValue s g o.md 0 false (.dense (denseOf (converted g o (regValue s g o.ma))))),
   (.mnorm, fun s g m o => scratchStore s g.core m.off
     (leBytes ((normBits (regValue s g o.ma)).toNat + 2 ^ 32 * (hdrAt g.hdrs o.ma).rank.toNat) 8)),
   (.zld, fun s g m _ => tileWrite s g.core m.ztile ((codesOf 32 (scratchRead s g.core m.off 16384)).map (canonCode 10))),
   (.zst, fun s g m _ => scratchStore s g.core m.off (bytesOf 32 (tileCodes s g.core m.ztile))),
   (.zzero, fun s g m _ => tileWrite s g.core m.ztile (List.replicate 4096 0)),
   (.mma, fun s g m o => tileWrite s g.core m.ztile
     (mmaCodes (regValue s g o.ma) (regValue s g o.mb) (o.qf.getLsbD 0) (tileCodes s g.core m.ztile))),
   (.zcvt, fun s g m o => writeValue s g o.md (o.qf.toNat % 4) (o.qf.getLsbD 2)
     (.dense (chunks 64 64 ((tileCodes s g.core m.ztile).map (codeVal 10)))))]

/-- The results of the matrix algebra: the value placed in md, from values of ma and mb, and the one that a fallback to a dense result
places (R201 to R205, R178). -/
def algebraEffects : List ((MatOp → Instr) × (State → Group → MCmd → MatOp → MatVal → MatVal → MatVal × MatVal)) :=
  [(.mmul, fun _ _ _ _ a b => (matMul a b, matMul (asDense a) (asDense b))),
   (.madd, fun _ _ _ _ a b => (matAdd a b, matAdd (asDense a) (asDense b))),
   (.msub, fun _ _ _ _ a b => (matAdd a (negated b), matAdd (asDense a) (asDense (negated b)))),
   (.mscale, fun s g m _ a _ => (matScale (scalarOf s g m) a, matScale (scalarOf s g m) (asDense a))),
   (.mtrn, fun _ g _ o a _ => (transposed (converted g o a), transposed (asDense (converted g o a)))),
   (.mrank, fun _ _ _ o a _ => (truncated o.imm.toNat a, asDense (truncated o.imm.toNat a)))]

/-- The engine of a core starts this command of a group: it is next in turn, and no earlier one of the group met poison (R182, R184). -/
structure Starts (s : State) (core ctx : Nat) (m : MCmd) (g : Group) : Prop where
  idle : (coreOf s core).mrun = none
  next : nextCommand s core = some (ctx, m)
  group : groupOf s m.gk = some g
  clean : g.mpoison = false

/-- The state in which the started command has left the queue. -/
def started (s : State) (core ctx : Nat) (m : MCmd) : State :=
  modCore s core fun c => { c with mqueue := c.mqueue.eraseP fun x => x.gk == m.gk, mrr := ctx }

/-- A completed command: no command runs on the core; every thread of the group is what `u` makes of it, its counter falling where the
command charged it; nothing else of s changes. -/
structure CommandDone (s s' : State) (core : Nat) (m : MCmd) (u : Thread → Thread) : Prop where
  cores : s'.cores = (modCore s core fun c => { c with mrun := none }).cores
  thread : ∀ k, threadAt s' (m.gk, k) = (threadAt s (m.gk, k)).map fun t => if k ∈ m.threads then credited m.cnt (u t) else u t
  other : ∀ n, n.1 ≠ m.gk → threadAt s' n = threadAt s n
  frame : s' = { s with groups := s'.groups, cores := s'.cores }

end Sys2Proof.Claims

/-- R181, R183, R189 to R191: a matrix instruction of a whole group, with no fault of Table 8.2 against the headers as they stand for
it, puts its command into the queue of its core after a release; the headers that the next instruction is checked against follow. -/
def Obligations.MatrixCommandsIssue : Prop :=
  ∀ (o : MatOp) (s : State) (i : Issue) (rest : List Issue) (g : Group), Converged s i rest g → i.members ≠ [] → MatrixReady s o g →
    let s1 := releaseGroup s g.gk
    (∀ x ∈ s.ops, x.gk ≠ g.gk) ∨ s1.issues = s.issues →
    (∀ e ∈ matrixForms, let p := e.2 o g.ihdrs
      issueFault g o p = none →
      Runs (e.1 o) s fun s' => MatrixIssued s1 s' i rest g o.wait (commandOf g (e.1 o) o p) (headersAfter g o p)) ∧
    let p : MatPlan := { names := [0], valid := [0] }
    let h := hdrAt g.ihdrs o.md
    issueFault g o p = none →
      (h.scount = 0 → ∀ b, claimBase s g.core o.imm.toNat = some b →
        Runs (.mclaim o) s fun s' => MatrixIssued s1 s' i rest g o.wait { commandOf g (.mclaim o) o p with claim := some b }
          (g.ihdrs.set o.md.toNat
            { h with rank := 0, wcount := h.wcount + 1, sbase := BitVec.ofNat 8 b, scount := BitVec.ofNat 9 o.imm.toNat })) ∧
      (h.scount ≠ 0 ∨ claimBase s g.core o.imm.toNat = none →
        Runs (.mclaim o) s fun s' => MatrixIssued s1 s' i rest g o.wait (commandOf g (.mclaim o) o p) g.ihdrs)

/-- R182, R193 to R209: the engine starts the oldest command of the group context whose turn it is, and the command acts, unless
it meets poison (R184); a recompression waits for its completion.
R181, R194, R183, R206: a command completes: its counter falls in every thread it was charged to; `mclaim` writes its predicate in
every live thread; a recompression acts now, and the issue-side headers of its group become the headers. -/
def Obligations.MatrixCommandsActAndComplete : Prop :=
  (∀ (s : State) (core ctx : Nat) (m : MCmd) (g : Group), Starts s core ctx m g →
    let turn (k : Nat) : Nat := (k + 15 - (coreOf s core).mrr % 16) % 16
    ((ctx, m) ∈ readyCommands s core ∧ ∀ x ∈ readyCommands s core, turn ctx ≤ turn x.1) ∧
    let s1 := started s core ctx m
    let running (s2 : State) : State := modCore s2 core fun c => { c with mrun := some { m with fault := none } }
    (m.hold = true → exec (.matrixCommandStart core) s = .next (running s1)) ∧
    (∀ f, m.hold = false → commandPoison s1 g m = some f → exec (.matrixCommandStart core) s =
      .next (modCore (modGroup s1 m.gk fun g => { g with mpoison := true }) core fun c => { c with mrun := some { m with fault := some f } })) ∧
    (m.hold = false → commandPoison s1 g m = none → ∀ o : MatOp,
      (∀ e ∈ headerEffects, m.instr = e.1 o → exec (.matrixCommandStart core) s = .next (running (e.2 s1 g m o))) ∧
      (∀ e ∈ moveEffects, m.instr = e.1 o → exec (.matrixCommandStart core) s = .next (running (e.2 s1 g m o))) ∧
      ∀ e ∈ algebraEffects, m.instr = e.1 o →
        let v := e.2 s1 g m o (regValue s1 g o.ma) (regValue s1 g o.mb)
        exec (.matrixCommandStart core) s = .next (running (placeMatrix s1 g m o.md v.1 fun _ => v.2)))) ∧
  (∀ (s : State) (core : Nat) (m : MCmd) (g : Group), (coreOf s core).mrun = some m → groupOf s m.gk = some g →
    g.mpoison = false → g.run ≠ .preempted → m.threads.Nodup → (g.threads.map fun t => t.idx).Nodup →
    (∀ o, m.instr = .mclaim o → m.hold = false → m.fault = none → Runs (.matrixCommandCompletion core) s fun s' =>
      CommandDone s s' core m fun t => if t.status = .exited then t else putPred t (o.flags.setWidth 3) m.claim.isSome) ∧
    ((∀ o, m.instr ≠ .mclaim o) → m.hold = false → m.fault = none →
      Runs (.matrixCommandCompletion core) s fun s' => CommandDone s s' core m fun t => t) ∧
    ∀ o, m.instr = .mrecomp o → m.hold = true → commandPoison s g m = none → g.core = core →
      (∀ x ∈ (coreOf s core).mqueue, x.gk ≠ m.gk) → g.saved = [] →
      let s1 := writeKept s g o.md (recompressed (hdrAt g.hdrs o.md) m.tol (regValue s g o.ma))
      Runs (.matrixCommandCompletion core) s fun s' => ∃ s2, CommandDone s1 s2 core m (fun t => t) ∧
        s' = modGroup s2 m.gk fun x => { x with ihdrs := x.hdrs, mpoison := false })

namespace Sys2Proof.Claims

/-- Every bit of v outside the ranges (lowest bit, width) is as in v'. -/
def SameOutside (v v' : Nat) (rs : List (Nat × Nat)) : Prop :=
  ∀ k, (∀ r ∈ rs, k < r.1 ∨ r.1 + r.2 ≤ k) → v'.testBit k = v.testBit k

/-- A future as `fnew` leaves it (R320, Table 13.4). -/
def IsNewFuture (v v' : Nat) (owner : Word) : Prop :=
  field v' 0 2 = (if owner = 0 then 0 else 1) ∧ field v' 32 32 = owner.toNat ∧ field v' 64 32 = 0 ∧ field v' 128 64 = 0 ∧
  SameOutside v v' [(0, 2), (32, 32), (64, 32), (128, 64)]

/-- A lock of a task, granted to nobody or to a task (R324, R325, Table 13.5). -/
def IsLock (v v' owner grant : Nat) : Prop :=
  field v' 0 32 = owner % 2 ^ 32 ∧ field v' 64 32 = grant % 2 ^ 32 ∧ SameOutside v v' [(0, 32), (64, 32)]

/-- A ticket whose turn it is next (R331, Table 13.7). -/
def IsTicket (v v' turn : Nat) (poison : Bool) : Prop :=
  field v' 0 32 = turn % 2 ^ 32 ∧ bitOf v' 32 = poison ∧ SameOutside v v' [(0, 32), (32, 1)]

/-- One 32-bit field of an object changed. -/
def IsMoved (v v' lo x : Nat) : Prop := field v' lo 32 = x % 2 ^ 32 ∧ SameOutside v v' [(lo, 32)]

/-- The record that a thread spawns from its template (R317): every other field as the template has it. -/
def IsSpawned (template r : TaskRecord) (o : TaskOp) (g : Group) (t : Thread) (farr : DWord) (frame : Nat) : Prop :=
  r = { template with
    arg := ((affOf g o.as.toNat).base + (affOf g o.as.toNat).stride.signExtend 64 * BitVec.ofNat 64 t.idx).toNat % 2 ^ 57
    farr := farr.toNat % 2 ^ 57, rsv := template.rsv, depth := field frame 160 4 + 1, part := g.record.part, world := g.record.world
    prec := 0, carry := 0, variant := 0
    taskid := if o.tx.getLsbD 0 then (template.taskid + field frame 32 32) % 2 ^ 32 else template.taskid }

/-- A group alone in its issue group with every wait counter zero and no fault pending: a group-scope instruction is performed by its
live threads with a true guard, of which there is one (R313). -/
structure Performs (s : State) (i : Issue) (rest : List Issue) (g : Group) (gd : Guard) (t0 : Thread) (ts : List Thread) : Prop where
  converged : Converged s i rest g
  waits : ∀ t ∈ g.threads, t.status ≠ .exited → (∀ n ∈ t.w, n = 0) ∧ t.deferred = []
  first : (liveThreads g).head? = some t0
  guarded : ts = (liveThreads g).filter fun t => guardTrue t gd
  some : ts ≠ []

/-- A wait of a group has been performed and left s2: the group acquires and goes on (R314). -/
def WaitDone (ins : Instr) (s s2 : State) (i : Issue) (rest : List Issue) (g : Group) : Prop :=
  s2.issues = s.issues → Runs ins s fun s' => AllPast (acquireCore s2 g.core) s' i rest 2

/-- The waits on objects of fixed kind: size of the object and kind of the wait (Table 13.3). -/
def objectWaits : List ((TaskOp → Instr) × Nat × WaitKind) :=
  [(.fget, 32, .fget), (.lacq, 16, .lacq), (.qget, 64, .qget), (.tktake, 8, .tktake)]

/-- The phase record of a group can be written and the group's phase has ended (R39, R40): it is parked, none of its threads is in an
issue group or keeps a register, each live one stands at rpc, and its record names the phase record and the carry count. -/
structure PhaseEnded (s' : State) (g : Group) (rpc : DWord) (n : Nat) : Prop where
  group : ∃ g', groupOf s' g.gk = some g' ∧ g'.run = .parked ∧ g'.adopt = none ∧ g'.barriers = [0, 0, 0, 0] ∧
    g'.record.prec = g.frame + 64 ∧ g'.record.carry = n ∧ g'.record.gfirst = g.gid ∧ g'.record.gcount = 1 ∧
    g'.threads.length = g.threads.length ∧
    ∀ t ∈ g'.threads, t.regs = [] ∧ t.pc = rpc ∧ (t.status = .ready ∨ t.status = .exited)
  issues : ∀ i ∈ s'.issues, ∀ m ∈ i.members, m.1 ≠ g.gk

end Sys2Proof.Claims

/-- R317, R334: `spawn` releases, counts the child in the frame and accepts its record, whose grid has the frame as parent; it
completes with the child's task identifier where asked for it. `tself` puts the quantity it selects. -/
def Obligations.SpawnAndSelfResults : Prop :=
  (∀ (o : TaskOp) (s : State) (i : Issue) (rest : List Issue) (m : Nat × Nat) (g : Group) (t : Thread),
    Alone s i rest m g t → Unbegun i → guardTrue t o.g = true → spawnHeld o s g t = false →
    let template := readObject s g t o 64 .r
    let frame := frameRead template.1 g
    ∀ farr v fr, readSrc64 .int g t o.b = .ok farr → farr.toNat < 2 ^ 57 → template.2 = .ok v → frame.2 = some fr → field fr 160 4 < 10 →
      ∃ r, IsSpawned (parseRecord v) r o g t farr fr ∧ (recordValid r g.record.part = true →
        ∃ up : Nat → Nat, (∀ x, field (up x) 0 32 = (field x 0 32 + 1) % 2 ^ 32 ∧ field (up x) 32 32 = (field x 32 32 + 1) % 2 ^ 32 ∧
          SameOutside x (up x) [(0, 64)]) ∧
        let s2 := frameUpdate (releaseThread frame.1 m.1 m.2) g up
        let s3 := acceptRecord s2 r g.frame (g.core / 8) false .none none
        let s4 := if o.tx.getLsbD 1 then modThread s3 m.1 m.2 fun t => setReg t o.d.toNat (BitVec.ofNat 32 r.taskid) else s3
        (∃ gr, s3.grids = s2.grids ++ [gr] ∧ gr.record = r ∧ gr.parent = g.frame ∧ gr.remain = r.gcount ∧ gr.hostLaunched = false) ∧
        (s4.issues = s.issues → Runs (.spawn o) s fun s' => Past s4 s' i rest m 2))) ∧
  ∀ (o : TaskOp) (s : State) (i : Issue) (rest : List Issue) (m : Nat × Nat) (g : Group) (t : Thread),
    Alone s i rest m g t → guardTrue t o.g = true →
    let puts (s1 : State) (v : Nat) : Prop := s1.issues = s.issues → Runs (.tself o) s fun s' =>
      Past (modThread s1 m.1 m.2 fun t => setReg t o.d.toNat (BitVec.ofNat 32 v)) s' i rest m 2
    let sel := o.tx.toNat % 8
    (sel = 0 → puts s g.record.taskid) ∧
    (sel = 3 → puts s g.record.depth) ∧
    (sel = 4 → puts s (if g.adopt = none then 0 else 1)) ∧
    (sel = 5 → g.record.det = false → puts s 0) ∧
    (let frame := frameRead s g
      ∀ fr, frame.2 = some fr → (sel = 1 → puts frame.1 (field fr 32 32)) ∧ (sel = 2 → puts frame.1 (field fr 0 32))) ∧
    ∀ gr, sel = 5 → g.record.det = true → gridOf s g.grid = some gr →
      let b := hwRead s g.record.part g.record.world gr.record.farr 64
      ∀ bs, b.2 = .ok bs → puts b.1 (field (leNat bs) 326 16)

/-- R318, R39, R40, R297: `await` and `phase` end the phase of their group at the next clause, with the carry count they name or the
variant's: after a release the phase record is written, the registers are taken and the group is parked. The continuation is enqueued at
once, or, after `await`, once no child is pending. -/
def Obligations.PhaseEndsParkTheGroup : Prop :=
  (∀ (s : State) (gk : Nat) (g : Group) (rpc hdr : DWord) (n wobj : Nat), let s0 := releaseGroup s gk
    groupOf s0 gk = some g →
    (hwWrite s0 g.record.part g.record.world (g.frame + 64) (phaseRecord g rpc n wobj)).2 = none →
    PhaseEnded (endPhase s gk rpc hdr n wobj) g rpc n) ∧
  (∀ (s : State) (gk : Nat), (∀ x ∈ s.ops, x.gk ≠ gk) → CachesOnly s (releaseGroup s gk)) ∧
  ∀ (o : TaskOp) (s : State) (i : Issue) (rest : List Issue) (g : Group) (t0 : Thread) (ts : List Thread), Performs s i rest g o.g t0 ts →
    let n := if o.tx = 0 then variantCarry g else o.tx.toNat
    let s0 := releaseGroup s g.gk
    let s1 := endPhase s g.gk (nextClause i) (nextClause i) n 0
    ∀ g0, n ≤ g.regCount → groupOf s0 g.gk = some g0 → g0.failed = false →
      (hwWrite s0 g0.record.part g0.record.world (g0.frame + 64) (phaseRecord g0 (nextClause i) n 0)).2 = none →
      exec (.phase o) s = .next (enqueueCont (endStep s1 g.gk) g.gk) ∧
      let b := hwRead s1 g0.record.part g0.record.world g0.frame 64
      ∀ bs, b.2 = .ok bs →
        (field (leNat bs) 0 32 = 0 → exec (.await o) s = .next (enqueueCont (endStep b.1 g.gk) g.gk)) ∧
        (field (leNat bs) 0 32 ≠ 0 → exec (.await o) s = .next (modGroup b.1 g.gk fun x => { x with awaiting := true }))

/-- R320, R321, R325, R329, R308: `fnew`, `fput`, `lrel` and `dcdec` of an acting thread: the object they leave, the release before it,
the waiters they wake, the successor they accept. -/
def Obligations.ObjectUpdateResults : Prop :=
  (∀ (o : TaskOp) (s : State) (i : Issue) (rest : List Issue) (m : Nat × Nat) (g : Group) (t : Thread),
    Alone s i rest m g t → guardTrue t o.g = true →
    let va := objectVa g o
    let done (ins : Instr) (s3 : State) : Prop := s3.issues = s.issues → Runs ins s fun s' => Past s3 s' i rest m 2
    (let b := readObject s g t o 32 .rw
      let s2 := releaseThread b.1 m.1 m.2
      ∀ v, b.2 = .ok v →
        (∀ x, readSrc32 .int g t o.b = .ok x → ∃ v', IsNewFuture v v' x ∧ done (.fnew o) (writeObject b.1 g va 32 v')) ∧
        ∀ x, readSrc64 .int g t o.b = .ok x →
          (field v 0 2 ≥ 2 → done (.fput o) b.1) ∧
          (field v 0 2 < 2 → done (.fput o) (settleFuture s2 g.record.part g.record.world va x.toNat false).1)) ∧
    (let b := readObject s g t o 16 .rw
      let s2 := releaseThread b.1 m.1 m.2
      ∀ v, b.2 = .ok v → field v 0 32 = g.record.taskid →
        (waitersOn s2 g.record.part g.record.world va = [] →
          ∃ v', IsLock v v' 0 0 ∧ done (.lrel o) (writeObject s2 g va 16 v')) ∧
        ∀ w ws x, waitersOn s2 g.record.part g.record.world va = w :: ws → groupOf s2 w.gk = some x →
          ∃ v', IsLock v v' 0 x.record.taskid ∧ done (.lrel o) (wakeWaiter (writeObject s2 g va 16 v') w)) ∧
    let b := readObject s g t o 128 .rw
    let s2 := releaseThread b.1 m.1 m.2
    ∀ v, Unbegun i → dcdecHeld o s g t = false → b.2 = .ok v →
      let r := parseRecord (field v 512 512)
      recordValid r g.record.part = true → r.world = g.record.world →
      (field v 0 32 = 0 → done (.dcdec o) s2) ∧
      (1 < field v 0 32 → ∃ v', IsMoved v v' 0 (field v 0 32 - 1) ∧ done (.dcdec o) (writeObject s2 g va 128 v')) ∧
      (field v 0 32 = 1 → ∃ v', field v' 0 32 = 0 ∧ bitOf v' 32 = true ∧ SameOutside v v' [(0, 33)] ∧
        done (.dcdec o) (acceptRecord (writeObject s2 g va 128 v') r 0 (g.core / 8) false .none none))) ∧
  ∀ (s : State) (part va x : Nat) (world : Bool), let b := hwRead s part world va 32
    ∀ bs, b.2 = .ok bs → field (leNat bs) 0 2 < 2 →
      ∃ v', field v' 0 2 = 2 ∧ field v' 128 64 = x % 2 ^ 64 ∧ SameOutside (leNat bs) v' [(0, 2), (128, 64)] ∧
        let w := hwWrite b.1 part world va (leBytes v' 32)
        w.2 = none → settleFuture s part world va x false = (wakeAll w.1 part world va, none)

/-- R314, R322, R324, R328, R331, R332, Table 13.3: a wait whose object is ready is performed: its effect on the object, its results in
every thread with a true guard, its acquire; the group goes on. -/
def Obligations.WaitsThatAreReady : Prop :=
  ∀ (o : TaskOp) (s : State) (i : Issue) (rest : List Issue) (g : Group) (t0 : Thread) (ts : List Thread), Performs s i rest g o.g t0 ts →
    let va := objectVa g o
    let part := g.record.part
    let world := g.record.world
    let pd := o.tx.setWidth 3
    let pf := (o.tx >>> 3).setWidth 3
    let all (s : State) (f : Thread → Thread) : State := ts.foldl (fun s t => modThread s g.gk t.idx f) s
    (let b := readObject s g t0 o 32 .rw
      let failed := ownerFailed b.1 part
      ∀ v, b.2 = .ok v →
        (field v 0 2 = 2 → WaitDone (.fget o) s
          (all b.1 fun t => putPred (setPair t o.d.toNat (BitVec.ofNat 64 (field v 128 64))) pd false) i rest g) ∧
        (field v 0 2 = 3 → WaitDone (.fget o) s (all b.1 fun t => putPred (setPair t o.d.toNat 0) pd true) i rest g) ∧
        (field v 0 2 < 2 → (failed (field v 32 32)).2 = true →
          WaitDone (.fget o) s
            (all (settleFuture (failed (field v 32 32)).1 part world va 0 true).1 fun t => putPred (setPair t o.d.toNat 0) pd true)
            i rest g)) ∧
    (let b := readObject s g t0 o 16 .rw
      let failed := ownerFailed b.1 part
      ∀ v, b.2 = .ok v → ∃ v', IsLock v v' g.record.taskid 0 ∧
        let taken (s1 : State) (again : Bool) : Prop :=
          WaitDone (.lacq o) s (all (writeObject (modGroup s1 g.gk fun x => { x with wait := none }) g va 16 v') fun t => putPred t pd again)
            i rest g
        (field v 0 32 = 0 → field v 64 32 = 0 ∨ field v 64 32 = g.record.taskid → taken b.1 false) ∧
        (field v 0 32 = 0 → field v 64 32 ≠ 0 → field v 64 32 ≠ g.record.taskid → (failed (field v 64 32)).2 = true →
          taken (failed (field v 64 32)).1 false) ∧
        (field v 0 32 ≠ 0 → (failed (field v 0 32)).2 = true → taken (failed (field v 0 32)).1 true)) ∧
    (let b := readObject s g t0 o 64 .rw
      ∀ v, b.2 = .ok v → 1 ≤ field v 64 4 → field v 64 4 ≤ 12 →
        let used := (field v 128 32 + 2 ^ 32 - field v 96 32) % 2 ^ 32
        let preds (k : Nat) (s : State) : State := (enumFrom 0 ts).foldl
          (fun s e => modThread s g.gk e.2.idx fun t => putPred (putPred t pd (decide (e.1 < k))) pf (k == 0)) s
        ((∀ t ∈ ts, ∃ r, regChecked t o.d.toNat 4 = .ok r) → (field v 0 32 = 0 ∨ field v 0 32 = g.record.taskid) →
          (used < 2 ^ field v 64 4 →
            let k := min ts.length (2 ^ field v 64 4 - used)
            let e := readEntries b.1 g t0 va v (field v 128 32) .rw k
            (∃ es, e.2 = .ok es) →
            let filled := (enumFrom (field v 128 32) (ts.take k)).foldl (fun s e =>
              (hwWrite s part world (va + 64 + 16 * (e.1 % 2 ^ field v 64 4))
                ((List.range 4).flatMap fun w => leBytes (regOf e.2 (o.d.toNat + w)).toNat 4)).1) (releaseGroup e.1 g.gk)
            ∃ v', IsMoved v v' 128 (field v 128 32 + k) ∧
              WaitDone (.qput o) s (wakeAll (writeObject (preds k filled) g va 64 v') part world va) i rest g) ∧
          (used = 2 ^ field v 64 4 → let x := ownerFailed b.1 part (field v 32 32)
            x.2 = true → WaitDone (.qput o) s (preds 0 (releaseGroup x.1 g.gk)) i rest g)) ∧
        ((field v 32 32 = 0 ∨ field v 32 32 = g.record.taskid) →
          (0 < used →
            let k := min ts.length used
            let e := readEntries b.1 g t0 va v (field v 96 32) .r k
            ∀ es, e.2 = .ok es →
              let got := ((ts.take k).zip es).foldl (fun s e => replyRegs s g.gk e.1.idx o.d.toNat (bytesToWords 4 e.2)) e.1
              ∃ v', IsMoved v v' 96 (field v 96 32 + k) ∧
                WaitDone (.qget o) s (wakeAll (writeObject (preds k got) g va 64 v') part world va) i rest g) ∧
          (used = 0 → let x := ownerFailed b.1 part (field v 0 32)
            x.2 = true → WaitDone (.qget o) s (preds 0 x.1) i rest g))) ∧
    let b := readObject s g t0 o 8 .rw
    ∀ v, b.2 = .ok v →
      (g.gid < 2 ^ 32 → field v 0 32 = g.gid →
        ∃ v', IsTicket v v' (g.gid + 1) (bitOf v 32) ∧
          let s1 := releaseGroup b.1 g.gk
          let s2 := modGroup s1 g.gk fun x => { x with taken := x.taken ++ ticketSlots s1 g.grid va }
          WaitDone (.tktake o) s (all (setTicket s2 part world va v').1 fun t => putPred t pd (bitOf v 32)) i rest g) ∧
      ∀ t n, ts.head? = some t → readSrc32 .int g t o.b = .ok n → n.toNat ≤ field v 0 32 →
        WaitDone (.tkwait o) s (all b.1 fun t => putPred t pd (bitOf v 32)) i rest g

/-- R314, R44, R303: a wait whose object is not ready counts its waiter, ends the phase at the wait's first word, and parks in a
deterministic grid; elsewhere the core helps. That holds of every wait: of a `qput` also on a full ring whose consumer has not failed, of a
`tkwait` while the ticket is below its n. An adopted phase that has ended leaves its level, and the waiter is helped again. -/
def Obligations.WaitsThatAreNotReady : Prop :=
  (∀ (o : TaskOp) (s : State) (i : Issue) (rest : List Issue) (g : Group) (t0 : Thread) (ts : List Thread), Performs s i rest g o.g t0 ts →
    let part := g.record.part
    let world := g.record.world
    let parks (ins : TaskOp → Instr) (size : Nat) (kind : WaitKind) : Prop :=
      let b := readObject s g t0 o size .rw
      ∀ v, b.2 = .ok v →
        (kind = .qget ∨ kind = .qput → 1 ≤ field v 64 4 ∧ field v 64 4 ≤ 12) →
        (kind = .qget → field v 32 32 = 0 ∨ field v 32 32 = g.record.taskid) →
        (kind = .qput → field v 0 32 = 0 ∨ field v 0 32 = g.record.taskid) →
        (kind = .tktake → field v 0 32 ≤ g.gid % 2 ^ 32) →
        let ready := waitReady b.1 part g.record.taskid g.gid kind v
        let va := objectVa g o
        let pc := i.hdr + BitVec.ofNat 64 (4 * (i.off + 1))
        let s3 := endPhase (countWaiter ready.1 part world va kind 1) g.gk pc i.hdr (variantCarry g) va
        let w : Waiter := { gk := g.gk, kind := kind, obj := va, part := part, world := world }
        ∀ g3, ready.2 = false → groupOf s3 g.gk = some g3 → g3.failed = false →
          g3.gk = g.gk → g3.core = g.core → g3.record.det = g.record.det → g3.record.part = part → g3.record.world = world →
          let s4 := modGroup s3 g.gk fun x => { x with wait := some (kind, va) }
          (g.record.det = true → exec (ins o) s = .next { s4 with waiters := s4.waiters ++ [w] }) ∧
          (g.record.det = false → exec (ins o) s = .next (help g.core w 8 s4))
    (∀ e ∈ objectWaits, parks e.1 e.2.1 e.2.2) ∧
    ((∀ t ∈ ts, ∃ r, regChecked t o.d.toNat 4 = .ok r) → parks .qput 64 .qput) ∧
    (∀ t n, ts.head? = some t → readSrc32 .int g t o.b = .ok n → parks .tkwait 8 (.tkwait n.toNat)) ∧
    (∀ v, (field v 128 32 + 2 ^ 32 - field v 96 32) % 2 ^ 32 = 2 ^ field v 64 4 →
      let x := ownerFailed s part (field v 32 32)
      x.2 = false → waitReady s part g.record.taskid g.gid .qput v = (x.1, false)) ∧
    ∀ v n, field v 0 32 < n → waitReady s part g.record.taskid g.gid (.tkwait n) v = (s, false)) ∧
  ∀ (core : Nat) (s : State) (l : HelpLevel), (coreOf s core).help.reverse.find? (levelDone s) = some l →
    let s1 := modCore s core fun c => { c with help := c.help.filter fun x => x != l }
    (∀ g, groupOf s l.waiter = some g → g.run = .parked → l.taken = false →
      exec (.adoptedPhaseEnd core) s =
        .next (help core { gk := l.waiter, kind := l.kind, obj := l.obj, part := l.part, world := l.world } 8 s1)) ∧
    ((∀ g, groupOf s l.waiter = some g → g.run ≠ .parked ∨ l.taken = true) → exec (.adoptedPhaseEnd core) s = .next s1)

/-- R250, R254 to R256, R333: after a release the hardware takes a due ticket for a group that ended its step without it, with poison when
the group has failed; a commit applies the staged entries in ascending group identifier, counts the step in the grid record, clears what
the groups took and staged, and ends with their release. -/
def Obligations.DeterministicStepResults : Prop :=
  (∀ (gk slot : Nat) (s : State) (g : Group) (va v : Nat), dueTicket s gk slot = some (g, va, .ok v) →
    ∃ v', IsTicket v v' (g.gid + 1) (bitOf v 32 || g.failed) ∧
      let s1 := modGroup (releaseGroup s gk) gk fun x => { x with taken := x.taken ++ [slot] }
      let r := setTicket s1 g.record.part g.record.world va v'
      (r.2 = none → exec (.ticketAutomaticTake gk slot) s = .next r.1)) ∧
  (∀ (gk slot : Nat) (s : State), dueTicket s gk slot = none → exec (.ticketAutomaticTake gk slot) s = .next s) ∧
  ∀ (grid : Nat) (s : State) (gr : Grid), gridOf s grid = some gr →
    (mayCommit s gr = false → exec (.deterministicCommit grid) s = .next s) ∧
    (mayCommit s gr = true → Runs (.deterministicCommit grid) s fun s' =>
      (∃ gr', gridOf s' grid = some gr' ∧ gr'.commits = gr.commits + 1) ∧
      (∀ x ∈ s'.groups, x.grid = grid → x.taken = [] ∧ x.staged = 0) ∧
      ∀ gs : List Group, gs.Perm (s.groups.filter fun x => x.grid == grid && !x.failed) →
        gs.Pairwise (fun x y => x.gid < y.gid) → (∀ va ∈ gr.ticks, va = 0) →
        let w := hwUpdate (gs.foldl (commitGroup gr) s) gr.record.part gr.record.world gr.record.farr 64
          (fun x => setField x 326 16 (field x 326 16 + 1))
        w.2 = none → s' = releaseGrid grid { modGrid w.1 grid (fun x => { x with commits := x.commits + 1 }) with
          groups := w.1.groups.map fun x => if x.grid = grid then { x with taken := [], staged := 0 } else x })

namespace Sys2Proof.Claims

/-- An operation of several threads of a group is complete after an effect has made s1 of the state: it is outstanding no longer, the
counter of each of its threads falls, each is what `f` makes of it, and nothing else of s1 changes. -/
structure OpDone (s1 s' : State) (o : Op) (f : Nat → Thread → Thread) : Prop where
  ops : s'.ops = s1.ops.filter fun x => x.id != o.id
  member : ∀ k ∈ o.threads, ∀ t, threadAt s1 (o.gk, k) = some t → threadAt s' (o.gk, k) = some (credited o.cnt (f k t))
  other : ∀ n, n.1 ≠ o.gk ∨ n.2 ∉ o.threads → threadAt s' n = threadAt s1 n
  group : ∀ gk g, groupOf s1 gk = some g → ∃ ts, groupOf s' gk = some { g with threads := ts }
  frame : s' = { s1 with groups := s'.groups, ops := s'.ops }

/-- Bytes stored in the scratchpad of a core and nothing else changed. -/
def ScratchStored (s s1 : State) (core off : Nat) (data : List Byte) : Prop :=
  s1 = { s with cores := s1.cores } ∧
  ∀ c a, scratchByte s1 c a = if c = core ∧ off ≤ a ∧ a < off + data.length then data.getD (a - off) 0 else scratchByte s c a

/-- An operation of threads of a group that is on its core; no read has found its reply new yet (R72). -/
structure GroupOutstanding (s : State) (id : Nat) (o : Op) (g : Group) : Prop where
  op : opOf s id = some o
  early : o.early = []
  group : groupOf s o.gk = some g
  resident : g.run ≠ .preempted
  distinct : o.threads.Nodup
  some : o.threads ≠ []

end Sys2Proof.Claims

/-- R343, R348, R351, Table 14.4: `mvtx` writes the words of a vertex record and `mprim` a primitive word of the group's mesh output
buffer; `sinfo` puts what the group knows; `tcomb` issues its update with the depth and colour as they stand. -/
def Obligations.GeometryThreadResults : Prop :=
  ∀ (o : TaskOp) (s : State) (i : Issue) (rest : List Issue) (m : Nat × Nat) (g : Group) (t : Thread) (b : Word),
    memoriesWf s = true → Alone s i rest m g t → guardTrue t o.g = true →
    (∀ base ws, readSrc32 .int g t o.b = .ok b → noSyncWaits s → g.record.kind = 2 → meshEnded g = false → g.meshBase = some base →
      b.toNat < 256 →
      (sourceRegs t o.d.toNat (4 + o.tx.toNat % 16) = .ok ws → Runs (.mvtx o) s fun s' => ∃ s1, Past s1 s' i rest m 2 ∧
        ScratchStored s s1 g.core (base + 48 * b.toNat) (ws.flatMap fun w => leBytes w.toNat 4)) ∧
      (sourceRegs t o.d.toNat 1 = .ok ws → Runs (.mprim o) s fun s' => ∃ s1, Past s1 s' i rest m 2 ∧
        ScratchStored s s1 g.core (base + 12288 + 4 * b.toNat) (ws.flatMap fun w => leBytes w.toNat 4))) ∧
    (readSrc32 .int g t o.b = .ok b →
      let puts (v : Word) : Prop := Runs (.sinfo o) s fun s' => Past (modThread s m.1 m.2 fun t => setReg t o.d.toNat v) s' i rest m 2
      let sel := o.tx.toNat % 16
      (∀ v, sinfoValue s g t sel b.toNat = .ok v → puts v) ∧
      (∀ die f, g.gfx = .task die f → sel = 1 → puts f) ∧
      (∀ c k e, g.gfx = .mesh c k e →
        let p := (clusterOf s c).ring.getD k {}
        (sel = 1 → puts (BitVec.ofNat 32 p.len)) ∧
        (sel = 0 → b.toNat % 4 = 0 → b.toNat < p.len → b.toNat / 64 ∉ p.poison →
          puts (BitVec.ofNat 32 (leNat ((p.data.drop b.toNat).take 4))))) ∧
      ∀ x y, g.gfx = .sample x → x.samples[t.idx]? = some y →
        (sel = 2 → puts (BitVec.ofNat 32 (y.i + 2 ^ 16 * y.j))) ∧ (sel = 3 → puts (lambdaOf y.e1 y)) ∧
        (sel = 4 → puts (lambdaOf y.e2 y)) ∧ (sel = 5 → puts x.key)) ∧
    ∀ z ws, readSrc32 .f32 g t o.b = .ok z → hasRoom o.wait t → g.record.kind = 3 → sourceRegs t o.d.toNat 2 = .ok ws →
      Runs (.tcomb o) s fun s' => Issued s s' i rest m g t o.wait (.tcomb z (BitVec.ofNat 64 (wordsNat ws)) [] false)

/-- R340, R341, R344, R354, R313: `temit` takes a slot of its cluster's payload ring, fills it from the scratchpad and accepts its
record; without a slot its phase ends. `mend` ends the meshlet and issues its binning, `tdone` the hand-off of its tile: operations of
every thread with a true guard, after a release. -/
def Obligations.GeometryGroupResults : Prop :=
  ∀ (o : TaskOp) (s : State) (i : Issue) (rest : List Issue) (g : Group) (t0 t : Thread) (ts : List Thread),
    Performs s i rest g o.g t0 ts → ts.head? = some t →
    (let checks := temitChecks o s g t
      let s1 := checks.1
      ∀ r, checks.2 = some (.ok r) →
        (g.record.kind = 1 ∧ r.kind = 2 ∧ r.gfirst = 0 ∧ r.gcount = o.tx.toNat + 1 ∧ r.part = g.record.part ∧
          r.world = g.record.world ∧ r.prec = 0 ∧ r.carry = 0 ∧ r.variant = 0) ∧
        (∀ slot, slotFor s1 (g.core / 8) g.gk = some slot → temitHeld s1 g r = false →
          let s2 := emitPayload o s1 g r slot
          (s2.issues = s.issues → Runs (.temit o) s fun s' => AllPast s2 s' i rest 2) ∧
          ∃ p, (clusterOf s2 (g.core / 8)).ring[slot]? = some p ∧ p.owner = some (r.part, r.taskid) ∧ p.len = payLen o ∧
            p.data = scratchRead s1 g.core (payPlace g o) (payLen o) ∧ p.reserved = none) ∧
        (slotFor s1 (g.core / 8) g.gk = none → exec (.temit o) s = .next (waitForSlot s1 g (siteNow i)))) ∧
    let s1 := releaseGroup s g.gk
    (∀ x ∈ s.ops, x.gk ≠ g.gk) ∨ s1.issues = s.issues →
    (∀ b c k, readSrc64 .int g t o.b = .ok b → g.record.kind = 2 → g.gfx = .mesh c k false → mendFault s g b.toNat = none →
      let s2 := modGroup s1 g.gk fun x => { x with gfx := match x.gfx with | .mesh c k _ => .mesh c k true | y => y }
      Runs (.mend o) s fun s' => AllPast (issueGroupOp s2 g ts o.wait
        (.binning (b.toNat % 512) (b.toNat / 2 ^ 16 % 512) (BitVec.ofNat 24 (b.toNat / 2 ^ 32 % 2 ^ 24)))) s' i rest 2) ∧
    (tdoneFault s g o = none → Runs (.tdone o) s fun s' => AllPast (issueGroupOp s1 g ts o.wait
      (.tdone o.d.toNat (o.tx.toNat % 8) ((segOf g 1).base.toNat + pixelOff g o))) s' i rest 2)

/-- R344, R345, R351, R354: the binning of a meshlet that is next of its partition completes and its buffer is given up, its records all
in the open frame or none; `tcomb` updates the records of its sample when its triple is less, in each tile that has its slot, and completes
with the last one; `tdone` gives every thread the status that the entry of its tile met at the hand-off queue. -/
def Obligations.GeometryOperationsComplete : Prop :=
  (∀ (s : State) (id : Nat) (op : Op) (g : Group) (nv np base die : Nat) (key : BitVec 24), GroupOutstanding s id op g →
    op.kind = .binning nv np key → g.meshBase = some base →
    die = ((gridOf s g.grid).map fun x => x.cluster / 6).getD (g.core / 48) →
    ((s.ops.takeWhile fun x => x.id != id).any fun x => submittedTo s die g.record.part x) = false →
    ((dieOf s die).frames.map fun x => x.grid).Nodup →
    let r := binMeshlet s g die base nv np key
    (Runs (.meshletBinning id) s fun s' => OpDone (modGroup r.1 op.gk fun g => { g with meshBase := none }) s' op fun k t =>
      match r.2 with | some f => if op.threads.head? = some k then withDeferred op.cnt f t else t | none => t) ∧
    (r.2 ≠ none → openFrameOf r.1 die g.record.part = openFrameOf s die g.record.part) ∧
    (∀ f, r.2 = none → openFrameOf s die g.record.part = some f →
      let rs := meshletRecords s f g.core base np key
      f.binsUsed + rs.length ≤ (1024 * f.binkib - 2048) / 256 ∧
        openFrameOf r.1 die g.record.part = some { f with binsUsed := f.binsUsed + rs.length })) ∧
  (∀ (s : State) (id : Nat) (op : Op) (g : Group) (tid : Nat) (z : Word) (colour : DWord) (done : List Nat) (bad : Bool),
    GroupOutstanding s id op g → op.threads = [tid] → op.kind = .tcomb z colour done bad →
    (∀ x ∈ s.ops.takeWhile (fun x => x.id != id), x.gk ≠ op.gk ∨ x.threads ≠ [tid]) →
    let places := combinePlaces s g tid
    let now := places.2.filter fun t => t.1.assigned && !(done.contains t.1.q)
    let r := (now.map fun t => t.2).foldl (combineOne z places.1 colour) (s, bad)
    ((∀ t ∈ places.2, t.1.assigned = true) → noSyncWaits s ∨ (∃ g1, groupOf r.1 op.gk = some g1 ∧ g1.run ≠ .preempted) →
      Runs (.tcombCompletion id) s fun s' =>
        Completed r.1 s' op (op.gk, tid) (if r.2 then withDeferred op.cnt { cls := 17 } else fun t => t)) ∧
    ((∃ t ∈ places.2, t.1.assigned = false) → exec (.tcombCompletion id) s = .next { r.1 with
      ops := updFirst (fun x => x.id == id) (fun x => { x with kind := .tcomb z colour (done ++ now.map fun t => t.1.q) r.2 }) r.1.ops })) ∧
  (∀ (s : State) (core at' : Nat) (z key : Word) (colour : DWord) (bad : Bool), memoriesWf s = true → noSyncWaits s →
    scratchPoisoned s core at' 16 = false →
    let old := leNat (scratchRead s core at' 16)
    let new := leBytes (z.toNat + 2 ^ 32 * key.toNat + 2 ^ 64 * colour.toNat) 16
    ∃ s1, combineOne z key colour (s, bad) (core, at') = (s1, bad) ∧
      if tripleLess z key colour old then ScratchStored s s1 core at' new else s1 = s) ∧
  ∀ (s : State) (id : Nat) (op : Op) (g : Group) (d pl off : Nat), GroupOutstanding s id op g → op.kind = .tdone d pl off →
    let completes (st : Nat) (s2 : State) (was : Nat → Output) : Prop := Runs (.tdoneCompletion id) s fun s' => ∃ s3,
      s3 = { s2 with outputs := s3.outputs } ∧ (∀ o, outOf s3 o = was o) ∧
      OpDone s3 s' op fun _ t => putPred (withRegs d [BitVec.ofNat 32 st] t) (BitVec.ofNat 3 pl) (st != 0)
    (∀ st, handedOff s id = some st →
      completes st s fun o => { outOf s o with handoff := (outOf s o).handoff.filter fun x => x.1 != id }) ∧
    ∀ x v, handedOff s id = none → g.gfx = .recon x → tileView s x = some v →
      let st := tdoneStatus s v
      let s1 := if st = 0 then copyTile s op.core off v else s
      (v.tile.accepted = true ∨ v.tile.lateDone = true → st = 3) ∧ st ≤ 3 ∧
      completes st (modFrame s1 x.die x.frame fun f => updTile f x.q fun t =>
        { t with accepted := t.accepted || st == 0, lateDone := t.lateDone || st == 1 }) fun o => outOf s o


namespace Sys2Proof.Claims

/-- A member of a group of the device as an event of a subcore finds it. -/
structure Resident (s : State) (x : Group × Thread) : Prop where
  group : groupOf s x.1.gk = some x.1
  thread : threadOf x.1 x.2.idx = some x.2

/-- A thread of an issue group about to start at the clause's first word (R66). -/
def starting (t : Thread) : Thread := { t with status := .issuing, l0 := 0, l1 := 0 }

/-- A host event that concerns one partition has been given out: of the device only free values, that partition's queue and memory
changed. -/
def EventGiven (s s' : State) (part code arg0 : Nat) : Prop :=
  ∃ n arg1, s' = hostEvent { s with fresh := n } part code arg0 arg1

/-- Link state, fatal state and firmware let a host command through (R422, R426, R445). -/
def hostOpen (s : State) : Prop := s.fatal = false ∧ s.booted = true ∧ s.modulesDown.length ≠ 4

/-- Of threads at one place, oldest first, those that issue together (R32, R34): the oldest is among them, their lanes differ, they belong to
at most four groups, which rank by the age of their oldest thread; of a chosen group's threads on a lane the oldest is taken. -/
structure FormedFrom (all : List (Group × Thread)) (lead : Group × Thread) (ms : List (Group × Thread)) : Prop where
  lead : lead ∈ ms ∧ ∀ y ∈ all, lead.2.age ≤ y.2.age
  among : ∀ m ∈ ms, m ∈ all
  lanes : ms.Pairwise fun x y => laneNumber x.1 x.2.idx ≠ laneNumber y.1 y.2.idx
  groups : ∃ gs : List Nat, gs.length ≤ 4 ∧ (∀ m ∈ ms, m.1.gk ∈ gs) ∧ ∀ y ∈ all,
    (y.1.gk ∈ gs → laneNumber y.1 y.2.idx < 32 →
      ∃ z ∈ ms, laneNumber z.1 z.2.idx = laneNumber y.1 y.2.idx ∧ z.2.age ≤ y.2.age) ∧
    (y.1.gk ∉ gs → gs.length = 4 ∧ ∀ k ∈ gs, ∃ z ∈ all, z.1.gk = k ∧ z.2.age ≤ y.2.age)

end Sys2Proof.Claims

/-- R62, R64, R32, R34, R37, R66: the oldest ready thread of a subcore fetches its clause, with the threads at its place that may issue
with it, and holds at a reconvergence clause. At a clause boundary of the subcore the oldest ready thread that has its clause and whose waits
are over issues, with the threads at its place: lanes that differ, at most four groups; nothing issues that something has been ready for
longer. A group whose live threads are all held at one place issues as one; at two places it takes an illegal-clause fault, which the model
lets its lowest thread take (R38; log entry 12). -/
def Obligations.ClausesAreFetchedAndIssued : Prop :=
  (∀ (core sub : Nat) (s : State) (lead : Group × Thread) (rest : List (Group × Thread)), clocksGated s = false →
    threadsOn s core sub (fun _ t => t.status == .ready && t.clause.isNone) = lead :: rest → laneNumber lead.1 lead.2.idx < 32 →
    ∃ ms, FormedFrom (lead :: rest.filter fun m => samePlace s lead m && m.2.inSup == lead.2.inSup) lead ms ∧
      let f := fetchClause s { ctxOf lead.1 lead.2 with core := core } lead.2.hdr.toNat
      (∀ x, f.2 = .error x → exec (.clauseFetch core sub) s = .next (takeFaults f.1 { pc := lead.2.hdr, index := 0, hdr := lead.2.hdr, n := 0 }
        (ms.map fun m => { gk := m.1.gk, tid := m.2.idx, f := x }))) ∧
      ∀ hw ws, f.2 = .ok (hw, ws) → (∀ m ∈ ms, Resident s m ∧ ∃ xs, checkClause m.1.regCount m.2.inSup hw ws = .ok xs) →
        lead.2.pc = lead.2.hdr → Runs (.clauseFetch core sub) s fun s' =>
          (∀ m ∈ ms, threadAt s' (m.1.gk, m.2.idx) =
            some { m.2 with clause := some (hw, ws), status := if hw.getLsbD 18 then .held else .ready }) ∧
          (∀ n, n ∉ ms.map (fun m => (m.1.gk, m.2.idx)) → threadAt s' n = threadAt f.1 n) ∧
          (∀ gk g, groupOf f.1 gk = some g → ∃ ts, groupOf s' gk = some { g with threads := ts }) ∧
          s' = { f.1 with groups := s'.groups }) ∧
  (∀ (core sub : Nat) (s : State) (lead : Group × Thread) (rest : List (Group × Thread)) (hw : Word) (ws : List Word), mayIssue s = true →
    threadsOn s core sub (fun _ t => t.status == .ready && t.clause.isSome && waitOver t) = lead :: rest →
    (∀ y ∈ lead :: rest, Resident s y ∧ y.2.deferred = []) → lead.2.clause = some (hw, ws) → lead.2.pc = lead.2.hdr →
    laneNumber lead.1 lead.2.idx < 32 →
    (subcoreBusy s core sub = true ∨ olderOn s core [sub] lead.2.age = true → exec (.clauseIssue core sub) s = .next s) ∧
    (subcoreBusy s core sub = false → olderOn s core [sub] lead.2.age = false →
      Runs (.clauseIssue core sub) s fun s' => ∃ ms,
        FormedFrom (lead :: rest.filter fun m => samePlace s lead m && m.2.clause == lead.2.clause) lead ms ∧
        s'.issues = s.issues ++ [{ core := core, members := ms.map fun m => (m.1.gk, m.2.idx), hdr := lead.2.hdr, words := ws }] ∧
        (∀ m ∈ ms, threadAt s' (m.1.gk, m.2.idx) = some (starting m.2)) ∧
        ∀ n, n ∉ ms.map (fun m => (m.1.gk, m.2.idx)) → threadAt s' n = threadAt s n)) ∧
  ∀ (gk : Nat) (s : State) (g : Group) (t : Thread) (rest : List Thread), mayIssue s = true → groupOf s gk = some g → allHeld g = true →
    liveThreads g = t :: rest → (g.threads.map fun u => u.idx).Nodup →
    (∀ u ∈ liveThreads g, subcoreBusy s g.core (subcoreOf g u.idx) = false) →
    (∀ hw ws, (∀ u ∈ liveThreads g, u.pc = t.hdr ∧ u.hdr = t.hdr ∧ waitOver u = true ∧ u.deferred = [] ∧ u.clause = some (hw, ws)) →
      let older := olderOn s g.core ((liveThreads g).map fun u => subcoreOf g u.idx) (heldAge g)
      (older = true → exec (.reconvergence gk) s = .next s) ∧
      (older = false → Runs (.reconvergence gk) s fun s' =>
        s'.issues = s.issues ++ [{ core := g.core, members := (liveThreads g).map fun u => (gk, u.idx), hdr := t.hdr, words := ws, rcv := true }] ∧
        ∀ u ∈ liveThreads g, threadAt s' (gk, u.idx) = some (starting u))) ∧
    ((∃ u ∈ rest, u.pc ≠ t.pc ∨ u.hdr ≠ t.hdr) → ∃ n, exec (.reconvergence gk) s =
      .next (takeFaults s { pc := t.hdr, index := 0, hdr := t.hdr, n := n } [{ gk := gk, tid := t.idx, f := { cls := 2 } }]))

/-- R414: a fault record with room goes to slot `fqtail` mod 2^k of its queue, under the sequence number `fqtail`, and its threads park
under it; `replay` makes the threads still parked under a record runnable at their faulting word, `kill` fails their groups. -/
def Obligations.FaultRecordsAndReplay : Prop :=
  (∀ (part : Nat) (s : State) (r : FaultRec) (w : DWord) (ws : List DWord), nextFaultRec s part = some r → r.words = w :: ws →
    waitingFor s r ≠ [] → (waitingFor s r).Nodup →
    let p := partOf s part
    (faultRoom p = false → exec (.hostFaultRecord part) s = .next s) ∧
    (faultRoom p = true → Runs (.hostFaultRecord part) s fun s' =>
      (partOf s' part).fqtail = p.fqtail + 1 ∧
      s'.mem = memWrite s.mem (p.fqbase.toNat + 64 * (p.fqtail.toNat % 2 ^ (p.qsize.toNat % 16)))
        (List.flatMap (fun x => leBytes x.toNat 8) ((((w >>> 32) <<< 32) + p.fqtail.setWidth 64) :: ws)) ∧
      (∀ m ∈ waitingFor s r, threadAt s' m = (threadAt s m).map fun t => { t with status := .parked (some p.fqtail) }) ∧
      ∀ n, n ∉ waitingFor s r → threadAt s' n = threadAt s n)) ∧
  ∀ (part : Nat) (seq : Word) (s : State), hostOpen s →
    (Runs (.replay part seq) s fun s' =>
      (∀ m ∈ parkedUnder s part seq, ∀ t, threadAt s m = some t →
        ∃ a, threadAt s' m = some { t with status := .ready, clause := none, l0 := 0, l1 := 0, age := a }) ∧
      (∀ n, n ∉ parkedUnder s part seq → threadAt s' n = threadAt s n) ∧
      ∀ r ∈ (partOf s' part).parked, r.seq ≠ some seq) ∧
    ((∀ r ∈ (partOf s part).parked, ∀ m ∈ r.members, ∃ e ∈ r.firsts, e.1 = m.1) → Runs (.kill part seq) s fun s' =>
      (∀ m ∈ parkedUnder s part seq, ∃ g, groupOf s' m.1 = some g ∧ g.failed = true ∧ g.run = .exited) ∧
      ∀ r ∈ (partOf s' part).parked, r.seq ≠ some seq)

/-- R283, R284, R294, R295, R50: a valid host record enters the shortest deck of its class and every other one is rejected with event 1 (R30: the depth of a host launch is 0; R63: it drops the partition's cached code);
a core dispatches the oldest eligible record of the highest class, and steals from another cluster only without one of its own; a deck
below its low mark is refilled from its landing. With the clocks gated (R437) nothing is dispatched; nor is it while the core has an ended
adopted phase to leave first, which is the model's choice (log entry 32). -/
def Obligations.RecordsAreQueuedAndDispatched : Prop :=
  (∀ (part : Nat) (words : List DWord) (s : State), hostOpen s → part < 8 → words.length = 8 →
    (partOf s part).pctl.getLsbD 0 = true →
    let r := parseRecord (leNat (words.flatMap fun w => leBytes w.toNat 8))
    (recordValid r part = true → ∀ c, enqueueCluster s part 0 r.cls = some c →
      (c ∈ partClusters s part ∧ gated s c = false ∧
        ∀ d ∈ partClusters s part, gated s d = false → (deckOf s c r.cls).length ≤ (deckOf s d r.cls).length) ∧
      (r.det = true ∨ landingLeft s part c r.cls ≠ 0 →
        exec (.hostEnqueue part 0 words) s =
          .next (acceptRecord (dropPartCode s part) { r with depth := 0 } 0 c true .none none)) ∧
      (r.det = false → landingLeft s part c r.cls = 0 →
        Runs (.hostEnqueue part 0 words) s fun s' => EventGiven s s' part 1 0)) ∧
    (recordValid r part = false → ∀ off, Runs (.hostEnqueue part off words) s fun s' => EventGiven s s' part 1 off)) ∧
  (∀ (core : Nat) (s : State),
    (∀ cls e, ownPick s core = some (cls, e) →
      e ∈ deckOf s (core / 8) cls ∧ eligible s core (core / 8) e = true ∧
      (∀ x ∈ deckOf s (core / 8) cls, eligible s core (core / 8) x = true → e.seq ≤ x.seq) ∧
      ∀ k < cls, ∀ x ∈ deckOf s (core / 8) k, eligible s core (core / 8) x = false) ∧
    (testDue s core = true ∨ clocksGated s = true → exec (.groupDispatch core) s = .next s ∧ exec (.steal core) s = .next s) ∧
    (∀ cls e room, testDue s core = false → clocksGated s = false → ownPick s core = some (cls, e) → roomFor s core cls e.record (parkedOf s e) = some room →
      exec (.groupDispatch core) s = .next (dispatchEntry s core (core / 8) cls e room none).1) ∧
    (∀ cls e, ownPick s core = some (cls, e) → roomFor s core cls e.record (parkedOf s e) = none →
      exec (.groupDispatch core) s = .next s) ∧
    ((ownPick s core).isSome = true → exec (.steal core) s = .next s) ∧
    ∀ c cls e room, testDue s core = false → clocksGated s = false → residents s core = [] → gated s (core / 8) = false → ownPick s core = none → stealPick s core = some (c, cls, e) →
      roomFor s core cls e.record (parkedOf s e) = some room →
      (c ≠ core / 8 ∧ e.record.det = false ∧ e.record.pin = false) ∧
      exec (.steal core) s = .next (countEvent (dispatchEntry s core c cls e room none).1 core 7 1)) ∧
  ∀ (c cls part : Nat) (s : State), ownerOf s c = some part → clocksGated s = false →
    let s0 := admitWaiting part c cls (waitingOf s c cls).length s
    (waitingOf s c cls = [] → s0 = s) ∧
    ((deckOf s0 c cls).length < Config.deckLow → landingOf s0 c cls ≠ [] →
      let s1 := refillMany part c cls Config.deckRefill s0
      (∀ d ∈ s1.dies, d.2.frames = []) → exec (.skidderRefill c cls) s = .next s1) ∧
    (Config.deckLow ≤ (deckOf s0 c cls).length → exec (.skidderRefill c cls) s = .next s0)

/-- R291, R52, R53, R93, R300: a group that may retire leaves the device, or, as the model has it, stays as retired in a deterministic grid
(log entry 30); class-0 work takes the lanes of lower-class groups of a reserved core, of which the model takes those admitted last (log entry
26), and their registers go to their records in the non-secure pre-emption area (R418); a pre-empted group resumes with what its record
holds. -/
def Obligations.GroupsRetireAndArePreempted : Prop :=
  (∀ (gk : Nat) (s : State) (g : Group), groupOf s gk = some g →
    (mayRetire s g = false → exec (.groupRetirement gk) s = .next s) ∧
    (mayRetire s g = true → (s.groups.map fun x => x.gk).Nodup → Runs (.groupRetirement gk) s fun s' =>
      ∀ g', groupOf s' gk = some g' → g.record.det = true ∧ g'.threads = [] ∧
        ((∀ x, gridOf s g.grid = some x → x.parent = 0) → (∀ w ∈ s.waiters, w.gk ≠ gk) → g'.run = .retired))) ∧
  (∀ (core : Nat) (s : State) (e : DeckEntry) (vs : List Group), ownPick s core = some (0, e) → isReserved s core = true →
    roomFor s core 0 e.record (parkedOf s e) = none → victimsFor s core e = some vs →
    (∀ v ∈ vs, v ∈ residents s core ∧ runClass v ≠ 0 ∧ ∀ t ∈ v.threads, t.emulK = none ∧ t.emulS = none) ∧
    (∀ v ∈ vs, ∀ x ∈ residents s core, runClass x ≠ 0 → (∀ t ∈ x.threads, t.emulK = none ∧ t.emulS = none) → x ∉ vs →
      x.admitted ≤ v.admitted) ∧
    ((∃ v ∈ vs, ∃ t ∈ v.threads, t.status = .issuing) → exec (.preemption core) s = .next s) ∧
    ((∀ v ∈ vs, ∀ t ∈ v.threads, t.status ≠ .issuing) →
      exec (.preemption core) s = .next (vs.foldl (fun s v => evictGroup s v.gk) s))) ∧
  (∀ (s s1 : State) (gk : Nat) (g g1 : Group), groupOf s gk = some g → needsHeaders g.record = false →
    groupOf (releaseGroup s gk) gk = some g1 →
    hwWrite (releaseGroup s gk) g1.record.part false (preemptVa (releaseGroup s gk) g1) (preemptRecord g1) = (s1, none) →
    ∃ g', groupOf (evictGroup s gk) gk = some g' ∧ g'.run = .preempted ∧ g'.threads.length = g1.threads.length ∧
      ∀ t ∈ g'.threads, t.regs = []) ∧
  ∀ (gk : Nat) (s s1 : State) (g : Group) (core : Nat) (seat : Seat) (bs : List Byte), groupOf s gk = some g → g.run = .preempted →
    resumeCore s g = some (core, seat) →
    hwRead (acquireCore s core) g.record.part false (preemptVa (acquireCore s core) g) (6144 + 512 * g.regCount) = (s1, .ok bs) →
    Runs (.preemptionResume gk) s fun s' => ∃ g', groupOf s' gk = some g' ∧ g'.run = .resident ∧ g'.core = core ∧ g'.ctx = seat.ctx ∧
      g'.saved = [] ∧ ∀ t ∈ g.threads, t.status ≠ .exited → ∃ t' ∈ g'.threads, t'.idx = t.idx ∧
        (∀ k < g.regCount, regOf t' k = BitVec.ofNat 32 (leNat ((bs.drop (6144 + 512 * k + 4 * t.idx)).take 4))) ∧
        t'.pc = BitVec.ofNat 64 (field (leNat ((bs.drop (2048 + 32 * t.idx)).take 32)) 64 64)

namespace Sys2Proof.Claims

/-- The state with one more thing sent to the host. -/
def sent (s : State) (x : HostOut) : State := { s with hostOut := s.hostOut ++ [x] }

/-- The host register writes that go to device-scope registers by another command of the table: number and value. -/
def registerCommands : List ((Word → Instr) × Nat) :=
  [(.l2placeWrite, 0x220), (.pstateWrite, 0x500), (.cgateWrite, 0x501)]

/-- The invalidate commands by op (Table 15.3). -/
def invalidates : List ((Nat → Nat → Instr) × Nat) := [(.invalidateRange, 0), (.invalidateAsid, 1), (.invalidatePartition, 2)]

/-- Host event 6 (R437, R438): a power write ignored, with the register's offset and the value. -/
def powerRefused (s : State) (n : Nat) (v : Word) : State := hostEvent s 0 6 (4 * n) v.toNat

/-- Host event 3 (R419): a configuration write ignored. -/
def configRefused (s : State) (part n : Nat) (v : Word) : State := hostEvent s part 3 (4 * n) v.toNat

/-- The bytes that a write with byte enables writes, by offset. -/
def writtenAt (data : List (Option Byte)) (k : Nat) : Option Byte := (data[k]?).join

end Sys2Proof.Claims

/-- R429 to R432, R367: host reads answer with data, with poison or the compressed line as the host's capability word allows, or with an error and event 2; host
writes write their enabled bytes; register writes reach the device-scope registers; the gaze path writes `gaze`; the capability words are
exchanged once; a window piece joins its writer's pieces, and the fourth in order completes a command, or marks the future of an invalid
one failed. A register access that is not 4 aligned bytes of a named range, and an enqueue that is not 64, is turned away (R430). The error
completion of an access that crosses a 512-byte line and of 4 bytes in an invalidate window, the non-secure space of the host's accesses with
the user bit ignored, and the device's capability word 0x104 are the model's choice (log entry 19). -/
def Obligations.HostAccessResults : Prop :=
  ∀ s : State, hostOpen s →
    (∀ (part : Nat) (va : DWord) (len : Nat), part < 8 → 1 ≤ len → va.toNat % 512 + len ≤ 512 →
      (∀ s1 ps, translateParts s (hwCtx part false) .r (splitSectors va.toNat len) = (s1, .ok ps) →
        let x := readPieces s1 (hwCtx part false) ps
        let bs := x.2.1
        (x.2.2 = true → exec (.hostMemoryRead part va len) s =
          .next (sent x.1 (if x.1.hostCap.getLsbD 1 then .poison else .error))) ∧
        (x.2.2 = false → x.1.hostCap.getLsbD 0 = false ∨ len ≠ 512 ∨ sizeTag bs = 7 →
          exec (.hostMemoryRead part va len) s = .next (sent x.1 (.data bs))) ∧
        (x.2.2 = false → x.1.hostCap.getLsbD 0 = true → va.toNat % 512 = 0 → len = 512 → sizeTag bs ≠ 7 →
          (∀ p ∈ ps, p.attr.compr = true ∧ isHost p.pa = false) →
          exec (.hostMemoryRead part va len) s = .next (sent x.1 (.packed (sizeTag bs) (storedLine (sizeTag bs) bs))))) ∧
      ∀ s1 f, translateParts s (hwCtx part false) .r (splitSectors va.toNat len) = (s1, .error f) →
        Runs (.hostMemoryRead part va len) s fun s' => EventGiven (sent s1 .error) s' part 2 va.toNat) ∧
    (∀ (part : Nat) (va : DWord) (len : Nat), va.toNat % 512 + len > 512 →
      exec (.hostMemoryRead part va len) s = .next (sent s .error)) ∧
    (∀ (part : Nat) (va : DWord) (bs : List Byte), part < 8 → bs ≠ [] → va.toNat % 512 + bs.length ≤ 512 →
      (∀ s1 ps, translateParts s (hwCtx part false) .w (splitSectors va.toNat bs.length) = (s1, .ok ps) →
        exec (.hostMemoryWrite part va (bs.map some)) s = .next (vmWrite s1 (hwCtx part false) va.toNat bs).1) ∧
      ∀ s1 f, translateParts s (hwCtx part false) .w (splitSectors va.toNat bs.length) = (s1, .error f) →
        Runs (.hostMemoryWrite part va (bs.map some)) s fun s' => EventGiven (sent s1 .error) s' part 2 va.toNat) ∧
    (∀ (part : Nat) (va : DWord) (data : List (Option Byte)), part < 8 → data ≠ [] → va.toNat % 512 + data.length ≤ 512 →
      (∀ s1 ps, translateParts s (hwCtx part false) .w (splitSectors va.toNat data.length) = (s1, .ok ps) →
        exec (.hostMemoryWrite part va data) s = .next ((enabledRuns 0 data).foldl
          (fun x r => (vmWrite x (hwCtx part false) (va.toNat + r.1) r.2).1) s1)) ∧
      ∀ s1 f, translateParts s (hwCtx part false) .w (splitSectors va.toNat data.length) = (s1, .error f) →
        Runs (.hostMemoryWrite part va data) s fun s' => EventGiven (sent s1 .error) s' part 2 va.toNat) ∧
    (∀ (part : Nat) (va : DWord) (data : List (Option Byte)), va.toNat % 512 + data.length > 512 →
      exec (.hostMemoryWrite part va data) s = .next (sent s .error)) ∧
    (∀ (data : List (Option Byte)) (k : Nat) (b : Byte),
      writtenAt data k = some b ↔ ∃ r ∈ enabledRuns 0 data, r.1 ≤ k ∧ r.2[k - r.1]? = some b) ∧
    (∀ (offset : Nat) (data : List Byte), let v : Word := BitVec.ofNat 32 (leNat data)
      let enqueue := 0x10000 ≤ offset ∧ offset < 0x18000
      let named := offset < 0x4040 ∨ enqueue
      (data.length = 4 → offset % 4 = 0 → offset < 0x4000 →
        exec (.hostRegisterWrite offset data) s = .next (deviceWrite s .host (offset / 4) v)) ∧
      (¬ enqueue → ¬ named ∨ offset % 4 ≠ 0 ∨ data.length ≠ 4 → exec (.hostRegisterWrite offset data) s = .next (sent s .error)) ∧
      (enqueue → data.length ≠ 64 → Runs (.hostRegisterWrite offset data) s fun s' =>
        EventGiven s s' ((offset - 0x10000) / 0x1000) 1 (offset % 0x1000)) ∧
      (∀ p < 8, ∀ off < 0x1000, ∀ words : List DWord, offset = 0x10000 + 0x1000 * p + off → data = words.flatMap (fun w => leBytes w.toNat 8) →
        exec (.hostRegisterWrite offset data) s = exec (.hostEnqueue p off words) s) ∧
      (∀ o < 2, data.length = 4 →
        let x := outOf s o
        let ignored := exec (.hostRegisterWrite offset data) s = .next (hostEvent s 0 3 offset v.toNat)
        let kept (new old : Nat) : Nat := if 1 ≤ new ∧ new ≤ 8192 then new else old
        (offset = 0x4000 + 0x20 * o → exec (.hostRegisterWrite offset data) s = exec (.displayEnable o v) s) ∧
        (offset = 0x4004 + 0x20 * o → (x.dmode.getLsbD 0 = true → ignored) ∧
          (x.dmode.getLsbD 0 = false → ∃ d : Word, exec (.hostRegisterWrite offset data) s = .next (modOut s o fun y => { y with dsize := d }) ∧
            d.toNat % 2 ^ 16 = kept (v.toNat % 2 ^ 16) (x.dsize.toNat % 2 ^ 16) ∧
            d.toNat / 2 ^ 16 = kept (v.toNat / 2 ^ 16) (x.dsize.toNat / 2 ^ 16))) ∧
        (offset = 0x4008 + 0x20 * o → (x.dmode.getLsbD 0 = true → ignored) ∧
          (x.dmode.getLsbD 0 = false → exec (.hostRegisterWrite offset data) s = .next (modOut s o fun y => { y with downer := v &&& 0xF#32 }))) ∧
        (0x400C + 0x20 * o ≤ offset → offset < 0x4020 + 0x20 * o → offset % 4 = 0 →
          exec (.hostRegisterWrite offset data) s = .next s)) ∧
      ∀ e ∈ registerCommands, exec (e.1 v) s = .next (deviceWrite s .host e.2 v)) ∧
    (∀ (view : Nat) (v : Word), view < 8 → exec (.gazeWrite view v) s = .next { s with gaze := s.gaze.set view v }) ∧
    (∀ w : DWord, exec (.capabilityExchange w) s =
      .next (if s.hostCapRead then s else sent { s with hostCap := w, hostCapRead := true } (.capability 0x104))) ∧
    ∀ (part die writer piece : Nat) (data : DWord),
      let kept := (((dieOf s die).window.find? fun e => e.1 == (part, writer)).map fun e => e.2).getD []
      let others := (dieOf s die).window.filter fun e => e.1 != (part, writer)
      let put (l : List ((Nat × Nat) × List DWord)) : State := modDie s die fun d => { d with window := others ++ l }
      let all := leNat ((kept ++ [data]).flatMap fun w => leBytes w.toNat 8)
      (64 ≤ (tget (dieOf s die).inv [] part).length → exec (.invalidateWindowPiece part die writer piece data) s = .next s) ∧
      ((tget (dieOf s die).inv [] part).length < 64 →
        (piece = 0 → exec (.invalidateWindowPiece part die writer piece data) s = .next (put [((part, writer), [data])])) ∧
        (piece = 1 ∨ piece = 2 → kept.length = piece →
          exec (.invalidateWindowPiece part die writer piece data) s = .next (put [((part, writer), kept ++ [data])])) ∧
        (piece ≠ 0 → kept.length ≠ piece → exec (.invalidateWindowPiece part die writer piece data) s =
          .next (hostEvent (put []) part 5 (windowVa s part die + 8 * piece) data.toNat)) ∧
        (piece = 3 → kept.length = 3 →
          let c := parseInv (put []) part die all (writerCore writer)
          let fut := all / 2 ^ 128 % 2 ^ 57
          (c.2 = true → exec (.invalidateWindowPiece part die writer piece data) s =
            .next (modDie (put []) die fun d => { d with inv := tset d.inv part (tget d.inv [] part ++ [c.1]) })) ∧
          (c.2 = false → fut ≠ 0 → fut % 32 = 0 → exec (.invalidateWindowPiece part die writer piece data) s =
            .next (settleFuture (put []) part false fut 0 true).1) ∧
          (c.2 = false → fut = 0 ∨ fut % 32 ≠ 0 → exec (.invalidateWindowPiece part die writer piece data) s =
            .next (hostEvent (put []) part 5 (windowVa (put []) part die) (all % 2 ^ 64)))))

/-- R368: a die performs the oldest command of a partition, once no collective operation that has joined at a block it covers is in
progress: the cached entries that translate its pages and the table pointers of its
address spaces go, and the L1 and instruction-cache lines with them. -/
def Obligations.InvalidatesDropTranslations : Prop :=
  (∀ (s : State) (die part : Nat), ∀ e ∈ invalidates,
    (∀ c rest, tget (dieOf s die).inv [] part = c :: rest → c.op = e.2 → roundHeld s part c = true → exec (e.1 die part) s = .next s) ∧
    (∀ c rest, tget (dieOf s die).inv [] part = c :: rest → c.op = e.2 → roundHeld s part c = false → exec (e.1 die part) s =
      .next (performInvalidate (modDie s die fun d => { d with inv := tset d.inv part rest }) die part c)) ∧
    ((∀ c rest, tget (dieOf s die).inv [] part = c :: rest → c.op ≠ e.2) → exec (e.1 die part) s = .next s)) ∧
  (∀ (s : State) (die part : Nat) (c : InvCmd), ∀ e ∈ (dieOf (dropEntries s die part c).1 die).tlb, e ∈ (dieOf s die).tlb ∧
    ((c.op = 2 ∧ (e.asid = asidOf s part false ∨ e.asid = asidOf s part true)) ∨ (c.op ≠ 2 ∧ e.asid = c.asid) →
      e.leaf = true ∧ c.op = 0 ∧ ¬((leafSpan e).1 < c.start + 4096 * c.npg ∧ c.start < (leafSpan e).1 + (leafSpan e).2))) ∧
  ∀ (s : State) (core part : Nat) (c : InvCmd), c.op ≠ 2 →
    (∀ l ∈ (coreOf (dropCoreLines part c s core) core).icache, l.asid = c.asid →
      c.op = 0 ∧ ¬(64 * l.sector < c.start + 4096 * c.npg ∧ c.start < 64 * l.sector + 64)) ∧
    ∀ l ∈ (coreOf (dropCoreLines part c s core) core).l1, l.asid = c.asid →
      c.op = 0 ∧ ¬(512 * l.line < c.start + 4096 * c.npg ∧ c.start < 512 * l.line + 512)

/-- R219, R224, R225, R405, R426, R427, R437 to R439: `l2place` and its drain, migration, the flumes; the power state, gating and its
acknowledgement; the counters' selection; the power cap, whose event comes as `pmeas` exceeds it and then once a millisecond (the moments are
the model's reading, log entry 49); the fatal conditions, of which the first makes the dump, without what a sealed partition's groups hold. -/
def Obligations.PlacementAndPowerResults : Prop :=
  (∀ (s : State) (v : Word), hostOpen s →
    (exec (.l2placeWrite v) s = .next (if s.l2place.getLsbD 8 then s
      else { s with l2place := (v &&& 0xF3#32) ||| (if v.getLsbD 0 = s.l2place.getLsbD 0 then 0 else 0x100) })) ∧
    (s.pstate.getLsbD 2 = true → exec (.pstateWrite v) s = .next (powerRefused s 0x500 v)) ∧
    (s.pstate.getLsbD 2 = false → v.toNat % 4 = s.pstate.toNat % 4 → v.toNat % 4 ≠ 3 → exec (.pstateWrite v) s = .next s) ∧
    (s.pstate.getLsbD 2 = false → v.toNat % 4 ≠ s.pstate.toNat % 4 → v.toNat % 4 ≠ 3 →
      exec (.pstateWrite v) s = .next { s with pstate := BitVec.ofNat 32 (v.toNat % 4 + 4) }) ∧
    (s.pstate.getLsbD 2 = false → v.toNat % 4 = 3 →
      ((∃ p < 8, hasWork s p = true) ∨ (outOf s 0).dmode.getLsbD 0 = true ∨ (outOf s 1).dmode.getLsbD 0 = true) →
      exec (.pstateWrite v) s = .next (powerRefused s 0x500 v)) ∧
    ((∀ o < 2, (outOf s o).dmode.getLsbD 0 = false) → exec (.cgateWrite v) s =
      .next { s with cgate := v &&& 0xFFFFFF#32, cgated := s.cgated &&& (v &&& 0xFFFFFF#32) }) ∧
    ∀ n < 16, Runs (.pcselWrite n v) s fun s' => 
      s' = { s with
        pcsel := s.pcsel.set n (v &&& 0x1FF#32), cores := s'.cores
        partitions := s.partitions.map fun e => (e.1, { e.2 with pcsel := tdel e.2.pcsel n }) } ∧
      ∀ c < 192, coreOf s' c = { coreOf s c with pc := (coreOf s c).pc.set n 0 }) ∧
  (∀ s : State,
    (s.l2place.getLsbD 8 = false → exec .l2placeDrainDone s = .next s) ∧
    (s.l2place.getLsbD 8 = true → s.l2place.getLsbD 0 = true → exec .l2placeDrainDone s = .next { s with
      l2place := s.l2place &&& 0xFFFFFEFF#32
      dies := s.dies.map fun d => (d.1, { d.2 with l2 := d.2.l2.map fun l => { l with replicas := [] } }) }) ∧
    (s.l2place.getLsbD 8 = true → s.l2place.getLsbD 0 = false → (s.dies.map fun d => d.1).Nodup →
      (∀ d ∈ s.dies, (d.2.l2.map fun l => l.line).Nodup) → Runs .l2placeDrainDone s fun s' =>
        s'.l2place = s.l2place &&& 0xFFFFFEFF#32 ∧ s'.groups = s.groups ∧ s'.issues = s.issues ∧ s'.ops = s.ops ∧
        ∀ d ∈ s'.dies, ∀ l ∈ d.2.l2, l.slice = 16 * d.1 + ((l.line % 16) ^^^ (l.line / 16 % 16) ^^^ (l.line / 256 % 16))) ∧
    (∀ line slice, s.l2place.getLsbD 0 = false → exec (.l2LineMigration line slice) s = .next s) ∧
    (∀ line slice d l, s.l2place.getLsbD 0 = true →
      let may (l : L2Line) : Bool := l.line == line && l.near == slice && l.slice != slice && decide (l.run ≥ max 1 (s.l2place.toNat / 16 % 16))
      (s.dies.findSome? fun d => (d.2.l2.find? may).map fun l => (d.1, l)) = some (d, l) →
      (∀ s1, takeWay s l.part slice l.line = (s1, none) → exec (.l2LineMigration line slice) s = .next s1) ∧
      ∀ s1 w, takeWay s l.part slice l.line = (s1, some w) → (partOf s l.part).pways.getLsbD w = true ∧
        exec (.l2LineMigration line slice) s = .next (modDie s1 d fun x =>
          { x with l2 := updFirst (fun x => x.line == l.line) (fun x => { x with slice := slice, way := w, run := 0 }) x.l2 })) ∧
    (∀ core, (coreOf s core).flume = [] → exec (.flumeWriteback core) s = .next s) ∧
    (∀ core e r l, (coreOf s core).flume = e :: r → l1Find s core e.1 e.2 = some l → l.dirty ≠ [] → Runs (.flumeWriteback core) s fun s' =>
      (∀ x ∈ (coreOf s' core).flume, x ≠ e) ∧
      l1Find s' core e.1 e.2 = some { l with
        excl := false, dirty := [], clean := l.dirty.foldl (fun t e => tset t e.1 e.2) l.clean }) ∧
    exec .pstateChangeDone s = .next (if s.pstate.getLsbD 2 then { s with pstate := s.pstate &&& 3#32 } else s) ∧
    (∀ c < 24, exec (.clusterGated c) s = .next (if s.cgate.getLsbD c && !(s.cgated.getLsbD c) && !(holdsGroup s c) && !(holdsOwn s c)
      then { s with cgated := s.cgated ||| BitVec.ofNat 32 (2 ^ c) } else s)) ∧
    ∀ watts < 4096, let s1 := { s with pmeas := BitVec.ofNat 32 watts }
      let told (next : Nat) : State := hostEvent { s1 with capNext := some next } 0 7 (4 * 0x504) watts
      (s.fatal = true ∨ watts ≤ s.pcap.toNat → exec (.powerAboveCap watts) s = .next { s1 with capNext := none }) ∧
      (s.fatal = false → s.pcap.toNat < watts →
        (s.capNext = none → exec (.powerAboveCap watts) s = .next (told (s.devtime + 1000000))) ∧
        ∀ t, s.capNext = some t → exec (.powerAboveCap watts) s = .next (if s.devtime < t then s1 else told (t + 1000000)))) ∧
  ∀ s : State,
    (s.fatal = false → ∀ cause, Runs (.deviceFatal cause) s fun s' => s'.fatal = true ∧
      s'.hostOut = s.hostOut ++ (if s.modulesDown.length = 4 then [] else [.fatal]) ∧
      (∃ d, s'.dump = some d ∧ d.cause = cause ∧ d.time = s.devtime ∧ d.further = 0 ∧ d.ck = s.ck ∧
        (∀ g ∈ s.groups, (partOf s g.record.part).pctl.getLsbD 1 = false → g ∈ d.groups) ∧
        ∀ x ∈ d.groups, x ∈ s.groups ∨ ((partOf s x.record.part).pctl.getLsbD 1 = true ∧ ∀ u ∈ x.threads, u.regs = [] ∧ u.pc = 0)) ∧
      s'.groups = s.groups ∧ s'.ops = s.ops) ∧
    (s.fatal = true → ∀ cause, exec (.deviceFatal cause) s =
      .next { s with dump := s.dump.map fun d => { d with further := d.further + 1 } }) ∧
    (∀ celsius < 115, exec (.thermalTrip celsius) s = .next s) ∧
    ∀ celsius, 115 ≤ celsius → s.fatal = false → Runs (.thermalTrip celsius) s fun s' =>
      s'.therm.getLsbD 8 = true ∧ s'.therm.toNat % 256 = min celsius 255 ∧ s'.fatal = true

/-- R417, R419, R420, R423 to R425, R440: a partition is enabled when its check passes, under a fresh key generation, and disabled when
it has no work; event 4 carries the code of the check that failed; attestation and the measurement registers; recovery points, whose streams
leave the device encrypted, and roll-back; cold reset, after which verified firmware alone starts and publishes the device's capability.
The model's choice: what a disable drops of caches and frames (log entries 38, 41), the form of a stream, its bytes in host memory and the
zeroing of owned sectors that it does not list (log entry 42), the codes of the checks (log entry 16), and that an extension of a
measurement that is not one of 1 to 3 of an enabled partition does nothing (log entry 52). -/
def Obligations.PartitionAndRecoveryResults : Prop :=
  (∀ (s : State) (part : Nat) (v : Word), hostOpen s → part < 8 →
    let q := partOf s part
    (v.getLsbD 0 = true →
      (q.pctl.getLsbD 2 = true ∨ q.pctl.getLsbD 0 = true → exec (.partitionEnable part v) s = .next (configRefused s part (0x301 + 16 * part) v)) ∧
      (q.pctl.getLsbD 2 = false → q.pctl.getLsbD 0 = false → exec (.partitionEnable part v) s =
        .next (modPart s part fun q => { q with pctl := (v &&& 2#32) ||| 4#32 }))) ∧
    (v.getLsbD 0 = false → q.pctl.getLsbD 2 = false → q.pctl.getLsbD 0 = true →
      (hasWork s part = true → exec (.partitionDisable part v) s = .next (configRefused s part (0x301 + 16 * part) v)) ∧
      (hasWork s part = false → Runs (.partitionDisable part v) s fun s' => (partOf s' part).pctl = v &&& 2#32 ∧
        (partOf s' part).desc = none ∧ (partOf s' part).pkeyst = q.pkeyst &&& 0xFFFFFFFE#32 ∧
        ∀ d ∈ s'.dies, (∀ l ∈ d.2.l2, l.part ≠ part) ∧ ∀ f ∈ d.2.frames, f.part ≠ part)) ∧
    (∀ nonce, exec (.attestationRequest part nonce) s =
      .next (sent s (.report (reportBytes s part nonce ++ (List.range 17088).map (Config.attestByte (reportBytes s part nonce)))))) ∧
    (∀ nonce, (reportBytes s part nonce).length = 88 + 32 * q.measure.length) ∧
    (∀ reg digest, 1 ≤ reg → reg ≤ 3 → q.pctl.getLsbD 0 = true → exec (.measurementExtend part reg digest) s =
      .next (modPart s part fun q => { q with measure := q.measure.set reg (measureExtend (q.measure.getD reg 0) digest) })) ∧
    (∀ reg digest, reg = 0 ∨ 3 < reg ∨ q.pctl.getLsbD 0 = false → exec (.measurementExtend part reg digest) s = .next s) ∧
    (∀ pa, hasWork s part = false → Runs (.recoveryPoint part pa) s fun s' => ∃ x, s'.streams = s.streams ++ [x] ∧
      let y := { x with sectors := x.sectors.map encrypted }
      s'.hostOut = s.hostOut ++ [.stream y] ∧ x.part = part ∧ x.addr = pa ∧ x.ranges = s.regions.filter (fun r => r.part == part) ∧
      (memoriesWf s = true → isHost pa.toNat = true → ∀ k < Config.streamLength y, pa.toNat + k < 2 ^ 52 →
        memGet s'.mem (pa.toNat + k) = Config.streamByte y k) ∧
      (∀ e ∈ x.sectors, ownsPa s part (64 * e.sector) = true) ∧ x.gen = q.pkeyst.toNat / 2 ∧ (partOf s' part).writeLog = [] ∧
      (partOf s' part).logOverflow = false ∧ s'.groups = s.groups ∧ s'.grids = s.grids) ∧
    ∀ k x, s.streams[k]? = some x → x.part = part → x.gen = q.pkeyst.toNat / 2 → memoriesWf s = true →
      (x.sectors.map fun e => e.sector).Nodup → (∀ e ∈ x.sectors, e.bytes.length = 64) → Runs (.rollback part k) s fun s' =>
        (∀ g ∈ s'.groups, g.record.part ≠ part) ∧ (∀ g ∈ s'.grids, g.record.part ≠ part) ∧
        s'.hostOut = s.hostOut ++ [.writeLog q.writeLog q.logOverflow] ∧
        (∀ e ∈ x.sectors, memRead s'.mem (64 * e.sector) 64 = e.bytes) ∧
        ∀ a, (∀ e ∈ x.sectors, e.sector ≠ a / 64) →
          memGet s'.mem a = if ownsPa s part (64 * (a / 64)) then 0 else memGet s.mem a) ∧
  (∀ (s : State) (part : Nat),
    ((partOf s part).pctl.getLsbD 2 = false → exec (.partitionEnableCheckDone part) s = .next s) ∧
    let keyed := modPart s part fun q => { q with pkeyst := BitVec.ofNat 32 (2 * (q.pkeyst.toNat / 2 + 1) + 1) }
    (∀ k, (partOf s part).pctl.getLsbD 2 = true → enableCheck keyed part = .error k → Runs (.partitionEnableCheckDone part) s fun s' =>
      (partOf s' part).pctl = (partOf s part).pctl &&& 2#32 ∧
      EventGiven (modPart s part fun q => { q with pctl := q.pctl &&& 2#32 }) s' part 4 (Config.checkCode k).toNat) ∧
    ∀ d, (partOf s part).pctl.getLsbD 2 = true → enableCheck keyed part = .ok d → (partOf s part).pkeyst.toNat < 2 ^ 31 →
      Runs (.partitionEnableCheckDone part) s fun s' => (partOf s' part).pctl = ((partOf s part).pctl &&& 2#32) ||| 1#32 ∧
        (partOf s' part).desc = some d ∧ (partOf s' part).pkeyst.toNat / 2 = (partOf s part).pkeyst.toNat / 2 + 1 ∧
        (partOf s' part).pkeyst.getLsbD 0 = true ∧ (partOf s' part).measure.drop 1 = [0, 0, 0]) ∧
  (∀ x : BootImage, imageVerifies x = true ↔
    digestOf x.key = Config.fusedHash ∧ Config.slhVerifies x.key x.image x.signature = true ∧ Config.fusedVersion ≤ x.version) ∧
  ∀ s : State, Runs .coldReset s fun s' => s'.running = s.bootWindow.filter imageVerifies ∧ s'.booted = s'.running.isSome ∧ s'.devtime = 0 ∧ s'.issues = [] ∧ s'.ops = [] ∧ s'.groups = [] ∧ s'.grids = [] ∧
    s'.cores = [] ∧ s'.clusters = [] ∧ s'.partitions = [] ∧ s'.outputs = [] ∧ s'.l2place.getLsbD 0 = true ∧
    s'.mem = s.mem ∧ s'.modulesDown = s.untrained ∧
    s'.hostOut = s.hostOut ++ .bootStatus s'.booted s.untrained ::
      (if s'.booted = true ∧ s.untrained.length ≠ 4 then [.capability 0x104] else []) ∧
    ∀ e ∈ s'.sealed, ∀ p < 8, e.2.1 ≠ p

/-- R346, R352, R355, R399, R402, R434, R435: display outputs are enabled and trained; at a strip's deadline it closes; a frame's scan-out
starts at its first line and sends each row at its time, the last one counting the frame (black without a frame period); strips start and
tiles are reconstructed when they may. That a frame whose first line has passed at the end of training is not begun, the next frame at
training, and the form of a black row are the model's reading (log entry 35), and a deadline at or beyond 2^64 counts as reached by its choice
(log entry 10). -/
def Obligations.DisplayAndStripResults : Prop :=
  (∀ (s : State) (o : Nat) (v : Word), hostOpen s → o < 2 →
    ((outOf s o).dmode.getLsbD 0 = false → v.getLsbD 0 = true →
      exec (.displayEnable o v) s = .next (modOut s o fun x => { x with dmode := (v &&& 2#32) ||| 1#32 })) ∧
    ((outOf s o).dmode.getLsbD 0 = false → v.getLsbD 0 = false →
      exec (.displayEnable o v) s = .next (modOut s o fun x => { x with dmode := v &&& 2#32, scan := none })) ∧
    ((outOf s o).dmode.getLsbD 0 = true →
      let s1 := if v.getLsbD 1 = (outOf s o).dmode.getLsbD 1 then s else hostEvent s 0 3 (0x4000 + 0x20 * o) v.toNat
      exec (.displayEnable o v) s = .next (modOut s1 o fun x =>
        if v.getLsbD 0 then { x with dmode := ((outOf s o).dmode &&& 2#32) ||| 1#32 ||| ((outOf s o).dmode &&& 4#32) }
        else { x with dmode := (outOf s o).dmode &&& 2#32, scan := none })) ∧
    ((outOf s o).dmode.getLsbD 0 = true → (outOf s o).dmode.getLsbD 2 = false → Runs (.linkTrainingDone o true) s fun s' =>
      s' = { s with outputs := s'.outputs } ∧ (outOf s' o).dmode = (outOf s o).dmode ||| 4#32 ∧
      (outOf s' o).nextFrame = firstFrame s.devtime (outOf s o) ∧
      (outOf s' o).captures = (outOf s o).captures.map fun c => { c with begun := c.begun || decide (deadlineOf c.timing 0 < s.devtime) })) ∧
  (∀ (s : State) (o : Nat),
    (∀ b, (outOf s o).dmode.getLsbD 0 = false ∨ (outOf s o).dmode.getLsbD 2 = true ∨ b = false → exec (.linkTrainingDone o b) s = .next s) ∧
    (dueStrip s o = none → exec (.stripDeadline o) s = .next s) ∧
    (∀ die f k t, dueStrip s o = some (die, f, k, t) → exec (.stripDeadline o) s = .next (closeStrip s die f o k t) ∧
      tfind f.timing o = some t ∧ k < t.k ∧ t.fper ≠ 0 ∧ f.fhist.getD o 0 ≠ 0 ∧ (deadlineOf t k ≤ s.devtime ∨ 2 ^ 64 ≤ deadlineOf t k)) ∧
    (scanDue s (outOf s o) = false → exec (.frameScanoutStart o) s = .next s) ∧
    (scanDue s (outOf s o) = true → exec (.frameScanoutStart o) s = .next (modOut s o fun x =>
      let f := (nextScan x).timing.fnum
      { x with
        scan := some (nextScan x), fcur := f
        captures := updFirst (fun k => k.timing.fnum == f) (fun k => { k with begun := true }) x.captures })) ∧
    (scanDue s (outOf s o) = true → sending (outOf s o) = true ∧ (outOf s o).scan = none ∧
      deadlineOf (nextScan (outOf s o)).timing 0 ≤ s.devtime) ∧
    ((outOf s o).scan = none → sending (outOf s o) = false ∨ (outOf s o).fper ≠ 0 → exec (.scanoutLine o) s = .next s) ∧
    ((outOf s o).scan = none → sending (outOf s o) = true → (outOf s o).fper = 0 → exec (.scanoutLine o) s = .next (modOut s o fun x =>
      { x with sent := x.sent ++ [(x.fcur.toNat, 0, List.replicate (x.dsize.toNat % 2 ^ 16) 0)] })) ∧
    ∀ c, (outOf s o).scan = some c →
      (s.devtime < c.timing.fbase + c.timing.fnum.toNat * c.timing.fper + c.row * c.timing.lper / 256 →
        exec (.scanoutLine o) s = .next s) ∧
      (c.timing.fbase + c.timing.fnum.toNat * c.timing.fper + c.row * c.timing.lper / 256 ≤ s.devtime →
        Runs (.scanoutLine o) s fun s' => ∃ ws, (outOf s' o).sent = (outOf s o).sent ++ [(c.timing.fnum.toNat, c.row, ws)] ∧
          if c.row + 1 < c.timing.h then
            (outOf s' o).scan = some { c with row := c.row + 1 } ∧ (outOf s' o).scanned = (outOf s o).scanned ∧
            (outOf s' o).nextFrame = (outOf s o).nextFrame
          else
            (outOf s' o).scan = none ∧ (outOf s' o).scanned = ((outOf s o).scanned + 1) % 2 ^ 64 ∧
            (outOf s' o).nextFrame = (outOf s o).nextFrame + (if c.timing.fnum = BitVec.ofNat 32 (outOf s o).nextFrame then 1 else 0) ∧
            (outOf s' o).captures = (outOf s o).captures.filter fun k => k.timing.fnum != c.timing.fnum)) ∧
  ∀ (s : State) (die part : Nat),
    (∀ f, openFrameOf s die part = some f → stripDue s f = true → exec (.stripStart die part) s = .next (startStrip s die f) ∧
      f.geomClosed = true ∧ ∀ l ∈ latchStrip s f f.started, l.strip = f.started ∧ l.gaze = s.gazeOld.getD l.view 0) ∧
    ((∀ f, openFrameOf s die part = some f → stripDue s f = false) → exec (.stripStart die part) s = .next s) ∧
    ∀ (q : Nat) (f : Frame) (t : Tile) (v : Nat × ViewEntry), (dieOf s die).frames = [f] → f.part = part →
      (f.tiles.find? fun t => t.q == q && reconDue f t) = some t → (f.views.find? fun v => v.1 == t.view) = some v →
      (t.count = 0 ∧ t.assigned = true ∧ t.enqueued = false) ∧
      exec (.tileReconstructionEnqueue die part q) s =
        .next (launchFormed (modFrame s die f.grid fun f => updTile f t.q fun t => { t with enqueued := true })
          (launchRecord f v.2.rtmpl 4 0 t.q v.2.rtmpl.threads t.core) (.recon (reconInfo die f t)))

namespace Sys2Proof.Claims

/-- Device-scope registers whose reset value is not zero (Tables 9.3, 17.2, 18.2, 19.6). -/
def resetValue (n : Nat) : Word :=
  if n = 0x220 then 0x83
  else if n = 0x264 ∨ n = 0x26C then 1
  else if n = 0x503 then 1800
  else if 0x380 ≤ n ∧ n < 0x400 ∧ n % 16 = 0 then 0xA9AAAAA8
  else if 0x380 ≤ n ∧ n < 0x400 ∧ n % 16 = 1 then 0xAA
  else 0

/-- The guard of an instruction that runs for every thread (R69). -/
def always : Guard := { neg := false, p := 7 }

/-- Words of the spec's worked examples with the instructions they encode (chapters 3, 6, 8, 11, 13, 14 and 16). -/
def laneWords : List (List Word × Instr) :=
  [([0x01040102], .iadd { nw := false, d := 4, a := .v 1, b := .v 2 }),
   ([0x0E8094B2], .shl { nw := true, d := 0, a := .l0, b := .int 18 }),
   ([0x8A059400, 0x100], .iaddi { nw := false, d := 5, a := .l0, imm := 0x100 }),
   ([0x206102B5], .icmp { cond := 6, pd := 1, a := .v 2, b := .int 21 })]
def crossWords : List (List Word × Instr) :=
  [([0x80080102, 0x03700009], .ffus { nw := false, d := 8, a := .v 1, b := .v 2, c := .v 3, g := always, rx := true, rm := 1 }),
   ([0x88040100, 0x0970154C],
    .cvt { nw := false, d := 4, a := .v 1, c := .v 9, g := always, sat := false, rm := 5, fromF := 10, toF := 12 }),
   ([0x58800194], .shfl { nw := true, d := 0, a := .v 1, b := .l0 })]
def memoryWords : List (List Word × Instr) :=
  [([0xA0062005, 0x40700010], .ld { d := 6, ab := 2, am := 0, off := .v 5, size := 2, hint := 0, seg := 0, g := always, wait := 0, imm := 16 }),
   ([0xA5025096, 0x81720F00],
    .swinit { d := 2, ab := 5, am := 0, off := .zero, size := 4, hint := 0, seg := 1, g := always, wait := 1, imm := 0xF00 }),
   ([0xB0880204, 0x20720000], .engRtrace { reply := true, d := 8, a := .v 2, b := .v 4, g := always, wait := 1, imm := 0 })]
def matrixWords : List (List Word × Instr) :=
  [([0xC0000001, 0x00000001], .mclaim { md := 0, ma := 0, mb := 0, z := 0, flags := 1, aq := 0, qf := 0, wait := 0, imm := 1 }),
   ([0xC7100200, 0x00000000], .madd { md := 2, ma := 0, mb := 1, z := 0, flags := 0, aq := 0, qf := 0, wait := 0, imm := 0 })]
def taskWords : List (List Word × Instr) :=
  [([0xE0042302, 0x037E0000], .spawn { d := 4, ao := 2, as := 3, b := .v 2, tx := 3, g := always, wait := 7, imm := 0 }),
   ([0xF6054000, 0x02700000], .tdone { d := 5, ao := 4, as := 0, b := .v 0, tx := 2, g := always, wait := 0, imm := 0 })]

end Sys2Proof.Claims

/-- R440, R398, Tables 9.3, 17.2, 18.2 and 19.6: after cold reset `devtime` is zero, every device-scope register reads its reset value,
nothing runs, and the memories are canonical; the byte that unlisted addresses read as is the model's choice (log entry 2). -/
def Obligations.ResetState : Prop :=
  State.reset.devtime = 0 ∧ (∀ n < 0x1000, deviceReg State.reset .host n = resetValue n) ∧ State.reset.groups = [] ∧ State.reset.issues = [] ∧
  State.reset.ops = [] ∧ State.reset.fatal = false ∧ memoriesWf State.reset = true

/-- R32, R60, R71: with nothing on the agenda a step runs the instruction that the words of the first issue group decode to, when none of
its members waits for an operation of wait field 7, has a fault of one pending, or waits to enter a full invalidate queue (R367); an instruction that stalls, leaving the issue groups as
they were, lets the next one go on, and after the last one the background: that order is the model's choice (log entry 4). Every instruction
and every event answers a next state. -/
def Obligations.StepRunsTheDecodedInstruction : Prop :=
  (∀ (s t : State) (i : Issue) (rest : List Issue) (ins : Instr) (n : Nat), s.agenda = [] → s.fatal = false → s.issues = i :: rest →
    decodeWords (i.words.drop i.off) = .ok (ins, n) →
    (∀ o ∈ s.ops, ∀ m ∈ i.members, o.gk ≠ m.1 ∨ o.threads ≠ [m.2] ∨ windowFull s o = false) →
    (∀ m ∈ i.members, ∀ g u, memberOf s m = some (g, u) → u.pw = 0 ∧ ∀ d ∈ u.deferred, d.1 ≠ 7) →
    exec ins s = .next t →
    (t.issues ≠ s.issues → step s = .next t) ∧
    (t.issues = s.issues → step s = (runAny s rest.length 1).getD (background s))) ∧
  (∀ (s : State) (ins : Instr) (acts : List Action), s.agenda = .event ins :: acts → s.fatal = false → encode ins = [] →
    step s = exec ins { s with agenda := acts }) ∧
  ∀ (ins : Instr) (s : State), ∃ t, exec ins s = .next t

/-- Tables 3.3 to 3.8: the words of the spec's worked examples decode to their instructions, and these encode to the words. -/
def Obligations.WordsOfTheWorkedExamplesDecode : Prop :=
  ∀ l ∈ [laneWords, crossWords, memoryWords, matrixWords, taskWords], ∀ e ∈ l,
    decodeWords e.1 = .ok (e.2, e.1.length) ∧ encode e.2 = e.1

/-- R78 to R82, Table 3.5: every well-formed instruction decodes from the words it encodes to, whatever words follow, and every word or
pair of words that decodes is the encoding of a well-formed instruction: no bit of an encoding is dropped and none has two readings. -/
def Obligations.DecodeAndEncodeAgree : Prop :=
  (∀ (i : Instr) (more : List Word), i.wf = true → encode i ≠ [] → decodeWords (encode i ++ more) = .ok (i, (encode i).length)) ∧
  ∀ (ws : List Word) (i : Instr) (n : Nat), decodeWords ws = .ok (i, n) → i.wf = true ∧ encode i = ws.take n ∧ n ≤ ws.length

/-- R212: a step keeps every memory of the device in canonical form: the physical memory, and scratchpad, tile store and accumulator
memory of each core. The form is the model's (log entry 2). -/
def Obligations.StepKeepsMemoriesCanonical : Prop :=
  ∀ s t : State, memoriesWf s = true → step s = .next t → memoriesWf t = true
end

