-- ==== Sys2Proof/Laws/Memory.lean ====
section
/-! SUPPORT. Laws of canonical memories and tables: every write keeps the canonical form, a read after a write gives what was
written, and a write leaves every other address alone (R212). -/
namespace Sys2Proof.Machine

/-! ## Canonical form -/

/-- Every listed address of a memory is at least b. -/
def memFrom (b : Nat) (m : Mem) : Prop := ∀ c ∈ m, b ≤ c.1

theorem memFrom_cons {b : Nat} {c : Host.Cell} {m : Mem} : memFrom b (c :: m) ↔ b ≤ c.1 ∧ memFrom b m := by simp [memFrom]

/-- The canonical form of a nonempty memory: its first byte is not zero and lies below the rest, which are canonical. -/
theorem memWf_cons {a : Nat} {v : Byte} {m : Mem} : memWf ((a, v) :: m) = true ↔ v ≠ 0 ∧ memFrom (a + 1) m ∧ memWf m = true := by
  induction m generalizing a v with
  | nil => simp [memWf, memFrom]
  | cons c r ih =>
    obtain ⟨b, w⟩ := c
    simp only [memWf, Bool.and_eq_true, bne_iff_ne, decide_eq_true_eq, memFrom_cons]
    refine ⟨fun ⟨⟨hv, hab⟩, hr⟩ => ⟨hv, ⟨hab, fun c hc => ?_⟩, hr⟩, fun ⟨hv, ⟨hab, _⟩, hr⟩ => ⟨⟨hv, hab⟩, hr⟩⟩
    have := (ih.mp hr).2.1 c hc
    omega

theorem memFrom_memSet {b a : Nat} {v : Byte} {m : Mem} (hm : memFrom b m) (ha : b ≤ a) : memFrom b (memSet m a v) := by
  induction m with
  | nil => unfold memSet; split <;> simp [memFrom, ha]
  | cons c r ih =>
    obtain ⟨i, w⟩ := c
    obtain ⟨hi, hr⟩ := memFrom_cons.mp hm
    unfold memSet
    split
    · split
      · exact hm
      · exact memFrom_cons.mpr ⟨ha, hm⟩
    · split
      · split
        · exact hr
        · exact memFrom_cons.mpr ⟨ha, hr⟩
      · exact memFrom_cons.mpr ⟨hi, ih hr⟩

/-- Writing a byte keeps the canonical form. -/
theorem memSet_wf {m : Mem} (h : memWf m = true) (a : Nat) (v : Byte) : memWf (memSet m a v) = true := by
  induction m with
  | nil => unfold memSet; split <;> simp_all [memWf]
  | cons c r ih =>
    obtain ⟨i, w⟩ := c
    obtain ⟨hw, hf, hr⟩ := memWf_cons.mp h
    unfold memSet
    split
    · split
      · exact h
      · next hai hv =>
        refine memWf_cons.mpr ⟨hv, memFrom_cons.mpr ⟨hai, fun c hc => ?_⟩, h⟩
        have := hf c hc
        omega
    · split
      · next hia =>
        split
        · exact hr
        · next hv => exact memWf_cons.mpr ⟨hv, hia ▸ hf, hr⟩
      · next hia => exact memWf_cons.mpr ⟨hw, memFrom_memSet hf (by omega), ih hr⟩

/-- Writing bytes keeps the canonical form. -/
theorem memWrite_wf {m : Mem} (h : memWf m = true) (a : Nat) (bs : List Byte) : memWf (memWrite m a bs) = true := by
  induction bs generalizing m a with
  | nil => exact h
  | cons b r ih => exact ih (memSet_wf h a b) (a + 1)

/-- Leaving out cells keeps the canonical form. -/
theorem memFilter_wf {m : Mem} (h : memWf m = true) (p : Host.Cell → Bool) : memWf (m.filter p) = true := by
  induction m with
  | nil => rfl
  | cons c r ih =>
    obtain ⟨i, w⟩ := c
    obtain ⟨hw, hf, hr⟩ := memWf_cons.mp h
    rw [List.filter_cons]
    split
    · exact memWf_cons.mpr ⟨hw, fun c hc => hf c (List.mem_filter.mp hc).1, ih hr⟩
    · exact ih hr

/-- Clearing a range keeps the canonical form. -/
theorem memClear_wf {m : Mem} (h : memWf m = true) (a n : Nat) : memWf (memClear m a n) = true := memFilter_wf h _

/-! ## Reads and writes -/

/-- A byte below every listed address reads zero. -/
theorem memGet_below {b a : Nat} {m : Mem} (h : memFrom b m) (ha : a < b) : memGet m a = 0 := by
  induction m with
  | nil => rfl
  | cons c r ih =>
    obtain ⟨i, w⟩ := c
    obtain ⟨hi, hr⟩ := memFrom_cons.mp h
    rw [memGet, if_neg (by omega)]
    exact ih hr

/-- A byte reads as written; every other byte reads as before. -/
theorem memGet_memSet {m : Mem} (h : memWf m = true) (a b : Nat) (v : Byte) :
    memGet (memSet m a v) b = if b = a then v else memGet m b := by
  induction m with
  | nil =>
    unfold memSet
    split
    · next hv => split <;> simp_all [memGet]
    · simp only [memGet, eq_comm]
  | cons c r ih =>
    obtain ⟨i, w⟩ := c
    obtain ⟨hw, hf, hr⟩ := memWf_cons.mp h
    unfold memSet
    split
    · next hai =>
      have hlow : memGet ((i, w) :: r) a = 0 := by
        rw [memGet, if_neg (by omega)]
        exact memGet_below hf (by omega)
      split
      · next hv => split <;> simp_all
      · by_cases hb : b = a
        · simp [memGet, hb]
        · rw [if_neg hb, memGet, if_neg (fun e => hb e.symm)]
    · split
      · next hia =>
        subst hia
        split
        · next hv =>
          by_cases hb : b = i
          · rw [if_pos hb, hb, memGet_below hf (by omega), hv]
          · rw [if_neg hb, memGet, if_neg (fun e => hb e.symm)]
        · by_cases hb : b = i
          · simp [memGet, hb]
          · rw [if_neg hb, memGet, memGet, if_neg (fun e => hb e.symm), if_neg (fun e => hb e.symm)]
      · next hai hia =>
        rw [memGet, memGet, ih hr]
        by_cases hi : i = b
        · simp only [hi, if_true]
          rw [if_neg (by omega)]
        · simp only [hi, if_false]

/-- A byte outside the bytes written reads as before. -/
theorem memGet_memWrite_other {m : Mem} (h : memWf m = true) {a b : Nat} {bs : List Byte} (hb : b < a ∨ a + bs.length ≤ b) :
    memGet (memWrite m a bs) b = memGet m b := by
  induction bs generalizing m a with
  | nil => rfl
  | cons x r ih =>
    simp only [List.length_cons] at hb
    rw [memWrite, ih (memSet_wf h a x) (by omega), memGet_memSet h, if_neg (by omega)]

/-- The bytes written read back. -/
theorem memRead_memWrite {m : Mem} (h : memWf m = true) (a : Nat) (bs : List Byte) :
    memRead (memWrite m a bs) a bs.length = bs := by
  induction bs generalizing m a with
  | nil => rfl
  | cons x r ih =>
    rw [List.length_cons, memRead, memWrite, ih (memSet_wf h a x) (a + 1)]
    rw [memGet_memWrite_other (memSet_wf h a x) (.inl (by omega)), memGet_memSet h, if_pos rfl]

/-- Bytes outside those written read as before. -/
theorem memRead_memWrite_other {m : Mem} (h : memWf m = true) {a b n : Nat} {bs : List Byte} (hb : b + n ≤ a ∨ a + bs.length ≤ b) :
    memRead (memWrite m a bs) b n = memRead m b n := by
  induction n generalizing b with
  | zero => rfl
  | succ n ih => rw [memRead, memRead, memGet_memWrite_other h (by omega), ih (by omega)]

@[simp] theorem memRead_length (m : Mem) (a n : Nat) : (memRead m a n).length = n := by
  induction n generalizing a with
  | zero => rfl
  | succ n ih => simp [memRead, ih]

@[simp] theorem leBytes_length (v n : Nat) : (leBytes v n).length = n := by
  induction n generalizing v with
  | zero => rfl
  | succ n ih => simp [leBytes, ih]

/-- The little-endian bytes of a number give it back. -/
theorem leNat_leBytes (v n : Nat) : leNat (leBytes v n) = v % 2 ^ (8 * n) := by
  induction n generalizing v with
  | zero => simp [leNat, leBytes, Nat.mod_one]
  | succ n ih =>
    rw [leBytes, leNat, ih, BitVec.toNat_ofNat, Nat.mul_add, Nat.mul_one, Nat.add_comm (8 * n), Nat.pow_add, Nat.mod_mul]

/-! ## Tables -/

/-- An entry reads as written; every other one as before. -/
theorem tget_tset {α : Type} (t : Table α) (d : α) (k j : Nat) (v : α) :
    tget (tset t k v) d j = if j = k then v else tget t d j := by
  induction t with
  | nil => simp only [tset, tget, eq_comm]
  | cons e r ih =>
    obtain ⟨i, w⟩ := e
    by_cases hj : j = k
    · subst hj
      rw [if_pos rfl] at ih ⊢
      unfold tset
      split
      · simp [tget]
      · split
        · simp [tget]
        · next h => rw [tget, if_neg h, ih]
    · rw [if_neg hj] at ih ⊢
      unfold tset
      split
      · rw [tget, if_neg (fun e => hj e.symm)]
      · split
        · next h => rw [tget, tget, if_neg (fun e => hj e.symm), if_neg (fun e => hj (e.symm.trans h))]
        · rw [tget, tget, ih]

@[simp] theorem tget_tset_same {α : Type} (t : Table α) (d : α) (k : Nat) (v : α) : tget (tset t k v) d k = v := by
  rw [tget_tset, if_pos rfl]

theorem tget_tset_other {α : Type} (t : Table α) (d : α) {k j : Nat} (v : α) (h : j ≠ k) :
    tget (tset t k v) d j = tget t d j := by
  rw [tget_tset, if_neg h]

end Sys2Proof.Machine
end

