-- ==== Sys2Proof/Laws/State.lean ====
section
/-! SUPPORT. What each named update of the state changes, field by field: one lemma per field per update, true by definition. -/
namespace Sys2Proof.Machine

variable (s : State)

/-! ## `useFresh` -/

@[simp] theorem useFresh_agenda (n : Nat) : (useFresh s n).agenda = s.agenda := rfl
@[simp] theorem useFresh_fresh (n : Nat) : (useFresh s n).fresh = s.fresh + n := rfl
@[simp] theorem useFresh_names (n : Nat) : (useFresh s n).names = s.names := rfl
@[simp] theorem useFresh_issues (n : Nat) : (useFresh s n).issues = s.issues := rfl
@[simp] theorem useFresh_ops (n : Nat) : (useFresh s n).ops = s.ops := rfl
@[simp] theorem useFresh_groups (n : Nat) : (useFresh s n).groups = s.groups := rfl
@[simp] theorem useFresh_grids (n : Nat) : (useFresh s n).grids = s.grids := rfl
@[simp] theorem useFresh_waiters (n : Nat) : (useFresh s n).waiters = s.waiters := rfl
@[simp] theorem useFresh_cores (n : Nat) : (useFresh s n).cores = s.cores := rfl
@[simp] theorem useFresh_clusters (n : Nat) : (useFresh s n).clusters = s.clusters := rfl
@[simp] theorem useFresh_dies (n : Nat) : (useFresh s n).dies = s.dies := rfl
@[simp] theorem useFresh_partitions (n : Nat) : (useFresh s n).partitions = s.partitions := rfl
@[simp] theorem useFresh_outputs (n : Nat) : (useFresh s n).outputs = s.outputs := rfl
@[simp] theorem useFresh_mem (n : Nat) : (useFresh s n).mem = s.mem := rfl
@[simp] theorem useFresh_poison (n : Nat) : (useFresh s n).poison = s.poison := rfl
@[simp] theorem useFresh_sealed (n : Nat) : (useFresh s n).sealed = s.sealed := rfl
@[simp] theorem useFresh_sizeTags (n : Nat) : (useFresh s n).sizeTags = s.sizeTags := rfl
@[simp] theorem useFresh_regions (n : Nat) : (useFresh s n).regions = s.regions := rfl
@[simp] theorem useFresh_hostRanges (n : Nat) : (useFresh s n).hostRanges = s.hostRanges := rfl
@[simp] theorem useFresh_secureBlocks (n : Nat) : (useFresh s n).secureBlocks = s.secureBlocks := rfl
@[simp] theorem useFresh_dumpRegion (n : Nat) : (useFresh s n).dumpRegion = s.dumpRegion := rfl
@[simp] theorem useFresh_l2place (n : Nat) : (useFresh s n).l2place = s.l2place := rfl
@[simp] theorem useFresh_gaze (n : Nat) : (useFresh s n).gaze = s.gaze := rfl
@[simp] theorem useFresh_gazeOld (n : Nat) : (useFresh s n).gazeOld = s.gazeOld := rfl
@[simp] theorem useFresh_pcsel (n : Nat) : (useFresh s n).pcsel = s.pcsel := rfl
@[simp] theorem useFresh_pstate (n : Nat) : (useFresh s n).pstate = s.pstate := rfl
@[simp] theorem useFresh_cgate (n : Nat) : (useFresh s n).cgate = s.cgate := rfl
@[simp] theorem useFresh_cgated (n : Nat) : (useFresh s n).cgated = s.cgated := rfl
@[simp] theorem useFresh_pcap (n : Nat) : (useFresh s n).pcap = s.pcap := rfl
@[simp] theorem useFresh_pmeas (n : Nat) : (useFresh s n).pmeas = s.pmeas := rfl
@[simp] theorem useFresh_capNext (n : Nat) : (useFresh s n).capNext = s.capNext := rfl
@[simp] theorem useFresh_therm (n : Nat) : (useFresh s n).therm = s.therm := rfl
@[simp] theorem useFresh_devtime (n : Nat) : (useFresh s n).devtime = s.devtime := rfl
@[simp] theorem useFresh_ck (n : Nat) : (useFresh s n).ck = s.ck := rfl
@[simp] theorem useFresh_part24 (n : Nat) : (useFresh s n).part24 = s.part24 := rfl
@[simp] theorem useFresh_hostCap (n : Nat) : (useFresh s n).hostCap = s.hostCap := rfl
@[simp] theorem useFresh_hostCapRead (n : Nat) : (useFresh s n).hostCapRead = s.hostCapRead := rfl
@[simp] theorem useFresh_bootWindow (n : Nat) : (useFresh s n).bootWindow = s.bootWindow := rfl
@[simp] theorem useFresh_running (n : Nat) : (useFresh s n).running = s.running := rfl
@[simp] theorem useFresh_untrained (n : Nat) : (useFresh s n).untrained = s.untrained := rfl
@[simp] theorem useFresh_modulesDown (n : Nat) : (useFresh s n).modulesDown = s.modulesDown := rfl
@[simp] theorem useFresh_booted (n : Nat) : (useFresh s n).booted = s.booted := rfl
@[simp] theorem useFresh_fatal (n : Nat) : (useFresh s n).fatal = s.fatal := rfl
@[simp] theorem useFresh_dump (n : Nat) : (useFresh s n).dump = s.dump := rfl
@[simp] theorem useFresh_hostOut (n : Nat) : (useFresh s n).hostOut = s.hostOut := rfl
@[simp] theorem useFresh_streams (n : Nat) : (useFresh s n).streams = s.streams := rfl

/-! ## `modCore` -/

@[simp] theorem modCore_agenda (c : Nat) (f : Core → Core) : (modCore s c f).agenda = s.agenda := rfl
@[simp] theorem modCore_fresh (c : Nat) (f : Core → Core) : (modCore s c f).fresh = s.fresh := rfl
@[simp] theorem modCore_names (c : Nat) (f : Core → Core) : (modCore s c f).names = s.names := rfl
@[simp] theorem modCore_issues (c : Nat) (f : Core → Core) : (modCore s c f).issues = s.issues := rfl
@[simp] theorem modCore_ops (c : Nat) (f : Core → Core) : (modCore s c f).ops = s.ops := rfl
@[simp] theorem modCore_groups (c : Nat) (f : Core → Core) : (modCore s c f).groups = s.groups := rfl
@[simp] theorem modCore_grids (c : Nat) (f : Core → Core) : (modCore s c f).grids = s.grids := rfl
@[simp] theorem modCore_waiters (c : Nat) (f : Core → Core) : (modCore s c f).waiters = s.waiters := rfl
@[simp] theorem modCore_cores (c : Nat) (f : Core → Core) : (modCore s c f).cores = tset s.cores c (f (coreOf s c)) := rfl
@[simp] theorem modCore_clusters (c : Nat) (f : Core → Core) : (modCore s c f).clusters = s.clusters := rfl
@[simp] theorem modCore_dies (c : Nat) (f : Core → Core) : (modCore s c f).dies = s.dies := rfl
@[simp] theorem modCore_partitions (c : Nat) (f : Core → Core) : (modCore s c f).partitions = s.partitions := rfl
@[simp] theorem modCore_outputs (c : Nat) (f : Core → Core) : (modCore s c f).outputs = s.outputs := rfl
@[simp] theorem modCore_mem (c : Nat) (f : Core → Core) : (modCore s c f).mem = s.mem := rfl
@[simp] theorem modCore_poison (c : Nat) (f : Core → Core) : (modCore s c f).poison = s.poison := rfl
@[simp] theorem modCore_sealed (c : Nat) (f : Core → Core) : (modCore s c f).sealed = s.sealed := rfl
@[simp] theorem modCore_sizeTags (c : Nat) (f : Core → Core) : (modCore s c f).sizeTags = s.sizeTags := rfl
@[simp] theorem modCore_regions (c : Nat) (f : Core → Core) : (modCore s c f).regions = s.regions := rfl
@[simp] theorem modCore_hostRanges (c : Nat) (f : Core → Core) : (modCore s c f).hostRanges = s.hostRanges := rfl
@[simp] theorem modCore_secureBlocks (c : Nat) (f : Core → Core) : (modCore s c f).secureBlocks = s.secureBlocks := rfl
@[simp] theorem modCore_dumpRegion (c : Nat) (f : Core → Core) : (modCore s c f).dumpRegion = s.dumpRegion := rfl
@[simp] theorem modCore_l2place (c : Nat) (f : Core → Core) : (modCore s c f).l2place = s.l2place := rfl
@[simp] theorem modCore_gaze (c : Nat) (f : Core → Core) : (modCore s c f).gaze = s.gaze := rfl
@[simp] theorem modCore_gazeOld (c : Nat) (f : Core → Core) : (modCore s c f).gazeOld = s.gazeOld := rfl
@[simp] theorem modCore_pcsel (c : Nat) (f : Core → Core) : (modCore s c f).pcsel = s.pcsel := rfl
@[simp] theorem modCore_pstate (c : Nat) (f : Core → Core) : (modCore s c f).pstate = s.pstate := rfl
@[simp] theorem modCore_cgate (c : Nat) (f : Core → Core) : (modCore s c f).cgate = s.cgate := rfl
@[simp] theorem modCore_cgated (c : Nat) (f : Core → Core) : (modCore s c f).cgated = s.cgated := rfl
@[simp] theorem modCore_pcap (c : Nat) (f : Core → Core) : (modCore s c f).pcap = s.pcap := rfl
@[simp] theorem modCore_pmeas (c : Nat) (f : Core → Core) : (modCore s c f).pmeas = s.pmeas := rfl
@[simp] theorem modCore_capNext (c : Nat) (f : Core → Core) : (modCore s c f).capNext = s.capNext := rfl
@[simp] theorem modCore_therm (c : Nat) (f : Core → Core) : (modCore s c f).therm = s.therm := rfl
@[simp] theorem modCore_devtime (c : Nat) (f : Core → Core) : (modCore s c f).devtime = s.devtime := rfl
@[simp] theorem modCore_ck (c : Nat) (f : Core → Core) : (modCore s c f).ck = s.ck := rfl
@[simp] theorem modCore_part24 (c : Nat) (f : Core → Core) : (modCore s c f).part24 = s.part24 := rfl
@[simp] theorem modCore_hostCap (c : Nat) (f : Core → Core) : (modCore s c f).hostCap = s.hostCap := rfl
@[simp] theorem modCore_hostCapRead (c : Nat) (f : Core → Core) : (modCore s c f).hostCapRead = s.hostCapRead := rfl
@[simp] theorem modCore_bootWindow (c : Nat) (f : Core → Core) : (modCore s c f).bootWindow = s.bootWindow := rfl
@[simp] theorem modCore_running (c : Nat) (f : Core → Core) : (modCore s c f).running = s.running := rfl
@[simp] theorem modCore_untrained (c : Nat) (f : Core → Core) : (modCore s c f).untrained = s.untrained := rfl
@[simp] theorem modCore_modulesDown (c : Nat) (f : Core → Core) : (modCore s c f).modulesDown = s.modulesDown := rfl
@[simp] theorem modCore_booted (c : Nat) (f : Core → Core) : (modCore s c f).booted = s.booted := rfl
@[simp] theorem modCore_fatal (c : Nat) (f : Core → Core) : (modCore s c f).fatal = s.fatal := rfl
@[simp] theorem modCore_dump (c : Nat) (f : Core → Core) : (modCore s c f).dump = s.dump := rfl
@[simp] theorem modCore_hostOut (c : Nat) (f : Core → Core) : (modCore s c f).hostOut = s.hostOut := rfl
@[simp] theorem modCore_streams (c : Nat) (f : Core → Core) : (modCore s c f).streams = s.streams := rfl

/-! ## `modCluster` -/

@[simp] theorem modCluster_agenda (c : Nat) (f : Cluster → Cluster) : (modCluster s c f).agenda = s.agenda := rfl
@[simp] theorem modCluster_fresh (c : Nat) (f : Cluster → Cluster) : (modCluster s c f).fresh = s.fresh := rfl
@[simp] theorem modCluster_names (c : Nat) (f : Cluster → Cluster) : (modCluster s c f).names = s.names := rfl
@[simp] theorem modCluster_issues (c : Nat) (f : Cluster → Cluster) : (modCluster s c f).issues = s.issues := rfl
@[simp] theorem modCluster_ops (c : Nat) (f : Cluster → Cluster) : (modCluster s c f).ops = s.ops := rfl
@[simp] theorem modCluster_groups (c : Nat) (f : Cluster → Cluster) : (modCluster s c f).groups = s.groups := rfl
@[simp] theorem modCluster_grids (c : Nat) (f : Cluster → Cluster) : (modCluster s c f).grids = s.grids := rfl
@[simp] theorem modCluster_waiters (c : Nat) (f : Cluster → Cluster) : (modCluster s c f).waiters = s.waiters := rfl
@[simp] theorem modCluster_cores (c : Nat) (f : Cluster → Cluster) : (modCluster s c f).cores = s.cores := rfl
@[simp] theorem modCluster_clusters (c : Nat) (f : Cluster → Cluster) : (modCluster s c f).clusters = tset s.clusters c (f (clusterOf s c)) := rfl
@[simp] theorem modCluster_dies (c : Nat) (f : Cluster → Cluster) : (modCluster s c f).dies = s.dies := rfl
@[simp] theorem modCluster_partitions (c : Nat) (f : Cluster → Cluster) : (modCluster s c f).partitions = s.partitions := rfl
@[simp] theorem modCluster_outputs (c : Nat) (f : Cluster → Cluster) : (modCluster s c f).outputs = s.outputs := rfl
@[simp] theorem modCluster_mem (c : Nat) (f : Cluster → Cluster) : (modCluster s c f).mem = s.mem := rfl
@[simp] theorem modCluster_poison (c : Nat) (f : Cluster → Cluster) : (modCluster s c f).poison = s.poison := rfl
@[simp] theorem modCluster_sealed (c : Nat) (f : Cluster → Cluster) : (modCluster s c f).sealed = s.sealed := rfl
@[simp] theorem modCluster_sizeTags (c : Nat) (f : Cluster → Cluster) : (modCluster s c f).sizeTags = s.sizeTags := rfl
@[simp] theorem modCluster_regions (c : Nat) (f : Cluster → Cluster) : (modCluster s c f).regions = s.regions := rfl
@[simp] theorem modCluster_hostRanges (c : Nat) (f : Cluster → Cluster) : (modCluster s c f).hostRanges = s.hostRanges := rfl
@[simp] theorem modCluster_secureBlocks (c : Nat) (f : Cluster → Cluster) : (modCluster s c f).secureBlocks = s.secureBlocks := rfl
@[simp] theorem modCluster_dumpRegion (c : Nat) (f : Cluster → Cluster) : (modCluster s c f).dumpRegion = s.dumpRegion := rfl
@[simp] theorem modCluster_l2place (c : Nat) (f : Cluster → Cluster) : (modCluster s c f).l2place = s.l2place := rfl
@[simp] theorem modCluster_gaze (c : Nat) (f : Cluster → Cluster) : (modCluster s c f).gaze = s.gaze := rfl
@[simp] theorem modCluster_gazeOld (c : Nat) (f : Cluster → Cluster) : (modCluster s c f).gazeOld = s.gazeOld := rfl
@[simp] theorem modCluster_pcsel (c : Nat) (f : Cluster → Cluster) : (modCluster s c f).pcsel = s.pcsel := rfl
@[simp] theorem modCluster_pstate (c : Nat) (f : Cluster → Cluster) : (modCluster s c f).pstate = s.pstate := rfl
@[simp] theorem modCluster_cgate (c : Nat) (f : Cluster → Cluster) : (modCluster s c f).cgate = s.cgate := rfl
@[simp] theorem modCluster_cgated (c : Nat) (f : Cluster → Cluster) : (modCluster s c f).cgated = s.cgated := rfl
@[simp] theorem modCluster_pcap (c : Nat) (f : Cluster → Cluster) : (modCluster s c f).pcap = s.pcap := rfl
@[simp] theorem modCluster_pmeas (c : Nat) (f : Cluster → Cluster) : (modCluster s c f).pmeas = s.pmeas := rfl
@[simp] theorem modCluster_capNext (c : Nat) (f : Cluster → Cluster) : (modCluster s c f).capNext = s.capNext := rfl
@[simp] theorem modCluster_therm (c : Nat) (f : Cluster → Cluster) : (modCluster s c f).therm = s.therm := rfl
@[simp] theorem modCluster_devtime (c : Nat) (f : Cluster → Cluster) : (modCluster s c f).devtime = s.devtime := rfl
@[simp] theorem modCluster_ck (c : Nat) (f : Cluster → Cluster) : (modCluster s c f).ck = s.ck := rfl
@[simp] theorem modCluster_part24 (c : Nat) (f : Cluster → Cluster) : (modCluster s c f).part24 = s.part24 := rfl
@[simp] theorem modCluster_hostCap (c : Nat) (f : Cluster → Cluster) : (modCluster s c f).hostCap = s.hostCap := rfl
@[simp] theorem modCluster_hostCapRead (c : Nat) (f : Cluster → Cluster) : (modCluster s c f).hostCapRead = s.hostCapRead := rfl
@[simp] theorem modCluster_bootWindow (c : Nat) (f : Cluster → Cluster) : (modCluster s c f).bootWindow = s.bootWindow := rfl
@[simp] theorem modCluster_running (c : Nat) (f : Cluster → Cluster) : (modCluster s c f).running = s.running := rfl
@[simp] theorem modCluster_untrained (c : Nat) (f : Cluster → Cluster) : (modCluster s c f).untrained = s.untrained := rfl
@[simp] theorem modCluster_modulesDown (c : Nat) (f : Cluster → Cluster) : (modCluster s c f).modulesDown = s.modulesDown := rfl
@[simp] theorem modCluster_booted (c : Nat) (f : Cluster → Cluster) : (modCluster s c f).booted = s.booted := rfl
@[simp] theorem modCluster_fatal (c : Nat) (f : Cluster → Cluster) : (modCluster s c f).fatal = s.fatal := rfl
@[simp] theorem modCluster_dump (c : Nat) (f : Cluster → Cluster) : (modCluster s c f).dump = s.dump := rfl
@[simp] theorem modCluster_hostOut (c : Nat) (f : Cluster → Cluster) : (modCluster s c f).hostOut = s.hostOut := rfl
@[simp] theorem modCluster_streams (c : Nat) (f : Cluster → Cluster) : (modCluster s c f).streams = s.streams := rfl

/-! ## `modDie` -/

@[simp] theorem modDie_agenda (d : Nat) (f : Die → Die) : (modDie s d f).agenda = s.agenda := rfl
@[simp] theorem modDie_fresh (d : Nat) (f : Die → Die) : (modDie s d f).fresh = s.fresh := rfl
@[simp] theorem modDie_names (d : Nat) (f : Die → Die) : (modDie s d f).names = s.names := rfl
@[simp] theorem modDie_issues (d : Nat) (f : Die → Die) : (modDie s d f).issues = s.issues := rfl
@[simp] theorem modDie_ops (d : Nat) (f : Die → Die) : (modDie s d f).ops = s.ops := rfl
@[simp] theorem modDie_groups (d : Nat) (f : Die → Die) : (modDie s d f).groups = s.groups := rfl
@[simp] theorem modDie_grids (d : Nat) (f : Die → Die) : (modDie s d f).grids = s.grids := rfl
@[simp] theorem modDie_waiters (d : Nat) (f : Die → Die) : (modDie s d f).waiters = s.waiters := rfl
@[simp] theorem modDie_cores (d : Nat) (f : Die → Die) : (modDie s d f).cores = s.cores := rfl
@[simp] theorem modDie_clusters (d : Nat) (f : Die → Die) : (modDie s d f).clusters = s.clusters := rfl
@[simp] theorem modDie_dies (d : Nat) (f : Die → Die) : (modDie s d f).dies = tset s.dies d (f (dieOf s d)) := rfl
@[simp] theorem modDie_partitions (d : Nat) (f : Die → Die) : (modDie s d f).partitions = s.partitions := rfl
@[simp] theorem modDie_outputs (d : Nat) (f : Die → Die) : (modDie s d f).outputs = s.outputs := rfl
@[simp] theorem modDie_mem (d : Nat) (f : Die → Die) : (modDie s d f).mem = s.mem := rfl
@[simp] theorem modDie_poison (d : Nat) (f : Die → Die) : (modDie s d f).poison = s.poison := rfl
@[simp] theorem modDie_sealed (d : Nat) (f : Die → Die) : (modDie s d f).sealed = s.sealed := rfl
@[simp] theorem modDie_sizeTags (d : Nat) (f : Die → Die) : (modDie s d f).sizeTags = s.sizeTags := rfl
@[simp] theorem modDie_regions (d : Nat) (f : Die → Die) : (modDie s d f).regions = s.regions := rfl
@[simp] theorem modDie_hostRanges (d : Nat) (f : Die → Die) : (modDie s d f).hostRanges = s.hostRanges := rfl
@[simp] theorem modDie_secureBlocks (d : Nat) (f : Die → Die) : (modDie s d f).secureBlocks = s.secureBlocks := rfl
@[simp] theorem modDie_dumpRegion (d : Nat) (f : Die → Die) : (modDie s d f).dumpRegion = s.dumpRegion := rfl
@[simp] theorem modDie_l2place (d : Nat) (f : Die → Die) : (modDie s d f).l2place = s.l2place := rfl
@[simp] theorem modDie_gaze (d : Nat) (f : Die → Die) : (modDie s d f).gaze = s.gaze := rfl
@[simp] theorem modDie_gazeOld (d : Nat) (f : Die → Die) : (modDie s d f).gazeOld = s.gazeOld := rfl
@[simp] theorem modDie_pcsel (d : Nat) (f : Die → Die) : (modDie s d f).pcsel = s.pcsel := rfl
@[simp] theorem modDie_pstate (d : Nat) (f : Die → Die) : (modDie s d f).pstate = s.pstate := rfl
@[simp] theorem modDie_cgate (d : Nat) (f : Die → Die) : (modDie s d f).cgate = s.cgate := rfl
@[simp] theorem modDie_cgated (d : Nat) (f : Die → Die) : (modDie s d f).cgated = s.cgated := rfl
@[simp] theorem modDie_pcap (d : Nat) (f : Die → Die) : (modDie s d f).pcap = s.pcap := rfl
@[simp] theorem modDie_pmeas (d : Nat) (f : Die → Die) : (modDie s d f).pmeas = s.pmeas := rfl
@[simp] theorem modDie_capNext (d : Nat) (f : Die → Die) : (modDie s d f).capNext = s.capNext := rfl
@[simp] theorem modDie_therm (d : Nat) (f : Die → Die) : (modDie s d f).therm = s.therm := rfl
@[simp] theorem modDie_devtime (d : Nat) (f : Die → Die) : (modDie s d f).devtime = s.devtime := rfl
@[simp] theorem modDie_ck (d : Nat) (f : Die → Die) : (modDie s d f).ck = s.ck := rfl
@[simp] theorem modDie_part24 (d : Nat) (f : Die → Die) : (modDie s d f).part24 = s.part24 := rfl
@[simp] theorem modDie_hostCap (d : Nat) (f : Die → Die) : (modDie s d f).hostCap = s.hostCap := rfl
@[simp] theorem modDie_hostCapRead (d : Nat) (f : Die → Die) : (modDie s d f).hostCapRead = s.hostCapRead := rfl
@[simp] theorem modDie_bootWindow (d : Nat) (f : Die → Die) : (modDie s d f).bootWindow = s.bootWindow := rfl
@[simp] theorem modDie_running (d : Nat) (f : Die → Die) : (modDie s d f).running = s.running := rfl
@[simp] theorem modDie_untrained (d : Nat) (f : Die → Die) : (modDie s d f).untrained = s.untrained := rfl
@[simp] theorem modDie_modulesDown (d : Nat) (f : Die → Die) : (modDie s d f).modulesDown = s.modulesDown := rfl
@[simp] theorem modDie_booted (d : Nat) (f : Die → Die) : (modDie s d f).booted = s.booted := rfl
@[simp] theorem modDie_fatal (d : Nat) (f : Die → Die) : (modDie s d f).fatal = s.fatal := rfl
@[simp] theorem modDie_dump (d : Nat) (f : Die → Die) : (modDie s d f).dump = s.dump := rfl
@[simp] theorem modDie_hostOut (d : Nat) (f : Die → Die) : (modDie s d f).hostOut = s.hostOut := rfl
@[simp] theorem modDie_streams (d : Nat) (f : Die → Die) : (modDie s d f).streams = s.streams := rfl

/-! ## `modPart` -/

@[simp] theorem modPart_agenda (p : Nat) (f : Partition → Partition) : (modPart s p f).agenda = s.agenda := rfl
@[simp] theorem modPart_fresh (p : Nat) (f : Partition → Partition) : (modPart s p f).fresh = s.fresh := rfl
@[simp] theorem modPart_names (p : Nat) (f : Partition → Partition) : (modPart s p f).names = s.names := rfl
@[simp] theorem modPart_issues (p : Nat) (f : Partition → Partition) : (modPart s p f).issues = s.issues := rfl
@[simp] theorem modPart_ops (p : Nat) (f : Partition → Partition) : (modPart s p f).ops = s.ops := rfl
@[simp] theorem modPart_groups (p : Nat) (f : Partition → Partition) : (modPart s p f).groups = s.groups := rfl
@[simp] theorem modPart_grids (p : Nat) (f : Partition → Partition) : (modPart s p f).grids = s.grids := rfl
@[simp] theorem modPart_waiters (p : Nat) (f : Partition → Partition) : (modPart s p f).waiters = s.waiters := rfl
@[simp] theorem modPart_cores (p : Nat) (f : Partition → Partition) : (modPart s p f).cores = s.cores := rfl
@[simp] theorem modPart_clusters (p : Nat) (f : Partition → Partition) : (modPart s p f).clusters = s.clusters := rfl
@[simp] theorem modPart_dies (p : Nat) (f : Partition → Partition) : (modPart s p f).dies = s.dies := rfl
@[simp] theorem modPart_partitions (p : Nat) (f : Partition → Partition) : (modPart s p f).partitions = tset s.partitions p (f (partOf s p)) := rfl
@[simp] theorem modPart_outputs (p : Nat) (f : Partition → Partition) : (modPart s p f).outputs = s.outputs := rfl
@[simp] theorem modPart_mem (p : Nat) (f : Partition → Partition) : (modPart s p f).mem = s.mem := rfl
@[simp] theorem modPart_poison (p : Nat) (f : Partition → Partition) : (modPart s p f).poison = s.poison := rfl
@[simp] theorem modPart_sealed (p : Nat) (f : Partition → Partition) : (modPart s p f).sealed = s.sealed := rfl
@[simp] theorem modPart_sizeTags (p : Nat) (f : Partition → Partition) : (modPart s p f).sizeTags = s.sizeTags := rfl
@[simp] theorem modPart_regions (p : Nat) (f : Partition → Partition) : (modPart s p f).regions = s.regions := rfl
@[simp] theorem modPart_hostRanges (p : Nat) (f : Partition → Partition) : (modPart s p f).hostRanges = s.hostRanges := rfl
@[simp] theorem modPart_secureBlocks (p : Nat) (f : Partition → Partition) : (modPart s p f).secureBlocks = s.secureBlocks := rfl
@[simp] theorem modPart_dumpRegion (p : Nat) (f : Partition → Partition) : (modPart s p f).dumpRegion = s.dumpRegion := rfl
@[simp] theorem modPart_l2place (p : Nat) (f : Partition → Partition) : (modPart s p f).l2place = s.l2place := rfl
@[simp] theorem modPart_gaze (p : Nat) (f : Partition → Partition) : (modPart s p f).gaze = s.gaze := rfl
@[simp] theorem modPart_gazeOld (p : Nat) (f : Partition → Partition) : (modPart s p f).gazeOld = s.gazeOld := rfl
@[simp] theorem modPart_pcsel (p : Nat) (f : Partition → Partition) : (modPart s p f).pcsel = s.pcsel := rfl
@[simp] theorem modPart_pstate (p : Nat) (f : Partition → Partition) : (modPart s p f).pstate = s.pstate := rfl
@[simp] theorem modPart_cgate (p : Nat) (f : Partition → Partition) : (modPart s p f).cgate = s.cgate := rfl
@[simp] theorem modPart_cgated (p : Nat) (f : Partition → Partition) : (modPart s p f).cgated = s.cgated := rfl
@[simp] theorem modPart_pcap (p : Nat) (f : Partition → Partition) : (modPart s p f).pcap = s.pcap := rfl
@[simp] theorem modPart_pmeas (p : Nat) (f : Partition → Partition) : (modPart s p f).pmeas = s.pmeas := rfl
@[simp] theorem modPart_capNext (p : Nat) (f : Partition → Partition) : (modPart s p f).capNext = s.capNext := rfl
@[simp] theorem modPart_therm (p : Nat) (f : Partition → Partition) : (modPart s p f).therm = s.therm := rfl
@[simp] theorem modPart_devtime (p : Nat) (f : Partition → Partition) : (modPart s p f).devtime = s.devtime := rfl
@[simp] theorem modPart_ck (p : Nat) (f : Partition → Partition) : (modPart s p f).ck = s.ck := rfl
@[simp] theorem modPart_part24 (p : Nat) (f : Partition → Partition) : (modPart s p f).part24 = s.part24 := rfl
@[simp] theorem modPart_hostCap (p : Nat) (f : Partition → Partition) : (modPart s p f).hostCap = s.hostCap := rfl
@[simp] theorem modPart_hostCapRead (p : Nat) (f : Partition → Partition) : (modPart s p f).hostCapRead = s.hostCapRead := rfl
@[simp] theorem modPart_bootWindow (p : Nat) (f : Partition → Partition) : (modPart s p f).bootWindow = s.bootWindow := rfl
@[simp] theorem modPart_running (p : Nat) (f : Partition → Partition) : (modPart s p f).running = s.running := rfl
@[simp] theorem modPart_untrained (p : Nat) (f : Partition → Partition) : (modPart s p f).untrained = s.untrained := rfl
@[simp] theorem modPart_modulesDown (p : Nat) (f : Partition → Partition) : (modPart s p f).modulesDown = s.modulesDown := rfl
@[simp] theorem modPart_booted (p : Nat) (f : Partition → Partition) : (modPart s p f).booted = s.booted := rfl
@[simp] theorem modPart_fatal (p : Nat) (f : Partition → Partition) : (modPart s p f).fatal = s.fatal := rfl
@[simp] theorem modPart_dump (p : Nat) (f : Partition → Partition) : (modPart s p f).dump = s.dump := rfl
@[simp] theorem modPart_hostOut (p : Nat) (f : Partition → Partition) : (modPart s p f).hostOut = s.hostOut := rfl
@[simp] theorem modPart_streams (p : Nat) (f : Partition → Partition) : (modPart s p f).streams = s.streams := rfl

/-! ## `modOut` -/

@[simp] theorem modOut_agenda (o : Nat) (f : Output → Output) : (modOut s o f).agenda = s.agenda := rfl
@[simp] theorem modOut_fresh (o : Nat) (f : Output → Output) : (modOut s o f).fresh = s.fresh := rfl
@[simp] theorem modOut_names (o : Nat) (f : Output → Output) : (modOut s o f).names = s.names := rfl
@[simp] theorem modOut_issues (o : Nat) (f : Output → Output) : (modOut s o f).issues = s.issues := rfl
@[simp] theorem modOut_ops (o : Nat) (f : Output → Output) : (modOut s o f).ops = s.ops := rfl
@[simp] theorem modOut_groups (o : Nat) (f : Output → Output) : (modOut s o f).groups = s.groups := rfl
@[simp] theorem modOut_grids (o : Nat) (f : Output → Output) : (modOut s o f).grids = s.grids := rfl
@[simp] theorem modOut_waiters (o : Nat) (f : Output → Output) : (modOut s o f).waiters = s.waiters := rfl
@[simp] theorem modOut_cores (o : Nat) (f : Output → Output) : (modOut s o f).cores = s.cores := rfl
@[simp] theorem modOut_clusters (o : Nat) (f : Output → Output) : (modOut s o f).clusters = s.clusters := rfl
@[simp] theorem modOut_dies (o : Nat) (f : Output → Output) : (modOut s o f).dies = s.dies := rfl
@[simp] theorem modOut_partitions (o : Nat) (f : Output → Output) : (modOut s o f).partitions = s.partitions := rfl
@[simp] theorem modOut_outputs (o : Nat) (f : Output → Output) : (modOut s o f).outputs = tset s.outputs o (f (outOf s o)) := rfl
@[simp] theorem modOut_mem (o : Nat) (f : Output → Output) : (modOut s o f).mem = s.mem := rfl
@[simp] theorem modOut_poison (o : Nat) (f : Output → Output) : (modOut s o f).poison = s.poison := rfl
@[simp] theorem modOut_sealed (o : Nat) (f : Output → Output) : (modOut s o f).sealed = s.sealed := rfl
@[simp] theorem modOut_sizeTags (o : Nat) (f : Output → Output) : (modOut s o f).sizeTags = s.sizeTags := rfl
@[simp] theorem modOut_regions (o : Nat) (f : Output → Output) : (modOut s o f).regions = s.regions := rfl
@[simp] theorem modOut_hostRanges (o : Nat) (f : Output → Output) : (modOut s o f).hostRanges = s.hostRanges := rfl
@[simp] theorem modOut_secureBlocks (o : Nat) (f : Output → Output) : (modOut s o f).secureBlocks = s.secureBlocks := rfl
@[simp] theorem modOut_dumpRegion (o : Nat) (f : Output → Output) : (modOut s o f).dumpRegion = s.dumpRegion := rfl
@[simp] theorem modOut_l2place (o : Nat) (f : Output → Output) : (modOut s o f).l2place = s.l2place := rfl
@[simp] theorem modOut_gaze (o : Nat) (f : Output → Output) : (modOut s o f).gaze = s.gaze := rfl
@[simp] theorem modOut_gazeOld (o : Nat) (f : Output → Output) : (modOut s o f).gazeOld = s.gazeOld := rfl
@[simp] theorem modOut_pcsel (o : Nat) (f : Output → Output) : (modOut s o f).pcsel = s.pcsel := rfl
@[simp] theorem modOut_pstate (o : Nat) (f : Output → Output) : (modOut s o f).pstate = s.pstate := rfl
@[simp] theorem modOut_cgate (o : Nat) (f : Output → Output) : (modOut s o f).cgate = s.cgate := rfl
@[simp] theorem modOut_cgated (o : Nat) (f : Output → Output) : (modOut s o f).cgated = s.cgated := rfl
@[simp] theorem modOut_pcap (o : Nat) (f : Output → Output) : (modOut s o f).pcap = s.pcap := rfl
@[simp] theorem modOut_pmeas (o : Nat) (f : Output → Output) : (modOut s o f).pmeas = s.pmeas := rfl
@[simp] theorem modOut_capNext (o : Nat) (f : Output → Output) : (modOut s o f).capNext = s.capNext := rfl
@[simp] theorem modOut_therm (o : Nat) (f : Output → Output) : (modOut s o f).therm = s.therm := rfl
@[simp] theorem modOut_devtime (o : Nat) (f : Output → Output) : (modOut s o f).devtime = s.devtime := rfl
@[simp] theorem modOut_ck (o : Nat) (f : Output → Output) : (modOut s o f).ck = s.ck := rfl
@[simp] theorem modOut_part24 (o : Nat) (f : Output → Output) : (modOut s o f).part24 = s.part24 := rfl
@[simp] theorem modOut_hostCap (o : Nat) (f : Output → Output) : (modOut s o f).hostCap = s.hostCap := rfl
@[simp] theorem modOut_hostCapRead (o : Nat) (f : Output → Output) : (modOut s o f).hostCapRead = s.hostCapRead := rfl
@[simp] theorem modOut_bootWindow (o : Nat) (f : Output → Output) : (modOut s o f).bootWindow = s.bootWindow := rfl
@[simp] theorem modOut_running (o : Nat) (f : Output → Output) : (modOut s o f).running = s.running := rfl
@[simp] theorem modOut_untrained (o : Nat) (f : Output → Output) : (modOut s o f).untrained = s.untrained := rfl
@[simp] theorem modOut_modulesDown (o : Nat) (f : Output → Output) : (modOut s o f).modulesDown = s.modulesDown := rfl
@[simp] theorem modOut_booted (o : Nat) (f : Output → Output) : (modOut s o f).booted = s.booted := rfl
@[simp] theorem modOut_fatal (o : Nat) (f : Output → Output) : (modOut s o f).fatal = s.fatal := rfl
@[simp] theorem modOut_dump (o : Nat) (f : Output → Output) : (modOut s o f).dump = s.dump := rfl
@[simp] theorem modOut_hostOut (o : Nat) (f : Output → Output) : (modOut s o f).hostOut = s.hostOut := rfl
@[simp] theorem modOut_streams (o : Nat) (f : Output → Output) : (modOut s o f).streams = s.streams := rfl

/-! ## `modGrid` -/

@[simp] theorem modGrid_agenda (id : Nat) (f : Grid → Grid) : (modGrid s id f).agenda = s.agenda := rfl
@[simp] theorem modGrid_fresh (id : Nat) (f : Grid → Grid) : (modGrid s id f).fresh = s.fresh := rfl
@[simp] theorem modGrid_names (id : Nat) (f : Grid → Grid) : (modGrid s id f).names = s.names := rfl
@[simp] theorem modGrid_issues (id : Nat) (f : Grid → Grid) : (modGrid s id f).issues = s.issues := rfl
@[simp] theorem modGrid_ops (id : Nat) (f : Grid → Grid) : (modGrid s id f).ops = s.ops := rfl
@[simp] theorem modGrid_groups (id : Nat) (f : Grid → Grid) : (modGrid s id f).groups = s.groups := rfl
@[simp] theorem modGrid_grids (id : Nat) (f : Grid → Grid) : (modGrid s id f).grids = updFirst (fun x => x.id == id) f s.grids := rfl
@[simp] theorem modGrid_waiters (id : Nat) (f : Grid → Grid) : (modGrid s id f).waiters = s.waiters := rfl
@[simp] theorem modGrid_cores (id : Nat) (f : Grid → Grid) : (modGrid s id f).cores = s.cores := rfl
@[simp] theorem modGrid_clusters (id : Nat) (f : Grid → Grid) : (modGrid s id f).clusters = s.clusters := rfl
@[simp] theorem modGrid_dies (id : Nat) (f : Grid → Grid) : (modGrid s id f).dies = s.dies := rfl
@[simp] theorem modGrid_partitions (id : Nat) (f : Grid → Grid) : (modGrid s id f).partitions = s.partitions := rfl
@[simp] theorem modGrid_outputs (id : Nat) (f : Grid → Grid) : (modGrid s id f).outputs = s.outputs := rfl
@[simp] theorem modGrid_mem (id : Nat) (f : Grid → Grid) : (modGrid s id f).mem = s.mem := rfl
@[simp] theorem modGrid_poison (id : Nat) (f : Grid → Grid) : (modGrid s id f).poison = s.poison := rfl
@[simp] theorem modGrid_sealed (id : Nat) (f : Grid → Grid) : (modGrid s id f).sealed = s.sealed := rfl
@[simp] theorem modGrid_sizeTags (id : Nat) (f : Grid → Grid) : (modGrid s id f).sizeTags = s.sizeTags := rfl
@[simp] theorem modGrid_regions (id : Nat) (f : Grid → Grid) : (modGrid s id f).regions = s.regions := rfl
@[simp] theorem modGrid_hostRanges (id : Nat) (f : Grid → Grid) : (modGrid s id f).hostRanges = s.hostRanges := rfl
@[simp] theorem modGrid_secureBlocks (id : Nat) (f : Grid → Grid) : (modGrid s id f).secureBlocks = s.secureBlocks := rfl
@[simp] theorem modGrid_dumpRegion (id : Nat) (f : Grid → Grid) : (modGrid s id f).dumpRegion = s.dumpRegion := rfl
@[simp] theorem modGrid_l2place (id : Nat) (f : Grid → Grid) : (modGrid s id f).l2place = s.l2place := rfl
@[simp] theorem modGrid_gaze (id : Nat) (f : Grid → Grid) : (modGrid s id f).gaze = s.gaze := rfl
@[simp] theorem modGrid_gazeOld (id : Nat) (f : Grid → Grid) : (modGrid s id f).gazeOld = s.gazeOld := rfl
@[simp] theorem modGrid_pcsel (id : Nat) (f : Grid → Grid) : (modGrid s id f).pcsel = s.pcsel := rfl
@[simp] theorem modGrid_pstate (id : Nat) (f : Grid → Grid) : (modGrid s id f).pstate = s.pstate := rfl
@[simp] theorem modGrid_cgate (id : Nat) (f : Grid → Grid) : (modGrid s id f).cgate = s.cgate := rfl
@[simp] theorem modGrid_cgated (id : Nat) (f : Grid → Grid) : (modGrid s id f).cgated = s.cgated := rfl
@[simp] theorem modGrid_pcap (id : Nat) (f : Grid → Grid) : (modGrid s id f).pcap = s.pcap := rfl
@[simp] theorem modGrid_pmeas (id : Nat) (f : Grid → Grid) : (modGrid s id f).pmeas = s.pmeas := rfl
@[simp] theorem modGrid_capNext (id : Nat) (f : Grid → Grid) : (modGrid s id f).capNext = s.capNext := rfl
@[simp] theorem modGrid_therm (id : Nat) (f : Grid → Grid) : (modGrid s id f).therm = s.therm := rfl
@[simp] theorem modGrid_devtime (id : Nat) (f : Grid → Grid) : (modGrid s id f).devtime = s.devtime := rfl
@[simp] theorem modGrid_ck (id : Nat) (f : Grid → Grid) : (modGrid s id f).ck = s.ck := rfl
@[simp] theorem modGrid_part24 (id : Nat) (f : Grid → Grid) : (modGrid s id f).part24 = s.part24 := rfl
@[simp] theorem modGrid_hostCap (id : Nat) (f : Grid → Grid) : (modGrid s id f).hostCap = s.hostCap := rfl
@[simp] theorem modGrid_hostCapRead (id : Nat) (f : Grid → Grid) : (modGrid s id f).hostCapRead = s.hostCapRead := rfl
@[simp] theorem modGrid_bootWindow (id : Nat) (f : Grid → Grid) : (modGrid s id f).bootWindow = s.bootWindow := rfl
@[simp] theorem modGrid_running (id : Nat) (f : Grid → Grid) : (modGrid s id f).running = s.running := rfl
@[simp] theorem modGrid_untrained (id : Nat) (f : Grid → Grid) : (modGrid s id f).untrained = s.untrained := rfl
@[simp] theorem modGrid_modulesDown (id : Nat) (f : Grid → Grid) : (modGrid s id f).modulesDown = s.modulesDown := rfl
@[simp] theorem modGrid_booted (id : Nat) (f : Grid → Grid) : (modGrid s id f).booted = s.booted := rfl
@[simp] theorem modGrid_fatal (id : Nat) (f : Grid → Grid) : (modGrid s id f).fatal = s.fatal := rfl
@[simp] theorem modGrid_dump (id : Nat) (f : Grid → Grid) : (modGrid s id f).dump = s.dump := rfl
@[simp] theorem modGrid_hostOut (id : Nat) (f : Grid → Grid) : (modGrid s id f).hostOut = s.hostOut := rfl
@[simp] theorem modGrid_streams (id : Nat) (f : Grid → Grid) : (modGrid s id f).streams = s.streams := rfl

/-! ## `modGroup` -/

@[simp] theorem modGroup_agenda (gk : Nat) (f : Group → Group) : (modGroup s gk f).agenda = s.agenda := rfl
@[simp] theorem modGroup_fresh (gk : Nat) (f : Group → Group) : (modGroup s gk f).fresh = s.fresh := rfl
@[simp] theorem modGroup_names (gk : Nat) (f : Group → Group) : (modGroup s gk f).names = s.names := rfl
@[simp] theorem modGroup_issues (gk : Nat) (f : Group → Group) : (modGroup s gk f).issues = s.issues := rfl
@[simp] theorem modGroup_ops (gk : Nat) (f : Group → Group) : (modGroup s gk f).ops = s.ops := rfl
@[simp] theorem modGroup_groups (gk : Nat) (f : Group → Group) : (modGroup s gk f).groups = updFirst (fun g => g.gk == gk) f s.groups := rfl
@[simp] theorem modGroup_grids (gk : Nat) (f : Group → Group) : (modGroup s gk f).grids = s.grids := rfl
@[simp] theorem modGroup_waiters (gk : Nat) (f : Group → Group) : (modGroup s gk f).waiters = s.waiters := rfl
@[simp] theorem modGroup_cores (gk : Nat) (f : Group → Group) : (modGroup s gk f).cores = s.cores := rfl
@[simp] theorem modGroup_clusters (gk : Nat) (f : Group → Group) : (modGroup s gk f).clusters = s.clusters := rfl
@[simp] theorem modGroup_dies (gk : Nat) (f : Group → Group) : (modGroup s gk f).dies = s.dies := rfl
@[simp] theorem modGroup_partitions (gk : Nat) (f : Group → Group) : (modGroup s gk f).partitions = s.partitions := rfl
@[simp] theorem modGroup_outputs (gk : Nat) (f : Group → Group) : (modGroup s gk f).outputs = s.outputs := rfl
@[simp] theorem modGroup_mem (gk : Nat) (f : Group → Group) : (modGroup s gk f).mem = s.mem := rfl
@[simp] theorem modGroup_poison (gk : Nat) (f : Group → Group) : (modGroup s gk f).poison = s.poison := rfl
@[simp] theorem modGroup_sealed (gk : Nat) (f : Group → Group) : (modGroup s gk f).sealed = s.sealed := rfl
@[simp] theorem modGroup_sizeTags (gk : Nat) (f : Group → Group) : (modGroup s gk f).sizeTags = s.sizeTags := rfl
@[simp] theorem modGroup_regions (gk : Nat) (f : Group → Group) : (modGroup s gk f).regions = s.regions := rfl
@[simp] theorem modGroup_hostRanges (gk : Nat) (f : Group → Group) : (modGroup s gk f).hostRanges = s.hostRanges := rfl
@[simp] theorem modGroup_secureBlocks (gk : Nat) (f : Group → Group) : (modGroup s gk f).secureBlocks = s.secureBlocks := rfl
@[simp] theorem modGroup_dumpRegion (gk : Nat) (f : Group → Group) : (modGroup s gk f).dumpRegion = s.dumpRegion := rfl
@[simp] theorem modGroup_l2place (gk : Nat) (f : Group → Group) : (modGroup s gk f).l2place = s.l2place := rfl
@[simp] theorem modGroup_gaze (gk : Nat) (f : Group → Group) : (modGroup s gk f).gaze = s.gaze := rfl
@[simp] theorem modGroup_gazeOld (gk : Nat) (f : Group → Group) : (modGroup s gk f).gazeOld = s.gazeOld := rfl
@[simp] theorem modGroup_pcsel (gk : Nat) (f : Group → Group) : (modGroup s gk f).pcsel = s.pcsel := rfl
@[simp] theorem modGroup_pstate (gk : Nat) (f : Group → Group) : (modGroup s gk f).pstate = s.pstate := rfl
@[simp] theorem modGroup_cgate (gk : Nat) (f : Group → Group) : (modGroup s gk f).cgate = s.cgate := rfl
@[simp] theorem modGroup_cgated (gk : Nat) (f : Group → Group) : (modGroup s gk f).cgated = s.cgated := rfl
@[simp] theorem modGroup_pcap (gk : Nat) (f : Group → Group) : (modGroup s gk f).pcap = s.pcap := rfl
@[simp] theorem modGroup_pmeas (gk : Nat) (f : Group → Group) : (modGroup s gk f).pmeas = s.pmeas := rfl
@[simp] theorem modGroup_capNext (gk : Nat) (f : Group → Group) : (modGroup s gk f).capNext = s.capNext := rfl
@[simp] theorem modGroup_therm (gk : Nat) (f : Group → Group) : (modGroup s gk f).therm = s.therm := rfl
@[simp] theorem modGroup_devtime (gk : Nat) (f : Group → Group) : (modGroup s gk f).devtime = s.devtime := rfl
@[simp] theorem modGroup_ck (gk : Nat) (f : Group → Group) : (modGroup s gk f).ck = s.ck := rfl
@[simp] theorem modGroup_part24 (gk : Nat) (f : Group → Group) : (modGroup s gk f).part24 = s.part24 := rfl
@[simp] theorem modGroup_hostCap (gk : Nat) (f : Group → Group) : (modGroup s gk f).hostCap = s.hostCap := rfl
@[simp] theorem modGroup_hostCapRead (gk : Nat) (f : Group → Group) : (modGroup s gk f).hostCapRead = s.hostCapRead := rfl
@[simp] theorem modGroup_bootWindow (gk : Nat) (f : Group → Group) : (modGroup s gk f).bootWindow = s.bootWindow := rfl
@[simp] theorem modGroup_running (gk : Nat) (f : Group → Group) : (modGroup s gk f).running = s.running := rfl
@[simp] theorem modGroup_untrained (gk : Nat) (f : Group → Group) : (modGroup s gk f).untrained = s.untrained := rfl
@[simp] theorem modGroup_modulesDown (gk : Nat) (f : Group → Group) : (modGroup s gk f).modulesDown = s.modulesDown := rfl
@[simp] theorem modGroup_booted (gk : Nat) (f : Group → Group) : (modGroup s gk f).booted = s.booted := rfl
@[simp] theorem modGroup_fatal (gk : Nat) (f : Group → Group) : (modGroup s gk f).fatal = s.fatal := rfl
@[simp] theorem modGroup_dump (gk : Nat) (f : Group → Group) : (modGroup s gk f).dump = s.dump := rfl
@[simp] theorem modGroup_hostOut (gk : Nat) (f : Group → Group) : (modGroup s gk f).hostOut = s.hostOut := rfl
@[simp] theorem modGroup_streams (gk : Nat) (f : Group → Group) : (modGroup s gk f).streams = s.streams := rfl

/-! ## `modThread` -/

@[simp] theorem modThread_agenda (gk t : Nat) (f : Thread → Thread) : (modThread s gk t f).agenda = s.agenda := rfl
@[simp] theorem modThread_fresh (gk t : Nat) (f : Thread → Thread) : (modThread s gk t f).fresh = s.fresh := rfl
@[simp] theorem modThread_names (gk t : Nat) (f : Thread → Thread) : (modThread s gk t f).names = s.names := rfl
@[simp] theorem modThread_issues (gk t : Nat) (f : Thread → Thread) : (modThread s gk t f).issues = s.issues := rfl
@[simp] theorem modThread_ops (gk t : Nat) (f : Thread → Thread) : (modThread s gk t f).ops = s.ops := rfl
@[simp] theorem modThread_groups (gk t : Nat) (f : Thread → Thread) : (modThread s gk t f).groups = updFirst (fun g => g.gk == gk) (fun g => updThread g t f) s.groups := rfl
@[simp] theorem modThread_grids (gk t : Nat) (f : Thread → Thread) : (modThread s gk t f).grids = s.grids := rfl
@[simp] theorem modThread_waiters (gk t : Nat) (f : Thread → Thread) : (modThread s gk t f).waiters = s.waiters := rfl
@[simp] theorem modThread_cores (gk t : Nat) (f : Thread → Thread) : (modThread s gk t f).cores = s.cores := rfl
@[simp] theorem modThread_clusters (gk t : Nat) (f : Thread → Thread) : (modThread s gk t f).clusters = s.clusters := rfl
@[simp] theorem modThread_dies (gk t : Nat) (f : Thread → Thread) : (modThread s gk t f).dies = s.dies := rfl
@[simp] theorem modThread_partitions (gk t : Nat) (f : Thread → Thread) : (modThread s gk t f).partitions = s.partitions := rfl
@[simp] theorem modThread_outputs (gk t : Nat) (f : Thread → Thread) : (modThread s gk t f).outputs = s.outputs := rfl
@[simp] theorem modThread_mem (gk t : Nat) (f : Thread → Thread) : (modThread s gk t f).mem = s.mem := rfl
@[simp] theorem modThread_poison (gk t : Nat) (f : Thread → Thread) : (modThread s gk t f).poison = s.poison := rfl
@[simp] theorem modThread_sealed (gk t : Nat) (f : Thread → Thread) : (modThread s gk t f).sealed = s.sealed := rfl
@[simp] theorem modThread_sizeTags (gk t : Nat) (f : Thread → Thread) : (modThread s gk t f).sizeTags = s.sizeTags := rfl
@[simp] theorem modThread_regions (gk t : Nat) (f : Thread → Thread) : (modThread s gk t f).regions = s.regions := rfl
@[simp] theorem modThread_hostRanges (gk t : Nat) (f : Thread → Thread) : (modThread s gk t f).hostRanges = s.hostRanges := rfl
@[simp] theorem modThread_secureBlocks (gk t : Nat) (f : Thread → Thread) : (modThread s gk t f).secureBlocks = s.secureBlocks := rfl
@[simp] theorem modThread_dumpRegion (gk t : Nat) (f : Thread → Thread) : (modThread s gk t f).dumpRegion = s.dumpRegion := rfl
@[simp] theorem modThread_l2place (gk t : Nat) (f : Thread → Thread) : (modThread s gk t f).l2place = s.l2place := rfl
@[simp] theorem modThread_gaze (gk t : Nat) (f : Thread → Thread) : (modThread s gk t f).gaze = s.gaze := rfl
@[simp] theorem modThread_gazeOld (gk t : Nat) (f : Thread → Thread) : (modThread s gk t f).gazeOld = s.gazeOld := rfl
@[simp] theorem modThread_pcsel (gk t : Nat) (f : Thread → Thread) : (modThread s gk t f).pcsel = s.pcsel := rfl
@[simp] theorem modThread_pstate (gk t : Nat) (f : Thread → Thread) : (modThread s gk t f).pstate = s.pstate := rfl
@[simp] theorem modThread_cgate (gk t : Nat) (f : Thread → Thread) : (modThread s gk t f).cgate = s.cgate := rfl
@[simp] theorem modThread_cgated (gk t : Nat) (f : Thread → Thread) : (modThread s gk t f).cgated = s.cgated := rfl
@[simp] theorem modThread_pcap (gk t : Nat) (f : Thread → Thread) : (modThread s gk t f).pcap = s.pcap := rfl
@[simp] theorem modThread_pmeas (gk t : Nat) (f : Thread → Thread) : (modThread s gk t f).pmeas = s.pmeas := rfl
@[simp] theorem modThread_capNext (gk t : Nat) (f : Thread → Thread) : (modThread s gk t f).capNext = s.capNext := rfl
@[simp] theorem modThread_therm (gk t : Nat) (f : Thread → Thread) : (modThread s gk t f).therm = s.therm := rfl
@[simp] theorem modThread_devtime (gk t : Nat) (f : Thread → Thread) : (modThread s gk t f).devtime = s.devtime := rfl
@[simp] theorem modThread_ck (gk t : Nat) (f : Thread → Thread) : (modThread s gk t f).ck = s.ck := rfl
@[simp] theorem modThread_part24 (gk t : Nat) (f : Thread → Thread) : (modThread s gk t f).part24 = s.part24 := rfl
@[simp] theorem modThread_hostCap (gk t : Nat) (f : Thread → Thread) : (modThread s gk t f).hostCap = s.hostCap := rfl
@[simp] theorem modThread_hostCapRead (gk t : Nat) (f : Thread → Thread) : (modThread s gk t f).hostCapRead = s.hostCapRead := rfl
@[simp] theorem modThread_bootWindow (gk t : Nat) (f : Thread → Thread) : (modThread s gk t f).bootWindow = s.bootWindow := rfl
@[simp] theorem modThread_running (gk t : Nat) (f : Thread → Thread) : (modThread s gk t f).running = s.running := rfl
@[simp] theorem modThread_untrained (gk t : Nat) (f : Thread → Thread) : (modThread s gk t f).untrained = s.untrained := rfl
@[simp] theorem modThread_modulesDown (gk t : Nat) (f : Thread → Thread) : (modThread s gk t f).modulesDown = s.modulesDown := rfl
@[simp] theorem modThread_booted (gk t : Nat) (f : Thread → Thread) : (modThread s gk t f).booted = s.booted := rfl
@[simp] theorem modThread_fatal (gk t : Nat) (f : Thread → Thread) : (modThread s gk t f).fatal = s.fatal := rfl
@[simp] theorem modThread_dump (gk t : Nat) (f : Thread → Thread) : (modThread s gk t f).dump = s.dump := rfl
@[simp] theorem modThread_hostOut (gk t : Nat) (f : Thread → Thread) : (modThread s gk t f).hostOut = s.hostOut := rfl
@[simp] theorem modThread_streams (gk t : Nat) (f : Thread → Thread) : (modThread s gk t f).streams = s.streams := rfl

/-! ## `fresh` -/

@[simp] theorem fresh_agenda : ((fresh s).1).agenda = s.agenda := rfl
@[simp] theorem fresh_fresh : ((fresh s).1).fresh = s.fresh := rfl
@[simp] theorem fresh_names : ((fresh s).1).names = s.names + 1 := rfl
@[simp] theorem fresh_issues : ((fresh s).1).issues = s.issues := rfl
@[simp] theorem fresh_ops : ((fresh s).1).ops = s.ops := rfl
@[simp] theorem fresh_groups : ((fresh s).1).groups = s.groups := rfl
@[simp] theorem fresh_grids : ((fresh s).1).grids = s.grids := rfl
@[simp] theorem fresh_waiters : ((fresh s).1).waiters = s.waiters := rfl
@[simp] theorem fresh_cores : ((fresh s).1).cores = s.cores := rfl
@[simp] theorem fresh_clusters : ((fresh s).1).clusters = s.clusters := rfl
@[simp] theorem fresh_dies : ((fresh s).1).dies = s.dies := rfl
@[simp] theorem fresh_partitions : ((fresh s).1).partitions = s.partitions := rfl
@[simp] theorem fresh_outputs : ((fresh s).1).outputs = s.outputs := rfl
@[simp] theorem fresh_mem : ((fresh s).1).mem = s.mem := rfl
@[simp] theorem fresh_poison : ((fresh s).1).poison = s.poison := rfl
@[simp] theorem fresh_sealed : ((fresh s).1).sealed = s.sealed := rfl
@[simp] theorem fresh_sizeTags : ((fresh s).1).sizeTags = s.sizeTags := rfl
@[simp] theorem fresh_regions : ((fresh s).1).regions = s.regions := rfl
@[simp] theorem fresh_hostRanges : ((fresh s).1).hostRanges = s.hostRanges := rfl
@[simp] theorem fresh_secureBlocks : ((fresh s).1).secureBlocks = s.secureBlocks := rfl
@[simp] theorem fresh_dumpRegion : ((fresh s).1).dumpRegion = s.dumpRegion := rfl
@[simp] theorem fresh_l2place : ((fresh s).1).l2place = s.l2place := rfl
@[simp] theorem fresh_gaze : ((fresh s).1).gaze = s.gaze := rfl
@[simp] theorem fresh_gazeOld : ((fresh s).1).gazeOld = s.gazeOld := rfl
@[simp] theorem fresh_pcsel : ((fresh s).1).pcsel = s.pcsel := rfl
@[simp] theorem fresh_pstate : ((fresh s).1).pstate = s.pstate := rfl
@[simp] theorem fresh_cgate : ((fresh s).1).cgate = s.cgate := rfl
@[simp] theorem fresh_cgated : ((fresh s).1).cgated = s.cgated := rfl
@[simp] theorem fresh_pcap : ((fresh s).1).pcap = s.pcap := rfl
@[simp] theorem fresh_pmeas : ((fresh s).1).pmeas = s.pmeas := rfl
@[simp] theorem fresh_capNext : ((fresh s).1).capNext = s.capNext := rfl
@[simp] theorem fresh_therm : ((fresh s).1).therm = s.therm := rfl
@[simp] theorem fresh_devtime : ((fresh s).1).devtime = s.devtime := rfl
@[simp] theorem fresh_ck : ((fresh s).1).ck = s.ck := rfl
@[simp] theorem fresh_part24 : ((fresh s).1).part24 = s.part24 := rfl
@[simp] theorem fresh_hostCap : ((fresh s).1).hostCap = s.hostCap := rfl
@[simp] theorem fresh_hostCapRead : ((fresh s).1).hostCapRead = s.hostCapRead := rfl
@[simp] theorem fresh_bootWindow : ((fresh s).1).bootWindow = s.bootWindow := rfl
@[simp] theorem fresh_running : ((fresh s).1).running = s.running := rfl
@[simp] theorem fresh_untrained : ((fresh s).1).untrained = s.untrained := rfl
@[simp] theorem fresh_modulesDown : ((fresh s).1).modulesDown = s.modulesDown := rfl
@[simp] theorem fresh_booted : ((fresh s).1).booted = s.booted := rfl
@[simp] theorem fresh_fatal : ((fresh s).1).fatal = s.fatal := rfl
@[simp] theorem fresh_dump : ((fresh s).1).dump = s.dump := rfl
@[simp] theorem fresh_hostOut : ((fresh s).1).hostOut = s.hostOut := rfl
@[simp] theorem fresh_streams : ((fresh s).1).streams = s.streams := rfl

end Sys2Proof.Machine
end

