-- ==== Sys2Proof/Laws/Groups.lean ====
section
/-! SUPPORT. Laws of lookup and update: an update of one unit, group, thread or grid shows when that one is looked up, and no other
lookup changes. -/
namespace Sys2Proof.Machine

/-! ## Updating the first element that satisfies a test -/

section
variable {α : Type} {p q : α → Bool} {f : α → α}

theorem find_updFirst_same (hf : ∀ x, p x = true → p (f x) = true) (l : List α) : (updFirst p f l).find? p = (l.find? p).map f := by
  induction l with
  | nil => rfl
  | cons x r ih =>
    by_cases h : p x = true
    · simp [updFirst, h, hf x h]
    · simp [updFirst, h, ih]

theorem find_updFirst_other (hq : ∀ x, p x = true → q x = false ∧ q (f x) = false) (l : List α) :
    (updFirst p f l).find? q = l.find? q := by
  induction l with
  | nil => rfl
  | cons x r ih =>
    by_cases h : p x = true
    · simp [updFirst, h, hq x h]
    · simp only [updFirst, h, Bool.false_eq_true, if_false, List.find?_cons, ih]

@[simp] theorem length_updFirst (l : List α) : (updFirst p f l).length = l.length := by
  induction l with
  | nil => rfl
  | cons x r ih => unfold updFirst; split <;> simp [ih]

theorem map_updFirst {β : Type} {k : α → β} (hf : ∀ x, k (f x) = k x) (l : List α) : (updFirst p f l).map k = l.map k := by
  induction l with
  | nil => rfl
  | cons x r ih => unfold updFirst; split <;> simp [hf, ih]

theorem mem_updFirst {x : α} {l : List α} (h : x ∈ updFirst p f l) : x ∈ l ∨ ∃ y ∈ l, p y = true ∧ x = f y := by
  induction l with
  | nil => exact .inl h
  | cons y r ih =>
    unfold updFirst at h
    split at h
    · next hy =>
      rcases List.mem_cons.mp h with rfl | h
      · exact .inr ⟨y, by simp, hy, rfl⟩
      · exact .inl (by simp [h])
    · rcases List.mem_cons.mp h with rfl | h
      · exact .inl (by simp)
      · rcases ih h with h | ⟨z, hz, hp, he⟩
        · exact .inl (by simp [h])
        · exact .inr ⟨z, by simp [hz], hp, he⟩
end

/-! ## Units by number -/

@[simp] theorem coreOf_modCore (s : State) (c : Nat) (f : Core → Core) : coreOf (modCore s c f) c = f (coreOf s c) := by
  simp [coreOf]
@[simp] theorem partOf_modPart (s : State) (p : Nat) (f : Partition → Partition) : partOf (modPart s p f) p = f (partOf s p) := by
  simp [partOf]
@[simp] theorem dieOf_modDie (s : State) (d : Nat) (f : Die → Die) : dieOf (modDie s d f) d = f (dieOf s d) := by simp [dieOf]
@[simp] theorem clusterOf_modCluster (s : State) (c : Nat) (f : Cluster → Cluster) :
    clusterOf (modCluster s c f) c = f (clusterOf s c) := by simp [clusterOf]
@[simp] theorem outOf_modOut (s : State) (o : Nat) (f : Output → Output) : outOf (modOut s o f) o = f (outOf s o) := by simp [outOf]

theorem coreOf_modCore_other (s : State) {c d : Nat} (f : Core → Core) (h : d ≠ c) : coreOf (modCore s c f) d = coreOf s d := by
  simp [coreOf, tget_tset_other _ _ _ h]
theorem partOf_modPart_other (s : State) {p q : Nat} (f : Partition → Partition) (h : q ≠ p) :
    partOf (modPart s p f) q = partOf s q := by
  simp [partOf, tget_tset_other _ _ _ h]
theorem outOf_modOut_other (s : State) {o q : Nat} (f : Output → Output) (h : q ≠ o) : outOf (modOut s o f) q = outOf s q := by
  simp [outOf, tget_tset_other _ _ _ h]

/-! ## Groups, threads, grids -/

theorem groupOf_gk {s : State} {gk : Nat} {g : Group} (h : groupOf s gk = some g) : g.gk = gk := by
  have := List.find?_some h
  simpa using this

theorem threadOf_idx {g : Group} {k : Nat} {t : Thread} (h : threadOf g k = some t) : t.idx = k := by
  have := List.find?_some h
  simpa using this

/-- The groups are all a lookup reads. -/
theorem groupOf_congr {s s' : State} (h : s'.groups = s.groups) (gk : Nat) : groupOf s' gk = groupOf s gk := by
  rw [groupOf, groupOf, h]

theorem groupOf_modGroup {s : State} {gk : Nat} {f : Group → Group} (hf : ∀ g, (f g).gk = g.gk) :
    groupOf (modGroup s gk f) gk = (groupOf s gk).map f :=
  find_updFirst_same (fun x hx => by simpa [hf x] using hx) s.groups

theorem groupOf_modGroup_other {s : State} {gk k : Nat} {f : Group → Group} (hf : ∀ g, (f g).gk = g.gk) (h : k ≠ gk) :
    groupOf (modGroup s gk f) k = groupOf s k := by
  refine find_updFirst_other (fun x hx => ?_) s.groups
  have hx : x.gk = gk := by simpa using hx
  simp [hf x, hx, Ne.symm h]

@[simp] theorem updThread_gk (g : Group) (t : Nat) (f : Thread → Thread) : (updThread g t f).gk = g.gk := rfl

theorem threadOf_updThread {g : Group} {k : Nat} {f : Thread → Thread} (hf : ∀ t, t.idx = k → (f t).idx = k) :
    threadOf (updThread g k f) k = (threadOf g k).map f :=
  find_updFirst_same (fun x hx => by
    have : x.idx = k := by simpa using hx
    simpa using hf x this) g.threads

theorem threadOf_updThread_other {g : Group} {k j : Nat} {f : Thread → Thread} (hf : ∀ t, t.idx = k → (f t).idx = k) (h : j ≠ k) :
    threadOf (updThread g k f) j = threadOf g j := by
  refine find_updFirst_other (fun x hx => ?_) g.threads
  have hx : x.idx = k := by simpa using hx
  simp [hf x hx, hx, Ne.symm h]

theorem threadAt_idx {s : State} {m : Nat × Nat} {t : Thread} (h : threadAt s m = some t) : t.idx = m.2 := by
  obtain ⟨g, _, ht⟩ := Option.bind_eq_some_iff.mp h
  exact threadOf_idx ht

theorem threadAt_congr {s s' : State} (h : s'.groups = s.groups) (m : Nat × Nat) : threadAt s' m = threadAt s m := by
  rw [threadAt, threadAt, groupOf_congr h]

theorem groupOf_modThread (s : State) (gk k : Nat) (f : Thread → Thread) :
    groupOf (modThread s gk k f) gk = (groupOf s gk).map fun g => updThread g k f :=
  groupOf_modGroup fun _ => rfl

theorem groupOf_modThread_other (s : State) {gk k j : Nat} (f : Thread → Thread) (h : j ≠ gk) :
    groupOf (modThread s gk k f) j = groupOf s j :=
  groupOf_modGroup_other (fun _ => rfl) h

/-- A thread updated. -/
theorem threadAt_modThread {s : State} {m : Nat × Nat} {f : Thread → Thread} (hf : ∀ t, t.idx = m.2 → (f t).idx = m.2) :
    threadAt (modThread s m.1 m.2 f) m = (threadAt s m).map f := by
  rw [threadAt, groupOf_modThread, threadAt]
  cases groupOf s m.1 with
  | none => rfl
  | some g => simp [threadOf_updThread hf]

/-- Another thread is as before. -/
theorem threadAt_modThread_other {s : State} {m n : Nat × Nat} {f : Thread → Thread} (hf : ∀ t, t.idx = m.2 → (f t).idx = m.2)
    (h : n ≠ m) : threadAt (modThread s m.1 m.2 f) n = threadAt s n := by
  by_cases hg : n.1 = m.1
  · have ht : n.2 ≠ m.2 := fun e => h (Prod.ext hg e)
    rw [threadAt, threadAt, hg, groupOf_modThread]
    cases groupOf s m.1 with
    | none => rfl
    | some g => simp [threadOf_updThread_other hf ht]
  · rw [threadAt, threadAt, groupOf_modThread_other _ _ hg]

end Sys2Proof.Machine
end

