-- ==== Sys2Proof/Laws/Canon.lean ====
section
/-! SUPPORT. Every function of the model that makes a new state keeps every memory canonical: one lemma for each, found by `grind` from the
function's name (log entry 2). -/
namespace Sys2Proof.Laws
open Sys2Proof.Machine
set_option Elab.async false
set_option linter.unusedVariables false

/-! ## The form, tables and folds -/

/-- The three memories of a core are canonical. -/
def coreCanon (c : Core) : Prop := memWf c.scratch = true ∧ memWf c.tiles = true ∧ memWf c.acc = true
/-- Every memory of the device is canonical, from its physical memory and its cores. -/
def canon (m : Mem) (cs : Table Core) : Prop := memWf m = true ∧ ∀ c ∈ cs, coreCanon c.2
/-- The Bool of Safety is the form. -/
theorem memoriesWf_iff (s : State) : memoriesWf s = true ↔ canon s.mem s.cores := by
  simp [memoriesWf, canon, coreCanon, and_assoc]
theorem coreCanon_default : coreCanon {} := ⟨rfl, rfl, rfl⟩
/-- What a table holds after an entry is set. -/
theorem mem_tset {α : Type} {t : Table α} {k : Nat} {v : α} {x : Nat × α} (h : x ∈ tset t k v) : x ∈ t ∨ x = (k, v) := by
  induction t with
  | nil => simp [tset] at h; exact .inr h
  | cons e t ih => grind [tset]
/-- What holds of every entry and of the value for a missing one holds of what a table gives. -/
theorem tget_mem {α : Type} {t : Table α} {d : α} (k : Nat) (P : α → Prop) (h : ∀ c ∈ t, P c.2) (hd : P d) : P (tget t d k) := by
  induction t with
  | nil => exact hd
  | cons e t ih => grind [tget]
theorem canon_coreOf {s : State} (h : canon s.mem s.cores) (c : Nat) : coreCanon (coreOf s c) := tget_mem c coreCanon h.2 coreCanon_default
theorem coreCanon_iff (c : Core) : coreCanon c ↔ memWf c.scratch = true ∧ memWf c.tiles = true ∧ memWf c.acc = true := .rfl
theorem modCore_canon {s : State} {c : Nat} {f : Core → Core} (hf : coreCanon (f (coreOf s c))) (h : canon s.mem s.cores) :
   canon (modCore s c f).mem (modCore s c f).cores := by
  refine ⟨h.1, fun x hx => ?_⟩
  rcases mem_tset hx with h1 | rfl
  · exact h.2 _ h1
  · exact hf
theorem memWrite_canon {m : Mem} {cs : Table Core} (h : canon m cs) (a : Nat) (bs : List Byte) : canon (memWrite m a bs) cs := ⟨memWrite_wf h.1 a bs, h.2⟩
theorem memFilter_canon {m : Mem} {cs : Table Core} (h : canon m cs) (p : Host.Cell → Bool) : canon (m.filter p) cs := ⟨memFilter_wf h.1 p, h.2⟩
/-- A fold of state updates keeps the form when each does. -/
theorem foldl_canon {α : Type} {f : State → α → State} {s : State} {l : List α} (hf : ∀ s x, canon s.mem s.cores → canon (f s x).mem (f s x).cores)
    (h : canon s.mem s.cores) : canon (l.foldl f s).mem (l.foldl f s).cores := by
  induction l generalizing s with
  | nil => exact h
  | cons x l ih => exact ih (hf _ _ h)
theorem foldl_canon1 {α β : Type} {f : State × β → α → State × β} {s : State × β} {l : List α}
    (hf : ∀ (s : State × β) x, canon s.1.mem s.1.cores → canon (f s x).1.mem (f s x).1.cores)
    (h : canon s.1.mem s.1.cores) : canon (l.foldl f s).1.mem (l.foldl f s).1.cores := by
  induction l generalizing s with
  | nil => exact h
  | cons x l ih => exact ih (hf _ _ h)
theorem foldl_canon_trace {α : Type} {f : Trace → α → Trace} {s : Trace} {l : List α} (hf : ∀ s x, canon s.s.mem s.s.cores → canon (f s x).s.mem (f s x).s.cores)
    (h : canon s.s.mem s.s.cores) : canon (l.foldl f s).s.mem (l.foldl f s).s.cores := by
  induction l generalizing s with
  | nil => exact h
  | cons x l ih => exact ih (hf _ _ h)
theorem foldl_canon_trace1 {α β : Type} {f : Trace × β → α → Trace × β} {s : Trace × β} {l : List α}
    (hf : ∀ (s : Trace × β) x, canon s.1.s.mem s.1.s.cores → canon (f s x).1.s.mem (f s x).1.s.cores)
    (h : canon s.1.s.mem s.1.s.cores) : canon (l.foldl f s).1.s.mem (l.foldl f s).1.s.cores := by
  induction l generalizing s with
  | nil => exact h
  | cons x l ih => exact ih (hf _ _ h)
theorem foldl_canon_run {α : Type} {f : RayRun → α → RayRun} {s : RayRun} {l : List α} (hf : ∀ s x, canon s.s.mem s.s.cores → canon (f s x).s.mem (f s x).s.cores)
    (h : canon s.s.mem s.s.cores) : canon (l.foldl f s).s.mem (l.foldl f s).s.cores := by
  induction l generalizing s with
  | nil => exact h
  | cons x l ih => exact ih (hf _ _ h)
/-- The state that a group-scope instruction leaves. -/
def outState : GroupOut → State
  | .fault s _ => s
  | .done s => s
  | .left s => s
  | .stall s => s
theorem outState_fault (s : State) (f : FaultInfo) : outState (.fault s f) = s := rfl
theorem outState_done (s : State) : outState (.done s) = s := rfl
theorem outState_left (s : State) : outState (.left s) = s := rfl
theorem outState_stall (s : State) : outState (.stall s) = s := rfl
grind_pattern outState_fault => GroupOut.fault s f
grind_pattern outState_done => GroupOut.done s
grind_pattern outState_left => GroupOut.left s
grind_pattern outState_stall => GroupOut.stall s
grind_pattern foldl_canon_trace => l.foldl f s
grind_pattern foldl_canon_trace1 => l.foldl f s
grind_pattern foldl_canon_run => l.foldl f s
grind_pattern memWrite_canon => canon (memWrite m a bs) cs
grind_pattern memFilter_canon => canon (m.filter p) cs
grind_pattern foldl_canon => l.foldl f s
grind_pattern foldl_canon1 => l.foldl f s
grind_pattern coreCanon_iff => coreCanon c
grind_pattern canon_coreOf => coreOf s c
grind_pattern memWrite_wf => memWrite m a bs
grind_pattern memFilter_wf => m.filter p
grind_pattern memClear_wf => memClear m a n
grind_pattern modCore_canon => modCore s c f
grind_pattern coreCanon_default => coreCanon {}

/-! ## Mem -/

theorem modCluster_canon (s : State) (g : Nat) (f : Cluster → Cluster) (hc : canon s.mem s.cores) : canon
    (Machine.modCluster s g f).mem (Machine.modCluster s g f).cores := by grind [Machine.modCluster]
grind_pattern modCluster_canon => Machine.modCluster s g f
theorem modDie_canon (s : State) (d : Nat) (f : Die → Die) (hc : canon s.mem s.cores) : canon (Machine.modDie s d f).mem
    (Machine.modDie s d f).cores := by grind [Machine.modDie]
grind_pattern modDie_canon => Machine.modDie s d f
theorem modPart_canon (s : State) (p : Nat) (f : Partition → Partition) (hc : canon s.mem s.cores) : canon (Machine.modPart s p f).mem
    (Machine.modPart s p f).cores := by grind [Machine.modPart]
grind_pattern modPart_canon => Machine.modPart s p f
theorem modOut_canon (s : State) (o : Nat) (f : Output → Output) (hc : canon s.mem s.cores) : canon (Machine.modOut s o f).mem
    (Machine.modOut s o f).cores := by grind [Machine.modOut]
grind_pattern modOut_canon => Machine.modOut s o f
theorem useFresh_canon (s : State) (n : Nat) (hc : canon s.mem s.cores) : canon (Machine.useFresh s n).mem (Machine.useFresh s n).cores := by grind [Machine.useFresh]
grind_pattern useFresh_canon => Machine.useFresh s n
theorem logHostWrite_canon (s : State) (part : Nat) (pa : Nat) (hc : canon s.mem s.cores) : canon (Machine.logHostWrite s part pa).mem
    (Machine.logHostWrite s part pa).cores := by grind [Machine.logHostWrite]
grind_pattern logHostWrite_canon => Machine.logHostWrite s part pa
theorem storeSector_canon (s : State) (part : Nat) (sec : Nat) (bs : List Byte) (hc : canon s.mem s.cores) : canon
    (Machine.storeSector s part sec bs).mem (Machine.storeSector s part sec bs).cores := by grind [Machine.storeSector]
grind_pattern storeSector_canon => Machine.storeSector s part sec bs
theorem storeSectors_canon (s : State) (part : Nat) (sec : Nat) (a3 : Nat) (a4 : List Byte) (hc : canon s.mem s.cores) : canon
    (Machine.storeSectors s part sec a3 a4).mem (Machine.storeSectors s part sec a3 a4).cores := by
  fun_induction Machine.storeSectors <;> grind
grind_pattern storeSectors_canon => Machine.storeSectors s part sec a3 a4
theorem markPoison_canon (s : State) (sec : Nat) (bad : Bool) (hc : canon s.mem s.cores) : canon (Machine.markPoison s sec bad).mem
    (Machine.markPoison s sec bad).cores := by grind [Machine.markPoison]
grind_pattern markPoison_canon => Machine.markPoison s sec bad
theorem countError_canon (s : State) (die : Nat) (k : Nat) (hc : canon s.mem s.cores) : canon (Machine.countError s die k).mem
    (Machine.countError s die k).cores := by grind [Machine.countError]
grind_pattern countError_canon => Machine.countError s die k
theorem poisonLine_canon (s : State) (line : Nat) (hc : canon s.mem s.cores) : canon (Machine.poisonLine s line).mem
    (Machine.poisonLine s line).cores := by grind [Machine.poisonLine]
grind_pattern poisonLine_canon => Machine.poisonLine s line
theorem checkLine_canon (s : State) (part : Nat) (line : Nat) (hc : canon s.mem s.cores) : canon (Machine.checkLine s part line).mem
    (Machine.checkLine s part line).cores := by grind [Machine.checkLine]
grind_pattern checkLine_canon => Machine.checkLine s part line
theorem sectorBytes_canon (s : State) (part : Nat) (sec : Nat) (hc : canon s.mem s.cores) : canon
    (Machine.sectorBytes s part sec).1.mem (Machine.sectorBytes s part sec).1.cores := by grind [Machine.sectorBytes]
grind_pattern sectorBytes_canon => Machine.sectorBytes s part sec
theorem expandLine_canon (s : State) (part : Nat) (line : Nat) (hc : canon s.mem s.cores) : canon (Machine.expandLine s part line).mem
    (Machine.expandLine s part line).cores := by grind [Machine.expandLine]
grind_pattern expandLine_canon => Machine.expandLine s part line
theorem putSector_canon (s : State) (part : Nat) (sec : Nat) (bs : List Byte) (bad : Bool) (hc : canon s.mem s.cores) : canon
    (Machine.putSector s part sec bs bad).mem (Machine.putSector s part sec bs bad).cores := by grind [Machine.putSector]
grind_pattern putSector_canon => Machine.putSector s part sec bs bad
theorem packLine_canon (s : State) (part : Nat) (line : Nat) (hc : canon s.mem s.cores) : canon (Machine.packLine s part line).mem
    (Machine.packLine s part line).cores := by
  simp only [Machine.packLine]
  (repeat' split) <;> grind
grind_pattern packLine_canon => Machine.packLine s part line
theorem directWrite_canon (s : State) (part : Nat) (pa : Nat) (bs : List Byte) (hc : canon s.mem s.cores) : canon
    (Machine.directWrite s part pa bs).mem (Machine.directWrite s part pa bs).cores := by grind [Machine.directWrite]
grind_pattern directWrite_canon => Machine.directWrite s part pa bs
theorem directRead_canon (s : State) (part : Nat) (pa : Nat) (n : Nat) (hc : canon s.mem s.cores) : canon
    (Machine.directRead s part pa n).1.mem (Machine.directRead s part pa n).1.cores := by grind [Machine.directRead]
grind_pattern directRead_canon => Machine.directRead s part pa n
theorem deviceStore_canon (s : State) (part : Nat) (pa : Nat) (bs : List Byte) (hc : canon s.mem s.cores) : canon
    (Machine.deviceStore s part pa bs).mem (Machine.deviceStore s part pa bs).cores := by grind [Machine.deviceStore]
grind_pattern deviceStore_canon => Machine.deviceStore s part pa bs
theorem deviceLoad_canon (s : State) (part : Nat) (pa : Nat) (n : Nat) (hc : canon s.mem s.cores) : canon
    (Machine.deviceLoad s part pa n).1.mem (Machine.deviceLoad s part pa n).1.cores := by grind [Machine.deviceLoad]
grind_pattern deviceLoad_canon => Machine.deviceLoad s part pa n
theorem l2Put_canon (s : State) (die : Nat) (l : L2Line) (hc : canon s.mem s.cores) : canon (Machine.l2Put s die l).mem
    (Machine.l2Put s die l).cores := by grind [Machine.l2Put]
grind_pattern l2Put_canon => Machine.l2Put s die l
theorem flushSector_canon (s : State) (l : L2Line) (e : Nat × L2Sector) (hc : canon s.mem s.cores) : canon
    (Machine.flushSector s l e).mem (Machine.flushSector s l e).cores := by grind [Machine.flushSector]
grind_pattern flushSector_canon => Machine.flushSector s l e
theorem l2WriteBack_canon (s : State) (die : Nat) (line : Nat) (hc : canon s.mem s.cores) : canon (Machine.l2WriteBack s die line).mem
    (Machine.l2WriteBack s die line).cores := by grind [Machine.l2WriteBack]
grind_pattern l2WriteBack_canon => Machine.l2WriteBack s die line
theorem l2Evict_canon (s : State) (die : Nat) (line : Nat) (hc : canon s.mem s.cores) : canon (Machine.l2Evict s die line).mem
    (Machine.l2Evict s die line).cores := by grind [Machine.l2Evict]
grind_pattern l2Evict_canon => Machine.l2Evict s die line
theorem freeWay_canon (s : State) (u : WayUse) (slice : Nat) (hc : canon s.mem s.cores) : canon (Machine.freeWay s u slice).mem
    (Machine.freeWay s u slice).cores := by grind [Machine.freeWay]
grind_pattern freeWay_canon => Machine.freeWay s u slice
theorem takeWay_canon (s : State) (part : Nat) (slice : Nat) (line : Nat) (hc : canon s.mem s.cores) : canon
    (Machine.takeWay s part slice line).1.mem (Machine.takeWay s part slice line).1.cores := by grind [Machine.takeWay]
grind_pattern takeWay_canon => Machine.takeWay s part slice line
theorem l2Own_canon (s : State) (die : Nat) (part : Nat) (line : Nat) (hc : canon s.mem s.cores) : canon
    (Machine.l2Own s die part line).mem (Machine.l2Own s die part line).cores := by grind [Machine.l2Own]
grind_pattern l2Own_canon => Machine.l2Own s die part line
theorem l2Line_canon (s : State) (die : Nat) (part : Nat) (line : Nat) (compr : Bool) (hc : canon s.mem s.cores) : canon
    (Machine.l2Line s die part line compr).1.mem (Machine.l2Line s die part line compr).1.cores := by grind [Machine.l2Line]
grind_pattern l2Line_canon => Machine.l2Line s die part line compr
theorem l2Keep_canon (s : State) (die : Nat) (part : Nat) (line : Nat) (k : Nat) (compr : Bool) (x : L2Sector)
    (hc : canon s.mem s.cores) : canon (Machine.l2Keep s die part line k compr x).mem (Machine.l2Keep s die part line k compr x).cores := by grind [Machine.l2Keep]
grind_pattern l2Keep_canon => Machine.l2Keep s die part line k compr x
theorem l2Fill_canon (s : State) (die : Nat) (part : Nat) (line : Nat) (k : Nat) (x : L2Sector) (hc : canon s.mem s.cores) : canon
    (Machine.l2Fill s die part line k x).mem (Machine.l2Fill s die part line k x).cores := by grind [Machine.l2Fill]
grind_pattern l2Fill_canon => Machine.l2Fill s die part line k x
theorem l2Fetch_canon (s : State) (die : Nat) (part : Nat) (pa : Nat) (hc : canon s.mem s.cores) : canon
    (Machine.l2Fetch s die part pa).1.mem (Machine.l2Fetch s die part pa).1.cores := by grind [Machine.l2Fetch]
grind_pattern l2Fetch_canon => Machine.l2Fetch s die part pa
theorem l2Store_canon (s : State) (die : Nat) (part : Nat) (pa : Nat) (compr : Bool) (bytes : Table Byte) (hc : canon s.mem s.cores) :
    canon (Machine.l2Store s die part pa compr bytes).mem (Machine.l2Store s die part pa compr bytes).cores := by grind [Machine.l2Store]
grind_pattern l2Store_canon => Machine.l2Store s die part pa compr bytes
theorem l2Merge_canon (s : State) (die : Nat) (part : Nat) (line : Nat) (compr : Bool) (bytes : Table Byte) (hc : canon s.mem s.cores)
    : canon (Machine.l2Merge s die part line compr bytes).mem (Machine.l2Merge s die part line compr bytes).cores := by grind [Machine.l2Merge]
grind_pattern l2Merge_canon => Machine.l2Merge s die part line compr bytes
theorem l2Single_canon (s : State) (die : Nat) (line : Nat) (hc : canon s.mem s.cores) : canon (Machine.l2Single s die line).mem
    (Machine.l2Single s die line).cores := by grind [Machine.l2Single]
grind_pattern l2Single_canon => Machine.l2Single s die line
theorem l2Touch_canon (s : State) (die : Nat) (c : Ctx) (pa : Nat) (replicate : Option Nat) (hc : canon s.mem s.cores) : canon
    (Machine.l2Touch s die c pa replicate).mem (Machine.l2Touch s die c pa replicate).cores := by grind [Machine.l2Touch]
grind_pattern l2Touch_canon => Machine.l2Touch s die c pa replicate
theorem putGrant_canon (s : State) (core : Nat) (asid : Nat) (line : Nat) (pa : Nat) (hc : canon s.mem s.cores) : canon
    (Machine.putGrant s core asid line pa).mem (Machine.putGrant s core asid line pa).cores := by grind [Machine.putGrant]
grind_pattern putGrant_canon => Machine.putGrant s core asid line pa
theorem mergeDirty_canon (s : State) (core : Nat) (l : L1Line) (hc : canon s.mem s.cores) : canon (Machine.mergeDirty s core l).mem
    (Machine.mergeDirty s core l).cores := by grind [Machine.mergeDirty]
grind_pattern mergeDirty_canon => Machine.mergeDirty s core l
theorem giveUpLine_canon (s : State) (core : Nat) (l : L1Line) (hc : canon s.mem s.cores) : canon (Machine.giveUpLine s core l).mem
    (Machine.giveUpLine s core l).cores := by grind [Machine.giveUpLine]
grind_pattern giveUpLine_canon => Machine.giveUpLine s core l
theorem recallLine_canon (s : State) (line : Nat) (hc : canon s.mem s.cores) : canon (Machine.recallLine s line).mem
    (Machine.recallLine s line).cores := by grind [Machine.recallLine]
grind_pattern recallLine_canon => Machine.recallLine s line
theorem l2Read_canon (s : State) (die : Nat) (part : Nat) (pa : Nat) (n : Nat) (hc : canon s.mem s.cores) : canon
    (Machine.l2Read s die part pa n).1.mem (Machine.l2Read s die part pa n).1.cores := by grind [Machine.l2Read]
grind_pattern l2Read_canon => Machine.l2Read s die part pa n
theorem l2Write_canon (s : State) (die : Nat) (part : Nat) (pa : Nat) (compr : Bool) (bs : List Byte) (hc : canon s.mem s.cores) :
    canon (Machine.l2Write s die part pa compr bs).mem (Machine.l2Write s die part pa compr bs).cores := by grind [Machine.l2Write]
grind_pattern l2Write_canon => Machine.l2Write s die part pa compr bs
theorem l2Poison_canon (s : State) (die : Nat) (part : Nat) (pa : Nat) (hc : canon s.mem s.cores) : canon
    (Machine.l2Poison s die part pa).mem (Machine.l2Poison s die part pa).cores := by grind [Machine.l2Poison]
grind_pattern l2Poison_canon => Machine.l2Poison s die part pa
theorem keptFault_canon {α : Type} (s : State) (cls : Nat) (va : Nat) (acc : Acc) (hc : canon s.mem s.cores) : canon
    (@Machine.keptFault α s cls va acc).1.mem (@Machine.keptFault α s cls va acc).1.cores := by grind [Machine.keptFault]
grind_pattern keptFault_canon => @Machine.keptFault α s cls va acc
theorem readPte_canon (s : State) (d : Nat) (part : Nat) (pa : Nat) (hc : canon s.mem s.cores) : canon
    (Machine.readPte s d part pa).1.mem (Machine.readPte s d part pa).1.cores := by grind [Machine.readPte]
grind_pattern readPte_canon => Machine.readPte s d part pa
theorem setAcc_canon (s : State) (d : Nat) (part : Nat) (pa : Nat) (pte : Nat) (hc : canon s.mem s.cores) : canon
    (Machine.setAcc s d part pa pte).mem (Machine.setAcc s d part pa pte).cores := by grind [Machine.setAcc]
grind_pattern setAcc_canon => Machine.setAcc s d part pa pte
theorem mergeable_canon (s : State) (d : Nat) (part : Nat) (tablePa : Nat) (idx : Nat) (hc : canon s.mem s.cores) : canon
    (Machine.mergeable s d part tablePa idx).1.mem (Machine.mergeable s d part tablePa idx).1.cores := by grind [Machine.mergeable]
grind_pattern mergeable_canon => Machine.mergeable s d part tablePa idx
theorem walkLevels_canon (c : Ctx) (acc : Acc) (asid : Nat) (va : Nat) (a4 : List Nat) (a5 : State) (a6 : Nat) (a7 : List TlbEntry)
    (hc : canon a5.mem a5.cores) : canon (Machine.walkLevels c acc asid va a4 a5 a6 a7).1.mem
    (Machine.walkLevels c acc asid va a4 a5 a6 a7).1.cores := by
  fun_induction Machine.walkLevels <;> grind
grind_pattern walkLevels_canon => Machine.walkLevels c acc asid va a4 a5 a6 a7
theorem translate_canon (s : State) (c : Ctx) (acc : Acc) (va : Nat) (hc : canon s.mem s.cores) : canon
    (Machine.translate s c acc va).1.mem (Machine.translate s c acc va).1.cores := by grind [Machine.translate]
grind_pattern translate_canon => Machine.translate s c acc va
theorem countEvent_canon (s : State) (core : Nat) (ev : Nat) (n : Nat) (hc : canon s.mem s.cores) : canon
    (Machine.countEvent s core ev n).mem (Machine.countEvent s core ev n).cores := by grind [Machine.countEvent]
grind_pattern countEvent_canon => Machine.countEvent s core ev n
theorem l1Put_canon (s : State) (core : Nat) (l : L1Line) (hc : canon s.mem s.cores) : canon (Machine.l1Put s core l).mem
    (Machine.l1Put s core l).cores := by grind [Machine.l1Put]
grind_pattern l1Put_canon => Machine.l1Put s core l
theorem l1WriteBack_canon (s : State) (core : Nat) (asid : Nat) (line : Nat) (hc : canon s.mem s.cores) : canon
    (Machine.l1WriteBack s core asid line).mem (Machine.l1WriteBack s core asid line).cores := by grind [Machine.l1WriteBack]
grind_pattern l1WriteBack_canon => Machine.l1WriteBack s core asid line
theorem l1Evict_canon (s : State) (core : Nat) (asid : Nat) (line : Nat) (hc : canon s.mem s.cores) : canon
    (Machine.l1Evict s core asid line).mem (Machine.l1Evict s core asid line).cores := by grind [Machine.l1Evict]
grind_pattern l1Evict_canon => Machine.l1Evict s core asid line
theorem l1Room_canon (s : State) (core : Nat) (line : Nat) (hc : canon s.mem s.cores) : canon (Machine.l1Room s core line).mem
    (Machine.l1Room s core line).cores := by grind [Machine.l1Room]
grind_pattern l1Room_canon => Machine.l1Room s core line
theorem l1Alloc_canon (s : State) (core : Nat) (asid : Nat) (part : Nat) (va : Nat) (pa : Nat) (attr : PageAttr) (next : Bool)
    (hc : canon s.mem s.cores) : canon (Machine.l1Alloc s core asid part va pa attr next).1.mem
    (Machine.l1Alloc s core asid part va pa attr next).1.cores := by grind [Machine.l1Alloc]
grind_pattern l1Alloc_canon => Machine.l1Alloc s core asid part va pa attr next
theorem l1Load_canon (s : State) (c : Ctx) (va : Nat) (pa : Nat) (n : Nat) (hint : Nat) (attr : PageAttr) (grid : Nat)
    (hc : canon s.mem s.cores) : canon (Machine.l1Load s c va pa n hint attr grid).1.mem
    (Machine.l1Load s c va pa n hint attr grid).1.cores := by grind [Machine.l1Load]
grind_pattern l1Load_canon => Machine.l1Load s c va pa n hint attr grid
theorem l1Store_canon (s : State) (c : Ctx) (va : Nat) (pa : Nat) (hint : Nat) (attr : PageAttr) (bs : List Byte)
    (hc : canon s.mem s.cores) : canon (Machine.l1Store s c va pa hint attr bs).mem (Machine.l1Store s c va pa hint attr bs).cores := by grind [Machine.l1Store]
grind_pattern l1Store_canon => Machine.l1Store s c va pa hint attr bs
theorem holdLine_canon (s : State) (core : Nat) (asid : Nat) (line : Nat) (hc : canon s.mem s.cores) : canon
    (Machine.holdLine s core asid line).mem (Machine.holdLine s core asid line).cores := by grind [Machine.holdLine]
grind_pattern holdLine_canon => Machine.holdLine s core asid line
theorem combineFlush_canon (s : State) (core : Nat) (hc : canon s.mem s.cores) : canon (Machine.combineFlush s core).mem
    (Machine.combineFlush s core).cores := by grind [Machine.combineFlush]
grind_pattern combineFlush_canon => Machine.combineFlush s core
theorem combineStore_canon (s : State) (c : Ctx) (va : Nat) (pa : Nat) (bs : List Byte) (hc : canon s.mem s.cores) : canon
    (Machine.combineStore s c va pa bs).mem (Machine.combineStore s c va pa bs).cores := by grind [Machine.combineStore]
grind_pattern combineStore_canon => Machine.combineStore s c va pa bs
theorem combineLoad_canon (s : State) (c : Ctx) (va : Nat) (pa : Nat) (n : Nat) (hc : canon s.mem s.cores) : canon
    (Machine.combineLoad s c va pa n).1.mem (Machine.combineLoad s c va pa n).1.cores := by grind [Machine.combineLoad]
grind_pattern combineLoad_canon => Machine.combineLoad s c va pa n
theorem placeRead_canon (s : State) (c : Ctx) (p : Piece) (hc : canon s.mem s.cores) : canon (Machine.placeRead s c p).1.mem
    (Machine.placeRead s c p).1.cores := by grind [Machine.placeRead]
grind_pattern placeRead_canon => Machine.placeRead s c p
theorem placeWrite_canon (s : State) (c : Ctx) (p : Piece) (bs : List Byte) (hc : canon s.mem s.cores) : canon
    (Machine.placeWrite s c p bs).mem (Machine.placeWrite s c p bs).cores := by grind [Machine.placeWrite]
grind_pattern placeWrite_canon => Machine.placeWrite s c p bs
theorem placePoison_canon (s : State) (c : Ctx) (p : Piece) (hc : canon s.mem s.cores) : canon (Machine.placePoison s c p).mem
    (Machine.placePoison s c p).cores := by grind [Machine.placePoison]
grind_pattern placePoison_canon => Machine.placePoison s c p
theorem loadPiece_canon (s : State) (c : Ctx) (p : Piece) (hint : Nat) (grid : Nat) (hc : canon s.mem s.cores) : canon
    (Machine.loadPiece s c p hint grid).1.mem (Machine.loadPiece s c p hint grid).1.cores := by grind [Machine.loadPiece]
grind_pattern loadPiece_canon => Machine.loadPiece s c p hint grid
theorem storePiece_canon (s : State) (c : Ctx) (p : Piece) (hint : Nat) (bs : List Byte) (hc : canon s.mem s.cores) : canon
    (Machine.storePiece s c p hint bs).mem (Machine.storePiece s c p hint bs).cores := by grind [Machine.storePiece]
grind_pattern storePiece_canon => Machine.storePiece s c p hint bs
theorem drainFlume_canon (s : State) (core : Nat) (hc : canon s.mem s.cores) : canon (Machine.drainFlume s core).mem
    (Machine.drainFlume s core).cores := by grind [Machine.drainFlume]
grind_pattern drainFlume_canon => Machine.drainFlume s core
theorem drainCore_canon (s : State) (core : Nat) (hc : canon s.mem s.cores) : canon (Machine.drainCore s core).mem
    (Machine.drainCore s core).cores := by grind [Machine.drainCore]
grind_pattern drainCore_canon => Machine.drainCore s core
theorem dropClean_canon (s : State) (core : Nat) (hc : canon s.mem s.cores) : canon (Machine.dropClean s core).mem
    (Machine.dropClean s core).cores := by grind [Machine.dropClean]
grind_pattern dropClean_canon => Machine.dropClean s core
theorem acquireCore_canon (s : State) (core : Nat) (hc : canon s.mem s.cores) : canon (Machine.acquireCore s core).mem
    (Machine.acquireCore s core).cores := by grind [Machine.acquireCore]
grind_pattern acquireCore_canon => Machine.acquireCore s core
theorem translateParts_canon (s : State) (c : Ctx) (acc : Acc) (a3 : List (Nat × Nat)) (hc : canon s.mem s.cores) : canon
    (Machine.translateParts s c acc a3).1.mem (Machine.translateParts s c acc a3).1.cores := by
  fun_induction Machine.translateParts <;> grind
grind_pattern translateParts_canon => Machine.translateParts s c acc a3
theorem readPieces_canon (s : State) (c : Ctx) (a2 : List Piece) (hc : canon s.mem s.cores) : canon (Machine.readPieces s c a2).1.mem
    (Machine.readPieces s c a2).1.cores := by
  fun_induction Machine.readPieces <;> grind
grind_pattern readPieces_canon => Machine.readPieces s c a2
theorem writePieces_canon (s : State) (c : Ctx) (a2 : List Piece) (a3 : List Byte) (hc : canon s.mem s.cores) : canon
    (Machine.writePieces s c a2 a3).mem (Machine.writePieces s c a2 a3).cores := by
  fun_induction Machine.writePieces <;> grind
grind_pattern writePieces_canon => Machine.writePieces s c a2 a3
theorem vmRead_canon (s : State) (c : Ctx) (va : Nat) (n : Nat) (hc : canon s.mem s.cores) : canon (Machine.vmRead s c va n).1.mem
    (Machine.vmRead s c va n).1.cores := by grind [Machine.vmRead]
grind_pattern vmRead_canon => Machine.vmRead s c va n
theorem vmWrite_canon (s : State) (c : Ctx) (va : Nat) (bs : List Byte) (hc : canon s.mem s.cores) : canon
    (Machine.vmWrite s c va bs).1.mem (Machine.vmWrite s c va bs).1.cores := by grind [Machine.vmWrite]
grind_pattern vmWrite_canon => Machine.vmWrite s c va bs
theorem hwRead_canon (s : State) (part : Nat) (sec : Bool) (va : Nat) (n : Nat) (hc : canon s.mem s.cores) : canon
    (Machine.hwRead s part sec va n).1.mem (Machine.hwRead s part sec va n).1.cores := by grind [Machine.hwRead]
grind_pattern hwRead_canon => Machine.hwRead s part sec va n
theorem hwAmend_canon (s : State) (part : Nat) (sec : Bool) (va : Nat) (n : Nat) (f : Nat → Nat) (bad : Bool)
    (hc : canon s.mem s.cores) : canon (Machine.hwAmend s part sec va n f bad).1.mem (Machine.hwAmend s part sec va n f bad).1.cores := by grind [Machine.hwAmend]
grind_pattern hwAmend_canon => Machine.hwAmend s part sec va n f bad
theorem hwWrite_canon (s : State) (part : Nat) (sec : Bool) (va : Nat) (bs : List Byte) (hc : canon s.mem s.cores) : canon
    (Machine.hwWrite s part sec va bs).1.mem (Machine.hwWrite s part sec va bs).1.cores := by grind [Machine.hwWrite]
grind_pattern hwWrite_canon => Machine.hwWrite s part sec va bs
theorem hwUpdate_canon (s : State) (part : Nat) (sec : Bool) (va : Nat) (n : Nat) (f : Nat → Nat) (hc : canon s.mem s.cores) : canon
    (Machine.hwUpdate s part sec va n f).1.mem (Machine.hwUpdate s part sec va n f).1.cores := by grind [Machine.hwUpdate]
grind_pattern hwUpdate_canon => Machine.hwUpdate s part sec va n f
theorem scratchWrite_canon (s : State) (core : Nat) (off : Nat) (bs : List Byte) (hc : canon s.mem s.cores) : canon
    (Machine.scratchWrite s core off bs).mem (Machine.scratchWrite s core off bs).cores := by grind [Machine.scratchWrite]
grind_pattern scratchWrite_canon => Machine.scratchWrite s core off bs

/-! ## Ops -/

theorem modGroup_canon (s : State) (gk : Nat) (f : Group → Group) (hc : canon s.mem s.cores) : canon (Machine.modGroup s gk f).mem
    (Machine.modGroup s gk f).cores := by grind [Machine.modGroup]
grind_pattern modGroup_canon => Machine.modGroup s gk f
theorem modThread_canon (s : State) (gk : Nat) (t : Nat) (f : Thread → Thread) (hc : canon s.mem s.cores) : canon
    (Machine.modThread s gk t f).mem (Machine.modThread s gk t f).cores := by grind [Machine.modThread]
grind_pattern modThread_canon => Machine.modThread s gk t f
theorem modGrid_canon (s : State) (id : Nat) (f : Grid → Grid) (hc : canon s.mem s.cores) : canon (Machine.modGrid s id f).mem
    (Machine.modGrid s id f).cores := by grind [Machine.modGrid]
grind_pattern modGrid_canon => Machine.modGrid s id f
theorem fresh_canon (s : State) (hc : canon s.mem s.cores) : canon (Machine.fresh s).1.mem (Machine.fresh s).1.cores := by grind [Machine.fresh]
grind_pattern fresh_canon => Machine.fresh s
theorem readyAt_canon (s : State) (gk : Nat) (t : Nat) (pc : DWord) (hdr : DWord) (hc : canon s.mem s.cores) : canon
    (Machine.readyAt s gk t pc hdr).mem (Machine.readyAt s gk t pc hdr).cores := by grind [Machine.readyAt]
grind_pattern readyAt_canon => Machine.readyAt s gk t pc hdr
theorem hostWords_canon (s : State) (part : Nat) (pa : Nat) (ws : List DWord) (hc : canon s.mem s.cores) : canon
    (Machine.hostWords s part pa ws).mem (Machine.hostWords s part pa ws).cores := by grind [Machine.hostWords]
grind_pattern hostWords_canon => Machine.hostWords s part pa ws
theorem hostEvent_canon (s : State) (part : Nat) (code : Nat) (arg0 : Nat) (arg1 : Nat) (hc : canon s.mem s.cores) : canon
    (Machine.hostEvent s part code arg0 arg1).mem (Machine.hostEvent s part code arg0 arg1).cores := by grind [Machine.hostEvent]
grind_pattern hostEvent_canon => Machine.hostEvent s part code arg0 arg1
theorem recordEvent_canon (s : State) (part : Nat) (f : Option FaultInfo) (hc : canon s.mem s.cores) : canon
    (Machine.recordEvent s part f).mem (Machine.recordEvent s part f).cores := by
  unfold Machine.recordEvent
  grind
grind_pattern recordEvent_canon => Machine.recordEvent s part f
theorem sendHost_canon (s : State) (x : HostOut) (hc : canon s.mem s.cores) : canon (Machine.sendHost s x).mem
    (Machine.sendHost s x).cores := by grind [Machine.sendHost]
grind_pattern sendHost_canon => Machine.sendHost s x
theorem dropMembers_canon (s : State) (p : Nat × Nat → Bool) (hc : canon s.mem s.cores) : canon (Machine.dropMembers s p).mem
    (Machine.dropMembers s p).cores := by grind [Machine.dropMembers]
grind_pattern dropMembers_canon => Machine.dropMembers s p
theorem leaveClause_canon (i : Issue) (s : State) (m : Nat × Nat) (hc : canon s.mem s.cores) : canon (Machine.leaveClause i s m).mem
    (Machine.leaveClause i s m).cores := by grind [Machine.leaveClause]
grind_pattern leaveClause_canon => Machine.leaveClause i s m
theorem advance_canon (s : State) (w : Nat) (stopped : List (Nat × Nat)) (hc : canon s.mem s.cores) : canon
    (Machine.advance s w stopped).mem (Machine.advance s w stopped).cores := by grind [Machine.advance]
grind_pattern advance_canon => Machine.advance s w stopped
theorem failGroup_canon (s : State) (gk : Nat) (hinfo : Word) (va : DWord) (hc : canon s.mem s.cores) : canon
    (Machine.failGroup s gk hinfo va).mem (Machine.failGroup s gk hinfo va).cores := by grind [Machine.failGroup]
grind_pattern failGroup_canon => Machine.failGroup s gk hinfo va
theorem failRecord_canon (s : State) (gk : Nat) (f : FaultInfo) (hc : canon s.mem s.cores) : canon (Machine.failRecord s gk f).mem
    (Machine.failRecord s gk f).cores := by grind [Machine.failRecord]
grind_pattern failRecord_canon => Machine.failRecord s gk f
theorem enterHandler_canon (s : State) (site : FaultSite) (gk : Nat) (tid : Nat) (f : FaultInfo) (sup : Bool)
    (hc : canon s.mem s.cores) : canon (Machine.enterHandler s site gk tid f sup).mem (Machine.enterHandler s site gk tid f sup).cores := by grind [Machine.enterHandler]
grind_pattern enterHandler_canon => Machine.enterHandler s site gk tid f sup
theorem takeOne_canon (site : FaultSite) (s : State) (x : Faulting) (hc : canon s.mem s.cores) : canon (Machine.takeOne site s x).mem
    (Machine.takeOne site s x).cores := by grind [Machine.takeOne]
grind_pattern takeOne_canon => Machine.takeOne site s x
theorem addRecord_canon (site : FaultSite) (ps : List (Faulting × Group × Thread)) (s : State) (sub : Nat) (hc : canon s.mem s.cores) :
    canon (Machine.addRecord site ps s sub).mem (Machine.addRecord site ps s sub).cores := by grind [Machine.addRecord]
grind_pattern addRecord_canon => Machine.addRecord site ps s sub
theorem takeFaults_canon (s : State) (site : FaultSite) (xs : List Faulting) (hc : canon s.mem s.cores) : canon
    (Machine.takeFaults s site xs).mem (Machine.takeFaults s site xs).cores := by grind [Machine.takeFaults]
grind_pattern takeFaults_canon => Machine.takeFaults s site xs
theorem nextHandler_canon (s : State) (gk : Nat) (hc : canon s.mem s.cores) : canon (Machine.nextHandler s gk).mem
    (Machine.nextHandler s gk).cores := by grind [Machine.nextHandler]
grind_pattern nextHandler_canon => Machine.nextHandler s gk
theorem leaveHandler_canon (s : State) (gk : Nat) (tid : Nat) (pc : DWord) (hc : canon s.mem s.cores) : canon
    (Machine.leaveHandler s gk tid pc).mem (Machine.leaveHandler s gk tid pc).cores := by grind [Machine.leaveHandler]
grind_pattern leaveHandler_canon => Machine.leaveHandler s gk tid pc

/-! ## Queues -/

theorem readEntry_canon (s : State) (part : Nat) (taskid : Nat) (hc : canon s.mem s.cores) : canon
    (Machine.readEntry s part taskid).1.mem (Machine.readEntry s part taskid).1.cores := by grind [Machine.readEntry]
grind_pattern readEntry_canon => Machine.readEntry s part taskid
theorem entryUpdate_canon (s : State) (g : Grid) (f : Nat → Nat) (hc : canon s.mem s.cores) : canon (Machine.entryUpdate s g f).mem
    (Machine.entryUpdate s g f).cores := by grind [Machine.entryUpdate]
grind_pattern entryUpdate_canon => Machine.entryUpdate s g f
theorem ownerFailed_canon (s : State) (part : Nat) (owner : Nat) (hc : canon s.mem s.cores) : canon
    (Machine.ownerFailed s part owner).1.mem (Machine.ownerFailed s part owner).1.cores := by grind [Machine.ownerFailed]
grind_pattern ownerFailed_canon => Machine.ownerFailed s part owner
theorem noteWhere_canon (s : State) (e : DeckEntry) (cluster : Nat) (inland : Bool) (slot : Nat) (hc : canon s.mem s.cores) : canon
    (Machine.noteWhere s e cluster inland slot).mem (Machine.noteWhere s e cluster inland slot).cores := by grind [Machine.noteWhere]
grind_pattern noteWhere_canon => Machine.noteWhere s e cluster inland slot
theorem setDeck_canon (s : State) (g : Nat) (cls : Nat) (l : List DeckEntry) (hc : canon s.mem s.cores) : canon
    (Machine.setDeck s g cls l).mem (Machine.setDeck s g cls l).cores := by grind [Machine.setDeck]
grind_pattern setDeck_canon => Machine.setDeck s g cls l
theorem setLanding_canon (s : State) (g : Nat) (cls : Nat) (l : List (Nat × DeckEntry)) (hc : canon s.mem s.cores) : canon
    (Machine.setLanding s g cls l).mem (Machine.setLanding s g cls l).cores := by grind [Machine.setLanding]
grind_pattern setLanding_canon => Machine.setLanding s g cls l
theorem setWaiting_canon (s : State) (g : Nat) (cls : Nat) (l : List DeckEntry) (hc : canon s.mem s.cores) : canon
    (Machine.setWaiting s g cls l).mem (Machine.setWaiting s g cls l).cores := by grind [Machine.setWaiting]
grind_pattern setWaiting_canon => Machine.setWaiting s g cls l
theorem pushLanding_canon (part : Nat) (g : Nat) (cls : Nat) (s : State) (e : DeckEntry) (hc : canon s.mem s.cores) : canon
    (Machine.pushLanding part g cls s e).mem (Machine.pushLanding part g cls s e).cores := by grind [Machine.pushLanding]
grind_pattern pushLanding_canon => Machine.pushLanding part g cls s e
theorem pushDeck_canon (part : Nat) (g : Nat) (cls : Nat) (s : State) (e : DeckEntry) (hc : canon s.mem s.cores) : canon
    (Machine.pushDeck part g cls s e).mem (Machine.pushDeck part g cls s e).cores := by grind [Machine.pushDeck]
grind_pattern pushDeck_canon => Machine.pushDeck part g cls s e
theorem enqueueEntry_canon (part : Nat) (g : Nat) (cls : Nat) (s : State) (e : DeckEntry) (hc : canon s.mem s.cores) : canon
    (Machine.enqueueEntry part g cls s e).mem (Machine.enqueueEntry part g cls s e).cores := by grind [Machine.enqueueEntry]
grind_pattern enqueueEntry_canon => Machine.enqueueEntry part g cls s e
theorem readLanding_canon (s : State) (part : Nat) (g : Nat) (cls : Nat) (x : Nat × DeckEntry) (hc : canon s.mem s.cores) : canon
    (Machine.readLanding s part g cls x).1.mem (Machine.readLanding s part g cls x).1.cores := by grind [Machine.readLanding]
grind_pattern readLanding_canon => Machine.readLanding s part g cls x
theorem admitWaiting_canon (part : Nat) (g : Nat) (cls : Nat) (a3 : Nat) (a4 : State) (hc : canon a4.mem a4.cores) : canon
    (Machine.admitWaiting part g cls a3 a4).mem (Machine.admitWaiting part g cls a3 a4).cores := by
  fun_induction Machine.admitWaiting <;> grind
grind_pattern admitWaiting_canon => Machine.admitWaiting part g cls a3 a4
theorem refillOne_canon (part : Nat) (g : Nat) (cls : Nat) (s : State) (hc : canon s.mem s.cores) : canon
    (Machine.refillOne part g cls s).mem (Machine.refillOne part g cls s).cores := by grind [Machine.refillOne]
grind_pattern refillOne_canon => Machine.refillOne part g cls s
theorem refillMany_canon (part : Nat) (g : Nat) (cls : Nat) (a3 : Nat) (a4 : State) (hc : canon a4.mem a4.cores) : canon
    (Machine.refillMany part g cls a3 a4).mem (Machine.refillMany part g cls a3 a4).cores := by
  fun_induction Machine.refillMany <;> grind
grind_pattern refillMany_canon => Machine.refillMany part g cls a3 a4
theorem removeCont_canon (s : State) (gk : Nat) (hc : canon s.mem s.cores) : canon (Machine.removeCont s gk).mem
    (Machine.removeCont s gk).cores := by grind [Machine.removeCont]
grind_pattern removeCont_canon => Machine.removeCont s gk
theorem enqueueCont_canon (s : State) (gk : Nat) (hc : canon s.mem s.cores) : canon (Machine.enqueueCont s gk).mem
    (Machine.enqueueCont s gk).cores := by grind [Machine.enqueueCont]
grind_pattern enqueueCont_canon => Machine.enqueueCont s gk
theorem countWaiter_canon (s : State) (part : Nat) (world : Bool) (obj : Nat) (k : WaitKind) (delta : Nat) (hc : canon s.mem s.cores) :
    canon (Machine.countWaiter s part world obj k delta).mem (Machine.countWaiter s part world obj k delta).cores := by grind [Machine.countWaiter]
grind_pattern countWaiter_canon => Machine.countWaiter s part world obj k delta
theorem wakeWaiter_canon (s : State) (w : Waiter) (hc : canon s.mem s.cores) : canon (Machine.wakeWaiter s w).mem
    (Machine.wakeWaiter s w).cores := by grind [Machine.wakeWaiter]
grind_pattern wakeWaiter_canon => Machine.wakeWaiter s w
theorem wakeAll_canon (s : State) (part : Nat) (world : Bool) (obj : Nat) (hc : canon s.mem s.cores) : canon
    (Machine.wakeAll s part world obj).mem (Machine.wakeAll s part world obj).cores := by grind [Machine.wakeAll]
grind_pattern wakeAll_canon => Machine.wakeAll s part world obj
theorem settleFuture_canon (s : State) (part : Nat) (world : Bool) (va : Nat) (value : Nat) (failed : Bool) (hc : canon s.mem s.cores)
    : canon (Machine.settleFuture s part world va value failed).1.mem (Machine.settleFuture s part world va value failed).1.cores := by grind [Machine.settleFuture]
grind_pattern settleFuture_canon => Machine.settleFuture s part world va value failed
theorem acceptRecord_canon (s : State) (r : TaskRecord) (parent : Nat) (cluster : Nat) (hostLaunched : Bool) (info : GfxInfo)
    (paySlot : Option (Nat × Nat)) (hc : canon s.mem s.cores) : canon
    (Machine.acceptRecord s r parent cluster hostLaunched info paySlot).mem
    (Machine.acceptRecord s r parent cluster hostLaunched info paySlot).cores := by grind [Machine.acceptRecord]
grind_pattern acceptRecord_canon => Machine.acceptRecord s r parent cluster hostLaunched info paySlot

/-! ## Operands -/

theorem applyLane_canon (f : Group → Thread → LaneOut) (s0 : State) (s : State) (m : Nat × Nat) (hc : canon s.mem s.cores) : canon
    (Machine.applyLane f s0 s m).mem (Machine.applyLane f s0 s m).cores := by grind [Machine.applyLane]
grind_pattern applyLane_canon => Machine.applyLane f s0 s m
theorem finishInstr_canon (s : State) (w : Nat) (faults : List Faulting) (hc : canon s.mem s.cores) : canon
    (Machine.finishInstr s w faults).mem (Machine.finishInstr s w faults).cores := by grind [Machine.finishInstr]
grind_pattern finishInstr_canon => Machine.finishInstr s w faults
theorem runLanes_canon (s : State) (w : Nat) (f : Group → Thread → LaneOut) (hc : canon s.mem s.cores) : canon
    (Machine.runLanes s w f).mem (Machine.runLanes s w f).cores := by grind [Machine.runLanes]
grind_pattern runLanes_canon => Machine.runLanes s w f
theorem shiftZero_canon (s : State) (hc : canon s.mem s.cores) : canon (Machine.shiftZero s).mem (Machine.shiftZero s).cores := by grind [Machine.shiftZero]
grind_pattern shiftZero_canon => Machine.shiftZero s

/-! ## Lanes -/

theorem execNop_canon (s : State) (hc : canon s.mem s.cores) (t : State) (ht : Machine.execNop s = .next t) : canon t.mem t.cores := by grind [Machine.execNop]
grind_pattern execNop_canon => Machine.execNop s, State.mem t
theorem execIadd_canon (o : RBin) (s : State) (hc : canon s.mem s.cores) (t : State) (ht : Machine.execIadd o s = .next t) : canon
    t.mem t.cores := by grind [Machine.execIadd]
grind_pattern execIadd_canon => Machine.execIadd o s, State.mem t
theorem execIsub_canon (o : RBin) (s : State) (hc : canon s.mem s.cores) (t : State) (ht : Machine.execIsub o s = .next t) : canon
    t.mem t.cores := by grind [Machine.execIsub]
grind_pattern execIsub_canon => Machine.execIsub o s, State.mem t
theorem execImul_canon (o : RBin) (s : State) (hc : canon s.mem s.cores) (t : State) (ht : Machine.execImul o s = .next t) : canon
    t.mem t.cores := by grind [Machine.execImul]
grind_pattern execImul_canon => Machine.execImul o s, State.mem t
theorem execImulh_canon (o : RBin) (s : State) (hc : canon s.mem s.cores) (t : State) (ht : Machine.execImulh o s = .next t) : canon
    t.mem t.cores := by grind [Machine.execImulh]
grind_pattern execImulh_canon => Machine.execImulh o s, State.mem t
theorem execImulhu_canon (o : RBin) (s : State) (hc : canon s.mem s.cores) (t : State) (ht : Machine.execImulhu o s = .next t) : canon
    t.mem t.cores := by grind [Machine.execImulhu]
grind_pattern execImulhu_canon => Machine.execImulhu o s, State.mem t
theorem execImin_canon (o : RBin) (s : State) (hc : canon s.mem s.cores) (t : State) (ht : Machine.execImin o s = .next t) : canon
    t.mem t.cores := by grind [Machine.execImin]
grind_pattern execImin_canon => Machine.execImin o s, State.mem t
theorem execIminu_canon (o : RBin) (s : State) (hc : canon s.mem s.cores) (t : State) (ht : Machine.execIminu o s = .next t) : canon
    t.mem t.cores := by grind [Machine.execIminu]
grind_pattern execIminu_canon => Machine.execIminu o s, State.mem t
theorem execImax_canon (o : RBin) (s : State) (hc : canon s.mem s.cores) (t : State) (ht : Machine.execImax o s = .next t) : canon
    t.mem t.cores := by grind [Machine.execImax]
grind_pattern execImax_canon => Machine.execImax o s, State.mem t
theorem execImaxu_canon (o : RBin) (s : State) (hc : canon s.mem s.cores) (t : State) (ht : Machine.execImaxu o s = .next t) : canon
    t.mem t.cores := by grind [Machine.execImaxu]
grind_pattern execImaxu_canon => Machine.execImaxu o s, State.mem t
theorem execIabs_canon (o : RUn) (s : State) (hc : canon s.mem s.cores) (t : State) (ht : Machine.execIabs o s = .next t) : canon t.mem
    t.cores := by grind [Machine.execIabs]
grind_pattern execIabs_canon => Machine.execIabs o s, State.mem t
theorem execAnd_canon (o : RBin) (s : State) (hc : canon s.mem s.cores) (t : State) (ht : Machine.execAnd o s = .next t) : canon t.mem
    t.cores := by grind [Machine.execAnd]
grind_pattern execAnd_canon => Machine.execAnd o s, State.mem t
theorem execOr_canon (o : RBin) (s : State) (hc : canon s.mem s.cores) (t : State) (ht : Machine.execOr o s = .next t) : canon t.mem
    t.cores := by grind [Machine.execOr]
grind_pattern execOr_canon => Machine.execOr o s, State.mem t
theorem execXor_canon (o : RBin) (s : State) (hc : canon s.mem s.cores) (t : State) (ht : Machine.execXor o s = .next t) : canon t.mem
    t.cores := by grind [Machine.execXor]
grind_pattern execXor_canon => Machine.execXor o s, State.mem t
theorem execShl_canon (o : RBin) (s : State) (hc : canon s.mem s.cores) (t : State) (ht : Machine.execShl o s = .next t) : canon t.mem
    t.cores := by grind [Machine.execShl]
grind_pattern execShl_canon => Machine.execShl o s, State.mem t
theorem execShr_canon (o : RBin) (s : State) (hc : canon s.mem s.cores) (t : State) (ht : Machine.execShr o s = .next t) : canon t.mem
    t.cores := by grind [Machine.execShr]
grind_pattern execShr_canon => Machine.execShr o s, State.mem t
theorem execSar_canon (o : RBin) (s : State) (hc : canon s.mem s.cores) (t : State) (ht : Machine.execSar o s = .next t) : canon t.mem
    t.cores := by grind [Machine.execSar]
grind_pattern execSar_canon => Machine.execSar o s, State.mem t
theorem execRotl_canon (o : RBin) (s : State) (hc : canon s.mem s.cores) (t : State) (ht : Machine.execRotl o s = .next t) : canon
    t.mem t.cores := by grind [Machine.execRotl]
grind_pattern execRotl_canon => Machine.execRotl o s, State.mem t
theorem execPopc_canon (o : RUn) (s : State) (hc : canon s.mem s.cores) (t : State) (ht : Machine.execPopc o s = .next t) : canon t.mem
    t.cores := by grind [Machine.execPopc]
grind_pattern execPopc_canon => Machine.execPopc o s, State.mem t
theorem execClz_canon (o : RUn) (s : State) (hc : canon s.mem s.cores) (t : State) (ht : Machine.execClz o s = .next t) : canon t.mem
    t.cores := by grind [Machine.execClz]
grind_pattern execClz_canon => Machine.execClz o s, State.mem t
theorem execBrev_canon (o : RUn) (s : State) (hc : canon s.mem s.cores) (t : State) (ht : Machine.execBrev o s = .next t) : canon t.mem
    t.cores := by grind [Machine.execBrev]
grind_pattern execBrev_canon => Machine.execBrev o s, State.mem t
theorem execIadds_canon (o : RBin) (s : State) (hc : canon s.mem s.cores) (t : State) (ht : Machine.execIadds o s = .next t) : canon
    t.mem t.cores := by grind [Machine.execIadds]
grind_pattern execIadds_canon => Machine.execIadds o s, State.mem t
theorem execIsubs_canon (o : RBin) (s : State) (hc : canon s.mem s.cores) (t : State) (ht : Machine.execIsubs o s = .next t) : canon
    t.mem t.cores := by grind [Machine.execIsubs]
grind_pattern execIsubs_canon => Machine.execIsubs o s, State.mem t
theorem execIadd64_canon (o : RBin) (s : State) (hc : canon s.mem s.cores) (t : State) (ht : Machine.execIadd64 o s = .next t) : canon
    t.mem t.cores := by grind [Machine.execIadd64]
grind_pattern execIadd64_canon => Machine.execIadd64 o s, State.mem t
theorem execIsub64_canon (o : RBin) (s : State) (hc : canon s.mem s.cores) (t : State) (ht : Machine.execIsub64 o s = .next t) : canon
    t.mem t.cores := by grind [Machine.execIsub64]
grind_pattern execIsub64_canon => Machine.execIsub64 o s, State.mem t
theorem execMov_canon (o : RUn) (s : State) (hc : canon s.mem s.cores) (t : State) (ht : Machine.execMov o s = .next t) : canon t.mem
    t.cores := by grind [Machine.execMov]
grind_pattern execMov_canon => Machine.execMov o s, State.mem t
theorem execMov64_canon (o : RUn) (s : State) (hc : canon s.mem s.cores) (t : State) (ht : Machine.execMov64 o s = .next t) : canon
    t.mem t.cores := by grind [Machine.execMov64]
grind_pattern execMov64_canon => Machine.execMov64 o s, State.mem t
theorem execIcmp_canon (o : PCmp) (s : State) (hc : canon s.mem s.cores) (t : State) (ht : Machine.execIcmp o s = .next t) : canon
    t.mem t.cores := by grind [Machine.execIcmp]
grind_pattern execIcmp_canon => Machine.execIcmp o s, State.mem t
theorem execIcmp64_canon (o : PCmp) (s : State) (hc : canon s.mem s.cores) (t : State) (ht : Machine.execIcmp64 o s = .next t) : canon
    t.mem t.cores := by grind [Machine.execIcmp64]
grind_pattern execIcmp64_canon => Machine.execIcmp64 o s, State.mem t
theorem execFcmp_canon (o : PCmp) (s : State) (hc : canon s.mem s.cores) (t : State) (ht : Machine.execFcmp o s = .next t) : canon
    t.mem t.cores := by grind [Machine.execFcmp]
grind_pattern execFcmp_canon => Machine.execFcmp o s, State.mem t
theorem execDcmp_canon (o : PCmp) (s : State) (hc : canon s.mem s.cores) (t : State) (ht : Machine.execDcmp o s = .next t) : canon
    t.mem t.cores := by grind [Machine.execDcmp]
grind_pattern execDcmp_canon => Machine.execDcmp o s, State.mem t
theorem execPand_canon (o : PLog) (s : State) (hc : canon s.mem s.cores) (t : State) (ht : Machine.execPand o s = .next t) : canon
    t.mem t.cores := by grind [Machine.execPand]
grind_pattern execPand_canon => Machine.execPand o s, State.mem t
theorem execPor_canon (o : PLog) (s : State) (hc : canon s.mem s.cores) (t : State) (ht : Machine.execPor o s = .next t) : canon t.mem
    t.cores := by grind [Machine.execPor]
grind_pattern execPor_canon => Machine.execPor o s, State.mem t
theorem execPxor_canon (o : PLog) (s : State) (hc : canon s.mem s.cores) (t : State) (ht : Machine.execPxor o s = .next t) : canon
    t.mem t.cores := by grind [Machine.execPxor]
grind_pattern execPxor_canon => Machine.execPxor o s, State.mem t
theorem execPandn_canon (o : PLog) (s : State) (hc : canon s.mem s.cores) (t : State) (ht : Machine.execPandn o s = .next t) : canon
    t.mem t.cores := by grind [Machine.execPandn]
grind_pattern execPandn_canon => Machine.execPandn o s, State.mem t
theorem execPget_canon (o : PGet) (s : State) (hc : canon s.mem s.cores) (t : State) (ht : Machine.execPget o s = .next t) : canon
    t.mem t.cores := by grind [Machine.execPget]
grind_pattern execPget_canon => Machine.execPget o s, State.mem t
theorem execPset_canon (o : PVote) (s : State) (hc : canon s.mem s.cores) (t : State) (ht : Machine.execPset o s = .next t) : canon
    t.mem t.cores := by grind [Machine.execPset]
grind_pattern execPset_canon => Machine.execPset o s, State.mem t
theorem execFadd_canon (o : RBin) (s : State) (hc : canon s.mem s.cores) (t : State) (ht : Machine.execFadd o s = .next t) : canon
    t.mem t.cores := by grind [Machine.execFadd]
grind_pattern execFadd_canon => Machine.execFadd o s, State.mem t
theorem execFsub_canon (o : RBin) (s : State) (hc : canon s.mem s.cores) (t : State) (ht : Machine.execFsub o s = .next t) : canon
    t.mem t.cores := by grind [Machine.execFsub]
grind_pattern execFsub_canon => Machine.execFsub o s, State.mem t
theorem execFmul_canon (o : RBin) (s : State) (hc : canon s.mem s.cores) (t : State) (ht : Machine.execFmul o s = .next t) : canon
    t.mem t.cores := by grind [Machine.execFmul]
grind_pattern execFmul_canon => Machine.execFmul o s, State.mem t
theorem execFmin_canon (o : RBin) (s : State) (hc : canon s.mem s.cores) (t : State) (ht : Machine.execFmin o s = .next t) : canon
    t.mem t.cores := by grind [Machine.execFmin]
grind_pattern execFmin_canon => Machine.execFmin o s, State.mem t
theorem execFmax_canon (o : RBin) (s : State) (hc : canon s.mem s.cores) (t : State) (ht : Machine.execFmax o s = .next t) : canon
    t.mem t.cores := by grind [Machine.execFmax]
grind_pattern execFmax_canon => Machine.execFmax o s, State.mem t
theorem execFabs_canon (o : RUn) (s : State) (hc : canon s.mem s.cores) (t : State) (ht : Machine.execFabs o s = .next t) : canon t.mem
    t.cores := by grind [Machine.execFabs]
grind_pattern execFabs_canon => Machine.execFabs o s, State.mem t
theorem execFneg_canon (o : RUn) (s : State) (hc : canon s.mem s.cores) (t : State) (ht : Machine.execFneg o s = .next t) : canon t.mem
    t.cores := by grind [Machine.execFneg]
grind_pattern execFneg_canon => Machine.execFneg o s, State.mem t
theorem execDadd_canon (o : RBin) (s : State) (hc : canon s.mem s.cores) (t : State) (ht : Machine.execDadd o s = .next t) : canon
    t.mem t.cores := by grind [Machine.execDadd]
grind_pattern execDadd_canon => Machine.execDadd o s, State.mem t
theorem execDsub_canon (o : RBin) (s : State) (hc : canon s.mem s.cores) (t : State) (ht : Machine.execDsub o s = .next t) : canon
    t.mem t.cores := by grind [Machine.execDsub]
grind_pattern execDsub_canon => Machine.execDsub o s, State.mem t
theorem execDmul_canon (o : RBin) (s : State) (hc : canon s.mem s.cores) (t : State) (ht : Machine.execDmul o s = .next t) : canon
    t.mem t.cores := by grind [Machine.execDmul]
grind_pattern execDmul_canon => Machine.execDmul o s, State.mem t
theorem execDmin_canon (o : RBin) (s : State) (hc : canon s.mem s.cores) (t : State) (ht : Machine.execDmin o s = .next t) : canon
    t.mem t.cores := by grind [Machine.execDmin]
grind_pattern execDmin_canon => Machine.execDmin o s, State.mem t
theorem execDmax_canon (o : RBin) (s : State) (hc : canon s.mem s.cores) (t : State) (ht : Machine.execDmax o s = .next t) : canon
    t.mem t.cores := by grind [Machine.execDmax]
grind_pattern execDmax_canon => Machine.execDmax o s, State.mem t
theorem execDabs_canon (o : RUn) (s : State) (hc : canon s.mem s.cores) (t : State) (ht : Machine.execDabs o s = .next t) : canon t.mem
    t.cores := by grind [Machine.execDabs]
grind_pattern execDabs_canon => Machine.execDabs o s, State.mem t
theorem execDneg_canon (o : RUn) (s : State) (hc : canon s.mem s.cores) (t : State) (ht : Machine.execDneg o s = .next t) : canon t.mem
    t.cores := by grind [Machine.execDneg]
grind_pattern execDneg_canon => Machine.execDneg o s, State.mem t
theorem execFsat_canon (o : RUn) (s : State) (hc : canon s.mem s.cores) (t : State) (ht : Machine.execFsat o s = .next t) : canon t.mem
    t.cores := by grind [Machine.execFsat]
grind_pattern execFsat_canon => Machine.execFsat o s, State.mem t
theorem execHadd2_canon (o : RBin) (s : State) (hc : canon s.mem s.cores) (t : State) (ht : Machine.execHadd2 o s = .next t) : canon
    t.mem t.cores := by grind [Machine.execHadd2]
grind_pattern execHadd2_canon => Machine.execHadd2 o s, State.mem t
theorem execHmul2_canon (o : RBin) (s : State) (hc : canon s.mem s.cores) (t : State) (ht : Machine.execHmul2 o s = .next t) : canon
    t.mem t.cores := by grind [Machine.execHmul2]
grind_pattern execHmul2_canon => Machine.execHmul2 o s, State.mem t
theorem execHmin2_canon (o : RBin) (s : State) (hc : canon s.mem s.cores) (t : State) (ht : Machine.execHmin2 o s = .next t) : canon
    t.mem t.cores := by grind [Machine.execHmin2]
grind_pattern execHmin2_canon => Machine.execHmin2 o s, State.mem t
theorem execHmax2_canon (o : RBin) (s : State) (hc : canon s.mem s.cores) (t : State) (ht : Machine.execHmax2 o s = .next t) : canon
    t.mem t.cores := by grind [Machine.execHmax2]
grind_pattern execHmax2_canon => Machine.execHmax2 o s, State.mem t
theorem execBadd2_canon (o : RBin) (s : State) (hc : canon s.mem s.cores) (t : State) (ht : Machine.execBadd2 o s = .next t) : canon
    t.mem t.cores := by grind [Machine.execBadd2]
grind_pattern execBadd2_canon => Machine.execBadd2 o s, State.mem t
theorem execBmul2_canon (o : RBin) (s : State) (hc : canon s.mem s.cores) (t : State) (ht : Machine.execBmul2 o s = .next t) : canon
    t.mem t.cores := by grind [Machine.execBmul2]
grind_pattern execBmul2_canon => Machine.execBmul2 o s, State.mem t
theorem execBmin2_canon (o : RBin) (s : State) (hc : canon s.mem s.cores) (t : State) (ht : Machine.execBmin2 o s = .next t) : canon
    t.mem t.cores := by grind [Machine.execBmin2]
grind_pattern execBmin2_canon => Machine.execBmin2 o s, State.mem t
theorem execBmax2_canon (o : RBin) (s : State) (hc : canon s.mem s.cores) (t : State) (ht : Machine.execBmax2 o s = .next t) : canon
    t.mem t.cores := by grind [Machine.execBmax2]
grind_pattern execBmax2_canon => Machine.execBmax2 o s, State.mem t
theorem execFrcp_canon (o : RUn) (s : State) (hc : canon s.mem s.cores) (t : State) (ht : Machine.execFrcp o s = .next t) : canon t.mem
    t.cores := by grind [Machine.execFrcp]
grind_pattern execFrcp_canon => Machine.execFrcp o s, State.mem t
theorem execFrsq_canon (o : RUn) (s : State) (hc : canon s.mem s.cores) (t : State) (ht : Machine.execFrsq o s = .next t) : canon t.mem
    t.cores := by grind [Machine.execFrsq]
grind_pattern execFrsq_canon => Machine.execFrsq o s, State.mem t
theorem execFsqrt_canon (o : RUn) (s : State) (hc : canon s.mem s.cores) (t : State) (ht : Machine.execFsqrt o s = .next t) : canon
    t.mem t.cores := by grind [Machine.execFsqrt]
grind_pattern execFsqrt_canon => Machine.execFsqrt o s, State.mem t
theorem execFexp2_canon (o : RUn) (s : State) (hc : canon s.mem s.cores) (t : State) (ht : Machine.execFexp2 o s = .next t) : canon
    t.mem t.cores := by grind [Machine.execFexp2]
grind_pattern execFexp2_canon => Machine.execFexp2 o s, State.mem t
theorem execFlog2_canon (o : RUn) (s : State) (hc : canon s.mem s.cores) (t : State) (ht : Machine.execFlog2 o s = .next t) : canon
    t.mem t.cores := by grind [Machine.execFlog2]
grind_pattern execFlog2_canon => Machine.execFlog2 o s, State.mem t
theorem execFsin_canon (o : RUn) (s : State) (hc : canon s.mem s.cores) (t : State) (ht : Machine.execFsin o s = .next t) : canon t.mem
    t.cores := by grind [Machine.execFsin]
grind_pattern execFsin_canon => Machine.execFsin o s, State.mem t
theorem execFcos_canon (o : RUn) (s : State) (hc : canon s.mem s.cores) (t : State) (ht : Machine.execFcos o s = .next t) : canon t.mem
    t.cores := by grind [Machine.execFcos]
grind_pattern execFcos_canon => Machine.execFcos o s, State.mem t
theorem execFtanh_canon (o : RUn) (s : State) (hc : canon s.mem s.cores) (t : State) (ht : Machine.execFtanh o s = .next t) : canon
    t.mem t.cores := by grind [Machine.execFtanh]
grind_pattern execFtanh_canon => Machine.execFtanh o s, State.mem t
theorem execFfus_canon (o : FmaOp) (s : State) (hc : canon s.mem s.cores) (t : State) (ht : Machine.execFfus o s = .next t) : canon
    t.mem t.cores := by grind [Machine.execFfus]
grind_pattern execFfus_canon => Machine.execFfus o s, State.mem t
theorem execDfus_canon (o : FmaOp) (s : State) (hc : canon s.mem s.cores) (t : State) (ht : Machine.execDfus o s = .next t) : canon
    t.mem t.cores := by grind [Machine.execDfus]
grind_pattern execDfus_canon => Machine.execDfus o s, State.mem t
theorem execHfus2_canon (o : FmaOp) (s : State) (hc : canon s.mem s.cores) (t : State) (ht : Machine.execHfus2 o s = .next t) : canon
    t.mem t.cores := by grind [Machine.execHfus2]
grind_pattern execHfus2_canon => Machine.execHfus2 o s, State.mem t
theorem execBfus2_canon (o : FmaOp) (s : State) (hc : canon s.mem s.cores) (t : State) (ht : Machine.execBfus2 o s = .next t) : canon
    t.mem t.cores := by grind [Machine.execBfus2]
grind_pattern execBfus2_canon => Machine.execBfus2 o s, State.mem t
theorem execImad_canon (o : MadOp) (s : State) (hc : canon s.mem s.cores) (t : State) (ht : Machine.execImad o s = .next t) : canon
    t.mem t.cores := by grind [Machine.execImad]
grind_pattern execImad_canon => Machine.execImad o s, State.mem t
theorem execSel_canon (o : SelOp) (s : State) (hc : canon s.mem s.cores) (t : State) (ht : Machine.execSel o s = .next t) : canon t.mem
    t.cores := by grind [Machine.execSel]
grind_pattern execSel_canon => Machine.execSel o s, State.mem t
theorem execBfx_canon (o : BfxOp) (s : State) (hc : canon s.mem s.cores) (t : State) (ht : Machine.execBfx o s = .next t) : canon t.mem
    t.cores := by grind [Machine.execBfx]
grind_pattern execBfx_canon => Machine.execBfx o s, State.mem t
theorem execBfi_canon (o : BfiOp) (s : State) (hc : canon s.mem s.cores) (t : State) (ht : Machine.execBfi o s = .next t) : canon t.mem
    t.cores := by grind [Machine.execBfi]
grind_pattern execBfi_canon => Machine.execBfi o s, State.mem t
theorem execCvt_canon (o : CvtOp) (s : State) (hc : canon s.mem s.cores) (t : State) (ht : Machine.execCvt o s = .next t) : canon t.mem
    t.cores := by grind [Machine.execCvt]
grind_pattern execCvt_canon => Machine.execCvt o s, State.mem t
theorem execMovi_canon (o : ImmOp) (s : State) (hc : canon s.mem s.cores) (t : State) (ht : Machine.execMovi o s = .next t) : canon
    t.mem t.cores := by grind [Machine.execMovi]
grind_pattern execMovi_canon => Machine.execMovi o s, State.mem t
theorem execIaddi_canon (o : ImmOp) (s : State) (hc : canon s.mem s.cores) (t : State) (ht : Machine.execIaddi o s = .next t) : canon
    t.mem t.cores := by grind [Machine.execIaddi]
grind_pattern execIaddi_canon => Machine.execIaddi o s, State.mem t
theorem execRnd_canon (o : MadOp) (s : State) (hc : canon s.mem s.cores) (t : State) (ht : Machine.execRnd o s = .next t) : canon t.mem
    t.cores := by grind [Machine.execRnd]
grind_pattern execRnd_canon => Machine.execRnd o s, State.mem t

/-! ## Access -/

theorem resolvePart_canon (s : State) (c : Ctx) (acc : Acc) (hint : Nat) (va : Nat) (len : Nat) (hc : canon s.mem s.cores) : canon
    (Machine.resolvePart s c acc hint va len).1.mem (Machine.resolvePart s c acc hint va len).1.cores := by grind [Machine.resolvePart]
grind_pattern resolvePart_canon => Machine.resolvePart s c acc hint va len
theorem resolveParts_canon (s : State) (c : Ctx) (acc : Acc) (hint : Nat) (a4 : List (Nat × Nat)) (hc : canon s.mem s.cores) : canon
    (Machine.resolveParts s c acc hint a4).1.mem (Machine.resolveParts s c acc hint a4).1.cores := by
  fun_induction Machine.resolveParts <;> grind
grind_pattern resolveParts_canon => Machine.resolveParts s c acc hint a4
theorem resolve_canon (s : State) (g : Group) (t : Thread) (seg : Nat) (size : Nat) (o : Nat) (acc : Acc) (hint : Nat) (want : Nat)
    (hc : canon s.mem s.cores) : canon (Machine.resolve s g t seg size o acc hint want).1.mem
    (Machine.resolve s g t seg size o acc hint want).1.cores := by grind [Machine.resolve]
grind_pattern resolve_canon => Machine.resolve s g t seg size o acc hint want
theorem recordUpdate_canon (s : State) (g : Group) (off : Nat) (n : Nat) (f : Nat → Nat) (hc : canon s.mem s.cores) : canon
    (Machine.recordUpdate s g off n f).mem (Machine.recordUpdate s g off n f).cores := by grind [Machine.recordUpdate]
grind_pattern recordUpdate_canon => Machine.recordUpdate s g off n f
theorem replyWords_canon (s : State) (gk : Nat) (tid : Nat) (vals : List (Nat × Word)) (hc : canon s.mem s.cores) : canon
    (Machine.replyWords s gk tid vals).mem (Machine.replyWords s gk tid vals).cores := by grind [Machine.replyWords]
grind_pattern replyWords_canon => Machine.replyWords s gk tid vals
theorem replyLast_canon (s : State) (o : Op) (tid : Nat) (vals : List (Nat × Word)) (hc : canon s.mem s.cores) : canon
    (Machine.replyLast s o tid vals).mem (Machine.replyLast s o tid vals).cores := by grind [Machine.replyLast]
grind_pattern replyLast_canon => Machine.replyLast s o tid vals
theorem showEarly_canon (s : State) (o : Op) (reg : Nat) (hc : canon s.mem s.cores) : canon (Machine.showEarly s o reg).mem
    (Machine.showEarly s o reg).cores := by grind [Machine.showEarly]
grind_pattern showEarly_canon => Machine.showEarly s o reg
theorem replyRegs_canon (s : State) (gk : Nat) (tid : Nat) (d : Nat) (vals : List Word) (hc : canon s.mem s.cores) : canon
    (Machine.replyRegs s gk tid d vals).mem (Machine.replyRegs s gk tid d vals).cores := by grind [Machine.replyRegs]
grind_pattern replyRegs_canon => Machine.replyRegs s gk tid d vals
theorem replyPred_canon (s : State) (gk : Nat) (tid : Nat) (n : BitVec 3) (b : Bool) (hc : canon s.mem s.cores) : canon
    (Machine.replyPred s gk tid n b).mem (Machine.replyPred s gk tid n b).cores := by grind [Machine.replyPred]
grind_pattern replyPred_canon => Machine.replyPred s gk tid n b
theorem creditCounter_canon (s : State) (gk : Nat) (tid : Nat) (cnt : Nat) (hc : canon s.mem s.cores) : canon
    (Machine.creditCounter s gk tid cnt).mem (Machine.creditCounter s gk tid cnt).cores := by grind [Machine.creditCounter]
grind_pattern creditCounter_canon => Machine.creditCounter s gk tid cnt
theorem deferFault_canon (s : State) (gk : Nat) (tid : Nat) (cnt : Nat) (f : FaultInfo) (hc : canon s.mem s.cores) : canon
    (Machine.deferFault s gk tid cnt f).mem (Machine.deferFault s gk tid cnt f).cores := by grind [Machine.deferFault]
grind_pattern deferFault_canon => Machine.deferFault s gk tid cnt f
theorem dropOp_canon (s : State) (id : Nat) (hc : canon s.mem s.cores) : canon (Machine.dropOp s id).mem (Machine.dropOp s id).cores := by grind [Machine.dropOp]
grind_pattern dropOp_canon => Machine.dropOp s id
theorem retireOp_canon (s : State) (o : Op) (hc : canon s.mem s.cores) : canon (Machine.retireOp s o).mem (Machine.retireOp s o).cores := by grind [Machine.retireOp]
grind_pattern retireOp_canon => Machine.retireOp s o
theorem wakeOne_canon (core : Nat) (s : State) (o : Op) (hc : canon s.mem s.cores) : canon (Machine.wakeOne core s o).mem
    (Machine.wakeOne core s o).cores := by grind [Machine.wakeOne]
grind_pattern wakeOne_canon => Machine.wakeOne core s o
theorem wakeSync_canon (core : Nat) (s : State) (hc : canon s.mem s.cores) : canon (Machine.wakeSync core s).mem
    (Machine.wakeSync core s).cores := by grind [Machine.wakeSync]
grind_pattern wakeSync_canon => Machine.wakeSync core s
theorem scratchStore_canon (s : State) (core : Nat) (off : Nat) (bs : List Byte) (hc : canon s.mem s.cores) : canon
    (Machine.scratchStore s core off bs).mem (Machine.scratchStore s core off bs).cores := by grind [Machine.scratchStore]
grind_pattern scratchStore_canon => Machine.scratchStore s core off bs
theorem stage_canon (s : State) (g : Group) (va : Nat) (entries : List Nat) (hc : canon s.mem s.cores) : canon
    (Machine.stage s g va entries).1.mem (Machine.stage s g va entries).1.cores := by grind [Machine.stage]
grind_pattern stage_canon => Machine.stage s g va entries
theorem applyOwn_canon (gr : Grid) (g : Group) (va : Nat) (a3 : Nat) (a4 : State) (a5 : Nat) (a6 : List Byte)
    (hc : canon a4.mem a4.cores) : canon (Machine.applyOwn gr g va a3 a4 a5 a6).1.mem (Machine.applyOwn gr g va a3 a4 a5 a6).1.cores := by
  fun_induction Machine.applyOwn <;> grind
grind_pattern applyOwn_canon => Machine.applyOwn gr g va a3 a4 a5 a6
theorem windowPiece_canon (s : State) (part : Nat) (die : Nat) (writer : Nat) (piece : Nat) (data : DWord) (core : Option Nat)
    (hc : canon s.mem s.cores) : canon (Machine.windowPiece s part die writer piece data core).mem
    (Machine.windowPiece s part die writer piece data core).cores := by grind [Machine.windowPiece]
grind_pattern windowPiece_canon => Machine.windowPiece s part die writer piece data core
theorem loadPieces_canon (s : State) (c : Ctx) (hint : Nat) (grid : Nat) (a4 : List Piece) (hc : canon s.mem s.cores) : canon
    (Machine.loadPieces s c hint grid a4).1.mem (Machine.loadPieces s c hint grid a4).1.cores := by
  fun_induction Machine.loadPieces <;> grind
grind_pattern loadPieces_canon => Machine.loadPieces s c hint grid a4
theorem storePieces_canon (s : State) (c : Ctx) (g : Group) (tid : Nat) (hint : Nat) (a5 : List Piece) (a6 : List Byte)
    (hc : canon s.mem s.cores) : canon (Machine.storePieces s c g tid hint a5 a6).mem (Machine.storePieces s c g tid hint a5 a6).cores := by
  fun_induction Machine.storePieces <;> grind
grind_pattern storePieces_canon => Machine.storePieces s c g tid hint a5 a6
theorem atomicInL1_canon (s : State) (c : Ctx) (asid : Nat) (p : Piece) (am : Nat) (size : Nat) (y : DWord) (cmp : DWord)
    (hc : canon s.mem s.cores) : canon (Machine.atomicInL1 s c asid p am size y cmp).1.mem
    (Machine.atomicInL1 s c asid p am size y cmp).1.cores := by grind [Machine.atomicInL1]
grind_pattern atomicInL1_canon => Machine.atomicInL1 s c asid p am size y cmp
theorem atomicAtHome_canon (s : State) (c : Ctx) (asid : Nat) (p : Piece) (am : Nat) (size : Nat) (y : DWord) (cmp : DWord)
    (hc : canon s.mem s.cores) : canon (Machine.atomicAtHome s c asid p am size y cmp).1.mem
    (Machine.atomicAtHome s c asid p am size y cmp).1.cores := by grind [Machine.atomicAtHome]
grind_pattern atomicAtHome_canon => Machine.atomicAtHome s c asid p am size y cmp
theorem atomicPlace_canon (s : State) (c : Ctx) (place : Place) (am : Nat) (size : Nat) (y : DWord) (cmp : DWord)
    (hc : canon s.mem s.cores) : canon (Machine.atomicPlace s c place am size y cmp).1.mem
    (Machine.atomicPlace s c place am size y cmp).1.cores := by
  unfold Machine.atomicPlace
  grind
grind_pattern atomicPlace_canon => Machine.atomicPlace s c place am size y cmp
theorem loadValue_canon (s : State) (c : Ctx) (g : Group) (place : Place) (size : Nat) (treat : Treat) (hint : Nat) (staged : Nat)
    (hc : canon s.mem s.cores) : canon (Machine.loadValue s c g place size treat hint staged).1.mem
    (Machine.loadValue s c g place size treat hint staged).1.cores := by
  unfold Machine.loadValue
  grind
grind_pattern loadValue_canon => Machine.loadValue s c g place size treat hint staged
theorem performAccess_canon (s : State) (g : Group) (o : Op) (hc : canon s.mem s.cores) : canon (Machine.performAccess s g o).1.mem
    (Machine.performAccess s g o).1.cores := by grind [Machine.performAccess]
grind_pattern performAccess_canon => Machine.performAccess s g o
theorem performOp_canon (s : State) (o : Op) (hc : canon s.mem s.cores) : canon (Machine.performOp s o).mem
    (Machine.performOp s o).cores := by
  unfold Machine.performOp
  (repeat' split) <;> grind
grind_pattern performOp_canon => Machine.performOp s o
theorem replyEarly_canon (s : State) (o : Op) (reg : Nat) (hc : canon s.mem s.cores) : canon (Machine.replyEarly s o reg).mem
    (Machine.replyEarly s o reg).cores := by grind [Machine.replyEarly]
grind_pattern replyEarly_canon => Machine.replyEarly s o reg
theorem storeEarly_canon (s : State) (o : Op) (n : Nat) (hc : canon s.mem s.cores) : canon (Machine.storeEarly s o n).mem
    (Machine.storeEarly s o n).cores := by grind [Machine.storeEarly]
grind_pattern storeEarly_canon => Machine.storeEarly s o n
theorem performAll_canon (s : State) (p : Op → Bool) (hc : canon s.mem s.cores) : canon (Machine.performAll s p).mem
    (Machine.performAll s p).cores := by grind [Machine.performAll]
grind_pattern performAll_canon => Machine.performAll s p
theorem performThread_canon (s : State) (gk : Nat) (tid : Nat) (hc : canon s.mem s.cores) : canon (Machine.performThread s gk tid).mem
    (Machine.performThread s gk tid).cores := by grind [Machine.performThread]
grind_pattern performThread_canon => Machine.performThread s gk tid
theorem releaseThread_canon (s : State) (gk : Nat) (tid : Nat) (hc : canon s.mem s.cores) : canon (Machine.releaseThread s gk tid).mem
    (Machine.releaseThread s gk tid).cores := by grind [Machine.releaseThread]
grind_pattern releaseThread_canon => Machine.releaseThread s gk tid
theorem releaseGroup_canon (s : State) (gk : Nat) (hc : canon s.mem s.cores) : canon (Machine.releaseGroup s gk).mem
    (Machine.releaseGroup s gk).cores := by grind [Machine.releaseGroup]
grind_pattern releaseGroup_canon => Machine.releaseGroup s gk
theorem issueOp_canon (s : State) (g : Group) (tid : Nat) (wait : BitVec 3) (sup : Bool) (kind : OpKind) (hc : canon s.mem s.cores) :
    canon (Machine.issueOp s g tid wait sup kind).mem (Machine.issueOp s g tid wait sup kind).cores := by grind [Machine.issueOp]
grind_pattern issueOp_canon => Machine.issueOp s g tid wait sup kind
theorem runThreads_canon (s : State) (w : Nat) (gd : Guard) (f : State →   Group → Thread → State × Option FaultInfo)
    (h_f : ∀ f0 f1 f2, canon f0.mem f0.cores → canon (f f0 f1 f2).1.mem (f f0 f1 f2).1.cores) (hc : canon s.mem s.cores) : canon
    (Machine.runThreads s w gd f).mem (Machine.runThreads s w gd f).cores := by grind [Machine.runThreads]
grind_pattern runThreads_canon => Machine.runThreads s w gd f
theorem partStep_canon (gd : Guard) (held : State → Group → Thread → Bool) (f : State →   Group → Thread → State × Option FaultInfo)
    (r : State × List (Nat × Nat) × List Faulting) (m : Nat × Nat)
    (h_f : ∀ f0 f1 f2, canon f0.mem f0.cores → canon (f f0 f1 f2).1.mem (f f0 f1 f2).1.cores) (hc : canon r.1.mem r.1.cores) : canon
    (Machine.partStep gd held f r m).1.mem (Machine.partStep gd held f r m).1.cores := by grind [Machine.partStep]
grind_pattern partStep_canon => Machine.partStep gd held f r m
theorem runPartly_canon (s : State) (gd : Guard) (held : State → Group → Thread → Bool)
    (f : State →   Group → Thread → State × Option FaultInfo)
    (h_f : ∀ f0 f1 f2, canon f0.mem f0.cores → canon (f f0 f1 f2).1.mem (f f0 f1 f2).1.cores) (hc : canon s.mem s.cores) : canon
    (Machine.runPartly s gd held f).mem (Machine.runPartly s gd held f).cores := by grind [Machine.runPartly]
grind_pattern runPartly_canon => Machine.runPartly s gd held f

/-! ## Memory -/

theorem deviceOrder_canon (s : State) (g : Group) (t : Thread) (p : Place) (hc : canon s.mem s.cores) : canon
    (Machine.deviceOrder s g t p).mem (Machine.deviceOrder s g t p).cores := by grind [Machine.deviceOrder]
grind_pattern deviceOrder_canon => Machine.deviceOrder s g t p
theorem memTarget_canon (s : State) (g : Group) (t : Thread) (o : MemOp) (size : Nat) (acc : Acc) (want : Nat)
    (hc : canon s.mem s.cores) : canon (Machine.memTarget s g t o size acc want).1.mem
    (Machine.memTarget s g t o size acc want).1.cores := by grind [Machine.memTarget]
grind_pattern memTarget_canon => Machine.memTarget s g t o size acc want
theorem issueLoad_canon (o : MemOp) (s : State) (g : Group) (t : Thread) (hc : canon s.mem s.cores) : canon
    (Machine.issueLoad o s g t).1.mem (Machine.issueLoad o s g t).1.cores := by grind [Machine.issueLoad]
grind_pattern issueLoad_canon => Machine.issueLoad o s g t
theorem execLd_canon (o : MemOp) (s : State) (hc : canon s.mem s.cores) (t : State) (ht : Machine.execLd o s = .next t) : canon t.mem
    t.cores := by grind [Machine.execLd]
grind_pattern execLd_canon => Machine.execLd o s, State.mem t
theorem performLast_canon (s : State) (hc : canon s.mem s.cores) : canon (Machine.performLast s).mem (Machine.performLast s).cores := by grind [Machine.performLast]
grind_pattern performLast_canon => Machine.performLast s
theorem issueStore_canon (o : MemOp) (s : State) (g : Group) (t : Thread) (hc : canon s.mem s.cores) : canon
    (Machine.issueStore o s g t).1.mem (Machine.issueStore o s g t).1.cores := by grind [Machine.issueStore]
grind_pattern issueStore_canon => Machine.issueStore o s g t
theorem execSt_canon (o : MemOp) (s : State) (hc : canon s.mem s.cores) (t : State) (ht : Machine.execSt o s = .next t) : canon t.mem
    t.cores := by grind [Machine.execSt]
grind_pattern execSt_canon => Machine.execSt o s, State.mem t
theorem prefetchPiece_canon (c : Ctx) (hint : Nat) (grid : Nat) (s : State) (p : Piece) (hc : canon s.mem s.cores) : canon
    (Machine.prefetchPiece c hint grid s p).mem (Machine.prefetchPiece c hint grid s p).cores := by grind [Machine.prefetchPiece]
grind_pattern prefetchPiece_canon => Machine.prefetchPiece c hint grid s p
theorem prefetch_canon (o : MemOp) (s : State) (g : Group) (t : Thread) (hc : canon s.mem s.cores) : canon
    (Machine.prefetch o s g t).1.mem (Machine.prefetch o s g t).1.cores := by grind [Machine.prefetch]
grind_pattern prefetch_canon => Machine.prefetch o s g t
theorem execPref_canon (o : MemOp) (s : State) (hc : canon s.mem s.cores) (t : State) (ht : Machine.execPref o s = .next t) : canon
    t.mem t.cores := by grind [Machine.execPref]
grind_pattern execPref_canon => Machine.execPref o s, State.mem t
theorem settleLine_canon (s : State) (g : Group) (t : Thread) (place : Place) (hc : canon s.mem s.cores) : canon
    (Machine.settleLine s g t place).mem (Machine.settleLine s g t place).cores := by
  unfold Machine.settleLine
  grind
grind_pattern settleLine_canon => Machine.settleLine s g t place
theorem issueAtomic_canon (ret : Bool) (o : MemOp) (s : State) (g : Group) (t : Thread) (hc : canon s.mem s.cores) : canon
    (Machine.issueAtomic ret o s g t).1.mem (Machine.issueAtomic ret o s g t).1.cores := by grind [Machine.issueAtomic]
grind_pattern issueAtomic_canon => Machine.issueAtomic ret o s g t
theorem execAtom_canon (o : MemOp) (s : State) (hc : canon s.mem s.cores) (t : State) (ht : Machine.execAtom o s = .next t) : canon
    t.mem t.cores := by grind [Machine.execAtom]
grind_pattern execAtom_canon => Machine.execAtom o s, State.mem t
theorem execRed_canon (o : MemOp) (s : State) (hc : canon s.mem s.cores) (t : State) (ht : Machine.execRed o s = .next t) : canon t.mem
    t.cores := by grind [Machine.execRed]
grind_pattern execRed_canon => Machine.execRed o s, State.mem t
theorem issueSyncInit_canon (o : MemOp) (s : State) (g : Group) (t : Thread) (hc : canon s.mem s.cores) : canon
    (Machine.issueSyncInit o s g t).1.mem (Machine.issueSyncInit o s g t).1.cores := by grind [Machine.issueSyncInit]
grind_pattern issueSyncInit_canon => Machine.issueSyncInit o s g t
theorem execSwinit_canon (o : MemOp) (s : State) (hc : canon s.mem s.cores) (t : State) (ht : Machine.execSwinit o s = .next t) : canon
    t.mem t.cores := by grind [Machine.execSwinit]
grind_pattern execSwinit_canon => Machine.execSwinit o s, State.mem t
theorem runQueued_canon (s : State) (gd : Guard) (f : State →   Group → Thread → State × Option FaultInfo)
    (h_f : ∀ f0 f1 f2, canon f0.mem f0.cores → canon (f f0 f1 f2).1.mem (f f0 f1 f2).1.cores) (hc : canon s.mem s.cores) : canon
    (Machine.runQueued s gd f).mem (Machine.runQueued s gd f).cores := by grind [Machine.runQueued]
grind_pattern runQueued_canon => Machine.runQueued s gd f
theorem issueSyncAdd_canon (o : MemOp) (s : State) (g : Group) (t : Thread) (hc : canon s.mem s.cores) : canon
    (Machine.issueSyncAdd o s g t).1.mem (Machine.issueSyncAdd o s g t).1.cores := by grind [Machine.issueSyncAdd]
grind_pattern issueSyncAdd_canon => Machine.issueSyncAdd o s g t
theorem execSwadd_canon (o : MemOp) (s : State) (hc : canon s.mem s.cores) (t : State) (ht : Machine.execSwadd o s = .next t) : canon
    t.mem t.cores := by grind [Machine.execSwadd]
grind_pattern execSwadd_canon => Machine.execSwadd o s, State.mem t
theorem issueSyncWait_canon (o : MemOp) (s : State) (g : Group) (t : Thread) (hc : canon s.mem s.cores) : canon
    (Machine.issueSyncWait o s g t).1.mem (Machine.issueSyncWait o s g t).1.cores := by grind [Machine.issueSyncWait]
grind_pattern issueSyncWait_canon => Machine.issueSyncWait o s g t
theorem execSwwait_canon (o : MemOp) (s : State) (hc : canon s.mem s.cores) (t : State) (ht : Machine.execSwwait o s = .next t) : canon
    t.mem t.cores := by grind [Machine.execSwwait]
grind_pattern execSwwait_canon => Machine.execSwwait o s, State.mem t
theorem complete_canon (s : State) (id : Nat) (p : OpKind → Bool) (hc : canon s.mem s.cores) : canon (Machine.complete s id p).mem
    (Machine.complete s id p).cores := by grind [Machine.complete]
grind_pattern complete_canon => Machine.complete s id p
theorem execLoadArrival_canon (op : Nat) (s : State) (hc : canon s.mem s.cores) (t : State)
    (ht : Machine.execLoadArrival op s = .next t) : canon t.mem t.cores := by grind [Machine.execLoadArrival]
grind_pattern execLoadArrival_canon => Machine.execLoadArrival op s, State.mem t
theorem execStoreCompletion_canon (op : Nat) (s : State) (hc : canon s.mem s.cores) (t : State)
    (ht : Machine.execStoreCompletion op s = .next t) : canon t.mem t.cores := by grind [Machine.execStoreCompletion]
grind_pattern execStoreCompletion_canon => Machine.execStoreCompletion op s, State.mem t
theorem execAtomicCompletion_canon (op : Nat) (s : State) (hc : canon s.mem s.cores) (t : State)
    (ht : Machine.execAtomicCompletion op s = .next t) : canon t.mem t.cores := by grind [Machine.execAtomicCompletion]
grind_pattern execAtomicCompletion_canon => Machine.execAtomicCompletion op s, State.mem t

/-! ## Engine -/

theorem engTarget_canon (s : State) (g : Group) (c : Ctx) (e : EngState) (space : Nat) (addr : Nat) (n : Nat) (acc : Acc)
    (hc : canon s.mem s.cores) : canon (Machine.engTarget s g c e space addr n acc).1.mem
    (Machine.engTarget s g c e space addr n acc).1.cores := by grind [Machine.engTarget]
grind_pattern engTarget_canon => Machine.engTarget s g c e space addr n acc
theorem engFetch_canon (s : State) (g : Group) (c : Ctx) (e : EngState) (n : Nat) (t : Target) (hc : canon s.mem s.cores) : canon
    (Machine.engFetch s g c e n t).1.mem (Machine.engFetch s g c e n t).1.cores := by grind [Machine.engFetch]
grind_pattern engFetch_canon => Machine.engFetch s g c e n t
theorem engRead_canon (s : State) (g : Group) (c : Ctx) (e : EngState) (space : Nat) (addr : Nat) (n : Nat) (hc : canon s.mem s.cores)
    : canon (Machine.engRead s g c e space addr n).1.mem (Machine.engRead s g c e space addr n).1.cores := by grind [Machine.engRead]
grind_pattern engRead_canon => Machine.engRead s g c e space addr n
theorem engParts_canon (g : Group) (c : Ctx) (e : EngState) (space : Nat) (a4 : List (Nat × Nat)) (a5 : State)
    (hc : canon a5.mem a5.cores) : canon (Machine.engParts g c e space a4 a5).1.mem (Machine.engParts g c e space a4 a5).1.cores := by
  fun_induction Machine.engParts <;> grind
grind_pattern engParts_canon => Machine.engParts g c e space a4 a5
theorem readBlock_canon (s : State) (g : Group) (c : Ctx) (e : EngState) (hc : canon s.mem s.cores) : canon
    (Machine.readBlock s g c e).1.mem (Machine.readBlock s g c e).1.cores := by grind [Machine.readBlock]
grind_pattern readBlock_canon => Machine.readBlock s g c e
theorem engVa_canon (s : State) (g : Group) (c : Ctx) (e : EngState) (va : Nat) (n : Nat) (hc : canon s.mem s.cores) : canon
    (Machine.engVa s g c e va n).1.mem (Machine.engVa s g c e va n).1.cores := by grind [Machine.engVa]
grind_pattern engVa_canon => Machine.engVa s g c e va n
theorem readIndexes_canon (s : State) (g : Group) (c : Ctx) (e : EngState) (hc : canon s.mem s.cores) : canon
    (Machine.readIndexes s g c e).1.mem (Machine.readIndexes s g c e).1.cores := by grind [Machine.readIndexes]
grind_pattern readIndexes_canon => Machine.readIndexes s g c e
theorem readRun_canon (s : State) (g : Group) (c : Ctx) (e : EngState) (ms : List EngMove) (hc : canon s.mem s.cores) : canon
    (Machine.readRun s g c e ms).1.mem (Machine.readRun s g c e ms).1.cores := by
  unfold Machine.readRun
  grind
grind_pattern readRun_canon => Machine.readRun s g c e ms
theorem readRuns_canon (g : Group) (c : Ctx) (e : EngState) (t : Target) (lo : Nat) (a5 : List (List EngMove)) (a6 : State)
    (hc : canon a6.mem a6.cores) : canon (Machine.readRuns g c e t lo a5 a6).1.mem (Machine.readRuns g c e t lo a5 a6).1.cores := by
  induction a5 generalizing a6 with
  | nil => exact hc
  | cons ms r ih =>
    unfold Machine.readRuns
    have h1 := readRun_canon a6 g c e ms hc
    rcases hr : Machine.readRun a6 g c e ms with ⟨s1, _ | got⟩ <;> rw [hr] at h1 <;> simp only []
    · exact h1
    · have h2 := ih s1 h1
      rcases hq : Machine.readRuns g c e t lo r s1 with ⟨s2, _ | got⟩ <;> rw [hq] at h2 <;> exact h2
grind_pattern readRuns_canon => Machine.readRuns g c e t lo a5 a6
theorem readMoves_canon (g : Group) (c : Ctx) (e : EngState) (t : Target) (lo : Nat) (ms : List EngMove) (s : State)
    (hc : canon s.mem s.cores) : canon (Machine.readMoves g c e t lo ms s).1.mem (Machine.readMoves g c e t lo ms s).1.cores := by grind [Machine.readMoves]
grind_pattern readMoves_canon => Machine.readMoves g c e t lo ms s
theorem pieceTarget_canon (s : State) (g : Group) (c : Ctx) (e : EngState) (space : Nat) (ms : List EngMove) (hc : canon s.mem s.cores)
    : canon (Machine.pieceTarget s g c e space ms).1.mem (Machine.pieceTarget s g c e space ms).1.cores := by grind [Machine.pieceTarget]
grind_pattern pieceTarget_canon => Machine.pieceTarget s g c e space ms
theorem evalPiece_canon (s : State) (g : Group) (c : Ctx) (e : EngState) (space : Nat) (p : Nat × Nat × List EngMove)
    (hc : canon s.mem s.cores) : canon (Machine.evalPiece s g c e space p).1.mem (Machine.evalPiece s g c e space p).1.cores := by grind [Machine.evalPiece]
grind_pattern evalPiece_canon => Machine.evalPiece s g c e space p
theorem evalPieces_canon (g : Group) (c : Ctx) (e : EngState) (space : Nat) (a4 : List (Nat × Nat × List EngMove)) (a5 : State)
    (hc : canon a5.mem a5.cores) : canon (Machine.evalPieces g c e space a4 a5).1.mem (Machine.evalPieces g c e space a4 a5).1.cores := by
  fun_induction Machine.evalPieces <;> grind
grind_pattern evalPieces_canon => Machine.evalPieces g c e space a4 a5
theorem fillEntry_canon (s : State) (gr : Grid) (g : Group) (i : Nat) (unit : Nat) (bytes : Table Byte) (bad : Bool)
    (hc : canon s.mem s.cores) : canon (Machine.fillEntry s gr g i unit bytes bad).1.mem
    (Machine.fillEntry s gr g i unit bytes bad).1.cores := by grind [Machine.fillEntry]
grind_pattern fillEntry_canon => Machine.fillEntry s gr g i unit bytes bad
theorem stageAll_canon (gr : Grid) (g : Group) (a2 : List (Option Nat × List EngByte)) (a3 : State) (hc : canon a3.mem a3.cores) :
    canon (Machine.stageAll gr g a2 a3).1.mem (Machine.stageAll gr g a2 a3).1.cores := by
  fun_induction Machine.stageAll <;> grind
grind_pattern stageAll_canon => Machine.stageAll gr g a2 a3
theorem writePiece_canon (s : State) (g : Group) (c : Ctx) (e : EngState) (id : Nat) (p : EngPiece) (hc : canon s.mem s.cores) : canon
    (Machine.writePiece s g c e id p).1.mem (Machine.writePiece s g c e id p).1.cores := by grind [Machine.writePiece]
grind_pattern writePiece_canon => Machine.writePiece s g c e id p
theorem countPiece_canon (s : State) (core : Nat) (off : Nat) (n : Nat) (hc : canon s.mem s.cores) : canon
    (Machine.countPiece s core off n).mem (Machine.countPiece s core off n).cores := by grind [Machine.countPiece]
grind_pattern countPiece_canon => Machine.countPiece s core off n
theorem writePieceList_canon (g : Group) (c : Ctx) (e : EngState) (id : Nat) (a4 : List EngPiece) (a5 : State)
    (hc : canon a5.mem a5.cores) : canon (Machine.writePieceList g c e id a4 a5).1.mem (Machine.writePieceList g c e id a4 a5).1.cores := by
  fun_induction Machine.writePieceList <;> grind
grind_pattern writePieceList_canon => Machine.writePieceList g c e id a4 a5
theorem runPieces_canon (s : State) (g : Group) (c : Ctx) (e : EngState) (id : Nat) (space : Nat) (ms : List EngMove)
    (pre : List FaultInfo) (carried : Bool) (hc : canon s.mem s.cores) : canon
    (Machine.runPieces s g c e id space ms pre carried).1.mem (Machine.runPieces s g c e id space ms pre carried).1.cores := by grind [Machine.runPieces]
grind_pattern runPieces_canon => Machine.runPieces s g c e id space ms pre carried
theorem runData_canon (s : State) (g : Group) (c : Ctx) (e : EngState) (id : Nat) (hc : canon s.mem s.cores) : canon
    (Machine.runData s g c e id).1.mem (Machine.runData s g c e id).1.cores := by grind [Machine.runData]
grind_pattern runData_canon => Machine.runData s g c e id
theorem endEng_canon (s : State) (o : Op) (e : EngState) (r : EngEnd) (hc : canon s.mem s.cores) : canon (Machine.endEng s o e r).mem
    (Machine.endEng s o e r).cores := by grind [Machine.endEng]
grind_pattern endEng_canon => Machine.endEng s o e r
theorem putEng_canon (s : State) (id : Nat) (e : EngState) (hc : canon s.mem s.cores) : canon (Machine.putEng s id e).mem
    (Machine.putEng s id e).cores := by grind [Machine.putEng]
grind_pattern putEng_canon => Machine.putEng s id e
theorem writeEarly_canon (s : State) (g : Group) (o : Op) (e : EngState) (space : Nat) (ms : List EngMove) (piece : Nat)
    (hc : canon s.mem s.cores) (t : State) (ht : Machine.writeEarly s g o e space ms piece = some t) : canon t.mem t.cores := by grind [Machine.writeEarly]
grind_pattern writeEarly_canon => Machine.writeEarly s g o e space ms piece, State.mem t
theorem earlyPiece_canon (s : State) (o : Op) (e : EngState) (piece : Nat) (hc : canon s.mem s.cores) : canon
    (Machine.earlyPiece s o e piece).mem (Machine.earlyPiece s o e piece).cores := by
  unfold Machine.earlyPiece
  have key (x : Option State) (h : ∀ t, x = some t → canon t.mem t.cores) : canon (x.getD s).mem (x.getD s).cores := by
    cases x with
    | none => exact hc
    | some t => exact h t rfl
  split
  · exact hc
  · next g _ =>
    simp only []
    split
    · exact hc
    · split
      · exact hc
      · next h => exact key _ fun t ht => writeEarly_canon _ _ _ _ _ _ _ (by grind) t ht
grind_pattern earlyPiece_canon => Machine.earlyPiece s o e piece
theorem completeSyncAdd_canon (s : State) (o : Op) (off : Nat) (n : Word) (hc : canon s.mem s.cores) : canon
    (Machine.completeSyncAdd s o off n).mem (Machine.completeSyncAdd s o off n).cores := by grind [Machine.completeSyncAdd]
grind_pattern completeSyncAdd_canon => Machine.completeSyncAdd s o off n
theorem execSyncWordPieceArrival_canon (op : Nat) (piece : Nat) (s : State) (hc : canon s.mem s.cores) (t : State)
    (ht : Machine.execSyncWordPieceArrival op piece s = .next t) : canon t.mem t.cores := by grind [Machine.execSyncWordPieceArrival]
grind_pattern execSyncWordPieceArrival_canon => Machine.execSyncWordPieceArrival op piece s, State.mem t
theorem reserve_canon (s : State) (g : Group) (c : Ctx) (e : EngState)
    (ranges : State →   Group →     Ctx → EngState → State × List (Nat × Nat))
    (h_ranges : ∀ ranges0 ranges1 ranges2 ranges3, canon ranges0.mem ranges0.cores → canon (ranges ranges0 ranges1 ranges2 ranges3).1.mem (ranges ranges0 ranges1 ranges2 ranges3).1.cores)
    (hc : canon s.mem s.cores) : canon (Machine.reserve s g c e ranges).1.mem (Machine.reserve s g c e ranges).1.cores := by grind [Machine.reserve]
grind_pattern reserve_canon => Machine.reserve s g c e ranges
theorem issueEng_canon (fn : EngFn) (o : EngOp) (ranges : State →   Group →     Ctx → EngState → State × List (Nat × Nat))
    (after : State → Op → EngState → State) (s : State) (g : Group) (t : Thread)
    (h_ranges : ∀ ranges0 ranges1 ranges2 ranges3, canon ranges0.mem ranges0.cores → canon (ranges ranges0 ranges1 ranges2 ranges3).1.mem (ranges ranges0 ranges1 ranges2 ranges3).1.cores)
    (h_after : ∀ after0 after1 after2, canon after0.mem after0.cores → canon (after after0 after1 after2).mem (after after0 after1 after2).cores)
    (hc : canon s.mem s.cores) : canon (Machine.issueEng fn o ranges after s g t).1.mem
    (Machine.issueEng fn o ranges after s g t).1.cores := by
  unfold Machine.issueEng
  (repeat' split) <;> grind
grind_pattern issueEng_canon => Machine.issueEng fn o ranges after s g t
theorem runEng_canon (fn : EngFn) (o : EngOp) (ranges : State →   Group →     Ctx → EngState → State × List (Nat × Nat))
    (after : State → Op → EngState → State) (s : State)
    (h_ranges : ∀ ranges0 ranges1 ranges2 ranges3, canon ranges0.mem ranges0.cores → canon (ranges ranges0 ranges1 ranges2 ranges3).1.mem (ranges ranges0 ranges1 ranges2 ranges3).1.cores)
    (h_after : ∀ after0 after1 after2, canon after0.mem after0.cores → canon (after after0 after1 after2).mem (after after0 after1 after2).cores)
    (hc : canon s.mem s.cores) : canon (Machine.runEng fn o ranges after s).mem (Machine.runEng fn o ranges after s).cores := by grind [Machine.runEng]
grind_pattern runEng_canon => Machine.runEng fn o ranges after s
theorem plainRanges_canon (s : State) (a1 : Group) (a2 : Ctx) (e : EngState) (hc : canon s.mem s.cores) : canon
    (Machine.plainRanges s a1 a2 e).1.mem (Machine.plainRanges s a1 a2 e).1.cores := by grind [Machine.plainRanges]
grind_pattern plainRanges_canon => Machine.plainRanges s a1 a2 e
theorem laterEng_canon (s : State) (a1 : Op) (a2 : EngState) (hc : canon s.mem s.cores) : canon (Machine.laterEng s a1 a2).mem
    (Machine.laterEng s a1 a2).cores := by grind [Machine.laterEng]
grind_pattern laterEng_canon => Machine.laterEng s a1 a2
theorem execEngCopy_canon (o : EngOp) (s : State) (hc : canon s.mem s.cores) (t : State) (ht : Machine.execEngCopy o s = .next t) :
    canon t.mem t.cores := by grind [Machine.execEngCopy]
grind_pattern execEngCopy_canon => Machine.execEngCopy o s, State.mem t
theorem execEngCopy2d_canon (o : EngOp) (s : State) (hc : canon s.mem s.cores) (t : State) (ht : Machine.execEngCopy2d o s = .next t) :
    canon t.mem t.cores := by grind [Machine.execEngCopy2d]
grind_pattern execEngCopy2d_canon => Machine.execEngCopy2d o s, State.mem t
theorem execEngGather_canon (o : EngOp) (s : State) (hc : canon s.mem s.cores) (t : State) (ht : Machine.execEngGather o s = .next t) :
    canon t.mem t.cores := by grind [Machine.execEngGather]
grind_pattern execEngGather_canon => Machine.execEngGather o s, State.mem t
theorem execEngScatter_canon (o : EngOp) (s : State) (hc : canon s.mem s.cores) (t : State) (ht : Machine.execEngScatter o s = .next t)
    : canon t.mem t.cores := by grind [Machine.execEngScatter]
grind_pattern execEngScatter_canon => Machine.execEngScatter o s, State.mem t
theorem execEngFill_canon (o : EngOp) (s : State) (hc : canon s.mem s.cores) (t : State) (ht : Machine.execEngFill o s = .next t) :
    canon t.mem t.cores := by grind [Machine.execEngFill]
grind_pattern execEngFill_canon => Machine.execEngFill o s, State.mem t
theorem sourceOf_canon (s : State) (o : Op) (e : EngState) (n : Nat) (hc : canon s.mem s.cores) : canon
    (Machine.sourceOf s o e n).1.mem (Machine.sourceOf s o e n).1.cores := by grind [Machine.sourceOf]
grind_pattern sourceOf_canon => Machine.sourceOf s o e n
theorem sourcesOf_canon (n : Nat) (a1 : List (Nat × Op × EngState)) (a2 : State) (hc : canon a2.mem a2.cores) : canon
    (Machine.sourcesOf n a1 a2).1.mem (Machine.sourcesOf n a1 a2).1.cores := by
  fun_induction Machine.sourcesOf <;> grind
grind_pattern sourcesOf_canon => Machine.sourcesOf n a1 a2
theorem endRound_canon (out : List (Byte × Bool)) (s : State) (x : Nat × Op × EngState) (hc : canon s.mem s.cores) : canon
    (Machine.endRound out s x).mem (Machine.endRound out s x).cores := by grind [Machine.endRound]
grind_pattern endRound_canon => Machine.endRound out s x
theorem runRound_canon (s : State) (fn : EngFn) (pa : Nat) (obj : Nat) (hc : canon s.mem s.cores) : canon
    (Machine.runRound s fn pa obj).mem (Machine.runRound s fn pa obj).cores := by grind [Machine.runRound]
grind_pattern runRound_canon => Machine.runRound s fn pa obj
theorem objectPiece_canon (s : State) (c : Ctx) (va : Nat) (hc : canon s.mem s.cores) : canon (Machine.objectPiece s c va).1.mem
    (Machine.objectPiece s c va).1.cores := by grind [Machine.objectPiece]
grind_pattern objectPiece_canon => Machine.objectPiece s c va
theorem arrive_canon (s : State) (o : Op) (e : EngState) (hc : canon s.mem s.cores) : canon (Machine.arrive s o e).mem
    (Machine.arrive s o e).cores := by grind [Machine.arrive]
grind_pattern arrive_canon => Machine.arrive s o e
theorem roundRanges_canon (s : State) (a1 : Group) (c : Ctx) (e : EngState) (hc : canon s.mem s.cores) : canon
    (Machine.roundRanges s a1 c e).1.mem (Machine.roundRanges s a1 c e).1.cores := by grind [Machine.roundRanges]
grind_pattern roundRanges_canon => Machine.roundRanges s a1 c e
theorem execEngAllred_canon (o : EngOp) (s : State) (hc : canon s.mem s.cores) (t : State) (ht : Machine.execEngAllred o s = .next t) :
    canon t.mem t.cores := by grind [Machine.execEngAllred]
grind_pattern execEngAllred_canon => Machine.execEngAllred o s, State.mem t
theorem execEngBcast_canon (o : EngOp) (s : State) (hc : canon s.mem s.cores) (t : State) (ht : Machine.execEngBcast o s = .next t) :
    canon t.mem t.cores := by grind [Machine.execEngBcast]
grind_pattern execEngBcast_canon => Machine.execEngBcast o s, State.mem t

/-! ## Rays -/

theorem readRec_canon (k : Tracer) (x : Trace) (va : Nat) (n : Nat) (hc : canon x.s.mem x.s.cores) : canon
    (Machine.readRec k x va n).1.s.mem (Machine.readRec k x va n).1.s.cores := by grind [Machine.readRec]
grind_pattern readRec_canon => Machine.readRec k x va n
theorem followRef_canon (k : Tracer) (bottom : Bool) (query : Bool) (level : Nat) (v : Nat) (c : Nat) (x : Trace)
    (hc : canon x.s.mem x.s.cores) : canon (Machine.followRef k bottom query level v c x).1.s.mem
    (Machine.followRef k bottom query level v c x).1.s.cores := by grind [Machine.followRef]
grind_pattern followRef_canon => Machine.followRef k bottom query level v c x
theorem kidsOf_canon (k : Tracer) (bottom : Bool) (query : Bool) (va : Nat) (level : Nat) (x : Trace) (hc : canon x.s.mem x.s.cores) :
    canon (Machine.kidsOf k bottom query va level x).1.s.mem (Machine.kidsOf k bottom query va level x).1.s.cores := by grind [Machine.kidsOf]
grind_pattern kidsOf_canon => Machine.kidsOf k bottom query va level x
theorem childrenOf_canon (k : Tracer) (bottom : Bool) (query : Bool) (va : Nat) (level : Nat) (x : Trace)
    (hc : canon x.s.mem x.s.cores) : canon (Machine.childrenOf k bottom query va level x).1.s.mem
    (Machine.childrenOf k bottom query va level x).1.s.cores := by grind [Machine.childrenOf]
grind_pattern childrenOf_canon => Machine.childrenOf k bottom query va level x
theorem hitChildren_canon (k : Tracer) (w : Work) (x : Trace) (hc : canon x.s.mem x.s.cores) : canon
    (Machine.hitChildren k w x).1.s.mem (Machine.hitChildren k w x).1.s.cores := by grind [Machine.hitChildren]
grind_pattern hitChildren_canon => Machine.hitChildren k w x
theorem testLeaf_canon (k : Tracer) (r : Ray) (a2 : Nat) (a3 : Nat) (a4 : Trace) (hc : canon a4.s.mem a4.s.cores) : canon
    (Machine.testLeaf k r a2 a3 a4).s.mem (Machine.testLeaf k r a2 a3 a4).s.cores := by
  fun_induction Machine.testLeaf <;> grind
grind_pattern testLeaf_canon => Machine.testLeaf k r a2 a3 a4
theorem enterChild_canon (k : Tracer) (level : Nat) (r : Ray) (c : Child) (x : Trace) (hc : canon x.s.mem x.s.cores) : canon
    (Machine.enterChild k level r c x).1.s.mem (Machine.enterChild k level r c x).1.s.cores := by grind [Machine.enterChild]
grind_pattern enterChild_canon => Machine.enterChild k level r c x
theorem pushLater_canon (w : Work) (h : List Child) (ordinal : Nat) (x : Trace) (hc : canon x.s.mem x.s.cores) : canon
    (Machine.pushLater w h ordinal x).s.mem (Machine.pushLater w h ordinal x).s.cores := by grind [Machine.pushLater]
grind_pattern pushLater_canon => Machine.pushLater w h ordinal x
theorem setTrail_canon (x : Trace) (level : Nat) (ordinal : Nat) (hc : canon x.s.mem x.s.cores) : canon
    (Machine.setTrail x level ordinal).s.mem (Machine.setTrail x level ordinal).s.cores := by grind [Machine.setTrail]
grind_pattern setTrail_canon => Machine.setTrail x level ordinal
theorem visitNode_canon (k : Tracer) (w : Work) (x : Trace) (hc : canon x.s.mem x.s.cores) : canon (Machine.visitNode k w x).1.s.mem
    (Machine.visitNode k w x).1.s.cores := by grind [Machine.visitNode]
grind_pattern visitNode_canon => Machine.visitNode k w x
theorem redescend_canon (k : Tracer) (a1 : List Nat) (a2 : Work) (a3 : Trace) (hc : canon a3.s.mem a3.s.cores) : canon
    (Machine.redescend k a1 a2 a3).s.mem (Machine.redescend k a1 a2 a3).s.cores := by
  fun_induction Machine.redescend <;> grind
grind_pattern redescend_canon => Machine.redescend k a1 a2 a3
theorem traceLoop_canon (k : Tracer) (root : Work) (a2 : Nat) (a3 : Option Work) (a4 : Trace) (hc : canon a4.s.mem a4.s.cores) : canon
    (Machine.traceLoop k root a2 a3 a4).s.mem (Machine.traceLoop k root a2 a3 a4).s.cores := by
  fun_induction Machine.traceLoop <;> grind
grind_pattern traceLoop_canon => Machine.traceLoop k root a2 a3 a4
theorem traceRay_canon (k : Tracer) (any : Bool) (x : RayRun) (i : Nat) (hc : canon x.s.mem x.s.cores) : canon
    (Machine.traceRay k any x i).s.mem (Machine.traceRay k any x i).s.cores := by grind [Machine.traceRay]
grind_pattern traceRay_canon => Machine.traceRay k any x i
theorem runTrace_canon (k : Tracer) (any : Bool) (s : State) (hc : canon s.mem s.cores) : canon (Machine.runTrace k any s).s.mem
    (Machine.runTrace k any s).s.cores := by grind [Machine.runTrace]
grind_pattern runTrace_canon => Machine.runTrace k any s
theorem runLaunch_canon (k : Tracer) (v : Nat) (bad : Bool) (s : State) (hc : canon s.mem s.cores) : canon
    (Machine.runLaunch k v bad s).s.mem (Machine.runLaunch k v bad s).s.cores := by grind [Machine.runLaunch]
grind_pattern runLaunch_canon => Machine.runLaunch k v bad s
theorem leafEntries_canon (k : Tracer) (a1 : Nat) (a2 : Nat) (a3 : Trace) (hc : canon a3.s.mem a3.s.cores) : canon
    (Machine.leafEntries k a1 a2 a3).1.s.mem (Machine.leafEntries k a1 a2 a3).1.s.cores := by
  fun_induction Machine.leafEntries <;> grind
grind_pattern leafEntries_canon => Machine.leafEntries k a1 a2 a3
theorem queryNode_canon (k : Tracer) (q : Box) (a2 : Nat) (a3 : Nat) (a4 : Nat) (a5 : Trace) (hc : canon a5.s.mem a5.s.cores) : canon
    (Machine.queryNode k q a2 a3 a4 a5).1.s.mem (Machine.queryNode k q a2 a3 a4 a5).1.s.cores := by
  fun_induction Machine.queryNode with
  | case1 => exact hc
  | case2 va level x n x' cs h y ih1 =>
    have hx : canon x'.s.mem x'.s.cores := by grind
    refine foldl_canon_trace1 (fun acc c hc => ?_) hx
    have := ih1 acc c hc
    (repeat' split) <;> grind
grind_pattern queryNode_canon => Machine.queryNode k q a2 a3 a4 a5
theorem runQuery_canon (k : Tracer) (s : State) (hc : canon s.mem s.cores) : canon (Machine.runQuery k s).s.mem
    (Machine.runQuery k s).s.cores := by grind [Machine.runQuery]
grind_pattern runQuery_canon => Machine.runQuery k s
theorem refitNode_canon (k : Tracer) (a1 : Nat) (a2 : Nat) (a3 : Nat) (a4 : Trace) (hc : canon a4.s.mem a4.s.cores) : canon
    (Machine.refitNode k a1 a2 a3 a4).1.s.mem (Machine.refitNode k a1 a2 a3 a4).1.s.cores := by
  fun_induction Machine.refitNode <;> grind
grind_pattern refitNode_canon => Machine.refitNode k a1 a2 a3 a4
theorem runRefit_canon (k : Tracer) (s : State) (hc : canon s.mem s.cores) : canon (Machine.runRefit k s).s.mem
    (Machine.runRefit k s).s.cores := by grind [Machine.runRefit]
grind_pattern runRefit_canon => Machine.runRefit k s
theorem rayResult_canon (k : Tracer) (s : State) (hc : canon s.mem s.cores) : canon (Machine.rayResult k s).1.mem
    (Machine.rayResult k s).1.cores := by grind [Machine.rayResult]
grind_pattern rayResult_canon => Machine.rayResult k s
theorem rayResult_run_canon {k : Tracer} {s s' : State} {x : RayRun} (hc : canon s.mem s.cores) (hr : Machine.rayResult k s = (s', .ok x)) :
    canon x.s.mem x.s.cores := by
  unfold Machine.rayResult at hr
  (repeat' split at hr) <;> grind
grind_pattern rayResult_run_canon => Machine.rayResult k s, (s', Except.ok (ε := EngEnd) x)
theorem unpin_canon (s : State) (id : Nat) (hc : canon s.mem s.cores) : canon (Machine.unpin s id).mem (Machine.unpin s id).cores := by grind [Machine.unpin]
grind_pattern unpin_canon => Machine.unpin s id
theorem pinNode_canon (s : State) (o : Op) (e : EngState) (n : Nat) (hc : canon s.mem s.cores) : canon (Machine.pinNode s o e n).mem
    (Machine.pinNode s o e n).cores := by grind [Machine.pinNode]
grind_pattern pinNode_canon => Machine.pinNode s o e n
theorem earlyRay_canon (s : State) (o : Op) (e : EngState) (piece : Nat) (hc : canon s.mem s.cores) : canon
    (Machine.earlyRay s o e piece).mem (Machine.earlyRay s o e piece).cores := by
  unfold Machine.earlyRay
  have key (x : Option State) (h : ∀ t, x = some t → canon t.mem t.cores) : canon (x.getD s).mem (x.getD s).cores := by
    cases x with
    | none => exact hc
    | some t => exact h t rfl
  split
  · exact hc
  · simp only []
    split
    · exact hc
    · next h =>
      split
      · exact key _ fun t ht => writeEarly_canon _ _ _ _ _ _ _ (by unfold Machine.rayPreview at h; grind) t ht
      · exact hc
grind_pattern earlyRay_canon => Machine.earlyRay s o e piece
theorem runRays_canon (s : State) (g : Group) (c : Ctx) (e : EngState) (id : Nat) (hc : canon s.mem s.cores) : canon
    (Machine.runRays s g c e id).1.mem (Machine.runRays s g c e id).1.cores := by grind [Machine.runRays]
grind_pattern runRays_canon => Machine.runRays s g c e id
theorem rayRanges_canon (s : State) (g : Group) (c : Ctx) (e : EngState) (hc : canon s.mem s.cores) : canon
    (Machine.rayRanges s g c e).1.mem (Machine.rayRanges s g c e).1.cores := by grind [Machine.rayRanges]
grind_pattern rayRanges_canon => Machine.rayRanges s g c e
theorem execEngRtrace_canon (o : EngOp) (s : State) (hc : canon s.mem s.cores) (t : State) (ht : Machine.execEngRtrace o s = .next t) :
    canon t.mem t.cores := by grind [Machine.execEngRtrace]
grind_pattern execEngRtrace_canon => Machine.execEngRtrace o s, State.mem t
theorem execEngRany_canon (o : EngOp) (s : State) (hc : canon s.mem s.cores) (t : State) (ht : Machine.execEngRany o s = .next t) :
    canon t.mem t.cores := by grind [Machine.execEngRany]
grind_pattern execEngRany_canon => Machine.execEngRany o s, State.mem t
theorem execEngRlaunch_canon (o : EngOp) (s : State) (hc : canon s.mem s.cores) (t : State) (ht : Machine.execEngRlaunch o s = .next t)
    : canon t.mem t.cores := by grind [Machine.execEngRlaunch]
grind_pattern execEngRlaunch_canon => Machine.execEngRlaunch o s, State.mem t
theorem execEngBquery_canon (o : EngOp) (s : State) (hc : canon s.mem s.cores) (t : State) (ht : Machine.execEngBquery o s = .next t) :
    canon t.mem t.cores := by grind [Machine.execEngBquery]
grind_pattern execEngBquery_canon => Machine.execEngBquery o s, State.mem t
theorem execEngBrefit_canon (o : EngOp) (s : State) (hc : canon s.mem s.cores) (t : State) (ht : Machine.execEngBrefit o s = .next t) :
    canon t.mem t.cores := by grind [Machine.execEngBrefit]
grind_pattern execEngBrefit_canon => Machine.execEngBrefit o s, State.mem t
theorem completeEng_canon (s : State) (o : Op) (e : EngState) (hc : canon s.mem s.cores) : canon (Machine.completeEng s o e).mem
    (Machine.completeEng s o e).cores := by grind [Machine.completeEng]
grind_pattern completeEng_canon => Machine.completeEng s o e
theorem execEngineOperationCompletion_canon (op : Nat) (s : State) (hc : canon s.mem s.cores) (t : State)
    (ht : Machine.execEngineOperationCompletion op s = .next t) : canon t.mem t.cores := by grind [Machine.execEngineOperationCompletion]
grind_pattern execEngineOperationCompletion_canon => Machine.execEngineOperationCompletion op s, State.mem t

/-! ## Invalidate -/

theorem execInvalidateWindowPiece_canon (part : Nat) (die : Nat) (writer : Nat) (piece : Nat) (data : DWord) (s : State)
    (hc : canon s.mem s.cores) (t : State) (ht : Machine.execInvalidateWindowPiece part die writer piece data s = .next t) : canon
    t.mem t.cores := by grind [Machine.execInvalidateWindowPiece]
grind_pattern execInvalidateWindowPiece_canon => Machine.execInvalidateWindowPiece part die writer piece data s, State.mem t
theorem dropEntries_canon (s : State) (die : Nat) (part : Nat) (c : InvCmd) (hc : canon s.mem s.cores) : canon
    (Machine.dropEntries s die part c).1.mem (Machine.dropEntries s die part c).1.cores := by grind [Machine.dropEntries]
grind_pattern dropEntries_canon => Machine.dropEntries s die part c
theorem dropCoreLines_canon (part : Nat) (c : InvCmd) (s : State) (core : Nat) (hc : canon s.mem s.cores) : canon
    (Machine.dropCoreLines part c s core).mem (Machine.dropCoreLines part c s core).cores := by grind [Machine.dropCoreLines]
grind_pattern dropCoreLines_canon => Machine.dropCoreLines part c s core
theorem dropReplicas_canon (s : State) (ranges : List (Nat × Nat)) (hc : canon s.mem s.cores) : canon
    (Machine.dropReplicas s ranges).mem (Machine.dropReplicas s ranges).cores := by grind [Machine.dropReplicas]
grind_pattern dropReplicas_canon => Machine.dropReplicas s ranges
theorem unpinLines_canon (s : State) (part : Nat) (c : InvCmd) (hc : canon s.mem s.cores) : canon (Machine.unpinLines s part c).1.mem
    (Machine.unpinLines s part c).1.cores := by grind [Machine.unpinLines]
grind_pattern unpinLines_canon => Machine.unpinLines s part c
theorem finishOld_canon (s : State) (part : Nat) (c : InvCmd) (hc : canon s.mem s.cores) : canon (Machine.finishOld s part c).mem
    (Machine.finishOld s part c).cores := by grind [Machine.finishOld]
grind_pattern finishOld_canon => Machine.finishOld s part c
theorem performInvalidate_canon (s : State) (die : Nat) (part : Nat) (c : InvCmd) (hc : canon s.mem s.cores) : canon
    (Machine.performInvalidate s die part c).mem (Machine.performInvalidate s die part c).cores := by grind [Machine.performInvalidate]
grind_pattern performInvalidate_canon => Machine.performInvalidate s die part c
theorem nextInvalidate_canon (op : Nat) (die : Nat) (part : Nat) (s : State) (hc : canon s.mem s.cores) : canon
    (Machine.nextInvalidate op die part s).mem (Machine.nextInvalidate op die part s).cores := by grind [Machine.nextInvalidate]
grind_pattern nextInvalidate_canon => Machine.nextInvalidate op die part s
theorem execInvalidateRange_canon (die : Nat) (part : Nat) (s : State) (hc : canon s.mem s.cores) (t : State)
    (ht : Machine.execInvalidateRange die part s = .next t) : canon t.mem t.cores := by grind [Machine.execInvalidateRange]
grind_pattern execInvalidateRange_canon => Machine.execInvalidateRange die part s, State.mem t
theorem execInvalidateAsid_canon (die : Nat) (part : Nat) (s : State) (hc : canon s.mem s.cores) (t : State)
    (ht : Machine.execInvalidateAsid die part s = .next t) : canon t.mem t.cores := by grind [Machine.execInvalidateAsid]
grind_pattern execInvalidateAsid_canon => Machine.execInvalidateAsid die part s, State.mem t
theorem execInvalidatePartition_canon (die : Nat) (part : Nat) (s : State) (hc : canon s.mem s.cores) (t : State)
    (ht : Machine.execInvalidatePartition die part s = .next t) : canon t.mem t.cores := by grind [Machine.execInvalidatePartition]
grind_pattern execInvalidatePartition_canon => Machine.execInvalidatePartition die part s, State.mem t

/-! ## Phases -/

theorem openBarrier_canon (gk : Nat) (s : State) (b : Nat) (hc : canon s.mem s.cores) : canon (Machine.openBarrier gk s b).mem
    (Machine.openBarrier gk s b).cores := by grind [Machine.openBarrier]
grind_pattern openBarrier_canon => Machine.openBarrier gk s b
theorem openBarriers_canon (s : State) (gk : Nat) (hc : canon s.mem s.cores) : canon (Machine.openBarriers s gk).mem
    (Machine.openBarriers s gk).cores := by grind [Machine.openBarriers]
grind_pattern openBarriers_canon => Machine.openBarriers s gk
theorem arriveAt_canon (s : State) (gk : Nat) (tid : Nat) (b : Nat) (hc : canon s.mem s.cores) : canon
    (Machine.arriveAt s gk tid b).mem (Machine.arriveAt s gk tid b).cores := by grind [Machine.arriveAt]
grind_pattern arriveAt_canon => Machine.arriveAt s gk tid b
theorem endStep_canon (s : State) (gk : Nat) (hc : canon s.mem s.cores) : canon (Machine.endStep s gk).mem (Machine.endStep s gk).cores := by grind [Machine.endStep]
grind_pattern endStep_canon => Machine.endStep s gk
theorem frameUpdate_canon (s : State) (g : Group) (f : Nat → Nat) (hc : canon s.mem s.cores) : canon (Machine.frameUpdate s g f).mem
    (Machine.frameUpdate s g f).cores := by grind [Machine.frameUpdate]
grind_pattern frameUpdate_canon => Machine.frameUpdate s g f
theorem frameRead_canon (s : State) (g : Group) (hc : canon s.mem s.cores) : canon (Machine.frameRead s g).1.mem
    (Machine.frameRead s g).1.cores := by grind [Machine.frameRead]
grind_pattern frameRead_canon => Machine.frameRead s g
theorem groupExit_canon (s : State) (gk : Nat) (hc : canon s.mem s.cores) : canon (Machine.groupExit s gk).mem
    (Machine.groupExit s gk).cores := by grind [Machine.groupExit]
grind_pattern groupExit_canon => Machine.groupExit s gk
theorem exitThread_canon (s : State) (gk : Nat) (tid : Nat) (hc : canon s.mem s.cores) : canon (Machine.exitThread s gk tid).mem
    (Machine.exitThread s gk tid).cores := by grind [Machine.exitThread]
grind_pattern exitThread_canon => Machine.exitThread s gk tid
theorem childDone_canon (s : State) (part : Nat) (world : Bool) (frame : Nat) (failed : Bool) (hc : canon s.mem s.cores) : canon
    (Machine.childDone s part world frame failed).mem (Machine.childDone s part world frame failed).cores := by grind [Machine.childDone]
grind_pattern childDone_canon => Machine.childDone s part world frame failed
theorem convFault_canon (s : State) (gk : Nat) (xs : List Faulting) (hc : canon s.mem s.cores) : canon (Machine.convFault s gk xs).mem
    (Machine.convFault s gk xs).cores := by grind [Machine.convFault]
grind_pattern convFault_canon => Machine.convFault s gk xs
theorem groupFault_canon (s : State) (gk : Nat) (f : FaultInfo) (hc : canon s.mem s.cores) : canon (Machine.groupFault s gk f).mem
    (Machine.groupFault s gk f).cores := by grind [Machine.groupFault]
grind_pattern groupFault_canon => Machine.groupFault s gk f
theorem clearDeferred_canon (s : State) (xs : List Faulting) (sel : Nat → Bool) (hc : canon s.mem s.cores) : canon
    (Machine.clearDeferred s xs sel).mem (Machine.clearDeferred s xs sel).cores := by grind [Machine.clearDeferred]
grind_pattern clearDeferred_canon => Machine.clearDeferred s xs sel
theorem endPhase_canon (s : State) (gk : Nat) (rpc : DWord) (hdr : DWord) (n : Nat) (wobj : Nat) (hc : canon s.mem s.cores) : canon
    (Machine.endPhase s gk rpc hdr n wobj).mem (Machine.endPhase s gk rpc hdr n wobj).cores := by grind [Machine.endPhase]
grind_pattern endPhase_canon => Machine.endPhase s gk rpc hdr n wobj
theorem convGroup_canon (f : State → Group → GroupOut) (r : State × List Nat) (gk : Nat)
    (h_f : ∀ f0 f1, canon f0.mem f0.cores → canon (outState (f f0 f1)).mem (outState (f f0 f1)).cores) (hc : canon r.1.mem r.1.cores) :
    canon (Machine.convGroup f r gk).1.mem (Machine.convGroup f r gk).1.cores := by grind [Machine.convGroup]
grind_pattern convGroup_canon => Machine.convGroup f r gk
theorem closeConv_canon (i : Issue) (fin : State → State) (r : State × List Nat)
    (h_fin : ∀ fin0, canon fin0.mem fin0.cores → canon (fin fin0).mem (fin fin0).cores) (hc : canon r.1.mem r.1.cores) : canon
    (Machine.closeConv i fin r).mem (Machine.closeConv i fin r).cores := by grind [Machine.closeConv]
grind_pattern closeConv_canon => Machine.closeConv i fin r
theorem runConv_canon (s : State) (fin : State → State) (f : State → Group → GroupOut)
    (h_fin : ∀ fin0, canon fin0.mem fin0.cores → canon (fin fin0).mem (fin fin0).cores)
    (h_f : ∀ f0 f1, canon f0.mem f0.cores → canon (outState (f f0 f1)).mem (outState (f f0 f1)).cores) (hc : canon s.mem s.cores) :
    canon (Machine.runConv s fin f).mem (Machine.runConv s fin f).cores := by grind [Machine.runConv]
grind_pattern runConv_canon => Machine.runConv s fin f
theorem pastTwo_canon (s : State) (hc : canon s.mem s.cores) : canon (Machine.pastTwo s).mem (Machine.pastTwo s).cores := by grind [Machine.pastTwo]
grind_pattern pastTwo_canon => Machine.pastTwo s
theorem runGroup_canon (s : State) (gd : Guard) (f : State → Group → List Thread → GroupOut)
    (h_f : ∀ f0 f1 f2, canon f0.mem f0.cores → canon (outState (f f0 f1 f2)).mem (outState (f f0 f1 f2)).cores)
    (hc : canon s.mem s.cores) : canon (Machine.runGroup s gd f).mem (Machine.runGroup s gd f).cores := by grind [Machine.runGroup]
grind_pattern runGroup_canon => Machine.runGroup s gd f

/-! ## Objects -/

theorem settleObject_canon (s : State) (g : Group) (c : Ctx) (ps : List Piece) (hc : canon s.mem s.cores) : canon
    (Machine.settleObject s g c ps).mem (Machine.settleObject s g c ps).cores := by grind [Machine.settleObject]
grind_pattern settleObject_canon => Machine.settleObject s g c ps
theorem objectRead_canon (s : State) (g : Group) (t : Thread) (va : Nat) (n : Nat) (acc : Acc) (hc : canon s.mem s.cores) : canon
    (Machine.objectRead s g t va n acc).1.mem (Machine.objectRead s g t va n acc).1.cores := by grind [Machine.objectRead]
grind_pattern objectRead_canon => Machine.objectRead s g t va n acc
theorem readObject_canon (s : State) (g : Group) (t : Thread) (o : TaskOp) (size : Nat) (acc : Acc) (hc : canon s.mem s.cores) : canon
    (Machine.readObject s g t o size acc).1.mem (Machine.readObject s g t o size acc).1.cores := by grind [Machine.readObject]
grind_pattern readObject_canon => Machine.readObject s g t o size acc
theorem writeObject_canon (s : State) (g : Group) (va : Nat) (size : Nat) (v : Nat) (hc : canon s.mem s.cores) : canon
    (Machine.writeObject s g va size v).mem (Machine.writeObject s g va size v).cores := by grind [Machine.writeObject]
grind_pattern writeObject_canon => Machine.writeObject s g va size v
theorem waitReady_canon (s : State) (part : Nat) (task : Nat) (gid : Nat) (k : WaitKind) (v : Nat) (hc : canon s.mem s.cores) : canon
    (Machine.waitReady s part task gid k v).1.mem (Machine.waitReady s part task gid k v).1.cores := by
  unfold Machine.waitReady
  (repeat' split) <;> grind
grind_pattern waitReady_canon => Machine.waitReady s part task gid k v
theorem objectReady_canon (s : State) (gk : Nat) (k : WaitKind) (obj : Nat) (part : Nat) (world : Bool) (hc : canon s.mem s.cores) :
    canon (Machine.objectReady s gk k obj part world).1.mem (Machine.objectReady s gk k obj part world).1.cores := by grind [Machine.objectReady]
grind_pattern objectReady_canon => Machine.objectReady s gk k obj part world
theorem objectOwner_canon (s : State) (gk : Nat) (k : WaitKind) (obj : Nat) (part : Nat) (world : Bool) (hc : canon s.mem s.cores) :
    canon (Machine.objectOwner s gk k obj part world).1.mem (Machine.objectOwner s gk k obj part world).1.cores := by
  unfold Machine.objectOwner
  grind
grind_pattern objectOwner_canon => Machine.objectOwner s gk k obj part world
theorem markFailed_canon (s : State) (k : WaitKind) (obj : Nat) (part : Nat) (world : Bool) (hc : canon s.mem s.cores) : canon
    (Machine.markFailed s k obj part world).mem (Machine.markFailed s k obj part world).cores := by grind [Machine.markFailed]
grind_pattern markFailed_canon => Machine.markFailed s k obj part world
theorem retest_canon (s : State) (ws : List Waiter) (hc : canon s.mem s.cores) : canon (Machine.retest s ws).mem
    (Machine.retest s ws).cores := by grind [Machine.retest]
grind_pattern retest_canon => Machine.retest s ws

/-! ## Registers -/

theorem writeEvent_canon (s : State) (part : Nat) (code : Nat) (n : Nat) (v : Word) (hc : canon s.mem s.cores) : canon
    (Machine.writeEvent s part code n v).mem (Machine.writeEvent s part code n v).cores := by grind [Machine.writeEvent]
grind_pattern writeEvent_canon => Machine.writeEvent s part code n v
theorem l2placeWrite_canon (s : State) (v : Word) (hc : canon s.mem s.cores) : canon (Machine.l2placeWrite s v).mem
    (Machine.l2placeWrite s v).cores := by grind [Machine.l2placeWrite]
grind_pattern l2placeWrite_canon => Machine.l2placeWrite s v
theorem outputTiming_canon (s : State) (o : Nat) (i : Nat) (v : Word) (hc : canon s.mem s.cores) : canon
    (Machine.outputTiming s o i v).mem (Machine.outputTiming s o i v).cores := by grind [Machine.outputTiming]
grind_pattern outputTiming_canon => Machine.outputTiming s o i v
theorem pstateWrite_canon (s : State) (v : Word) (hc : canon s.mem s.cores) : canon (Machine.pstateWrite s v).mem
    (Machine.pstateWrite s v).cores := by grind [Machine.pstateWrite]
grind_pattern pstateWrite_canon => Machine.pstateWrite s v
theorem cgateWrite_canon (s : State) (v : Word) (hc : canon s.mem s.cores) : canon (Machine.cgateWrite s v).mem
    (Machine.cgateWrite s v).cores := by grind [Machine.cgateWrite]
grind_pattern cgateWrite_canon => Machine.cgateWrite s v
theorem checkCap_canon (s : State) (hc : canon s.mem s.cores) : canon (Machine.checkCap s).mem (Machine.checkCap s).cores := by grind [Machine.checkCap]
grind_pattern checkCap_canon => Machine.checkCap s
theorem powerWrite_canon (s : State) (n : Nat) (v : Word) (hc : canon s.mem s.cores) : canon (Machine.powerWrite s n v).mem
    (Machine.powerWrite s n v).cores := by
  unfold Machine.powerWrite
  grind
grind_pattern powerWrite_canon => Machine.powerWrite s n v
theorem pcselWrite_canon (s : State) (who : Writer) (n : Nat) (v : Word) (hc : canon s.mem s.cores) : canon
    (Machine.pcselWrite s who n v).mem (Machine.pcselWrite s who n v).cores := by
  unfold Machine.pcselWrite
  grind
grind_pattern pcselWrite_canon => Machine.pcselWrite s who n v
theorem flushPart_canon (s : State) (p : Nat) (hc : canon s.mem s.cores) : canon (Machine.flushPart s p).mem
    (Machine.flushPart s p).cores := by grind [Machine.flushPart]
grind_pattern flushPart_canon => Machine.flushPart s p
theorem discardCaches_canon (s : State) (p : Nat) (hc : canon s.mem s.cores) : canon (Machine.discardCaches s p).mem
    (Machine.discardCaches s p).cores := by grind [Machine.discardCaches]
grind_pattern discardCaches_canon => Machine.discardCaches s p
theorem endPartition_canon (s : State) (p : Nat) (hc : canon s.mem s.cores) : canon (Machine.endPartition s p).mem
    (Machine.endPartition s p).cores := by grind [Machine.endPartition]
grind_pattern endPartition_canon => Machine.endPartition s p
theorem pctlWrite_canon (s : State) (p : Nat) (v : Word) (hc : canon s.mem s.cores) : canon (Machine.pctlWrite s p v).mem
    (Machine.pctlWrite s p v).cores := by grind [Machine.pctlWrite]
grind_pattern pctlWrite_canon => Machine.pctlWrite s p v
theorem pbwWrite_canon (s : State) (p : Nat) (v : Word) (hc : canon s.mem s.cores) : canon (Machine.pbwWrite s p v).mem
    (Machine.pbwWrite s p v).cores := by grind [Machine.pbwWrite]
grind_pattern pbwWrite_canon => Machine.pbwWrite s p v
theorem confWrite_canon (s : State) (who : Writer) (p : Nat) (i : Nat) (v : Word) (hc : canon s.mem s.cores) : canon
    (Machine.confWrite s who p i v).mem (Machine.confWrite s who p i v).cores := by
  unfold Machine.confWrite
  grind
grind_pattern confWrite_canon => Machine.confWrite s who p i v
theorem dropFaultRec_canon (s : State) (p : Nat) (seq : Word) (hc : canon s.mem s.cores) : canon (Machine.dropFaultRec s p seq).mem
    (Machine.dropFaultRec s p seq).cores := by grind [Machine.dropFaultRec]
grind_pattern dropFaultRec_canon => Machine.dropFaultRec s p seq
theorem replayRecord_canon (s : State) (p : Nat) (seq : Word) (hc : canon s.mem s.cores) : canon (Machine.replayRecord s p seq).mem
    (Machine.replayRecord s p seq).cores := by grind [Machine.replayRecord]
grind_pattern replayRecord_canon => Machine.replayRecord s p seq
theorem killRecord_canon (s : State) (p : Nat) (seq : Word) (hc : canon s.mem s.cores) : canon (Machine.killRecord s p seq).mem
    (Machine.killRecord s p seq).cores := by grind [Machine.killRecord]
grind_pattern killRecord_canon => Machine.killRecord s p seq
theorem routeWrite_canon (s : State) (who : Writer) (p : Nat) (i : Nat) (v : Word) (hc : canon s.mem s.cores) : canon
    (Machine.routeWrite s who p i v).mem (Machine.routeWrite s who p i v).cores := by
  unfold Machine.routeWrite
  grind
grind_pattern routeWrite_canon => Machine.routeWrite s who p i v
theorem deviceWrite_canon (s : State) (who : Writer) (n : Nat) (v : Word) (hc : canon s.mem s.cores) : canon
    (Machine.deviceWrite s who n v).mem (Machine.deviceWrite s who n v).cores := by grind [Machine.deviceWrite]
grind_pattern deviceWrite_canon => Machine.deviceWrite s who n v

/-! ## Matrix -/

theorem enqueueCommand_canon (s : State) (g : Group) (o : MatOp) (cmd : MCmd) (hc : canon s.mem s.cores) : canon
    (Machine.enqueueCommand s g o cmd).mem (Machine.enqueueCommand s g o cmd).cores := by grind [Machine.enqueueCommand]
grind_pattern enqueueCommand_canon => Machine.enqueueCommand s g o cmd
theorem issueMatrix_canon (o : MatOp) (instr : Instr) (plan : List MHeader → MatPlan)
    (claim : State →   Group → Option Nat × List MHeader → Option Nat × List MHeader) (s : State) (g : Group)
    (hc : canon s.mem s.cores) : canon (outState (Machine.issueMatrix o instr plan claim s g)).mem
    (outState (Machine.issueMatrix o instr plan claim s g)).cores := by grind [Machine.issueMatrix]
grind_pattern issueMatrix_canon => Machine.issueMatrix o instr plan claim s g
theorem runMatrix_canon (s : State) (o : MatOp) (instr : Instr) (plan : List MHeader → MatPlan)
    (claim : optParam   (State →     Group → Option Nat × List MHeader → Option Nat × List MHeader)   fun x x_1 x_2 => x_2)
    (hc : canon s.mem s.cores) : canon (Machine.runMatrix s o instr plan claim).mem (Machine.runMatrix s o instr plan claim).cores := by grind [Machine.runMatrix]
grind_pattern runMatrix_canon => Machine.runMatrix s o instr plan claim
theorem execMclaim_canon (o : MatOp) (s : State) (hc : canon s.mem s.cores) (t : State) (ht : Machine.execMclaim o s = .next t) : canon
    t.mem t.cores := by grind [Machine.execMclaim]
grind_pattern execMclaim_canon => Machine.execMclaim o s, State.mem t
theorem execMrel_canon (o : MatOp) (s : State) (hc : canon s.mem s.cores) (t : State) (ht : Machine.execMrel o s = .next t) : canon
    t.mem t.cores := by grind [Machine.execMrel]
grind_pattern execMrel_canon => Machine.execMrel o s, State.mem t
theorem execMld_canon (o : MatOp) (s : State) (hc : canon s.mem s.cores) (t : State) (ht : Machine.execMld o s = .next t) : canon t.mem
    t.cores := by grind [Machine.execMld]
grind_pattern execMld_canon => Machine.execMld o s, State.mem t
theorem execMst_canon (o : MatOp) (s : State) (hc : canon s.mem s.cores) (t : State) (ht : Machine.execMst o s = .next t) : canon t.mem
    t.cores := by grind [Machine.execMst]
grind_pattern execMst_canon => Machine.execMst o s, State.mem t
theorem execMzero_canon (o : MatOp) (s : State) (hc : canon s.mem s.cores) (t : State) (ht : Machine.execMzero o s = .next t) : canon
    t.mem t.cores := by grind [Machine.execMzero]
grind_pattern execMzero_canon => Machine.execMzero o s, State.mem t
theorem execMhdrFmt_canon (o : MatOp) (s : State) (hc : canon s.mem s.cores) (t : State) (ht : Machine.execMhdrFmt o s = .next t) :
    canon t.mem t.cores := by grind [Machine.execMhdrFmt]
grind_pattern execMhdrFmt_canon => Machine.execMhdrFmt o s, State.mem t
theorem execMhdrKey_canon (o : MatOp) (s : State) (hc : canon s.mem s.cores) (t : State) (ht : Machine.execMhdrKey o s = .next t) :
    canon t.mem t.cores := by grind [Machine.execMhdrKey]
grind_pattern execMhdrKey_canon => Machine.execMhdrKey o s, State.mem t
theorem execMhdrWc_canon (o : MatOp) (s : State) (hc : canon s.mem s.cores) (t : State) (ht : Machine.execMhdrWc o s = .next t) : canon
    t.mem t.cores := by grind [Machine.execMhdrWc]
grind_pattern execMhdrWc_canon => Machine.execMhdrWc o s, State.mem t
theorem execMhdrSofs_canon (o : MatOp) (s : State) (hc : canon s.mem s.cores) (t : State) (ht : Machine.execMhdrSofs o s = .next t) :
    canon t.mem t.cores := by grind [Machine.execMhdrSofs]
grind_pattern execMhdrSofs_canon => Machine.execMhdrSofs o s, State.mem t
theorem execMhdrSt_canon (o : MatOp) (s : State) (hc : canon s.mem s.cores) (t : State) (ht : Machine.execMhdrSt o s = .next t) : canon
    t.mem t.cores := by grind [Machine.execMhdrSt]
grind_pattern execMhdrSt_canon => Machine.execMhdrSt o s, State.mem t
theorem execMmul_canon (o : MatOp) (s : State) (hc : canon s.mem s.cores) (t : State) (ht : Machine.execMmul o s = .next t) : canon
    t.mem t.cores := by grind [Machine.execMmul]
grind_pattern execMmul_canon => Machine.execMmul o s, State.mem t
theorem execMadd_canon (o : MatOp) (s : State) (hc : canon s.mem s.cores) (t : State) (ht : Machine.execMadd o s = .next t) : canon
    t.mem t.cores := by grind [Machine.execMadd]
grind_pattern execMadd_canon => Machine.execMadd o s, State.mem t
theorem execMsub_canon (o : MatOp) (s : State) (hc : canon s.mem s.cores) (t : State) (ht : Machine.execMsub o s = .next t) : canon
    t.mem t.cores := by grind [Machine.execMsub]
grind_pattern execMsub_canon => Machine.execMsub o s, State.mem t
theorem execMscale_canon (o : MatOp) (s : State) (hc : canon s.mem s.cores) (t : State) (ht : Machine.execMscale o s = .next t) : canon
    t.mem t.cores := by grind [Machine.execMscale]
grind_pattern execMscale_canon => Machine.execMscale o s, State.mem t
theorem execMtrn_canon (o : MatOp) (s : State) (hc : canon s.mem s.cores) (t : State) (ht : Machine.execMtrn o s = .next t) : canon
    t.mem t.cores := by grind [Machine.execMtrn]
grind_pattern execMtrn_canon => Machine.execMtrn o s, State.mem t
theorem execMrecomp_canon (o : MatOp) (s : State) (hc : canon s.mem s.cores) (t : State) (ht : Machine.execMrecomp o s = .next t) :
    canon t.mem t.cores := by grind [Machine.execMrecomp]
grind_pattern execMrecomp_canon => Machine.execMrecomp o s, State.mem t
theorem execMdense_canon (o : MatOp) (s : State) (hc : canon s.mem s.cores) (t : State) (ht : Machine.execMdense o s = .next t) : canon
    t.mem t.cores := by grind [Machine.execMdense]
grind_pattern execMdense_canon => Machine.execMdense o s, State.mem t
theorem execMrank_canon (o : MatOp) (s : State) (hc : canon s.mem s.cores) (t : State) (ht : Machine.execMrank o s = .next t) : canon
    t.mem t.cores := by grind [Machine.execMrank]
grind_pattern execMrank_canon => Machine.execMrank o s, State.mem t
theorem execMnorm_canon (o : MatOp) (s : State) (hc : canon s.mem s.cores) (t : State) (ht : Machine.execMnorm o s = .next t) : canon
    t.mem t.cores := by grind [Machine.execMnorm]
grind_pattern execMnorm_canon => Machine.execMnorm o s, State.mem t
theorem execMma_canon (o : MatOp) (s : State) (hc : canon s.mem s.cores) (t : State) (ht : Machine.execMma o s = .next t) : canon t.mem
    t.cores := by grind [Machine.execMma]
grind_pattern execMma_canon => Machine.execMma o s, State.mem t
theorem execZld_canon (o : MatOp) (s : State) (hc : canon s.mem s.cores) (t : State) (ht : Machine.execZld o s = .next t) : canon t.mem
    t.cores := by grind [Machine.execZld]
grind_pattern execZld_canon => Machine.execZld o s, State.mem t
theorem execZst_canon (o : MatOp) (s : State) (hc : canon s.mem s.cores) (t : State) (ht : Machine.execZst o s = .next t) : canon t.mem
    t.cores := by grind [Machine.execZst]
grind_pattern execZst_canon => Machine.execZst o s, State.mem t
theorem execZcvt_canon (o : MatOp) (s : State) (hc : canon s.mem s.cores) (t : State) (ht : Machine.execZcvt o s = .next t) : canon
    t.mem t.cores := by grind [Machine.execZcvt]
grind_pattern execZcvt_canon => Machine.execZcvt o s, State.mem t
theorem execZzero_canon (o : MatOp) (s : State) (hc : canon s.mem s.cores) (t : State) (ht : Machine.execZzero o s = .next t) : canon
    t.mem t.cores := by grind [Machine.execZzero]
grind_pattern execZzero_canon => Machine.execZzero o s, State.mem t
theorem claimWrite_canon (core : Nat) (h : MHeader) (s : State) (p : Nat × List Byte) (hc : canon s.mem s.cores) : canon
    (Machine.claimWrite core h s p).mem (Machine.claimWrite core h s p).cores := by grind [Machine.claimWrite]
grind_pattern claimWrite_canon => Machine.claimWrite core h s p
theorem tileWrite_canon (s : State) (core : Nat) (z : Nat) (cs : List Nat) (hc : canon s.mem s.cores) : canon
    (Machine.tileWrite s core z cs).mem (Machine.tileWrite s core z cs).cores := by grind [Machine.tileWrite]
grind_pattern tileWrite_canon => Machine.tileWrite s core z cs
theorem putHdr_canon (s : State) (gk : Nat) (md : BitVec 5) (f : MHeader → MHeader) (hc : canon s.mem s.cores) : canon
    (Machine.putHdr s gk md f).mem (Machine.putHdr s gk md f).cores := by grind [Machine.putHdr]
grind_pattern putHdr_canon => Machine.putHdr s gk md f
theorem writeValue_canon (s : State) (g : Group) (md : BitVec 5) (tag : Nat) (sat : Bool) (v : MatVal) (hc : canon s.mem s.cores) :
    canon (Machine.writeValue s g md tag sat v).mem (Machine.writeValue s g md tag sat v).cores := by grind [Machine.writeValue]
grind_pattern writeValue_canon => Machine.writeValue s g md tag sat v
theorem writeKept_canon (s : State) (g : Group) (md : BitVec 5) (v : MatVal) (hc : canon s.mem s.cores) : canon
    (Machine.writeKept s g md v).mem (Machine.writeKept s g md v).cores := by grind [Machine.writeKept]
grind_pattern writeKept_canon => Machine.writeKept s g md v
theorem placeMatrix_canon (s : State) (g : Group) (m : MCmd) (md : BitVec 5) (v : MatVal) (exact : Unit → MatVal)
    (hc : canon s.mem s.cores) : canon (Machine.placeMatrix s g m md v exact).mem (Machine.placeMatrix s g m md v exact).cores := by grind [Machine.placeMatrix]
grind_pattern placeMatrix_canon => Machine.placeMatrix s g m md v exact
theorem runCommand_canon (s : State) (g : Group) (m : MCmd) (hc : canon s.mem s.cores) : canon (Machine.runCommand s g m).mem
    (Machine.runCommand s g m).cores := by grind [Machine.runCommand]
grind_pattern runCommand_canon => Machine.runCommand s g m
theorem actCommand_canon (s : State) (m : MCmd) (hc : canon s.mem s.cores) : canon (Machine.actCommand s m).1.mem
    (Machine.actCommand s m).1.cores := by grind [Machine.actCommand]
grind_pattern actCommand_canon => Machine.actCommand s m
theorem startCommand_canon (s : State) (core : Nat) (ctx : Nat) (m : MCmd) (hc : canon s.mem s.cores) : canon
    (Machine.startCommand s core ctx m).mem (Machine.startCommand s core ctx m).cores := by grind [Machine.startCommand]
grind_pattern startCommand_canon => Machine.startCommand s core ctx m
theorem feedSaved_canon (s : State) (core : Nat) (hc : canon s.mem s.cores) : canon (Machine.feedSaved s core).mem
    (Machine.feedSaved s core).cores := by grind [Machine.feedSaved]
grind_pattern feedSaved_canon => Machine.feedSaved s core
theorem execMatrixCommandStart_canon (core : Nat) (s : State) (hc : canon s.mem s.cores) (t : State)
    (ht : Machine.execMatrixCommandStart core s = .next t) : canon t.mem t.cores := by grind [Machine.execMatrixCommandStart]
grind_pattern execMatrixCommandStart_canon => Machine.execMatrixCommandStart core s, State.mem t
theorem finishCommand_canon (s : State) (m : MCmd) (dead : Bool) (f : Option FaultInfo) (hc : canon s.mem s.cores) : canon
    (Machine.finishCommand s m dead f).mem (Machine.finishCommand s m dead f).cores := by grind [Machine.finishCommand]
grind_pattern finishCommand_canon => Machine.finishCommand s m dead f
theorem completeCommand_canon (s : State) (core : Nat) (hc : canon s.mem s.cores) : canon (Machine.completeCommand s core).mem
    (Machine.completeCommand s core).cores := by grind [Machine.completeCommand]
grind_pattern completeCommand_canon => Machine.completeCommand s core
theorem execMatrixCommandCompletion_canon (core : Nat) (s : State) (hc : canon s.mem s.cores) (t : State)
    (ht : Machine.execMatrixCommandCompletion core s = .next t) : canon t.mem t.cores := by grind [Machine.execMatrixCommandCompletion]
grind_pattern execMatrixCommandCompletion_canon => Machine.execMatrixCommandCompletion core s, State.mem t

/-! ## Frames -/

theorem modFrame_canon (s : State) (die : Nat) (grid : Nat) (f : Frame → Frame) (hc : canon s.mem s.cores) : canon
    (Machine.modFrame s die grid f).mem (Machine.modFrame s die grid f).cores := by grind [Machine.modFrame]
grind_pattern modFrame_canon => Machine.modFrame s die grid f
theorem readTemplate_canon (s : State) (part : Nat) (world : Bool) (va : Nat) (hc : canon s.mem s.cores) : canon
    (Machine.readTemplate s part world va).1.mem (Machine.readTemplate s part world va).1.cores := by grind [Machine.readTemplate]
grind_pattern readTemplate_canon => Machine.readTemplate s part world va
theorem readViews_canon (part : Nat) (world : Bool) (a2 : State) (a3 : List Nat) (hc : canon a2.mem a2.cores) : canon
    (Machine.readViews part world a2 a3).1.mem (Machine.readViews part world a2 a3).1.cores := by
  fun_induction Machine.readViews <;> grind
grind_pattern readViews_canon => Machine.readViews part world a2 a3
theorem captureFrame_canon (f : Frame) (s : State) (e : Nat × Timing) (hc : canon s.mem s.cores) : canon
    (Machine.captureFrame f s e).mem (Machine.captureFrame f s e).cores := by grind [Machine.captureFrame]
grind_pattern captureFrame_canon => Machine.captureFrame f s e
theorem openFrame_canon (s : State) (g : Grid) (hc : canon s.mem s.cores) : canon (Machine.openFrame s g).1.mem
    (Machine.openFrame s g).1.cores := by
  unfold Machine.openFrame
  grind
grind_pattern openFrame_canon => Machine.openFrame s g
theorem closeGeometry_canon (s : State) (g : Grid) (hc : canon s.mem s.cores) : canon (Machine.closeGeometry s g).mem
    (Machine.closeGeometry s g).cores := by grind [Machine.closeGeometry]
grind_pattern closeGeometry_canon => Machine.closeGeometry s g

/-! ## Raster -/

theorem assignTile_canon (die : Nat) (grid : Nat) (s : State) (t : Tile) (hc : canon s.mem s.cores) : canon
    (Machine.assignTile die grid s t).mem (Machine.assignTile die grid s t).cores := by grind [Machine.assignTile]
grind_pattern assignTile_canon => Machine.assignTile die grid s t
theorem assignTiles_canon (s : State) (die : Nat) (hc : canon s.mem s.cores) : canon (Machine.assignTiles s die).mem
    (Machine.assignTiles s die).cores := by grind [Machine.assignTiles]
grind_pattern assignTiles_canon => Machine.assignTiles s die
theorem dropFrames_canon (s : State) (die : Nat) (hc : canon s.mem s.cores) : canon (Machine.dropFrames s die).mem
    (Machine.dropFrames s die).cores := by grind [Machine.dropFrames]
grind_pattern dropFrames_canon => Machine.dropFrames s die
theorem launchFormed_canon (s : State) (r : TaskRecord) (info : GfxInfo) (hc : canon s.mem s.cores) : canon
    (Machine.launchFormed s r info).mem (Machine.launchFormed s r info).cores := by grind [Machine.launchFormed]
grind_pattern launchFormed_canon => Machine.launchFormed s r info
theorem launchGroup_canon (die : Nat) (grid : Nat) (s : State) (l : Launch) (hc : canon s.mem s.cores) : canon
    (Machine.launchGroup die grid s l).mem (Machine.launchGroup die grid s l).cores := by grind [Machine.launchGroup]
grind_pattern launchGroup_canon => Machine.launchGroup die grid s l
theorem launchAll_canon (die : Nat) (grid : Nat) (s : State) (hc : canon s.mem s.cores) : canon (Machine.launchAll die grid s).mem
    (Machine.launchAll die grid s).cores := by grind [Machine.launchAll]
grind_pattern launchAll_canon => Machine.launchAll die grid s
theorem stripBins_canon (f : Frame) (k : Nat) (s : State) (hc : canon s.mem s.cores) : canon (Machine.stripBins f k s).1.mem
    (Machine.stripBins f k s).1.cores := by grind [Machine.stripBins]
grind_pattern stripBins_canon => Machine.stripBins f k s
theorem writeLatch_canon (f : Frame) (s : State) (l : Latch) (hc : canon s.mem s.cores) : canon (Machine.writeLatch f s l).mem
    (Machine.writeLatch f s l).cores := by grind [Machine.writeLatch]
grind_pattern writeLatch_canon => Machine.writeLatch f s l
theorem startStrip_canon (s : State) (die : Nat) (f : Frame) (hc : canon s.mem s.cores) : canon (Machine.startStrip s die f).mem
    (Machine.startStrip s die f).cores := by grind [Machine.startStrip]
grind_pattern startStrip_canon => Machine.startStrip s die f
theorem startDue_canon (die : Nat) (part : Nat) (s : State) (hc : canon s.mem s.cores) : canon (Machine.startDue die part s).mem
    (Machine.startDue die part s).cores := by grind [Machine.startDue]
grind_pattern startDue_canon => Machine.startDue die part s
theorem execStripStart_canon (die : Nat) (part : Nat) (s : State) (hc : canon s.mem s.cores) (t : State)
    (ht : Machine.execStripStart die part s = .next t) : canon t.mem t.cores := by grind [Machine.execStripStart]
grind_pattern execStripStart_canon => Machine.execStripStart die part s, State.mem t
theorem execTileReconstructionEnqueue_canon (die : Nat) (part : Nat) (tile : Nat) (s : State) (hc : canon s.mem s.cores) (t : State)
    (ht : Machine.execTileReconstructionEnqueue die part tile s = .next t) : canon t.mem t.cores := by grind [Machine.execTileReconstructionEnqueue]
grind_pattern execTileReconstructionEnqueue_canon => Machine.execTileReconstructionEnqueue die part tile s, State.mem t
theorem retireTiles_canon (s : State) (info : GfxInfo) (hc : canon s.mem s.cores) : canon (Machine.retireTiles s info).mem
    (Machine.retireTiles s info).cores := by
  unfold Machine.retireTiles
  grind
grind_pattern retireTiles_canon => Machine.retireTiles s info

/-! ## Grids -/

theorem dropHostLines_canon (s : State) (part : Nat) (hc : canon s.mem s.cores) : canon (Machine.dropHostLines s part).mem
    (Machine.dropHostLines s part).cores := by grind [Machine.dropHostLines]
grind_pattern dropHostLines_canon => Machine.dropHostLines s part
theorem flushHostLines_canon (s : State) (part : Nat) (hc : canon s.mem s.cores) : canon (Machine.flushHostLines s part).mem
    (Machine.flushHostLines s part).cores := by grind [Machine.flushHostLines]
grind_pattern flushHostLines_canon => Machine.flushHostLines s part
theorem dropAllClean_canon (s : State) (core : Nat) (hc : canon s.mem s.cores) : canon (Machine.dropAllClean s core).mem
    (Machine.dropAllClean s core).cores := by grind [Machine.dropAllClean]
grind_pattern dropAllClean_canon => Machine.dropAllClean s core
theorem settleL1s_canon (s : State) (cluster : Nat) (hc : canon s.mem s.cores) : canon (Machine.settleL1s s cluster).mem
    (Machine.settleL1s s cluster).cores := by grind [Machine.settleL1s]
grind_pattern settleL1s_canon => Machine.settleL1s s cluster
theorem beginFusion_canon (s : State) (cluster : Nat) (grid : Nat) (hc : canon s.mem s.cores) : canon
    (Machine.beginFusion s cluster grid).mem (Machine.beginFusion s cluster grid).cores := by grind [Machine.beginFusion]
grind_pattern beginFusion_canon => Machine.beginFusion s cluster grid
theorem endFusion_canon (grid : Nat) (s : State) (cluster : Nat) (hc : canon s.mem s.cores) : canon
    (Machine.endFusion grid s cluster).mem (Machine.endFusion grid s cluster).cores := by grind [Machine.endFusion]
grind_pattern endFusion_canon => Machine.endFusion grid s cluster
theorem readOwnership_canon (s : State) (r : TaskRecord) (kd : KDesc) (hc : canon s.mem s.cores) : canon
    (Machine.readOwnership s r kd).1.mem (Machine.readOwnership s r kd).1.cores := by grind [Machine.readOwnership]
grind_pattern readOwnership_canon => Machine.readOwnership s r kd
theorem readFirstTable_canon (s : State) (g : Grid) (r : TaskRecord) (kd : KDesc) (hc : canon s.mem s.cores) : canon
    (Machine.readFirstTable s g r kd).1.mem (Machine.readFirstTable s g r kd).1.cores := by grind [Machine.readFirstTable]
grind_pattern readFirstTable_canon => Machine.readFirstTable s g r kd
theorem openFirstFrame_canon (s : State) (g : Grid) (r : TaskRecord) (hc : canon s.mem s.cores) : canon
    (Machine.openFirstFrame s g r).1.mem (Machine.openFirstFrame s g r).1.cores := by grind [Machine.openFirstFrame]
grind_pattern openFirstFrame_canon => Machine.openFirstFrame s g r
theorem firstDispatch_canon (s : State) (g : Grid) (r : TaskRecord) (kd : KDesc) (hc : canon s.mem s.cores) : canon
    (Machine.firstDispatch s g r kd).1.mem (Machine.firstDispatch s g r kd).1.cores := by grind [Machine.firstDispatch]
grind_pattern firstDispatch_canon => Machine.firstDispatch s g r kd
theorem endHelp_canon (s : State) (gk : Nat) (hc : canon s.mem s.cores) : canon (Machine.endHelp s gk).mem (Machine.endHelp s gk).cores := by
  refine ⟨hc.1, fun x hx => ?_⟩
  obtain ⟨y, hy, rfl⟩ := List.mem_map.1 hx
  exact hc.2 y hy
grind_pattern endHelp_canon => Machine.endHelp s gk
theorem freeSlotOf_canon (s : State) (at' : Nat × Nat) (hc : canon s.mem s.cores) : canon (Machine.freeSlotOf s at').mem
    (Machine.freeSlotOf s at').cores := by grind [Machine.freeSlotOf]
grind_pattern freeSlotOf_canon => Machine.freeSlotOf s at'
theorem settleRing_canon (s : State) (cluster : Nat) (hc : canon s.mem s.cores) : canon (Machine.settleRing s cluster).mem
    (Machine.settleRing s cluster).cores := by grind [Machine.settleRing]
grind_pattern settleRing_canon => Machine.settleRing s cluster
theorem completeGrid_canon (s : State) (id : Nat) (hc : canon s.mem s.cores) : canon (Machine.completeGrid s id).mem
    (Machine.completeGrid s id).cores := by grind [Machine.completeGrid]
grind_pattern completeGrid_canon => Machine.completeGrid s id
theorem retireGroups_canon (s : State) (id : Nat) (n : Nat) (hc : canon s.mem s.cores) : canon (Machine.retireGroups s id n).mem
    (Machine.retireGroups s id n).cores := by grind [Machine.retireGroups]
grind_pattern retireGroups_canon => Machine.retireGroups s id n
theorem failDispatch_canon (s : State) (id : Nat) (gid : Nat) (hc : canon s.mem s.cores) : canon (Machine.failDispatch s id gid).mem
    (Machine.failDispatch s id gid).cores := by grind [Machine.failDispatch]
grind_pattern failDispatch_canon => Machine.failDispatch s id gid
theorem execGroupRetirement_canon (gk : Nat) (s : State) (hc : canon s.mem s.cores) (t : State)
    (ht : Machine.execGroupRetirement gk s = .next t) : canon t.mem t.cores := by grind [Machine.execGroupRetirement]
grind_pattern execGroupRetirement_canon => Machine.execGroupRetirement gk s, State.mem t

/-! ## Dispatching -/

theorem prepare_canon (s : State) (r : TaskRecord) (hc : canon s.mem s.cores) : canon (Machine.prepare s r).1.mem
    (Machine.prepare s r).1.cores := by grind [Machine.prepare]
grind_pattern prepare_canon => Machine.prepare s r
theorem startThreads_canon (s : State) (r : TaskRecord) (p : Prepared) (parked : Option Group) (hc : canon s.mem s.cores) : canon
    (Machine.startThreads s r p parked).1.mem (Machine.startThreads s r p parked).1.cores := by grind [Machine.startThreads]
grind_pattern startThreads_canon => Machine.startThreads s r p parked
theorem clearRoom_canon (s : State) (core : Nat) (r : TaskRecord) (room : Room) (hc : canon s.mem s.cores) : canon
    (Machine.clearRoom s core r room).mem (Machine.clearRoom s core r room).cores := by
  have wipes (l : List Nat) (m : Mem × List Nat) (hm : memWf m.1 = true) :
      memWf (l.foldl (fun m t => (memClear m.1 (16384 * t) 16384, clearUnits m.2 (16384 * t) 16384)) m).1 = true := by
    induction l generalizing m with
    | nil => exact hm
    | cons t l ih => exact ih _ (memClear_wf hm _ _)
  unfold Machine.clearRoom
  refine modCore_canon ?_ hc
  have := canon_coreOf hc core
  refine ⟨?_, this.2.1, wipes _ _ this.2.2⟩
  split
  · exact memClear_wf (memClear_wf this.1 _ _) _ _
  · exact memClear_wf this.1 _ _
grind_pattern clearRoom_canon => Machine.clearRoom s core r room
theorem settleStart_canon (s : State) (gk : Nat) (hc : canon s.mem s.cores) : canon (Machine.settleStart s gk).mem
    (Machine.settleStart s gk).cores := by grind [Machine.settleStart]
grind_pattern settleStart_canon => Machine.settleStart s gk
theorem failFresh_canon (s : State) (core : Nat) (gid : Nat) (e : DeckEntry) (grid : Grid) (kd : KDesc) (room : Room) (f : FaultInfo)
    (hc : canon s.mem s.cores) : canon (Machine.failFresh s core gid e grid kd room f).1.mem
    (Machine.failFresh s core gid e grid kd room f).1.cores := by grind [Machine.failFresh]
grind_pattern failFresh_canon => Machine.failFresh s core gid e grid kd room f
theorem startPhase_canon (s : State) (core : Nat) (e : DeckEntry) (gid : Nat) (parked : Option Group) (room : Room)
    (adopt : Option (Nat × Nat)) (hc : canon s.mem s.cores) : canon (Machine.startPhase s core e gid parked room adopt).1.mem
    (Machine.startPhase s core e gid parked room adopt).1.cores := by
  unfold Machine.startPhase
  (repeat' split) <;> grind
grind_pattern startPhase_canon => Machine.startPhase s core e gid parked room adopt
theorem leaveLanding_canon (part : Nat) (cluster : Nat) (cls : Nat) (s : State) (e : DeckEntry) (hc : canon s.mem s.cores) : canon
    (Machine.leaveLanding part cluster cls s e).mem (Machine.leaveLanding part cluster cls s e).cores := by grind [Machine.leaveLanding]
grind_pattern leaveLanding_canon => Machine.leaveLanding part cluster cls s e
theorem leaveQueue_canon (s : State) (cluster : Nat) (cls : Nat) (e : DeckEntry) (hc : canon s.mem s.cores) : canon
    (Machine.leaveQueue s cluster cls e).mem (Machine.leaveQueue s cluster cls e).cores := by grind [Machine.leaveQueue]
grind_pattern leaveQueue_canon => Machine.leaveQueue s cluster cls e
theorem noteDispatch_canon (s : State) (id : Nat) (parked : Option Group) (hc : canon s.mem s.cores) : canon
    (Machine.noteDispatch s id parked).mem (Machine.noteDispatch s id parked).cores := by grind [Machine.noteDispatch]
grind_pattern noteDispatch_canon => Machine.noteDispatch s id parked
theorem markEntry_canon (s : State) (cluster : Nat) (cls : Nat) (e : DeckEntry) (hc : canon s.mem s.cores) : canon
    (Machine.markEntry s cluster cls e).mem (Machine.markEntry s cluster cls e).cores := by grind [Machine.markEntry]
grind_pattern markEntry_canon => Machine.markEntry s cluster cls e
theorem dispatchEntry_canon (s : State) (core : Nat) (cluster : Nat) (cls : Nat) (e : DeckEntry) (room : Room)
    (adopt : Option (Nat × Nat)) (hc : canon s.mem s.cores) : canon (Machine.dispatchEntry s core cluster cls e room adopt).1.mem
    (Machine.dispatchEntry s core cluster cls e room adopt).1.cores := by grind [Machine.dispatchEntry]
grind_pattern dispatchEntry_canon => Machine.dispatchEntry s core cluster cls e room adopt
theorem execGroupDispatch_canon (core : Nat) (s : State) (hc : canon s.mem s.cores) (t : State)
    (ht : Machine.execGroupDispatch core s = .next t) : canon t.mem t.cores := by grind [Machine.execGroupDispatch]
grind_pattern execGroupDispatch_canon => Machine.execGroupDispatch core s, State.mem t
theorem execSteal_canon (core : Nat) (s : State) (hc : canon s.mem s.cores) (t : State) (ht : Machine.execSteal core s = .next t) :
    canon t.mem t.cores := by grind [Machine.execSteal]
grind_pattern execSteal_canon => Machine.execSteal core s, State.mem t
theorem execSkidderRefill_canon (cluster : Nat) (cls : Nat) (s : State) (hc : canon s.mem s.cores) (t : State)
    (ht : Machine.execSkidderRefill cluster cls s = .next t) : canon t.mem t.cores := by grind [Machine.execSkidderRefill]
grind_pattern execSkidderRefill_canon => Machine.execSkidderRefill cluster cls s, State.mem t

/-! ## Preempt -/

theorem clearEngine_canon (s : State) (g : Group) (hc : canon s.mem s.cores) : canon (Machine.clearEngine s g).mem
    (Machine.clearEngine s g).cores := by grind [Machine.clearEngine]
grind_pattern clearEngine_canon => Machine.clearEngine s g
theorem drainCommands_canon (gk : Nat) (core : Nat) (a2 : Nat) (a3 : State) (hc : canon a3.mem a3.cores) : canon
    (Machine.drainCommands gk core a2 a3).mem (Machine.drainCommands gk core a2 a3).cores := by
  fun_induction Machine.drainCommands <;> grind
grind_pattern drainCommands_canon => Machine.drainCommands gk core a2 a3
theorem saveCommands_canon (s : State) (g : Group) (hc : canon s.mem s.cores) : canon (Machine.saveCommands s g).mem
    (Machine.saveCommands s g).cores := by grind [Machine.saveCommands]
grind_pattern saveCommands_canon => Machine.saveCommands s g
theorem evictGroup_canon (s : State) (gk : Nat) (hc : canon s.mem s.cores) : canon (Machine.evictGroup s gk).mem
    (Machine.evictGroup s gk).cores := by
  simp only [Machine.evictGroup]
  (repeat' split) <;> grind
grind_pattern evictGroup_canon => Machine.evictGroup s gk
theorem execPreemption_canon (core : Nat) (s : State) (hc : canon s.mem s.cores) (t : State)
    (ht : Machine.execPreemption core s = .next t) : canon t.mem t.cores := by grind [Machine.execPreemption]
grind_pattern execPreemption_canon => Machine.execPreemption core s, State.mem t
theorem resumeGroup_canon (s : State) (g : Group) (core : Nat) (seat : Seat) (hc : canon s.mem s.cores) : canon
    (Machine.resumeGroup s g core seat).mem (Machine.resumeGroup s g core seat).cores := by
  simp only [Machine.resumeGroup]
  (repeat' split) <;> grind
grind_pattern resumeGroup_canon => Machine.resumeGroup s g core seat
theorem execPreemptionResume_canon (gk : Nat) (s : State) (hc : canon s.mem s.cores) (t : State)
    (ht : Machine.execPreemptionResume gk s = .next t) : canon t.mem t.cores := by grind [Machine.execPreemptionResume]
grind_pattern execPreemptionResume_canon => Machine.execPreemptionResume gk s, State.mem t

/-! ## Helping -/

theorem chase_canon (core : Nat) (cls : Nat) (w0 : Waiter) (a3 : Nat) (a4 : State) (a5 : Waiter) (hc : canon a4.mem a4.cores) : canon
    (Machine.chase core cls w0 a3 a4 a5).1.mem (Machine.chase core cls w0 a3 a4 a5).1.cores := by
  fun_induction Machine.chase <;> grind
grind_pattern chase_canon => Machine.chase core cls w0 a3 a4 a5
theorem parkWaiter_canon (s : State) (w : Waiter) (hc : canon s.mem s.cores) : canon (Machine.parkWaiter s w).mem
    (Machine.parkWaiter s w).cores := by grind [Machine.parkWaiter]
grind_pattern parkWaiter_canon => Machine.parkWaiter s w
theorem releaseWaiter_canon (s : State) (w : Waiter) (hc : canon s.mem s.cores) : canon (Machine.releaseWaiter s w).mem
    (Machine.releaseWaiter s w).cores := by grind [Machine.releaseWaiter]
grind_pattern releaseWaiter_canon => Machine.releaseWaiter s w
theorem takeParked_canon (s : State) (gk : Nat) (hc : canon s.mem s.cores) : canon (Machine.takeParked s gk).mem
    (Machine.takeParked s gk).cores := by
  unfold Machine.takeParked
  split
  · exact hc
  · next w _ =>
    have h : canon (Machine.countWaiter (Machine.markFailed s w.kind w.obj w.part w.world) w.part w.world w.obj w.kind (2 ^ 32 - 1)).mem
        (Machine.countWaiter (Machine.markFailed s w.kind w.obj w.part w.world) w.part w.world w.obj w.kind (2 ^ 32 - 1)).cores := by grind
    refine ⟨h.1, fun x hx => ?_⟩
    obtain ⟨y, hy, rfl⟩ := List.mem_map.1 hx
    exact h.2 y hy
grind_pattern takeParked_canon => Machine.takeParked s gk
theorem help_canon (core : Nat) (w : Waiter) (a2 : Nat) (a3 : State) (hc : canon a3.mem a3.cores) : canon
    (Machine.help core w a2 a3).mem (Machine.help core w a2 a3).cores := by
  fun_induction Machine.help <;> grind
grind_pattern help_canon => Machine.help core w a2 a3
theorem execAdoptedPhaseEnd_canon (core : Nat) (s : State) (hc : canon s.mem s.cores) (t : State)
    (ht : Machine.execAdoptedPhaseEnd core s = .next t) : canon t.mem t.cores := by grind [Machine.execAdoptedPhaseEnd]
grind_pattern execAdoptedPhaseEnd_canon => Machine.execAdoptedPhaseEnd core s, State.mem t

/-! ## Control -/

theorem runAffine_canon (s : State) (w : Nat) (d : BitVec 4) (f : Group → Affine) (hc : canon s.mem s.cores) : canon
    (Machine.runAffine s w d f).mem (Machine.runAffine s w d f).cores := by grind [Machine.runAffine]
grind_pattern runAffine_canon => Machine.runAffine s w d f
theorem execAadd_canon (o : AffBin) (s : State) (hc : canon s.mem s.cores) (t : State) (ht : Machine.execAadd o s = .next t) : canon
    t.mem t.cores := by grind [Machine.execAadd]
grind_pattern execAadd_canon => Machine.execAadd o s, State.mem t
theorem execAsub_canon (o : AffBin) (s : State) (hc : canon s.mem s.cores) (t : State) (ht : Machine.execAsub o s = .next t) : canon
    t.mem t.cores := by grind [Machine.execAsub]
grind_pattern execAsub_canon => Machine.execAsub o s, State.mem t
theorem execAmov_canon (o : AffUn) (s : State) (hc : canon s.mem s.cores) (t : State) (ht : Machine.execAmov o s = .next t) : canon
    t.mem t.cores := by grind [Machine.execAmov]
grind_pattern execAmov_canon => Machine.execAmov o s, State.mem t
theorem execAshl_canon (o : AffShl) (s : State) (hc : canon s.mem s.cores) (t : State) (ht : Machine.execAshl o s = .next t) : canon
    t.mem t.cores := by grind [Machine.execAshl]
grind_pattern execAshl_canon => Machine.execAshl o s, State.mem t
theorem execAmul_canon (o : AffBin) (s : State) (hc : canon s.mem s.cores) (t : State) (ht : Machine.execAmul o s = .next t) : canon
    t.mem t.cores := by grind [Machine.execAmul]
grind_pattern execAmul_canon => Machine.execAmul o s, State.mem t
theorem execAmovi_canon (o : AffMovi) (s : State) (hc : canon s.mem s.cores) (t : State) (ht : Machine.execAmovi o s = .next t) : canon
    t.mem t.cores := by grind [Machine.execAmovi]
grind_pattern execAmovi_canon => Machine.execAmovi o s, State.mem t
theorem execAaddi_canon (o : AffImm) (s : State) (hc : canon s.mem s.cores) (t : State) (ht : Machine.execAaddi o s = .next t) : canon
    t.mem t.cores := by grind [Machine.execAaddi]
grind_pattern execAaddi_canon => Machine.execAaddi o s, State.mem t
theorem execAmuli_canon (o : AffImm) (s : State) (hc : canon s.mem s.cores) (t : State) (ht : Machine.execAmuli o s = .next t) : canon
    t.mem t.cores := by grind [Machine.execAmuli]
grind_pattern execAmuli_canon => Machine.execAmuli o s, State.mem t
theorem execAset_canon (o : AffSet) (s : State) (hc : canon s.mem s.cores) (t : State) (ht : Machine.execAset o s = .next t) : canon
    t.mem t.cores := by grind [Machine.execAset]
grind_pattern execAset_canon => Machine.execAset o s, State.mem t
theorem execXwin_canon (o : WinOp) (s : State) (hc : canon s.mem s.cores) (t : State) (ht : Machine.execXwin o s = .next t) : canon
    t.mem t.cores := by grind [Machine.execXwin]
grind_pattern execXwin_canon => Machine.execXwin o s, State.mem t
theorem execXset_canon (o : IdxOp) (s : State) (hc : canon s.mem s.cores) (t : State) (ht : Machine.execXset o s = .next t) : canon
    t.mem t.cores := by grind [Machine.execXset]
grind_pattern execXset_canon => Machine.execXset o s, State.mem t
theorem execXput_canon (o : IdxOp) (s : State) (hc : canon s.mem s.cores) (t : State) (ht : Machine.execXput o s = .next t) : canon
    t.mem t.cores := by grind [Machine.execXput]
grind_pattern execXput_canon => Machine.execXput o s, State.mem t
theorem runCross_canon (s : State) (a : Group → Thread → Except FaultInfo Word) (b : Group → Thread → Except FaultInfo Word)
    (f : Group →   List (Nat × Word) → Thread → Word → Thread) (hc : canon s.mem s.cores) : canon (Machine.runCross s a b f).mem
    (Machine.runCross s a b f).cores := by grind [Machine.runCross]
grind_pattern runCross_canon => Machine.runCross s a b f
theorem execShfl_canon (o : RBin) (s : State) (hc : canon s.mem s.cores) (t : State) (ht : Machine.execShfl o s = .next t) : canon
    t.mem t.cores := by grind [Machine.execShfl]
grind_pattern execShfl_canon => Machine.execShfl o s, State.mem t
theorem execXbar_canon (o : XBarOp) (s : State) (hc : canon s.mem s.cores) (t : State) (ht : Machine.execXbar o s = .next t) : canon
    t.mem t.cores := by grind [Machine.execXbar]
grind_pattern execXbar_canon => Machine.execXbar o s, State.mem t
theorem execVany_canon (o : PVote) (s : State) (hc : canon s.mem s.cores) (t : State) (ht : Machine.execVany o s = .next t) : canon
    t.mem t.cores := by grind [Machine.execVany]
grind_pattern execVany_canon => Machine.execVany o s, State.mem t
theorem execVall_canon (o : PVote) (s : State) (hc : canon s.mem s.cores) (t : State) (ht : Machine.execVall o s = .next t) : canon
    t.mem t.cores := by grind [Machine.execVall]
grind_pattern execVall_canon => Machine.execVall o s, State.mem t
theorem execBallot_canon (o : RUn) (s : State) (hc : canon s.mem s.cores) (t : State) (ht : Machine.execBallot o s = .next t) : canon
    t.mem t.cores := by grind [Machine.execBallot]
grind_pattern execBallot_canon => Machine.execBallot o s, State.mem t
theorem jump_canon (s : State) (gk : Nat) (tid : Nat) (pc : DWord) (hc : canon s.mem s.cores) : canon (Machine.jump s gk tid pc).mem
    (Machine.jump s gk tid pc).cores := by grind [Machine.jump]
grind_pattern jump_canon => Machine.jump s gk tid pc
theorem execBr_canon (o : Branch) (s : State) (hc : canon s.mem s.cores) (t : State) (ht : Machine.execBr o s = .next t) : canon t.mem
    t.cores := by grind [Machine.execBr]
grind_pattern execBr_canon => Machine.execBr o s, State.mem t
theorem frameTarget_canon (s : State) (g : Group) (t : Thread) (k : Nat) (acc : Acc) (hc : canon s.mem s.cores) : canon
    (Machine.frameTarget s g t k acc).1.mem (Machine.frameTarget s g t k acc).1.cores := by grind [Machine.frameTarget]
grind_pattern frameTarget_canon => Machine.frameTarget s g t k acc
theorem frameWord_canon (s : State) (g : Group) (t : Thread) (k : Nat) (hc : canon s.mem s.cores) : canon
    (Machine.frameWord s g t k).1.mem (Machine.frameWord s g t k).1.cores := by grind [Machine.frameWord]
grind_pattern frameWord_canon => Machine.frameWord s g t k
theorem frameStores_canon (s : State) (g : Group) (t : Thread) (a3 : List (Target × Nat)) (hc : canon s.mem s.cores) : canon
    (Machine.frameStores s g t a3).mem (Machine.frameStores s g t a3).cores := by
  fun_induction Machine.frameStores <;> grind
grind_pattern frameStores_canon => Machine.frameStores s g t a3
theorem frameTargets_canon (s : State) (g : Group) (t : Thread) (a3 : List Nat) (hc : canon s.mem s.cores) : canon
    (Machine.frameTargets s g t a3).1.mem (Machine.frameTargets s g t a3).1.cores := by
  fun_induction Machine.frameTargets <;> grind
grind_pattern frameTargets_canon => Machine.frameTargets s g t a3
theorem callThread_canon (pc : DWord) (next : DWord) (s : State) (g : Group) (t : Thread) (hc : canon s.mem s.cores) : canon
    (Machine.callThread pc next s g t).1.mem (Machine.callThread pc next s g t).1.cores := by grind [Machine.callThread]
grind_pattern callThread_canon => Machine.callThread pc next s g t
theorem execCall_canon (o : Branch) (s : State) (hc : canon s.mem s.cores) (t : State) (ht : Machine.execCall o s = .next t) : canon
    t.mem t.cores := by grind [Machine.execCall]
grind_pattern execCall_canon => Machine.execCall o s, State.mem t
theorem retThread_canon (s : State) (g : Group) (t : Thread) (hc : canon s.mem s.cores) : canon (Machine.retThread s g t).1.mem
    (Machine.retThread s g t).1.cores := by
  simp only [Machine.retThread]
  (repeat' split) <;> grind
grind_pattern retThread_canon => Machine.retThread s g t
theorem execRet_canon (gd : Guard) (s : State) (hc : canon s.mem s.cores) (t : State) (ht : Machine.execRet gd s = .next t) : canon
    t.mem t.cores := by grind [Machine.execRet]
grind_pattern execRet_canon => Machine.execRet gd s, State.mem t
theorem execJmpr_canon (o : JumpReg) (s : State) (hc : canon s.mem s.cores) (t : State) (ht : Machine.execJmpr o s = .next t) : canon
    t.mem t.cores := by grind [Machine.execJmpr]
grind_pattern execJmpr_canon => Machine.execJmpr o s, State.mem t
theorem exitOne_canon (s : State) (g : Group) (t : Thread) (hc : canon s.mem s.cores) : canon (Machine.exitOne s g t).1.mem
    (Machine.exitOne s g t).1.cores := by grind [Machine.exitOne]
grind_pattern exitOne_canon => Machine.exitOne s g t
theorem sweepExited_canon (s : State) (hc : canon s.mem s.cores) : canon (Machine.sweepExited s).mem (Machine.sweepExited s).cores := by grind [Machine.sweepExited]
grind_pattern sweepExited_canon => Machine.sweepExited s
theorem execExit_canon (gd : Guard) (s : State) (hc : canon s.mem s.cores) (t : State) (ht : Machine.execExit gd s = .next t) : canon
    t.mem t.cores := by grind [Machine.execExit]
grind_pattern execExit_canon => Machine.execExit gd s, State.mem t
theorem trapFault_canon (cls : Nat) (o : TrapOp) (s : State) (hc : canon s.mem s.cores) : canon (Machine.trapFault cls o s).mem
    (Machine.trapFault cls o s).cores := by grind [Machine.trapFault]
grind_pattern trapFault_canon => Machine.trapFault cls o s
theorem execBrk_canon (o : TrapOp) (s : State) (hc : canon s.mem s.cores) (t : State) (ht : Machine.execBrk o s = .next t) : canon
    t.mem t.cores := by grind [Machine.execBrk]
grind_pattern execBrk_canon => Machine.execBrk o s, State.mem t
theorem execTrap_canon (o : TrapOp) (s : State) (hc : canon s.mem s.cores) (t : State) (ht : Machine.execTrap o s = .next t) : canon
    t.mem t.cores := by grind [Machine.execTrap]
grind_pattern execTrap_canon => Machine.execTrap o s, State.mem t
theorem execYield_canon (gd : Guard) (s : State) (hc : canon s.mem s.cores) (t : State) (ht : Machine.execYield gd s = .next t) : canon
    t.mem t.cores := by grind [Machine.execYield]
grind_pattern execYield_canon => Machine.execYield gd s, State.mem t
theorem execBar_canon (b : BitVec 2) (s : State) (hc : canon s.mem s.cores) (t : State) (ht : Machine.execBar b s = .next t) : canon
    t.mem t.cores := by grind [Machine.execBar]
grind_pattern execBar_canon => Machine.execBar b s, State.mem t
theorem execClkr_canon (o : ClkOp) (s : State) (hc : canon s.mem s.cores) (t : State) (ht : Machine.execClkr o s = .next t) : canon
    t.mem t.cores := by grind [Machine.execClkr]
grind_pattern execClkr_canon => Machine.execClkr o s, State.mem t

/-! ## System -/

theorem execCtlr_canon (o : TaskOp) (s : State) (hc : canon s.mem s.cores) (t : State) (ht : Machine.execCtlr o s = .next t) : canon
    t.mem t.cores := by grind [Machine.execCtlr]
grind_pattern execCtlr_canon => Machine.execCtlr o s, State.mem t
theorem keepViews_canon (s : State) (g : Group) (f : StaleView → StaleView) (hc : canon s.mem s.cores) : canon
    (Machine.keepViews s g f).mem (Machine.keepViews s g f).cores := by grind [Machine.keepViews]
grind_pattern keepViews_canon => Machine.keepViews s g f
theorem ctlWriteGroup_canon (o : TaskOp) (s0 : State) (s : State) (gk : Nat) (hc : canon s.mem s.cores) : canon
    (Machine.ctlWriteGroup o s0 s gk).mem (Machine.ctlWriteGroup o s0 s gk).cores := by grind [Machine.ctlWriteGroup]
grind_pattern ctlWriteGroup_canon => Machine.ctlWriteGroup o s0 s gk
theorem ctlWriteThread_canon (o : TaskOp) (s : State) (g : Group) (t : Thread) (hc : canon s.mem s.cores) : canon
    (Machine.ctlWriteThread o s g t).1.mem (Machine.ctlWriteThread o s g t).1.cores := by grind [Machine.ctlWriteThread]
grind_pattern ctlWriteThread_canon => Machine.ctlWriteThread o s g t
theorem execCtlw_canon (o : TaskOp) (s : State) (hc : canon s.mem s.cores) (t : State) (ht : Machine.execCtlw o s = .next t) : canon
    t.mem t.cores := by grind [Machine.execCtlw]
grind_pattern execCtlw_canon => Machine.execCtlw o s, State.mem t
theorem segwGroup_canon (o : TaskOp) (s0 : State) (s : State) (gk : Nat) (hc : canon s.mem s.cores) : canon
    (Machine.segwGroup o s0 s gk).mem (Machine.segwGroup o s0 s gk).cores := by grind [Machine.segwGroup]
grind_pattern segwGroup_canon => Machine.segwGroup o s0 s gk
theorem execSegw_canon (o : TaskOp) (s : State) (hc : canon s.mem s.cores) (t : State) (ht : Machine.execSegw o s = .next t) : canon
    t.mem t.cores := by grind [Machine.execSegw]
grind_pattern execSegw_canon => Machine.execSegw o s, State.mem t
theorem xbldRead_canon (s : State) (g : Group) (t : Thread) (va : Nat) (hc : canon s.mem s.cores) : canon
    (Machine.xbldRead s g t va).1.mem (Machine.xbldRead s g t va).1.cores := by grind [Machine.xbldRead]
grind_pattern xbldRead_canon => Machine.xbldRead s g t va
theorem runActing_canon (s : State) (gd : Guard) (f : State →   Group → Thread → State × Option FaultInfo)
    (h_f : ∀ f0 f1 f2, canon f0.mem f0.cores → canon (f f0 f1 f2).1.mem (f f0 f1 f2).1.cores) (hc : canon s.mem s.cores) : canon
    (Machine.runActing s gd f).mem (Machine.runActing s gd f).cores := by grind [Machine.runActing]
grind_pattern runActing_canon => Machine.runActing s gd f
theorem xbldThread_canon (o : TaskOp) (s : State) (g : Group) (t : Thread) (hc : canon s.mem s.cores) : canon
    (Machine.xbldThread o s g t).1.mem (Machine.xbldThread o s g t).1.cores := by grind [Machine.xbldThread]
grind_pattern xbldThread_canon => Machine.xbldThread o s g t
theorem execXbld_canon (o : TaskOp) (s : State) (hc : canon s.mem s.cores) (t : State) (ht : Machine.execXbld o s = .next t) : canon
    t.mem t.cores := by grind [Machine.execXbld]
grind_pattern execXbld_canon => Machine.execXbld o s, State.mem t
theorem perfThread_canon (o : TaskOp) (s : State) (g : Group) (t : Thread) (hc : canon s.mem s.cores) : canon
    (Machine.perfThread o s g t).1.mem (Machine.perfThread o s g t).1.cores := by grind [Machine.perfThread]
grind_pattern perfThread_canon => Machine.perfThread o s g t
theorem execPerfr_canon (o : TaskOp) (s : State) (hc : canon s.mem s.cores) (t : State) (ht : Machine.execPerfr o s = .next t) : canon
    t.mem t.cores := by grind [Machine.execPerfr]
grind_pattern execPerfr_canon => Machine.execPerfr o s, State.mem t
theorem sretThread_canon (s : State) (g : Group) (t : Thread) (hc : canon s.mem s.cores) : canon (Machine.sretThread s g t).1.mem
    (Machine.sretThread s g t).1.cores := by grind [Machine.sretThread]
grind_pattern sretThread_canon => Machine.sretThread s g t
theorem execSret_canon (o : TaskOp) (s : State) (hc : canon s.mem s.cores) (t : State) (ht : Machine.execSret o s = .next t) : canon
    t.mem t.cores := by grind [Machine.execSret]
grind_pattern execSret_canon => Machine.execSret o s, State.mem t

/-! ## Tasks -/

theorem spawnThread_canon (o : TaskOp) (s : State) (g : Group) (t : Thread) (hc : canon s.mem s.cores) : canon
    (Machine.spawnThread o s g t).1.mem (Machine.spawnThread o s g t).1.cores := by grind [Machine.spawnThread]
grind_pattern spawnThread_canon => Machine.spawnThread o s g t
theorem execSpawn_canon (o : TaskOp) (s : State) (hc : canon s.mem s.cores) (t : State) (ht : Machine.execSpawn o s = .next t) : canon
    t.mem t.cores := by grind [Machine.execSpawn]
grind_pattern execSpawn_canon => Machine.execSpawn o s, State.mem t
theorem phaseEnd_canon (o : TaskOp) (follow : State → Group → State) (s : State)
    (h_follow : ∀ follow0 follow1, canon follow0.mem follow0.cores → canon (follow follow0 follow1).mem (follow follow0 follow1).cores)
    (hc : canon s.mem s.cores) : canon (Machine.phaseEnd o follow s).mem (Machine.phaseEnd o follow s).cores := by grind [Machine.phaseEnd]
grind_pattern phaseEnd_canon => Machine.phaseEnd o follow s
theorem continueNow_canon (s : State) (g : Group) (hc : canon s.mem s.cores) : canon (Machine.continueNow s g).mem
    (Machine.continueNow s g).cores := by grind [Machine.continueNow]
grind_pattern continueNow_canon => Machine.continueNow s g
theorem execPhase_canon (o : TaskOp) (s : State) (hc : canon s.mem s.cores) (t : State) (ht : Machine.execPhase o s = .next t) : canon
    t.mem t.cores := by grind [Machine.execPhase]
grind_pattern execPhase_canon => Machine.execPhase o s, State.mem t
theorem execAwait_canon (o : TaskOp) (s : State) (hc : canon s.mem s.cores) (t : State) (ht : Machine.execAwait o s = .next t) : canon
    t.mem t.cores := by grind [Machine.execAwait]
grind_pattern execAwait_canon => Machine.execAwait o s, State.mem t
theorem fnewThread_canon (o : TaskOp) (s : State) (g : Group) (t : Thread) (hc : canon s.mem s.cores) : canon
    (Machine.fnewThread o s g t).1.mem (Machine.fnewThread o s g t).1.cores := by grind [Machine.fnewThread]
grind_pattern fnewThread_canon => Machine.fnewThread o s g t
theorem execFnew_canon (o : TaskOp) (s : State) (hc : canon s.mem s.cores) (t : State) (ht : Machine.execFnew o s = .next t) : canon
    t.mem t.cores := by grind [Machine.execFnew]
grind_pattern execFnew_canon => Machine.execFnew o s, State.mem t
theorem fputThread_canon (o : TaskOp) (s : State) (g : Group) (t : Thread) (hc : canon s.mem s.cores) : canon
    (Machine.fputThread o s g t).1.mem (Machine.fputThread o s g t).1.cores := by grind [Machine.fputThread]
grind_pattern fputThread_canon => Machine.fputThread o s g t
theorem execFput_canon (o : TaskOp) (s : State) (hc : canon s.mem s.cores) (t : State) (ht : Machine.execFput o s = .next t) : canon
    t.mem t.cores := by grind [Machine.execFput]
grind_pattern execFput_canon => Machine.execFput o s, State.mem t
theorem lrelThread_canon (o : TaskOp) (s : State) (g : Group) (t : Thread) (hc : canon s.mem s.cores) : canon
    (Machine.lrelThread o s g t).1.mem (Machine.lrelThread o s g t).1.cores := by grind [Machine.lrelThread]
grind_pattern lrelThread_canon => Machine.lrelThread o s g t
theorem execLrel_canon (o : TaskOp) (s : State) (hc : canon s.mem s.cores) (t : State) (ht : Machine.execLrel o s = .next t) : canon
    t.mem t.cores := by grind [Machine.execLrel]
grind_pattern execLrel_canon => Machine.execLrel o s, State.mem t
theorem dcdecThread_canon (o : TaskOp) (s : State) (g : Group) (t : Thread) (hc : canon s.mem s.cores) : canon
    (Machine.dcdecThread o s g t).1.mem (Machine.dcdecThread o s g t).1.cores := by grind [Machine.dcdecThread]
grind_pattern dcdecThread_canon => Machine.dcdecThread o s g t
theorem execDcdec_canon (o : TaskOp) (s : State) (hc : canon s.mem s.cores) (t : State) (ht : Machine.execDcdec o s = .next t) : canon
    t.mem t.cores := by grind [Machine.execDcdec]
grind_pattern execDcdec_canon => Machine.execDcdec o s, State.mem t
theorem parkWait_canon (s : State) (g : Group) (k : WaitKind) (va : Nat) (at' : FaultSite) (hc : canon s.mem s.cores) : canon
    (outState (Machine.parkWait s g k va at')).mem (outState (Machine.parkWait s g k va at')).cores := by grind [Machine.parkWait]
grind_pattern parkWait_canon => Machine.parkWait s g k va at'
theorem setThreads_canon (s : State) (gk : Nat) (ts : List Thread) (f : Thread → Thread) (hc : canon s.mem s.cores) : canon
    (Machine.setThreads s gk ts f).mem (Machine.setThreads s gk ts f).cores := by grind [Machine.setThreads]
grind_pattern setThreads_canon => Machine.setThreads s gk ts f
theorem runWait_canon (o : TaskOp) (k : State →   Group →     List Thread → Except FaultInfo WaitKind) (size : Nat)
    (refuse : Group → Nat → Option FaultInfo) (effect : State →   Group →     List Thread → Nat → State × Option FaultInfo) (s : State)
    (h_effect : ∀ effect0 effect1 effect2 effect3, canon effect0.mem effect0.cores → canon (effect effect0 effect1 effect2 effect3).1.mem (effect effect0 effect1 effect2 effect3).1.cores)
    (hc : canon s.mem s.cores) : canon (Machine.runWait o k size refuse effect s).mem (Machine.runWait o k size refuse effect s).cores := by
  unfold Machine.runWait
  refine runGroup_canon _ _ _ (fun s g ts hc => ?_) hc
  (repeat' split) <;> grind
grind_pattern runWait_canon => Machine.runWait o k size refuse effect s
theorem fgetEffect_canon (o : TaskOp) (s : State) (g : Group) (ts : List Thread) (v : Nat) (hc : canon s.mem s.cores) : canon
    (Machine.fgetEffect o s g ts v).1.mem (Machine.fgetEffect o s g ts v).1.cores := by grind [Machine.fgetEffect]
grind_pattern fgetEffect_canon => Machine.fgetEffect o s g ts v
theorem execFget_canon (o : TaskOp) (s : State) (hc : canon s.mem s.cores) (t : State) (ht : Machine.execFget o s = .next t) : canon
    t.mem t.cores := by grind [Machine.execFget]
grind_pattern execFget_canon => Machine.execFget o s, State.mem t
theorem lacqEffect_canon (o : TaskOp) (s : State) (g : Group) (ts : List Thread) (v : Nat) (hc : canon s.mem s.cores) : canon
    (Machine.lacqEffect o s g ts v).1.mem (Machine.lacqEffect o s g ts v).1.cores := by grind [Machine.lacqEffect]
grind_pattern lacqEffect_canon => Machine.lacqEffect o s g ts v
theorem execLacq_canon (o : TaskOp) (s : State) (hc : canon s.mem s.cores) (t : State) (ht : Machine.execLacq o s = .next t) : canon
    t.mem t.cores := by grind [Machine.execLacq]
grind_pattern execLacq_canon => Machine.execLacq o s, State.mem t
theorem ringPreds_canon (o : TaskOp) (s : State) (gk : Nat) (k : Nat) (ts : List Thread) (hc : canon s.mem s.cores) : canon
    (Machine.ringPreds o s gk k ts).mem (Machine.ringPreds o s gk k ts).cores := by grind [Machine.ringPreds]
grind_pattern ringPreds_canon => Machine.ringPreds o s gk k ts
theorem readEntries_canon (s : State) (g : Group) (t : Thread) (va : Nat) (v : Nat) (from' : Nat) (acc : Acc) (a7 : Nat)
    (hc : canon s.mem s.cores) : canon (Machine.readEntries s g t va v from' acc a7).1.mem
    (Machine.readEntries s g t va v from' acc a7).1.cores := by
  fun_induction Machine.readEntries <;> grind
grind_pattern readEntries_canon => Machine.readEntries s g t va v from' acc a7
theorem qputEffect_canon (o : TaskOp) (s : State) (g : Group) (ts : List Thread) (v : Nat) (hc : canon s.mem s.cores) : canon
    (Machine.qputEffect o s g ts v).1.mem (Machine.qputEffect o s g ts v).1.cores := by grind [Machine.qputEffect]
grind_pattern qputEffect_canon => Machine.qputEffect o s g ts v
theorem execQput_canon (o : TaskOp) (s : State) (hc : canon s.mem s.cores) (t : State) (ht : Machine.execQput o s = .next t) : canon
    t.mem t.cores := by grind [Machine.execQput]
grind_pattern execQput_canon => Machine.execQput o s, State.mem t
theorem qgetEffect_canon (o : TaskOp) (s : State) (g : Group) (ts : List Thread) (v : Nat) (hc : canon s.mem s.cores) : canon
    (Machine.qgetEffect o s g ts v).1.mem (Machine.qgetEffect o s g ts v).1.cores := by grind [Machine.qgetEffect]
grind_pattern qgetEffect_canon => Machine.qgetEffect o s g ts v
theorem execQget_canon (o : TaskOp) (s : State) (hc : canon s.mem s.cores) (t : State) (ht : Machine.execQget o s = .next t) : canon
    t.mem t.cores := by grind [Machine.execQget]
grind_pattern execQget_canon => Machine.execQget o s, State.mem t
theorem setTicket_canon (s : State) (part : Nat) (world : Bool) (va : Nat) (v : Nat) (hc : canon s.mem s.cores) : canon
    (Machine.setTicket s part world va v).1.mem (Machine.setTicket s part world va v).1.cores := by grind [Machine.setTicket]
grind_pattern setTicket_canon => Machine.setTicket s part world va v
theorem tktakeEffect_canon (o : TaskOp) (s : State) (g : Group) (ts : List Thread) (v : Nat) (hc : canon s.mem s.cores) : canon
    (Machine.tktakeEffect o s g ts v).1.mem (Machine.tktakeEffect o s g ts v).1.cores := by grind [Machine.tktakeEffect]
grind_pattern tktakeEffect_canon => Machine.tktakeEffect o s g ts v
theorem execTktake_canon (o : TaskOp) (s : State) (hc : canon s.mem s.cores) (t : State) (ht : Machine.execTktake o s = .next t) :
    canon t.mem t.cores := by grind [Machine.execTktake]
grind_pattern execTktake_canon => Machine.execTktake o s, State.mem t
theorem execTkwait_canon (o : TaskOp) (s : State) (hc : canon s.mem s.cores) (t : State) (ht : Machine.execTkwait o s = .next t) :
    canon t.mem t.cores := by grind [Machine.execTkwait]
grind_pattern execTkwait_canon => Machine.execTkwait o s, State.mem t
theorem tselfValue_canon (s : State) (g : Group) (sel : Nat) (hc : canon s.mem s.cores) : canon (Machine.tselfValue s g sel).1.mem
    (Machine.tselfValue s g sel).1.cores := by
  unfold Machine.tselfValue
  grind
grind_pattern tselfValue_canon => Machine.tselfValue s g sel
theorem tselfThread_canon (o : TaskOp) (s : State) (g : Group) (t : Thread) (hc : canon s.mem s.cores) : canon
    (Machine.tselfThread o s g t).1.mem (Machine.tselfThread o s g t).1.cores := by grind [Machine.tselfThread]
grind_pattern tselfThread_canon => Machine.tselfThread o s g t
theorem execTself_canon (o : TaskOp) (s : State) (hc : canon s.mem s.cores) (t : State) (ht : Machine.execTself o s = .next t) : canon
    t.mem t.cores := by grind [Machine.execTself]
grind_pattern execTself_canon => Machine.execTself o s, State.mem t
theorem execTicketAutomaticTake_canon (gk : Nat) (slot : Nat) (s : State) (hc : canon s.mem s.cores) (t : State)
    (ht : Machine.execTicketAutomaticTake gk slot s = .next t) : canon t.mem t.cores := by grind [Machine.execTicketAutomaticTake]
grind_pattern execTicketAutomaticTake_canon => Machine.execTicketAutomaticTake gk slot s, State.mem t
theorem failCommit_canon (s : State) (gk : Nat) (f : FaultInfo) (hc : canon s.mem s.cores) : canon (Machine.failCommit s gk f).mem
    (Machine.failCommit s gk f).cores := by grind [Machine.failCommit]
grind_pattern failCommit_canon => Machine.failCommit s gk f
theorem commitBytes_canon (s : State) (r : TaskRecord) (unit : Nat) (mask : Nat) (data : Nat) (a5 : Nat) (hc : canon s.mem s.cores) :
    canon (Machine.commitBytes s r unit mask data a5).1.mem (Machine.commitBytes s r unit mask data a5).1.cores := by
  fun_induction Machine.commitBytes <;> grind
grind_pattern commitBytes_canon => Machine.commitBytes s r unit mask data a5
theorem commitEntry_canon (s : State) (r : TaskRecord) (e : Nat) (hc : canon s.mem s.cores) : canon (Machine.commitEntry s r e).1.mem
    (Machine.commitEntry s r e).1.cores := by grind [Machine.commitEntry]
grind_pattern commitEntry_canon => Machine.commitEntry s r e
theorem commitGroup_canon (gr : Grid) (s : State) (g : Group) (hc : canon s.mem s.cores) : canon (Machine.commitGroup gr s g).mem
    (Machine.commitGroup gr s g).cores := by grind [Machine.commitGroup]
grind_pattern commitGroup_canon => Machine.commitGroup gr s g
theorem releaseGrid_canon (grid : Nat) (s : State) (hc : canon s.mem s.cores) : canon (Machine.releaseGrid grid s).mem
    (Machine.releaseGrid grid s).cores := by grind [Machine.releaseGrid]
grind_pattern releaseGrid_canon => Machine.releaseGrid grid s
theorem execDeterministicCommit_canon (grid : Nat) (s : State) (hc : canon s.mem s.cores) (t : State)
    (ht : Machine.execDeterministicCommit grid s = .next t) : canon t.mem t.cores := by grind [Machine.execDeterministicCommit]
grind_pattern execDeterministicCommit_canon => Machine.execDeterministicCommit grid s, State.mem t

/-! ## Graphics -/

theorem execSinfo_canon (o : TaskOp) (s : State) (hc : canon s.mem s.cores) (t : State) (ht : Machine.execSinfo o s = .next t) : canon
    t.mem t.cores := by grind [Machine.execSinfo]
grind_pattern execSinfo_canon => Machine.execSinfo o s, State.mem t
theorem loadTemplate_canon (s : State) (g : Group) (t : Thread) (va : Nat) (hc : canon s.mem s.cores) : canon
    (Machine.loadTemplate s g t va).1.mem (Machine.loadTemplate s g t va).1.cores := by grind [Machine.loadTemplate]
grind_pattern loadTemplate_canon => Machine.loadTemplate s g t va
theorem temitChecks_canon (o : TaskOp) (s : State) (g : Group) (t : Thread) (hc : canon s.mem s.cores) : canon
    (Machine.temitChecks o s g t).1.mem (Machine.temitChecks o s g t).1.cores := by
  unfold Machine.temitChecks
  (repeat' split) <;> grind
grind_pattern temitChecks_canon => Machine.temitChecks o s g t
theorem emitPayload_canon (o : TaskOp) (s : State) (g : Group) (r : TaskRecord) (slot : Nat) (hc : canon s.mem s.cores) : canon
    (Machine.emitPayload o s g r slot).mem (Machine.emitPayload o s g r slot).cores := by grind [Machine.emitPayload]
grind_pattern emitPayload_canon => Machine.emitPayload o s g r slot
theorem waitForSlot_canon (s : State) (g : Group) (at' : FaultSite) (hc : canon s.mem s.cores) : canon
    (Machine.waitForSlot s g at').mem (Machine.waitForSlot s g at').cores := by grind [Machine.waitForSlot]
grind_pattern waitForSlot_canon => Machine.waitForSlot s g at'
theorem execTemit_canon (o : TaskOp) (s : State) (hc : canon s.mem s.cores) (t : State) (ht : Machine.execTemit o s = .next t) : canon
    t.mem t.cores := by
  unfold Machine.execTemit at ht
  cases ht
  refine runGroup_canon _ _ _ (fun s g ts hc => ?_) hc
  (repeat' split) <;> grind
grind_pattern execTemit_canon => Machine.execTemit o s, State.mem t
theorem meshWrite_canon (o : TaskOp) (n : Nat) (place : Nat → Nat) (s : State) (g : Group) (t : Thread) (hc : canon s.mem s.cores) :
    canon (Machine.meshWrite o n place s g t).1.mem (Machine.meshWrite o n place s g t).1.cores := by grind [Machine.meshWrite]
grind_pattern meshWrite_canon => Machine.meshWrite o n place s g t
theorem execMvtx_canon (o : TaskOp) (s : State) (hc : canon s.mem s.cores) (t : State) (ht : Machine.execMvtx o s = .next t) : canon
    t.mem t.cores := by grind [Machine.execMvtx]
grind_pattern execMvtx_canon => Machine.execMvtx o s, State.mem t
theorem execMprim_canon (o : TaskOp) (s : State) (hc : canon s.mem s.cores) (t : State) (ht : Machine.execMprim o s = .next t) : canon
    t.mem t.cores := by grind [Machine.execMprim]
grind_pattern execMprim_canon => Machine.execMprim o s, State.mem t
theorem issueGroupOp_canon (s : State) (g : Group) (ts : List Thread) (wait : BitVec 3) (kind : OpKind) (hc : canon s.mem s.cores) :
    canon (Machine.issueGroupOp s g ts wait kind).mem (Machine.issueGroupOp s g ts wait kind).cores := by grind [Machine.issueGroupOp]
grind_pattern issueGroupOp_canon => Machine.issueGroupOp s g ts wait kind
theorem execMend_canon (o : TaskOp) (s : State) (hc : canon s.mem s.cores) (t : State) (ht : Machine.execMend o s = .next t) : canon
    t.mem t.cores := by
  unfold Machine.execMend at ht
  cases ht
  split
  · exact hc
  · refine runGroup_canon _ _ _ (fun s g ts hc => ?_) hc
    (repeat' split) <;> grind
grind_pattern execMend_canon => Machine.execMend o s, State.mem t
theorem writeBins_canon (f : Frame) (s : State) (r : Nat) (records : List Nat) (hc : canon s.mem s.cores) : canon
    (Machine.writeBins f s r records).1.mem (Machine.writeBins f s r records).1.cores := by grind [Machine.writeBins]
grind_pattern writeBins_canon => Machine.writeBins f s r records
theorem binMeshlet_canon (s : State) (g : Group) (die : Nat) (base : Nat) (nv : Nat) (np : Nat) (key : BitVec 24)
    (hc : canon s.mem s.cores) : canon (Machine.binMeshlet s g die base nv np key).1.mem
    (Machine.binMeshlet s g die base nv np key).1.cores := by grind [Machine.binMeshlet]
grind_pattern binMeshlet_canon => Machine.binMeshlet s g die base nv np key
theorem execMeshletBinning_canon (op : Nat) (s : State) (hc : canon s.mem s.cores) (t : State)
    (ht : Machine.execMeshletBinning op s = .next t) : canon t.mem t.cores := by grind [Machine.execMeshletBinning]
grind_pattern execMeshletBinning_canon => Machine.execMeshletBinning op s, State.mem t
theorem execTcomb_canon (o : TaskOp) (s : State) (hc : canon s.mem s.cores) (t : State) (ht : Machine.execTcomb o s = .next t) : canon
    t.mem t.cores := by grind [Machine.execTcomb]
grind_pattern execTcomb_canon => Machine.execTcomb o s, State.mem t
theorem combineOne_canon (z : Word) (key : Word) (colour : DWord) (acc : State × Bool) (p : Nat × Nat)
    (hc : canon acc.1.mem acc.1.cores) : canon (Machine.combineOne z key colour acc p).1.mem
    (Machine.combineOne z key colour acc p).1.cores := by grind [Machine.combineOne]
grind_pattern combineOne_canon => Machine.combineOne z key colour acc p
theorem execTcombCompletion_canon (op : Nat) (s : State) (hc : canon s.mem s.cores) (t : State)
    (ht : Machine.execTcombCompletion op s = .next t) : canon t.mem t.cores := by
  unfold Machine.execTcombCompletion at ht
  cases ht
  (repeat' split) <;> grind
grind_pattern execTcombCompletion_canon => Machine.execTcombCompletion op s, State.mem t
theorem execTdone_canon (o : TaskOp) (s : State) (hc : canon s.mem s.cores) (t : State) (ht : Machine.execTdone o s = .next t) : canon
    t.mem t.cores := by grind [Machine.execTdone]
grind_pattern execTdone_canon => Machine.execTdone o s, State.mem t
theorem writeHist_canon (s : State) (part : Nat) (world : Bool) (va : Nat) (bs : List Byte) (bad : Bool) (hc : canon s.mem s.cores) :
    canon (Machine.writeHist s part world va bs bad).mem (Machine.writeHist s part world va bs bad).cores := by grind [Machine.writeHist]
grind_pattern writeHist_canon => Machine.writeHist s part world va bs bad
theorem copyTile_canon (s : State) (core : Nat) (off : Nat) (x : TileView) (hc : canon s.mem s.cores) : canon
    (Machine.copyTile s core off x).mem (Machine.copyTile s core off x).cores := by grind [Machine.copyTile]
grind_pattern copyTile_canon => Machine.copyTile s core off x
theorem handOff_canon (op : Nat) (s : State) (hc : canon s.mem s.cores) : canon (Machine.handOff op s).mem (Machine.handOff op s).cores := by grind [Machine.handOff]
grind_pattern handOff_canon => Machine.handOff op s
theorem execTdoneCompletion_canon (op : Nat) (s : State) (hc : canon s.mem s.cores) (t : State)
    (ht : Machine.execTdoneCompletion op s = .next t) : canon t.mem t.cores := by grind [Machine.execTdoneCompletion]
grind_pattern execTdoneCompletion_canon => Machine.execTdoneCompletion op s, State.mem t

/-! ## Display -/

theorem earlierWords_canon (s : State) (h : Hist) (fnum : Nat) (t : Timing) (x : Nat) (y : Nat) (n : Nat) (hc : canon s.mem s.cores) :
    canon (Machine.earlierWords s h fnum t x y n).1.mem (Machine.earlierWords s h fnum t x y n).1.cores := by grind [Machine.earlierWords]
grind_pattern earlierWords_canon => Machine.earlierWords s h fnum t x y n
theorem fillEarlier_canon (s : State) (h : Hist) (fnum : Nat) (t : Timing) (x : Nat) (y : Nat) (n : Nat) (hc : canon s.mem s.cores) :
    canon (Machine.fillEarlier s h fnum t x y n).mem (Machine.fillEarlier s h fnum t x y n).cores := by grind [Machine.fillEarlier]
grind_pattern fillEarlier_canon => Machine.fillEarlier s h fnum t x y n
theorem countLate_canon (s : State) (o : Nat) (late : Nat) (stale : Nat) (hc : canon s.mem s.cores) : canon
    (Machine.countLate s o late stale).mem (Machine.countLate s o late stale).cores := by grind [Machine.countLate]
grind_pattern countLate_canon => Machine.countLate s o late stale
theorem fillLate_canon (o : Nat) (t : Timing) (s : State) (x : TileView) (hc : canon s.mem s.cores) : canon
    (Machine.fillLate o t s x).mem (Machine.fillLate o t s x).cores := by grind [Machine.fillLate]
grind_pattern fillLate_canon => Machine.fillLate o t s x
theorem fillStrip_canon (s : State) (f : Frame) (o : Nat) (k : Nat) (t : Timing) (hc : canon s.mem s.cores) : canon
    (Machine.fillStrip s f o k t).mem (Machine.fillStrip s f o k t).cores := by grind [Machine.fillStrip]
grind_pattern fillStrip_canon => Machine.fillStrip s f o k t
theorem closeStrip_canon (s : State) (die : Nat) (f : Frame) (o : Nat) (k : Nat) (t : Timing) (hc : canon s.mem s.cores) : canon
    (Machine.closeStrip s die f o k t).mem (Machine.closeStrip s die f o k t).cores := by grind [Machine.closeStrip]
grind_pattern closeStrip_canon => Machine.closeStrip s die f o k t
theorem closeDue_canon (out : Nat) (s : State) (hc : canon s.mem s.cores) : canon (Machine.closeDue out s).mem
    (Machine.closeDue out s).cores := by grind [Machine.closeDue]
grind_pattern closeDue_canon => Machine.closeDue out s
theorem execStripDeadline_canon (out : Nat) (s : State) (hc : canon s.mem s.cores) (t : State)
    (ht : Machine.execStripDeadline out s = .next t) : canon t.mem t.cores := by grind [Machine.execStripDeadline]
grind_pattern execStripDeadline_canon => Machine.execStripDeadline out s, State.mem t
theorem startScan_canon (out : Nat) (s : State) (hc : canon s.mem s.cores) : canon (Machine.startScan out s).mem
    (Machine.startScan out s).cores := by grind [Machine.startScan]
grind_pattern startScan_canon => Machine.startScan out s
theorem execFrameScanoutStart_canon (out : Nat) (s : State) (hc : canon s.mem s.cores) (t : State)
    (ht : Machine.execFrameScanoutStart out s = .next t) : canon t.mem t.cores := by grind [Machine.execFrameScanoutStart]
grind_pattern execFrameScanoutStart_canon => Machine.execFrameScanoutStart out s, State.mem t
theorem rowBytes_canon (s : State) (hist : Option Hist) (c : Scan) (hc : canon s.mem s.cores) : canon (Machine.rowBytes s hist c).1.mem
    (Machine.rowBytes s hist c).1.cores := by
  unfold Machine.rowBytes
  grind
grind_pattern rowBytes_canon => Machine.rowBytes s hist c
theorem sendRow_canon (out : Nat) (s : State) (hc : canon s.mem s.cores) : canon (Machine.sendRow out s).mem
    (Machine.sendRow out s).cores := by grind [Machine.sendRow]
grind_pattern sendRow_canon => Machine.sendRow out s
theorem execScanoutLine_canon (out : Nat) (s : State) (hc : canon s.mem s.cores) (t : State)
    (ht : Machine.execScanoutLine out s = .next t) : canon t.mem t.cores := by grind [Machine.execScanoutLine]
grind_pattern execScanoutLine_canon => Machine.execScanoutLine out s, State.mem t
theorem doTimed_canon (s : State) (e : Timed) (hc : canon s.mem s.cores) : canon (Machine.doTimed s e).mem (Machine.doTimed s e).cores := by
  unfold Machine.doTimed
  grind
grind_pattern doTimed_canon => Machine.doTimed s e
theorem serveDisplay_canon (a0 : Nat) (a1 : State) (hc : canon a1.mem a1.cores) : canon (Machine.serveDisplay a0 a1).mem
    (Machine.serveDisplay a0 a1).cores := by
  fun_induction Machine.serveDisplay <;> grind
grind_pattern serveDisplay_canon => Machine.serveDisplay a0 a1

/-! ## HostLink -/

theorem eventFree_canon (s : State) (part : Nat) (code : Nat) (arg0 : Nat) (hc : canon s.mem s.cores) : canon
    (Machine.eventFree s part code arg0).mem (Machine.eventFree s part code arg0).cores := by grind [Machine.eventFree]
grind_pattern eventFree_canon => Machine.eventFree s part code arg0
theorem eventUnnamed_canon (s : State) (part : Nat) (hc : canon s.mem s.cores) : canon (Machine.eventUnnamed s part).mem
    (Machine.eventUnnamed s part).cores := by grind [Machine.eventUnnamed]
grind_pattern eventUnnamed_canon => Machine.eventUnnamed s part
theorem dropPartCode_canon (s : State) (part : Nat) (hc : canon s.mem s.cores) : canon (Machine.dropPartCode s part).mem
    (Machine.dropPartCode s part).cores := by
  refine ⟨hc.1, fun x hx => ?_⟩
  obtain ⟨y, hy, rfl⟩ := List.mem_map.1 hx
  exact hc.2 y hy
grind_pattern dropPartCode_canon => Machine.dropPartCode s part
theorem enqueueBytes_canon (s : State) (part : Nat) (offset : Nat) (data : List Byte) (hc : canon s.mem s.cores) : canon
    (Machine.enqueueBytes s part offset data).mem (Machine.enqueueBytes s part offset data).cores := by grind [Machine.enqueueBytes]
grind_pattern enqueueBytes_canon => Machine.enqueueBytes s part offset data
theorem execHostEnqueue_canon (part : Nat) (offset : Nat) (words : List DWord) (s : State) (hc : canon s.mem s.cores) (t : State)
    (ht : Machine.execHostEnqueue part offset words s = .next t) : canon t.mem t.cores := by grind [Machine.execHostEnqueue]
grind_pattern execHostEnqueue_canon => Machine.execHostEnqueue part offset words s, State.mem t
theorem execHostMemoryRead_canon (part : Nat) (va : DWord) (len : Nat) (s : State) (hc : canon s.mem s.cores) (t : State)
    (ht : Machine.execHostMemoryRead part va len s = .next t) : canon t.mem t.cores := by grind [Machine.execHostMemoryRead]
grind_pattern execHostMemoryRead_canon => Machine.execHostMemoryRead part va len s, State.mem t
theorem execHostMemoryWrite_canon (part : Nat) (va : DWord) (data : List (Option Byte)) (s : State) (hc : canon s.mem s.cores)
    (t : State) (ht : Machine.execHostMemoryWrite part va data s = .next t) : canon t.mem t.cores := by grind [Machine.execHostMemoryWrite]
grind_pattern execHostMemoryWrite_canon => Machine.execHostMemoryWrite part va data s, State.mem t
theorem displayIgnored_canon (s : State) (o : Nat) (i : Nat) (v : Word) (hc : canon s.mem s.cores) : canon
    (Machine.displayIgnored s o i v).mem (Machine.displayIgnored s o i v).cores := by grind [Machine.displayIgnored]
grind_pattern displayIgnored_canon => Machine.displayIgnored s o i v
theorem dmodeWrite_canon (s : State) (o : Nat) (v : Word) (hc : canon s.mem s.cores) : canon (Machine.dmodeWrite s o v).mem
    (Machine.dmodeWrite s o v).cores := by grind [Machine.dmodeWrite]
grind_pattern dmodeWrite_canon => Machine.dmodeWrite s o v
theorem displayWrite_canon (s : State) (o : Nat) (i : Nat) (v : Word) (hc : canon s.mem s.cores) : canon
    (Machine.displayWrite s o i v).mem (Machine.displayWrite s o i v).cores := by
  unfold Machine.displayWrite
  grind
grind_pattern displayWrite_canon => Machine.displayWrite s o i v
theorem execDisplayEnable_canon (out : Nat) (val : Word) (s : State) (hc : canon s.mem s.cores) (t : State)
    (ht : Machine.execDisplayEnable out val s = .next t) : canon t.mem t.cores := by grind [Machine.execDisplayEnable]
grind_pattern execDisplayEnable_canon => Machine.execDisplayEnable out val s, State.mem t
theorem execLinkTrainingDone_canon (out : Nat) (ok : Bool) (s : State) (hc : canon s.mem s.cores) (t : State)
    (ht : Machine.execLinkTrainingDone out ok s = .next t) : canon t.mem t.cores := by grind [Machine.execLinkTrainingDone]
grind_pattern execLinkTrainingDone_canon => Machine.execLinkTrainingDone out ok s, State.mem t
theorem execHostRegisterWrite_canon (offset : Nat) (data : List Byte) (s : State) (hc : canon s.mem s.cores) (t : State)
    (ht : Machine.execHostRegisterWrite offset data s = .next t) : canon t.mem t.cores := by grind [Machine.execHostRegisterWrite]
grind_pattern execHostRegisterWrite_canon => Machine.execHostRegisterWrite offset data s, State.mem t
theorem hostRegisterRead_canon (s : State) (offset : Nat) (n : Nat) (hc : canon s.mem s.cores) : canon
    (Machine.hostRegisterRead s offset n).mem (Machine.hostRegisterRead s offset n).cores := by grind [Machine.hostRegisterRead]
grind_pattern hostRegisterRead_canon => Machine.hostRegisterRead s offset n
theorem hostCounterRead_canon (s : State) (n : Nat) (core : Nat) (part : Nat) (hc : canon s.mem s.cores) : canon
    (Machine.hostCounterRead s n core part).mem (Machine.hostCounterRead s n core part).cores := by grind [Machine.hostCounterRead]
grind_pattern hostCounterRead_canon => Machine.hostCounterRead s n core part
theorem execGazeWrite_canon (view : Nat) (val : Word) (s : State) (hc : canon s.mem s.cores) (t : State)
    (ht : Machine.execGazeWrite view val s = .next t) : canon t.mem t.cores := by grind [Machine.execGazeWrite]
grind_pattern execGazeWrite_canon => Machine.execGazeWrite view val s, State.mem t
theorem execPcselWrite_canon (n : Nat) (val : Word) (s : State) (hc : canon s.mem s.cores) (t : State)
    (ht : Machine.execPcselWrite n val s = .next t) : canon t.mem t.cores := by grind [Machine.execPcselWrite]
grind_pattern execPcselWrite_canon => Machine.execPcselWrite n val s, State.mem t
theorem execCapabilityExchange_canon (word : DWord) (s : State) (hc : canon s.mem s.cores) (t : State)
    (ht : Machine.execCapabilityExchange word s = .next t) : canon t.mem t.cores := by grind [Machine.execCapabilityExchange]
grind_pattern execCapabilityExchange_canon => Machine.execCapabilityExchange word s, State.mem t
theorem execHostFaultRecord_canon (part : Nat) (s : State) (hc : canon s.mem s.cores) (t : State)
    (ht : Machine.execHostFaultRecord part s = .next t) : canon t.mem t.cores := by grind [Machine.execHostFaultRecord]
grind_pattern execHostFaultRecord_canon => Machine.execHostFaultRecord part s, State.mem t
theorem execReplay_canon (part : Nat) (seq : Word) (s : State) (hc : canon s.mem s.cores) (t : State)
    (ht : Machine.execReplay part seq s = .next t) : canon t.mem t.cores := by grind [Machine.execReplay]
grind_pattern execReplay_canon => Machine.execReplay part seq s, State.mem t
theorem execKill_canon (part : Nat) (seq : Word) (s : State) (hc : canon s.mem s.cores) (t : State)
    (ht : Machine.execKill part seq s = .next t) : canon t.mem t.cores := by grind [Machine.execKill]
grind_pattern execKill_canon => Machine.execKill part seq s, State.mem t

/-! ## Power -/

theorem execFlumeWriteback_canon (core : Nat) (s : State) (hc : canon s.mem s.cores) (t : State)
    (ht : Machine.execFlumeWriteback core s = .next t) : canon t.mem t.cores := by grind [Machine.execFlumeWriteback]
grind_pattern execFlumeWriteback_canon => Machine.execFlumeWriteback core s, State.mem t
theorem moveLine_canon (s : State) (die : Nat) (l : L2Line) (slice : Nat) (hc : canon s.mem s.cores) : canon
    (Machine.moveLine s die l slice).1.mem (Machine.moveLine s die l slice).1.cores := by grind [Machine.moveLine]
grind_pattern moveLine_canon => Machine.moveLine s die l slice
theorem execL2LineMigration_canon (line : Nat) (slice : Nat) (s : State) (hc : canon s.mem s.cores) (t : State)
    (ht : Machine.execL2LineMigration line slice s = .next t) : canon t.mem t.cores := by grind [Machine.execL2LineMigration]
grind_pattern execL2LineMigration_canon => Machine.execL2LineMigration line slice s, State.mem t
theorem execL2placeWrite_canon (val : Word) (s : State) (hc : canon s.mem s.cores) (t : State)
    (ht : Machine.execL2placeWrite val s = .next t) : canon t.mem t.cores := by grind [Machine.execL2placeWrite]
grind_pattern execL2placeWrite_canon => Machine.execL2placeWrite val s, State.mem t
theorem sendHome_canon (s : State) (x : Nat × Nat) (hc : canon s.mem s.cores) : canon (Machine.sendHome s x).mem
    (Machine.sendHome s x).cores := by grind [Machine.sendHome]
grind_pattern sendHome_canon => Machine.sendHome s x
theorem execL2placeDrainDone_canon (s : State) (hc : canon s.mem s.cores) (t : State) (ht : Machine.execL2placeDrainDone s = .next t) :
    canon t.mem t.cores := by grind [Machine.execL2placeDrainDone]
grind_pattern execL2placeDrainDone_canon => Machine.execL2placeDrainDone s, State.mem t
theorem execPstateWrite_canon (val : Word) (s : State) (hc : canon s.mem s.cores) (t : State)
    (ht : Machine.execPstateWrite val s = .next t) : canon t.mem t.cores := by grind [Machine.execPstateWrite]
grind_pattern execPstateWrite_canon => Machine.execPstateWrite val s, State.mem t
theorem execPstateChangeDone_canon (s : State) (hc : canon s.mem s.cores) (t : State) (ht : Machine.execPstateChangeDone s = .next t) :
    canon t.mem t.cores := by grind [Machine.execPstateChangeDone]
grind_pattern execPstateChangeDone_canon => Machine.execPstateChangeDone s, State.mem t
theorem execCgateWrite_canon (val : Word) (s : State) (hc : canon s.mem s.cores) (t : State)
    (ht : Machine.execCgateWrite val s = .next t) : canon t.mem t.cores := by grind [Machine.execCgateWrite]
grind_pattern execCgateWrite_canon => Machine.execCgateWrite val s, State.mem t
theorem execClusterGated_canon (cluster : Nat) (s : State) (hc : canon s.mem s.cores) (t : State)
    (ht : Machine.execClusterGated cluster s = .next t) : canon t.mem t.cores := by grind [Machine.execClusterGated]
grind_pattern execClusterGated_canon => Machine.execClusterGated cluster s, State.mem t
theorem execPowerAboveCap_canon (watts : Nat) (s : State) (hc : canon s.mem s.cores) (t : State)
    (ht : Machine.execPowerAboveCap watts s = .next t) : canon t.mem t.cores := by grind [Machine.execPowerAboveCap]
grind_pattern execPowerAboveCap_canon => Machine.execPowerAboveCap watts s, State.mem t
theorem eventUnnamed8_canon (s : State) (hc : canon s.mem s.cores) : canon (Machine.eventUnnamed8 s).mem
    (Machine.eventUnnamed8 s).cores := by grind [Machine.eventUnnamed8]
grind_pattern eventUnnamed8_canon => Machine.eventUnnamed8 s
theorem raiseFatal_canon (s : State) (cause : Nat) (hc : canon s.mem s.cores) : canon (Machine.raiseFatal s cause).mem
    (Machine.raiseFatal s cause).cores := by grind [Machine.raiseFatal]
grind_pattern raiseFatal_canon => Machine.raiseFatal s cause
theorem hostDumpRead_canon (s : State) (off : Nat) (n : Nat) (hc : canon s.mem s.cores) : canon (Machine.hostDumpRead s off n).mem
    (Machine.hostDumpRead s off n).cores := by grind [Machine.hostDumpRead]
grind_pattern hostDumpRead_canon => Machine.hostDumpRead s off n
theorem execDeviceFatal_canon (cause : Nat) (s : State) (hc : canon s.mem s.cores) (t : State)
    (ht : Machine.execDeviceFatal cause s = .next t) : canon t.mem t.cores := by grind [Machine.execDeviceFatal]
grind_pattern execDeviceFatal_canon => Machine.execDeviceFatal cause s, State.mem t
theorem execThermalTrip_canon (celsius : Nat) (s : State) (hc : canon s.mem s.cores) (t : State)
    (ht : Machine.execThermalTrip celsius s = .next t) : canon t.mem t.cores := by grind [Machine.execThermalTrip]
grind_pattern execThermalTrip_canon => Machine.execThermalTrip celsius s, State.mem t
theorem execPartitionEnable_canon (part : Nat) (val : Word) (s : State) (hc : canon s.mem s.cores) (t : State)
    (ht : Machine.execPartitionEnable part val s = .next t) : canon t.mem t.cores := by grind [Machine.execPartitionEnable]
grind_pattern execPartitionEnable_canon => Machine.execPartitionEnable part val s, State.mem t
theorem execPartitionDisable_canon (part : Nat) (val : Word) (s : State) (hc : canon s.mem s.cores) (t : State)
    (ht : Machine.execPartitionDisable part val s = .next t) : canon t.mem t.cores := by grind [Machine.execPartitionDisable]
grind_pattern execPartitionDisable_canon => Machine.execPartitionDisable part val s, State.mem t
theorem clearPages_canon (s : State) (p : Nat) (va : Nat) (n : Nat) (hc : canon s.mem s.cores) : canon
    (Machine.clearPages s p va n).mem (Machine.clearPages s p va n).cores := by grind [Machine.clearPages]
grind_pattern clearPages_canon => Machine.clearPages s p va n
theorem clearTables_canon (s : State) (p : Nat) (d : PartDesc) (hc : canon s.mem s.cores) : canon (Machine.clearTables s p d).mem
    (Machine.clearTables s p d).cores := by grind [Machine.clearTables]
grind_pattern clearTables_canon => Machine.clearTables s p d
theorem eventEnableFailed_canon (part : Nat) (check : Nat) (s : State) (hc : canon s.mem s.cores) : canon
    (Machine.eventEnableFailed part check s).mem (Machine.eventEnableFailed part check s).cores := by grind [Machine.eventEnableFailed]
grind_pattern eventEnableFailed_canon => Machine.eventEnableFailed part check s
theorem execPartitionEnableCheckDone_canon (part : Nat) (s : State) (hc : canon s.mem s.cores) (t : State)
    (ht : Machine.execPartitionEnableCheckDone part s = .next t) : canon t.mem t.cores := by grind [Machine.execPartitionEnableCheckDone]
grind_pattern execPartitionEnableCheckDone_canon => Machine.execPartitionEnableCheckDone part s, State.mem t
theorem execMeasurementExtend_canon (part : Nat) (reg : Nat) (digest : BitVec 256) (s : State) (hc : canon s.mem s.cores) (t : State)
    (ht : Machine.execMeasurementExtend part reg digest s = .next t) : canon t.mem t.cores := by grind [Machine.execMeasurementExtend]
grind_pattern execMeasurementExtend_canon => Machine.execMeasurementExtend part reg digest s, State.mem t
theorem execAttestationRequest_canon (part : Nat) (nonce : BitVec 256) (s : State) (hc : canon s.mem s.cores) (t : State)
    (ht : Machine.execAttestationRequest part nonce s = .next t) : canon t.mem t.cores := by grind [Machine.execAttestationRequest]
grind_pattern execAttestationRequest_canon => Machine.execAttestationRequest part nonce s, State.mem t
theorem writeStream_canon (s : State) (x : Stream) (hc : canon s.mem s.cores) : canon (Machine.writeStream s x).mem
    (Machine.writeStream s x).cores := by grind [Machine.writeStream]
grind_pattern writeStream_canon => Machine.writeStream s x
theorem execRecoveryPoint_canon (part : Nat) (addr : DWord) (s : State) (hc : canon s.mem s.cores) (t : State)
    (ht : Machine.execRecoveryPoint part addr s = .next t) : canon t.mem t.cores := by grind [Machine.execRecoveryPoint]
grind_pattern execRecoveryPoint_canon => Machine.execRecoveryPoint part addr s, State.mem t
theorem dropWork_canon (s : State) (p : Nat) (hc : canon s.mem s.cores) : canon (Machine.dropWork s p).mem (Machine.dropWork s p).cores := by
  refine ⟨hc.1, fun x hx => ?_⟩
  obtain ⟨y, hy, rfl⟩ := List.mem_map.1 hx
  exact hc.2 y hy
grind_pattern dropWork_canon => Machine.dropWork s p
theorem restoreStream_canon (s : State) (x : Stream) (hc : canon s.mem s.cores) : canon (Machine.restoreStream s x).mem
    (Machine.restoreStream s x).cores := by grind [Machine.restoreStream]
grind_pattern restoreStream_canon => Machine.restoreStream s x
theorem execRollback_canon (part : Nat) (stream : Nat) (s : State) (hc : canon s.mem s.cores) (t : State)
    (ht : Machine.execRollback part stream s = .next t) : canon t.mem t.cores := by grind [Machine.execRollback]
grind_pattern execRollback_canon => Machine.execRollback part stream s, State.mem t
theorem execColdReset_canon (s : State) (hc : canon s.mem s.cores) (t : State) (ht : Machine.execColdReset s = .next t) : canon t.mem
    t.cores := by
  unfold Machine.execColdReset at ht
  cases ht
  split
  · exact sendHost_canon _ _ ⟨hc.1, fun _ hx => nomatch hx⟩
  · exact ⟨hc.1, fun _ hx => nomatch hx⟩
grind_pattern execColdReset_canon => Machine.execColdReset s, State.mem t

/-! ## Clause -/

theorem freshOrStale_canon (s : State) (c : Ctx) (va : Nat) (e : ISector) (hc : canon s.mem s.cores) : canon
    (Machine.freshOrStale s c va e).1.mem (Machine.freshOrStale s c va e).1.cores := by grind [Machine.freshOrStale]
grind_pattern freshOrStale_canon => Machine.freshOrStale s c va e
theorem fetchSector_canon (s : State) (c : Ctx) (va : Nat) (hc : canon s.mem s.cores) : canon (Machine.fetchSector s c va).1.mem
    (Machine.fetchSector s c va).1.cores := by grind [Machine.fetchSector]
grind_pattern fetchSector_canon => Machine.fetchSector s c va
theorem fetchClause_canon (s : State) (c : Ctx) (hdr : Nat) (hc : canon s.mem s.cores) : canon (Machine.fetchClause s c hdr).1.mem
    (Machine.fetchClause s c hdr).1.cores := by grind [Machine.fetchClause]
grind_pattern fetchClause_canon => Machine.fetchClause s c hdr
theorem fetchFor_canon (s : State) (core : Nat) (lead : Group × Thread) (ms : List (Group × Thread)) (hc : canon s.mem s.cores) : canon
    (Machine.fetchFor s core lead ms).mem (Machine.fetchFor s core lead ms).cores := by grind [Machine.fetchFor]
grind_pattern fetchFor_canon => Machine.fetchFor s core lead ms
theorem execClauseFetch_canon (core : Nat) (sub : Nat) (s : State) (hc : canon s.mem s.cores) (t : State)
    (ht : Machine.execClauseFetch core sub s = .next t) : canon t.mem t.cores := by grind [Machine.execClauseFetch]
grind_pattern execClauseFetch_canon => Machine.execClauseFetch core sub s, State.mem t
theorem startThread_canon (s : State) (m : Group × Thread) (hc : canon s.mem s.cores) : canon (Machine.startThread s m).mem
    (Machine.startThread s m).cores := by grind [Machine.startThread]
grind_pattern startThread_canon => Machine.startThread s m
theorem startIssue_canon (s : State) (core : Nat) (rcv : Bool) (clause : Word × List Word) (lead : Group × Thread)
    (ms : List (Group × Thread)) (hc : canon s.mem s.cores) : canon (Machine.startIssue s core rcv clause lead ms).mem
    (Machine.startIssue s core rcv clause lead ms).cores := by grind [Machine.startIssue]
grind_pattern startIssue_canon => Machine.startIssue s core rcv clause lead ms
theorem takeDeferred_canon (s : State) (lead : Group × Thread) (ms : List (Group × Thread)) (hc : canon s.mem s.cores) (t : State)
    (ht : Machine.takeDeferred s lead ms = some t) : canon t.mem t.cores := by grind [Machine.takeDeferred]
grind_pattern takeDeferred_canon => Machine.takeDeferred s lead ms, State.mem t
theorem execClauseIssue_canon (core : Nat) (sub : Nat) (s : State) (hc : canon s.mem s.cores) (t : State)
    (ht : Machine.execClauseIssue core sub s = .next t) : canon t.mem t.cores := by grind [Machine.execClauseIssue]
grind_pattern execClauseIssue_canon => Machine.execClauseIssue core sub s, State.mem t
theorem execReconvergence_canon (gk : Nat) (s : State) (hc : canon s.mem s.cores) (t : State)
    (ht : Machine.execReconvergence gk s = .next t) : canon t.mem t.cores := by grind [Machine.execReconvergence]
grind_pattern execReconvergence_canon => Machine.execReconvergence gk s, State.mem t

/-! ## Dispatch -/

theorem exec_canon (i : Instr) (s : State) (hc : canon s.mem s.cores) (t : State) (ht : Machine.exec i s = .next t) : canon t.mem
    t.cores := by
  cases i <;> simp only [Machine.exec] at ht <;> grind
grind_pattern exec_canon => Machine.exec i s, State.mem t

/-! ## Agenda -/

theorem bringFront_canon (s : State) (k : Nat) (hc : canon s.mem s.cores) : canon (Machine.bringFront s k).mem
    (Machine.bringFront s k).cores := by grind [Machine.bringFront]
grind_pattern bringFront_canon => Machine.bringFront s k
theorem takePrivate_canon (s : State) (hc : canon s.mem s.cores) (t : State) (ht : Machine.takePrivate s = some t) : canon t.mem
    t.cores := by grind [Machine.takePrivate]
grind_pattern takePrivate_canon => Machine.takePrivate s, State.mem t
theorem runHead_canon (s : State) (hc : canon s.mem s.cores) (t : State) (ht : Machine.runHead s = .next t) : canon t.mem t.cores := by grind [Machine.runHead]
grind_pattern runHead_canon => Machine.runHead s, State.mem t
theorem runIssue_canon (s : State) (k : Nat) (hc : canon s.mem s.cores) (t : State) (ht : Machine.runIssue s k = some (.next t)) :
    canon t.mem t.cores := by grind [Machine.runIssue]
grind_pattern runIssue_canon => Machine.runIssue s k, State.mem t
theorem runAny_canon (s : State) (a1 : Nat) (a2 : Nat) (hc : canon s.mem s.cores) (t : State)
    (ht : Machine.runAny s a1 a2 = some (.next t)) : canon t.mem t.cores := by
  fun_induction Machine.runAny with
  | case1 => cases ht
  | case2 n k ih =>
    cases hr : runIssue s k with
    | none => rw [hr] at ht; exact ih ht
    | some r => rw [hr] at ht; cases ht; exact runIssue_canon s k hc t hr
grind_pattern runAny_canon => Machine.runAny s a1 a2, State.mem t
theorem tryEvent_canon (s : State) (i : Instr) (hc : canon s.mem s.cores) (t : State) (ht : Machine.tryEvent s i = some (.next t)) :
    canon t.mem t.cores := by grind [Machine.tryEvent]
grind_pattern tryEvent_canon => Machine.tryEvent s i, State.mem t
theorem wakeReady_canon (s : State) (hc : canon s.mem s.cores) (t : State) (ht : Machine.wakeReady s = some t) : canon t.mem t.cores := by
  unfold Machine.wakeReady at ht
  obtain ⟨w, -, rfl⟩ := Option.map_eq_some_iff.1 ht
  exact retest_canon _ _ hc
grind_pattern wakeReady_canon => Machine.wakeReady s, State.mem t
theorem background_canon (s : State) (hc : canon s.mem s.cores) (t : State) (ht : Machine.background s = .next t) : canon t.mem t.cores := by
  have rest (r : Option Res) (h : ∀ x, r = some x → ∀ t, x = .next t → canon t.mem t.cores) (t : State)
      (ht : r.getD (.next s) = .next t) : canon t.mem t.cores := by
    cases r with
    | none => cases ht; exact hc
    | some x => exact h x rfl t ht
  unfold Machine.background at ht
  split at ht
  · next s1 h =>
    cases ht
    split at h
    · cases h
    · exact wakeReady_canon _ hc _ h
  · refine rest _ (fun x hx t ht => ?_) t ht
    subst ht
    obtain ⟨f, -, h⟩ := List.exists_of_findSome?_eq_some hx
    obtain ⟨i, -, h⟩ := List.exists_of_findSome?_eq_some h
    exact tryEvent_canon _ _ hc _ h
grind_pattern background_canon => Machine.background s, State.mem t
theorem poisonHbm_canon (s : State) (pa : Nat) (hc : canon s.mem s.cores) : canon (Machine.poisonHbm s pa).mem
    (Machine.poisonHbm s pa).cores := by grind [Machine.poisonHbm]
grind_pattern poisonHbm_canon => Machine.poisonHbm s pa
theorem poisonL1Sector_canon (s : State) (core : Nat) (asid : Nat) (line : Nat) (k : Nat) (hc : canon s.mem s.cores) : canon
    (Machine.poisonL1Sector s core asid line k).mem (Machine.poisonL1Sector s core asid line k).cores := by grind [Machine.poisonL1Sector]
grind_pattern poisonL1Sector_canon => Machine.poisonL1Sector s core asid line k
theorem poisonL2Sector_canon (s : State) (die : Nat) (line : Nat) (k : Nat) (hc : canon s.mem s.cores) : canon
    (Machine.poisonL2Sector s die line k).mem (Machine.poisonL2Sector s die line k).cores := by grind [Machine.poisonL2Sector]
grind_pattern poisonL2Sector_canon => Machine.poisonL2Sector s die line k
theorem senseNow_canon (s : State) (celsius : Nat) (watts : Nat) (hc : canon s.mem s.cores) : canon
    (Machine.senseNow s celsius watts).mem (Machine.senseNow s celsius watts).cores := by grind [Machine.senseNow]
grind_pattern senseNow_canon => Machine.senseNow s celsius watts
theorem setRegion_canon (s : State) (die : Nat) (gb : Nat) (part : Nat) (secure : Bool) (hc : canon s.mem s.cores) : canon
    (Machine.setRegion s die gb part secure).mem (Machine.setRegion s die gb part secure).cores := by grind [Machine.setRegion]
grind_pattern setRegion_canon => Machine.setRegion s die gb part secure
theorem setHostRange_canon (s : State) (first : Nat) (last : Nat) (part : Nat) (secure : Bool) (hc : canon s.mem s.cores) : canon
    (Machine.setHostRange s first last part secure).mem (Machine.setHostRange s first last part secure).cores := by grind [Machine.setHostRange]
grind_pattern setHostRange_canon => Machine.setHostRange s first last part secure
theorem setBlock_canon (s : State) (b : Block) (secure : Bool) (hc : canon s.mem s.cores) : canon (Machine.setBlock s b secure).mem
    (Machine.setBlock s b secure).cores := by grind [Machine.setBlock]
grind_pattern setBlock_canon => Machine.setBlock s b secure
theorem firmwareWrite_canon (s : State) (n : Nat) (v : Word) (hc : canon s.mem s.cores) : canon (Machine.firmwareWrite s n v).mem
    (Machine.firmwareWrite s n v).cores := by grind [Machine.firmwareWrite]
grind_pattern firmwareWrite_canon => Machine.firmwareWrite s n v
theorem engineMoves_canon (s : State) (op : Nat) (piece : Nat) (hc : canon s.mem s.cores) : canon (Machine.engineMoves s op piece).mem
    (Machine.engineMoves s op piece).cores := by grind [Machine.engineMoves]
grind_pattern engineMoves_canon => Machine.engineMoves s op piece
theorem engineVisits_canon (s : State) (op : Nat) (n : Nat) (hc : canon s.mem s.cores) : canon (Machine.engineVisits s op n).mem
    (Machine.engineVisits s op n).cores := by grind [Machine.engineVisits]
grind_pattern engineVisits_canon => Machine.engineVisits s op n
theorem replyPart_canon (s : State) (op : Nat) (reg : Nat) (hc : canon s.mem s.cores) : canon (Machine.replyPart s op reg).mem
    (Machine.replyPart s op reg).cores := by grind [Machine.replyPart]
grind_pattern replyPart_canon => Machine.replyPart s op reg
theorem storePart_canon (s : State) (op : Nat) (n : Nat) (hc : canon s.mem s.cores) : canon (Machine.storePart s op n).mem
    (Machine.storePart s op n).cores := by grind [Machine.storePart]
grind_pattern storePart_canon => Machine.storePart s op n
theorem hostStore_canon (s : State) (pa : Nat) (data : List Byte) (hc : canon s.mem s.cores) : canon (Machine.hostStore s pa data).mem
    (Machine.hostStore s pa data).cores := by grind [Machine.hostStore]
grind_pattern hostStore_canon => Machine.hostStore s pa data
theorem setPredict_canon (s : State) (core : Nat) (asid : Nat) (line : Nat) (inL1 : Bool) (hc : canon s.mem s.cores) : canon
    (Machine.setPredict s core asid line inL1).mem (Machine.setPredict s core asid line inL1).cores := by grind [Machine.setPredict]
grind_pattern setPredict_canon => Machine.setPredict s core asid line inL1
theorem countClocks_canon (ck : Nat) (s : State) (core : Nat) (hc : canon s.mem s.cores) : canon (Machine.countClocks ck s core).mem
    (Machine.countClocks ck s core).cores := by grind [Machine.countClocks]
grind_pattern countClocks_canon => Machine.countClocks ck s core
theorem tick_canon (s : State) (n : Nat) (hc : canon s.mem s.cores) : canon (Machine.tick s n).mem (Machine.tick s n).cores := by grind [Machine.tick]
grind_pattern tick_canon => Machine.tick s n
theorem serveCap_canon (s : State) (hc : canon s.mem s.cores) : canon (Machine.serveCap s).mem (Machine.serveCap s).cores := by grind [Machine.serveCap]
grind_pattern serveCap_canon => Machine.serveCap s
theorem serveTimes_canon (s : State) (hc : canon s.mem s.cores) : canon (Machine.serveTimes s).mem (Machine.serveTimes s).cores := by grind [Machine.serveTimes]
grind_pattern serveTimes_canon => Machine.serveTimes s
theorem passFrom_canon (a0 : Nat) (a1 : State) (a2 : Nat) (hc : canon a1.mem a1.cores) : canon (Machine.passFrom a0 a1 a2).mem
    (Machine.passFrom a0 a1 a2).cores := by
  induction a0 generalizing a1 a2 with
  | zero => unfold Machine.passFrom; exact serveTimes_canon _ (tick_canon _ _ hc)
  | succ fuel ih =>
    unfold Machine.passFrom
    split
    · exact serveTimes_canon _ (tick_canon _ _ hc)
    · split
      · exact serveTimes_canon _ (tick_canon _ _ hc)
      · exact ih _ _ (serveTimes_canon _ (tick_canon _ _ hc))
grind_pattern passFrom_canon => Machine.passFrom a0 a1 a2
theorem passTime_canon (s : State) (n : Nat) (hc : canon s.mem s.cores) : canon (Machine.passTime s n).mem (Machine.passTime s n).cores := by grind [Machine.passTime]
grind_pattern passTime_canon => Machine.passTime s n
theorem smallAction_canon (a : Action) (s : State) (hc : canon s.mem s.cores) : canon (Machine.smallAction a s).mem
    (Machine.smallAction a s).cores := by
  cases a <;> simp only [Machine.smallAction] <;> grind
grind_pattern smallAction_canon => Machine.smallAction a s
theorem doAction_canon (a : Action) (s : State) (hc : canon s.mem s.cores) (t : State) (ht : Machine.doAction a s = .next t) : canon
    t.mem t.cores := by
  unfold Machine.doAction at ht
  split at ht
  · cases ht; exact hc
  split at ht
  · cases hr : runIssue s _ <;> rw [hr] at ht <;> cases ht
    · exact hc
    · exact runIssue_canon _ _ hc _ hr
  · split at ht
    · exact exec_canon _ _ hc _ ht
    · cases ht; exact hc
  · cases ht; exact smallAction_canon _ _ hc
grind_pattern doAction_canon => Machine.doAction a s, State.mem t

/-! ## Step -/

end Sys2Proof.Laws
end

