-- ==== Sys2Proof/Laws/Encoding.lean ====
section
/-! SUPPORT. Each instruction form is read back from its own words, and what a form reads is what its words hold (Tables 3.4 to 3.8). -/
namespace Sys2Proof.Laws

/-! ## Words as numbers -/

theorem toNat_cat {n m : Nat} (x : BitVec n) (y : BitVec m) : (x ++ y).toNat = x.toNat * 2 ^ m + y.toNat := by
  rw [BitVec.toNat_append, Nat.shiftLeft_eq, Nat.mul_comm, Nat.two_pow_add_eq_or_of_lt y.isLt]
theorem bits_nat (w : Word) (lo n : Nat) : (bits w lo n).toNat = w.toNat / 2 ^ lo % 2 ^ n := by
  rw [bits, BitVec.extractLsb'_toNat, Nat.shiftRight_eq_div_pow]
theorem b1_nat (b : Bool) : (enc.b1 b).toNat = b.toNat := by cases b <;> rfl
theorem bit_nat (w : Word) (k : Nat) : (bit w k).toNat = w.toNat / 2 ^ k % 2 := by
  rw [bit, BitVec.getLsbD, Nat.testBit, Nat.shiftRight_eq_div_pow]
  rcases Nat.mod_two_eq_zero_or_one (w.toNat / 2 ^ k) with h | h <;> simp [h]
theorem bool_eq {a b : Bool} (h : a.toNat = b.toNat) : a = b := by cases a <;> cases b <;> simp_all
theorem guard_nat (g : Guard) : (enc.guard g).toNat = g.neg.toNat * 8 + g.p.toNat := by
  unfold enc.guard; rw [toNat_cat, b1_nat] <;> rfl
theorem pred_nat (p : PredSrc) : (enc.pred p).toNat = p.neg.toNat * 8 + p.n.toNat := by
  unfold enc.pred; rw [toNat_cat, b1_nat] <;> rfl

/-! ## Fields at their place -/

theorem bits_eq {w : Word} {lo n : Nat} {x : BitVec n} (h : w.toNat / 2 ^ lo % 2 ^ n = x.toNat) : bits w lo n = x :=
  BitVec.eq_of_toNat_eq (by rw [bits_nat, h])
theorem bit_eq {w : Word} {k : Nat} {b : Bool} (h : w.toNat / 2 ^ k % 2 = b.toNat) : bit w k = b :=
  bool_eq (by rw [bit_nat, h])
theorem guardAt_nat (w : Word) (k : Nat) : (enc.guard (guardAt w k)).toNat = w.toNat / 2 ^ k % 16 := by
  rw [guard_nat, guardAt, bit_nat, bits_nat, Nat.pow_add, ← Nat.div_div_eq_div_mul]
  omega
theorem predAt_nat (w : Word) (k : Nat) : (enc.pred (predAt w k)).toNat = w.toNat / 2 ^ k % 16 := by
  rw [pred_nat, predAt, bit_nat, bits_nat, Nat.pow_add, ← Nat.div_div_eq_div_mul]
  omega
theorem guardAt_eq {w : Word} {k : Nat} {g : Guard} (h : w.toNat / 2 ^ k % 16 = (enc.guard g).toNat) : guardAt w k = g := by
  rw [guard_nat] at h
  have := g.p.isLt
  have := Bool.toNat_lt g.neg
  have hb : bit w (k + 3) = g.neg := bit_eq (by rw [Nat.pow_add, ← Nat.div_div_eq_div_mul]; omega)
  rw [guardAt, hb, bits_eq (x := g.p) (by omega)]
theorem predAt_eq {w : Word} {k : Nat} {p : PredSrc} (h : w.toNat / 2 ^ k % 16 = (enc.pred p).toNat) : predAt w k = p := by
  rw [pred_nat] at h
  have := p.n.isLt
  have := Bool.toNat_lt p.neg
  have hb : bit w (k + 3) = p.neg := bit_eq (by rw [Nat.pow_add, ← Nat.div_div_eq_div_mul]; omega)
  rw [predAt, hb, bits_eq (x := p.n) (by omega)]
theorem zeroBits_eq {w : Word} {lo n : Nat} (h : w.toNat / 2 ^ lo % 2 ^ n = 0) : zeroBits w lo n = .ok () := by
  rw [zeroBits, bits_eq (x := 0) (by rw [h]; rfl)]; simp [must]
theorem of_zeroBits {w : Word} {lo n : Nat} {u : Unit} (h : zeroBits w lo n = .ok u) : w.toNat / 2 ^ lo % 2 ^ n = 0 := by
  rw [zeroBits, must] at h
  split at h
  · rename_i hz; rw [← bits_nat, beq_iff_eq.mp hz]; rfl
  · cases h
theorem bind_ok {ε α β : Type} {x : Except ε α} {f : α → Except ε β} {b : β} (h : (x >>= f) = .ok b) : ∃ a, x = .ok a ∧ f a = .ok b := by
  rcases x with e | a
  · cases h
  · exact ⟨a, rfl, h⟩

/-! ## Source codes (Table 3.3) -/

theorem src_v_nat (r : BitVec 7) : (encodeSrc (.v r)).toNat = r.toNat := by unfold encodeSrc; rw [toNat_cat]; simp
theorem src_a_nat (k : BitVec 4) : (encodeSrc (.a k)).toNat = 0x80 + k.toNat := by unfold encodeSrc; rw [toNat_cat]; rfl
theorem src_vx_nat (k : BitVec 2) : (encodeSrc (.vx k)).toNat = 0x90 + k.toNat := by unfold encodeSrc; rw [toNat_cat]; rfl
theorem src_int_nat (n : BitVec 5) : (encodeSrc (.int n)).toNat = 0xA0 + n.toNat := by unfold encodeSrc; rw [toNat_cat]; rfl

theorem low_eq {c : BitVec 8} {n : Nat} {x : BitVec n} (h : c.toNat % 2 ^ n = x.toNat) : c.extractLsb' 0 n = x :=
  BitVec.eq_of_toNat_eq (by rw [BitVec.extractLsb'_toNat, Nat.shiftRight_zero, h])

theorem decodeSrc_encodeSrc (s : Src) : decodeSrc (encodeSrc s) = .ok s := by
  cases s with
  | v r =>
    have h := src_v_nat r
    have := r.isLt
    have e : (encodeSrc (.v r)).extractLsb' 0 7 = r := low_eq (by omega)
    rw [decodeSrc, if_pos (by omega), e]
  | a k =>
    have h := src_a_nat k
    have := k.isLt
    have e : (encodeSrc (.a k)).extractLsb' 0 4 = k := low_eq (by omega)
    rw [decodeSrc, if_neg (by omega), if_pos (by omega), e]
  | vx k =>
    have h := src_vx_nat k
    have := k.isLt
    have e : (encodeSrc (.vx k)).extractLsb' 0 2 = k := low_eq (by omega)
    rw [decodeSrc, if_neg (by omega), if_neg (by omega), if_pos (by omega), e]
  | int n =>
    have h := src_int_nat n
    have := n.isLt
    have e : (encodeSrc (.int n)).extractLsb' 0 5 = n := low_eq (by omega)
    rw [decodeSrc, e]
    repeat rw [if_neg (by omega)]
    rw [if_pos (by omega)]
  | _ => rfl

theorem encodeSrc_decodeSrc : ∀ {c : BitVec 8} {s : Src}, decodeSrc c = .ok s → encodeSrc s = c := by
  have h : ∀ n < 256, (match decodeSrc (BitVec.ofNat 8 n) with
      | .ok s => encodeSrc s == BitVec.ofNat 8 n
      | .error _ => true) = true := by decide +kernel
  intro c s hs
  have := h c.toNat c.isLt
  rw [BitVec.ofNat_toNat, BitVec.setWidth_eq, hs] at this
  exact beq_iff_eq.mp this

/-! ## The forms -/

theorem rbin_nat (op : BitVec 8) (o : RBin) :
    (enc.rbin op o).toNat =
      op.toNat * 2 ^ 24 + o.nw.toNat * 2 ^ 23 + o.d.toNat * 2 ^ 16 + (encodeSrc o.a).toNat * 2 ^ 8 + (encodeSrc o.b).toNat := by
  unfold enc.rbin
  repeat rw [toNat_cat]
  rw [b1_nat]
  omega

theorem dec_rbin (op : BitVec 8) (o : RBin) : bits (enc.rbin op o) 24 8 = op ∧ dec.rbin (enc.rbin op o) = .ok o := by
  have h := rbin_nat op o
  have := op.isLt
  have := Bool.toNat_lt o.nw
  have := o.d.isLt
  have := (encodeSrc o.a).isLt
  have := (encodeSrc o.b).isLt
  generalize enc.rbin op o = w1 at h ⊢
  refine ⟨bits_eq (by omega), ?_⟩
  have ea : bits w1 8 8 = encodeSrc o.a := bits_eq (by omega)
  have eb : bits w1 0 8 = encodeSrc o.b := bits_eq (by omega)
  have f0_23 : bit w1 23 = o.nw := bit_eq (by omega)
  have f0_16 : bits w1 16 7 = o.d := bits_eq (by omega)
  simp only [dec.rbin, ea, eb, f0_23, f0_16, decodeSrc_encodeSrc]
  rfl

theorem rbin_dec {w : Word} {o : RBin} (h : dec.rbin w = .ok o) : enc.rbin (bits w 24 8) o = w := by
  unfold dec.rbin at h
  obtain ⟨a, ha, h⟩ := bind_ok h
  obtain ⟨b, hb, h⟩ := bind_ok h
  cases h
  replace ha := congrArg BitVec.toNat (encodeSrc_decodeSrc ha)
  rw [bits_nat] at ha
  replace hb := congrArg BitVec.toNat (encodeSrc_decodeSrc hb)
  rw [bits_nat] at hb
  apply BitVec.eq_of_toNat_eq
  rw [rbin_nat]
  have := w.isLt
  simp only [bits_nat, bit_nat]
  omega

theorem run_nat (op : BitVec 8) (o : RUn) :
    (enc.run op o).toNat =
      op.toNat * 2 ^ 24 + o.nw.toNat * 2 ^ 23 + o.d.toNat * 2 ^ 16 + (encodeSrc o.a).toNat * 2 ^ 8 := by
  unfold enc.run
  repeat rw [toNat_cat]
  rw [b1_nat]
  simp only [BitVec.ofNat_eq_ofNat, BitVec.toNat_ofNat]
  omega

theorem dec_run (op : BitVec 8) (o : RUn) : bits (enc.run op o) 24 8 = op ∧ dec.run (enc.run op o) = .ok o := by
  have h := run_nat op o
  have := op.isLt
  have := Bool.toNat_lt o.nw
  have := o.d.isLt
  have := (encodeSrc o.a).isLt
  generalize enc.run op o = w1 at h ⊢
  refine ⟨bits_eq (by omega), ?_⟩
  have ea : bits w1 8 8 = encodeSrc o.a := bits_eq (by omega)
  have z0_0 : zeroBits w1 0 8 = .ok () := zeroBits_eq (by omega)
  have f0_23 : bit w1 23 = o.nw := bit_eq (by omega)
  have f0_16 : bits w1 16 7 = o.d := bits_eq (by omega)
  simp only [dec.run, ea, z0_0, f0_23, f0_16, decodeSrc_encodeSrc]
  rfl

theorem run_dec {w : Word} {o : RUn} (h : dec.run w = .ok o) : enc.run (bits w 24 8) o = w := by
  unfold dec.run at h
  obtain ⟨a, ha, h⟩ := bind_ok h
  obtain ⟨_, hz, h⟩ := bind_ok h
  replace hz := of_zeroBits hz
  cases h
  replace ha := congrArg BitVec.toNat (encodeSrc_decodeSrc ha)
  rw [bits_nat] at ha
  apply BitVec.eq_of_toNat_eq
  rw [run_nat]
  have := w.isLt
  simp only [bits_nat, bit_nat]
  omega

theorem pcmp_nat (op : BitVec 8) (o : PCmp) :
    (enc.pcmp op o).toNat =
      op.toNat * 2 ^ 24 + o.cond.toNat * 2 ^ 20 + o.pd.toNat * 2 ^ 16 + (encodeSrc o.a).toNat * 2 ^ 8 + (encodeSrc o.b).toNat := by
  unfold enc.pcmp
  repeat rw [toNat_cat]
  simp only [BitVec.ofNat_eq_ofNat, BitVec.toNat_ofNat]
  omega

theorem dec_pcmp (op : BitVec 8) (o : PCmp) : bits (enc.pcmp op o) 24 8 = op ∧ dec.pcmp (enc.pcmp op o) = .ok o := by
  have h := pcmp_nat op o
  have := op.isLt
  have := o.cond.isLt
  have := o.pd.isLt
  have := (encodeSrc o.a).isLt
  have := (encodeSrc o.b).isLt
  generalize enc.pcmp op o = w1 at h ⊢
  refine ⟨bits_eq (by omega), ?_⟩
  have z0_19 : zeroBits w1 19 1 = .ok () := zeroBits_eq (by omega)
  have ea : bits w1 8 8 = encodeSrc o.a := bits_eq (by omega)
  have eb : bits w1 0 8 = encodeSrc o.b := bits_eq (by omega)
  have f0_20 : bits w1 20 4 = o.cond := bits_eq (by omega)
  have f0_16 : bits w1 16 3 = o.pd := bits_eq (by omega)
  simp only [dec.pcmp, z0_19, ea, eb, f0_20, f0_16, decodeSrc_encodeSrc]
  rfl

theorem pcmp_dec {w : Word} {o : PCmp} (h : dec.pcmp w = .ok o) : enc.pcmp (bits w 24 8) o = w := by
  unfold dec.pcmp at h
  obtain ⟨_, hz, h⟩ := bind_ok h
  replace hz := of_zeroBits hz
  obtain ⟨a, ha, h⟩ := bind_ok h
  obtain ⟨b, hb, h⟩ := bind_ok h
  cases h
  replace ha := congrArg BitVec.toNat (encodeSrc_decodeSrc ha)
  rw [bits_nat] at ha
  replace hb := congrArg BitVec.toNat (encodeSrc_decodeSrc hb)
  rw [bits_nat] at hb
  apply BitVec.eq_of_toNat_eq
  rw [pcmp_nat]
  have := w.isLt
  simp only [bits_nat]
  omega

theorem plog_nat (op : BitVec 8) (o : PLog) :
    (enc.plog op o).toNat =
      op.toNat * 2 ^ 24 + o.pd.toNat * 2 ^ 16 + (enc.pred o.a).toNat * 2 ^ 8 + (enc.pred o.b).toNat := by
  unfold enc.plog
  repeat rw [toNat_cat]
  simp only [BitVec.ofNat_eq_ofNat, BitVec.toNat_ofNat]
  omega

theorem dec_plog (op : BitVec 8) (o : PLog) : bits (enc.plog op o) 24 8 = op ∧ dec.plog (enc.plog op o) = .ok o := by
  have h := plog_nat op o
  have := op.isLt
  have := o.pd.isLt
  have := (enc.pred o.a).isLt
  have := (enc.pred o.b).isLt
  generalize enc.plog op o = w1 at h ⊢
  refine ⟨bits_eq (by omega), ?_⟩
  have z0_19 : zeroBits w1 19 5 = .ok () := zeroBits_eq (by omega)
  have z0_12 : zeroBits w1 12 4 = .ok () := zeroBits_eq (by omega)
  have z0_4 : zeroBits w1 4 4 = .ok () := zeroBits_eq (by omega)
  have f0_16 : bits w1 16 3 = o.pd := bits_eq (by omega)
  have f0_8 : predAt w1 8 = o.a := predAt_eq (by omega)
  have f0_0 : predAt w1 0 = o.b := predAt_eq (by omega)
  simp only [dec.plog, z0_19, z0_12, z0_4, f0_16, f0_8, f0_0]
  rfl

theorem plog_dec {w : Word} {o : PLog} (h : dec.plog w = .ok o) : enc.plog (bits w 24 8) o = w := by
  unfold dec.plog at h
  obtain ⟨_, hz, h⟩ := bind_ok h
  replace hz := of_zeroBits hz
  obtain ⟨_, hz, h⟩ := bind_ok h
  replace hz := of_zeroBits hz
  obtain ⟨_, hz, h⟩ := bind_ok h
  replace hz := of_zeroBits hz
  cases h
  apply BitVec.eq_of_toNat_eq
  rw [plog_nat]
  have := w.isLt
  simp only [bits_nat, predAt_nat]
  omega

theorem pget_nat (op : BitVec 8) (o : PGet) :
    (enc.pget op o).toNat =
      op.toNat * 2 ^ 24 + o.nw.toNat * 2 ^ 23 + o.d.toNat * 2 ^ 16 + (enc.pred o.a).toNat * 2 ^ 8 := by
  unfold enc.pget
  repeat rw [toNat_cat]
  rw [b1_nat]
  simp only [BitVec.ofNat_eq_ofNat, BitVec.toNat_ofNat]
  omega

theorem dec_pget (op : BitVec 8) (o : PGet) : bits (enc.pget op o) 24 8 = op ∧ dec.pget (enc.pget op o) = .ok o := by
  have h := pget_nat op o
  have := op.isLt
  have := Bool.toNat_lt o.nw
  have := o.d.isLt
  have := (enc.pred o.a).isLt
  generalize enc.pget op o = w1 at h ⊢
  refine ⟨bits_eq (by omega), ?_⟩
  have z0_12 : zeroBits w1 12 4 = .ok () := zeroBits_eq (by omega)
  have z0_0 : zeroBits w1 0 8 = .ok () := zeroBits_eq (by omega)
  have f0_23 : bit w1 23 = o.nw := bit_eq (by omega)
  have f0_16 : bits w1 16 7 = o.d := bits_eq (by omega)
  have f0_8 : predAt w1 8 = o.a := predAt_eq (by omega)
  simp only [dec.pget, z0_12, z0_0, f0_23, f0_16, f0_8]
  rfl

theorem pget_dec {w : Word} {o : PGet} (h : dec.pget w = .ok o) : enc.pget (bits w 24 8) o = w := by
  unfold dec.pget at h
  obtain ⟨_, hz, h⟩ := bind_ok h
  replace hz := of_zeroBits hz
  obtain ⟨_, hz, h⟩ := bind_ok h
  replace hz := of_zeroBits hz
  cases h
  apply BitVec.eq_of_toNat_eq
  rw [pget_nat]
  have := w.isLt
  simp only [bits_nat, bit_nat, predAt_nat]
  omega

theorem pvote_nat (op : BitVec 8) (o : PVote) :
    (enc.pvote op o).toNat =
      op.toNat * 2 ^ 24 + o.pd.toNat * 2 ^ 16 + (encodeSrc o.a).toNat * 2 ^ 8 := by
  unfold enc.pvote
  repeat rw [toNat_cat]
  simp only [BitVec.ofNat_eq_ofNat, BitVec.toNat_ofNat]
  omega

theorem dec_pvote (op : BitVec 8) (o : PVote) : bits (enc.pvote op o) 24 8 = op ∧ dec.pvote (enc.pvote op o) = .ok o := by
  have h := pvote_nat op o
  have := op.isLt
  have := o.pd.isLt
  have := (encodeSrc o.a).isLt
  generalize enc.pvote op o = w1 at h ⊢
  refine ⟨bits_eq (by omega), ?_⟩
  have z0_19 : zeroBits w1 19 5 = .ok () := zeroBits_eq (by omega)
  have ea : bits w1 8 8 = encodeSrc o.a := bits_eq (by omega)
  have z0_0 : zeroBits w1 0 8 = .ok () := zeroBits_eq (by omega)
  have f0_16 : bits w1 16 3 = o.pd := bits_eq (by omega)
  simp only [dec.pvote, z0_19, ea, z0_0, f0_16, decodeSrc_encodeSrc]
  rfl

theorem pvote_dec {w : Word} {o : PVote} (h : dec.pvote w = .ok o) : enc.pvote (bits w 24 8) o = w := by
  unfold dec.pvote at h
  obtain ⟨_, hz, h⟩ := bind_ok h
  replace hz := of_zeroBits hz
  obtain ⟨a, ha, h⟩ := bind_ok h
  obtain ⟨_, hz, h⟩ := bind_ok h
  replace hz := of_zeroBits hz
  cases h
  replace ha := congrArg BitVec.toNat (encodeSrc_decodeSrc ha)
  rw [bits_nat] at ha
  apply BitVec.eq_of_toNat_eq
  rw [pvote_nat]
  have := w.isLt
  simp only [bits_nat]
  omega

theorem affBin_nat (op : BitVec 8) (o : AffBin) :
    (enc.affBin op o).toNat =
      op.toNat * 2 ^ 24 + o.d.toNat * 2 ^ 16 + o.a.toNat * 2 ^ 8 + o.b.toNat := by
  unfold enc.affBin
  repeat rw [toNat_cat]
  simp only [BitVec.ofNat_eq_ofNat, BitVec.toNat_ofNat]
  omega

theorem dec_affBin (op : BitVec 8) (o : AffBin) : bits (enc.affBin op o) 24 8 = op ∧ dec.affBin (enc.affBin op o) = .ok o := by
  have h := affBin_nat op o
  have := op.isLt
  have := o.d.isLt
  have := o.a.isLt
  have := o.b.isLt
  generalize enc.affBin op o = w1 at h ⊢
  refine ⟨bits_eq (by omega), ?_⟩
  have z0_20 : zeroBits w1 20 4 = .ok () := zeroBits_eq (by omega)
  have z0_12 : zeroBits w1 12 4 = .ok () := zeroBits_eq (by omega)
  have z0_4 : zeroBits w1 4 4 = .ok () := zeroBits_eq (by omega)
  have f0_16 : bits w1 16 4 = o.d := bits_eq (by omega)
  have f0_8 : bits w1 8 4 = o.a := bits_eq (by omega)
  have f0_0 : bits w1 0 4 = o.b := bits_eq (by omega)
  simp only [dec.affBin, z0_20, z0_12, z0_4, f0_16, f0_8, f0_0]
  rfl

theorem affBin_dec {w : Word} {o : AffBin} (h : dec.affBin w = .ok o) : enc.affBin (bits w 24 8) o = w := by
  unfold dec.affBin at h
  obtain ⟨_, hz, h⟩ := bind_ok h
  replace hz := of_zeroBits hz
  obtain ⟨_, hz, h⟩ := bind_ok h
  replace hz := of_zeroBits hz
  obtain ⟨_, hz, h⟩ := bind_ok h
  replace hz := of_zeroBits hz
  cases h
  apply BitVec.eq_of_toNat_eq
  rw [affBin_nat]
  have := w.isLt
  simp only [bits_nat]
  omega

theorem affUn_nat (op : BitVec 8) (o : AffUn) :
    (enc.affUn op o).toNat =
      op.toNat * 2 ^ 24 + o.d.toNat * 2 ^ 16 + o.a.toNat * 2 ^ 8 := by
  unfold enc.affUn
  repeat rw [toNat_cat]
  simp only [BitVec.ofNat_eq_ofNat, BitVec.toNat_ofNat]
  omega

theorem dec_affUn (op : BitVec 8) (o : AffUn) : bits (enc.affUn op o) 24 8 = op ∧ dec.affUn (enc.affUn op o) = .ok o := by
  have h := affUn_nat op o
  have := op.isLt
  have := o.d.isLt
  have := o.a.isLt
  generalize enc.affUn op o = w1 at h ⊢
  refine ⟨bits_eq (by omega), ?_⟩
  have z0_20 : zeroBits w1 20 4 = .ok () := zeroBits_eq (by omega)
  have z0_12 : zeroBits w1 12 4 = .ok () := zeroBits_eq (by omega)
  have z0_0 : zeroBits w1 0 8 = .ok () := zeroBits_eq (by omega)
  have f0_16 : bits w1 16 4 = o.d := bits_eq (by omega)
  have f0_8 : bits w1 8 4 = o.a := bits_eq (by omega)
  simp only [dec.affUn, z0_20, z0_12, z0_0, f0_16, f0_8]
  rfl

theorem affUn_dec {w : Word} {o : AffUn} (h : dec.affUn w = .ok o) : enc.affUn (bits w 24 8) o = w := by
  unfold dec.affUn at h
  obtain ⟨_, hz, h⟩ := bind_ok h
  replace hz := of_zeroBits hz
  obtain ⟨_, hz, h⟩ := bind_ok h
  replace hz := of_zeroBits hz
  obtain ⟨_, hz, h⟩ := bind_ok h
  replace hz := of_zeroBits hz
  cases h
  apply BitVec.eq_of_toNat_eq
  rw [affUn_nat]
  have := w.isLt
  simp only [bits_nat]
  omega

theorem affSet_nat (op : BitVec 8) (o : AffSet) :
    (enc.affSet op o).toNat =
      op.toNat * 2 ^ 24 + o.d.toNat * 2 ^ 16 + (encodeSrc o.a).toNat * 2 ^ 8 := by
  unfold enc.affSet
  repeat rw [toNat_cat]
  simp only [BitVec.ofNat_eq_ofNat, BitVec.toNat_ofNat]
  omega

theorem dec_affSet (op : BitVec 8) (o : AffSet) : bits (enc.affSet op o) 24 8 = op ∧ dec.affSet (enc.affSet op o) = .ok o := by
  have h := affSet_nat op o
  have := op.isLt
  have := o.d.isLt
  have := (encodeSrc o.a).isLt
  generalize enc.affSet op o = w1 at h ⊢
  refine ⟨bits_eq (by omega), ?_⟩
  have z0_20 : zeroBits w1 20 4 = .ok () := zeroBits_eq (by omega)
  have ea : bits w1 8 8 = encodeSrc o.a := bits_eq (by omega)
  have z0_0 : zeroBits w1 0 8 = .ok () := zeroBits_eq (by omega)
  have f0_16 : bits w1 16 4 = o.d := bits_eq (by omega)
  simp only [dec.affSet, z0_20, ea, z0_0, f0_16, decodeSrc_encodeSrc]
  rfl

theorem affSet_dec {w : Word} {o : AffSet} (h : dec.affSet w = .ok o) : enc.affSet (bits w 24 8) o = w := by
  unfold dec.affSet at h
  obtain ⟨_, hz, h⟩ := bind_ok h
  replace hz := of_zeroBits hz
  obtain ⟨a, ha, h⟩ := bind_ok h
  obtain ⟨_, hz, h⟩ := bind_ok h
  replace hz := of_zeroBits hz
  cases h
  replace ha := congrArg BitVec.toNat (encodeSrc_decodeSrc ha)
  rw [bits_nat] at ha
  apply BitVec.eq_of_toNat_eq
  rw [affSet_nat]
  have := w.isLt
  simp only [bits_nat]
  omega

theorem affShl_nat (op : BitVec 8) (o : AffShl) :
    (enc.affShl op o).toNat =
      op.toNat * 2 ^ 24 + o.d.toNat * 2 ^ 16 + o.a.toNat * 2 ^ 8 + 11 * 2 ^ 4 + o.n.toNat := by
  unfold enc.affShl
  repeat rw [toNat_cat]
  simp only [BitVec.ofNat_eq_ofNat, BitVec.toNat_ofNat]
  omega

theorem dec_affShl (op : BitVec 8) (o : AffShl) : bits (enc.affShl op o) 24 8 = op ∧ dec.affShl (enc.affShl op o) = .ok o := by
  have h := affShl_nat op o
  have := op.isLt
  have := o.d.isLt
  have := o.a.isLt
  have := o.n.isLt
  generalize enc.affShl op o = w1 at h ⊢
  refine ⟨bits_eq (by omega), ?_⟩
  have z0_20 : zeroBits w1 20 4 = .ok () := zeroBits_eq (by omega)
  have z0_12 : zeroBits w1 12 4 = .ok () := zeroBits_eq (by omega)
  have em : bits w1 4 4 = 0xB := bits_eq (by show _ = 11; omega)
  have f0_16 : bits w1 16 4 = o.d := bits_eq (by omega)
  have f0_8 : bits w1 8 4 = o.a := bits_eq (by omega)
  have f0_0 : bits w1 0 4 = o.n := bits_eq (by omega)
  simp only [dec.affShl, z0_20, z0_12, em, f0_16, f0_8, f0_0]
  rfl

theorem affShl_dec {w : Word} {o : AffShl} (h : dec.affShl w = .ok o) : enc.affShl (bits w 24 8) o = w := by
  unfold dec.affShl at h
  obtain ⟨_, hz, h⟩ := bind_ok h
  replace hz := of_zeroBits hz
  obtain ⟨_, hz, h⟩ := bind_ok h
  replace hz := of_zeroBits hz
  obtain ⟨_, hm, h⟩ := bind_ok h
  have hm : bits w 4 4 = 0xB := by
    unfold must at hm
    split at hm
    · rename_i hb; exact beq_iff_eq.mp hb
    · cases hm
  replace hm : w.toNat / 2 ^ 4 % 2 ^ 4 = 0xB := by rw [← bits_nat, hm]; rfl
  cases h
  apply BitVec.eq_of_toNat_eq
  rw [affShl_nat]
  have := w.isLt
  simp only [bits_nat]
  omega

theorem xbar_nat (op : BitVec 8) (o : XBarOp) :
    (enc.xbar op o).toNat =
      op.toNat * 2 ^ 24 + o.nw.toNat * 2 ^ 23 + o.d.toNat * 2 ^ 16 + (encodeSrc o.a).toNat * 2 ^ 8 + o.slot.toNat := by
  unfold enc.xbar
  repeat rw [toNat_cat]
  rw [b1_nat]
  simp only [BitVec.ofNat_eq_ofNat, BitVec.toNat_ofNat]
  omega

theorem dec_xbar (op : BitVec 8) (o : XBarOp) : bits (enc.xbar op o) 24 8 = op ∧ dec.xbar (enc.xbar op o) = .ok o := by
  have h := xbar_nat op o
  have := op.isLt
  have := Bool.toNat_lt o.nw
  have := o.d.isLt
  have := (encodeSrc o.a).isLt
  have := o.slot.isLt
  generalize enc.xbar op o = w1 at h ⊢
  refine ⟨bits_eq (by omega), ?_⟩
  have ea : bits w1 8 8 = encodeSrc o.a := bits_eq (by omega)
  have z0_3 : zeroBits w1 3 5 = .ok () := zeroBits_eq (by omega)
  have f0_23 : bit w1 23 = o.nw := bit_eq (by omega)
  have f0_16 : bits w1 16 7 = o.d := bits_eq (by omega)
  have f0_0 : bits w1 0 3 = o.slot := bits_eq (by omega)
  simp only [dec.xbar, ea, z0_3, f0_23, f0_16, f0_0, decodeSrc_encodeSrc]
  rfl

theorem xbar_dec {w : Word} {o : XBarOp} (h : dec.xbar w = .ok o) : enc.xbar (bits w 24 8) o = w := by
  unfold dec.xbar at h
  obtain ⟨a, ha, h⟩ := bind_ok h
  obtain ⟨_, hz, h⟩ := bind_ok h
  replace hz := of_zeroBits hz
  cases h
  replace ha := congrArg BitVec.toNat (encodeSrc_decodeSrc ha)
  rw [bits_nat] at ha
  apply BitVec.eq_of_toNat_eq
  rw [xbar_nat]
  have := w.isLt
  simp only [bits_nat, bit_nat]
  omega

theorem branch_nat (op : BitVec 8) (o : Branch) :
    (enc.branch op o).toNat =
      op.toNat * 2 ^ 24 + (enc.guard o.g).toNat * 2 ^ 20 + o.off.toNat := by
  unfold enc.branch
  repeat rw [toNat_cat]
  omega

theorem dec_branch (op : BitVec 8) (o : Branch) : bits (enc.branch op o) 24 8 = op ∧ dec.branch (enc.branch op o) = .ok o := by
  have h := branch_nat op o
  have := op.isLt
  have := (enc.guard o.g).isLt
  have := o.off.isLt
  generalize enc.branch op o = w1 at h ⊢
  refine ⟨bits_eq (by omega), ?_⟩
  have f0_20 : guardAt w1 20 = o.g := guardAt_eq (by omega)
  have f0_0 : bits w1 0 20 = o.off := bits_eq (by omega)
  simp only [dec.branch, f0_20, f0_0]
  rfl

theorem branch_dec {w : Word} {o : Branch} (h : dec.branch w = .ok o) : enc.branch (bits w 24 8) o = w := by
  unfold dec.branch at h
  cases h
  apply BitVec.eq_of_toNat_eq
  rw [branch_nat]
  have := w.isLt
  simp only [bits_nat, guardAt_nat]
  omega

theorem guardOnly_nat (op : BitVec 8) (g : Guard) :
    (enc.guardOnly op g).toNat =
      op.toNat * 2 ^ 24 + (enc.guard g).toNat * 2 ^ 20 := by
  unfold enc.guardOnly
  repeat rw [toNat_cat]
  simp only [BitVec.ofNat_eq_ofNat, BitVec.toNat_ofNat]
  omega

theorem dec_guardOnly (op : BitVec 8) (g : Guard) : bits (enc.guardOnly op g) 24 8 = op ∧ dec.guardOnly (enc.guardOnly op g) = .ok g := by
  have h := guardOnly_nat op g
  have := op.isLt
  have := (enc.guard g).isLt
  generalize enc.guardOnly op g = w1 at h ⊢
  refine ⟨bits_eq (by omega), ?_⟩
  have z0_0 : zeroBits w1 0 20 = .ok () := zeroBits_eq (by omega)
  have f0_20 : guardAt w1 20 = g := guardAt_eq (by omega)
  simp only [dec.guardOnly, z0_0, f0_20]
  rfl

theorem guardOnly_dec {w : Word} {o : Guard} (h : dec.guardOnly w = .ok o) : enc.guardOnly (bits w 24 8) o = w := by
  unfold dec.guardOnly at h
  obtain ⟨_, hz, h⟩ := bind_ok h
  replace hz := of_zeroBits hz
  cases h
  apply BitVec.eq_of_toNat_eq
  rw [guardOnly_nat]
  have := w.isLt
  simp only [bits_nat, guardAt_nat]
  omega

theorem jumpReg_nat (op : BitVec 8) (o : JumpReg) :
    (enc.jumpReg op o).toNat =
      op.toNat * 2 ^ 24 + (enc.guard o.g).toNat * 2 ^ 20 + (encodeSrc o.a).toNat := by
  unfold enc.jumpReg
  repeat rw [toNat_cat]
  simp only [BitVec.ofNat_eq_ofNat, BitVec.toNat_ofNat]
  omega

theorem dec_jumpReg (op : BitVec 8) (o : JumpReg) : bits (enc.jumpReg op o) 24 8 = op ∧ dec.jumpReg (enc.jumpReg op o) = .ok o := by
  have h := jumpReg_nat op o
  have := op.isLt
  have := (enc.guard o.g).isLt
  have := (encodeSrc o.a).isLt
  generalize enc.jumpReg op o = w1 at h ⊢
  refine ⟨bits_eq (by omega), ?_⟩
  have z0_8 : zeroBits w1 8 12 = .ok () := zeroBits_eq (by omega)
  have ea : bits w1 0 8 = encodeSrc o.a := bits_eq (by omega)
  have f0_20 : guardAt w1 20 = o.g := guardAt_eq (by omega)
  simp only [dec.jumpReg, z0_8, ea, f0_20, decodeSrc_encodeSrc]
  rfl

theorem jumpReg_dec {w : Word} {o : JumpReg} (h : dec.jumpReg w = .ok o) : enc.jumpReg (bits w 24 8) o = w := by
  unfold dec.jumpReg at h
  obtain ⟨_, hz, h⟩ := bind_ok h
  replace hz := of_zeroBits hz
  obtain ⟨a, ha, h⟩ := bind_ok h
  cases h
  replace ha := congrArg BitVec.toNat (encodeSrc_decodeSrc ha)
  rw [bits_nat] at ha
  apply BitVec.eq_of_toNat_eq
  rw [jumpReg_nat]
  have := w.isLt
  simp only [bits_nat, guardAt_nat]
  omega

theorem trapOp_nat (op : BitVec 8) (o : TrapOp) :
    (enc.trapOp op o).toNat =
      op.toNat * 2 ^ 24 + (enc.guard o.g).toNat * 2 ^ 20 + o.code.toNat := by
  unfold enc.trapOp
  repeat rw [toNat_cat]
  omega

theorem dec_trapOp (op : BitVec 8) (o : TrapOp) : bits (enc.trapOp op o) 24 8 = op ∧ dec.trapOp (enc.trapOp op o) = .ok o := by
  have h := trapOp_nat op o
  have := op.isLt
  have := (enc.guard o.g).isLt
  have := o.code.isLt
  generalize enc.trapOp op o = w1 at h ⊢
  refine ⟨bits_eq (by omega), ?_⟩
  have f0_20 : guardAt w1 20 = o.g := guardAt_eq (by omega)
  have f0_0 : bits w1 0 20 = o.code := bits_eq (by omega)
  simp only [dec.trapOp, f0_20, f0_0]
  rfl

theorem trapOp_dec {w : Word} {o : TrapOp} (h : dec.trapOp w = .ok o) : enc.trapOp (bits w 24 8) o = w := by
  unfold dec.trapOp at h
  cases h
  apply BitVec.eq_of_toNat_eq
  rw [trapOp_nat]
  have := w.isLt
  simp only [bits_nat, guardAt_nat]
  omega

theorem winOp_nat (op : BitVec 8) (o : WinOp) :
    (enc.winOp op o).toNat =
      op.toNat * 2 ^ 24 + (encodeSrc o.a).toNat * 2 ^ 8 + (encodeSrc o.b).toNat := by
  unfold enc.winOp
  repeat rw [toNat_cat]
  simp only [BitVec.ofNat_eq_ofNat, BitVec.toNat_ofNat]
  omega

theorem dec_winOp (op : BitVec 8) (o : WinOp) : bits (enc.winOp op o) 24 8 = op ∧ dec.winOp (enc.winOp op o) = .ok o := by
  have h := winOp_nat op o
  have := op.isLt
  have := (encodeSrc o.a).isLt
  have := (encodeSrc o.b).isLt
  generalize enc.winOp op o = w1 at h ⊢
  refine ⟨bits_eq (by omega), ?_⟩
  have z0_16 : zeroBits w1 16 8 = .ok () := zeroBits_eq (by omega)
  have ea : bits w1 8 8 = encodeSrc o.a := bits_eq (by omega)
  have eb : bits w1 0 8 = encodeSrc o.b := bits_eq (by omega)
  simp only [dec.winOp, z0_16, ea, eb, decodeSrc_encodeSrc]
  rfl

theorem winOp_dec {w : Word} {o : WinOp} (h : dec.winOp w = .ok o) : enc.winOp (bits w 24 8) o = w := by
  unfold dec.winOp at h
  obtain ⟨_, hz, h⟩ := bind_ok h
  replace hz := of_zeroBits hz
  obtain ⟨a, ha, h⟩ := bind_ok h
  obtain ⟨b, hb, h⟩ := bind_ok h
  cases h
  replace ha := congrArg BitVec.toNat (encodeSrc_decodeSrc ha)
  rw [bits_nat] at ha
  replace hb := congrArg BitVec.toNat (encodeSrc_decodeSrc hb)
  rw [bits_nat] at hb
  apply BitVec.eq_of_toNat_eq
  rw [winOp_nat]
  have := w.isLt
  simp only [bits_nat]
  omega

theorem idxOp_nat (op : BitVec 8) (o : IdxOp) :
    (enc.idxOp op o).toNat =
      op.toNat * 2 ^ 24 + o.k.toNat * 2 ^ 16 + (encodeSrc o.a).toNat * 2 ^ 8 := by
  unfold enc.idxOp
  repeat rw [toNat_cat]
  simp only [BitVec.ofNat_eq_ofNat, BitVec.toNat_ofNat]
  omega

theorem dec_idxOp (op : BitVec 8) (o : IdxOp) : bits (enc.idxOp op o) 24 8 = op ∧ dec.idxOp (enc.idxOp op o) = .ok o := by
  have h := idxOp_nat op o
  have := op.isLt
  have := o.k.isLt
  have := (encodeSrc o.a).isLt
  generalize enc.idxOp op o = w1 at h ⊢
  refine ⟨bits_eq (by omega), ?_⟩
  have z0_18 : zeroBits w1 18 6 = .ok () := zeroBits_eq (by omega)
  have ea : bits w1 8 8 = encodeSrc o.a := bits_eq (by omega)
  have z0_0 : zeroBits w1 0 8 = .ok () := zeroBits_eq (by omega)
  have f0_16 : bits w1 16 2 = o.k := bits_eq (by omega)
  simp only [dec.idxOp, z0_18, ea, z0_0, f0_16, decodeSrc_encodeSrc]
  rfl

theorem idxOp_dec {w : Word} {o : IdxOp} (h : dec.idxOp w = .ok o) : enc.idxOp (bits w 24 8) o = w := by
  unfold dec.idxOp at h
  obtain ⟨_, hz, h⟩ := bind_ok h
  replace hz := of_zeroBits hz
  obtain ⟨a, ha, h⟩ := bind_ok h
  obtain ⟨_, hz, h⟩ := bind_ok h
  replace hz := of_zeroBits hz
  cases h
  replace ha := congrArg BitVec.toNat (encodeSrc_decodeSrc ha)
  rw [bits_nat] at ha
  apply BitVec.eq_of_toNat_eq
  rw [idxOp_nat]
  have := w.isLt
  simp only [bits_nat]
  omega

theorem bar_nat (op : BitVec 8) (b : BitVec 2) :
    (enc.bar op b).toNat =
      op.toNat * 2 ^ 24 + b.toNat * 2 ^ 16 := by
  unfold enc.bar
  repeat rw [toNat_cat]
  simp only [BitVec.ofNat_eq_ofNat, BitVec.toNat_ofNat]
  omega

theorem dec_bar (op : BitVec 8) (b : BitVec 2) : bits (enc.bar op b) 24 8 = op ∧ dec.bar (enc.bar op b) = .ok b := by
  have h := bar_nat op b
  have := op.isLt
  have := b.isLt
  generalize enc.bar op b = w1 at h ⊢
  refine ⟨bits_eq (by omega), ?_⟩
  have z0_18 : zeroBits w1 18 6 = .ok () := zeroBits_eq (by omega)
  have z0_0 : zeroBits w1 0 16 = .ok () := zeroBits_eq (by omega)
  have f0_16 : bits w1 16 2 = b := bits_eq (by omega)
  simp only [dec.bar, z0_18, z0_0, f0_16]
  rfl

theorem bar_dec {w : Word} {o : BitVec 2} (h : dec.bar w = .ok o) : enc.bar (bits w 24 8) o = w := by
  unfold dec.bar at h
  obtain ⟨_, hz, h⟩ := bind_ok h
  replace hz := of_zeroBits hz
  obtain ⟨_, hz, h⟩ := bind_ok h
  replace hz := of_zeroBits hz
  cases h
  apply BitVec.eq_of_toNat_eq
  rw [bar_nat]
  have := w.isLt
  simp only [bits_nat]
  omega

theorem clk_nat (op : BitVec 8) (o : ClkOp) :
    (enc.clk op o).toNat =
      op.toNat * 2 ^ 24 + o.nw.toNat * 2 ^ 23 + o.d.toNat * 2 ^ 16 := by
  unfold enc.clk
  repeat rw [toNat_cat]
  rw [b1_nat]
  simp only [BitVec.ofNat_eq_ofNat, BitVec.toNat_ofNat]
  omega

theorem dec_clk (op : BitVec 8) (o : ClkOp) : bits (enc.clk op o) 24 8 = op ∧ dec.clk (enc.clk op o) = .ok o := by
  have h := clk_nat op o
  have := op.isLt
  have := Bool.toNat_lt o.nw
  have := o.d.isLt
  generalize enc.clk op o = w1 at h ⊢
  refine ⟨bits_eq (by omega), ?_⟩
  have z0_0 : zeroBits w1 0 16 = .ok () := zeroBits_eq (by omega)
  have f0_23 : bit w1 23 = o.nw := bit_eq (by omega)
  have f0_16 : bits w1 16 7 = o.d := bits_eq (by omega)
  simp only [dec.clk, z0_0, f0_23, f0_16]
  rfl

theorem clk_dec {w : Word} {o : ClkOp} (h : dec.clk w = .ok o) : enc.clk (bits w 24 8) o = w := by
  unfold dec.clk at h
  obtain ⟨_, hz, h⟩ := bind_ok h
  replace hz := of_zeroBits hz
  cases h
  apply BitVec.eq_of_toNat_eq
  rw [clk_nat]
  have := w.isLt
  simp only [bits_nat, bit_nat]
  omega

theorem fma_nat1 (op : BitVec 8) (o : FmaOp) :
    ((op ++ enc.b1 o.nw ++ o.d ++ encodeSrc o.a ++ encodeSrc o.b : Word)).toNat =
      op.toNat * 2 ^ 24 + o.nw.toNat * 2 ^ 23 + o.d.toNat * 2 ^ 16 + (encodeSrc o.a).toNat * 2 ^ 8 + (encodeSrc o.b).toNat := by
  repeat rw [toNat_cat]
  rw [b1_nat]
  omega

theorem fma_nat2 (o : FmaOp) :
    ((encodeSrc o.c ++ enc.guard o.g ++ (0 : BitVec 16) ++ enc.b1 o.rx ++ o.rm : Word)).toNat =
      (encodeSrc o.c).toNat * 2 ^ 24 + (enc.guard o.g).toNat * 2 ^ 20 + o.rx.toNat * 2 ^ 3 + o.rm.toNat := by
  repeat rw [toNat_cat]
  rw [b1_nat]
  simp only [BitVec.ofNat_eq_ofNat, BitVec.toNat_ofNat]
  omega

theorem dec_fma (op : BitVec 8) (o : FmaOp) :
    ∃ w1 w2, enc.fma op o = [w1, w2] ∧ bits w1 24 8 = op ∧ dec.fma w1 w2 = .ok o := by
  refine ⟨_, _, rfl, ?_⟩
  have h1 := fma_nat1 op o
  generalize (op ++ enc.b1 o.nw ++ o.d ++ encodeSrc o.a ++ encodeSrc o.b : Word) = w1 at h1 ⊢
  have h2 := fma_nat2 o
  generalize (encodeSrc o.c ++ enc.guard o.g ++ (0 : BitVec 16) ++ enc.b1 o.rx ++ o.rm : Word) = w2 at h2 ⊢
  have := op.isLt
  have := Bool.toNat_lt o.nw
  have := o.d.isLt
  have := (encodeSrc o.a).isLt
  have := (encodeSrc o.b).isLt
  have := (encodeSrc o.c).isLt
  have := (enc.guard o.g).isLt
  have := Bool.toNat_lt o.rx
  have := o.rm.isLt
  refine ⟨bits_eq (by omega), ?_⟩
  have ea : bits w1 8 8 = encodeSrc o.a := bits_eq (by omega)
  have eb : bits w1 0 8 = encodeSrc o.b := bits_eq (by omega)
  have ec : bits w2 24 8 = encodeSrc o.c := bits_eq (by omega)
  have z1_4 : zeroBits w2 4 16 = .ok () := zeroBits_eq (by omega)
  have f0_23 : bit w1 23 = o.nw := bit_eq (by omega)
  have f0_16 : bits w1 16 7 = o.d := bits_eq (by omega)
  have f1_20 : guardAt w2 20 = o.g := guardAt_eq (by omega)
  have f1_3 : bit w2 3 = o.rx := bit_eq (by omega)
  have f1_0 : bits w2 0 3 = o.rm := bits_eq (by omega)
  simp only [dec.fma, ea, eb, ec, z1_4, f0_23, f0_16, f1_20, f1_3, f1_0, decodeSrc_encodeSrc]
  rfl

theorem fma_dec {w1 w2 : Word} {o : FmaOp} (h : dec.fma w1 w2 = .ok o) : enc.fma (bits w1 24 8) o = [w1, w2] := by
  unfold dec.fma at h
  obtain ⟨a, ha, h⟩ := bind_ok h
  obtain ⟨b, hb, h⟩ := bind_ok h
  obtain ⟨c, hc, h⟩ := bind_ok h
  obtain ⟨_, hz, h⟩ := bind_ok h
  replace hz := of_zeroBits hz
  cases h
  replace ha := congrArg BitVec.toNat (encodeSrc_decodeSrc ha)
  rw [bits_nat] at ha
  replace hb := congrArg BitVec.toNat (encodeSrc_decodeSrc hb)
  rw [bits_nat] at hb
  replace hc := congrArg BitVec.toNat (encodeSrc_decodeSrc hc)
  rw [bits_nat] at hc
  have := w1.isLt
  have := w2.isLt
  unfold enc.fma
  congr 1
  · apply BitVec.eq_of_toNat_eq
    rw [fma_nat1]
    simp only [bits_nat, bit_nat]
    omega
  · congr 1
    apply BitVec.eq_of_toNat_eq
    rw [fma_nat2]
    simp only [bits_nat, bit_nat, guardAt_nat]
    omega

theorem mad_nat1 (op : BitVec 8) (o : MadOp) :
    ((op ++ enc.b1 o.nw ++ o.d ++ encodeSrc o.a ++ encodeSrc o.b : Word)).toNat =
      op.toNat * 2 ^ 24 + o.nw.toNat * 2 ^ 23 + o.d.toNat * 2 ^ 16 + (encodeSrc o.a).toNat * 2 ^ 8 + (encodeSrc o.b).toNat := by
  repeat rw [toNat_cat]
  rw [b1_nat]
  omega

theorem mad_nat2 (o : MadOp) :
    ((encodeSrc o.c ++ enc.guard o.g ++ (0 : BitVec 20) : Word)).toNat =
      (encodeSrc o.c).toNat * 2 ^ 24 + (enc.guard o.g).toNat * 2 ^ 20 := by
  repeat rw [toNat_cat]
  simp only [BitVec.ofNat_eq_ofNat, BitVec.toNat_ofNat]
  omega

theorem dec_mad (op : BitVec 8) (o : MadOp) :
    ∃ w1 w2, enc.mad op o = [w1, w2] ∧ bits w1 24 8 = op ∧ dec.mad w1 w2 = .ok o := by
  refine ⟨_, _, rfl, ?_⟩
  have h1 := mad_nat1 op o
  generalize (op ++ enc.b1 o.nw ++ o.d ++ encodeSrc o.a ++ encodeSrc o.b : Word) = w1 at h1 ⊢
  have h2 := mad_nat2 o
  generalize (encodeSrc o.c ++ enc.guard o.g ++ (0 : BitVec 20) : Word) = w2 at h2 ⊢
  have := op.isLt
  have := Bool.toNat_lt o.nw
  have := o.d.isLt
  have := (encodeSrc o.a).isLt
  have := (encodeSrc o.b).isLt
  have := (encodeSrc o.c).isLt
  have := (enc.guard o.g).isLt
  refine ⟨bits_eq (by omega), ?_⟩
  have ea : bits w1 8 8 = encodeSrc o.a := bits_eq (by omega)
  have eb : bits w1 0 8 = encodeSrc o.b := bits_eq (by omega)
  have ec : bits w2 24 8 = encodeSrc o.c := bits_eq (by omega)
  have z1_0 : zeroBits w2 0 20 = .ok () := zeroBits_eq (by omega)
  have f0_23 : bit w1 23 = o.nw := bit_eq (by omega)
  have f0_16 : bits w1 16 7 = o.d := bits_eq (by omega)
  have f1_20 : guardAt w2 20 = o.g := guardAt_eq (by omega)
  simp only [dec.mad, ea, eb, ec, z1_0, f0_23, f0_16, f1_20, decodeSrc_encodeSrc]
  rfl

theorem mad_dec {w1 w2 : Word} {o : MadOp} (h : dec.mad w1 w2 = .ok o) : enc.mad (bits w1 24 8) o = [w1, w2] := by
  unfold dec.mad at h
  obtain ⟨a, ha, h⟩ := bind_ok h
  obtain ⟨b, hb, h⟩ := bind_ok h
  obtain ⟨c, hc, h⟩ := bind_ok h
  obtain ⟨_, hz, h⟩ := bind_ok h
  replace hz := of_zeroBits hz
  cases h
  replace ha := congrArg BitVec.toNat (encodeSrc_decodeSrc ha)
  rw [bits_nat] at ha
  replace hb := congrArg BitVec.toNat (encodeSrc_decodeSrc hb)
  rw [bits_nat] at hb
  replace hc := congrArg BitVec.toNat (encodeSrc_decodeSrc hc)
  rw [bits_nat] at hc
  have := w1.isLt
  have := w2.isLt
  unfold enc.mad
  congr 1
  · apply BitVec.eq_of_toNat_eq
    rw [mad_nat1]
    simp only [bits_nat, bit_nat]
    omega
  · congr 1
    apply BitVec.eq_of_toNat_eq
    rw [mad_nat2]
    simp only [guardAt_nat]
    omega

theorem sel_nat1 (op : BitVec 8) (o : SelOp) :
    ((op ++ enc.b1 o.nw ++ o.d ++ encodeSrc o.a ++ encodeSrc o.b : Word)).toNat =
      op.toNat * 2 ^ 24 + o.nw.toNat * 2 ^ 23 + o.d.toNat * 2 ^ 16 + (encodeSrc o.a).toNat * 2 ^ 8 + (encodeSrc o.b).toNat := by
  repeat rw [toNat_cat]
  rw [b1_nat]
  omega

theorem sel_nat2 (o : SelOp) :
    (((0 : BitVec 8) ++ enc.guard o.g ++ (0 : BitVec 16) ++ enc.pred o.p : Word)).toNat =
      (enc.guard o.g).toNat * 2 ^ 20 + (enc.pred o.p).toNat := by
  repeat rw [toNat_cat]
  simp only [BitVec.ofNat_eq_ofNat, BitVec.toNat_ofNat]
  omega

theorem dec_sel (op : BitVec 8) (o : SelOp) :
    ∃ w1 w2, enc.sel op o = [w1, w2] ∧ bits w1 24 8 = op ∧ dec.sel w1 w2 = .ok o := by
  refine ⟨_, _, rfl, ?_⟩
  have h1 := sel_nat1 op o
  generalize (op ++ enc.b1 o.nw ++ o.d ++ encodeSrc o.a ++ encodeSrc o.b : Word) = w1 at h1 ⊢
  have h2 := sel_nat2 o
  generalize ((0 : BitVec 8) ++ enc.guard o.g ++ (0 : BitVec 16) ++ enc.pred o.p : Word) = w2 at h2 ⊢
  have := op.isLt
  have := Bool.toNat_lt o.nw
  have := o.d.isLt
  have := (encodeSrc o.a).isLt
  have := (encodeSrc o.b).isLt
  have := (enc.guard o.g).isLt
  have := (enc.pred o.p).isLt
  refine ⟨bits_eq (by omega), ?_⟩
  have ea : bits w1 8 8 = encodeSrc o.a := bits_eq (by omega)
  have eb : bits w1 0 8 = encodeSrc o.b := bits_eq (by omega)
  have z1_24 : zeroBits w2 24 8 = .ok () := zeroBits_eq (by omega)
  have z1_4 : zeroBits w2 4 16 = .ok () := zeroBits_eq (by omega)
  have f0_23 : bit w1 23 = o.nw := bit_eq (by omega)
  have f0_16 : bits w1 16 7 = o.d := bits_eq (by omega)
  have f1_20 : guardAt w2 20 = o.g := guardAt_eq (by omega)
  have f1_0 : predAt w2 0 = o.p := predAt_eq (by omega)
  simp only [dec.sel, ea, eb, z1_24, z1_4, f0_23, f0_16, f1_20, f1_0, decodeSrc_encodeSrc]
  rfl

theorem sel_dec {w1 w2 : Word} {o : SelOp} (h : dec.sel w1 w2 = .ok o) : enc.sel (bits w1 24 8) o = [w1, w2] := by
  unfold dec.sel at h
  obtain ⟨a, ha, h⟩ := bind_ok h
  obtain ⟨b, hb, h⟩ := bind_ok h
  obtain ⟨_, hz, h⟩ := bind_ok h
  replace hz := of_zeroBits hz
  obtain ⟨_, hz, h⟩ := bind_ok h
  replace hz := of_zeroBits hz
  cases h
  replace ha := congrArg BitVec.toNat (encodeSrc_decodeSrc ha)
  rw [bits_nat] at ha
  replace hb := congrArg BitVec.toNat (encodeSrc_decodeSrc hb)
  rw [bits_nat] at hb
  have := w1.isLt
  have := w2.isLt
  unfold enc.sel
  congr 1
  · apply BitVec.eq_of_toNat_eq
    rw [sel_nat1]
    simp only [bits_nat, bit_nat]
    omega
  · congr 1
    apply BitVec.eq_of_toNat_eq
    rw [sel_nat2]
    simp only [guardAt_nat, predAt_nat]
    omega

theorem bfx_nat1 (op : BitVec 8) (o : BfxOp) :
    ((op ++ enc.b1 o.nw ++ o.d ++ encodeSrc o.a ++ (0 : BitVec 8) : Word)).toNat =
      op.toNat * 2 ^ 24 + o.nw.toNat * 2 ^ 23 + o.d.toNat * 2 ^ 16 + (encodeSrc o.a).toNat * 2 ^ 8 := by
  repeat rw [toNat_cat]
  rw [b1_nat]
  simp only [BitVec.ofNat_eq_ofNat, BitVec.toNat_ofNat]
  omega

theorem bfx_nat2 (o : BfxOp) :
    ((encodeSrc o.c ++ enc.guard o.g ++ (0 : BitVec 13) ++ enc.b1 o.signed ++ o.width : Word)).toNat =
      (encodeSrc o.c).toNat * 2 ^ 24 + (enc.guard o.g).toNat * 2 ^ 20 + o.signed.toNat * 2 ^ 6 + o.width.toNat := by
  repeat rw [toNat_cat]
  rw [b1_nat]
  simp only [BitVec.ofNat_eq_ofNat, BitVec.toNat_ofNat]
  omega

theorem dec_bfx (op : BitVec 8) (o : BfxOp) :
    ∃ w1 w2, enc.bfx op o = [w1, w2] ∧ bits w1 24 8 = op ∧ dec.bfx w1 w2 = .ok o := by
  refine ⟨_, _, rfl, ?_⟩
  have h1 := bfx_nat1 op o
  generalize (op ++ enc.b1 o.nw ++ o.d ++ encodeSrc o.a ++ (0 : BitVec 8) : Word) = w1 at h1 ⊢
  have h2 := bfx_nat2 o
  generalize (encodeSrc o.c ++ enc.guard o.g ++ (0 : BitVec 13) ++ enc.b1 o.signed ++ o.width : Word) = w2 at h2 ⊢
  have := op.isLt
  have := Bool.toNat_lt o.nw
  have := o.d.isLt
  have := (encodeSrc o.a).isLt
  have := (encodeSrc o.c).isLt
  have := (enc.guard o.g).isLt
  have := Bool.toNat_lt o.signed
  have := o.width.isLt
  refine ⟨bits_eq (by omega), ?_⟩
  have ea : bits w1 8 8 = encodeSrc o.a := bits_eq (by omega)
  have z0_0 : zeroBits w1 0 8 = .ok () := zeroBits_eq (by omega)
  have ec : bits w2 24 8 = encodeSrc o.c := bits_eq (by omega)
  have z1_7 : zeroBits w2 7 13 = .ok () := zeroBits_eq (by omega)
  have f0_23 : bit w1 23 = o.nw := bit_eq (by omega)
  have f0_16 : bits w1 16 7 = o.d := bits_eq (by omega)
  have f1_20 : guardAt w2 20 = o.g := guardAt_eq (by omega)
  have f1_6 : bit w2 6 = o.signed := bit_eq (by omega)
  have f1_0 : bits w2 0 6 = o.width := bits_eq (by omega)
  simp only [dec.bfx, ea, z0_0, ec, z1_7, f0_23, f0_16, f1_20, f1_6, f1_0, decodeSrc_encodeSrc]
  rfl

theorem bfx_dec {w1 w2 : Word} {o : BfxOp} (h : dec.bfx w1 w2 = .ok o) : enc.bfx (bits w1 24 8) o = [w1, w2] := by
  unfold dec.bfx at h
  obtain ⟨a, ha, h⟩ := bind_ok h
  obtain ⟨_, hz, h⟩ := bind_ok h
  replace hz := of_zeroBits hz
  obtain ⟨c, hc, h⟩ := bind_ok h
  obtain ⟨_, hz, h⟩ := bind_ok h
  replace hz := of_zeroBits hz
  cases h
  replace ha := congrArg BitVec.toNat (encodeSrc_decodeSrc ha)
  rw [bits_nat] at ha
  replace hc := congrArg BitVec.toNat (encodeSrc_decodeSrc hc)
  rw [bits_nat] at hc
  have := w1.isLt
  have := w2.isLt
  unfold enc.bfx
  congr 1
  · apply BitVec.eq_of_toNat_eq
    rw [bfx_nat1]
    simp only [bits_nat, bit_nat]
    omega
  · congr 1
    apply BitVec.eq_of_toNat_eq
    rw [bfx_nat2]
    simp only [bits_nat, bit_nat, guardAt_nat]
    omega

theorem bfi_nat1 (op : BitVec 8) (o : BfiOp) :
    ((op ++ enc.b1 o.nw ++ o.d ++ encodeSrc o.a ++ encodeSrc o.b : Word)).toNat =
      op.toNat * 2 ^ 24 + o.nw.toNat * 2 ^ 23 + o.d.toNat * 2 ^ 16 + (encodeSrc o.a).toNat * 2 ^ 8 + (encodeSrc o.b).toNat := by
  repeat rw [toNat_cat]
  rw [b1_nat]
  omega

theorem bfi_nat2 (o : BfiOp) :
    ((encodeSrc o.c ++ enc.guard o.g ++ (0 : BitVec 14) ++ o.width : Word)).toNat =
      (encodeSrc o.c).toNat * 2 ^ 24 + (enc.guard o.g).toNat * 2 ^ 20 + o.width.toNat := by
  repeat rw [toNat_cat]
  simp only [BitVec.ofNat_eq_ofNat, BitVec.toNat_ofNat]
  omega

theorem dec_bfi (op : BitVec 8) (o : BfiOp) :
    ∃ w1 w2, enc.bfi op o = [w1, w2] ∧ bits w1 24 8 = op ∧ dec.bfi w1 w2 = .ok o := by
  refine ⟨_, _, rfl, ?_⟩
  have h1 := bfi_nat1 op o
  generalize (op ++ enc.b1 o.nw ++ o.d ++ encodeSrc o.a ++ encodeSrc o.b : Word) = w1 at h1 ⊢
  have h2 := bfi_nat2 o
  generalize (encodeSrc o.c ++ enc.guard o.g ++ (0 : BitVec 14) ++ o.width : Word) = w2 at h2 ⊢
  have := op.isLt
  have := Bool.toNat_lt o.nw
  have := o.d.isLt
  have := (encodeSrc o.a).isLt
  have := (encodeSrc o.b).isLt
  have := (encodeSrc o.c).isLt
  have := (enc.guard o.g).isLt
  have := o.width.isLt
  refine ⟨bits_eq (by omega), ?_⟩
  have ea : bits w1 8 8 = encodeSrc o.a := bits_eq (by omega)
  have eb : bits w1 0 8 = encodeSrc o.b := bits_eq (by omega)
  have ec : bits w2 24 8 = encodeSrc o.c := bits_eq (by omega)
  have z1_6 : zeroBits w2 6 14 = .ok () := zeroBits_eq (by omega)
  have f0_23 : bit w1 23 = o.nw := bit_eq (by omega)
  have f0_16 : bits w1 16 7 = o.d := bits_eq (by omega)
  have f1_20 : guardAt w2 20 = o.g := guardAt_eq (by omega)
  have f1_0 : bits w2 0 6 = o.width := bits_eq (by omega)
  simp only [dec.bfi, ea, eb, ec, z1_6, f0_23, f0_16, f1_20, f1_0, decodeSrc_encodeSrc]
  rfl

theorem bfi_dec {w1 w2 : Word} {o : BfiOp} (h : dec.bfi w1 w2 = .ok o) : enc.bfi (bits w1 24 8) o = [w1, w2] := by
  unfold dec.bfi at h
  obtain ⟨a, ha, h⟩ := bind_ok h
  obtain ⟨b, hb, h⟩ := bind_ok h
  obtain ⟨c, hc, h⟩ := bind_ok h
  obtain ⟨_, hz, h⟩ := bind_ok h
  replace hz := of_zeroBits hz
  cases h
  replace ha := congrArg BitVec.toNat (encodeSrc_decodeSrc ha)
  rw [bits_nat] at ha
  replace hb := congrArg BitVec.toNat (encodeSrc_decodeSrc hb)
  rw [bits_nat] at hb
  replace hc := congrArg BitVec.toNat (encodeSrc_decodeSrc hc)
  rw [bits_nat] at hc
  have := w1.isLt
  have := w2.isLt
  unfold enc.bfi
  congr 1
  · apply BitVec.eq_of_toNat_eq
    rw [bfi_nat1]
    simp only [bits_nat, bit_nat]
    omega
  · congr 1
    apply BitVec.eq_of_toNat_eq
    rw [bfi_nat2]
    simp only [bits_nat, guardAt_nat]
    omega

theorem cvt_nat1 (op : BitVec 8) (o : CvtOp) :
    ((op ++ enc.b1 o.nw ++ o.d ++ encodeSrc o.a ++ (0 : BitVec 8) : Word)).toNat =
      op.toNat * 2 ^ 24 + o.nw.toNat * 2 ^ 23 + o.d.toNat * 2 ^ 16 + (encodeSrc o.a).toNat * 2 ^ 8 := by
  repeat rw [toNat_cat]
  rw [b1_nat]
  simp only [BitVec.ofNat_eq_ofNat, BitVec.toNat_ofNat]
  omega

theorem cvt_nat2 (o : CvtOp) :
    ((encodeSrc o.c ++ enc.guard o.g ++ (0 : BitVec 6) ++ enc.b1 o.sat ++ o.rm ++ o.fromF ++ o.toF : Word)).toNat =
      (encodeSrc o.c).toNat * 2 ^ 24 + (enc.guard o.g).toNat * 2 ^ 20 + o.sat.toNat * 2 ^ 13 + o.rm.toNat * 2 ^ 10 + o.fromF.toNat * 2 ^ 5 + o.toF.toNat := by
  repeat rw [toNat_cat]
  rw [b1_nat]
  simp only [BitVec.ofNat_eq_ofNat, BitVec.toNat_ofNat]
  omega

theorem dec_cvt (op : BitVec 8) (o : CvtOp) :
    ∃ w1 w2, enc.cvt op o = [w1, w2] ∧ bits w1 24 8 = op ∧ dec.cvt w1 w2 = .ok o := by
  refine ⟨_, _, rfl, ?_⟩
  have h1 := cvt_nat1 op o
  generalize (op ++ enc.b1 o.nw ++ o.d ++ encodeSrc o.a ++ (0 : BitVec 8) : Word) = w1 at h1 ⊢
  have h2 := cvt_nat2 o
  generalize (encodeSrc o.c ++ enc.guard o.g ++ (0 : BitVec 6) ++ enc.b1 o.sat ++ o.rm ++ o.fromF ++ o.toF : Word) = w2 at h2 ⊢
  have := op.isLt
  have := Bool.toNat_lt o.nw
  have := o.d.isLt
  have := (encodeSrc o.a).isLt
  have := (encodeSrc o.c).isLt
  have := (enc.guard o.g).isLt
  have := Bool.toNat_lt o.sat
  have := o.rm.isLt
  have := o.fromF.isLt
  have := o.toF.isLt
  refine ⟨bits_eq (by omega), ?_⟩
  have ea : bits w1 8 8 = encodeSrc o.a := bits_eq (by omega)
  have z0_0 : zeroBits w1 0 8 = .ok () := zeroBits_eq (by omega)
  have ec : bits w2 24 8 = encodeSrc o.c := bits_eq (by omega)
  have z1_14 : zeroBits w2 14 6 = .ok () := zeroBits_eq (by omega)
  have f0_23 : bit w1 23 = o.nw := bit_eq (by omega)
  have f0_16 : bits w1 16 7 = o.d := bits_eq (by omega)
  have f1_20 : guardAt w2 20 = o.g := guardAt_eq (by omega)
  have f1_13 : bit w2 13 = o.sat := bit_eq (by omega)
  have f1_10 : bits w2 10 3 = o.rm := bits_eq (by omega)
  have f1_5 : bits w2 5 5 = o.fromF := bits_eq (by omega)
  have f1_0 : bits w2 0 5 = o.toF := bits_eq (by omega)
  simp only [dec.cvt, ea, z0_0, ec, z1_14, f0_23, f0_16, f1_20, f1_13, f1_10, f1_5, f1_0, decodeSrc_encodeSrc]
  rfl

theorem cvt_dec {w1 w2 : Word} {o : CvtOp} (h : dec.cvt w1 w2 = .ok o) : enc.cvt (bits w1 24 8) o = [w1, w2] := by
  unfold dec.cvt at h
  obtain ⟨a, ha, h⟩ := bind_ok h
  obtain ⟨_, hz, h⟩ := bind_ok h
  replace hz := of_zeroBits hz
  obtain ⟨c, hc, h⟩ := bind_ok h
  obtain ⟨_, hz, h⟩ := bind_ok h
  replace hz := of_zeroBits hz
  cases h
  replace ha := congrArg BitVec.toNat (encodeSrc_decodeSrc ha)
  rw [bits_nat] at ha
  replace hc := congrArg BitVec.toNat (encodeSrc_decodeSrc hc)
  rw [bits_nat] at hc
  have := w1.isLt
  have := w2.isLt
  unfold enc.cvt
  congr 1
  · apply BitVec.eq_of_toNat_eq
    rw [cvt_nat1]
    simp only [bits_nat, bit_nat]
    omega
  · congr 1
    apply BitVec.eq_of_toNat_eq
    rw [cvt_nat2]
    simp only [bits_nat, bit_nat, guardAt_nat]
    omega

theorem imm_nat1 (op : BitVec 8) (o : ImmOp) :
    ((op ++ enc.b1 o.nw ++ o.d ++ encodeSrc o.a ++ (0 : BitVec 8) : Word)).toNat =
      op.toNat * 2 ^ 24 + o.nw.toNat * 2 ^ 23 + o.d.toNat * 2 ^ 16 + (encodeSrc o.a).toNat * 2 ^ 8 := by
  repeat rw [toNat_cat]
  rw [b1_nat]
  simp only [BitVec.ofNat_eq_ofNat, BitVec.toNat_ofNat]
  omega

theorem dec_imm (op : BitVec 8) (o : ImmOp) :
    ∃ w1 w2, enc.imm op o = [w1, w2] ∧ bits w1 24 8 = op ∧ dec.imm w1 w2 = .ok o := by
  refine ⟨_, _, rfl, ?_⟩
  have h1 := imm_nat1 op o
  generalize (op ++ enc.b1 o.nw ++ o.d ++ encodeSrc o.a ++ (0 : BitVec 8) : Word) = w1 at h1 ⊢
  have := op.isLt
  have := Bool.toNat_lt o.nw
  have := o.d.isLt
  have := (encodeSrc o.a).isLt
  refine ⟨bits_eq (by omega), ?_⟩
  have ea : bits w1 8 8 = encodeSrc o.a := bits_eq (by omega)
  have z0_0 : zeroBits w1 0 8 = .ok () := zeroBits_eq (by omega)
  have f0_23 : bit w1 23 = o.nw := bit_eq (by omega)
  have f0_16 : bits w1 16 7 = o.d := bits_eq (by omega)
  simp only [dec.imm, ea, z0_0, f0_23, f0_16, decodeSrc_encodeSrc]
  rfl

theorem imm_dec {w1 w2 : Word} {o : ImmOp} (h : dec.imm w1 w2 = .ok o) : enc.imm (bits w1 24 8) o = [w1, w2] := by
  unfold dec.imm at h
  obtain ⟨a, ha, h⟩ := bind_ok h
  obtain ⟨_, hz, h⟩ := bind_ok h
  replace hz := of_zeroBits hz
  cases h
  replace ha := congrArg BitVec.toNat (encodeSrc_decodeSrc ha)
  rw [bits_nat] at ha
  have := w1.isLt
  have := w2.isLt
  unfold enc.imm
  have e2 : (w2 : Word) = w2 := rfl
  congr 1
  · apply BitVec.eq_of_toNat_eq
    rw [imm_nat1]
    simp only [bits_nat, bit_nat]
    omega

theorem affImm_nat1 (op : BitVec 8) (o : AffImm) :
    ((op ++ (0 : BitVec 4) ++ o.d ++ (0 : BitVec 4) ++ o.a ++ (0 : BitVec 8) : Word)).toNat =
      op.toNat * 2 ^ 24 + o.d.toNat * 2 ^ 16 + o.a.toNat * 2 ^ 8 := by
  repeat rw [toNat_cat]
  simp only [BitVec.ofNat_eq_ofNat, BitVec.toNat_ofNat]
  omega

theorem dec_affImm (op : BitVec 8) (o : AffImm) :
    ∃ w1 w2, enc.affImm op o = [w1, w2] ∧ bits w1 24 8 = op ∧ dec.affImm w1 w2 = .ok o := by
  refine ⟨_, _, rfl, ?_⟩
  have h1 := affImm_nat1 op o
  generalize (op ++ (0 : BitVec 4) ++ o.d ++ (0 : BitVec 4) ++ o.a ++ (0 : BitVec 8) : Word) = w1 at h1 ⊢
  have := op.isLt
  have := o.d.isLt
  have := o.a.isLt
  refine ⟨bits_eq (by omega), ?_⟩
  have z0_20 : zeroBits w1 20 4 = .ok () := zeroBits_eq (by omega)
  have z0_12 : zeroBits w1 12 4 = .ok () := zeroBits_eq (by omega)
  have z0_0 : zeroBits w1 0 8 = .ok () := zeroBits_eq (by omega)
  have f0_16 : bits w1 16 4 = o.d := bits_eq (by omega)
  have f0_8 : bits w1 8 4 = o.a := bits_eq (by omega)
  simp only [dec.affImm, z0_20, z0_12, z0_0, f0_16, f0_8]
  rfl

theorem affImm_dec {w1 w2 : Word} {o : AffImm} (h : dec.affImm w1 w2 = .ok o) : enc.affImm (bits w1 24 8) o = [w1, w2] := by
  unfold dec.affImm at h
  obtain ⟨_, hz, h⟩ := bind_ok h
  replace hz := of_zeroBits hz
  obtain ⟨_, hz, h⟩ := bind_ok h
  replace hz := of_zeroBits hz
  obtain ⟨_, hz, h⟩ := bind_ok h
  replace hz := of_zeroBits hz
  cases h
  have := w1.isLt
  have := w2.isLt
  unfold enc.affImm
  have e2 : (w2 : Word) = w2 := rfl
  congr 1
  · apply BitVec.eq_of_toNat_eq
    rw [affImm_nat1]
    simp only [bits_nat]
    omega

theorem affMovi_nat1 (op : BitVec 8) (o : AffMovi) :
    ((op ++ (0 : BitVec 4) ++ o.d ++ (0 : BitVec 8) ++ o.stride : Word)).toNat =
      op.toNat * 2 ^ 24 + o.d.toNat * 2 ^ 16 + o.stride.toNat := by
  repeat rw [toNat_cat]
  simp only [BitVec.ofNat_eq_ofNat, BitVec.toNat_ofNat]
  omega

theorem dec_affMovi (op : BitVec 8) (o : AffMovi) :
    ∃ w1 w2, enc.affMovi op o = [w1, w2] ∧ bits w1 24 8 = op ∧ dec.affMovi w1 w2 = .ok o := by
  refine ⟨_, _, rfl, ?_⟩
  have h1 := affMovi_nat1 op o
  generalize (op ++ (0 : BitVec 4) ++ o.d ++ (0 : BitVec 8) ++ o.stride : Word) = w1 at h1 ⊢
  have := op.isLt
  have := o.d.isLt
  have := o.stride.isLt
  refine ⟨bits_eq (by omega), ?_⟩
  have z0_20 : zeroBits w1 20 4 = .ok () := zeroBits_eq (by omega)
  have z0_8 : zeroBits w1 8 8 = .ok () := zeroBits_eq (by omega)
  have f0_16 : bits w1 16 4 = o.d := bits_eq (by omega)
  have f0_0 : bits w1 0 8 = o.stride := bits_eq (by omega)
  simp only [dec.affMovi, z0_20, z0_8, f0_16, f0_0]
  rfl

theorem affMovi_dec {w1 w2 : Word} {o : AffMovi} (h : dec.affMovi w1 w2 = .ok o) : enc.affMovi (bits w1 24 8) o = [w1, w2] := by
  unfold dec.affMovi at h
  obtain ⟨_, hz, h⟩ := bind_ok h
  replace hz := of_zeroBits hz
  obtain ⟨_, hz, h⟩ := bind_ok h
  replace hz := of_zeroBits hz
  cases h
  have := w1.isLt
  have := w2.isLt
  unfold enc.affMovi
  have e2 : (w2 : Word) = w2 := rfl
  congr 1
  · apply BitVec.eq_of_toNat_eq
    rw [affMovi_nat1]
    simp only [bits_nat]
    omega

theorem mem_nat1 (op : BitVec 8) (o : MemOp) :
    ((op ++ (0 : BitVec 1) ++ o.d ++ o.ab ++ o.am ++ encodeSrc o.off : Word)).toNat =
      op.toNat * 2 ^ 24 + o.d.toNat * 2 ^ 16 + o.ab.toNat * 2 ^ 12 + o.am.toNat * 2 ^ 8 + (encodeSrc o.off).toNat := by
  repeat rw [toNat_cat]
  simp only [BitVec.ofNat_eq_ofNat, BitVec.toNat_ofNat]
  omega

theorem mem_nat2 (o : MemOp) :
    ((o.size ++ o.hint ++ o.seg ++ enc.guard o.g ++ o.wait ++ o.imm : Word)).toNat =
      o.size.toNat * 2 ^ 29 + o.hint.toNat * 2 ^ 27 + o.seg.toNat * 2 ^ 24 + (enc.guard o.g).toNat * 2 ^ 20 + o.wait.toNat * 2 ^ 17 + o.imm.toNat := by
  repeat rw [toNat_cat]
  omega

theorem dec_mem (op : BitVec 8) (o : MemOp) :
    ∃ w1 w2, enc.mem op o = [w1, w2] ∧ bits w1 24 8 = op ∧ dec.mem w1 w2 = .ok o := by
  refine ⟨_, _, rfl, ?_⟩
  have h1 := mem_nat1 op o
  generalize (op ++ (0 : BitVec 1) ++ o.d ++ o.ab ++ o.am ++ encodeSrc o.off : Word) = w1 at h1 ⊢
  have h2 := mem_nat2 o
  generalize (o.size ++ o.hint ++ o.seg ++ enc.guard o.g ++ o.wait ++ o.imm : Word) = w2 at h2 ⊢
  have := op.isLt
  have := o.d.isLt
  have := o.ab.isLt
  have := o.am.isLt
  have := (encodeSrc o.off).isLt
  have := o.size.isLt
  have := o.hint.isLt
  have := o.seg.isLt
  have := (enc.guard o.g).isLt
  have := o.wait.isLt
  have := o.imm.isLt
  refine ⟨bits_eq (by omega), ?_⟩
  have z0_23 : zeroBits w1 23 1 = .ok () := zeroBits_eq (by omega)
  have eoff : bits w1 0 8 = encodeSrc o.off := bits_eq (by omega)
  have f0_16 : bits w1 16 7 = o.d := bits_eq (by omega)
  have f0_12 : bits w1 12 4 = o.ab := bits_eq (by omega)
  have f0_8 : bits w1 8 4 = o.am := bits_eq (by omega)
  have f1_29 : bits w2 29 3 = o.size := bits_eq (by omega)
  have f1_27 : bits w2 27 2 = o.hint := bits_eq (by omega)
  have f1_24 : bits w2 24 3 = o.seg := bits_eq (by omega)
  have f1_20 : guardAt w2 20 = o.g := guardAt_eq (by omega)
  have f1_17 : bits w2 17 3 = o.wait := bits_eq (by omega)
  have f1_0 : bits w2 0 17 = o.imm := bits_eq (by omega)
  simp only [dec.mem, z0_23, eoff, f0_16, f0_12, f0_8, f1_29, f1_27, f1_24, f1_20, f1_17, f1_0, decodeSrc_encodeSrc]
  rfl

theorem mem_dec {w1 w2 : Word} {o : MemOp} (h : dec.mem w1 w2 = .ok o) : enc.mem (bits w1 24 8) o = [w1, w2] := by
  unfold dec.mem at h
  obtain ⟨_, hz, h⟩ := bind_ok h
  replace hz := of_zeroBits hz
  obtain ⟨off, hoff, h⟩ := bind_ok h
  cases h
  replace hoff := congrArg BitVec.toNat (encodeSrc_decodeSrc hoff)
  rw [bits_nat] at hoff
  have := w1.isLt
  have := w2.isLt
  unfold enc.mem
  congr 1
  · apply BitVec.eq_of_toNat_eq
    rw [mem_nat1]
    simp only [bits_nat]
    omega
  · congr 1
    apply BitVec.eq_of_toNat_eq
    rw [mem_nat2]
    simp only [bits_nat, guardAt_nat]
    omega

theorem eng_nat1 (o : EngOp) :
    (((0xB0 : BitVec 8) ++ enc.b1 o.reply ++ o.d ++ encodeSrc o.a ++ encodeSrc o.b : Word)).toNat =
      176 * 2 ^ 24 + o.reply.toNat * 2 ^ 23 + o.d.toNat * 2 ^ 16 + (encodeSrc o.a).toNat * 2 ^ 8 + (encodeSrc o.b).toNat := by
  repeat rw [toNat_cat]
  rw [b1_nat]
  simp only [BitVec.ofNat_eq_ofNat, BitVec.toNat_ofNat]
  omega

theorem eng_nat2 (fn7 : BitVec 7) (o : EngOp) :
    ((fn7 ++ (0 : BitVec 1) ++ enc.guard o.g ++ o.wait ++ o.imm : Word)).toNat =
      fn7.toNat * 2 ^ 25 + (enc.guard o.g).toNat * 2 ^ 20 + o.wait.toNat * 2 ^ 17 + o.imm.toNat := by
  repeat rw [toNat_cat]
  simp only [BitVec.ofNat_eq_ofNat, BitVec.toNat_ofNat]
  omega

theorem dec_eng (fn7 : BitVec 7) (o : EngOp) :
    ∃ w1 w2, enc.eng fn7 o = [w1, w2] ∧ bits w1 24 8 = 0xB0 ∧ bits w2 25 7 = fn7 ∧ dec.eng w1 w2 = .ok o := by
  refine ⟨_, _, rfl, ?_⟩
  have h1 := eng_nat1 o
  generalize ((0xB0 : BitVec 8) ++ enc.b1 o.reply ++ o.d ++ encodeSrc o.a ++ encodeSrc o.b : Word) = w1 at h1 ⊢
  have h2 := eng_nat2 fn7 o
  generalize (fn7 ++ (0 : BitVec 1) ++ enc.guard o.g ++ o.wait ++ o.imm : Word) = w2 at h2 ⊢
  have := Bool.toNat_lt o.reply
  have := o.d.isLt
  have := (encodeSrc o.a).isLt
  have := (encodeSrc o.b).isLt
  have := fn7.isLt
  have := (enc.guard o.g).isLt
  have := o.wait.isLt
  have := o.imm.isLt
  refine ⟨bits_eq (by show _ = 176; omega), bits_eq (by omega), ?_⟩
  have ea : bits w1 8 8 = encodeSrc o.a := bits_eq (by omega)
  have eb : bits w1 0 8 = encodeSrc o.b := bits_eq (by omega)
  have z1_24 : zeroBits w2 24 1 = .ok () := zeroBits_eq (by omega)
  have f0_23 : bit w1 23 = o.reply := bit_eq (by omega)
  have f0_16 : bits w1 16 7 = o.d := bits_eq (by omega)
  have f1_20 : guardAt w2 20 = o.g := guardAt_eq (by omega)
  have f1_17 : bits w2 17 3 = o.wait := bits_eq (by omega)
  have f1_0 : bits w2 0 17 = o.imm := bits_eq (by omega)
  simp only [dec.eng, ea, eb, z1_24, f0_23, f0_16, f1_20, f1_17, f1_0, decodeSrc_encodeSrc]
  rfl

theorem eng_dec {w1 w2 : Word} {o : EngOp} (hop : bits w1 24 8 = 0xB0) (h : dec.eng w1 w2 = .ok o) : enc.eng (bits w2 25 7) o = [w1, w2] := by
  have hop : (bits w1 24 8).toNat = 0xB0 := by rw [hop]; rfl
  rw [bits_nat] at hop
  unfold dec.eng at h
  obtain ⟨a, ha, h⟩ := bind_ok h
  obtain ⟨b, hb, h⟩ := bind_ok h
  obtain ⟨_, hz, h⟩ := bind_ok h
  replace hz := of_zeroBits hz
  cases h
  replace ha := congrArg BitVec.toNat (encodeSrc_decodeSrc ha)
  rw [bits_nat] at ha
  replace hb := congrArg BitVec.toNat (encodeSrc_decodeSrc hb)
  rw [bits_nat] at hb
  have := w1.isLt
  have := w2.isLt
  unfold enc.eng
  congr 1
  · apply BitVec.eq_of_toNat_eq
    rw [eng_nat1]
    simp only [bits_nat, bit_nat]
    omega
  · congr 1
    apply BitVec.eq_of_toNat_eq
    rw [eng_nat2]
    simp only [bits_nat, guardAt_nat]
    omega

theorem mat_nat1 (op : BitVec 8) (o : MatOp) :
    ((op ++ o.md ++ o.ma ++ o.mb ++ o.z ++ o.flags : Word)).toNat =
      op.toNat * 2 ^ 24 + o.md.toNat * 2 ^ 19 + o.ma.toNat * 2 ^ 14 + o.mb.toNat * 2 ^ 9 + o.z.toNat * 2 ^ 6 + o.flags.toNat := by
  repeat rw [toNat_cat]
  omega

theorem mat_nat2 (o : MatOp) :
    ((o.aq ++ o.qf ++ (0 : BitVec 4) ++ o.wait ++ o.imm : Word)).toNat =
      o.aq.toNat * 2 ^ 28 + o.qf.toNat * 2 ^ 24 + o.wait.toNat * 2 ^ 17 + o.imm.toNat := by
  repeat rw [toNat_cat]
  simp only [BitVec.ofNat_eq_ofNat, BitVec.toNat_ofNat]
  omega

theorem dec_mat (op : BitVec 8) (o : MatOp) :
    ∃ w1 w2, enc.mat op o = [w1, w2] ∧ bits w1 24 8 = op ∧ bits w2 24 3 = o.qf.extractLsb' 0 3 ∧ dec.mat w1 w2 = .ok o := by
  refine ⟨_, _, rfl, ?_⟩
  have h1 := mat_nat1 op o
  generalize (op ++ o.md ++ o.ma ++ o.mb ++ o.z ++ o.flags : Word) = w1 at h1 ⊢
  have h2 := mat_nat2 o
  generalize (o.aq ++ o.qf ++ (0 : BitVec 4) ++ o.wait ++ o.imm : Word) = w2 at h2 ⊢
  have := op.isLt
  have := o.md.isLt
  have := o.ma.isLt
  have := o.mb.isLt
  have := o.z.isLt
  have := o.flags.isLt
  have := o.aq.isLt
  have := o.qf.isLt
  have := o.wait.isLt
  have := o.imm.isLt
  refine ⟨bits_eq (by omega), bits_eq (by rw [BitVec.extractLsb'_toNat]; simp; omega), ?_⟩
  have z1_20 : zeroBits w2 20 4 = .ok () := zeroBits_eq (by omega)
  have f0_19 : bits w1 19 5 = o.md := bits_eq (by omega)
  have f0_14 : bits w1 14 5 = o.ma := bits_eq (by omega)
  have f0_9 : bits w1 9 5 = o.mb := bits_eq (by omega)
  have f0_6 : bits w1 6 3 = o.z := bits_eq (by omega)
  have f0_0 : bits w1 0 6 = o.flags := bits_eq (by omega)
  have f1_28 : bits w2 28 4 = o.aq := bits_eq (by omega)
  have f1_24 : bits w2 24 4 = o.qf := bits_eq (by omega)
  have f1_17 : bits w2 17 3 = o.wait := bits_eq (by omega)
  have f1_0 : bits w2 0 17 = o.imm := bits_eq (by omega)
  simp only [dec.mat, z1_20, f0_19, f0_14, f0_9, f0_6, f0_0, f1_28, f1_24, f1_17, f1_0]
  rfl

theorem mat_dec {w1 w2 : Word} {o : MatOp} (h : dec.mat w1 w2 = .ok o) : enc.mat (bits w1 24 8) o = [w1, w2] := by
  unfold dec.mat at h
  obtain ⟨_, hz, h⟩ := bind_ok h
  replace hz := of_zeroBits hz
  cases h
  have := w1.isLt
  have := w2.isLt
  unfold enc.mat
  congr 1
  · apply BitVec.eq_of_toNat_eq
    rw [mat_nat1]
    simp only [bits_nat]
    omega
  · congr 1
    apply BitVec.eq_of_toNat_eq
    rw [mat_nat2]
    simp only [bits_nat]
    omega

theorem task_nat1 (op : BitVec 8) (o : TaskOp) :
    ((op ++ (0 : BitVec 1) ++ o.d ++ o.ao ++ o.as ++ encodeSrc o.b : Word)).toNat =
      op.toNat * 2 ^ 24 + o.d.toNat * 2 ^ 16 + o.ao.toNat * 2 ^ 12 + o.as.toNat * 2 ^ 8 + (encodeSrc o.b).toNat := by
  repeat rw [toNat_cat]
  simp only [BitVec.ofNat_eq_ofNat, BitVec.toNat_ofNat]
  omega

theorem task_nat2 (o : TaskOp) :
    ((o.tx ++ enc.guard o.g ++ o.wait ++ o.imm : Word)).toNat =
      o.tx.toNat * 2 ^ 24 + (enc.guard o.g).toNat * 2 ^ 20 + o.wait.toNat * 2 ^ 17 + o.imm.toNat := by
  repeat rw [toNat_cat]
  omega

theorem dec_task (op : BitVec 8) (o : TaskOp) :
    ∃ w1 w2, enc.task op o = [w1, w2] ∧ bits w1 24 8 = op ∧ dec.task w1 w2 = .ok o := by
  refine ⟨_, _, rfl, ?_⟩
  have h1 := task_nat1 op o
  generalize (op ++ (0 : BitVec 1) ++ o.d ++ o.ao ++ o.as ++ encodeSrc o.b : Word) = w1 at h1 ⊢
  have h2 := task_nat2 o
  generalize (o.tx ++ enc.guard o.g ++ o.wait ++ o.imm : Word) = w2 at h2 ⊢
  have := op.isLt
  have := o.d.isLt
  have := o.ao.isLt
  have := o.as.isLt
  have := (encodeSrc o.b).isLt
  have := o.tx.isLt
  have := (enc.guard o.g).isLt
  have := o.wait.isLt
  have := o.imm.isLt
  refine ⟨bits_eq (by omega), ?_⟩
  have z0_23 : zeroBits w1 23 1 = .ok () := zeroBits_eq (by omega)
  have eb : bits w1 0 8 = encodeSrc o.b := bits_eq (by omega)
  have f0_16 : bits w1 16 7 = o.d := bits_eq (by omega)
  have f0_12 : bits w1 12 4 = o.ao := bits_eq (by omega)
  have f0_8 : bits w1 8 4 = o.as := bits_eq (by omega)
  have f1_24 : bits w2 24 8 = o.tx := bits_eq (by omega)
  have f1_20 : guardAt w2 20 = o.g := guardAt_eq (by omega)
  have f1_17 : bits w2 17 3 = o.wait := bits_eq (by omega)
  have f1_0 : bits w2 0 17 = o.imm := bits_eq (by omega)
  simp only [dec.task, z0_23, eb, f0_16, f0_12, f0_8, f1_24, f1_20, f1_17, f1_0, decodeSrc_encodeSrc]
  rfl

theorem task_dec {w1 w2 : Word} {o : TaskOp} (h : dec.task w1 w2 = .ok o) : enc.task (bits w1 24 8) o = [w1, w2] := by
  unfold dec.task at h
  obtain ⟨_, hz, h⟩ := bind_ok h
  replace hz := of_zeroBits hz
  obtain ⟨b, hb, h⟩ := bind_ok h
  cases h
  replace hb := congrArg BitVec.toNat (encodeSrc_decodeSrc hb)
  rw [bits_nat] at hb
  have := w1.isLt
  have := w2.isLt
  unfold enc.task
  congr 1
  · apply BitVec.eq_of_toNat_eq
    rw [task_nat1]
    simp only [bits_nat]
    omega
  · congr 1
    apply BitVec.eq_of_toNat_eq
    rw [task_nat2]
    simp only [bits_nat, guardAt_nat]
    omega

/-! ## Words of the stream (R58) -/

/-- The opcode tells how many words there are: 0x80 and above take two (Table 3.6). -/
theorem isTwoWord_opcode (w : Word) : isTwoWord w = decide (128 ≤ (bits w 24 8).toNat) := by
  rw [isTwoWord]
  have h := bit_nat w 31
  rw [bits_nat]
  have := w.isLt
  cases hb : bit w 31 <;> rw [hb] at h <;> simp at h ⊢ <;> omega

theorem decodeWords_one {w : Word} {i : Instr} (more : List Word) (ht : isTwoWord w = false) (hp : parseOne w = .ok i) (hw : i.wf = true) :
    decodeWords (w :: more) = .ok (i, 1) := by
  simp [decodeWords, decode, wordCount, ht, hp, hw, acceptWf, bind, Except.bind, Except.map]

theorem decodeWords_two {w1 w2 : Word} {i : Instr} (more : List Word) (ht : isTwoWord w1 = true) (hp : parseTwo w1 w2 = .ok i)
    (hw : i.wf = true) : decodeWords (w1 :: w2 :: more) = .ok (i, 2) := by
  simp [decodeWords, decode, wordCount, ht, hp, hw, acceptWf, bind, Except.bind, Except.map]

/-- What decodes is well-formed and parses from the first word or the first two. -/
theorem decodeWords_ok {ws : List Word} {i : Instr} {n : Nat} (h : decodeWords ws = .ok (i, n)) :
    i.wf = true ∧ ((∃ w more, ws = w :: more ∧ isTwoWord w = false ∧ parseOne w = .ok i ∧ n = 1) ∨
      ∃ w1 w2 more, ws = w1 :: w2 :: more ∧ isTwoWord w1 = true ∧ parseTwo w1 w2 = .ok i ∧ n = 2) := by
  have accept : ∀ {x : Except DecodeError Instr}, (x >>= acceptWf) = .ok i → i.wf = true ∧ x = .ok i := by
    intro x h
    obtain ⟨j, hx, hj⟩ := bind_ok h
    unfold acceptWf at hj
    split at hj
    · cases hj; exact ⟨by assumption, hx⟩
    · cases hj
  rcases ws with _ | ⟨w, rest⟩
  · cases h
  simp only [decodeWords, Except.map] at h
  rcases hd : decode w rest.head? with e | j <;> rw [hd] at h <;> cases h
  unfold decode at hd
  split at hd
  · rename_i ht
    rcases rest with _ | ⟨w2, more⟩
    · simp only [List.head?_nil] at hd
      split at hd <;> cases hd
    · simp only [List.head?_cons] at hd
      exact ⟨(accept hd).1, .inr ⟨w, w2, more, rfl, ht, (accept hd).2, by simp [wordCount, ht]⟩⟩
  · rename_i ht
    exact ⟨(accept hd).1, .inl ⟨w, rest, rfl, by simpa using ht, (accept hd).2, by simp [wordCount, ht]⟩⟩

end Sys2Proof.Laws
end

