-- ==== Sys2Proof/Laws/Lanes.lean ====
section
/-! SUPPORT. What one instruction of an issue group does: the write of each thread, the advance past its words, and the law of every
lane instruction that no operand fault stops. -/
namespace Sys2Proof.Machine

/-! ## Members -/

theorem viewOf_gk (s : State) (g : Group) : (viewOf s g).gk = g.gk := by
  unfold viewOf
  split <;> rfl

/-- A member is the thread at its place, with its group as the issue group reads it. -/
theorem memberOf_eq {s : State} {m : Nat × Nat} {g : Group} {t : Thread} (h : memberOf s m = some (g, t)) :
    threadAt s m = some t ∧ ∃ g0, groupOf s m.1 = some g0 ∧ g = viewOf s g0 := by
  unfold memberOf at h
  split at h
  · simp at h
  · next g0 h0 =>
    obtain ⟨t', ht, he⟩ := Option.map_eq_some_iff.mp h
    obtain ⟨rfl, rfl⟩ := Prod.mk.inj he
    exact ⟨by simp [threadAt, h0, ht], g0, h0, rfl⟩

theorem memberOf_idx {s : State} {m : Nat × Nat} {g : Group} {t : Thread} (h : memberOf s m = some (g, t)) : t.idx = m.2 :=
  threadAt_idx (memberOf_eq h).1

@[simp] theorem headMembers_cons {s : State} {i : Issue} {rest : List Issue} (h : s.issues = i :: rest) :
    headMembers s = i.members := by simp [headMembers, h]

@[simp] theorem leftClause_idx (i : Issue) (m : Nat × Nat) (a : Nat) (t : Thread) : (leftClause i m a t).idx = t.idx := by
  unfold leftClause
  dsimp only
  split <;> rfl

/-- A thread that arrived at no barrier in a clause is left as it is at the clause's end (R162). -/
theorem parkBars_none {hdr : DWord} {t : Thread} (h : NoBars hdr t) : parkBars hdr t = t := by
  have h1 : t.bars.filter (fun e => e.2 == hdr) = [] := by simpa [List.filter_eq_nil_iff] using h
  have h2 : t.bars.filter (fun e => e.2 != hdr) = t.bars := by simpa [List.filter_eq_self] using h
  simp [parkBars, h1, h2]

/-- A member that arrived at no barrier in its clause goes on after it, ready (R156, R162). -/
theorem leftClause_none {i : Issue} {m : Nat × Nat} {a : Nat} {t : Thread} (hst : t.status = .issuing) (h : NoBars i.hdr t) :
    leftClause i m a t =
      { t with
        pc := if i.jumped.contains m then t.pc else i.hdr + BitVec.ofNat 64 (4 * (i.words.length + 1))
        hdr := if i.jumped.contains m then t.hdr else i.hdr + BitVec.ofNat 64 (4 * (i.words.length + 1))
        l0 := 0, l1 := 0, clause := none, age := a, status := .ready } := by
  simp only [leftClause, hst, if_true]
  exact parkBars_none h

/-! ## The write of one thread -/

theorem applyLane_eq {f : Group → Thread → LaneOut} {s0 s : State} {m : Nat × Nat} {g : Group} {t t' : Thread} {fl : Flags}
    (hm : memberOf s0 m = some (g, t)) (hf : f g t = .ok (t', fl)) :
    applyLane f s0 s m =
      modGroup s m.1 fun g => { updThread g m.2 (fun _ => t') with ctl := { g.ctl with fpm := raiseFlags g.ctl.fpm fl } } := by
  simp [applyLane, hm, hf]

/-- What the writes of the members of a list have done: `upd m` is what became of m. -/
structure Written (s s' : State) (ms : List (Nat × Nat)) (upd : Nat × Nat → Thread) (fl : Group → Thread → Flags) (s0 : State) :
    Prop where
  member : ∀ m ∈ ms, threadAt s' m = some (upd m)
  other : ∀ n, n ∉ ms → threadAt s' n = threadAt s n
  group : ∀ gk g, groupOf s gk = some g → ∃ ts, groupOf s' gk =
    some { g with threads := ts, ctl := { g.ctl with fpm := fpmAfter fl s0 ms gk g.ctl.fpm } }
  frame : s' = { s with groups := s'.groups }

/-- Every member writes what the instruction makes of it. -/
theorem applyLane_foldl {f : Group → Thread → LaneOut} {s0 : State} {upd : Nat × Nat → Thread} {fl : Group → Thread → Flags}
    {ms : List (Nat × Nat)} (hn : ms.Nodup)
    (hok : ∀ m ∈ ms, ∃ g t, memberOf s0 m = some (g, t) ∧ f g t = .ok (upd m, fl g t) ∧ (upd m).idx = m.2)
    (s : State) (hs : ∀ m ∈ ms, (threadAt s m).isSome) : Written s (ms.foldl (applyLane f s0) s) ms upd fl s0 := by
  induction ms generalizing s with
  | nil => exact ⟨by simp, by simp, fun gk g h => ⟨g.threads, h⟩, rfl⟩
  | cons m r ih =>
    obtain ⟨hmr, hr⟩ := List.nodup_cons.mp hn
    obtain ⟨g, t, hm, hf, hidx⟩ := hok m (by simp)
    rw [List.foldl_cons, applyLane_eq hm hf]
    generalize hs1 : modGroup s m.1 (fun g => { updThread g m.2 (fun _ => upd m) with
      ctl := { g.ctl with fpm := raiseFlags g.ctl.fpm (fl _ _) } }) = s1
    have hgk : ∀ x : Group, ({ updThread x m.2 (fun _ => upd m) with
      ctl := { x.ctl with fpm := raiseFlags x.ctl.fpm (fl g t) } } : Group).gk = x.gk := fun _ => rfl
    have h1 : ∀ n, threadAt s1 n = if n = m then (threadAt s m).map (fun _ => upd m) else threadAt s n := by
      intro n
      subst hs1
      by_cases hg : n.1 = m.1
      · rw [threadAt, hg, groupOf_modGroup hgk, threadAt, threadAt, hg]
        cases groupOf s m.1 with
        | none => simp
        | some x =>
          simp only [Option.map_some, Option.bind_some]
          by_cases ht : n.2 = m.2
          · rw [if_pos (Prod.ext hg ht), ht]
            exact threadOf_updThread fun _ _ => hidx
          · rw [if_neg fun e => ht (by rw [e])]
            exact threadOf_updThread_other (fun _ _ => hidx) ht
      · rw [if_neg fun e => hg (by rw [e]), threadAt, groupOf_modGroup_other hgk hg, threadAt]
    have hs' : ∀ n ∈ r, (threadAt s1 n).isSome := by
      intro n hnr
      have hne : n ≠ m := fun e => hmr (e ▸ hnr)
      rw [h1, if_neg hne]
      exact hs n (by simp [hnr])
    obtain ⟨im, io, ig, ifr⟩ := ih hr (fun n hnr => hok n (by simp [hnr])) s1 hs'
    refine ⟨fun n hnm => ?_, fun n hnm => ?_, fun gk x hx => ?_, ?_⟩
    · rcases List.mem_cons.mp hnm with rfl | hnr
      · rw [io _ hmr, h1, if_pos rfl]
        obtain ⟨x, hx⟩ := Option.isSome_iff_exists.mp (hs n (by simp))
        simp [hx]
      · exact im n hnr
    · have hne : n ≠ m := fun e => hnm (by simp [e])
      rw [io n (fun e => hnm (by simp [e])), h1, if_neg hne]
    · subst hs1
      by_cases hg : gk = m.1
      · subst hg
        obtain ⟨ts, h⟩ := ig m.1 _ (by rw [groupOf_modGroup hgk, hx]; rfl)
        refine ⟨ts, h.trans ?_⟩
        simp [fpmAfter, hm, updThread]
      · obtain ⟨ts, h⟩ := ig gk x (by rw [groupOf_modGroup_other hgk hg]; exact hx)
        refine ⟨ts, h.trans ?_⟩
        simp [fpmAfter, Ne.symm hg]
    · subst hs1
      exact ifr

/-! ## The advance past an instruction -/

/-- What leaving a finished clause does to the members of a list. -/
structure Left (i : Issue) (s s' : State) (ms : List (Nat × Nat)) : Prop where
  member : ∀ m ∈ ms, ∀ t, threadAt s m = some t → ∃ a, threadAt s' m = some (leftClause i m a t)
  other : ∀ n, n ∉ ms → threadAt s' n = threadAt s n
  group : ∀ gk g, groupOf s gk = some g → ∃ ts, groupOf s' gk = some { g with threads := ts }
  frame : s' = { s with groups := s'.groups, names := s'.names }

theorem leaveClause_foldl (i : Issue) {ms : List (Nat × Nat)} (hn : ms.Nodup) (s : State) : Left i s (ms.foldl (leaveClause i) s) ms := by
  induction ms generalizing s with
  | nil => exact ⟨by simp, by simp, fun gk g h => ⟨g.threads, h⟩, rfl⟩
  | cons m r ih =>
    obtain ⟨hmr, hr⟩ := List.nodup_cons.mp hn
    rw [List.foldl_cons]
    obtain ⟨im, io, ig, ifr⟩ := ih hr (leaveClause i s m)
    have hself : threadAt (leaveClause i s m) m = (threadAt s m).map (leftClause i m s.names) :=
      threadAt_modThread (s := (fresh s).1) fun _ h => (leftClause_idx ..).trans h
    have hoth : ∀ n, n ≠ m → threadAt (leaveClause i s m) n = threadAt s n := fun n h =>
      threadAt_modThread_other (s := (fresh s).1) (fun _ h => (leftClause_idx ..).trans h) h
    refine ⟨fun n hnm t ht => ?_, fun n hnm => ?_, fun gk g hg => ?_, ?_⟩
    · rcases List.mem_cons.mp hnm with rfl | hnr
      · exact ⟨s.names, by rw [io _ hmr, hself, ht]; rfl⟩
      · have hne : n ≠ m := fun e => hmr (e ▸ hnr)
        exact im n hnr t ((hoth n hne).trans ht)
    · have hne : n ≠ m := fun e => hnm (by simp [e])
      rw [io n fun e => hnm (by simp [e]), hoth n hne]
    · by_cases hgk : gk = m.1
      · subst hgk
        have h1 : groupOf (leaveClause i s m) m.1 = some (updThread g m.2 (leftClause i m s.names)) := by
          rw [leaveClause, groupOf_modThread]
          exact congrArg (Option.map _) hg
        obtain ⟨ts, h⟩ := ig m.1 _ h1
        exact ⟨ts, h⟩
      · exact ig gk g ((groupOf_modThread_other (s := (fresh s).1) _ hgk).trans hg)
    · rw [ifr]
      rfl

/-- With no member stopped, the head issue group goes past w words; past the last one its members leave the clause. -/
theorem advance_all {s : State} {i : Issue} {rest : List Issue} (hi : s.issues = i :: rest) (he : i.members ≠ []) (w : Nat) :
    advance s w [] =
      if i.off + w < i.words.length then { s with issues := { i with off := i.off + w, done := i.done + 1, issued := [], faults := [] } :: rest }
      else i.members.foldl (leaveClause i) { s with issues := rest } := by
  have hfil : (i.members.filter fun m => !(([] : List (Nat × Nat)).contains m)) = i.members := by simp
  have hemp : i.members.isEmpty = false := by cases h : i.members <;> simp_all
  have hlc : leaveClause { i with members := i.members, off := i.off + w, done := i.done + 1, issued := [], faults := [] } = leaveClause i := rfl
  unfold advance
  simp only [hi, hfil, hemp, Bool.false_eq_true, if_false, hlc]
  by_cases h : i.off + w < i.words.length
  · rw [if_pos h, if_neg (by omega)]
  · rw [if_neg h, if_pos (by omega)]

/-- What the advance past w words does to the members of the head issue group when none stopped. -/
structure Advanced (s s' : State) (i : Issue) (rest : List Issue) (w : Nat) : Prop where
  member : ∀ m ∈ i.members, ∀ t, threadAt s m = some t → ∃ t', threadAt s' m = some t' ∧ afterWords i w m t t'
  other : ∀ n, n ∉ i.members → threadAt s' n = threadAt s n
  group : ∀ gk g, groupOf s gk = some g → ∃ ts, groupOf s' gk = some { g with threads := ts }
  issues : s'.issues = issuesAfter i rest w
  frame : s' = { s with groups := s'.groups, issues := s'.issues, names := s'.names }

/-- The law of the advance. -/
theorem advance_spec {s : State} {i : Issue} {rest : List Issue} (hi : s.issues = i :: rest) (hn : i.members.Nodup)
    (he : i.members ≠ []) (w : Nat) : Advanced s (advance s w []) i rest w := by
  rw [advance_all hi he]
  by_cases hc : i.off + w < i.words.length
  · rw [if_pos hc]
    exact ⟨fun m _ t h => ⟨t, h, by rw [afterWords, if_pos hc]⟩, fun n _ => rfl, fun gk g h => ⟨g.threads, h⟩,
      by rw [issuesAfter, if_pos hc], rfl⟩
  · rw [if_neg hc]
    obtain ⟨lm, lo, lg, lf⟩ := leaveClause_foldl i hn { s with issues := rest }
    refine ⟨fun m hm t h => ?_, fun n hnm => lo n hnm, fun gk g h => lg gk g h, ?_, ?_⟩
    · obtain ⟨a, ha⟩ := lm m hm t h
      exact ⟨_, ha, by rw [afterWords, if_neg hc]; exact ⟨a, rfl⟩⟩
    · rw [lf, issuesAfter, if_neg hc]
    · rw [lf]

theorem memberOf_isSome_threadAt {s : State} {m : Nat × Nat} {g : Group} {t : Thread} (h : memberOf s m = some (g, t)) :
    (threadAt s m).isSome := by rw [(memberOf_eq h).1]; rfl

/-- The law of lane instructions: where each member's operands give a result, the members write and go on. -/
theorem runLanes_run {s : State} {i : Issue} {rest : List Issue} {w : Nat} {f : Group → Thread → LaneOut}
    {res : Group → Thread → Thread} {fl : Group → Thread → Flags} (hd : Head s i rest)
    (hok : ∀ m ∈ i.members, ∃ g t, memberOf s m = some (g, t) ∧ f g t = .ok (res g t, fl g t) ∧ (res g t).idx = t.idx) :
    LaneRun s (runLanes s w f) i rest w res fl := by
  obtain ⟨hi, hn, he⟩ := hd
  let upd : Nat × Nat → Thread := fun m => match memberOf s m with | some (g, t) => res g t | none => { idx := 0, regs := [], winHi := 0, pc := 0, hdr := 0 }
  have hupd : ∀ {m g t}, memberOf s m = some (g, t) → upd m = res g t := fun h => by simp [upd, h]
  have hw := applyLane_foldl (f := f) (s0 := s) (upd := upd) (fl := fl) hn
    (fun m hm => by
      obtain ⟨g, t, h, hf, hidx⟩ := hok m hm
      exact ⟨g, t, h, by rw [hupd h]; exact hf, by rw [hupd h, hidx, memberOf_idx h]⟩)
    s (fun m hm => by
      obtain ⟨g, t, h, _⟩ := hok m hm
      exact memberOf_isSome_threadAt h)
  have hnf : i.members.filterMap (laneFault f s) = [] := by
    rw [List.filterMap_eq_nil_iff]
    intro m hm
    obtain ⟨g, t, h, hf, _⟩ := hok m hm
    simp [laneFault, h, hf]
  obtain ⟨wm, wo, wg, wf⟩ := hw
  have hi' : (i.members.foldl (applyLane f s) s).issues = i :: rest := by rw [wf]; exact hi
  rw [runLanes, finishInstr]
  simp only [headMembers_cons hi, hnf, List.map_nil, List.isEmpty_nil, if_true]
  generalize i.members.foldl (applyLane f s) s = s1 at *
  obtain ⟨am, ao, ag, ai, af⟩ := advance_spec hi' hn he w
  refine ⟨fun m hm g t h => am m hm _ (by rw [← hupd h]; exact wm m hm), fun n hnm => (ao n hnm).trans (wo n hnm), fun gk g h => ?_,
    ai, by rw [af, wf]⟩
  obtain ⟨ts, h1⟩ := wg gk g h
  obtain ⟨ts', h2⟩ := ag gk _ h1
  exact ⟨ts', h2⟩

/-- An instruction whose meaning is a lane function runs as the law says. -/
theorem runs_lanes {ins : Instr} {s : State} {i : Issue} {rest : List Issue} {w : Nat} {f : Group → Thread → LaneOut}
    {res : Group → Thread → Thread} {fl : Group → Thread → Flags} (hx : exec ins s = .next (runLanes s w f)) (hd : Head s i rest)
    (hok : ∀ m ∈ i.members, ∃ g t, memberOf s m = some (g, t) ∧ f g t = .ok (res g t, fl g t) ∧ (res g t).idx = t.idx) :
    Runs ins s fun s' => LaneRun s s' i rest w res fl :=
  ⟨_, hx, runLanes_run hd hok⟩

/-! ## Operands and destinations -/

theorem reads32_member {s : State} {k : SrcKind} {a : Src} {m : Nat × Nat} (h : reads32 s k a m = true) :
    ∃ g t, memberOf s m = some (g, t) ∧ readSrc32 k g t a = .ok (src32 k g t a) := by
  unfold reads32 at h
  split at h
  · next g t hm =>
    split at h
    · next v hv => exact ⟨g, t, hm, by simp [src32, hv]⟩
    · simp at h
  · simp at h

theorem reads64_member {s : State} {k : SrcKind} {a : Src} {m : Nat × Nat} (h : reads64 s k a m = true) :
    ∃ g t, memberOf s m = some (g, t) ∧ readSrc64 k g t a = .ok (src64 k g t a) := by
  unfold reads64 at h
  split at h
  · next g t hm =>
    split at h
    · next v hv => exact ⟨g, t, hm, by simp [src64, hv]⟩
    · simp at h
  · simp at h

theorem reads32_of {s : State} {k : SrcKind} {a : Src} {m : Nat × Nat} {g : Group} {t : Thread} (hm : memberOf s m = some (g, t))
    (h : reads32 s k a m = true) : readSrc32 k g t a = .ok (src32 k g t a) := by
  obtain ⟨g', t', hm', hr⟩ := reads32_member h
  rw [hm] at hm'
  obtain ⟨rfl, rfl⟩ := Prod.mk.inj (Option.some.inj hm')
  exact hr

theorem reads64_of {s : State} {k : SrcKind} {a : Src} {m : Nat × Nat} {g : Group} {t : Thread} (hm : memberOf s m = some (g, t))
    (h : reads64 s k a m = true) : readSrc64 k g t a = .ok (src64 k g t a) := by
  obtain ⟨g', t', hm', hr⟩ := reads64_member h
  rw [hm] at hm'
  obtain ⟨rfl, rfl⟩ := Prod.mk.inj (Option.some.inj hm')
  exact hr

@[simp] theorem shiftLatch_idx (t : Thread) (x : DWord) : (shiftLatch t x).idx = t.idx := rfl
@[simp] theorem setReg_idx (t : Thread) (r : Nat) (x : Word) : (setReg t r x).idx = t.idx := rfl
@[simp] theorem setPair_idx (t : Thread) (r : Nat) (x : DWord) : (setPair t r x).idx = t.idx := rfl
@[simp] theorem put32_idx (t : Thread) (nw : Bool) (d : BitVec 7) (x : Word) : (put32 t nw d x).idx = t.idx := by
  cases nw <;> rfl
@[simp] theorem put64_idx (t : Thread) (nw : Bool) (d : BitVec 7) (x : DWord) : (put64 t nw d x).idx = t.idx := by
  cases nw <;> rfl
@[simp] theorem keep32_idx (t : Thread) (nw : Bool) (d : BitVec 7) : (keep32 t nw d).idx = t.idx := rfl
@[simp] theorem keep64_idx (t : Thread) (nw : Bool) (d : BitVec 7) : (keep64 t nw d).idx = t.idx := rfl
@[simp] theorem putPred_idx (t : Thread) (n : BitVec 3) (b : Bool) : (putPred t n b).idx = t.idx := by
  unfold putPred
  split <;> rfl

/-! ## Operand shapes -/

theorem bin32_ok {k : SrcKind} {o : RBin} {f : Group → Word → Word → Word × Flags} {g : Group} {t : Thread}
    (ha : readSrc32 k g t o.a = .ok (src32 k g t o.a)) (hb : readSrc32 k g t o.b = .ok (src32 k g t o.b)) :
    bin32 k o f g t = .ok (put32 t o.nw o.d (f g (src32 k g t o.a) (src32 k g t o.b)).1,
      (f g (src32 k g t o.a) (src32 k g t o.b)).2) := by
  simp only [bin32, ha, hb]
  rfl

theorem un32_ok {k : SrcKind} {o : RUn} {f : Group → Word → Word × Flags} {g : Group} {t : Thread}
    (ha : readSrc32 k g t o.a = .ok (src32 k g t o.a)) :
    un32 k o f g t = .ok (put32 t o.nw o.d (f g (src32 k g t o.a)).1, (f g (src32 k g t o.a)).2) := by
  simp only [un32, ha]
  rfl

theorem bin64_ok {k : SrcKind} {o : RBin} {f : Group → DWord → DWord → DWord × Flags} {g : Group} {t : Thread}
    (ha : readSrc64 k g t o.a = .ok (src64 k g t o.a)) (hb : readSrc64 k g t o.b = .ok (src64 k g t o.b)) :
    bin64 k o f g t = .ok (put64 t o.nw o.d (f g (src64 k g t o.a) (src64 k g t o.b)).1,
      (f g (src64 k g t o.a) (src64 k g t o.b)).2) := by
  simp only [bin64, ha, hb]
  rfl

theorem un64_ok {k : SrcKind} {o : RUn} {f : Group → DWord → DWord × Flags} {g : Group} {t : Thread}
    (ha : readSrc64 k g t o.a = .ok (src64 k g t o.a)) :
    un64 k o f g t = .ok (put64 t o.nw o.d (f g (src64 k g t o.a)).1, (f g (src64 k g t o.a)).2) := by
  simp only [un64, ha]
  rfl

theorem compare32_ok {k : SrcKind} {o : PCmp} {f : Group → Word → Word → Bool × Flags} {g : Group} {t : Thread}
    (ha : readSrc32 k g t o.a = .ok (src32 k g t o.a)) (hb : readSrc32 k g t o.b = .ok (src32 k g t o.b)) :
    compare32 k o f g t = .ok (shiftLatch (putPred t o.pd (f g (src32 k g t o.a) (src32 k g t o.b)).1) 0,
      (f g (src32 k g t o.a) (src32 k g t o.b)).2) := by
  simp only [compare32, ha, hb]
  rfl

theorem compare64_ok {k : SrcKind} {o : PCmp} {f : Group → DWord → DWord → Bool × Flags} {g : Group} {t : Thread}
    (ha : readSrc64 k g t o.a = .ok (src64 k g t o.a)) (hb : readSrc64 k g t o.b = .ok (src64 k g t o.b)) :
    compare64 k o f g t = .ok (shiftLatch (putPred t o.pd (f g (src64 k g t o.a) (src64 k g t o.b)).1) 0,
      (f g (src64 k g t o.a) (src64 k g t o.b)).2) := by
  simp only [compare64, ha, hb]
  rfl

/-- A guarded operation of three sources on a thread whose guard is true. -/
theorem tri32_ok {k : SrcKind} {nw : Bool} {d : BitVec 7} {gd : Guard} {sa sb sc : Src}
    {f : Group → Thread → Word → Word → Word → Word × Flags} {g : Group} {t : Thread} (hg : guardTrue t gd = true)
    (ha : readSrc32 k g t sa = .ok (src32 k g t sa)) (hb : readSrc32 k g t sb = .ok (src32 k g t sb))
    (hc : readSrc32 k g t sc = .ok (src32 k g t sc)) :
    tri32 k nw d gd sa sb sc f g t = .ok (put32 t nw d (f g t (src32 k g t sa) (src32 k g t sb) (src32 k g t sc)).1,
      (f g t (src32 k g t sa) (src32 k g t sb) (src32 k g t sc)).2) := by
  simp only [tri32, hg, if_true, ha, hb, hc]
  rfl

/-- A guarded operation on a thread whose guard is false keeps its destination (R69). -/
theorem tri32_off {k : SrcKind} {nw : Bool} {d : BitVec 7} {gd : Guard} {sa sb sc : Src}
    {f : Group → Thread → Word → Word → Word → Word × Flags} {g : Group} {t : Thread} (hg : guardTrue t gd = false) :
    tri32 k nw d gd sa sb sc f g t = .ok (keep32 t nw d, {}) := by
  simp [tri32, hg, plain]

end Sys2Proof.Machine
end

