-- ==== Sys2Proof/Laws/PerInstr.lean ====
section
/-! SUPPORT. One lemma per instruction about its encoding: its length agrees with bit 31 of its first word (R58, R78), and an event of
the device has no words. -/
namespace Sys2Proof.Laws

/-! ## Bit 31 of a first word is bit 7 of its opcode -/

theorem rbin_top (op : BitVec 8) (o : RBin) : (enc.rbin op o).getLsbD 31 = op.getLsbD 7 := by
  unfold enc.rbin; try simp only [List.headD_cons]
  repeat rw [BitVec.getLsbD_append]
  simp

theorem run_top (op : BitVec 8) (o : RUn) : (enc.run op o).getLsbD 31 = op.getLsbD 7 := by
  unfold enc.run; try simp only [List.headD_cons]
  repeat rw [BitVec.getLsbD_append]
  simp

theorem pcmp_top (op : BitVec 8) (o : PCmp) : (enc.pcmp op o).getLsbD 31 = op.getLsbD 7 := by
  unfold enc.pcmp; try simp only [List.headD_cons]
  repeat rw [BitVec.getLsbD_append]
  simp

theorem plog_top (op : BitVec 8) (o : PLog) : (enc.plog op o).getLsbD 31 = op.getLsbD 7 := by
  unfold enc.plog; try simp only [List.headD_cons]
  repeat rw [BitVec.getLsbD_append]
  simp

theorem pget_top (op : BitVec 8) (o : PGet) : (enc.pget op o).getLsbD 31 = op.getLsbD 7 := by
  unfold enc.pget; try simp only [List.headD_cons]
  repeat rw [BitVec.getLsbD_append]
  simp

theorem pvote_top (op : BitVec 8) (o : PVote) : (enc.pvote op o).getLsbD 31 = op.getLsbD 7 := by
  unfold enc.pvote; try simp only [List.headD_cons]
  repeat rw [BitVec.getLsbD_append]
  simp

theorem affBin_top (op : BitVec 8) (o : AffBin) : (enc.affBin op o).getLsbD 31 = op.getLsbD 7 := by
  unfold enc.affBin; try simp only [List.headD_cons]
  repeat rw [BitVec.getLsbD_append]
  simp

theorem affUn_top (op : BitVec 8) (o : AffUn) : (enc.affUn op o).getLsbD 31 = op.getLsbD 7 := by
  unfold enc.affUn; try simp only [List.headD_cons]
  repeat rw [BitVec.getLsbD_append]
  simp

theorem affSet_top (op : BitVec 8) (o : AffSet) : (enc.affSet op o).getLsbD 31 = op.getLsbD 7 := by
  unfold enc.affSet; try simp only [List.headD_cons]
  repeat rw [BitVec.getLsbD_append]
  simp

theorem affShl_top (op : BitVec 8) (o : AffShl) : (enc.affShl op o).getLsbD 31 = op.getLsbD 7 := by
  unfold enc.affShl; try simp only [List.headD_cons]
  repeat rw [BitVec.getLsbD_append]
  simp

theorem xbar_top (op : BitVec 8) (o : XBarOp) : (enc.xbar op o).getLsbD 31 = op.getLsbD 7 := by
  unfold enc.xbar; try simp only [List.headD_cons]
  repeat rw [BitVec.getLsbD_append]
  simp

theorem branch_top (op : BitVec 8) (o : Branch) : (enc.branch op o).getLsbD 31 = op.getLsbD 7 := by
  unfold enc.branch; try simp only [List.headD_cons]
  repeat rw [BitVec.getLsbD_append]
  simp

theorem guardOnly_top (op : BitVec 8) (g : Guard) : (enc.guardOnly op g).getLsbD 31 = op.getLsbD 7 := by
  unfold enc.guardOnly; try simp only [List.headD_cons]
  repeat rw [BitVec.getLsbD_append]
  simp

theorem jumpReg_top (op : BitVec 8) (o : JumpReg) : (enc.jumpReg op o).getLsbD 31 = op.getLsbD 7 := by
  unfold enc.jumpReg; try simp only [List.headD_cons]
  repeat rw [BitVec.getLsbD_append]
  simp

theorem trapOp_top (op : BitVec 8) (o : TrapOp) : (enc.trapOp op o).getLsbD 31 = op.getLsbD 7 := by
  unfold enc.trapOp; try simp only [List.headD_cons]
  repeat rw [BitVec.getLsbD_append]
  simp

theorem winOp_top (op : BitVec 8) (o : WinOp) : (enc.winOp op o).getLsbD 31 = op.getLsbD 7 := by
  unfold enc.winOp; try simp only [List.headD_cons]
  repeat rw [BitVec.getLsbD_append]
  simp

theorem idxOp_top (op : BitVec 8) (o : IdxOp) : (enc.idxOp op o).getLsbD 31 = op.getLsbD 7 := by
  unfold enc.idxOp; try simp only [List.headD_cons]
  repeat rw [BitVec.getLsbD_append]
  simp

theorem bar_top (op : BitVec 8) (b : BitVec 2) : (enc.bar op b).getLsbD 31 = op.getLsbD 7 := by
  unfold enc.bar; try simp only [List.headD_cons]
  repeat rw [BitVec.getLsbD_append]
  simp

theorem clk_top (op : BitVec 8) (o : ClkOp) : (enc.clk op o).getLsbD 31 = op.getLsbD 7 := by
  unfold enc.clk; try simp only [List.headD_cons]
  repeat rw [BitVec.getLsbD_append]
  simp

theorem fma_top (op : BitVec 8) (o : FmaOp) : ((enc.fma op o).headD 0).getLsbD 31 = op.getLsbD 7 := by
  unfold enc.fma; try simp only [List.headD_cons]
  repeat rw [BitVec.getLsbD_append]
  simp

theorem mad_top (op : BitVec 8) (o : MadOp) : ((enc.mad op o).headD 0).getLsbD 31 = op.getLsbD 7 := by
  unfold enc.mad; try simp only [List.headD_cons]
  repeat rw [BitVec.getLsbD_append]
  simp

theorem sel_top (op : BitVec 8) (o : SelOp) : ((enc.sel op o).headD 0).getLsbD 31 = op.getLsbD 7 := by
  unfold enc.sel; try simp only [List.headD_cons]
  repeat rw [BitVec.getLsbD_append]
  simp

theorem bfx_top (op : BitVec 8) (o : BfxOp) : ((enc.bfx op o).headD 0).getLsbD 31 = op.getLsbD 7 := by
  unfold enc.bfx; try simp only [List.headD_cons]
  repeat rw [BitVec.getLsbD_append]
  simp

theorem bfi_top (op : BitVec 8) (o : BfiOp) : ((enc.bfi op o).headD 0).getLsbD 31 = op.getLsbD 7 := by
  unfold enc.bfi; try simp only [List.headD_cons]
  repeat rw [BitVec.getLsbD_append]
  simp

theorem cvt_top (op : BitVec 8) (o : CvtOp) : ((enc.cvt op o).headD 0).getLsbD 31 = op.getLsbD 7 := by
  unfold enc.cvt; try simp only [List.headD_cons]
  repeat rw [BitVec.getLsbD_append]
  simp

theorem imm_top (op : BitVec 8) (o : ImmOp) : ((enc.imm op o).headD 0).getLsbD 31 = op.getLsbD 7 := by
  unfold enc.imm; try simp only [List.headD_cons]
  repeat rw [BitVec.getLsbD_append]
  simp

theorem affImm_top (op : BitVec 8) (o : AffImm) : ((enc.affImm op o).headD 0).getLsbD 31 = op.getLsbD 7 := by
  unfold enc.affImm; try simp only [List.headD_cons]
  repeat rw [BitVec.getLsbD_append]
  simp

theorem affMovi_top (op : BitVec 8) (o : AffMovi) : ((enc.affMovi op o).headD 0).getLsbD 31 = op.getLsbD 7 := by
  unfold enc.affMovi; try simp only [List.headD_cons]
  repeat rw [BitVec.getLsbD_append]
  simp

theorem mem_top (op : BitVec 8) (o : MemOp) : ((enc.mem op o).headD 0).getLsbD 31 = op.getLsbD 7 := by
  unfold enc.mem; try simp only [List.headD_cons]
  repeat rw [BitVec.getLsbD_append]
  simp

theorem mat_top (op : BitVec 8) (o : MatOp) : ((enc.mat op o).headD 0).getLsbD 31 = op.getLsbD 7 := by
  unfold enc.mat; try simp only [List.headD_cons]
  repeat rw [BitVec.getLsbD_append]
  simp

theorem task_top (op : BitVec 8) (o : TaskOp) : ((enc.task op o).headD 0).getLsbD 31 = op.getLsbD 7 := by
  unfold enc.task; try simp only [List.headD_cons]
  repeat rw [BitVec.getLsbD_append]
  simp

theorem eng_top (fn7 : BitVec 7) (o : EngOp) : ((enc.eng fn7 o).headD 0).getLsbD 31 = true := by
  unfold enc.eng; try simp only [List.headD_cons]
  repeat rw [BitVec.getLsbD_append]
  simp

end Sys2Proof.Laws

/-- What each lemma says: the length of an encoding is none, or what its first word says. -/
def Sys2Proof.Laws.EncodingLength.Statement (i : Instr) : Prop :=
  encode i = [] ∨ (encode i).length = wordCount ((encode i).headD 0)

namespace Sys2Proof.Laws.EncodingLength

-- one theorem at a time: a thread per theorem of this list would ask for more memory than the check grants
set_option Elab.async false

theorem one {i : Instr} {w : Word} (h : encode i = [w]) (hw : w.getLsbD 31 = false) : Statement i :=
  .inr (by rw [h]; simp only [List.headD_cons, wordCount, isTwoWord, bit, hw]; rfl)

theorem two {i : Instr} {ws : List Word} (h : encode i = ws) (hw : (ws.headD 0).getLsbD 31 = true)
    (hn : ws.length = 2 := by rfl) : Statement i :=
  .inr (by rw [h, hn, wordCount, isTwoWord, bit, if_pos hw])

theorem nop : Statement .nop := .inr rfl
theorem iadd (o : RBin) : Statement (.iadd o) := one rfl ((rbin_top _ _).trans rfl)
theorem isub (o : RBin) : Statement (.isub o) := one rfl ((rbin_top _ _).trans rfl)
theorem imul (o : RBin) : Statement (.imul o) := one rfl ((rbin_top _ _).trans rfl)
theorem imulh (o : RBin) : Statement (.imulh o) := one rfl ((rbin_top _ _).trans rfl)
theorem imulhu (o : RBin) : Statement (.imulhu o) := one rfl ((rbin_top _ _).trans rfl)
theorem imin (o : RBin) : Statement (.imin o) := one rfl ((rbin_top _ _).trans rfl)
theorem iminu (o : RBin) : Statement (.iminu o) := one rfl ((rbin_top _ _).trans rfl)
theorem imax (o : RBin) : Statement (.imax o) := one rfl ((rbin_top _ _).trans rfl)
theorem imaxu (o : RBin) : Statement (.imaxu o) := one rfl ((rbin_top _ _).trans rfl)
theorem iabs (o : RUn) : Statement (.iabs o) := one rfl ((run_top _ _).trans rfl)
theorem and (o : RBin) : Statement (.and o) := one rfl ((rbin_top _ _).trans rfl)
theorem or (o : RBin) : Statement (.or o) := one rfl ((rbin_top _ _).trans rfl)
theorem xor (o : RBin) : Statement (.xor o) := one rfl ((rbin_top _ _).trans rfl)
theorem shl (o : RBin) : Statement (.shl o) := one rfl ((rbin_top _ _).trans rfl)
theorem shr (o : RBin) : Statement (.shr o) := one rfl ((rbin_top _ _).trans rfl)
theorem sar (o : RBin) : Statement (.sar o) := one rfl ((rbin_top _ _).trans rfl)
theorem rotl (o : RBin) : Statement (.rotl o) := one rfl ((rbin_top _ _).trans rfl)
theorem popc (o : RUn) : Statement (.popc o) := one rfl ((run_top _ _).trans rfl)
theorem clz (o : RUn) : Statement (.clz o) := one rfl ((run_top _ _).trans rfl)
theorem brev (o : RUn) : Statement (.brev o) := one rfl ((run_top _ _).trans rfl)
theorem iadds (o : RBin) : Statement (.iadds o) := one rfl ((rbin_top _ _).trans rfl)
theorem isubs (o : RBin) : Statement (.isubs o) := one rfl ((rbin_top _ _).trans rfl)
theorem iadd64 (o : RBin) : Statement (.iadd64 o) := one rfl ((rbin_top _ _).trans rfl)
theorem isub64 (o : RBin) : Statement (.isub64 o) := one rfl ((rbin_top _ _).trans rfl)
theorem mov (o : RUn) : Statement (.mov o) := one rfl ((run_top _ _).trans rfl)
theorem mov64 (o : RUn) : Statement (.mov64 o) := one rfl ((run_top _ _).trans rfl)
theorem icmp (o : PCmp) : Statement (.icmp o) := one rfl ((pcmp_top _ _).trans rfl)
theorem icmp64 (o : PCmp) : Statement (.icmp64 o) := one rfl ((pcmp_top _ _).trans rfl)
theorem fcmp (o : PCmp) : Statement (.fcmp o) := one rfl ((pcmp_top _ _).trans rfl)
theorem dcmp (o : PCmp) : Statement (.dcmp o) := one rfl ((pcmp_top _ _).trans rfl)
theorem pand (o : PLog) : Statement (.pand o) := one rfl ((plog_top _ _).trans rfl)
theorem por (o : PLog) : Statement (.por o) := one rfl ((plog_top _ _).trans rfl)
theorem pxor (o : PLog) : Statement (.pxor o) := one rfl ((plog_top _ _).trans rfl)
theorem pandn (o : PLog) : Statement (.pandn o) := one rfl ((plog_top _ _).trans rfl)
theorem pget (o : PGet) : Statement (.pget o) := one rfl ((pget_top _ _).trans rfl)
theorem pset (o : PVote) : Statement (.pset o) := one rfl ((pvote_top _ _).trans rfl)
theorem fadd (o : RBin) : Statement (.fadd o) := one rfl ((rbin_top _ _).trans rfl)
theorem fsub (o : RBin) : Statement (.fsub o) := one rfl ((rbin_top _ _).trans rfl)
theorem fmul (o : RBin) : Statement (.fmul o) := one rfl ((rbin_top _ _).trans rfl)
theorem fmin (o : RBin) : Statement (.fmin o) := one rfl ((rbin_top _ _).trans rfl)
theorem fmax (o : RBin) : Statement (.fmax o) := one rfl ((rbin_top _ _).trans rfl)
theorem fabs (o : RUn) : Statement (.fabs o) := one rfl ((run_top _ _).trans rfl)
theorem fneg (o : RUn) : Statement (.fneg o) := one rfl ((run_top _ _).trans rfl)
theorem fsat (o : RUn) : Statement (.fsat o) := one rfl ((run_top _ _).trans rfl)
theorem dadd (o : RBin) : Statement (.dadd o) := one rfl ((rbin_top _ _).trans rfl)
theorem dsub (o : RBin) : Statement (.dsub o) := one rfl ((rbin_top _ _).trans rfl)
theorem dmul (o : RBin) : Statement (.dmul o) := one rfl ((rbin_top _ _).trans rfl)
theorem dmin (o : RBin) : Statement (.dmin o) := one rfl ((rbin_top _ _).trans rfl)
theorem dmax (o : RBin) : Statement (.dmax o) := one rfl ((rbin_top _ _).trans rfl)
theorem dabs (o : RUn) : Statement (.dabs o) := one rfl ((run_top _ _).trans rfl)
theorem dneg (o : RUn) : Statement (.dneg o) := one rfl ((run_top _ _).trans rfl)
theorem hadd2 (o : RBin) : Statement (.hadd2 o) := one rfl ((rbin_top _ _).trans rfl)
theorem hmul2 (o : RBin) : Statement (.hmul2 o) := one rfl ((rbin_top _ _).trans rfl)
theorem hmin2 (o : RBin) : Statement (.hmin2 o) := one rfl ((rbin_top _ _).trans rfl)
theorem hmax2 (o : RBin) : Statement (.hmax2 o) := one rfl ((rbin_top _ _).trans rfl)
theorem badd2 (o : RBin) : Statement (.badd2 o) := one rfl ((rbin_top _ _).trans rfl)
theorem bmul2 (o : RBin) : Statement (.bmul2 o) := one rfl ((rbin_top _ _).trans rfl)
theorem bmin2 (o : RBin) : Statement (.bmin2 o) := one rfl ((rbin_top _ _).trans rfl)
theorem bmax2 (o : RBin) : Statement (.bmax2 o) := one rfl ((rbin_top _ _).trans rfl)
theorem frcp (o : RUn) : Statement (.frcp o) := one rfl ((run_top _ _).trans rfl)
theorem frsq (o : RUn) : Statement (.frsq o) := one rfl ((run_top _ _).trans rfl)
theorem fsqrt (o : RUn) : Statement (.fsqrt o) := one rfl ((run_top _ _).trans rfl)
theorem fexp2 (o : RUn) : Statement (.fexp2 o) := one rfl ((run_top _ _).trans rfl)
theorem flog2 (o : RUn) : Statement (.flog2 o) := one rfl ((run_top _ _).trans rfl)
theorem fsin (o : RUn) : Statement (.fsin o) := one rfl ((run_top _ _).trans rfl)
theorem fcos (o : RUn) : Statement (.fcos o) := one rfl ((run_top _ _).trans rfl)
theorem ftanh (o : RUn) : Statement (.ftanh o) := one rfl ((run_top _ _).trans rfl)
theorem aadd (o : AffBin) : Statement (.aadd o) := one rfl ((affBin_top _ _).trans rfl)
theorem asub (o : AffBin) : Statement (.asub o) := one rfl ((affBin_top _ _).trans rfl)
theorem amov (o : AffUn) : Statement (.amov o) := one rfl ((affUn_top _ _).trans rfl)
theorem aset (o : AffSet) : Statement (.aset o) := one rfl ((affSet_top _ _).trans rfl)
theorem ashl (o : AffShl) : Statement (.ashl o) := one rfl ((affShl_top _ _).trans rfl)
theorem amul (o : AffBin) : Statement (.amul o) := one rfl ((affBin_top _ _).trans rfl)
theorem shfl (o : RBin) : Statement (.shfl o) := one rfl ((rbin_top _ _).trans rfl)
theorem xbar (o : XBarOp) : Statement (.xbar o) := one rfl ((xbar_top _ _).trans rfl)
theorem vany (o : PVote) : Statement (.vany o) := one rfl ((pvote_top _ _).trans rfl)
theorem vall (o : PVote) : Statement (.vall o) := one rfl ((pvote_top _ _).trans rfl)
theorem ballot (o : RUn) : Statement (.ballot o) := one rfl ((run_top _ _).trans rfl)
theorem br (o : Branch) : Statement (.br o) := one rfl ((branch_top _ _).trans rfl)
theorem call (o : Branch) : Statement (.call o) := one rfl ((branch_top _ _).trans rfl)
theorem ret (g : Guard) : Statement (.ret g) := one rfl ((guardOnly_top _ _).trans rfl)
theorem jmpr (o : JumpReg) : Statement (.jmpr o) := one rfl ((jumpReg_top _ _).trans rfl)
theorem exit (g : Guard) : Statement (.exit g) := one rfl ((guardOnly_top _ _).trans rfl)
theorem brk (o : TrapOp) : Statement (.brk o) := one rfl ((trapOp_top _ _).trans rfl)
theorem trap (o : TrapOp) : Statement (.trap o) := one rfl ((trapOp_top _ _).trans rfl)
theorem yield (g : Guard) : Statement (.yield g) := one rfl ((guardOnly_top _ _).trans rfl)
theorem xwin (o : WinOp) : Statement (.xwin o) := one rfl ((winOp_top _ _).trans rfl)
theorem xset (o : IdxOp) : Statement (.xset o) := one rfl ((idxOp_top _ _).trans rfl)
theorem xput (o : IdxOp) : Statement (.xput o) := one rfl ((idxOp_top _ _).trans rfl)
theorem bar (b : BitVec 2) : Statement (.bar b) := one rfl ((bar_top _ _).trans rfl)
theorem clkr (o : ClkOp) : Statement (.clkr o) := one rfl ((clk_top _ _).trans rfl)
theorem ffus (o : FmaOp) : Statement (.ffus o) := two rfl ((fma_top _ _).trans rfl)
theorem dfus (o : FmaOp) : Statement (.dfus o) := two rfl ((fma_top _ _).trans rfl)
theorem hfus2 (o : FmaOp) : Statement (.hfus2 o) := two rfl ((fma_top _ _).trans rfl)
theorem bfus2 (o : FmaOp) : Statement (.bfus2 o) := two rfl ((fma_top _ _).trans rfl)
theorem imad (o : MadOp) : Statement (.imad o) := two rfl ((mad_top _ _).trans rfl)
theorem sel (o : SelOp) : Statement (.sel o) := two rfl ((sel_top _ _).trans rfl)
theorem bfx (o : BfxOp) : Statement (.bfx o) := two rfl ((bfx_top _ _).trans rfl)
theorem bfi (o : BfiOp) : Statement (.bfi o) := two rfl ((bfi_top _ _).trans rfl)
theorem cvt (o : CvtOp) : Statement (.cvt o) := two rfl ((cvt_top _ _).trans rfl)
theorem movi (o : ImmOp) : Statement (.movi o) := two rfl ((imm_top _ _).trans rfl)
theorem iaddi (o : ImmOp) : Statement (.iaddi o) := two rfl ((imm_top _ _).trans rfl)
theorem amovi (o : AffMovi) : Statement (.amovi o) := two rfl ((affMovi_top _ _).trans rfl)
theorem aaddi (o : AffImm) : Statement (.aaddi o) := two rfl ((affImm_top _ _).trans rfl)
theorem amuli (o : AffImm) : Statement (.amuli o) := two rfl ((affImm_top _ _).trans rfl)
theorem rnd (o : MadOp) : Statement (.rnd o) := two rfl ((mad_top _ _).trans rfl)
theorem ld (o : MemOp) : Statement (.ld o) := two rfl ((mem_top _ _).trans rfl)
theorem st (o : MemOp) : Statement (.st o) := two rfl ((mem_top _ _).trans rfl)
theorem pref (o : MemOp) : Statement (.pref o) := two rfl ((mem_top _ _).trans rfl)
theorem atom (o : MemOp) : Statement (.atom o) := two rfl ((mem_top _ _).trans rfl)
theorem red (o : MemOp) : Statement (.red o) := two rfl ((mem_top _ _).trans rfl)
theorem swinit (o : MemOp) : Statement (.swinit o) := two rfl ((mem_top _ _).trans rfl)
theorem swadd (o : MemOp) : Statement (.swadd o) := two rfl ((mem_top _ _).trans rfl)
theorem swwait (o : MemOp) : Statement (.swwait o) := two rfl ((mem_top _ _).trans rfl)
theorem loadArrival (op : Nat) : Statement (.loadArrival op) := .inl rfl
theorem storeCompletion (op : Nat) : Statement (.storeCompletion op) := .inl rfl
theorem atomicCompletion (op : Nat) : Statement (.atomicCompletion op) := .inl rfl
theorem syncWordPieceArrival (op piece : Nat) : Statement (.syncWordPieceArrival op piece) := .inl rfl
theorem engCopy (o : EngOp) : Statement (.engCopy o) := two rfl ((eng_top _ _).trans rfl)
theorem engCopy2d (o : EngOp) : Statement (.engCopy2d o) := two rfl ((eng_top _ _).trans rfl)
theorem engGather (o : EngOp) : Statement (.engGather o) := two rfl ((eng_top _ _).trans rfl)
theorem engScatter (o : EngOp) : Statement (.engScatter o) := two rfl ((eng_top _ _).trans rfl)
theorem engFill (o : EngOp) : Statement (.engFill o) := two rfl ((eng_top _ _).trans rfl)
theorem engAllred (o : EngOp) : Statement (.engAllred o) := two rfl ((eng_top _ _).trans rfl)
theorem engBcast (o : EngOp) : Statement (.engBcast o) := two rfl ((eng_top _ _).trans rfl)
theorem engRtrace (o : EngOp) : Statement (.engRtrace o) := two rfl ((eng_top _ _).trans rfl)
theorem engRany (o : EngOp) : Statement (.engRany o) := two rfl ((eng_top _ _).trans rfl)
theorem engRlaunch (o : EngOp) : Statement (.engRlaunch o) := two rfl ((eng_top _ _).trans rfl)
theorem engBquery (o : EngOp) : Statement (.engBquery o) := two rfl ((eng_top _ _).trans rfl)
theorem engBrefit (o : EngOp) : Statement (.engBrefit o) := two rfl ((eng_top _ _).trans rfl)
theorem engineOperationCompletion (op : Nat) : Statement (.engineOperationCompletion op) := .inl rfl
theorem mclaim (o : MatOp) : Statement (.mclaim o) := two rfl ((mat_top _ _).trans rfl)
theorem mrel (o : MatOp) : Statement (.mrel o) := two rfl ((mat_top _ _).trans rfl)
theorem mld (o : MatOp) : Statement (.mld o) := two rfl ((mat_top _ _).trans rfl)
theorem mst (o : MatOp) : Statement (.mst o) := two rfl ((mat_top _ _).trans rfl)
theorem mzero (o : MatOp) : Statement (.mzero o) := two rfl ((mat_top _ _).trans rfl)
theorem mhdrFmt (o : MatOp) : Statement (.mhdrFmt o) := two rfl ((mat_top _ _).trans rfl)
theorem mhdrKey (o : MatOp) : Statement (.mhdrKey o) := two rfl ((mat_top _ _).trans rfl)
theorem mhdrWc (o : MatOp) : Statement (.mhdrWc o) := two rfl ((mat_top _ _).trans rfl)
theorem mhdrSofs (o : MatOp) : Statement (.mhdrSofs o) := two rfl ((mat_top _ _).trans rfl)
theorem mhdrSt (o : MatOp) : Statement (.mhdrSt o) := two rfl ((mat_top _ _).trans rfl)
theorem mmul (o : MatOp) : Statement (.mmul o) := two rfl ((mat_top _ _).trans rfl)
theorem madd (o : MatOp) : Statement (.madd o) := two rfl ((mat_top _ _).trans rfl)
theorem msub (o : MatOp) : Statement (.msub o) := two rfl ((mat_top _ _).trans rfl)
theorem mscale (o : MatOp) : Statement (.mscale o) := two rfl ((mat_top _ _).trans rfl)
theorem mtrn (o : MatOp) : Statement (.mtrn o) := two rfl ((mat_top _ _).trans rfl)
theorem mrecomp (o : MatOp) : Statement (.mrecomp o) := two rfl ((mat_top _ _).trans rfl)
theorem mdense (o : MatOp) : Statement (.mdense o) := two rfl ((mat_top _ _).trans rfl)
theorem mrank (o : MatOp) : Statement (.mrank o) := two rfl ((mat_top _ _).trans rfl)
theorem mnorm (o : MatOp) : Statement (.mnorm o) := two rfl ((mat_top _ _).trans rfl)
theorem mma (o : MatOp) : Statement (.mma o) := two rfl ((mat_top _ _).trans rfl)
theorem zld (o : MatOp) : Statement (.zld o) := two rfl ((mat_top _ _).trans rfl)
theorem zst (o : MatOp) : Statement (.zst o) := two rfl ((mat_top _ _).trans rfl)
theorem zcvt (o : MatOp) : Statement (.zcvt o) := two rfl ((mat_top _ _).trans rfl)
theorem zzero (o : MatOp) : Statement (.zzero o) := two rfl ((mat_top _ _).trans rfl)
theorem matrixCommandStart (core : Nat) : Statement (.matrixCommandStart core) := .inl rfl
theorem matrixCommandCompletion (core : Nat) : Statement (.matrixCommandCompletion core) := .inl rfl
theorem spawn (o : TaskOp) : Statement (.spawn o) := two rfl ((task_top _ _).trans rfl)
theorem await (o : TaskOp) : Statement (.await o) := two rfl ((task_top _ _).trans rfl)
theorem phase (o : TaskOp) : Statement (.phase o) := two rfl ((task_top _ _).trans rfl)
theorem fnew (o : TaskOp) : Statement (.fnew o) := two rfl ((task_top _ _).trans rfl)
theorem fput (o : TaskOp) : Statement (.fput o) := two rfl ((task_top _ _).trans rfl)
theorem fget (o : TaskOp) : Statement (.fget o) := two rfl ((task_top _ _).trans rfl)
theorem adoptedPhaseEnd (core : Nat) : Statement (.adoptedPhaseEnd core) := .inl rfl
theorem lacq (o : TaskOp) : Statement (.lacq o) := two rfl ((task_top _ _).trans rfl)
theorem lrel (o : TaskOp) : Statement (.lrel o) := two rfl ((task_top _ _).trans rfl)
theorem qput (o : TaskOp) : Statement (.qput o) := two rfl ((task_top _ _).trans rfl)
theorem qget (o : TaskOp) : Statement (.qget o) := two rfl ((task_top _ _).trans rfl)
theorem dcdec (o : TaskOp) : Statement (.dcdec o) := two rfl ((task_top _ _).trans rfl)
theorem tktake (o : TaskOp) : Statement (.tktake o) := two rfl ((task_top _ _).trans rfl)
theorem tkwait (o : TaskOp) : Statement (.tkwait o) := two rfl ((task_top _ _).trans rfl)
theorem tself (o : TaskOp) : Statement (.tself o) := two rfl ((task_top _ _).trans rfl)
theorem ticketAutomaticTake (gk slot : Nat) : Statement (.ticketAutomaticTake gk slot) := .inl rfl
theorem deterministicCommit (grid : Nat) : Statement (.deterministicCommit grid) := .inl rfl
theorem temit (o : TaskOp) : Statement (.temit o) := two rfl ((task_top _ _).trans rfl)
theorem mvtx (o : TaskOp) : Statement (.mvtx o) := two rfl ((task_top _ _).trans rfl)
theorem mprim (o : TaskOp) : Statement (.mprim o) := two rfl ((task_top _ _).trans rfl)
theorem mend (o : TaskOp) : Statement (.mend o) := two rfl ((task_top _ _).trans rfl)
theorem meshletBinning (op : Nat) : Statement (.meshletBinning op) := .inl rfl
theorem sinfo (o : TaskOp) : Statement (.sinfo o) := two rfl ((task_top _ _).trans rfl)
theorem tcomb (o : TaskOp) : Statement (.tcomb o) := two rfl ((task_top _ _).trans rfl)
theorem tdone (o : TaskOp) : Statement (.tdone o) := two rfl ((task_top _ _).trans rfl)
theorem ctlr (o : TaskOp) : Statement (.ctlr o) := two rfl ((task_top _ _).trans rfl)
theorem ctlw (o : TaskOp) : Statement (.ctlw o) := two rfl ((task_top _ _).trans rfl)
theorem segw (o : TaskOp) : Statement (.segw o) := two rfl ((task_top _ _).trans rfl)
theorem xbld (o : TaskOp) : Statement (.xbld o) := two rfl ((task_top _ _).trans rfl)
theorem perfr (o : TaskOp) : Statement (.perfr o) := two rfl ((task_top _ _).trans rfl)
theorem sret (o : TaskOp) : Statement (.sret o) := two rfl ((task_top _ _).trans rfl)
theorem clauseFetch (core sub : Nat) : Statement (.clauseFetch core sub) := .inl rfl
theorem clauseIssue (core sub : Nat) : Statement (.clauseIssue core sub) := .inl rfl
theorem reconvergence (gk : Nat) : Statement (.reconvergence gk) := .inl rfl
theorem hostFaultRecord (part : Nat) : Statement (.hostFaultRecord part) := .inl rfl
theorem replay (part : Nat) (seq : Word) : Statement (.replay part seq) := .inl rfl
theorem kill (part : Nat) (seq : Word) : Statement (.kill part seq) := .inl rfl
theorem groupDispatch (core : Nat) : Statement (.groupDispatch core) := .inl rfl
theorem steal (core : Nat) : Statement (.steal core) := .inl rfl
theorem groupRetirement (gk : Nat) : Statement (.groupRetirement gk) := .inl rfl
theorem preemption (core : Nat) : Statement (.preemption core) := .inl rfl
theorem preemptionResume (gk : Nat) : Statement (.preemptionResume gk) := .inl rfl
theorem hostEnqueue (part offset : Nat) (words : List DWord) : Statement (.hostEnqueue part offset words) := .inl rfl
theorem skidderRefill (cluster cls : Nat) : Statement (.skidderRefill cluster cls) := .inl rfl
theorem hostMemoryRead (part : Nat) (va : DWord) (len : Nat) : Statement (.hostMemoryRead part va len) := .inl rfl
theorem hostMemoryWrite (part : Nat) (va : DWord) (data : List (Option Byte)) : Statement (.hostMemoryWrite part va data) := .inl rfl
theorem hostRegisterWrite (offset : Nat) (data : List Byte) : Statement (.hostRegisterWrite offset data) := .inl rfl
theorem gazeWrite (view : Nat) (val : Word) : Statement (.gazeWrite view val) := .inl rfl
theorem capabilityExchange (word : DWord) : Statement (.capabilityExchange word) := .inl rfl
theorem invalidateWindowPiece (part die writer piece : Nat) (data : DWord) : Statement (.invalidateWindowPiece part die writer piece data) := .inl rfl
theorem invalidateRange (die part : Nat) : Statement (.invalidateRange die part) := .inl rfl
theorem invalidateAsid (die part : Nat) : Statement (.invalidateAsid die part) := .inl rfl
theorem invalidatePartition (die part : Nat) : Statement (.invalidatePartition die part) := .inl rfl
theorem l2placeWrite (val : Word) : Statement (.l2placeWrite val) := .inl rfl
theorem l2placeDrainDone : Statement .l2placeDrainDone := .inl rfl
theorem l2LineMigration (line slice : Nat) : Statement (.l2LineMigration line slice) := .inl rfl
theorem flumeWriteback (core : Nat) : Statement (.flumeWriteback core) := .inl rfl
theorem pstateWrite (val : Word) : Statement (.pstateWrite val) := .inl rfl
theorem pstateChangeDone : Statement .pstateChangeDone := .inl rfl
theorem cgateWrite (val : Word) : Statement (.cgateWrite val) := .inl rfl
theorem clusterGated (cluster : Nat) : Statement (.clusterGated cluster) := .inl rfl
theorem partitionEnable (part : Nat) (val : Word) : Statement (.partitionEnable part val) := .inl rfl
theorem partitionEnableCheckDone (part : Nat) : Statement (.partitionEnableCheckDone part) := .inl rfl
theorem partitionDisable (part : Nat) (val : Word) : Statement (.partitionDisable part val) := .inl rfl
theorem pcselWrite (n : Nat) (val : Word) : Statement (.pcselWrite n val) := .inl rfl
theorem displayEnable (out : Nat) (val : Word) : Statement (.displayEnable out val) := .inl rfl
theorem linkTrainingDone (out : Nat) (ok : Bool) : Statement (.linkTrainingDone out ok) := .inl rfl
theorem recoveryPoint (part : Nat) (dest : DWord) : Statement (.recoveryPoint part dest) := .inl rfl
theorem rollback (part stream : Nat) : Statement (.rollback part stream) := .inl rfl
theorem attestationRequest (part : Nat) (nonce : BitVec 256) : Statement (.attestationRequest part nonce) := .inl rfl
theorem measurementExtend (part reg : Nat) (digest : BitVec 256) : Statement (.measurementExtend part reg digest) := .inl rfl
theorem coldReset : Statement .coldReset := .inl rfl
theorem thermalTrip (celsius : Nat) : Statement (.thermalTrip celsius) := .inl rfl
theorem powerAboveCap (watts : Nat) : Statement (.powerAboveCap watts) := .inl rfl
theorem deviceFatal (cause : Nat) : Statement (.deviceFatal cause) := .inl rfl
theorem stripStart (die part : Nat) : Statement (.stripStart die part) := .inl rfl
theorem tileReconstructionEnqueue (die part tile : Nat) : Statement (.tileReconstructionEnqueue die part tile) := .inl rfl
theorem stripDeadline (out : Nat) : Statement (.stripDeadline out) := .inl rfl
theorem frameScanoutStart (out : Nat) : Statement (.frameScanoutStart out) := .inl rfl
theorem scanoutLine (out : Nat) : Statement (.scanoutLine out) := .inl rfl
theorem tcombCompletion (op : Nat) : Statement (.tcombCompletion op) := .inl rfl
theorem tdoneCompletion (op : Nat) : Statement (.tdoneCompletion op) := .inl rfl

end Sys2Proof.Laws.EncodingLength
end

