-- ==== Sys2Proof/Laws/Threads.lean ====
section
/-! SUPPORT. What instructions do that act on the groups of an issue group, on one thread after another, or on the program counter. -/
namespace Sys2Proof.Machine

/-! ## Folds over members and groups -/

/-- What updating the threads of a list has done. -/
structure Touched (s s' : State) (ms : List (Nat × Nat)) (h : Nat × Nat → Thread → Thread) : Prop where
  member : ∀ m ∈ ms, threadAt s' m = (threadAt s m).map (h m)
  other : ∀ n, n ∉ ms → threadAt s' n = threadAt s n
  group : ∀ gk g, groupOf s gk = some g → ∃ ts, groupOf s' gk = some { g with threads := ts }
  frame : s' = { s with groups := s'.groups }

theorem modThread_foldl {h : Nat × Nat → Thread → Thread} (hidx : ∀ m t, (h m t).idx = t.idx) {ms : List (Nat × Nat)} (hn : ms.Nodup)
    (s : State) : Touched s (ms.foldl (fun s m => modThread s m.1 m.2 (h m)) s) ms h := by
  induction ms generalizing s with
  | nil => exact ⟨by simp, by simp, fun gk g hg => ⟨g.threads, hg⟩, rfl⟩
  | cons m r ih =>
    obtain ⟨hmr, hr⟩ := List.nodup_cons.mp hn
    rw [List.foldl_cons]
    obtain ⟨im, io, ig, ifr⟩ := ih hr (modThread s m.1 m.2 (h m))
    have hself : threadAt (modThread s m.1 m.2 (h m)) m = (threadAt s m).map (h m) :=
      threadAt_modThread fun t ht => (hidx m t).trans ht
    have hoth : ∀ n, n ≠ m → threadAt (modThread s m.1 m.2 (h m)) n = threadAt s n := fun n hne =>
      threadAt_modThread_other (fun t ht => (hidx m t).trans ht) hne
    refine ⟨fun n hnm => ?_, fun n hnm => ?_, fun gk g hg => ?_, ?_⟩
    · rcases List.mem_cons.mp hnm with rfl | hnr
      · rw [io _ hmr, hself]
      · have hne : n ≠ m := fun e => hmr (e ▸ hnr)
        rw [im n hnr, hoth n hne]
    · have hne : n ≠ m := fun e => hnm (by simp [e])
      rw [io n fun e => hnm (by simp [e]), hoth n hne]
    · by_cases hgk : gk = m.1
      · subst hgk
        have h1 := groupOf_modThread s m.1 m.2 (h m)
        rw [hg] at h1
        obtain ⟨ts, h2⟩ := ig m.1 _ h1
        exact ⟨ts, h2⟩
      · exact ig gk g ((groupOf_modThread_other _ _ hgk).trans hg)
    · rw [ifr]
      rfl

/-- The groups of a member list, each once, in the order of their first member. -/
theorem headGroups_fold (ms : List (Nat × Nat)) (acc : List Nat) (ha : acc.Nodup) :
    (ms.foldl (fun acc m => if acc.contains m.1 then acc else acc ++ [m.1]) acc).Nodup ∧
    ∀ gk, gk ∈ ms.foldl (fun acc m => if acc.contains m.1 then acc else acc ++ [m.1]) acc ↔ gk ∈ acc ∨ ∃ m ∈ ms, m.1 = gk := by
  induction ms generalizing acc with
  | nil => simp [ha]
  | cons m r ih =>
    rw [List.foldl_cons]
    by_cases h : acc.contains m.1 = true
    · rw [if_pos h]
      obtain ⟨h1, h2⟩ := ih acc ha
      refine ⟨h1, fun gk => (h2 gk).trans ?_⟩
      have hm : m.1 ∈ acc := by simpa using h
      constructor
      · rintro (h | ⟨n, hn, rfl⟩)
        · exact .inl h
        · exact .inr ⟨n, by simp [hn], rfl⟩
      · rintro (h | ⟨n, hn, rfl⟩)
        · exact .inl h
        · rcases List.mem_cons.mp hn with rfl | hn
          · exact .inl hm
          · exact .inr ⟨n, hn, rfl⟩
    · rw [if_neg h]
      have hm : m.1 ∉ acc := by simpa using h
      obtain ⟨h1, h2⟩ := ih (acc ++ [m.1]) (by
        rw [List.nodup_append]
        exact ⟨ha, by simp, fun x hx y hy e => hm (by rw [← List.mem_singleton.mp hy, ← e]; exact hx)⟩)
      refine ⟨h1, fun gk => (h2 gk).trans ?_⟩
      simp only [List.mem_append, List.mem_cons, List.not_mem_nil, or_false]
      constructor
      · rintro ((h | rfl) | ⟨n, hn, rfl⟩)
        · exact .inl h
        · exact .inr ⟨m, .inl rfl, rfl⟩
        · exact .inr ⟨n, .inr hn, rfl⟩
      · rintro (h | ⟨n, rfl | hn, rfl⟩)
        · exact .inl (.inl h)
        · exact .inl (.inr rfl)
        · exact .inr ⟨n, hn, rfl⟩

theorem headGroups_nodup (s : State) : (headGroups s).Nodup := (headGroups_fold (headMembers s) [] (by simp)).1

theorem mem_headGroups {s : State} {i : Issue} {rest : List Issue} (hi : s.issues = i :: rest) (gk : Nat) :
    gk ∈ headGroups s ↔ takesPart i gk = true := by
  rw [headGroups, headMembers_cons hi, (headGroups_fold i.members [] (by simp)).2]
  simp [takesPart]

/-- Updating each group of a list once. -/
theorem modGroup_foldl {u : Nat → Group → Group} (hu : ∀ k g, (u k g).gk = g.gk) {l : List Nat} (hn : l.Nodup) (s : State) :
    (∀ gk, groupOf (l.foldl (fun s k => modGroup s k (u k)) s) gk = if gk ∈ l then (groupOf s gk).map (u gk) else groupOf s gk) ∧
    l.foldl (fun s k => modGroup s k (u k)) s = { s with groups := (l.foldl (fun s k => modGroup s k (u k)) s).groups } := by
  induction l generalizing s with
  | nil => simp
  | cons k r ih =>
    obtain ⟨hkr, hr⟩ := List.nodup_cons.mp hn
    rw [List.foldl_cons]
    obtain ⟨h1, h2⟩ := ih hr (modGroup s k (u k))
    refine ⟨fun gk => ?_, ?_⟩
    · rw [h1]
      by_cases hk : gk = k
      · subst hk
        rw [if_neg hkr, if_pos (by simp), groupOf_modGroup (hu gk)]
      · rw [groupOf_modGroup_other (hu k) hk]
        by_cases hgr : gk ∈ r
        · rw [if_pos hgr, if_pos (by simp [hgr])]
        · rw [if_neg hgr, if_neg (by simp [hk, hgr])]
    · rw [h2]
      rfl

/-! ## Instructions on groups -/

theorem shiftZero_eq {s : State} {i : Issue} {rest : List Issue} (hi : s.issues = i :: rest) :
    shiftZero s = i.members.foldl (fun s m => modThread s m.1 m.2 fun t => shiftLatch t 0) s := by
  rw [shiftZero, headMembers_cons hi]

theorem isMember_thread {s : State} {m : Nat × Nat} {g : Group} {t : Thread} (h : memberOf s m = some (g, t)) :
    threadAt s m = some t := (memberOf_eq h).1

/-- Each group of the issue group is changed in something but its name and its threads, then every member shifts a zero. -/
theorem groups_run {s : State} {i : Issue} {rest : List Issue} (hd : Head s i rest) {u : Nat → Group → Group}
    (hu : ∀ k g, (u k g).gk = g.gk) (ht : ∀ k g, (u k g).threads = g.threads) (w : Nat) :
    GroupsRun s (finishInstr (shiftZero ((headGroups s).foldl (fun s k => modGroup s k (u k)) s)) w []) i rest w
      (fun _ t => shiftLatch t 0) fun g => u g.gk g := by
  obtain ⟨hi, hn, he⟩ := hd
  obtain ⟨hg, hf⟩ := modGroup_foldl hu (headGroups_nodup s) s
  generalize (headGroups s).foldl (fun s k => modGroup s k (u k)) s = s1 at *
  have hi1 : s1.issues = i :: rest := by rw [hf]; exact hi
  have h1 : ∀ n, threadAt s1 n = threadAt s n := by
    intro n
    rw [threadAt, threadAt, hg]
    split
    · cases groupOf s n.1 with
      | none => rfl
      | some g => simp [threadOf, ht]
    · rfl
  have hsz := modThread_foldl (h := fun _ t => shiftLatch t 0) (fun _ _ => rfl) hn s1
  rw [← shiftZero_eq hi1] at hsz
  obtain ⟨tm, tw, tg, tf⟩ := hsz
  have hi2 : (shiftZero s1).issues = i :: rest := by rw [tf]; exact hi1
  obtain ⟨am, ao, ag, ai, af⟩ := advance_spec hi2 hn he w
  rw [finishInstr]
  simp only [List.map_nil, List.isEmpty_nil, if_true]
  refine ⟨fun m hm g t hmt => am m hm _ (by rw [tm m hm, h1, isMember_thread hmt]; rfl), fun n hnm => ?_, fun gk g hgk => ?_, ai, ?_⟩
  · rw [ao n hnm, tw n hnm, h1]
  · have hname := groupOf_gk hgk
    subst hname
    by_cases hp : takesPart i g.gk = true
    · have hg1 : groupOf s1 g.gk = some (u g.gk g) := by rw [hg, if_pos ((mem_headGroups hi _).mpr hp), hgk]; rfl
      obtain ⟨ts, h2⟩ := tg g.gk _ hg1
      obtain ⟨ts', h3⟩ := ag g.gk _ h2
      exact ⟨ts', by rw [h3, if_pos hp]⟩
    · have hg1 : groupOf s1 g.gk = some g := by rw [hg, if_neg fun h => hp ((mem_headGroups hi _).mp h), hgk]
      obtain ⟨ts, h2⟩ := tg g.gk _ hg1
      obtain ⟨ts', h3⟩ := ag g.gk _ h2
      exact ⟨ts', by rw [h3, if_neg hp]⟩
  · rw [af, tf, hf]

theorem runAffine_run {s : State} {i : Issue} {rest : List Issue} (hd : Head s i rest) (w : Nat) (d : BitVec 4) (f : Group → Affine) :
    GroupsRun s (runAffine s w d f) i rest w (fun _ t => shiftLatch t 0) fun g => setAffine g d.toNat (f g) :=
  groups_run hd (u := fun _ g => setAffine g d.toNat (f g)) (fun _ _ => rfl) (fun _ _ => rfl) w

/-! ## One thread -/

/-- The law of an effect of one thread alone in its issue group. -/
theorem past_of {s1 : State} {i : Issue} {rest : List Issue} {m : Nat × Nat} (hi : s1.issues = i :: rest) (hm : i.members = [m])
    (w : Nat) : Past s1 (finishInstr (modThread s1 m.1 m.2 fun t => shiftLatch t 0) w []) i rest m w := by
  have hi2 : (modThread s1 m.1 m.2 fun t => shiftLatch t 0).issues = i :: rest := hi
  obtain ⟨am, ao, ag, ai, af⟩ := advance_spec hi2 (by rw [hm]; simp) (by rw [hm]; simp) w
  rw [finishInstr]
  simp only [List.map_nil, List.isEmpty_nil, if_true]
  refine ⟨fun t ht => ?_, fun n hn => ?_, fun gk g hg => ?_, ai, ?_⟩
  · exact am m (by rw [hm]; simp) _ (by rw [threadAt_modThread (f := fun t => shiftLatch t 0) fun _ h => h, ht]; rfl)
  · rw [ao n (by rw [hm]; simpa using hn), threadAt_modThread_other (f := fun t => shiftLatch t 0) (fun _ h => h) hn]
  · by_cases hgk : gk = m.1
    · subst hgk
      have h1 := groupOf_modThread s1 m.1 m.2 fun t => shiftLatch t 0
      rw [hg] at h1
      obtain ⟨ts, h2⟩ := ag m.1 _ h1
      exact ⟨ts, h2⟩
    · obtain ⟨ts, h2⟩ := ag gk g ((groupOf_modThread_other _ _ hgk).trans hg)
      exact ⟨ts, h2⟩
  · rw [af]
    rfl

/-- A thread alone in its issue group, its guard true, its effect without a fault. -/
theorem runThreads_one {s s1 : State} {i : Issue} {rest : List Issue} {m : Nat × Nat} {g : Group} {t : Thread}
    (ha : Alone s i rest m g t) {gd : Guard} (hg : guardTrue t gd = true) {f : State → Group → Thread → State × Option FaultInfo}
    (hf : f s g t = (s1, none)) (w : Nat) :
    runThreads s w gd f = finishInstr (modThread s1 m.1 m.2 fun t => shiftLatch t 0) w [] := by
  obtain ⟨hi, hm, hmt⟩ := ha
  simp [runThreads, headMembers_cons hi, hm, hmt, hg, hf]

/-- A thread alone in its issue group, its guard false: it goes past the words with no effect (R69). -/
theorem runThreads_off {s : State} {i : Issue} {rest : List Issue} {m : Nat × Nat} {g : Group} {t : Thread}
    (ha : Alone s i rest m g t) {gd : Guard} (hg : guardTrue t gd = false) (f : State → Group → Thread → State × Option FaultInfo)
    (w : Nat) : runThreads s w gd f = finishInstr (modThread s m.1 m.2 fun t => shiftLatch t 0) w [] := by
  obtain ⟨hi, hm, hmt⟩ := ha
  simp [runThreads, headMembers_cons hi, hm, hmt, hg]

/-- A thread alone in its issue group, its guard true, whose effect faults. -/
theorem runThreads_fault {s s1 : State} {i : Issue} {rest : List Issue} {m : Nat × Nat} {g : Group} {t : Thread}
    (ha : Alone s i rest m g t) {gd : Guard} (hg : guardTrue t gd = true) {f : State → Group → Thread → State × Option FaultInfo}
    {e : FaultInfo} (hf : f s g t = (s1, some e)) (w : Nat) :
    runThreads s w gd f = finishInstr s1 w [{ gk := m.1, tid := m.2, f := e }] := by
  obtain ⟨hi, hm, hmt⟩ := ha
  simp [runThreads, headMembers_cons hi, hm, hmt, hg, hf]

/-! ## Control transfers -/

theorem viewOf_threads {s s1 : State} {i i1 : Issue} {rest rest1 : List Issue} (hi : s.issues = i :: rest)
    (hi1 : s1.issues = i1 :: rest1) (hst : i1.stale = i.stale) (g : Group) (ts : List Thread) :
    viewOf s1 { g with threads := ts } = { viewOf s g with threads := ts } := by
  simp only [viewOf, staleOf, hi, hi1, hst]
  split <;> rfl

/-- The address a thread is sent to, if its guard is true and the instruction sends it anywhere. -/
def sentTo (gd : Guard) (tgt : Group → Thread → Option DWord) (s : State) (m : Nat × Nat) : Option DWord :=
  match memberOf s m with
  | some (g, t) => if guardTrue t gd then tgt g t else none
  | none => none

/-- A thread sent on, its latch shifted. -/
def sent (pc : Option DWord) (t : Thread) : Thread :=
  shiftLatch (match pc with | some pc => { t with pc := pc, hdr := pc } | none => t) 0

/-- What sending the members of a list has done to a state. -/
structure Sent (s0 s s' : State) (i : Issue) (rest : List Issue) (ms j j' : List (Nat × Nat)) (gd : Guard)
    (tgt : Group → Thread → Option DWord) : Prop where
  member : ∀ m ∈ ms, threadAt s' m = (threadAt s0 m).map (sent (sentTo gd tgt s0 m))
  other : ∀ n, n ∉ ms → threadAt s' n = threadAt s n
  group : ∀ gk g, groupOf s gk = some g → ∃ ts, groupOf s' gk = some { g with threads := ts }
  jumped : ∀ m, m ∈ j' ↔ m ∈ j ∨ m ∈ ms ∧ (sentTo gd tgt s0 m).isSome
  frame : s' = { s with groups := s'.groups, issues := { i with jumped := j' } :: rest }

/-- One thread sent on in a state that the earlier ones have changed. -/
def sendOne (gd : Guard) (f : State → Group → Thread → State × Option FaultInfo) (acc : State × List Faulting) (m : Nat × Nat) :
    State × List Faulting :=
  match memberOf acc.1 m with
  | none => acc
  | some (g, t) =>
    if guardTrue t gd then
      match f acc.1 g t with
      | (s, some e) => (s, acc.2 ++ [{ gk := m.1, tid := m.2, f := e }])
      | (s, none) => (modThread s m.1 m.2 fun t => shiftLatch t 0, acc.2)
    else (modThread acc.1 m.1 m.2 fun t => shiftLatch t 0, acc.2)

theorem runThreads_eq (s : State) (w : Nat) (gd : Guard) (f : State → Group → Thread → State × Option FaultInfo) :
    runThreads s w gd f = finishInstr ((headMembers s).foldl (sendOne gd f) (s, [])).1 w ((headMembers s).foldl (sendOne gd f) (s, [])).2 :=
  rfl

theorem send_foldl {s0 : State} {i : Issue} {rest : List Issue} (hi0 : s0.issues = i :: rest) {gd : Guard}
    {f : State → Group → Thread → State × Option FaultInfo} {tgt : Group → Thread → Option DWord} {ms : List (Nat × Nat)}
    (hn : ms.Nodup)
    (hf : ∀ m ∈ ms, ∃ g t, memberOf s0 m = some (g, t) ∧ (guardTrue t gd = true → ∀ s1 ts, f s1 { g with threads := ts } t =
      (match tgt g t with | some pc => jump s1 m.1 m.2 pc | none => s1, none)))
    (s : State) (j : List (Nat × Nat)) (hi : s.issues = { i with jumped := j } :: rest)
    (ht : ∀ m ∈ ms, threadAt s m = threadAt s0 m)
    (hg : ∀ gk g, groupOf s0 gk = some g → ∃ ts, groupOf s gk = some { g with threads := ts }) :
    ∃ s' j', ms.foldl (sendOne gd f) (s, []) = (s', []) ∧ Sent s0 s s' i rest ms j j' gd tgt := by
  induction ms generalizing s j with
  | nil => exact ⟨s, j, rfl, by simp, by simp, fun gk g h => ⟨g.threads, h⟩, by simp, by rw [← hi]⟩
  | cons m r ih =>
    obtain ⟨hmr, hr⟩ := List.nodup_cons.mp hn
    obtain ⟨g, t, hmt, hft⟩ := hf m (by simp)
    obtain ⟨hth, g0, hg0, rfl⟩ := memberOf_eq hmt
    obtain ⟨ts, hgs⟩ := hg m.1 g0 hg0
    have hts : threadOf { g0 with threads := ts } m.2 = some t := by
      have h1 := ht m (by simp)
      rw [hth, threadAt, hgs] at h1
      exact h1
    have hmem : memberOf s m = some ({ viewOf s0 g0 with threads := ts }, t) := by
      unfold memberOf
      rw [hgs]
      simp only [hts, Option.map_some]
      rw [viewOf_threads hi0 hi rfl]
    -- what the thread becomes
    have hone : ∃ s1 j1, sendOne gd f (s, []) m = (s1, []) ∧ s1.issues = { i with jumped := j1 } :: rest ∧
        (∀ n, n ∈ j1 ↔ n ∈ j ∨ n = m ∧ (sentTo gd tgt s0 m).isSome) ∧
        s1 = { modThread s m.1 m.2 (sent (sentTo gd tgt s0 m)) with issues := { i with jumped := j1 } :: rest } := by
      have hst : sentTo gd tgt s0 m = if guardTrue t gd then tgt (viewOf s0 g0) t else none := by simp [sentTo, hmt]
      unfold sendOne
      simp only [hmem]
      by_cases hgd : guardTrue t gd = true
      · rw [if_pos hgd, hft hgd, hst, if_pos hgd]
        cases htg : tgt (viewOf s0 g0) t with
        | none => exact ⟨modThread s m.1 m.2 fun t => shiftLatch t 0, j, rfl, hi, by simp, by rw [← hi]; rfl⟩
        | some pc =>
          refine ⟨modThread (jump s m.1 m.2 pc) m.1 m.2 fun t => shiftLatch t 0, j ++ [m], rfl, ?_, by simp, ?_⟩
          · simp [jump, hi]
          · have hjump : jump s m.1 m.2 pc = { modThread s m.1 m.2 (fun t => { t with pc := pc, hdr := pc }) with
                issues := { i with jumped := j ++ [m] } :: rest } := by simp [jump, hi]
            rw [hjump]
            have hcomp : ∀ (s : State) (a b : Thread → Thread), (∀ x, (a x).idx = x.idx) →
                (modThread (modThread s m.1 m.2 a) m.1 m.2 b).groups = (modThread s m.1 m.2 fun t => b (a t)).groups := by
              intro s a b ha
              simp only [modThread_groups]
              have h2 : ∀ (l : List Thread), updFirst (fun x => x.idx == m.2) b (updFirst (fun x => x.idx == m.2) a l) =
                  updFirst (fun x => x.idx == m.2) (fun t => b (a t)) l := by
                intro l
                induction l with
                | nil => rfl
                | cons x l ihl =>
                  by_cases hx : x.idx = m.2
                  · simp [updFirst, ha, hx]
                  · simp [updFirst, hx, ihl]
              generalize s.groups = l
              induction l with
              | nil => rfl
              | cons x l ihl =>
                by_cases hx : x.gk = m.1
                · simp [updFirst, hx, updThread, h2]
                · simp [updFirst, hx, ihl]
            have h3 := hcomp s (fun t => { t with pc := pc, hdr := pc }) (fun t => shiftLatch t 0) fun _ => rfl
            have h4 : sent (some pc) = fun t : Thread => shiftLatch { t with pc := pc, hdr := pc } 0 := rfl
            rw [h4]
            exact congrArg (fun gs => { s with groups := gs, issues := { i with jumped := j ++ [m] } :: rest }) h3
      · rw [if_neg hgd, hst, if_neg hgd]
        exact ⟨modThread s m.1 m.2 fun t => shiftLatch t 0, j, rfl, hi, by simp, by rw [← hi]; rfl⟩
    obtain ⟨s1, j1, he1, hi1, hj1, hs1⟩ := hone
    have hidx : ∀ t : Thread, (sent (sentTo gd tgt s0 m) t).idx = t.idx := fun t => by unfold sent; split <;> rfl
    have hself : threadAt s1 m = (threadAt s m).map (sent (sentTo gd tgt s0 m)) := by
      have h := threadAt_modThread (s := s) (m := m) (f := sent (sentTo gd tgt s0 m)) fun t h => (hidx t).trans h
      rw [hs1]
      exact h
    have hoth : ∀ n, n ≠ m → threadAt s1 n = threadAt s n := fun n hne => by
      have h := threadAt_modThread_other (s := s) (f := sent (sentTo gd tgt s0 m)) (fun t h => (hidx t).trans h) hne
      rw [hs1]
      exact h
    have hgrp : ∀ gk g, groupOf s gk = some g → ∃ ts, groupOf s1 gk = some { g with threads := ts } := by
      intro gk x hx
      rw [hs1]
      by_cases hgk : gk = m.1
      · subst hgk
        have h1 := groupOf_modThread s m.1 m.2 (sent (sentTo gd tgt s0 m))
        rw [hx] at h1
        exact ⟨_, h1⟩
      · exact ⟨x.threads, (groupOf_modThread_other _ _ hgk).trans hx⟩
    obtain ⟨s', j', hfold, im, io, ig, ij, ifr⟩ := ih hr (fun n hnr => hf n (by simp [hnr])) s1 j1 hi1
      (fun n hnr => by rw [hoth n fun e => hmr (e ▸ hnr)]; exact ht n (by simp [hnr]))
      (fun gk x hx => by
        obtain ⟨ts1, h1⟩ := hg gk x hx
        obtain ⟨ts2, h2⟩ := hgrp gk _ h1
        exact ⟨ts2, h2⟩)
    refine ⟨s', j', by rw [List.foldl_cons, he1]; exact hfold, fun n hnm => ?_, fun n hnm => ?_, fun gk x hx => ?_, fun n => ?_, ?_⟩
    · rcases List.mem_cons.mp hnm with rfl | hnr
      · rw [io _ hmr, hself, ht _ (by simp)]
      · exact im n hnr
    · rw [io n fun e => hnm (by simp [e]), hoth n fun e => hnm (by simp [e])]
    · obtain ⟨ts1, h1⟩ := hgrp gk x hx
      obtain ⟨ts2, h2⟩ := ig gk _ h1
      exact ⟨ts2, h2⟩
    · rw [ij, hj1, List.mem_cons]
      constructor
      · rintro ((h | ⟨rfl, h⟩) | ⟨h1, h2⟩)
        · exact .inl h
        · exact .inr ⟨.inl rfl, h⟩
        · exact .inr ⟨.inr h1, h2⟩
      · rintro (h | ⟨rfl | h1, h2⟩)
        · exact .inl (.inl h)
        · exact .inl (.inr ⟨rfl, h2⟩)
        · exact .inr ⟨h1, h2⟩
    · rw [ifr, hs1]
      rfl

/-- The law of control transfers: every member leaves the clause, for its target where the instruction sends it, else for the next
clause. -/
theorem transfers_run {s : State} {i : Issue} {rest : List Issue} (hl : LastWord s i rest) {gd : Guard}
    {f : State → Group → Thread → State × Option FaultInfo} {tgt : Group → Thread → Option DWord}
    (hf : ∀ m ∈ i.members, ∀ g t, memberOf s m = some (g, t) → guardTrue t gd = true → ∀ s1 ts, f s1 { g with threads := ts } t =
      (match tgt g t with | some pc => jump s1 m.1 m.2 pc | none => s1, none)) :
    Transfers s (runThreads s 1 gd f) i rest fun g t => if guardTrue t gd then (tgt g t).getD (nextClause i) else nextClause i := by
  obtain ⟨⟨hi, hn, he⟩, hlast, hj, hm⟩ := hl
  obtain ⟨s1, j1, hfold, sm, so, sg, sj, sf⟩ := send_foldl hi hn
    (fun m hmm => by
      obtain ⟨g, t, h, _⟩ := hm m hmm
      exact ⟨g, t, h, hf m hmm g t h⟩) s [] (by rw [hi, ← hj]) (fun _ _ => rfl) (fun gk g h => ⟨g.threads, h⟩)
  rw [runThreads_eq, headMembers_cons hi, hfold]
  have hi1 : s1.issues = { i with jumped := j1 } :: rest := by rw [sf]
  obtain ⟨am, ao, ag, ai, af⟩ := advance_spec hi1 hn he 1
  have hnot : ¬ i.off + 1 < i.words.length := by omega
  rw [finishInstr]
  simp only [List.map_nil, List.isEmpty_nil, if_true]
  refine ⟨fun m hmm g t hmt => ?_, fun n hnm => (ao n hnm).trans (so n hnm), fun gk g hg => ?_, ?_, ?_⟩
  · obtain ⟨g', t', hmt', hiss, harr⟩ := hm m hmm
    rw [hmt] at hmt'
    obtain ⟨rfl, rfl⟩ := Prod.mk.inj (Option.some.inj hmt')
    obtain ⟨t2, h2, h3⟩ := am m hmm _ (by rw [sm m hmm, isMember_thread hmt]; rfl)
    rw [afterWords, if_neg hnot] at h3
    obtain ⟨a, rfl⟩ := h3
    refine ⟨a, h2.trans ?_⟩
    have hst : sentTo gd tgt s m = if guardTrue t gd then tgt g t else none := by simp [sentTo, hmt]
    have hjm : j1.contains m = (sentTo gd tgt s m).isSome := by
      have h := sj m
      simp only [List.not_mem_nil, false_or] at h
      cases hs : (sentTo gd tgt s m).isSome with
      | true => simpa using h.mpr ⟨hmm, hs⟩
      | false =>
        have : m ∉ j1 := fun hmj => by simpa [hs] using (h.mp hmj).2
        simpa using this
    have hmem : m ∈ j1 ↔ (sentTo gd tgt s m).isSome := by rw [← hjm]; simp
    have hleft : ∀ r : Thread, r.status = .issuing → r.bars = t.bars → leftClause { i with jumped := j1 } m a r = _ :=
      fun r h1 h2 => leftClause_none h1 (by rw [NoBars, h2]; exact harr)
    by_cases hgd : guardTrue t gd = true
    · rw [if_pos hgd] at hst
      cases htg : tgt g t with
      | none =>
        rw [htg] at hst
        have hmj : m ∉ j1 := fun h => by simp [hst] at hmem; exact hmem h
        simp [hleft, sent, shiftLatch, goesTo, nextClause, hst, hgd, hiss, hmj]
      | some pc =>
        rw [htg] at hst
        have hmj : m ∈ j1 := hmem.mpr (by simp [hst])
        simp [hleft, sent, shiftLatch, goesTo, hst, hgd, hiss, hmj]
    · rw [if_neg hgd] at hst
      have hmj : m ∉ j1 := fun h => by simp [hst] at hmem; exact hmem h
      simp [hleft, sent, shiftLatch, goesTo, nextClause, hst, hgd, hiss, hmj]
  · obtain ⟨ts, h1⟩ := sg gk g hg
    obtain ⟨ts', h2⟩ := ag gk _ h1
    exact ⟨ts', h2⟩
  · rw [ai, issuesAfter, if_neg hnot]
  · rw [af, sf]

end Sys2Proof.Machine
end

