-- ==== Sys2Proof/Tests/Slice0.lean ====
section
/-! SUPPORT. Tests of the model: ill-formed terms that WellFormed refuses, words written out from the encoding tables of
spec/03_instruction_words.md, single steps with results worked out from the rules, and a witness for the hypotheses of every
obligation. -/
namespace Sys2Proof.Tests
set_option Elab.async false
open Sys2Proof.Machine Sys2Proof.Claims

/-! ## Ill-formed terms -/

def yes : Guard := { neg := false, p := 7 }
def r3 (nw : Bool) (d : BitVec 7) (a b : Src) : RBin := { nw := nw, d := d, a := a, b := b }
def memOp (d : BitVec 7) (size wait : BitVec 3) : MemOp :=
  { d := d, ab := 0, am := 0, off := .zero, size := size, hint := 0, seg := 0, g := yes, wait := wait, imm := 0 }
def engOp (reply : Bool) (d : BitVec 7) : EngOp := { reply := reply, d := d, a := .v 2, b := .v 4, g := yes, wait := 0, imm := 0 }
def matOp (md ma : BitVec 5) (imm : BitVec 17) : MatOp :=
  { md := md, ma := ma, mb := 0, z := 0, flags := 0, aq := 0, qf := 0, wait := 0, imm := imm }
def taskOp (d : BitVec 7) (ao : BitVec 4) (b : Src) (tx : BitVec 8) (imm : BitVec 17) : TaskOp :=
  { d := d, ao := ao, as := 0, b := b, tx := tx, g := yes, wait := 7, imm := imm }
def cvtOp (d : BitVec 7) (a c : Src) (rm : BitVec 3) (ff tf : BitVec 5) : CvtOp :=
  { nw := false, d := d, a := a, c := c, g := yes, sat := false, rm := rm, fromF := ff, toF := tf }
def fmaOp (rx : Bool) (rm : BitVec 3) : FmaOp :=
  { nw := false, d := 0, a := .v 0, b := .v 2, c := .v 4, g := yes, rx := rx, rm := rm }

/-- Every term of the list is refused. -/
def refused (l : List Instr) : Bool := l.all fun i => !i.wf

/-- nw = 1 with a register number (R66), odd pairs (R73). -/
theorem test_wf_destinations : refused [.iadd (r3 true 4 (.v 1) (.v 2)), .iadd64 (r3 false 3 (.v 2) (.v 4)),
    .iadd64 (r3 false 2 (.v 3) (.v 4)), .dadd (r3 false 2 (.v 2) (.v 5)), .mov64 { nw := false, d := 1, a := .v 2 },
    .popc { nw := true, d := 1, a := .v 0 }, .pget { nw := true, d := 1, a := { neg := false, n := 0 } },
    .xbar { nw := true, d := 9, a := .v 0, slot := 0 }, .jmpr { g := yes, a := .v 1 }, .clkr { nw := false, d := 5 }] = true := by decide

/-- Conditions beyond the last (R138). -/
theorem test_wf_conditions : refused [.icmp { cond := 10, pd := 0, a := .v 0, b := .v 1 },
    .icmp64 { cond := 0, pd := 0, a := .v 1, b := .v 2 }, .fcmp { cond := 12, pd := 0, a := .v 0, b := .v 1 },
    .dcmp { cond := 0, pd := 0, a := .v 0, b := .v 1 }] = true := by decide

/-- Rounding codes (R143), field widths (R144), formats and their registers (R145). -/
theorem test_wf_extended : refused [.ffus (fmaOp false 1), .ffus (fmaOp true 4), .dfus { fmaOp true 0 with c := .v 5 },
    .bfx { nw := false, d := 0, a := .v 0, c := .v 1, g := yes, signed := false, width := 0 },
    .bfi { nw := false, d := 0, a := .v 0, b := .v 1, c := .v 2, g := yes, width := 33 },
    .cvt (cvtOp 0 (.v 0) (.v 0) 6 10 12), .cvt (cvtOp 0 (.v 0) (.v 0) 0 16 10), .cvt (cvtOp 0 (.v 0) (.v 0) 0 10 16),
    .cvt (cvtOp 1 (.v 0) (.v 0) 0 10 11), .cvt (cvtOp 0 (.v 1) (.v 0) 0 11 10), .cvt (cvtOp 0 (.v 0) (.v 9) 0 10 12),
    .movi { nw := false, d := 0, a := .v 1, imm := 0 }, .rnd { nw := false, d := 0, a := .v 1, b := .v 0, c := .v 0, g := yes }]
    = true := by decide

/-- Sizes, spans and wait fields of memory instructions (R258, R259, R266, R70), segment 3 and `red` (Table 11.3). -/
theorem test_wf_memory : refused [.ld (memOp 0 7 0), .ld (memOp 1 3 0), .st (memOp 126 4 0), .ld (memOp 0 2 6),
    .ld { memOp 0 2 0 with am := 1 }, .pref (memOp 1 2 7), .pref (memOp 0 2 0), .atom { memOp 0 2 0 with am := 13 },
    .atom (memOp 0 1 0), .atom { memOp 0 2 0 with hint := 1 }, .atom { memOp 0 2 0 with seg := 3 },
    .atom { memOp 1 2 0 with am := 9 }, .red { memOp 0 2 0 with am := 8 }, .red { memOp 0 2 0 with am := 9 },
    .swinit (memOp 0 4 0), .swadd { memOp 0 2 0 with seg := 1 }] = true := by decide

/-- A register number without a reply, an odd source pair (R81). -/
theorem test_wf_engine : refused [.engCopy (engOp false 8), .engFill { engOp true 8 with a := .v 3 },
    .engAllred { engOp true 8 with b := .v 3 }, .engBcast { engOp true 8 with wait := 6 }] = true := by decide

/-- Fields that a matrix instruction does not use, and values out of range (Table 8.1, R188). -/
theorem test_wf_matrix : refused [.mclaim (matOp 0 0 0), .mclaim (matOp 0 0 257), .mclaim { matOp 0 0 1 with flags := 8 },
    .mrel (matOp 0 1 0), .mld { matOp 0 0 0 with flags := 32 }, .mld { matOp 0 0 0 with qf := 1 }, .mst (matOp 1 0 0),
    .mhdrFmt (matOp 0 0 18), .mhdrFmt (matOp 0 0 384), .mhdrKey (matOp 0 0 0), .mhdrSofs { matOp 0 0 256 with qf := 3 },
    .mhdrSt (matOp 0 0 0), .mmul { matOp 0 0 0 with z := 1 }, .mscale { matOp 0 0 0 with mb := 1 }, .mtrn (matOp 0 0 1),
    .mrank (matOp 0 0 32), .mma { matOp 0 0 0 with qf := 2 }, .zld (matOp 1 0 0), .zcvt { matOp 0 0 0 with qf := 8 },
    .zzero (matOp 0 0 1), .mrecomp { matOp 0 0 0 with wait := 6 }] = true := by decide

/-- Task, control and geometry instructions (Tables 13.1 and 14.2, R103, R165 to R169). -/
theorem test_wf_task : refused [.spawn (taskOp 4 0 (.v 2) 0 0), .spawn (taskOp 0 0 (.v 3) 0 0), .spawn (taskOp 0 0 (.v 2) 4 0),
    .await { taskOp 0 0 (.v 0) 0 0 with g := { neg := false, p := 0 } }, .phase (taskOp 0 0 (.v 0) 65 0), .fnew (taskOp 1 0 (.v 0) 0 0),
    .fput (taskOp 0 0 (.v 1) 0 0), .fget (taskOp 1 0 (.v 0) 0 0), .lacq (taskOp 0 0 (.v 0) 8 0), .lrel (taskOp 0 0 (.v 0) 1 0),
    .qput (taskOp 2 0 (.v 0) 0 0), .qget (taskOp 0 0 (.v 0) 64 0), .dcdec (taskOp 0 0 (.v 1) 0 0), .tktake (taskOp 0 0 (.v 1) 0 0),
    .tkwait (taskOp 1 0 (.v 0) 0 0), .tself (taskOp 0 0 (.v 0) 6 0), .ctlr (taskOp 0 0 (.v 0) 0 0x019), .ctlw (taskOp 0 0 (.v 0) 0 0x107),
    .segw (taskOp 0 0 (.v 0) 8 0), .xbld (taskOp 1 0 (.v 0) 0 0), .perfr (taskOp 1 0 (.v 0) 0 0), .perfr (taskOp 0 0 (.v 0) 0 256),
    .sret (taskOp 0 0 (.v 0) 0 1), .temit (taskOp 0 0 (.v 2) 0 2), .temit (taskOp 0 0 (.v 2) 0 16388), .mvtx (taskOp 2 0 (.v 0) 0 0),
    .mvtx (taskOp 0 0 (.v 0) 9 0), .mprim (taskOp 0 1 (.v 0) 0 0), .mend { taskOp 0 0 (.v 1) 0 0 with wait := 0 },
    .sinfo (taskOp 0 0 (.v 0) 12 0), .tcomb { taskOp 1 0 (.v 0) 0 0 with wait := 0 }, .tdone (taskOp 0 0 (.v 0) 8 0),
    .tdone { taskOp 0 0 (.v 0) 0 0 with wait := 6 }] = true := by decide

/-- What they refuse is near: each of these is well-formed. -/
theorem test_wf_accepts : [Instr.iadd (r3 true 0 (.v 1) (.v 2)), .iadd64 (r3 false 126 (.v 2) (.v 4)), .ffus (fmaOp true 3),
    .cvt (cvtOp 0 (.v 0) (.v 9) 5 10 12), .ld (memOp 112 6 5), .atom { memOp 0 2 0 with am := 9 }, .engCopy (engOp true 8),
    .mclaim (matOp 0 0 256), .mrank (matOp 0 0 31), .spawn (taskOp 4 0 (.v 2) 3 0), .ctlr (taskOp 0 0 (.v 0) 0 0x50F),
    .temit (taskOp 0 0 (.v 2) 255 16384)].all Instr.wf = true := by decide

/-! ## Words written out from Tables 3.4 to 3.8, field by field -/

/-- The words decode to the instruction, all of them. -/
def reads (ws : List Word) (i : Instr) : Prop := decodeWords ws = .ok (i, ws.length)

/-- op 0x01, d 4, a v1, b 0x96. -/
theorem test_decode_iadd : reads [0x01040196] (.iadd (r3 false 4 (.v 1) .zero)) := rfl
/-- op 0x24, pd 1, a [10:8] 2, b [3] 1 and [2:0] 3. -/
theorem test_decode_pand : reads [0x2401020B] (.pand { pd := 1, a := { neg := false, n := 2 }, b := { neg := true, n := 3 } }) := rfl
/-- op 0x28, d 5, a [11] 1 and [10:8] 6. -/
theorem test_decode_pget : reads [0x28050E00] (.pget { nw := false, d := 5, a := { neg := true, n := 6 } }) := rfl
/-- op 0x23, cond 11 [23:20], pd 7, a v6, b v8. -/
theorem test_decode_dcmp : reads [0x23B70608] (.dcmp { cond := 11, pd := 7, a := .v 6, b := .v 8 }) := rfl
/-- op 0x38, d 4, a v6, b v8. -/
theorem test_decode_dadd : reads [0x38040608] (.dadd (r3 false 4 (.v 6) (.v 8))) := rfl
/-- op 0x42, d 1, a v2, b 0x9D. -/
theorem test_decode_hmin2 : reads [0x4201029D] (.hmin2 (r3 false 1 (.v 2) .two)) := rfl
/-- op 0x4D, nw 1, a 0x95. -/
theorem test_decode_fsin : reads [0x4D809500] (.fsin { nw := true, d := 0, a := .l1 }) := rfl
/-- op 0x55, d 3, a 4, b 5. -/
theorem test_decode_amul : reads [0x55030405] (.amul { d := 3, a := 4, b := 5 }) := rfl
/-- op 0x54, d 1, a 2, b 0xB0 + 7. -/
theorem test_decode_ashl : reads [0x540102B7] (.ashl { d := 1, a := 2, n := 7 }) := rfl
/-- op 0x59, d 8, a 0x90 + 3, b [2:0] 5. -/
theorem test_decode_xbar : reads [0x59089305] (.xbar { nw := false, d := 8, a := .vx 3, slot := 5 }) := rfl
/-- op 0x60, gp 3, offset -2. -/
theorem test_decode_br : reads [0x603FFFFE] (.br { g := { neg := false, p := 3 }, off := 0xFFFFE }) := rfl
/-- op 0x66, gneg 1, gp 0, code 0x12345. -/
theorem test_decode_trap : reads [0x66812345] (.trap { g := { neg := true, p := 0 }, code := 0x12345 }) := rfl
/-- op 0x6A, k 3, a v4. -/
theorem test_decode_xput : reads [0x6A030400] (.xput { k := 3, a := .v 4 }) := rfl
/-- op 0x70, bN 2. -/
theorem test_decode_bar : reads [0x70020000] (.bar 2) := rfl
/-- op 0x71, d 6. -/
theorem test_decode_clkr : reads [0x71060000] (.clkr { nw := false, d := 6 }) := rfl
/-- op 0x85, d 1, a v2, b v3; c 0, gp 7, mod [3] 1 and [2:0] 5. -/
theorem test_decode_sel : reads [0x85010203, 0x0070000D]
    (.sel { nw := false, d := 1, a := .v 2, b := .v 3, g := yes, p := { neg := true, n := 5 } }) := rfl
/-- op 0x86, d 1, a v2; c v3, gneg 1, gp 1, mod [6] 1 and [5:0] 32. -/
theorem test_decode_bfx : reads [0x86010200, 0x03900060]
    (.bfx { nw := false, d := 1, a := .v 2, c := .v 3, g := { neg := true, p := 1 }, signed := true, width := 32 }) := rfl
/-- op 0x8B, d 2, b 0xFF; imm32 16. -/
theorem test_decode_amovi : reads [0x8B0200FF, 0x00000010] (.amovi { d := 2, stride := 0xFF, imm := 16 }) := rfl
/-- op 0xA3, d 2, ab 3, am 9, off v4; size 2, seg 1, gp 1, wait 2, imm17 -4. -/
theorem test_decode_atom : reads [0xA3023904, 0x4115FFFC] (.atom { d := 2, ab := 3, am := 9, off := .v 4, size := 2, hint := 0, seg := 1
                                                                   g := { neg := false, p := 1 }, wait := 2, imm := 0x1FFFC }) := rfl
/-- op 0xB0, reply 0, a v2, b v4; fn7 1, gp 7, wait 7. -/
theorem test_decode_copy2d : reads [0xB0000204, 0x027E0000]
    (.engCopy2d { reply := false, d := 0, a := .v 2, b := .v 4, g := yes, wait := 7, imm := 0 }) := rfl
/-- op 0xCF, ma 1, mb 2, z 3; qf 1. -/
theorem test_decode_mma : reads [0xCF0044C0, 0x01000000]
    (.mma { md := 0, ma := 1, mb := 2, z := 3, flags := 0, aq := 0, qf := 1, wait := 0, imm := 0 }) := rfl
/-- op 0xE5, d 8, ao 3; tx 5, gp 7, wait 7. -/
theorem test_decode_fget : reads [0xE5083000, 0x057E0000] (.fget (taskOp 8 3 (.v 0) 5 0)) := rfl
/-- op 0xF1, d 4, b v9; tx 3, gp 7, wait 7. -/
theorem test_decode_mvtx : reads [0xF1040009, 0x037E0000] (.mvtx (taskOp 4 0 (.v 9) 3 0)) := rfl
/-- op 0xF9, b v3; gp 7, wait 7, imm17 4. -/
theorem test_decode_ctlw : reads [0xF9000003, 0x007E0004] (.ctlw (taskOp 0 0 (.v 3) 0 4)) := rfl

/-- Words that Table 3.2 refuses: an unassigned opcode, fn7 and sub-operation, a reserved bit, a reserved source code, an odd pair, a
two-word instruction without its second word. -/
theorem test_decode_refusals : decodeWords [0x1B000000] = .error .unassigned ∧
    decodeWords [0xB0000204, 0x0A7E0000] = .error .unassignedFunction ∧ decodeWords [0x20690102] = .error .reservedField ∧
    decodeWords [0x0104019E] = .error .reservedSource ∧ decodeWords [0x38050608] = .error .illegalField ∧
    decodeWords [0x89050000] = .error .truncated := ⟨rfl, rfl, rfl, rfl, rfl, rfl⟩

/-- Table 3.11: the header word of the worked clause. -/
theorem test_decode_header : decodeHeader 0x60100000 = some { n := 6, cls := 0, wait := 2, rcv := false } := rfl

/-! ## Single steps -/

/-- One instruction as the first one after reset, on a thread of a group with some registers set. -/
def loaded (w : Nat) (f : Group → Group) : State :=
  let s := State.reset.withFetchWord 64 w
  { s with groups := s.groups.map f }

/-- A group whose threads have these registers. -/
def setRegs (vs : List (Nat × Word)) (g : Group) : Group :=
  { g with threads := g.threads.map fun t => vs.foldl (fun t e => setReg t e.1 e.2) t }

/-- The state after one step. -/
def stepped (s : State) : Option State :=
  match step s with
  | .next t => some t
  | _ => none

/-- Register k, predicate k, the latch and the mode register of the one thread after a step. -/
def regAfter (s : State) (k : Nat) : Option Word := (stepped s).bind fun t => (threadAt t (0, 0)).map fun t => regOf t k
def predAfter (s : State) (k : Nat) : Option Bool := (stepped s).bind fun t => (threadAt t (0, 0)).map fun t => t.preds.getLsbD k
def pcAfter (s : State) : Option DWord := (stepped s).bind fun t => (threadAt t (0, 0)).map fun t => t.pc
def fpmAfterStep (s : State) : Option Word := (stepped s).bind fun t => (groupOf t 0).map fun g => g.ctl.fpm

/-- R137: the sum wraps at 32 bits. -/
theorem test_iadd_wraps : regAfter (loaded 0x01040102 (setRegs [(1, 0xFFFFFFFF), (2, 2)])) 4 = some 1 := by decide +kernel
/-- Table 6.2: `isub` takes b from a. -/
theorem test_isub_order : regAfter (loaded 0x02040102 (setRegs [(1, 3), (2, 5)])) 4 = some 0xFFFFFFFE := by decide +kernel
/-- Table 6.2: the high half of -1 times 1 is -1. -/
theorem test_imulh_sign : regAfter (loaded 0x04040102 (setRegs [(1, 0xFFFFFFFF), (2, 1)])) 4 = some 0xFFFFFFFF := by decide +kernel
/-- Table 6.2: a logical shift by 32 gives zero, an arithmetic one by 40 the sign. -/
theorem test_shr_full_width : regAfter (loaded 0x0F040102 (setRegs [(1, 0x80000000), (2, 32)])) 4 = some 0 := by decide +kernel
theorem test_sar_full_width : regAfter (loaded 0x10040102 (setRegs [(1, 0x80000000), (2, 40)])) 4 = some 0xFFFFFFFF := by decide +kernel
/-- Table 6.2: no bit is set in zero. -/
theorem test_clz_zero : regAfter (loaded 0x13040100 id) 4 = some 32 := by decide +kernel
/-- Table 6.2: `iadds` stops at the largest value. -/
theorem test_iadds_saturates : regAfter (loaded 0x15040102 (setRegs [(1, 0x7FFFFFFF), (2, 1)])) 4 = some 0x7FFFFFFF := by decide +kernel
/-- Table 6.2: the carry goes from the low register of a pair to the high one. -/
theorem test_iadd64_carry : regAfter (loaded 0x17060204 (setRegs [(2, 0xFFFFFFFF), (4, 1)])) 7 = some 1 := by decide +kernel
/-- Chapter 6, three encodings: `icmp.ult p1, v2, 5`. -/
theorem test_icmp_unsigned : predAfter (loaded 0x206102B5 (setRegs [(2, 0xFFFFFFFF)])) 1 = some false := by decide +kernel
/-- R141: 1 + 2^-24 lies midway and takes the even neighbour, with nx. -/
theorem test_fadd_ties_to_even : regAfter (loaded 0x30040102 (setRegs [(1, 0x3F800000), (2, 0x33800000)])) 4 = some 0x3F800000 := by
  decide +kernel
theorem test_fadd_inexact : fpmAfterStep (loaded 0x30040102 (setRegs [(1, 0x3F800000), (2, 0x33800000)])) = some 0x1000 := by
  decide +kernel
/-- Table 5.9: the reciprocal of -0 is -inf, with dz. -/
theorem test_frcp_zero : regAfter (loaded 0x48040100 (setRegs [(1, 0x80000000)])) 4 = some 0xFF800000 := by decide +kernel
/-- Chapter 6, three encodings: `cvt` of 1.3 to E4M3 under rm = 5 with random bits 0 (R127) gives 0x3B. -/
theorem test_cvt_stochastic : regAfter (loaded 0x0970154C88040100 (setRegs [(1, 0x3FA66666)])) 4 = some 0x3B := by decide +kernel
/-- R144: `bfx.s` of 0xF3A0 at 8, width 8. -/
theorem test_bfx_signed : regAfter (loaded 0x0370004886010200 (setRegs [(2, 0xF3A0), (3, 8)])) 1 = some 0xFFFFFFF3 := by decide +kernel
/-- R66: nw keeps the register and latches the result; the thread leaves the clause with the latches cleared. -/
theorem test_shl_nw : regAfter (loaded 0x0E8001B2 (setRegs [(1, 3)])) 0 = some 0 := by decide +kernel
/-- R156: a taken branch goes to header + 4 times the offset, one not taken to the next clause. -/
theorem test_br_taken : pcAfter (loaded 0x60700010 id) = some 0x40 := by decide +kernel
theorem test_br_not_taken : pcAfter (loaded 0x60100010 id) = some 8 := by decide +kernel
/-- R150: the window's high end is the last register. -/
theorem test_xwin_clamps : ((stepped (loaded 0x68000102 (setRegs [(1, 4), (2, 200)]))).bind fun t =>
    (threadAt t (0, 0)).map fun t => (t.winLo, t.winHi)) = some (4, 127) := by decide +kernel
/-- Table 6.9, chapter 6: `aset` of one thread gives its value and stride 0. -/
theorem test_aset_alone : ((stepped (loaded 0x53020100 (setRegs [(1, 0xFFFFFFFF)]))).bind fun t =>
    (groupOf t 0).map fun g => affOf g 2) = some { base := 0xFFFFFFFFFFFFFFFF, stride := 0 } := by decide +kernel
/-- R159: the only thread of a group exits and the group with it. -/
theorem test_exit_ends_group : ((stepped (loaded 0x64700000 id)).bind fun t => (groupOf t 0).map fun g => g.run) = some .exited := by
  decide +kernel
/-- R412, R411: with hpcdef zero and `svpc` set a trap enters the supervisor routine; its return address is the trap's own word. -/
theorem test_trap_enters_supervisor :
    let s := loaded 0x66700123 id
    let s := modPart s 0 fun p => { p with route0 := 0, route1 := 0x400, svpc := 0x8000 }
    ((stepped s).bind fun t => (groupOf t 0).map fun g => (g.ctl.svpcr, g.ctl.svinfo)) = some (4, 0x24600115) := by decide +kernel
/-- R105: a one clears a flag of `fpm`, and rm above 3 keeps its value. -/
theorem test_ctlw_fpm : fpmAfterStep (loaded 0x007E0000F9000003 fun g =>
    setRegs [(3, 0x1007)] { g with ctl := { g.ctl with fpm := 0x1901 } }) = some 0x901 := by decide +kernel
/-- R164: `clkr` reads `devtime` into a pair; R103: a user's `ctlr` of it reads nothing. -/
theorem test_clkr : regAfter { loaded 0x71060000 id with devtime := 0x100000004D } 7 = some 0x10 := by decide +kernel
theorem test_ctlr_user : regAfter { loaded 0x007E0280F8040000 id with devtime := 77 } 4 = some 0 := by decide +kernel
/-- R270: a sync word is initialised when its operation completes: the counter rises at issue. -/
theorem test_swinit_charges : ((stepped (loaded 0x81720F00A5025096 fun g =>
    { g with segs := g.segs.set 1 { base := 0, limit := 0x1000 } })).bind fun t => (threadAt t (0, 0)).map fun t => t.w) =
    some [0, 1, 0, 0, 0, 0] := by decide +kernel
/-- R262: a load of scratchpad beyond the segment's limit raises segment-limit and issues nothing. -/
theorem test_ld_beyond_limit : ((stepped (loaded 0x41720000A0025096 id)).map fun t => t.ops) = some [] := by decide +kernel

/-! ## Values of the manual's tables -/

/-- FP32 bits converted to E4M3 (codes 10 and 12 of Table 5.1). -/
def convertCodes (mode b : Nat) : Option Nat := (fmtOf 10).bind fun ff => (fmtOf 12).map fun tf => (convert 0 ff tf mode 0 false b).1

/-- Table 5.3 and chapter 5: 3.5, -0.375 and 448 in E4M3, 1000 under RTZ and RNE. -/
theorem test_cvt_table_5_3 : ([0x40600000, 0xBEC00000, 0x43E00000, 0x3B000000].map fun b =>
    convertCodes 0 b) = [some 0x46, some 0xAC, some 0x7E, some 0x01] := by decide +kernel
theorem test_cvt_overflow : convertCodes 1 0x447A0000 = some 0x7E ∧ convertCodes 0 0x447A0000 = some 0x7F := by
  decide +kernel
/-- R230, chapter 9: the line w[i] = 100 + 4i compresses to 297 bits, one sector. -/
theorem test_compress_line : (compressLine ((List.range 128).flatMap fun i => leBytes (100 + 4 * i) 4)).length = 297 := by decide +kernel
/-- R399, R400, chapter 17: D(10, 3) and its row times. -/
theorem test_deadline : deadlineOf { fnum := 10, fbase := 1000000, fper := 8333333, lper := 853333, k := 8, lead := 1041666
                                     h := 2400, w := 3840 } 3 = 87333328 := by decide +kernel
/-- Chapter 18: `hinfo` of one misaligned load on lane 5 of subcore 1 at index 3. -/
theorem test_hinfo : faultInformation 5 3 1 5 0 = 0x00051305 := by decide

/-! ## Witnesses: states and operands that meet the hypotheses of the statements -/

/-- A value and the state beside it, from the value alone. -/
theorem pair_of {α β : Type} {x : α × β} {b : β} (h : x.2 = b) : x = (x.1, b) := Prod.ext rfl h

/-- One thread that runs a `nop` in an issue group of its own. -/
def demo : State := loaded 0 id
def demoIssue : Issue := { core := 0, members := [(0, 0)], hdr := 0, words := [0], rcv := true }
def demoGroup : Group := loadedGroup [0]
def demoThread : Thread := { idx := 0, regs := List.replicate 128 0, winHi := 127, pc := 0, hdr := 0, status := .issuing
                             clause := some (encodeHeader { n := 1, cls := 0, wait := 0, rcv := true }, [0]) }

theorem demo_head : Head demo demoIssue [] := ⟨rfl, by decide, by decide⟩

/-- The same thread with changes to its group. -/
def demoWith (f : Group → Group) : State := loaded 0 f
theorem demoWith_head (f : Group → Group) : Head (demoWith f) demoIssue [] := ⟨rfl, by decide, by decide⟩

/-- The thread alone in its issue group, after changes to its group. -/
theorem demo_alone : Alone demo demoIssue [] (0, 0) demoGroup demoThread := ⟨rfl, rfl, rfl⟩

/-- A guard that is false: p0 is zero at reset. -/
def no : Guard := { neg := false, p := 0 }

theorem witness_IntegerBinaryResults : Head demo demoIssue [] ∧
    ∀ m ∈ demoIssue.members, reads32 demo .int (.v 127) m ∧ reads32 demo .int (.int 31) m := ⟨demo_head, by decide +kernel⟩

theorem witness_IntegerUnaryAndPairResults : Head demo demoIssue [] ∧ (∀ m ∈ demoIssue.members, reads32 demo .int (.v 127) m) ∧
    ∀ m ∈ demoIssue.members, reads64 demo .int (.v 126) m ∧ reads64 demo .int (.a 15) m :=
  ⟨demo_head, by decide +kernel, by decide +kernel⟩

theorem witness_CompareResults : Head demo demoIssue [] ∧ (9 : BitVec 4).toNat ≤ 9 ∧ (11 : BitVec 4).toNat ≤ 11 ∧
    (∀ m ∈ demoIssue.members, reads32 demo .int (.v 0) m ∧ reads32 demo .int .ones m) ∧
    (∀ m ∈ demoIssue.members, reads64 demo .int (.v 0) m ∧ reads64 demo .int .zero m) ∧
    (∀ m ∈ demoIssue.members, reads32 demo .f32 (.v 0) m ∧ reads32 demo .f32 .half m) ∧
    ∀ m ∈ demoIssue.members, reads64 demo .f64 (.v 0) m ∧ reads64 demo .f64 .two m :=
  ⟨demo_head, by decide, by decide, by decide +kernel, by decide +kernel, by decide +kernel, by decide +kernel⟩

theorem witness_PredicateResults : Head demo demoIssue [] ∧ (∀ m ∈ demoIssue.members, isMember demo m) ∧
    ∀ m ∈ demoIssue.members, reads32 demo .int (.v 0) m := ⟨demo_head, by decide +kernel, by decide +kernel⟩

theorem witness_FloatArithmeticResults : Head demo demoIssue [] ∧
    (∀ m ∈ demoIssue.members, reads32 demo .f32 (.v 1) m ∧ reads32 demo .f32 .one m) ∧
    ∀ m ∈ demoIssue.members, reads64 demo .f64 (.v 126) m ∧ reads64 demo .f64 .one m :=
  ⟨demo_head, by decide +kernel, by decide +kernel⟩

theorem witness_PackedArithmeticResults : Head demo demoIssue [] ∧ ∀ e ∈ arithPacked,
    ∀ m ∈ demoIssue.members, reads32 demo e.2.1 (.v 1) m ∧ reads32 demo e.2.1 .half m := ⟨demo_head, by
  intro e he m hm
  simp only [arithPacked, List.mem_cons, List.not_mem_nil, or_false] at he
  simp only [demoIssue, List.mem_singleton] at hm
  subst hm
  rcases he with rfl | rfl | rfl | rfl <;> decide +kernel⟩

theorem witness_FloatExtremeAndSignResults : Head demo demoIssue [] ∧
    (∀ k ∈ [SrcKind.f32, .f16, .bf16], ∀ m ∈ demoIssue.members, reads32 demo k (.v 1) m ∧ reads32 demo k .two m) ∧
    ∀ m ∈ demoIssue.members, reads64 demo .f64 (.v 0) m ∧ reads64 demo .f64 .two m :=
  ⟨demo_head, by decide +kernel, by decide +kernel⟩

theorem witness_FunctionAndSpecialValueResults : Head demo demoIssue [] ∧ (∀ m ∈ demoIssue.members, reads32 demo .f32 (.v 127) m) ∧
    (200 : Nat) ≤ 200 ∧ (1 : Nat) ≠ 0 ∧ (1 : Nat) % 2 = 1 := ⟨demo_head, by decide +kernel, by decide, by decide, by decide⟩

/-- Sources that a thread reads where its guard is true, and where it is false. -/
theorem witness_FusedResults : Head demo demoIssue [] ∧ ∀ gd ∈ [yes, no],
    (∀ k ∈ [SrcKind.f32, .f16, .bf16], ∀ m ∈ demoIssue.members, guardedReads32 demo gd [(k, .v 0), (k, .one), (k, .v 127)] m) ∧
    ∀ m ∈ demoIssue.members, guardedReads64 demo gd [(.f64, .v 0), (.f64, .one), (.f64, .v 126)] m := by
  refine ⟨demo_head, ?_⟩
  unfold guardedReads32 guardedReads64
  decide +kernel

theorem witness_SelectAndBitFieldResults : Head demo demoIssue [] ∧ ∀ gd ∈ [yes, no],
    ∀ m ∈ demoIssue.members, guardedReads32 demo gd [(.int, .v 0), (.int, .tid), (.int, .v 127)] m := by
  refine ⟨demo_head, ?_⟩
  unfold guardedReads32
  decide +kernel

theorem witness_ConversionResults : Head demo demoIssue [] ∧ ∃ ff tf, fmtOf 0 = some ff ∧ fmtOf 15 = some tf ∧ ∀ gd ∈ [yes, no],
    (∀ m ∈ demoIssue.members, guardedReads32 demo gd [(.int, .v 9)] m ∧ guardedReads32 demo gd [] m) ∧
    (∀ m ∈ demoIssue.members, guardedReads32 demo gd [(srcKindOf 10, .v 1)] m) ∧
    ∀ m ∈ demoIssue.members, guardedReads64 demo gd [(srcKindOf 11, .v 2)] m := by
  refine ⟨demo_head, _, _, rfl, rfl, ?_⟩
  unfold guardedReads32 guardedReads64
  decide +kernel

theorem witness_ConstantRandomAndClockResults : Head demo demoIssue [] ∧ (∀ m ∈ demoIssue.members, isMember demo m) ∧
    (∀ m ∈ demoIssue.members, reads32 demo .int (.v 0) m) ∧
    ∀ m ∈ demoIssue.members, guardedReads64 demo yes [(.int, .v 126)] m ∧ guardedReads32 demo yes [(.int, .v 0), (.int, .gid)] m := by
  refine ⟨demo_head, ?_, ?_, ?_⟩
  · decide +kernel
  · decide +kernel
  · unfold guardedReads32 guardedReads64
    decide +kernel

/-- x[3] is zero at reset and the window starts at zero. -/
theorem witness_IndexRegistersAndPut : Head demo demoIssue [] ∧
    ∀ m ∈ demoIssue.members, reads32 demo .int (.v 0) m ∧ inWindow demo 3 m := ⟨demo_head, by decide +kernel⟩

/-- One thread with v1 = 5 has base 5 and stride 0. -/
theorem witness_AffineRegisterResults : ∃ s : State, Head s demoIssue [] ∧ (∀ m ∈ demoIssue.members, isMember s m) ∧
    (∀ m ∈ demoIssue.members, reads32 s .int (.v 1) m) ∧
    (∀ gk, (asetValues s demoIssue gk (.v 1)).Pairwise fun x y => x.1 < y.1) ∧
    ∀ gk, takesPart demoIssue gk → ∃ x, Fits (asetValues s demoIssue gk (.v 1)) x := by
  refine ⟨demoWith (setRegs [(1, 5)]), demoWith_head _, by decide +kernel, by decide +kernel, ?_, ?_⟩
  · rintro (_ | gk)
    · have : asetValues (demoWith (setRegs [(1, 5)])) demoIssue 0 (.v 1) = [(0, 5)] := by decide +kernel
      rw [this]
      decide
    · exact List.Pairwise.nil
  · intro gk h
    obtain rfl : 0 = gk := by simpa [takesPart, demoIssue] using h
    have : asetValues (demoWith (setRegs [(1, 5)])) demoIssue 0 (.v 1) = [(0, 5)] := by decide +kernel
    exact ⟨{ base := 5, stride := 0 }, 5, 0, rfl, by decide, by decide, by rw [this]; decide, fun _ => rfl⟩

/-- Two threads of a group in one issue group, thread 1 with v1 = 7. -/
def twoThreads : Group :=
  { loadedGroup [0] with
    record := { threads := 2, regs8 := 16 }
    threads := [demoThread, { demoThread with idx := 1, regs := (List.replicate 128 0).set 1 7 }] }
def twoIssue : Issue := { demoIssue with members := [(0, 0), (0, 1)] }
def two : State := { State.reset with groups := [twoThreads], issues := [twoIssue] }

theorem two_converged : Converged two twoIssue [] twoThreads := by
  refine ⟨⟨rfl, by decide, by decide⟩, rfl, rfl, ⟨rfl, rfl⟩, ?_, by decide⟩
  rintro ⟨a, b⟩
  constructor
  · intro h
    simp only [twoIssue, List.mem_cons, Prod.mk.injEq, List.not_mem_nil, or_false] at h
    rcases h with ⟨rfl, rfl⟩ | ⟨rfl, rfl⟩
    · exact ⟨rfl, demoThread, rfl, by decide⟩
    · exact ⟨rfl, _, rfl, by decide⟩
  · rintro ⟨rfl, t, ht, -⟩
    rcases b with _ | _ | b
    · decide
    · decide
    · cases ht

theorem two_reads (a : Src) (h : ∀ t ∈ twoThreads.threads, readSrc32 .int twoThreads t a = .ok (src32 .int twoThreads t a)) :
    allRead twoThreads a := fun t ht _ => h t ht

theorem witness_CrossLaneAndVoteResults : ∃ s i rest g, Converged s i rest g ∧ allRead g (.v 1) ∧ allRead g .lane :=
  ⟨two, twoIssue, [], twoThreads, two_converged, two_reads _ (by decide +kernel), two_reads _ (by decide +kernel)⟩

theorem demo_lastWord : LastWord demo demoIssue [] := by
  refine ⟨demo_head, rfl, rfl, ?_⟩
  intro m hm
  simp only [demoIssue, List.mem_singleton] at hm
  subst hm
  exact ⟨demoGroup, demoThread, rfl, rfl, fun _ h => absurd h List.not_mem_nil⟩

theorem witness_TransfersSetTheProgramCounter : LastWord demo demoIssue [] ∧
    ∀ m ∈ demoIssue.members, ∀ g t, memberOf demo m = some (g, t) → guardTrue t yes →
      reads64 demo .int (.v 2) m ∧ (src64 .int g t (.v 2)).toNat % 4 = 0 ∧ (src64 .int g t (.v 2)).toNat < 2 ^ 57 := by
  refine ⟨demo_lastWord, ?_⟩
  intro m hm g t h _
  simp only [demoIssue, List.mem_singleton] at hm
  subst hm
  obtain ⟨rfl, rfl⟩ : demoGroup = g ∧ demoThread = t := by simpa using (show some (demoGroup, demoThread) = some (g, t) from h)
  decide +kernel

/-- A page of 1 GB that maps addresses below 2^30 to themselves, readable, writable, executable, for users (Table 15.2). -/
def page : TlbEntry := { part := 0, asid := 0, level := 3, leaf := true, merged := false, vpn := 0, pte := 0x3F }
/-- The die of core 0 holds the page, memory these cells. -/
def mapped (cells : List Host.Cell) (s : State) : State := { s with dies := [(0, { tlb := [page] })], mem := cells }

/-- What an operation answers, where it answers something. -/
theorem pair_get {α β ε : Type} {x : α × Except ε β} (d : β) (h : x.2.toOption.isSome = true) : x = (x.1, .ok (x.2.toOption.getD d)) := by
  rcases x with ⟨a, e | b⟩
  · cases h
  · rfl
theorem pair_ok {α β ε : Type} {x : α × Except ε β} {b : β} (h : x.2.toOption = some b) : x = (x.1, .ok b) := by
  rcases x with ⟨a, e | c⟩
  · cases h
  · cases h; rfl
theorem pair_error {α β ε : Type} {x : α × Except ε β} (h : x.2.toOption = none) : ∃ e, x = (x.1, .error e) := by
  rcases x with ⟨a, e | c⟩
  · exact ⟨e, rfl⟩
  · cases h
theorem error_of {β ε : Type} {x : Except ε β} (h : x.toOption.isSome = false) : ∃ e, x = .error e := by
  rcases x with e | b
  · exact ⟨e, rfl⟩
  · cases h
theorem ok_of {β ε : Type} {x : Except ε β} {b : β} (h : x.toOption = some b) : x = .ok b := by
  rcases x with e | c
  · cases h
  · cases h; rfl
theorem ok_get {β ε : Type} {x : Except ε β} (d : β) (h : x.toOption.isSome = true) : x = .ok (x.toOption.getD d) := by
  rcases x with e | b
  · cases h
  · rfl

/-- A thread of a frame segment at 0x20_0000 with call depth d and a return address 0x10 for depth 1. -/
def frameSeg (g : Group) : Group := { g with segs := g.segs.set 3 { base := 0x200000, limit := 0x10000 } }
def callState (d : Nat) : State := mapped (if d = 0 then [] else [(0x200000, 1), (0x200400, 0x10)]) (demoWith frameSeg)
def callGroup : Group := frameSeg demoGroup

theorem callState_lastWord (d : Nat) : LastWord (callState d) demoIssue [] := by
  refine ⟨⟨rfl, by decide, by decide⟩, rfl, rfl, ?_⟩
  intro m hm
  simp only [demoIssue, List.mem_singleton] at hm
  subst hm
  exact ⟨callGroup, demoThread, rfl, rfl, fun _ h => absurd h List.not_mem_nil⟩

theorem callState_alone (d : Nat) : Alone (callState d) demoIssue [] (0, 0) callGroup demoThread := ⟨rfl, rfl, rfl⟩

/-- The states that a call of depth 0 and a return of depth 1 pass through. -/
def call1 : State := (frameWord (performThread (callState 0) 0 0) callGroup demoThread 0).1
def callTgs : State × Except FaultInfo (List Target) := frameTargets call1 callGroup demoThread [0, 2, 3]
def ret1 : State := (frameWord (performThread (callState 1) 0 0) callGroup demoThread 0).1
def ret2 : State := (frameWord ret1 callGroup demoThread 2).1
def ret3 : State := (frameWord ret2 callGroup demoThread 3).1
def retTgs : State × Except FaultInfo (List Target) := frameTargets ret3 callGroup demoThread [0]

theorem witness_CallAndReturnResults :
    (∃ s0 s1 s2 tgs, LastWord (callState 0) demoIssue [] ∧ Alone (callState 0) demoIssue [] (0, 0) callGroup demoThread ∧
      guardTrue demoThread yes = true ∧ performThread (callState 0) 0 0 = s0 ∧ frameWord s0 callGroup demoThread 0 = (s1, .ok 0) ∧
      frameTargets s1 callGroup demoThread [0, 2, 3] = (s2, .ok tgs) ∧
      let s3 := frameStores s2 callGroup demoThread (tgs.zip [1, 8, 0])
      s3.issues = (callState 0).issues ∧ ∃ t3, threadAt s3 (0, 0) = some t3 ∧ t3.status = .issuing ∧ NoBars demoIssue.hdr t3) ∧
    ∃ s0 s1 s2 s3 s4 tgs, LastWord (callState 1) demoIssue [] ∧ Alone (callState 1) demoIssue [] (0, 0) callGroup demoThread ∧
      performThread (callState 1) 0 0 = s0 ∧ frameWord s0 callGroup demoThread 0 = (s1, .ok 1) ∧
      frameWord s1 callGroup demoThread 2 = (s2, .ok 0x10) ∧ frameWord s2 callGroup demoThread 3 = (s3, .ok 0) ∧
      frameTargets s3 callGroup demoThread [0] = (s4, .ok tgs) ∧
      let s5 := frameStores s4 callGroup demoThread (tgs.zip [0])
      s5.issues = (callState 1).issues ∧ ∃ t5, threadAt s5 (0, 0) = some t5 ∧ t5.status = .issuing ∧ NoBars demoIssue.hdr t5 := by
  refine ⟨⟨_, call1, callTgs.1, callTgs.2.toOption.getD [], callState_lastWord 0, callState_alone 0, rfl, rfl,
    pair_ok (by decide +kernel), pair_get [] (by decide +kernel), by decide +kernel, ?_⟩,
    ⟨_, ret1, ret2, ret3, retTgs.1, retTgs.2.toOption.getD [], callState_lastWord 1, callState_alone 1, rfl,
    pair_ok (by decide +kernel), pair_ok (by decide +kernel), pair_ok (by decide +kernel), pair_get [] (by decide +kernel),
    by decide +kernel, ?_⟩⟩
  · exact (by decide +kernel : ∃ t, t ∈ threadAt (frameStores callTgs.1 callGroup demoThread
      ((callTgs.2.toOption.getD []).zip [1, 8, 0])) (0, 0) ∧ t.status = .issuing ∧ NoBars demoIssue.hdr t)
  · exact (by decide +kernel : ∃ t, t ∈ threadAt (frameStores retTgs.1 callGroup demoThread
      ((retTgs.2.toOption.getD []).zip [0])) (0, 0) ∧ t.status = .issuing ∧ NoBars demoIssue.hdr t)

theorem witness_ExitEndsTheThread : Alone demo demoIssue [] (0, 0) demoGroup demoThread ∧ guardTrue demoThread yes = true ∧
    (∀ n ∈ demoThread.w, n = 0) ∧ demoThread.deferred = [] ∧ ∀ u ∈ demoGroup.threads, u.idx ≠ 0 → u.status = .exited :=
  ⟨demo_alone, rfl, by decide, rfl, by decide⟩

theorem witness_TrapsRaiseTheirFault : Alone demo demoIssue [] (0, 0) demoGroup demoThread ∧ guardTrue demoThread yes = true :=
  ⟨demo_alone, rfl⟩

/-- The thread between clauses, in a partition with these registers, of a kernel with this handler. -/
def idle (f : Partition → Partition) (hpcdef : Nat) : State :=
  let s := demoWith fun g => { g with kd := { hpcdef := hpcdef }, threads := g.threads.map fun t => { t with status := .ready } }
  modPart { s with issues := [] } 0 f
def idleGroup (hpcdef : Nat) : Group :=
  { demoGroup with kd := { hpcdef := hpcdef }, threads := [{ demoThread with status := .ready }] }
def idleThread : Thread := { demoThread with status := .ready }

theorem idle_takes (f : Partition → Partition) (h : Nat) : TakesFault (idle f h) (0, 0) (idleGroup h) idleThread := by
  refine ⟨rfl, rfl, fun _ hi => absurd hi List.not_mem_nil, ?_, (by decide : (0 : Nat) < 32)⟩
  intro u hu hn
  simp only [idleGroup, List.mem_singleton] at hu
  exact absurd (by rw [hu]; rfl) hn

/-- Class 0 has route 0 with a handler, route 1 without one and with a supervisor routine. -/
theorem witness_HandlerEntrySavesAndContinues :
    (TakesFault (idle (fun p => { p with route0 := 0 }) 0x8000) (0, 0) (idleGroup 0x8000) idleThread ∧
      routeByRules (partOf (idle (fun p => { p with route0 := 0 }) 0x8000) 0) 0x8000 0 false false = 0) ∧
    TakesFault (idle (fun p => { p with route0 := 0, svpc := 0x9000 }) 0) (0, 0) (idleGroup 0) idleThread ∧
      routeByRules (partOf (idle (fun p => { p with route0 := 0, svpc := 0x9000 }) 0) 0) 0 0 false false = 1 :=
  ⟨⟨idle_takes _ _, by decide +kernel⟩, idle_takes _ _, by decide +kernel⟩

/-- The reset routes without a queue, and with a queue of 2^1 records at 0x1000. -/
theorem witness_FatalAndHostRoutes :
    (TakesFault (idle id 0) (0, 0) (idleGroup 0) idleThread ∧ (idleGroup 0).failed = false ∧
      routeByRules (partOf (idle id 0) 0) 0 31 false false = 3) ∧
    TakesFault (idle (fun p => { p with fqbase := 0x1000, qsize := 1 }) 0) (0, 0) (idleGroup 0) idleThread ∧
      subcoreNumber (idleGroup 0) 0 < 4 ∧
      routeByRules (partOf (idle (fun p => { p with fqbase := 0x1000, qsize := 1 }) 0) 0) 0 1 false false = 2 :=
  ⟨⟨idle_takes _ _, rfl, by decide +kernel⟩, idle_takes _ _, by decide, by decide +kernel⟩

theorem witness_RoutesFollowTheRules : ∃ cls, cls < 32 ∧ 31 ≤ cls := ⟨31, by decide, by decide⟩

/-- A thread at supervisor privilege, and one in its kernel handler. -/
def supState : State := demoWith fun g => { g with threads := g.threads.map fun t => { t with inSup := true } }
def supThread : Thread := { demoThread with inSup := true }
def supGroup : Group := { demoGroup with threads := [supThread] }
def kerState : State := demoWith fun g => { g with threads := g.threads.map fun t => { t with inKernel := true } }
def kerThread : Thread := { demoThread with inKernel := true }
def kerGroup : Group := { demoGroup with threads := [kerThread] }

theorem none_waits (t : Thread) (h : t.status = .issuing) :
    ∀ u ∈ [t], ∀ k f b, u.status ≠ .waitHandler k f b := by
  intro u hu k f b
  rw [List.mem_singleton.mp hu, h]
  exact ThreadStatus.noConfusion

theorem witness_HandlerReturnResumes :
    (Alone supState demoIssue [] (0, 0) supGroup supThread ∧ guardTrue supThread yes = true ∧ apart [] (0, 0) ∧
      (∀ u ∈ supGroup.threads, ∀ k f b, u.status ≠ .waitHandler k f b) ∧ supThread.inSup = true) ∧
    Alone kerState demoIssue [] (0, 0) kerGroup kerThread ∧ guardTrue kerThread yes = true ∧ apart [] (0, 0) ∧
      (∀ u ∈ kerGroup.threads, ∀ k f b, u.status ≠ .waitHandler k f b) ∧ kerThread.inSup = false ∧ kerThread.inKernel = true :=
  ⟨⟨⟨rfl, rfl, rfl⟩, rfl, fun _ h => absurd h List.not_mem_nil, none_waits _ rfl, rfl⟩,
   ⟨rfl, rfl, rfl⟩, rfl, fun _ h => absurd h List.not_mem_nil, none_waits _ rfl, rfl, rfl⟩

/-- The one live thread arrives last; of two, the first does not. -/
theorem witness_BarrierArrivalAndOpening :
    Machine.idle demo (0, 0) ∧
    (∃ s1 g1 t1, Alone demo demoIssue [] (0, 0) demoGroup demoThread ∧ releaseThread demo 0 0 = s1 ∧ s1.issues = demo.issues ∧
      groupOf s1 0 = some g1 ∧ threadOf g1 0 = some t1 ∧ t1.arrived.getLsbD 3 = false ∧ 3 < g1.barriers.length ∧
      (∀ k < 4, k ≠ 3 → g1.barriers.getD k 0 = 0) ∧
      g1.barriers.getD 3 0 + 1 = (g1.threads.filter fun u => u.status != .exited).length) ∧
    ∃ s : State, ∃ s1 g1 t1, Alone s demoIssue [] (0, 0) twoThreads demoThread ∧ releaseThread s 0 0 = s1 ∧ s1.issues = s.issues ∧
      groupOf s1 0 = some g1 ∧ threadOf g1 0 = some t1 ∧ t1.arrived.getLsbD 0 = false ∧ 0 < g1.barriers.length ∧
      (∀ k < 4, k ≠ 0 → g1.barriers.getD k 0 = 0) ∧
      g1.barriers.getD 0 0 + 1 ≠ (g1.threads.filter fun u => u.status != .exited).length := by
  refine ⟨fun _ h => absurd h List.not_mem_nil, ⟨_, demoGroup, demoThread, demo_alone, rfl, by decide +kernel, rfl, rfl, by decide, by decide, by decide, by decide⟩,
    { two with issues := [demoIssue] }, _, twoThreads, demoThread, ⟨rfl, rfl, rfl⟩, rfl, by decide +kernel, rfl, rfl, by decide, by decide,
    by decide, by decide⟩

/-- The last register a user reads, registers of its own partition for a supervisor. -/
theorem witness_ControlRegisterReads : ∀ s ∈ [(demo, 0x1FF), (supState, 0x006), (supState, 0x38F)], Head s.1 demoIssue [] ∧
    ∀ m ∈ demoIssue.members, ∃ g t, memberOf s.1 m = some (g, t) ∧ (guardTrue t yes → mayRead s.1 g t s.2) := by
  intro s hs
  simp only [List.mem_cons, List.not_mem_nil, or_false] at hs
  unfold mayRead
  rcases hs with rfl | rfl | rfl <;>
    exact ⟨⟨rfl, by decide, by decide⟩, fun m hm => ⟨_, _, by simp only [demoIssue, List.mem_singleton] at hm; subst hm; rfl, by decide +kernel⟩⟩

theorem witness_ControlRegisterWrites :
    (Alone demo demoIssue [] (0, 0) demoGroup demoThread ∧ guardTrue demoThread yes = true ∧
      readSrc32 .int demoGroup demoThread (.v 0) = .ok 0 ∧ demoIssue.stale = [] ∧ mayWrite demo demoGroup demoThread 0x0FF) ∧
    ∃ s, Alone s demoIssue [] (0, 0) supGroup supThread ∧ guardTrue supThread yes = true ∧
      ∀ n ∈ [0x000, 0x100, 0x1FF, 0x200, 0x240, 0x380, 0x38E, 0x40F], mayWrite s supGroup supThread n := by
  refine ⟨⟨demo_alone, rfl, rfl, rfl, ?_⟩, modPart supState 0 fun p => { p with pclust := 1 }, ⟨rfl, rfl, rfl⟩, rfl, ?_⟩ <;>
    unfold mayWrite <;> decide +kernel

theorem witness_SegmentPatternAndCounterResults :
    (Alone supState demoIssue [] (0, 0) supGroup supThread ∧ supThread.inSup = true ∧ (affOf supGroup 15).stride = 0) ∧
    (∃ s g t s1 bs, Alone s demoIssue [] (0, 0) g t ∧ (affOf g 1).stride = 0 ∧ xbldRead s g t 0x1000 = (s1, .ok bs) ∧
      s1.issues = s.issues) ∧
    Alone demo demoIssue [] (0, 0) demoGroup demoThread ∧ (127 : Nat) < 128 :=
  ⟨⟨⟨rfl, rfl, rfl⟩, rfl, rfl⟩,
   ⟨mapped [(0x1000, 31)] demo, demoGroup, demoThread, _, _, ⟨rfl, rfl, rfl⟩, rfl, pair_get [] (by decide +kernel), by decide +kernel⟩,
   demo_alone, by decide⟩

/-- An access of four bytes at offset 2 of segments 0 and 3 is misaligned; at offset 0 it lies beyond the limit 0; a sync word at offset 8
is misaligned. -/
theorem witness_RefusedFormsTakeTheirFault : Alone demo demoIssue [] (0, 0) demoGroup demoThread ∧ demoThread.inSup = false ∧
    demoThread.inKernel = false ∧ (0x006 : Nat) ∈ [0x006, 0x007, 0x00D, 0x00E, 0x00F] ∧ hasRoom 5 demoThread ∧ Unbegun demoIssue ∧
    engineCount demo demoGroup.core < 64 ∧
    (∀ x ∈ [{ memOp 0 2 5 with imm := 2 }, { memOp 0 2 5 with imm := 2, seg := 3 }], memOffset demoGroup demoThread x = .ok 2) ∧
    (∀ x ∈ [memOp 0 2 5, { memOp 0 2 5 with seg := 3 }], memOffset demoGroup demoThread x = .ok 0) ∧
    memOffset demoGroup demoThread { memOp 0 4 5 with imm := 8 } = .ok 8 ∧
    (∀ e ∈ [(0, 4, false), (2, 4, true), (0, 16, false), (8, 16, true)],
      (((segOf demoGroup 0).base.toNat + e.1) % 2 ^ 64 % e.2.1 != 0) = e.2.2) ∧
    2 % min 4 4 ≠ 0 ∧ ∀ n ∈ [0, 3], 0 + 4 > (segOf demoGroup n).limit.toNat := by
  refine ⟨demo_alone, rfl, rfl, by decide, by unfold hasRoom; decide, ⟨rfl, rfl⟩, by decide +kernel, ?_, ?_, rfl, by decide +kernel,
    by decide, by decide +kernel⟩ <;> intro x h <;> simp only [List.mem_cons, List.not_mem_nil, or_false] at h <;>
    rcases h with rfl | rfl <;> rfl

/-- A device page at 2^30, the partition's invalidate windows at its start (R367), segments 0 and 1 open to it. -/
def devPage : TlbEntry := { part := 0, asid := 0, level := 3, leaf := true, merged := false, vpn := 1, pte := 0x4000013F }
def windows : PartDesc :=
  { taskTable := 0x10000, landing := 0x20000, preempt := 0x40000, viewTable := 0, lockTable := 0, invPage := 0x40000000, m := 8, q := 8, ts := [] }
def openSegs (g : Group) : Group := { g with segs := [{ base := 0, limit := 0x80000000 }, { base := 0, limit := 0x80000 }] ++ g.segs.drop 2 }
def memGroup : Group := openSegs demoGroup
def memState : State :=
  { demoWith openSegs with dies := [(0, { tlb := [page, devPage] })], partitions := [(0, { desc := some windows })] }
theorem mem_alone : Alone memState demoIssue [] (0, 0) memGroup demoThread := ⟨rfl, rfl, rfl⟩

def target (s : State) (o : MemOp) (acc : Acc) (want : Nat) : State × Except FaultInfo Target :=
  memTarget s memGroup demoThread o 4 acc want
def scratchOp : MemOp := { memOp 0 2 5 with seg := 1 }
def devOp : MemOp := { memOp 0 2 5 with off := .a 1 }
/-- The pieces of the place in memory that an access's address gives. -/
def placePieces (x : State × Except FaultInfo Target) : List Piece :=
  match x.2 with
  | .ok { place := .mem _ ps, .. } => ps
  | _ => []

/-- A word of a mapped page and of scratchpad to read, a word to write, an atomic's operand and place. -/
theorem witness_MemoryAccessesIssue :
    (Alone memState demoIssue [] (0, 0) memGroup demoThread ∧ guardTrue demoThread yes = true ∧ hasRoom 5 demoThread) ∧
    (∀ o ∈ [memOp 0 2 5, scratchOp], ∃ s1 tg, target memState o .r 0 = (s1, .ok tg) ∧
      (deviceOrder s1 memGroup demoThread tg.place).issues = memState.issues) ∧
    (∀ o ∈ [memOp 0 2 5, scratchOp], ∃ ws s1 tg, sourceRegs demoThread 0 1 = .ok ws ∧
      target memState o .w 1 = (s1, .ok tg) ∧ stagedFor s1 memGroup tg [] = (s1, none) ∧
      (devicePlace tg.place && (windowOf s1 0 false (placeVa tg.place)).isSome) = false ∧
      (deviceOrder s1 memGroup demoThread tg.place).issues = memState.issues) ∧
    ∀ o ∈ [memOp 0 2 5, scratchOp], ∃ y cmp s1 tg, atomOperands o demoThread = .ok (y, cmp) ∧ target memState o .rw 2 = (s1, .ok tg) ∧
      normalPlace tg.place = true ∧ stagedFor s1 memGroup tg [] = (s1, none) ∧ s1.issues = memState.issues := by
  refine ⟨⟨mem_alone, rfl, by unfold hasRoom; decide⟩, ?_, ?_, ?_⟩ <;> intro o ho <;>
    simp only [List.mem_cons, List.not_mem_nil, or_false] at ho
  · rcases ho with rfl | rfl <;> exact ⟨_, _, pair_get { place := .scratch 0, treat := .direct } (by decide +kernel), by decide +kernel⟩
  · rcases ho with rfl | rfl <;>
      exact ⟨[0], _, _, rfl, pair_get { place := .scratch 0, treat := .direct } (by decide +kernel),
        Prod.ext (by decide +kernel) (by decide +kernel), by decide +kernel, by decide +kernel⟩
  · rcases ho with rfl | rfl <;>
      exact ⟨0, 0, _, _, rfl, pair_get { place := .scratch 0, treat := .direct } (by decide +kernel), by decide +kernel,
        Prod.ext (by decide +kernel) (by decide +kernel), by decide +kernel⟩

/-- The thread with an affine register that reaches the device page, where an atomic is refused and a store reaches the window. -/
def devGroup : Group := { memGroup with affine := memGroup.affine.set 0 { base := 0x40000000 } }
def devState : State := { memState with groups := [devGroup] }
theorem witness_MemoryAccessesIssue_device : Alone devState demoIssue [] (0, 0) devGroup demoThread ∧
    (∃ s1 tg, memTarget devState devGroup demoThread (memOp 0 2 5) 4 .w 1 = (s1, .ok tg) ∧
      (devicePlace tg.place && (windowOf s1 0 false (placeVa tg.place)).isSome) = true ∧
      (performLast (issueOp (deviceOrder s1 devGroup demoThread tg.place) devGroup 0 5 false
        (.store tg.place [0, 0, 0, 0] tg.treat 0))).issues = devState.issues) ∧
    ∃ s1 tg, memTarget devState devGroup demoThread (memOp 0 2 5) 4 .rw 2 = (s1, .ok tg) ∧ normalPlace tg.place = false ∧
      (settleLine s1 devGroup demoThread tg.place).issues = devState.issues := by
  refine ⟨⟨rfl, rfl, rfl⟩, ?_, ?_⟩
  · exact ⟨_, _, pair_get { place := .scratch 0, treat := .direct } (by decide +kernel), by decide +kernel, by decide +kernel⟩
  · exact ⟨_, _, pair_get { place := .scratch 0, treat := .direct } (by decide +kernel), by decide +kernel, by decide +kernel⟩

/-- A `pref` whose guard is false, and one whose address gives a place in memory. -/
theorem witness_MemoryAccessesIssue_pref : Alone memState demoIssue [] (0, 0) memGroup demoThread ∧
    guardTrue demoThread no = false ∧ guardTrue demoThread yes = true ∧
    ∃ s1 tg asid ps, target memState (memOp 0 2 7) .r 0 = (s1, .ok tg) ∧ tg.place = .mem asid ps ∧ ps ≠ [] := by
  refine ⟨mem_alone, rfl, rfl, _, _, 0, (placePieces (target memState (memOp 0 2 7) .r 0)), pair_get { place := .scratch 0, treat := .direct } (by decide +kernel),
    by decide +kernel, by decide +kernel⟩

/-- An operation of the one thread outstanding on its core. -/
def holds (kind : OpKind) : State :=
  { memState with ops := [{ id := 9, core := 0, gk := 0, threads := [0], cnt := 5, asid := 0, sup := false, kind := kind }], issues := [] }
def heldOp (kind : OpKind) : Op := { id := 9, core := 0, gk := 0, threads := [0], cnt := 5, asid := 0, sup := false, kind := kind }
theorem holds_outstanding (kind : OpKind) (h : mayPerform (holds kind) (heldOp kind) = true) :
    Outstanding (holds kind) 9 (heldOp kind) memGroup 0 := ⟨rfl, rfl, h, rfl, by decide⟩
theorem holds_noWaits {kind : OpKind} (h : ∀ off e d, kind ≠ .swWait off e d) : noSyncWaits (holds kind) := by
  intro x hx off e d
  rw [List.mem_singleton.mp hx]
  exact h off e d

theorem witness_SyncWordOperations :
    (∃ x off, Alone memState demoIssue [] (0, 0) memGroup demoThread ∧ hasRoom 5 demoThread ∧ sourceRegs demoThread 127 1 = .ok [x] ∧
      (∀ acc ∈ [Acc.r, .w, .rw], syncTarget memState memGroup demoThread { scratchOp with size := 4 } acc = .ok off) ∧
      engineCount memState 0 < 64 ∧ Unbegun demoIssue ∧ (releaseThread memState 0 0).issues = memState.issues ∧
      scratchPoisoned memState 0 off 16 = false ∧ memState.ops = [] ∧ leNat (scratchRead memState 0 (off + 8) 4) = x.toNat ∧
      memGroup.run ≠ .preempted ∧ groupOf memState 0 = some memGroup) ∧
    (∃ t : Thread, sourceRegs t 127 1 = .ok [1] ∧ leNat (scratchRead memState 0 8 4) ≠ (1 : Word).toNat) ∧
    ∀ kind ∈ [OpKind.swInit 0 4, .swAdd 0 4, .swAdd 0 0], memoriesWf (holds kind) = true ∧
      Outstanding (holds kind) 9 (heldOp kind) memGroup 0 ∧ noSyncWaits (holds kind) ∧ scratchPoisoned (holds kind) 0 0 16 = false := by
  refine ⟨⟨0, 0, mem_alone, by unfold hasRoom; decide, ok_of (by decide +kernel), ?_, by decide +kernel, ⟨rfl, rfl⟩, by decide +kernel,
      by decide +kernel, rfl, by decide +kernel, by decide, rfl⟩,
    ⟨{ demoThread with regs := (List.replicate 128 0).set 127 1 }, ok_of (by decide +kernel), by decide +kernel⟩, ?_⟩
  · intro acc h
    simp only [List.mem_cons, List.not_mem_nil, or_false] at h
    rcases h with rfl | rfl | rfl <;> exact ok_of (by decide +kernel)
  · intro kind h
    simp only [List.mem_cons, List.not_mem_nil, or_false] at h
    rcases h with rfl | rfl | rfl <;>
      exact ⟨by decide +kernel, holds_outstanding _ (by decide +kernel), holds_noWaits (by intros; exact OpKind.noConfusion), by decide +kernel⟩

/-- A piece of the mapped page. -/
def piece : Piece := { va := 0x1000, pa := 0x1000, len := 4, attr := leafAttr 0x3F }
def poisoned (s : State) : State := { s with poison := [0x40], cores := [(0, { scratchPoison := [0] })] }
def loadOf (p : Place) (treat : Treat) : OpKind := .load p 0 4 treat 0 0

theorem witness_LoadsArrive :
    (Outstanding (holds (loadOf (.scratch 0) .direct)) 9 (heldOp (loadOf (.scratch 0) .direct)) memGroup 0 ∧
      scratchPoisoned (holds (loadOf (.scratch 0) .direct)) 0 0 4 = false) ∧
    (∃ s, Outstanding s 9 (heldOp (loadOf (.scratch 0) .direct)) memGroup 0 ∧ scratchPoisoned s 0 0 4 = true) ∧
    (∃ s1 bs, loadPieces (holds (loadOf (.mem 0 [piece]) .direct)) { part := 0, sec := false, sup := false } 0 0 [piece] = (s1, bs, false)) ∧
    (∃ s1 bs, loadPieces (poisoned (holds (loadOf (.mem 0 [piece]) .direct))) { part := 0, sec := false, sup := false } 0 0 [piece] =
      (s1, bs, true)) ∧
    ∃ gr s1 bs s2 bs2, loadPieces { holds (loadOf (.mem 0 [piece]) .shared) with grids := [gr] } { part := 0, sec := false, sup := false }
        0 0 [piece] = (s1, bs, false) ∧ gridOf s1 0 = some gr ∧ applyOwn gr memGroup 0x1000 memGroup.staged s1 0 bs = (s2, bs2) := by
  refine ⟨⟨holds_outstanding _ (by decide +kernel), by decide +kernel⟩, ⟨poisoned (holds (loadOf (.scratch 0) .direct)), ⟨rfl, rfl, by decide, rfl, by decide⟩,
    by decide +kernel⟩, ⟨_, _, Prod.ext rfl (Prod.ext rfl (by decide +kernel))⟩, ⟨_, _, Prod.ext rfl (Prod.ext rfl (by decide +kernel))⟩, ?_⟩
  exact ⟨{ id := 0, record := {}, gfirst0 := 0, total := 1, parent := 0, hostLaunched := false, cluster := 0, remain := 1 }, _, _, _, _,
    Prod.ext rfl (Prod.ext rfl (by decide +kernel)), by decide +kernel, rfl⟩

theorem witness_StoresAndAtomicsPerform :
    (∀ kind ∈ [OpKind.store (.scratch 0x7FFFC) [1, 2, 3, 4] .direct 0, .store (.mem 0 [piece]) [1, 2, 3, 4] .shared 0,
        .store (.mem 0 [piece]) [1, 2, 3, 4] .direct 0, .atomic (.scratch 0) 0 4 1 0 true 0 .direct,
        .atomic (.mem 0 [piece]) 9 4 1 0 false 0 .direct],
      memoriesWf (holds kind) = true ∧ Outstanding (holds kind) 9 (heldOp kind) memGroup 0 ∧ noSyncWaits (holds kind)) ∧
    (∃ g1, groupOf (storePieces (holds (.store (.mem 0 [piece]) [1, 2, 3, 4] .direct 0)) (opCtx (heldOp (.swInit 0 0)) memGroup)
      memGroup 0 0 [piece] [1, 2, 3, 4]) 0 = some g1 ∧ g1.run ≠ .preempted) ∧
    (∀ p ∈ [Place.scratch 0, .mem 0 [piece]], ∃ s1 x, atomicPlace (holds (.atomic p 0 4 1 0 true 0 .direct))
      (opCtx (heldOp (.swInit 0 0)) memGroup) p 0 4 1 0 = (s1, x, false)) ∧ ∃ n, atomNew 0 32 5 1 0 = some n := by
  refine ⟨?_, ?_, ?_, _, rfl⟩
  · intro kind h
    simp only [List.mem_cons, List.not_mem_nil, or_false] at h
    rcases h with rfl | rfl | rfl | rfl | rfl <;>
      exact ⟨by decide +kernel, holds_outstanding _ (by decide +kernel), holds_noWaits (by intros; exact OpKind.noConfusion)⟩
  · exact (by decide +kernel : ∃ g1, g1 ∈ groupOf (storePieces (holds (.store (.mem 0 [piece]) [1, 2, 3, 4] .direct 0))
      (opCtx (heldOp (.swInit 0 0)) memGroup) memGroup 0 0 [piece] [1, 2, 3, 4]) 0 ∧ g1.run ≠ .preempted)
  · intro p h
    simp only [List.mem_cons, List.not_mem_nil, or_false] at h
    rcases h with rfl | rfl <;> exact ⟨_, _, Prod.ext rfl (Prod.ext rfl (by decide +kernel))⟩

/-- The state with a way of the L2 for its partition, a predicted line; the piece under a memory type. -/
def wayed (l : List (Nat × Nat)) (kind : OpKind) : State :=
  { holds kind with partitions := [(0, { desc := some windows, pways := 1 })], cores := [(0, { predict := l })] }
def typed (n : Nat) : Piece := { piece with attr := { piece.attr with mtype := n } }
/-- The sector of the piece comes to its place in L2, with its mark. -/
def fetches (s : State) (bad : Bool) : Bool :=
  let f := l2Fetch s (l2DieOf 0 0x1000) 0 0x1000
  (l2Find f.1 (l2DieOf 0 0x1000) 8).isSome && f.2.bytes.length == 64 && f.2.poisoned == bad
/-- The line of the piece comes to the L1 exclusively, with its mark. -/
def holdsLine (s : State) (bad : Bool) : Bool :=
  let f := l1Load (holdLine (l1Alloc s 0 0 0 0x1000 0x1000 piece.attr false).1 0 0 8) { part := 0, sec := false, sup := false } 0x1000 0x1000 4 0 piece.attr 0
  f.2.2 == bad && (l1Find f.1 0 0 8).isSome
def storeKind : OpKind := .store (.mem 0 [piece]) [1, 2, 3, 4] .direct 0

/-- A store of four bytes to each memory type and past the L1; an atomic at the line's home and in the L1, poisoned and not. -/
theorem witness_StoresAndAtomicsPerform_places :
    (∀ n ∈ [0, 1, 2, 3, 4], wholePiece (typed n) [1, 2, 3, 4] ∧ (typed n).attr.mtype = n) ∧
    (memoriesWf (wayed [] storeKind) = true ∧ Outstanding (wayed [] storeKind) 9 (heldOp storeKind) memGroup 0 ∧
      noneExclusive (wayed [] storeKind) ∧ windowOf (wayed [] storeKind) 0 false 0x1000 = none ∧
      tfind (wayed [] storeKind).sizeTags (0x1000 / 512) = none) ∧
    (∀ bad ∈ [false, true], let s := { wayed [] storeKind with poison := if bad then [0x40] else [] }
      fetches s bad = true ∧ fetches (ownCopiesGone s 0 0 piece) bad = true ∧
      fetches (l2Single (ownCopiesGone s 0 0 piece) (l2DieOf 0 0x1000) 8) bad = true) ∧
    (0 = asidOf (wayed [] storeKind) 0 false ∧ (coreOf (wayed [(0, 8)] storeKind) 0).predict.contains (0, 0x1000 / 512) = true ∧
      (coreOf (wayed [] storeKind) 0).predict.contains (0, 0x1000 / 512) = false) ∧
    (∀ bad ∈ [false, true], holdsLine { wayed [(0, 8)] storeKind with poison := if bad then [0x40] else [] } bad = true) ∧
    (∃ n, atomNew 0 32 5 1 0 = some n) ∧ atomNew 9 32 5 1 0 = none := by
  refine ⟨?_, ⟨by decide +kernel, ⟨rfl, rfl, by decide +kernel, rfl, by decide⟩, ?_, by decide +kernel, rfl⟩, by decide +kernel, by decide +kernel,
    by decide +kernel, ⟨_, rfl⟩, rfl⟩
  · intro n h
    simp only [List.mem_cons, List.not_mem_nil, or_false] at h
    rcases h with rfl | rfl | rfl | rfl | rfl <;> exact ⟨⟨rfl, by decide, by decide, by decide, by decide⟩, rfl⟩
  · intro c h l hl
    rw [List.mem_singleton.mp h] at hl
    exact absurd hl List.not_mem_nil

/-- An `eng` whose block lies at zero of the mapped page; the thread is alone. -/
def eng0 : EngOp := engOp true 8
/-- The group in a deterministic grid whose staging log has room. -/
def detGrid : Grid := { id := 0, record := { det := true }, gfirst0 := 0, total := 1, parent := 0, hostLaunched := false, cluster := 0, remain := 1
                        stgE := 64, stg := 0x100000, table := some [] }
def detGroup : Group := { memGroup with record := { memGroup.record with det := true } }
def detState : State := { memState with groups := [detGroup], grids := [detGrid] }

theorem witness_EngineOperationsIssue : ∀ x ∈ [(memState, memGroup), (detState, detGroup)],
    Alone x.1 demoIssue [] (0, 0) x.2 demoThread ∧ Machine.idle x.1 (0, 0) ∧ guardTrue demoThread yes = true ∧ hasRoom 0 demoThread ∧ engineCount x.1 x.2.core < 64 ∧ Unbegun demoIssue ∧
    readSrc64 .int x.2 demoThread (.v 2) = .ok 0 ∧ readSrc64 .int x.2 demoThread (.v 4) = .ok 0 ∧
    (0 + eng0.imm.signExtend 64).toNat % 64 = 0 ∧ (releaseThread x.1 0 0).issues = x.1.issues ∧
    (∃ s1 e, reserve (releaseThread x.1 0 0) x.2 (ctxOf x.2 demoThread) (newEng .copy eng0 x.2 0 0) plainRanges = (s1, .ok e) ∧
      s1.issues = x.1.issues) ∧
    ∃ s1 e, reserve (releaseThread x.1 0 0) x.2 (ctxOf x.2 demoThread) (newEng .allred eng0 x.2 0 0) roundRanges = (s1, .ok e) ∧
      (arrive (issueOp s1 x.2 0 0 false (.eng e)) (opFor s1 (0, 0) x.2 demoThread 0 (.eng e)) e).issues = x.1.issues := by
  intro x hx
  simp only [List.mem_cons, List.not_mem_nil, or_false] at hx
  rcases hx with rfl | rfl <;>
    exact ⟨⟨rfl, rfl, rfl⟩, fun _ h => absurd h List.not_mem_nil, rfl, by unfold hasRoom; decide, by decide +kernel, ⟨rfl, rfl⟩, rfl, rfl, by decide, by decide +kernel,
      ⟨_, _, pair_get (newEng .copy eng0 memGroup 0 0) (by decide +kernel), by decide +kernel⟩,
      _, _, pair_get (newEng .copy eng0 memGroup 0 0) (by decide +kernel), by decide +kernel⟩

/-- Engine operations of the one thread whose blocks lie at an address, with n in the low argument. -/
def engAt (fn : EngFn) (block : DWord) (n : DWord) : State := holds (.eng { fn := fn, block := block, arg := n, seg1 := segOf memGroup 1 })
def engSt (fn : EngFn) (block : DWord) (n : DWord) : EngState := { fn := fn, block := block, arg := n, seg1 := segOf memGroup 1 }
def engRead (fn : EngFn) (block : DWord) (n : DWord) (s : State) : State × EngState :=
  readBlock s memGroup { part := 0, sec := false, sup := false } (engSt fn block n)

/-- A copy of 64 bytes from 0 to 0x1000, and a ray trace without rays. -/
def copyState : State := { engAt .copy 0 64 with mem := [(9, 0x10)] }
def copyRun : State × EngEnd :=
  runData (engRead .copy 0 64 copyState).1 memGroup { part := 0, sec := false, sup := false } (engRead .copy 0 64 copyState).2 9
def rayRun : State × EngEnd :=
  runRays (engRead .rtrace 0 0 (engAt .rtrace 0 0)).1 memGroup { part := 0, sec := false, sup := false }
    (engRead .rtrace 0 0 (engAt .rtrace 0 0)).2 9

/-- A block that is not mapped, one with a reserved bit set, an empty copy, a copy of 64 bytes, a ray trace without rays. -/
theorem witness_EngineOperationsComplete :
    EngineOutstanding (engAt .copy 0 0) 9 (heldOp (.eng (engSt .copy 0 0))) (engSt .copy 0 0) none memGroup 0 ∧
    (engRead .copy 0x80000000 0 (engAt .copy 0x80000000 0)).2.bad.isSome = true ∧
    (dataOk (engRead .copy 0 0 { engAt .copy 0 0 with mem := [(56, 1)] }).2 = false ∧
      (engRead .copy 0 0 { engAt .copy 0 0 with mem := [(56, 1)] }).2.bad = none) ∧
    (dataOk (engRead .copy 0 0 (engAt .copy 0 0)).2 = true ∧ dataEmpty (engRead .copy 0 0 (engAt .copy 0 0)).2 = true) ∧
    (∃ s2 r g2, copyRun = (s2, r) ∧ dataEmpty (engRead .copy 0 64 copyState).2 = false ∧ groupOf s2 0 = some g2 ∧ g2.run ≠ .preempted) ∧
    ∃ s2 r g2, rayRun = (s2, r) ∧ (engRead .rtrace 0 0 (engAt .rtrace 0 0)).2.bad = none ∧ groupOf s2 0 = some g2 ∧
      g2.run ≠ .preempted := by
  refine ⟨⟨rfl, rfl, rfl, rfl, rfl, rfl, by decide⟩, by decide +kernel, by decide +kernel, by decide +kernel, ?_, ?_⟩
  · obtain ⟨g2, h, r⟩ := (by decide +kernel : ∃ g2, g2 ∈ groupOf copyRun.1 0 ∧ g2.run ≠ .preempted)
    exact ⟨copyRun.1, copyRun.2, g2, pair_of rfl, by decide +kernel, h, r⟩
  · obtain ⟨g2, h, r⟩ := (by decide +kernel : ∃ g2, g2 ∈ groupOf rayRun.1 0 ∧ g2.run ≠ .preempted)
    exact ⟨rayRun.1, rayRun.2, g2, pair_of rfl, by decide +kernel, h, r⟩

/-- A block of an `allred` at zero, its destination at 0x1000 and its object at 0x800, of p participants and four bytes of FP32; the state
of its operation, arriving as a rank, and once it has joined. -/
def roundMem (p : Nat) : Mem :=
  memWrite (memWrite [] 0 (leBytes (0x2000 + 2 ^ 64 * 0x1000 + 2 ^ 192 * 0x800) 64)) 0x800 (leBytes (p + 10 * 2 ^ 20 + 4 * 2 ^ 32) 64)
def allredSt (rank : DWord) (joined : Option (Nat × Nat)) : EngState :=
  { fn := .allred, block := 0, arg := rank, joined := joined, seg1 := segOf memGroup 1 }
def roundState (p : Nat) (e : EngState) : State :=
  { holds (.eng e) with mem := roundMem p, regions := [{ part := 0, secure := false, die := 0, gb := 0 }] }
def roundRead (p : Nat) (e : EngState) : State × EngState :=
  readBlock (roundState p e) memGroup { part := 0, sec := false, sup := false } e
def roundObject (p : Nat) (e : EngState) : State × Except FaultInfo Piece :=
  objectPiece (roundRead p e).1 { part := 0, sec := false, sup := false } (blockWord (roundRead p e).2 3)
def objValue (p : Nat) : Nat := leNat (memRead (roundMem p) 0x800 64)
/-- An operation that has joined the round at 0x800, its source mapped or not. -/
def joinedSt (src : DWord) : EngState :=
  { allredSt 0 (some (0x800, 0)) with words := some [src, 0x1000, 0, 0x800, 0, 0, 0, 0] }
def roundSources (src : DWord) : Bool :=
  (sourcesOf 4 (roundReads .allred (objValue 1) (roundOps (roundState 1 (joinedSt src)) 0x800)) (roundState 1 (joinedSt src))).2.toOption.isSome
def endedRound : State × EngEnd :=
  runPieces (roundState 1 (joinedSt 0x2000)) memGroup { part := 0, sec := false, sup := false } (joinedSt 0x2000) 9 (dstSpace (joinedSt 0x2000))
    (roundMoves (joinedSt 0x2000) [(1, false), (2, false), (3, false), (4, false)]) [] false

/-- An object of no participant, a rank beyond the last, an arrival that leaves one to come, and the last one; a round whose source is read
and one whose source faults; the end of one participant. -/
theorem witness_EngineOperationsComplete_rounds :
    (∀ x ∈ [(0, 0), (2, 3), (2, 0), (1, 0)], ∃ e : EngState, e = allredSt x.2 none ∧
      EngineOutstanding (roundState x.1 e) 9 (heldOp (.eng e)) e none memGroup 0 ∧ (roundRead x.1 e).2.bad = none ∧
      dataOk (roundRead x.1 e).2 = true ∧ ∃ p, (roundObject x.1 e).2 = .ok p) ∧
    (objOk .allred (objValue 0) = false ∧ objOk .allred (objValue 2) = true ∧ objOk .allred (objValue 1) = true ∧
      3 ≥ objP (objValue 2) ∧ 0 < objP (objValue 1) ∧ bitOf (objValue 2) 128 = false ∧ bitOf (objValue 1) 128 = false ∧
      objArrived (objValue 2) + 1 ≠ objP (objValue 2) ∧ objArrived (objValue 1) + 1 = objP (objValue 1)) ∧
    (∀ src : DWord, EngineOutstanding (roundState 1 (joinedSt src)) 9 (heldOp (.eng (joinedSt src))) (joinedSt src) (some (0x800, 0)) memGroup 0) ∧
    (roundSources 0x2000 = true ∧ roundSources 0x80000000 = false) ∧
    ∃ g2, groupOf endedRound.1 0 = some g2 ∧ g2.run ≠ .preempted := by
  refine ⟨?_, by decide +kernel, fun _ => ⟨rfl, rfl, rfl, rfl, rfl, rfl, by decide⟩, ⟨by decide +kernel, by decide +kernel⟩,
    (by decide +kernel : ∃ g2, g2 ∈ groupOf endedRound.1 0 ∧ g2.run ≠ .preempted)⟩
  intro x h
  simp only [List.mem_cons, List.not_mem_nil, or_false] at h
  rcases h with rfl | rfl | rfl | rfl <;>
    exact ⟨_, rfl, ⟨rfl, rfl, rfl, rfl, rfl, rfl, by decide⟩, by decide +kernel, by decide +kernel, _, ok_get piece (by decide +kernel)⟩

/-- A group of one thread with FP32 matrix registers of 16 slots each and accumulator tiles, registers 0 and 1 disjoint. -/
def headers : List MHeader :=
  [{ fmt := 10, scount := 16 }, { fmt := 10, sbase := 16, scount := 16 }] ++ List.replicate 30 { fmt := 10 }
def matGroup : Group := { memGroup with hdrs := headers, ihdrs := headers, ztiles := [0, 1, 2, 3, 4, 5, 6, 7] }
def matState : State := { memState with groups := [matGroup] }

theorem mat_converged : Converged matState demoIssue [] matGroup := by
  refine ⟨⟨rfl, by decide, by decide⟩, rfl, rfl, ⟨rfl, rfl⟩, ?_, by decide⟩
  rintro ⟨a, b⟩
  constructor
  · intro h
    obtain ⟨rfl, rfl⟩ : a = 0 ∧ b = 0 := by simpa [demoIssue] using h
    exact ⟨rfl, demoThread, rfl, by decide⟩
  · rintro ⟨rfl, t, ht, -⟩
    rcases b with _ | b
    · decide
    · cases ht

def matO : MatOp := { matOp 0 1 0 with mb := 1 }

theorem witness_MatrixCommandsIssue : Converged matState demoIssue [] matGroup ∧ demoIssue.members ≠ [] ∧
    MatrixReady matState matO matGroup ∧ matState.ops = [] ∧ (releaseGroup matState 0).issues = matState.issues ∧
    (∀ e ∈ matrixForms, issueFault matGroup matO (e.2 matO matGroup.ihdrs) = none) ∧
    issueFault matGroup matO { names := [0], valid := [0] } = none ∧
    (hdrAt matGroup.ihdrs 2).scount = 0 ∧ (∃ b, claimBase matState 0 16 = some b) ∧ (hdrAt matGroup.ihdrs 0).scount ≠ 0 := by
  refine ⟨mat_converged, by decide, ⟨by decide +kernel, rfl, by decide +kernel⟩, rfl, by decide +kernel, ?_, by decide +kernel, by decide, ?_, by decide⟩
  · decide +kernel
  · exact Option.isSome_iff_exists.mp (by decide +kernel)

/-- A command of the group as the oldest of its queue, and the same command running. -/
def cmd (i : Instr) (hold : Bool) : MCmd := { gk := 0, instr := i, cnt := 7, threads := [0], hold := hold, mpol := 0, claim := some 32 }
def queued (m : MCmd) : State := { matState with cores := [(0, { mqueue := [m] })] }
def runningCmd (m : MCmd) : State := { matState with cores := [(0, { mrun := some m })] }

theorem queued_starts (i : Instr) (hold : Bool) : Starts (queued (cmd i hold)) 0 0 (cmd i hold) matGroup := ⟨rfl, rfl, rfl, rfl⟩

theorem witness_MatrixCommandsActAndComplete :
    (∀ i hold, Starts (queued (cmd i hold)) 0 0 (cmd i hold) matGroup) ∧
    (∀ e ∈ headerEffects, commandPoison (started (queued (cmd (e.1 matO) false)) 0 0 (cmd (e.1 matO) false)) matGroup (cmd (e.1 matO) false) = none) ∧
    (∀ e ∈ moveEffects, commandPoison (started (queued (cmd (e.1 matO) false)) 0 0 (cmd (e.1 matO) false)) matGroup (cmd (e.1 matO) false) = none) ∧
    (∀ e ∈ algebraEffects, commandPoison (started (queued (cmd (e.1 matO) false)) 0 0 (cmd (e.1 matO) false)) matGroup (cmd (e.1 matO) false) = none) ∧
    ∀ m ∈ [cmd (.mclaim matO) false, cmd (.mst matO) false, cmd (.mrecomp matO) true], (coreOf (runningCmd m) 0).mrun = some m ∧
      groupOf (runningCmd m) m.gk = some matGroup ∧ matGroup.mpoison = false ∧ matGroup.run ≠ .preempted ∧ m.threads.Nodup ∧
      (matGroup.threads.map fun t => t.idx).Nodup ∧ m.fault = none ∧ commandPoison (runningCmd m) matGroup m = none ∧
      matGroup.core = 0 ∧ (∀ x ∈ (coreOf (runningCmd m) 0).mqueue, x.gk ≠ m.gk) ∧ matGroup.saved = [] := by
  refine ⟨queued_starts, by decide +kernel, by decide +kernel, by decide +kernel, ?_⟩
  intro m hm
  simp only [List.mem_cons, List.not_mem_nil, or_false] at hm
  rcases hm with rfl | rfl | rfl <;>
    exact ⟨rfl, rfl, rfl, by decide, by decide, by decide, rfl, by decide +kernel, rfl, fun _ h => absurd h List.not_mem_nil, rfl⟩

/-- Task 5 with a frame at 0x4000, an object at 0x1000 named by a1, in partition 0 with cluster 0. -/
def taskGroup : Group :=
  { memGroup with record := { threads := 1, regs8 := 16, taskid := 5 }, frame := 0x4000, affine := memGroup.affine.set 1 { base := 0x1000 } }
/-- Memory with the frame, the object, and an entry of the task table in which task 7 has failed. -/
def taskCells (v n frame : Nat) : Mem :=
  memWrite (memWrite (memWrite [] 0x10070 (leBytes (7 + 5 * 2 ^ 32) 16)) 0x4000 (leBytes frame 64)) 0x1000 (leBytes v n)
def taskState (g : Group) (v n frame : Nat) : State :=
  { memState with groups := [g], mem := taskCells v n frame, partitions := [(0, { pclust := 1, pctl := 1, desc := some windows })] }
/-- A task instruction on the object, with results from v8 on. -/
def objOp (tx : BitVec 8) : TaskOp := taskOp 8 1 (.v 2) tx 0

theorem one_converged {s : State} {g : Group} (hg : groupOf s 0 = some g) (hk : g.gk = 0) (ht : g.threads = [demoThread])
    (hi : s.issues = [demoIssue]) : Converged s demoIssue [] g := by
  refine ⟨⟨hi, by decide, by decide⟩, by rw [hk]; exact hg, rfl, ⟨rfl, rfl⟩, ?_, by rw [ht]; decide⟩
  rintro ⟨a, b⟩
  rw [hk]
  constructor
  · intro h
    obtain ⟨rfl, rfl⟩ : a = 0 ∧ b = 0 := by simpa [demoIssue] using h
    exact ⟨rfl, demoThread, by simp only [threadOf, ht]; rfl, by decide⟩
  · rintro ⟨rfl, t, h, -⟩
    simp only [threadOf, ht] at h
    rcases b with _ | b
    · decide
    · cases h

theorem one_performs {s : State} {g : Group} (hg : groupOf s 0 = some g) (hk : g.gk = 0) (ht : g.threads = [demoThread])
    (hi : s.issues = [demoIssue]) : Performs s demoIssue [] g yes demoThread [demoThread] := by
  refine ⟨one_converged hg hk ht hi, ?_, by simp only [liveThreads, ht]; rfl, by simp only [liveThreads, ht]; rfl, by simp⟩
  intro t h _
  rw [ht, List.mem_singleton] at h
  subst h
  exact ⟨by decide, rfl⟩

theorem task_alone {g : Group} (v n fr : Nat) (h : g = taskGroup) : Alone (taskState g v n fr) demoIssue [] (0, 0) g demoThread := by
  subst h; exact ⟨rfl, rfl, rfl⟩

/-- A template of one group of one thread, a frame of depth 9. -/
def template : Nat := encodeRecord { threads := 1, regs8 := 2, gcount := 1 }
def frame9 : Nat := 9 * 2 ^ 160
def spawnRead : State × Except FaultInfo Nat := readObject (taskState taskGroup template 64 frame9) taskGroup demoThread (objOp 3) 64 .r

theorem witness_SpawnAndSelfResults :
    (∃ s1 s2 v fr, Alone (taskState taskGroup template 64 frame9) demoIssue [] (0, 0) taskGroup demoThread ∧ guardTrue demoThread yes = true ∧
      (spawnHeld (objOp 3) (taskState taskGroup template 64 frame9) taskGroup demoThread = false ∧ Unbegun demoIssue) ∧ readSrc64 .int taskGroup demoThread (.v 2) = .ok 0 ∧
      spawnRead = (s1, .ok v) ∧ frameRead s1 taskGroup = (s2, some fr) ∧ field fr 160 4 < 10 ∧
      recordValid (spawnRecord v (objOp 3) taskGroup demoThread 0 (field fr 32 32) (field fr 160 4)) 0 = true) ∧
    (∀ sel ∈ [0, 1, 2, 3, 4, 5], (objOp sel).tx.toNat % 8 = sel.toNat) ∧
    (∃ s1 fr, frameRead (taskState taskGroup 0 64 frame9) taskGroup = (s1, some fr)) ∧
    ∃ s1 bs, gridOf detState 0 = some detGrid ∧ hwRead detState 0 false detGrid.record.farr 64 = (s1, .ok bs) := by
  refine ⟨⟨spawnRead.1, (frameRead spawnRead.1 taskGroup).1, template, frame9, task_alone _ _ _ rfl, rfl, ⟨by decide +kernel, rfl, rfl⟩, rfl,
    pair_ok (by decide +kernel), pair_of (by decide +kernel), by decide, by decide +kernel⟩, by decide,
    ⟨_, frame9, pair_of (by decide +kernel)⟩, ⟨_, _, rfl, pair_get [] (by decide +kernel)⟩⟩

/-- The phase of the group at `await`, with no child pending and with one. -/
def ended (fr : Nat) : State := endPhase (taskState taskGroup 0 64 fr) 0 (nextClause demoIssue) (nextClause demoIssue) 1 0

set_option maxRecDepth 20000 in
theorem ended_frame (fr : Nat) (h : fr = 0 ∨ fr = 1) :
    ∃ g1, groupOf (ended fr) 0 = some g1 ∧ g1.failed = false ∧ ∃ s2 v, frameRead (ended fr) g1 = (s2, some v) ∧ field v 0 32 = fr := by
  rcases h with rfl | rfl
  · obtain ⟨g1, h, hf, hr⟩ := (by decide +kernel : ∃ g1, g1 ∈ groupOf (ended 0) 0 ∧ g1.failed = false ∧ (frameRead (ended 0) g1).2 = some 0)
    exact ⟨g1, h, hf, _, 0, pair_of hr, by decide⟩
  · obtain ⟨g1, h, hf, hr⟩ := (by decide +kernel : ∃ g1, g1 ∈ groupOf (ended 1) 0 ∧ g1.failed = false ∧ (frameRead (ended 1) g1).2 = some 1)
    exact ⟨g1, h, hf, _, 1, pair_of hr, by decide⟩

theorem task_released : groupOf (releaseGroup (taskState taskGroup 0 64 0) 0) 0 = some taskGroup := by decide +kernel
theorem task_written : (hwWrite (releaseGroup (taskState taskGroup 0 64 0) 0) 0 false (taskGroup.frame + 64)
    (phaseRecord taskGroup 0x40 1 0)).2 = none := by decide +kernel
theorem task_performs (v n fr : Nat) :
    Performs (taskState taskGroup v n fr) demoIssue [] taskGroup yes demoThread [demoThread] := one_performs rfl rfl rfl rfl

theorem witness_PhaseEndsParkTheGroup :
    (∃ s2, groupOf (releaseGroup (taskState taskGroup 0 64 0) 0) 0 = some taskGroup ∧
      hwWrite (releaseGroup (taskState taskGroup 0 64 0) 0) 0 false (taskGroup.frame + 64) (phaseRecord taskGroup 0x40 1 0) = (s2, none)) ∧
    ∀ fr, fr = 0 ∨ fr = 1 → Performs (taskState taskGroup 0 64 fr) demoIssue [] taskGroup yes demoThread [demoThread] ∧
      1 ≤ taskGroup.regCount ∧ ∃ g1, groupOf (ended fr) 0 = some g1 ∧ g1.failed = false ∧
        ∃ s2 v, frameRead (ended fr) g1 = (s2, some v) ∧ field v 0 32 = fr :=
  ⟨⟨_, task_released, pair_of task_written⟩, fun fr h => ⟨task_performs 0 64 fr, by decide, ended_frame fr h⟩⟩

/-- The object of v in n bytes as the task reads it, with what the wait on it finds. -/
def objRead (v n : Nat) : State × Except FaultInfo Nat := readObject (taskState taskGroup v n 0) taskGroup demoThread (objOp 0) n .rw
theorem objRead_ok {v n : Nat} (h : (objRead v n).2.toOption = some v) : objRead v n = ((objRead v n).1, .ok v) := pair_ok h

/-- A wait of the group on the object. -/
def waiter : Waiter := { gk := 0, kind := .lacq, obj := 0x1000, part := 0, world := false }
def lockRead : State × Except FaultInfo Nat :=
  readObject { taskState taskGroup 5 16 0 with waiters := [waiter] } taskGroup demoThread (objOp 0) 16 .rw
/-- A delayed call whose count is c. -/
def delayed (c : Nat) : Nat := c + 2 ^ 512 * template

/-- A new future, one to fill, one filled; a lock without and with a waiter; a delayed call at 0, 1 and 2. -/
theorem witness_ObjectUpdateResults :
    (∀ v n, Alone (taskState taskGroup v n 0) demoIssue [] (0, 0) taskGroup demoThread) ∧ guardTrue demoThread yes = true ∧
    readSrc32 .int taskGroup demoThread (.v 2) = .ok 0 ∧ readSrc64 .int taskGroup demoThread (.v 2) = .ok 0 ∧
    (∀ v ∈ [0, 1, 2, 3], ∃ s1, objRead v 32 = (s1, .ok v)) ∧
    (∃ s4 bs s5, hwRead (taskState taskGroup 1 32 0) 0 false 0x1000 32 = (s4, .ok bs) ∧ field (leNat bs) 0 2 < 2 ∧
      hwWrite s4 0 false 0x1000 (leBytes 2 32) = (s5, none)) ∧
    (∃ s1, objRead 5 16 = (s1, .ok 5) ∧ field 5 0 32 = taskGroup.record.taskid ∧ waitersOn (releaseThread s1 0 0) 0 false 0x1000 = []) ∧
    (∃ s1, lockRead = (s1, .ok 5) ∧ waitersOn (releaseThread s1 0 0) 0 false 0x1000 = [waiter]) ∧
    ∀ c ∈ [0, 1, 2], dcdecHeld (objOp 0) (taskState taskGroup (delayed c) 128 0) taskGroup demoThread = false ∧ (∃ s1, objRead (delayed c) 128 = (s1, .ok (delayed c))) ∧
      field (delayed c) 0 32 = c ∧ recordValid (parseRecord (field (delayed c) 512 512)) 0 = true ∧
      (parseRecord (field (delayed c) 512 512)).world = false := by
  refine ⟨fun v n => task_alone v n 0 rfl, rfl, rfl, rfl, ?_, ⟨_, _, _, pair_get [] (by decide +kernel), by decide +kernel, pair_of (by decide +kernel)⟩,
    ⟨_, objRead_ok (by decide +kernel), by decide, by decide +kernel⟩, ⟨_, pair_ok (by decide +kernel), by decide +kernel⟩, ?_⟩
  · intro v h
    simp only [List.mem_cons, List.not_mem_nil, or_false] at h
    rcases h with rfl | rfl | rfl | rfl <;> exact ⟨_, objRead_ok (by decide +kernel)⟩
  · intro c h
    simp only [List.mem_cons, List.not_mem_nil, or_false] at h
    rcases h with rfl | rfl | rfl <;>
      exact ⟨by decide +kernel, ⟨_, objRead_ok (by decide +kernel)⟩, by decide +kernel, by decide +kernel, by decide +kernel⟩

/-- A ring of two entries with its tail and head; nobody's, or task 5's own. -/
def ring (own head tail : Nat) : Nat := own + 2 ^ 32 * own + 2 ^ 64 + 2 ^ 96 * head + 2 ^ 128 * tail
/-- A future of a failed owner; locks of nobody, granted to task 5, granted to a failed task, held by a failed task. -/
def failedFuture : Nat := 7 * 2 ^ 32
def grantedTo (t : Nat) : Nat := t * 2 ^ 64

theorem witness_WaitsThatAreReady :
    (∀ v n, Performs (taskState taskGroup v n 0) demoIssue [] taskGroup yes demoThread [demoThread]) ∧
    (∀ v ∈ [2, 3, failedFuture], ∃ s1, objRead v 32 = (s1, .ok v)) ∧
    (∃ s2, field failedFuture 0 2 < 2 ∧ ownerFailed (objRead failedFuture 32).1 0 (field failedFuture 32 32) = (s2, true)) ∧
    (∀ v ∈ [0, grantedTo 5, grantedTo 7, 7], ∃ s1, objRead v 16 = (s1, .ok v)) ∧
    (∃ s2, ownerFailed (objRead (grantedTo 7) 16).1 0 7 = (s2, true)) ∧ (∃ s2, ownerFailed (objRead 7 16).1 0 7 = (s2, true)) ∧
    (∀ v ∈ [ring 0 0 0, ring 5 0 1, ring 0 4294967295 0], ∃ s1, objRead v 64 = (s1, .ok v)) ∧
    (∀ t ∈ [demoThread], ∃ r, regChecked t 8 4 = .ok r) ∧
    (∃ s2 es, readEntries (objRead (ring 0 0 0) 64).1 taskGroup demoThread 0x1000 (ring 0 0 0) 0 .rw 1 = (s2, .ok es)) ∧
    (∃ s2 es, readEntries (objRead (ring 5 0 1) 64).1 taskGroup demoThread 0x1000 (ring 5 0 1) 0 .r 1 = (s2, .ok es)) ∧
    (∃ s1, objRead 0 8 = (s1, .ok 0) ∧ taskGroup.gid < 2 ^ 32 ∧ field 0 0 32 = taskGroup.gid) ∧
    readSrc32 .int taskGroup demoThread (.v 2) = .ok 0 := by
  refine ⟨fun v n => task_performs v n 0, ?_, ⟨_, by decide, pair_of (by decide +kernel)⟩, ?_, ⟨_, pair_of (by decide +kernel)⟩,
    ⟨_, pair_of (by decide +kernel)⟩, ?_, ?_, ⟨_, _, pair_get [] (by decide +kernel)⟩, ⟨_, _, pair_get [] (by decide +kernel)⟩,
    ⟨_, objRead_ok (by decide +kernel), by decide, by decide⟩, rfl⟩
  · intro v h
    simp only [List.mem_cons, List.not_mem_nil, or_false] at h
    rcases h with rfl | rfl | rfl <;> exact ⟨_, objRead_ok (by decide +kernel)⟩
  · intro v h
    simp only [List.mem_cons, List.not_mem_nil, or_false] at h
    rcases h with rfl | rfl | rfl | rfl <;> exact ⟨_, objRead_ok (by decide +kernel)⟩
  · intro v h
    simp only [List.mem_cons, List.not_mem_nil, or_false] at h
    rcases h with rfl | rfl | rfl <;> exact ⟨_, objRead_ok (by decide +kernel)⟩
  · intro t h
    rw [List.mem_singleton] at h
    subst h
    exact ⟨_, ok_get () (by decide +kernel)⟩

/-- The group after the end of its phase at a wait of a kind on an object. -/
def waits (g : Group) (k : WaitKind) (v n : Nat) : State :=
  let s1 := (readObject (taskState g v n 0) g demoThread (objOp 0) n .rw).1
  endPhase (countWaiter (waitReady s1 0 5 0 k v).1 0 false 0x1000 k 1) 0 4 0 (variantCarry g) 0x1000
def detTask : Group := { taskGroup with record := { taskGroup.record with det := true } }
def waitHolds (g : Group) (k : WaitKind) (v n : Nat) : Bool :=
  match groupOf (waits g k v n) 0 with
  | some x => !x.failed && x.gk == g.gk && x.core == g.core && x.record.det == g.record.det
  | none => false
def readsBack (g : Group) (v n : Nat) : Bool := (readObject (taskState g v n 0) g demoThread (objOp 0) n .rw).2.toOption == some v
def notReady (g : Group) (k : WaitKind) (v n : Nat) : Bool :=
  !(waitReady (readObject (taskState g v n 0) g demoThread (objOp 0) n .rw).1 0 5 0 k v).2

/-- An empty future, a lock of a running task, an empty ring, a full one, a ticket below what a group waits for. -/
theorem witness_WaitsThatAreNotReady :
    (∀ g ∈ [taskGroup, detTask], ∀ e ∈ [(WaitKind.fget, 0, 32), (.lacq, 9, 16), (.qget, ring 0 0 0, 64), (.qput, ring 0 0 2, 64),
        (.tkwait 1, 0, 8)],
      readsBack g e.2.1 e.2.2 = true ∧ notReady g e.1 e.2.1 e.2.2 = true ∧ waitHolds g e.1 e.2.1 e.2.2 = true) ∧
    (readSrc32 .int taskGroup demoThread (.int 17) = .ok 1 ∧ field 0 0 32 < (1 : Word).toNat ∧ (∃ r, regChecked demoThread 8 4 = .ok r) ∧
      (field (ring 0 0 2) 128 32 + 2 ^ 32 - field (ring 0 0 2) 96 32) % 2 ^ 32 = 2 ^ field (ring 0 0 2) 64 4 ∧
      (ownerFailed (taskState taskGroup (ring 0 0 2) 64 0) 0 (field (ring 0 0 2) 32 32)).2 = false) ∧
    (∃ core s l, (coreOf s core).help.reverse.find? (levelDone s) = some l ∧ ∃ g, groupOf s l.waiter = some g ∧ g.run = .parked) ∧
    ∃ core s l, (coreOf s core).help.reverse.find? (levelDone s) = some l ∧ ∀ g, groupOf s l.waiter = some g → g.run ≠ .parked := by
  refine ⟨by decide +kernel, ⟨rfl, by decide, ⟨_, ok_get () (by decide +kernel)⟩, by decide, by decide +kernel⟩,
    ⟨0, { memState with cores := [(0, { help := [{ waiter := 0, kind := .fget, obj := 0x1000, part := 0, world := false, adopted := none }] })]
                        groups := [{ memGroup with run := .parked }] }, _, rfl, _, rfl, rfl⟩,
    ⟨0, { memState with cores := [(0, { help := [{ waiter := 0, kind := .fget, obj := 0x1000, part := 0, world := false, adopted := none }] })] },
      _, rfl, ?_⟩⟩
  intro g h
  cases (show some memGroup = some g from h)
  decide

/-- A group of a deterministic grid with a listed ticket at 0x1000 that has ended its step; one step ended and none committed. -/
def tickGrid : Grid := { detGrid with ticks := [0x1000, 0, 0, 0], started := 1 }
def stepGroup (t : List Nat) : Group := { taskGroup with record := { threads := 1, regs8 := 16, det := true }, stepsEnded := 1, taken := t, run := .exited }
def tickState (t : List Nat) : State := { taskState (stepGroup t) 0 8 0 with grids := [tickGrid], issues := [] }
theorem witness_DeterministicStepResults :
    (∃ g va v s2 v', dueTicket (tickState []) 0 0 = some (g, va, .ok v) ∧
      setTicket (modGroup (tickState []) 0 fun x => { x with taken := x.taken ++ [0] }) 0 false va v' = (s2, none)) ∧
    (gridOf (tickState []) 0 = some tickGrid ∧ mayCommit (tickState []) tickGrid = false) ∧
    ∃ gr s2 s3, gridOf { tickState [0] with grids := [gr] } 0 = some gr ∧ mayCommit { tickState [0] with grids := [gr] } gr = true ∧
      (∀ va ∈ gr.ticks, va = 0) ∧ [stepGroup [0]].Perm ([stepGroup [0]].filter fun x => x.grid == 0 && !x.failed) ∧
      [stepGroup [0]].Pairwise (fun x y => x.gid < y.gid) ∧
      hwUpdate s3 0 false gr.record.farr 64 (fun x => setField x 326 16 (field x 326 16 + 1)) = (s2, none) := by
  refine ⟨⟨stepGroup [], 0x1000, 0, _, 1, ?_, pair_of (by decide +kernel)⟩, ⟨rfl, by decide +kernel⟩,
    { detGrid with started := 1 }, _, [stepGroup [0]].foldl (commitGroup { detGrid with started := 1 }) { tickState [0] with grids := [{ detGrid with started := 1 }] },
    rfl, by decide +kernel, by decide, List.Perm.refl _, by simp, pair_of (by decide +kernel)⟩
  have h : (dueTicket (tickState []) 0 0).map (fun x => (x.1, x.2.1, x.2.2.toOption)) = some (stepGroup [], 0x1000, some 0) := by decide +kernel
  rcases hd : dueTicket (tickState []) 0 0 with _ | ⟨g, va, e | v⟩
  · rw [hd] at h; cases h
  · rw [hd] at h; cases h
  · rw [hd] at h; cases h; rfl

/-- A mesh group with its output buffer at 0x2000, holding slot 0 of its cluster with 64 bytes of payload; a task group; a sample group. -/
def kindGroup (kind : Nat) (gfx : GfxInfo) : Group :=
  { taskGroup with record := { threads := 1, regs8 := 16, kind := kind, taskid := 5 }, gfx := gfx, meshBase := some 0x2000, gid := 3 }
def meshGroup : Group := kindGroup 2 (.mesh 0 0 false)
def withRing (len : Nat) (s : State) : State := { s with clusters := [(0, { ring := [{ owner := some (0, 5), len := len }, {}, {}, {}] })] }
def gfxState (g : Group) : State := withRing 64 (taskState g template 64 0)
def sampleInfo1 : SampleInfo :=
  { die := 0, part := 0, frame := 77, view := 0, strip := 0, q := 0, key := 9, vwords := [], samples := [{ i := 1, j := 2, e0 := 0, e1 := 0, e2 := 0 }]
    reach := [0] }

theorem gfx_alone (g : Group) (hk : g.gk = 0) (hc : viewOf (gfxState g) g = g) (ht : threadOf g 0 = some demoThread) :
    Alone (gfxState g) demoIssue [] (0, 0) g demoThread := by
  refine ⟨rfl, rfl, ?_⟩
  have : groupOf (gfxState g) 0 = some g := by simp [groupOf, gfxState, withRing, taskState, hk]
  simp [memberOf, this, ht, hc]

theorem witness_GeometryThreadResults :
    (∀ g ∈ [meshGroup, kindGroup 1 (.task 0 6), kindGroup 3 (.sample sampleInfo1)],
      memoriesWf (gfxState g) = true ∧ Alone (gfxState g) demoIssue [] (0, 0) g demoThread) ∧
    (readSrc32 .int meshGroup demoThread (.v 2) = .ok 0 ∧ noSyncWaits (gfxState meshGroup) ∧ meshGroup.record.kind = 2 ∧
      meshEnded meshGroup = false ∧ meshGroup.meshBase = some 0x2000 ∧ (0 : Word).toNat < 256 ∧
      (∃ ws, sourceRegs demoThread 8 12 = .ok ws) ∧ ∃ ws, sourceRegs demoThread 8 1 = .ok ws) ∧
    (∃ v, sinfoValue (gfxState meshGroup) meshGroup demoThread 0 60 = .ok v) ∧
    (let p := (clusterOf (gfxState meshGroup) 0).ring.getD 0 {}; 60 % 4 = 0 ∧ 60 < p.len ∧ 60 / 64 ∉ p.poison) ∧
    sampleInfo1.samples[demoThread.idx]? = some { i := 1, j := 2, e0 := 0, e1 := 0, e2 := 0 } ∧
    readSrc32 .f32 (kindGroup 3 (.sample sampleInfo1)) demoThread .one = .ok 0x3F800000 ∧ hasRoom 5 demoThread ∧
    ∃ ws, sourceRegs demoThread 8 2 = .ok ws := by
  refine ⟨?_, ⟨rfl, fun x h => absurd h List.not_mem_nil, rfl, rfl, rfl, by decide, ⟨_, ok_get [] (by decide +kernel)⟩,
    ⟨_, ok_get [] (by decide +kernel)⟩⟩, ⟨_, ok_get 0 (by decide +kernel)⟩, by decide +kernel, rfl, rfl, by unfold hasRoom; decide, ⟨_, ok_get [] (by decide +kernel)⟩⟩
  intro g h
  simp only [List.mem_cons, List.not_mem_nil, or_false] at h
  rcases h with rfl | rfl | rfl <;> exact ⟨by decide +kernel, gfx_alone _ rfl rfl rfl⟩

/-- A mesh template at 0x1000, a payload at the start of the scratchpad, a ring with a free slot and one without. -/
def meshTemplate : Nat := encodeRecord { threads := 1, regs8 := 2, gcount := 1, kind := 2 }
def emitState (full : Bool) : State :=
  let s := taskState (kindGroup 1 (.task 0 6)) meshTemplate 64 0
  if full then { s with clusters := [(0, { ring := List.replicate 4 { owner := some (0, 9) } })] } else s
def emitOp : TaskOp := { taskOp 0 1 (.v 2) 1 4 with as := 2 }
def emitChecked (full : Bool) : State × Option (Except FaultInfo TaskRecord) :=
  temitChecks emitOp (emitState full) (kindGroup 1 (.task 0 6)) demoThread

theorem emit_record (full : Bool) (p : TaskRecord → Bool) (h : ((emitChecked full).2.bind Except.toOption).any p = true) :
    ∃ r, emitChecked full = ((emitChecked full).1, some (.ok r)) ∧ p r = true := by
  rcases hx : emitChecked full with ⟨s, _ | e | r⟩
  · rw [hx] at h; cases h
  · rw [hx] at h; cases h
  · rw [hx] at h; exact ⟨r, rfl, h⟩

theorem witness_GeometryGroupResults :
    (∀ full, Performs (emitState full) demoIssue [] (kindGroup 1 (.task 0 6)) yes demoThread [demoThread]) ∧
    ((∃ r, emitChecked false = ((emitChecked false).1, some (.ok r)) ∧ temitHeld (emitChecked false).1 (kindGroup 1 (.task 0 6)) r = false) ∧
      slotFor (emitChecked false).1 0 0 = some 0) ∧
    ((∃ r, emitChecked true = ((emitChecked true).1, some (.ok r))) ∧
      slotFor (emitChecked true).1 0 0 = none) ∧
    (Performs (gfxState meshGroup) demoIssue [] meshGroup yes demoThread [demoThread] ∧
      (releaseGroup (gfxState meshGroup) 0).issues = (gfxState meshGroup).issues ∧ readSrc64 .int meshGroup demoThread (.v 2) = .ok 0 ∧
      mendFault (gfxState meshGroup) meshGroup 0 = none) ∧
    tdoneFault (gfxState (kindGroup 4 (.recon sampleInfo1))) (kindGroup 4 (.recon sampleInfo1)) (objOp 0) = none := by
  refine ⟨?_, ⟨?_, by decide +kernel⟩, ⟨?_, by decide +kernel⟩,
    ⟨one_performs rfl rfl rfl rfl, by decide +kernel, rfl, by decide +kernel⟩, by decide +kernel⟩
  · rintro (_ | _) <;> exact one_performs rfl rfl rfl rfl
  · obtain ⟨r, h, hr⟩ := emit_record false (fun r => !(temitHeld (emitChecked false).1 (kindGroup 1 (.task 0 6)) r)) (by decide +kernel)
    exact ⟨r, h, by simpa using hr⟩
  · obtain ⟨r, h, -⟩ := emit_record true (fun _ => true) (by decide +kernel)
    exact ⟨r, h⟩

/-- An open frame of one view and one tile; the same without room for bin records. -/
def warp0 : AxisWarp := { n0 := 16, n1 := 0, n2 := 0, b1 := 0, b2 := 0, s0 := 0, s1 := 0, s2 := 0 }
def frame1 : Frame :=
  { grid := 77, part := 0, world := false, fnum := 0, vmask := 1, stmpl := {}, fhist := [0, 0], bins := 0x200000, binkib := 4, views := [(0, {})]
    pool := [0], ts := 1, tiles := [{ q := 0, view := 0, strip := 0, tx := 0, ty := 0, core := 0, slot := 0, assigned := true }]
    latches := [{ view := 0, strip := 0, gaze := 0, x := warp0, y := warp0, jFirst := 0, rows := 16 }] }
def withOp (g : Group) (kind : OpKind) (f : Frame) : State :=
  { gfxState g with ops := [{ heldOp kind with cnt := 5 }], issues := [], dies := [(0, { tlb := [page], frames := [f] })] }
theorem withOp_outstanding (g : Group) (hk : g.gk = 0) (hr : g.run = .resident) (kind : OpKind) (f : Frame) :
    GroupOutstanding (withOp g kind f) 9 (heldOp kind) g :=
  ⟨rfl, rfl, by simp [groupOf, withOp, gfxState, withRing, taskState, heldOp, hk], by rw [hr]; decide, by simp [heldOp], by simp [heldOp]⟩

def sampleGroup : Group := kindGroup 3 (.sample sampleInfo1)
def reconGroup : Group := kindGroup 4 (.recon sampleInfo1)

def combined := combinePlaces (withOp sampleGroup (.tcomb 0 0 [] false) frame1) sampleGroup 0
/-- The frame while the tile of the sample has no slot. -/
def unassigned : Frame := { frame1 with tiles := frame1.tiles.map fun x => { x with assigned := false } }

theorem holdsOp_noWaits : noSyncWaits (withOp sampleGroup (.tcomb 0 0 [] false) frame1) := by
  intro x hx off e d
  rw [List.mem_singleton.mp hx]
  exact OpKind.noConfusion

theorem witness_GeometryOperationsComplete :
    (GroupOutstanding (withOp meshGroup (.binning 0 0 0) frame1) 9 (heldOp (.binning 0 0 0)) meshGroup ∧ meshGroup.meshBase = some 0x2000 ∧
      ((dieOf (withOp meshGroup (.binning 0 0 0) frame1) 0).frames.map fun x => x.grid).Nodup ∧
      (∃ s1, binMeshlet (withOp meshGroup (.binning 0 0 0) frame1) meshGroup 0 0x2000 0 0 0 = (s1, none)) ∧
      (∃ s1 e, binMeshlet (withOp meshGroup (.binning 0 0 0) { frame1 with binsUsed := 9 }) meshGroup 0 0x2000 0 0 0 = (s1, some e)) ∧
      openFrameOf (withOp meshGroup (.binning 0 0 0) frame1) 0 0 = some frame1) ∧
    (GroupOutstanding (withOp sampleGroup (.tcomb 0 0 [] false) frame1) 9 (heldOp (.tcomb 0 0 [] false)) sampleGroup ∧
      (combined.1 = 9 ∧ combined.2 ≠ [] ∧ (∀ x ∈ combined.2, x.1.assigned = true) ∧ noSyncWaits (withOp sampleGroup (.tcomb 0 0 [] false) frame1)) ∧
      ∃ x ∈ (combinePlaces (withOp sampleGroup (.tcomb 0 0 [] false) unassigned) sampleGroup 0).2, x.1.assigned = false) ∧
    (memoriesWf (gfxState sampleGroup) = true ∧ noSyncWaits (gfxState sampleGroup) ∧ scratchPoisoned (gfxState sampleGroup) 0 0 16 = false ∧
      tripleLess 0 9 0 0x3F800000 = true ∧ tripleLess 0 9 0 0 = false) ∧
    GroupOutstanding (withOp reconGroup (.tdone 8 0 0) frame1) 9 (heldOp (.tdone 8 0 0)) reconGroup ∧
      ∃ v, tileView (withOp reconGroup (.tdone 8 0 0) frame1) sampleInfo1 = some v ∧ v.tile.accepted = false := by
  refine ⟨⟨withOp_outstanding _ rfl rfl _ _, rfl, by decide +kernel, ⟨_, pair_of (by decide +kernel)⟩, ?_, by decide +kernel⟩,
    ⟨withOp_outstanding _ rfl rfl _ _, ⟨by decide +kernel, by decide +kernel, by decide +kernel, holdsOp_noWaits⟩, by decide +kernel⟩,
    ⟨by decide +kernel, fun x h => absurd h List.not_mem_nil, by decide +kernel, by decide +kernel, by decide +kernel⟩,
    withOp_outstanding _ rfl rfl _ _, _, rfl, rfl⟩
  · obtain ⟨e, he⟩ := Option.isSome_iff_exists.mp (by decide +kernel :
      (binMeshlet (withOp meshGroup (.binning 0 0 0) { frame1 with binsUsed := 9 }) meshGroup 0 0x2000 0 0 0).2.isSome = true)
    exact ⟨_, e, pair_of he⟩

/-! ## Witnesses for the events of the device and the commands of the host -/

/-- A group whose threads stand at the header of a clause of one `nop` in memory, with a byte of the header's flags. -/
def fetchGroup (ts : List Thread) : Group := { memGroup with threads := ts }
def fetchState (flags : List Host.Cell) (ts : List Thread) : State :=
  { memState with groups := [fetchGroup ts], issues := [], mem := flags ++ [(3, 0x10)] }
def fetchThread : Thread := { demoThread with status := .ready, clause := none }
def clauseThread (st : ThreadStatus) (c : Word) : Thread := { demoThread with status := st, clause := some (c, [0]) }
def fetched (s : State) (t : Thread) : State × Except FaultInfo (Word × List Word) :=
  fetchClause s { ctxOf (fetchGroup [t]) t with core := 0 } t.hdr.toNat

/-- A thread whose clause lies at an address that is not mapped, one with its clause, and two at a reconvergence clause. -/
def farThread : Thread := { fetchThread with pc := 2 ^ 40, hdr := 2 ^ 40 }
def clausedThread : Thread := clauseThread .ready 0x10000000
def heldThread : Thread := clauseThread .held 0x10040000
def secondThread (pc : DWord) : Thread := { heldThread with idx := 1, pc := pc, hdr := pc }
def heldGroup (pc : DWord) : Group := fetchGroup [heldThread, secondThread pc]
def heldState (pc : DWord) : State := fetchState [] [heldThread, secondThread pc]

theorem witness_ClausesAreFetchedAndIssued :
    (∀ e ∈ [([], (0x10000000 : Word)), ([(2, 4)], 0x10040000)],
      threadsOn (fetchState e.1 [fetchThread]) 0 0 (fun _ t => t.status == .ready && t.clause.isNone) = [(fetchGroup [fetchThread], fetchThread)] ∧
      Resident (fetchState e.1 [fetchThread]) (fetchGroup [fetchThread], fetchThread) ∧
      ∃ s1 ws xs, fetched (fetchState e.1 [fetchThread]) fetchThread = (s1, .ok (e.2, ws)) ∧
        checkClause (fetchGroup [fetchThread]).regCount fetchThread.inSup e.2 ws = .ok xs) ∧
    (threadsOn (fetchState [] [farThread]) 0 0 (fun _ t => t.status == .ready && t.clause.isNone) = [(fetchGroup [farThread], farThread)] ∧
      ∃ s1 f, fetched (fetchState [] [farThread]) farThread = (s1, .error f)) ∧
    (mayIssue (fetchState [] [clausedThread]) = true ∧ Resident (fetchState [] [clausedThread]) (fetchGroup [clausedThread], clausedThread) ∧
      laneNumber (fetchGroup [clausedThread]) 0 < 32 ∧ threadsOn (fetchState [] [clausedThread]) 0 0
        (fun _ t => t.status == .ready && t.clause.isSome && waitOver t) = [(fetchGroup [clausedThread], clausedThread)] ∧
      clausedThread.deferred = [] ∧ clausedThread.pc = clausedThread.hdr ∧ subcoreBusy (fetchState [] [clausedThread]) 0 0 = false) ∧
    (∀ pc ∈ [(0 : DWord), 16], mayIssue (heldState pc) = true ∧ groupOf (heldState pc) 0 = some (heldGroup pc) ∧ allHeld (heldGroup pc) = true ∧
      liveThreads (heldGroup pc) = heldThread :: [secondThread pc] ∧ ((heldGroup pc).threads.map fun u => u.idx).Nodup ∧
      ∀ u ∈ liveThreads (heldGroup pc), subcoreBusy (heldState pc) 0 (subcoreOf (heldGroup pc) u.idx) = false) ∧
    (∀ u ∈ liveThreads (heldGroup 0), u.pc = heldThread.hdr ∧ u.hdr = heldThread.hdr ∧ waitOver u = true ∧ u.deferred = [] ∧
      u.clause = some (0x10040000, [0])) ∧
    ∃ v ∈ [secondThread 16], v.pc ≠ heldThread.pc ∨ v.hdr ≠ heldThread.hdr := by
  refine ⟨?_, ⟨by decide +kernel, ?_⟩, ⟨by decide +kernel, ⟨rfl, rfl⟩, by decide +kernel, by decide +kernel, rfl, rfl, by decide +kernel⟩, ?_, by decide +kernel,
    by decide +kernel⟩
  · intro e he
    simp only [List.mem_cons, List.not_mem_nil, or_false] at he
    rcases he with rfl | rfl <;>
      exact ⟨by decide +kernel, ⟨rfl, rfl⟩, _, [0], _, pair_ok (by decide +kernel), ok_get [] (by decide +kernel)⟩
  · obtain ⟨e, he⟩ := pair_error (x := fetched (fetchState [] [farThread]) farThread) (by decide +kernel)
    exact ⟨_, e, he⟩
  · intro pc h
    simp only [List.mem_cons, List.not_mem_nil, or_false] at h
    rcases h with rfl | rfl <;> exact ⟨by decide +kernel, rfl, by decide +kernel, by decide +kernel, by decide, by decide +kernel⟩

/-- Two threads at one place, with and without their clause; a thread whose clause waits for an older one without; held threads that are
younger than a ready thread of another group. -/
def pair (t : Thread) : List Thread := [t, { t with idx := 1 }]
def youngerThread : Thread := { clausedThread with idx := 1, age := 1 }
def youngerHeld : Group := fetchGroup [{ heldThread with age := 1 }]
def olderState : State := { fetchState [] [] with groups := [youngerHeld, { fetchGroup [fetchThread] with gk := 1 }] }

theorem witness_ClausesAreFetchedAndIssued_several :
    (clocksGated (fetchState [] (pair fetchThread)) = false ∧
      threadsOn (fetchState [] (pair fetchThread)) 0 0 (fun _ t => t.status == .ready && t.clause.isNone) =
        (pair fetchThread).map (fun t => (fetchGroup (pair fetchThread), t)) ∧
      (∀ t ∈ pair fetchThread, Resident (fetchState [] (pair fetchThread)) (fetchGroup (pair fetchThread), t) ∧
        samePlace (fetchState [] (pair fetchThread)) (fetchGroup (pair fetchThread), fetchThread) (fetchGroup (pair fetchThread), t) = true) ∧
      ∃ s1 ws xs, fetched (fetchState [] (pair fetchThread)) fetchThread = (s1, .ok (0x10000000, ws)) ∧
        checkClause (fetchGroup (pair fetchThread)).regCount false 0x10000000 ws = .ok xs) ∧
    (mayIssue (fetchState [] (pair clausedThread)) = true ∧
      threadsOn (fetchState [] (pair clausedThread)) 0 0 (fun _ t => t.status == .ready && t.clause.isSome && waitOver t) =
        (pair clausedThread).map (fun t => (fetchGroup (pair clausedThread), t)) ∧
      (∀ t ∈ pair clausedThread, Resident (fetchState [] (pair clausedThread)) (fetchGroup (pair clausedThread), t) ∧ t.deferred = []) ∧
      subcoreBusy (fetchState [] (pair clausedThread)) 0 0 = false ∧ olderOn (fetchState [] (pair clausedThread)) 0 [0] 0 = false) ∧
    (threadsOn (fetchState [] [fetchThread, youngerThread]) 0 0 (fun _ t => t.status == .ready && t.clause.isSome && waitOver t) =
        [(fetchGroup [fetchThread, youngerThread], youngerThread)] ∧
      olderOn (fetchState [] [fetchThread, youngerThread]) 0 [0] youngerThread.age = true) ∧
    (olderOn (heldState 0) 0 ((liveThreads (heldGroup 0)).map fun u => subcoreOf (heldGroup 0) u.idx) (heldAge (heldGroup 0)) = false ∧
      mayIssue olderState = true ∧ groupOf olderState 0 = some youngerHeld ∧ allHeld youngerHeld = true ∧
      olderOn olderState 0 ((liveThreads youngerHeld).map fun u => subcoreOf youngerHeld u.idx) (heldAge youngerHeld) = true) := by
  refine ⟨⟨by decide, by decide +kernel, ?_, _, [0], _, pair_ok (by decide +kernel), ok_get [] (by decide +kernel)⟩,
    ⟨by decide +kernel, by decide +kernel, ?_, by decide +kernel, by decide +kernel⟩, by decide +kernel, by decide +kernel, by decide +kernel, rfl,
    by decide +kernel, by decide +kernel⟩ <;> intro t h <;> simp only [pair, List.mem_cons, List.not_mem_nil, or_false] at h <;>
    rcases h with rfl | rfl
  · exact ⟨⟨rfl, rfl⟩, by decide +kernel⟩
  · exact ⟨⟨rfl, rfl⟩, by decide +kernel⟩
  · exact ⟨⟨rfl, rfl⟩, rfl⟩
  · exact ⟨⟨rfl, rfl⟩, rfl⟩

/-- Partition 0 with a record of a parked thread, numbered or not yet, in a queue of 1 slot that is full or has room. -/
def faultRec (seq : Option Word) : FaultRec := { seq := seq, words := [1, 2, 3, 4, 5, 6, 7, 8], members := [(0, 0)], firsts := [(0, 20, 16)] }
def parkedState (seq : Option Word) (tail : Word) : State :=
  { fetchState [] [{ demoThread with status := .parked seq }] with partitions := [(0, { fqtail := tail, parked := [faultRec seq] })] }

theorem witness_FaultRecordsAndReplay :
    (∀ tail : Word, nextFaultRec (parkedState none tail) 0 = some (faultRec none)) ∧ (faultRec none).words = 1 :: [2, 3, 4, 5, 6, 7, 8] ∧
    (∀ tail : Word, waitingFor (parkedState none tail) (faultRec none) = [(0, 0)]) ∧
    faultRoom (partOf (parkedState none 1) 0) = false ∧ faultRoom (partOf (parkedState none 0) 0) = true ∧
    hostOpen (parkedState (some 3) 4) ∧ parkedUnder (parkedState (some 3) 4) 0 3 = [(0, 0)] ∧
    ∀ r ∈ (partOf (parkedState (some 3) 4) 0).parked, ∀ m ∈ r.members, ∃ e ∈ r.firsts, e.1 = m.1 := by
  refine
  ⟨fun _ => rfl, rfl, fun _ => rfl, by decide +kernel, by decide +kernel, ⟨rfl, rfl, (by decide : (0 : Nat) ≠ 4)⟩, by decide +kernel, by decide +kernel⟩

/-- Partition 0 with clusters 0 and 1, enabled, with a landing of 2^q records per deck; a record, its grid, and decks that hold it. -/
def work : TaskRecord := { threads := 1, regs8 := 2, gcount := 1 }
def entry (n : Nat) : DeckEntry := { record := work, grid := 0, seq := n, slot := n }
def decked (l : List DeckEntry) (lands : List (Nat × DeckEntry)) : Cluster := { decks := [l, [], [], []], landings := [lands, [], [], []], resv := 8 }
def partState (q : Nat) (c : Cluster) (gs : List Group) : State :=
  { memState with groups := gs, issues := [], grids := [{ detGrid with record := work }]
                  partitions := [(0, { pclust := 3, pctl := 1, desc := some { windows with q := q } })], clusters := [(0, c)] }
/-- A core whose lanes are full with four groups of class 3 of 128 registers. -/
def filler (gk : Nat) (st : ThreadStatus) : Group :=
  { demoGroup with gk := gk, record := { threads := 128, regs8 := 16, cls := 3 }, threads := [{ demoThread with status := st }] }
def fullState (st : ThreadStatus) : State := partState 8 (decked [entry 0] []) ((List.range 4).map fun k => filler k st)

def hostWords (r : TaskRecord) (rsv : Nat) : List DWord := (List.range 8).map fun k => BitVec.ofNat 64 (field (encodeRecord r + rsv) (64 * k) 64)
def hostRecord (r : TaskRecord) (rsv : Nat) : TaskRecord := parseRecord (leNat ((hostWords r rsv).flatMap fun w => leBytes w.toNat 8))

/-- A record with room, one without and one of a deterministic grid; one with a reserved bit; a core with an eligible record, an idle and a
full one, and one without; a deck that is empty and one at its low mark. -/
theorem witness_RecordsAreQueuedAndDispatched :
    (∀ c ∈ [decked [] [], decked [] [(0, entry 0)]], hostOpen (partState 0 c []) ∧ (partOf (partState 0 c []) 0).pctl.getLsbD 0 = true ∧
      enqueueCluster (partState 0 c []) 0 0 0 = some 0) ∧
    (recordValid (hostRecord work 0) 0 = true ∧ (hostRecord work 0).cls = 0 ∧ (hostRecord work 0).det = false ∧
      landingLeft (partState 0 (decked [] []) []) 0 0 0 = 1 ∧ landingLeft (partState 0 (decked [] [(0, entry 0)]) []) 0 0 0 = 0) ∧
    (recordValid (hostRecord { work with det := true, lcores := 1 } 0) 0 = true ∧ (hostRecord { work with det := true, lcores := 1 } 0).det = true) ∧
    (recordValid (hostRecord work (2 ^ 511)) 0 = false ∧ (hostWords work 0).length = 8) ∧
    (ownPick (partState 8 (decked [entry 0] []) []) 0 = some (0, entry 0) ∧
      (∃ room, roomFor (partState 8 (decked [entry 0] []) []) 0 0 work (parkedOf (partState 8 (decked [entry 0] []) []) (entry 0)) = some room)) ∧
    (ownPick (fullState .ready) 0 = some (0, entry 0) ∧ roomFor (fullState .ready) 0 0 work (parkedOf (fullState .ready) (entry 0)) = none) ∧
    (residents (partState 8 (decked [entry 0] []) []) 8 = [] ∧ gated (partState 8 (decked [entry 0] []) []) 1 = false ∧
      ownPick (partState 8 (decked [entry 0] []) []) 8 = none ∧ stealPick (partState 8 (decked [entry 0] []) []) 8 = some (0, 0, entry 0) ∧
      ∃ room, roomFor (partState 8 (decked [entry 0] []) []) 8 0 work (parkedOf (partState 8 (decked [entry 0] []) []) (entry 0)) = some room) ∧
    (ownerOf (partState 8 (decked [] [(0, entry 0)]) []) 0 = some 0 ∧ (deckOf (partState 8 (decked [] [(0, entry 0)]) []) 0 0).length < Config.deckLow ∧
      landingOf (partState 8 (decked [] [(0, entry 0)]) []) 0 0 ≠ [] ∧
      waitingOf (partState 8 (decked [] [(0, entry 0)]) []) 0 0 = [] ∧ ∀ d ∈ (refillMany 0 0 0 Config.deckRefill (partState 8 (decked [] [(0, entry 0)]) [])).dies, d.2.frames = []) ∧
    (Config.deckLow ≤ (deckOf (partState 8 (decked (List.replicate Config.deckLow (entry 0)) []) []) 0 0).length) ∧
    ((∀ c ∈ [0, 8], testDue (partState 8 (decked [entry 0] []) []) c = false) ∧ clocksGated (partState 8 (decked [entry 0] []) []) = false ∧
      clocksGated (partState 8 (decked [] [(0, entry 0)]) []) = false ∧ clocksGated { memState with pstate := 3 } = true ∧
      testDue { memState with cores := [(0, { help := [{ waiter := 9, kind := .fget, obj := 0x1000, part := 0, world := false, adopted := none }] })] } 0 = true) := by
  refine ⟨?_, by decide +kernel, by decide +kernel, by decide +kernel, ⟨by decide +kernel, ?_⟩, by decide +kernel,
    ⟨by decide +kernel, by decide +kernel, by decide +kernel, by decide +kernel, ?_⟩, by decide +kernel, by decide +kernel, by decide +kernel⟩
  · unfold hostOpen
    decide +kernel
  · exact Option.isSome_iff_exists.mp (by decide +kernel)
  · exact Option.isSome_iff_exists.mp (by decide +kernel)

/-- A group that has ended, with its frame in memory, in a grid of its own; one with a child left. -/
def endedGroup (det : Bool) : Group := { taskGroup with record := { threads := 1, regs8 := 16, taskid := 5, det := det }, run := .exited }
def endedState (det : Bool) (pending : Nat) : State := { taskState (endedGroup det) 0 64 pending with grids := [{ detGrid with parent := 0 }], issues := [] }
/-- A pre-empted group of one thread that stopped at its clause. -/
def awayGroup : Group := { memGroup with record := { threads := 1, regs8 := 2, cls := 3 }, regCount := 16, run := .preempted, threads := [fetchThread] }
def awayState : State := { partState 8 (decked [] []) [awayGroup] with issues := [] }
def outGroup : Group := { awayGroup with run := .resident }
def outState : State := { awayState with groups := [outGroup] }

theorem witness_GroupsRetireAndArePreempted :
    (groupOf (endedState false 1) 0 = some (endedGroup false) ∧ mayRetire (endedState false 1) (endedGroup false) = false) ∧
    (∀ det ∈ [false, true], groupOf (endedState det 0) 0 = some (endedGroup det) ∧ mayRetire (endedState det 0) (endedGroup det) = true ∧
      ((endedState det 0).groups.map fun x => x.gk).Nodup) ∧
    (∀ st ∈ [ThreadStatus.ready, .issuing], ownPick (fullState st) 0 = some (0, entry 0) ∧ isReserved (fullState st) 0 = true ∧
      roomFor (fullState st) 0 0 work (parkedOf (fullState st) (entry 0)) = none ∧ victimsFor (fullState st) 0 (entry 0) = some [filler 3 st]) ∧
    (groupOf outState 0 = some outGroup ∧ needsHeaders outGroup.record = false ∧ ∃ g1 s1, groupOf (releaseGroup outState 0) 0 = some g1 ∧
      hwWrite (releaseGroup outState 0) g1.record.part false (preemptVa (releaseGroup outState 0) g1) (preemptRecord g1) = (s1, none)) ∧
    (groupOf awayState 0 = some awayGroup ∧ awayGroup.run = .preempted ∧ ∃ core seat s1 bs, resumeCore awayState awayGroup = some (core, seat) ∧
      hwRead (acquireCore awayState core) 0 false (preemptVa (acquireCore awayState core) awayGroup) (6144 + 512 * awayGroup.regCount) = (s1, .ok bs)) := by
  refine ⟨⟨rfl, by decide +kernel⟩, ?_, ?_, ⟨rfl, by decide, outGroup, _, by decide +kernel, pair_of (by decide +kernel)⟩, rfl, rfl, 0,
    { sub := 0, lane := 0, ctx := 0 }, _, _, by decide +kernel, pair_get [] (by decide +kernel)⟩
  · decide +kernel
  · decide +kernel

/-- The page of the host's reads is poisoned; a window of the invalidate page that holds pieces. -/
def invCmd : Nat := 1 + 0 * 2 ^ 16
def pieces (n : Nat) : State :=
  { memState with dies := [(0, { tlb := [page, devPage], window := [((0, 0), ((List.range 4).map fun k => BitVec.ofNat 64 (field invCmd (64 * k) 64)).take n)] })] }
def queuedInv (op : Nat) : State := { memState with dies := [(0, { tlb := [page], inv := [(0, [{ op := op, asid := 0, npg := 1, start := 0, fut := 0, core := none }])] })] }

/-- A host that takes lines compressed, and a page whose lines are. -/
def packing : State := { memState with hostCap := 1, dies := [(0, { tlb := [{ page with pte := 0x43F }] })] }
/-- The bytes of a line as the host reads them, and whether they are poisoned. -/
def hostLine (va len : Nat) (s : State) : State × Option (List Byte × Bool) :=
  match translateParts s (hwCtx 0 false) .r (splitSectors va len) with
  | (s, .ok ps) => let x := readPieces s (hwCtx 0 false) ps; (x.1, some x.2)
  | (s, .error _) => (s, none)

theorem witness_HostAccessResults :
    (∀ n, hostOpen (pieces n)) ∧ hostOpen { memState with poison := [0] } ∧
    ((hostLine 511 1 memState).2 = some ([0], false) ∧ (hostLine 0 512 { memState with poison := [0] }).2 = some (List.replicate 512 0, true)) ∧
    ((hostLine 0 512 packing).2 = some (List.replicate 512 0, false) ∧ packing.hostCap.getLsbD 0 = true ∧
      sizeTag (List.replicate 512 0) ≠ 7 ∧ hostOpen packing) ∧
    (∃ s1 f, translateParts memState (hwCtx 0 false) .r (splitSectors (2 ^ 40 : DWord).toNat 1) = (s1, .error f)) ∧
    (∃ s1 ps, translateParts memState (hwCtx 0 false) .w (splitSectors (508 : DWord).toNat [(1 : Byte), 2, 3, 4].length) = (s1, .ok ps)) ∧
    (∃ s1 f, translateParts memState (hwCtx 0 false) .w (splitSectors (2 ^ 40 : DWord).toNat [(1 : Byte)].length) = (s1, .error f)) ∧
    (∃ s1 ps, translateParts memState (hwCtx 0 false) .w (splitSectors (508 : DWord).toNat [some (1 : Byte), none, some 3].length) = (s1, .ok ps)) ∧
    (∃ r ∈ enabledRuns 0 [some (1 : Byte), none, some 3], r = (2, [3])) ∧
    (((outOf memState 0).dmode.getLsbD 0 = false) ∧ ({ memState with outputs := [(0, { dmode := 1 })] }.outputs.length = 1) ∧
      (outOf { memState with outputs := [(0, { dmode := 1 })] } 0).dmode.getLsbD 0 = true) ∧
    (∀ n, (tget (dieOf (pieces n) 0).inv [] 0).length < 64) ∧
    (∀ n ∈ [0, 1, 2, 3], ((((dieOf (pieces n) 0).window.find? fun e => e.1 == (0, 0)).map fun e => e.2).getD []).length = n) ∧
    (parseInv { memState with dies := [(0, { tlb := [page, devPage] })] } 0 0
      (leNat (([invCmd, 0, 0, 0].map fun w => BitVec.ofNat 64 w).flatMap fun w => leBytes w.toNat 8)) (writerCore 0)).2 = true ∧
    64 ≤ (tget (dieOf { memState with dies := [(0, { inv := [(0, List.replicate 64 { op := 1, asid := 0, npg := 0, start := 0, fut := 0, core := none })] })] }
      0).inv [] 0).length := by
  refine ⟨fun _ => ⟨rfl, rfl, (by decide : (0 : Nat) ≠ 4)⟩, ⟨rfl, rfl, (by decide : (0 : Nat) ≠ 4)⟩, by decide +kernel,
    ⟨by decide +kernel, by decide +kernel, by decide +kernel, ⟨rfl, rfl, (by decide : (0 : Nat) ≠ 4)⟩⟩, ?_, ⟨_, _, pair_get [] (by decide +kernel)⟩, ?_, ⟨_, _, pair_get [] (by decide +kernel)⟩, by decide, by decide,
    fun _ => (by decide : 0 < 64), by decide +kernel, by decide +kernel, by decide +kernel⟩
  · obtain ⟨e, he⟩ := pair_error (x := translateParts memState (hwCtx 0 false) .r (splitSectors (2 ^ 40 : DWord).toNat 1)) (by decide +kernel)
    exact ⟨_, e, he⟩
  · obtain ⟨e, he⟩ := pair_error (x := translateParts memState (hwCtx 0 false) .w (splitSectors (2 ^ 40 : DWord).toNat [(1 : Byte)].length)) (by decide +kernel)
    exact ⟨_, e, he⟩

theorem witness_InvalidatesDropTranslations :
    (∀ e ∈ invalidates, ∃ c rest, tget (dieOf (queuedInv e.2) 0).inv [] 0 = c :: rest ∧ c.op = e.2 ∧ roundHeld (queuedInv e.2) 0 c = false) ∧
    (∀ e ∈ invalidates, ∀ c rest, tget (dieOf (queuedInv (e.2 + 1)) 0).inv [] 0 = c :: rest → c.op ≠ e.2) ∧
    page ∈ (dieOf (dropEntries (queuedInv 0) 0 0 { op := 0, asid := 0, npg := 1, start := 2 ^ 30, fut := 0, core := none }).1 0).tlb ∧
    (∃ c : InvCmd, c.op = 1 ∧ c.op ≠ 2) := by
  refine ⟨?_, ?_, by decide +kernel, { op := 1, asid := 0, npg := 0, start := 0, fut := 0, core := none }, rfl, by decide⟩
  · intro e he
    exact ⟨_, [], rfl, rfl, rfl⟩
  · intro e he c rest h
    have h' : [({ op := e.2 + 1, asid := 0, npg := 1, start := 0, fut := 0, core := none } : InvCmd)] = c :: rest := h
    cases h'
    exact Nat.succ_ne_self _

/-- A moving l2place with a line read three times from slice 5; a dirty L1 line in a flume. -/
def farLine : L2Line := { line := 3, slice := 0, near := 5, run := 3 }
def dirtyLine : L1Line := { asid := 0, line := 0, part := 0, dirty := [(3, 7)], attr := leafAttr page.pte.toNat }
def placed (v : Word) : State := { modPart memState 0 (fun q => { q with pways := 1 }) with l2place := v, dies := [(0, { tlb := [page], l2 := [farLine] })] }
def flumed : State := { memState with cores := [(0, { l1 := [dirtyLine], flume := [(0, 0)] })] }
def movable (s : State) (l : L2Line) : Bool := l.line == 3 && l.near == 5 && l.slice != 5 && decide (l.run ≥ max 1 (s.l2place.toNat / 16 % 16))

theorem witness_PlacementAndPowerResults :
    hostOpen memState ∧ (∀ v ∈ [(4 : Word), 5, 6], ({ memState with pstate := v }).pstate.getLsbD 2 = true ∧ hostOpen { memState with pstate := v }) ∧
    (memState.pstate.getLsbD 2 = false ∧ (0 : Word).toNat % 4 = memState.pstate.toNat % 4 ∧ (2 : Word).toNat % 4 ≠ memState.pstate.toNat % 4 ∧
      (2 : Word).toNat % 4 ≠ 3) ∧
    (hasWork { memState with grids := [detGrid] } 0 = true ∧ hostOpen { memState with grids := [detGrid] } ∧ (7 : Word).toNat % 4 = 3) ∧
    (∀ o < 2, (outOf memState o).dmode.getLsbD 0 = false) ∧
    ((placed 0x183).l2place = 0x183 ∧ (0x183 : Word).getLsbD 8 = true ∧ (placed 0x83).l2place = 0x83 ∧ (0x83 : Word).getLsbD 8 = false ∧
      (0x83 : Word).getLsbD 0 = true ∧ (placed 0x82).l2place = 0x82 ∧ (0x82 : Word).getLsbD 0 = false) ∧
    ((placed 0x33).dies.findSome? fun d => (d.2.l2.find? (movable (placed 0x33))).map fun l => (d.1, l)) = some (0, farLine) ∧
    (takeWay (placed 0x33) 0 5 3).2 = some 0 ∧
    (coreOf memState 0).flume = [] ∧ ((coreOf flumed 0).flume = [(0, 0)] ∧ l1Find flumed 0 0 0 = some dirtyLine ∧ dirtyLine.dirty ≠ []) ∧
    (memState.fatal = false ∧ ({ memState with fatal := true }).fatal = true) ∧
    (memState.pcap.toNat < 4095 ∧ memState.capNext = none ∧ ({ memState with capNext := some 5 }).capNext = some 5) := by
  refine ⟨⟨rfl, rfl, (by decide : (0 : Nat) ≠ 4)⟩, ?_, by decide +kernel, ⟨by decide +kernel, ⟨rfl, rfl, (by decide : (0 : Nat) ≠ 4)⟩, by decide⟩, by decide +kernel,
    ⟨rfl, by decide, rfl, by decide, by decide, rfl, by decide⟩, by decide +kernel, by decide +kernel, by decide +kernel, by decide +kernel, ⟨rfl, rfl⟩, by decide, rfl, rfl⟩
  intro v h
  simp only [List.mem_cons, List.not_mem_nil, or_false] at h
  rcases h with rfl | rfl | rfl <;> exact ⟨by decide, ⟨rfl, rfl, (by decide : (0 : Nat) ≠ 4)⟩⟩

/-- Partition 0 with a descriptor at 0x1000 whose areas lie in its gigabyte, waiting for the check of its enable. -/
def descBytes : List Byte :=
  List.flatMap (fun w => leBytes w 8) [0x10000, 0x20000, 0x40000, 0x100000, 0x108000, 0x40000000, 10 + 8 * 2 ^ 8]
/-- Tables of three levels whose last one maps a normal page and a device page of 1 GB. -/
def tables : Mem := memWrite (memWrite (memWrite [] 0x2000 (leBytes 0x3001 8)) 0x3000 (leBytes 0x4001 8)) 0x4000 (leBytes (0x3F + 2 ^ 64 * 0x4000011F) 16)
def enabling (at' : DWord) : State :=
  { memState with groups := [], issues := [], regions := [{ part := 0, secure := false, die := 0, gb := 0 }], mem := memWrite tables 0x1000 descBytes
                  partitions := [(0, { pctl := 4, pdesc := at', proot := 0x2000 })] }
/-- Partition 0 enabled, idle or with work, under key generation 1, with a recovery point of one sector. -/
def stream1 : Stream := { part := 0, gen := 1, sectors := [{ sector := 9, poisoned := false, bytes := List.replicate 64 5, tag := none, size := none }] }
def enabled (gs : List Grid) : State :=
  { memState with groups := [], issues := [], grids := gs, streams := [stream1], partitions := [(0, { pctl := 1, pkeyst := 3, desc := some windows })] }

/-- The partition under the generation that its check raises. -/
def keyed (s : State) : State := modPart s 0 fun q => { q with pkeyst := BitVec.ofNat 32 (2 * (q.pkeyst.toNat / 2 + 1) + 1) }

theorem witness_PartitionAndRecoveryResults :
    (hostOpen (enabling 0x1000) ∧ (1 : Word).getLsbD 0 = true ∧ (partOf (enabling 0x1000) 0).pctl.getLsbD 2 = true ∧
      (∃ k, enableCheck (keyed (enabling 0)) 0 = .error k) ∧ (partOf (enabling 0) 0).pctl.getLsbD 2 = true ∧
      (∃ d, enableCheck (keyed (enabling 0x1000)) 0 = .ok d) ∧ (partOf (enabling 0x1000) 0).pkeyst.toNat < 2 ^ 31) ∧
    (hostOpen memState ∧ (partOf memState 0).pctl.getLsbD 2 = false ∧ (partOf memState 0).pctl.getLsbD 0 = false) ∧
    (∀ e ∈ [([], false), ([detGrid], true)], hostOpen (enabled e.1) ∧ (partOf (enabled e.1) 0).pctl.getLsbD 2 = false ∧
      (partOf (enabled e.1) 0).pctl.getLsbD 0 = true ∧ hasWork (enabled e.1) 0 = e.2) ∧
    (isHost (2 ^ 51 : DWord).toNat = true ∧ (2 ^ 51 : DWord).toNat + 0 < 2 ^ 52) ∧
    ((enabled []).streams[0]? = some stream1 ∧ stream1.part = 0 ∧ stream1.gen = (partOf (enabled []) 0).pkeyst.toNat / 2 ∧
      memoriesWf (enabled []) = true ∧ (stream1.sectors.map fun e => e.sector).Nodup ∧ ∀ e ∈ stream1.sectors, e.bytes.length = 64) := by
  refine ⟨⟨⟨rfl, rfl, (by decide : (0 : Nat) ≠ 4)⟩, by decide, by decide, ?_, by decide, ⟨_, ok_get windows (by decide +kernel)⟩, by decide⟩, ⟨⟨rfl, rfl, (by decide : (0 : Nat) ≠ 4)⟩, by decide, by decide⟩, ?_, by decide, rfl, rfl, rfl, by decide +kernel,
    by decide, by decide⟩
  · exact error_of (by decide +kernel)
  · intro e h
    simp only [List.mem_cons, List.not_mem_nil, or_false] at h
    rcases h with rfl | rfl <;> exact ⟨⟨rfl, rfl, (by decide : (0 : Nat) ≠ 4)⟩, by decide, by decide, by decide⟩

/-- An output at 100 units a line and 10000 a frame, the frame f of it with strips of 8 rows, and a state at a time. -/
def timing0 : Timing := { fnum := 0, fbase := 1000, fper := 10000, lper := 256 * 100, k := 2, lead := 1, h := 16, w := 16 }
def out0 (dmode : Word) (scan : Option Scan) : Output :=
  { fbase := 1000, fper := 10000, lper := 256 * 100, kstrip := 2, lead := 1, dmode := dmode, dsize := 16 + 65536 * 16, scan := scan }
def frame2 (closed : Bool) (started : Nat) : Frame :=
  { frame1 with fhist := [0x300000, 0], timing := [(0, timing0)], geomClosed := closed, started := started, launched := 0 }
def shown (t : Nat) (x : Output) (fs : List Frame) : State :=
  { memState with issues := [], devtime := t, outputs := [(0, x)], dies := [(0, { tlb := [page], frames := fs })] }
def line (row : Nat) : Scan := { timing := timing0, row := row, opened := false }

theorem witness_DisplayAndStripResults :
    (∀ m : Word, hostOpen (shown 0 (out0 m none) [])) ∧
    ((out0 0 none).dmode.getLsbD 0 = false ∧ (out0 1 none).dmode.getLsbD 0 = true ∧ (out0 1 none).dmode.getLsbD 2 = false ∧
      (0 : Word).getLsbD 0 = false ∧ (3 : Word).getLsbD 0 = true) ∧
    (dueStrip (shown 0 (out0 5 none) [frame2 false 0]) 0 = none ∧
      (dueStrip (shown 1000 (out0 5 none) [frame2 false 0]) 0).map (fun e => (e.1, e.2.2)) = some (0, 0, timing0)) ∧
    (scanDue (shown 0 (out0 5 none) []) (out0 5 none) = false ∧ scanDue (shown 1000 (out0 5 none) []) (out0 5 none) = true) ∧
    (∀ row ∈ [0, 14, 15], (outOf (shown 2500 (out0 5 (some (line row))) []) 0).scan = some (line row) ∧
      timing0.fbase + timing0.fnum.toNat * timing0.fper + row * timing0.lper / 256 ≤ 2500 ∧
      999 < timing0.fbase + timing0.fnum.toNat * timing0.fper + row * timing0.lper / 256) ∧
    (openFrameOf (shown 1000 (out0 5 none) [frame2 true 0]) 0 0 = some (frame2 true 0) ∧
      stripDue (shown 1000 (out0 5 none) [frame2 true 0]) (frame2 true 0) = true) ∧
    (∀ f, openFrameOf (shown 1000 (out0 5 none) [frame2 false 0]) 0 0 = some f → stripDue (shown 1000 (out0 5 none) [frame2 false 0]) f = false) ∧
    (sending (out0 5 none) = true ∧ sending (out0 1 none) = false ∧ ({ out0 5 none with fper := 0 }).fper = 0) ∧
    ∃ t v, (dieOf (shown 1000 (out0 5 none) [frame2 true 1]) 0).frames = [frame2 true 1] ∧ (frame2 true 1).part = 0 ∧
      ((frame2 true 1).tiles.find? fun t => t.q == 0 && reconDue (frame2 true 1) t) = some t ∧
      ((frame2 true 1).views.find? fun v => v.1 == t.view) = some v := by
  refine ⟨fun _ => ⟨rfl, rfl, (by decide : (0 : Nat) ≠ 4)⟩, by decide, ⟨by decide +kernel, by decide +kernel⟩, ⟨by decide +kernel, by decide +kernel⟩, by decide +kernel,
    ⟨by decide +kernel, by decide +kernel⟩, ?_, by decide, ?_⟩
  · intro f h
    rw [show openFrameOf (shown 1000 (out0 5 none) [frame2 false 0]) 0 0 = some (frame2 false 0) by decide +kernel] at h
    cases h
    decide +kernel
  · exact ⟨{ q := 0, view := 0, strip := 0, tx := 0, ty := 0, core := 0, slot := 0, assigned := true }, (0, {}), rfl, rfl, by decide +kernel, rfl⟩

/-- The state that an outcome answers. -/
def nextOf (x : Host.Outcome State Fault Refusal) : Option State :=
  match x with
  | .next t => some t
  | _ => none
theorem nextOf_some {x : Host.Outcome State Fault Refusal} {t : State} (h : nextOf x = some t) : x = .next t := by
  rcases x with t | f | r
  · cases h; rfl
  · cases h
  · cases h
theorem next_of {x : Host.Outcome State Fault Refusal} {P : State → Prop} (h : ∃ t, t ∈ nextOf x ∧ P t) : ∃ t, x = .next t ∧ P t :=
  h.elim fun t h => ⟨t, nextOf_some h.1, h.2⟩

/-- The nop of the state goes on; the event of a register write has no encoding. -/
theorem witness_StepRunsTheDecodedInstruction :
    (demo.agenda = [] ∧ demo.fatal = false ∧ demo.issues = demoIssue :: [] ∧ decodeWords (demoIssue.words.drop demoIssue.off) = .ok (.nop, 1) ∧
      ∃ t, exec .nop demo = .next t ∧ t.issues ≠ demo.issues) ∧
    (∀ m ∈ demoIssue.members, ∀ g u, memberOf demo m = some (g, u) → u.pw = 0 ∧ ∀ d ∈ u.deferred, d.1 ≠ 7) ∧
    encode (.pstateWrite 0) = [] ∧ ({ demo with agenda := [.event (.pstateWrite 0)] }).fatal = false := by
  refine ⟨⟨rfl, rfl, rfl, by decide +kernel, next_of (by decide +kernel)⟩, ?_, rfl, rfl⟩
  intro m hm g u h
  rw [List.mem_singleton.mp hm] at h
  cases (show some (demoGroup, demoThread) = some (g, u) from h)
  exact ⟨rfl, fun d hd => absurd hd List.not_mem_nil⟩

/-- An instruction of two words, and one word that another follows. -/
theorem witness_DecodeAndEncodeAgree :
    (Instr.engRtrace { reply := true, d := 8, a := .v 2, b := .v 4, g := yes, wait := 1, imm := 0 }).wf = true ∧
    encode (.engRtrace { reply := true, d := 8, a := .v 2, b := .v 4, g := yes, wait := 1, imm := 0 }) ≠ [] ∧
    ∃ ws i n, decodeWords ws = .ok (i, n) ∧ i.wf = true ∧ ws.length = n + 1 :=
  ⟨by decide +kernel, by decide +kernel, [0x01040102, 0], .iadd { nw := false, d := 4, a := .v 1, b := .v 2 }, 1, by decide +kernel, by decide +kernel, rfl⟩

theorem witness_StepKeepsMemoriesCanonical : memoriesWf memState = true ∧ ∃ t, step memState = .next t ∧ t.issues ≠ memState.issues :=
  ⟨by decide +kernel, next_of (by decide +kernel)⟩

end Sys2Proof.Tests
end

section
/-! SUPPORT. The generator of R127 on 64-bit words: each of the model's rounds on numbers is a round on words. -/
namespace Sys2Proof.Machine

/-- One round of R127 on a 64-bit word. -/
def srRoundWord (x : DWord) : DWord :=
  let x := x ^^^ (x >>> 32)
  let x := x * 0xE27B4D19A6C358F1#64
  x ^^^ (x >>> 29)

theorem toNat_xor_ushiftRight (x : DWord) (n : Nat) : (x ^^^ (x >>> n)).toNat = x.toNat ^^^ (x.toNat / 2 ^ n) := by
  rw [BitVec.toNat_xor, BitVec.toNat_ushiftRight, Nat.shiftRight_eq_div_pow]

/-- Two 32-bit words side by side are a number of two digits. -/
theorem toNat_append_words (a b : Word) : (a ++ b).toNat = a.toNat % 2 ^ 32 * 2 ^ 32 + b.toNat % 2 ^ 32 := by
  rw [BitVec.toNat_append, ← Nat.shiftLeft_add_eq_or_of_lt b.isLt, Nat.shiftLeft_eq, Nat.mod_eq_of_lt a.isLt,
    Nat.mod_eq_of_lt b.isLt]

/-- A product of words, from the numbers of its factors: a large multiplier stays a factor, not a numeral that the kernel unfolds. -/
theorem toNat_mul_of_toNat {x c : DWord} {a n : Nat} (hx : x.toNat = a) (hc : c.toNat = n) : (x * c).toNat = a * n % 2 ^ 64 := by
  rw [BitVec.toNat_mul, hx, hc]

theorem srRoundWord_toNat (x : DWord) : (srRoundWord x).toNat = srRound x.toNat := by
  unfold srRoundWord srRound
  dsimp only
  rw [toNat_xor_ushiftRight, toNat_mul_of_toNat (toNat_xor_ushiftRight x 32) (n := 0xE27B4D19A6C358F1) (by decide)]

theorem srbits_toNat (k n i j : Word) :
    srbits k.toNat n.toNat i.toNat j.toNat =
      (srRoundWord (srRoundWord (srRoundWord ((k ++ n) ^^^ ((i ++ j) * 0x9A3F6C1D52E8B7A5#64))))).toNat / 2 ^ 32 := by
  rw [srRoundWord_toNat, srRoundWord_toNat, srRoundWord_toNat, BitVec.toNat_xor, toNat_append_words,
    toNat_mul_of_toNat (toNat_append_words i j) (n := 0x9A3F6C1D52E8B7A5) (by decide), srbits]

end Sys2Proof.Machine

open Sys2Proof.Machine

/-- Settles O14: each round of the model is the round on 64-bit words, and division by 2^32 takes the high word. -/
theorem randomBitsFollowTheRounds : Obligations.RandomBitsFollowTheRounds := by
  intro k n i j
  dsimp only
  rw [srbits_toNat, ← Nat.shiftRight_eq_div_pow]
  rfl
end

section
/-! SUPPORT. Values on the extended real line: exact sums of dyadic numbers, and the model's order of values is the order of places. -/
namespace Sys2Proof.Machine
open Sys2Proof.Claims

/-- The rational number that a dyadic pair stands for. -/
def dyadic (a : Int × Int) : ℚ := a.1 * 2 ^ a.2

/-- A dyadic number on a finer scale. -/
theorem dyadic_rescale (n : Int) {e e' : Int} (h : e' ≤ e) : dyadic (n * ((2 ^ (e - e').toNat : Nat) : Int), e') = dyadic (n, e) := by
  have hpow : ((2 : ℚ) ^ (e - e').toNat) * 2 ^ e' = 2 ^ e := by
    rw [← zpow_natCast, ← zpow_add₀ two_ne_zero, Int.toNat_of_nonneg (by omega)]
    congr 1
    omega
  simp only [dyadic]
  push_cast
  rw [mul_assoc, hpow]

theorem dyadic_add_same (n n' e : Int) : dyadic (n + n', e) = dyadic (n, e) + dyadic (n', e) := by
  simp [dyadic, add_mul]

theorem dyadic_addDyadic (a b : Int × Int) : dyadic (addDyadic a b) = dyadic a + dyadic b := by
  obtain ⟨n, e⟩ := a
  obtain ⟨n', e'⟩ := b
  unfold addDyadic
  split
  · next h => simp [dyadic, show n = 0 from h]
  · split
    · next h => simp [dyadic, show n' = 0 from h]
    · split
      · next h => rw [dyadic_add_same, dyadic_rescale n' h]
      · next h => rw [dyadic_add_same, dyadic_rescale n (not_le.mp h).le]

theorem dyadic_neg_iff (a : Int × Int) : dyadic a < 0 ↔ a.1 < 0 := by
  have hpos : (0 : ℚ) < 2 ^ a.2 := zpow_pos two_pos _
  exact ⟨fun h => Int.cast_lt_zero.mp (neg_of_mul_neg_left h hpos.le), fun h => mul_neg_of_neg_of_pos (Int.cast_lt_zero.mpr h) hpos⟩

theorem dyadic_neg (n e : Int) : dyadic (-n, e) = -dyadic (n, e) := by simp [dyadic]

theorem place_fin (s : Bool) (m : Nat) (e : Int) : place (.fin s m e) = some ((dyadic (signedMag s m, e) : ℚ) : WithTop ℚ) := by
  cases s <;> simp [place, dyadic, signedMag]

theorem less_iff_of_place {x y : FVal} {a b : WithBot (WithTop ℚ)} (hx : place x = some a) (hy : place y = some b) :
    less x y ↔ a < b := by
  simp [less, hx, hy]

/-- The model's order is the order of places on the extended real line; a NaN is on neither side. -/
theorem ltVal_iff_less (x y : FVal) : ltVal x y = true ↔ less x y := by
  cases x with
  | nan q => simp [ltVal, less, place]
  | inf s =>
    cases y with
    | nan q => simp [ltVal, less, place]
    | inf s' => cases s <;> cases s' <;> simp [ltVal, less, place]
    | fin s' m' e' =>
      rw [less, place_fin]
      cases s <;> simp [ltVal, place]
  | fin s m e =>
    cases y with
    | nan q => simp [ltVal, less, place]
    | inf s' =>
      cases s' with
      | true => simp [ltVal, less, place]
      | false => simpa [ltVal] using (less_iff_of_place (place_fin s m e) rfl).mpr (WithBot.coe_lt_coe.mpr (WithTop.coe_lt_top _))
    | fin s' m' e' =>
      rw [less_iff_of_place (place_fin s m e) (place_fin s' m' e'), WithBot.coe_lt_coe, WithTop.coe_lt_coe, ← sub_neg,
        sub_eq_add_neg, ← dyadic_neg, ← dyadic_addDyadic, dyadic_neg_iff]
      simp [ltVal]

theorem ltVal_eq_false_iff (x y : FVal) : ltVal x y = false ↔ ¬ less x y := by
  rw [← ltVal_iff_less, Bool.not_eq_true]

theorem less_irrefl (x : FVal) : ¬ less x x := by
  rintro ⟨a, b, ha, hb, h⟩
  rw [ha] at hb
  exact (Option.some.inj hb ▸ h).false

theorem less_asymm {x y : FVal} (h : less x y) : ¬ less y x := by
  obtain ⟨a, b, ha, hb, hab⟩ := h
  rw [less_iff_of_place hb ha]
  exact hab.asymm

theorem same_symm {x y : FVal} (h : same x y) : same y x := by
  obtain ⟨a, hx, hy⟩ := h
  exact ⟨a, hy, hx⟩

theorem not_less_of_same {x y : FVal} (h : same x y) : ¬ less x y := by
  obtain ⟨a, ha, hb⟩ := h
  rw [less_iff_of_place ha hb]
  exact lt_irrefl a

end Sys2Proof.Machine
end

section
/-! SUPPORT. minimumNumber, maximumNumber (R130), the sign operations and `fsat` (R142) on values, and what they make of encodings. -/
namespace Sys2Proof.Machine
open Sys2Proof.Claims

/-! ## Minimum and maximum -/

theorem place_eq_none {x : FVal} (h : place x = none) : ∃ q, x = .nan q := by
  cases x with
  | nan q => exact ⟨q, rfl⟩
  | inf s => cases s <;> cases h
  | fin s m e => cases h

/-- Beside a NaN a number is returned, for two NaNs the canonical one. -/
theorem minMax_of_nan (w : Bool) (x y : FVal) :
    (place x = none → place y = none → minMax w x y = .nan false) ∧ (place x = none → place y ≠ none → minMax w x y = y) ∧
      (place x ≠ none → place y = none → minMax w x y = x) := by
  refine ⟨fun hx hy => ?_, fun hx hy => ?_, fun hx hy => ?_⟩
  · obtain ⟨_, rfl⟩ := place_eq_none hx
    obtain ⟨_, rfl⟩ := place_eq_none hy
    rfl
  · obtain ⟨_, rfl⟩ := place_eq_none hx
    cases y with
    | nan q => exact absurd rfl hy
    | inf s => rfl
    | fin s m e => rfl
  · obtain ⟨_, rfl⟩ := place_eq_none hy
    cases x with
    | nan q => exact absurd rfl hx
    | inf s => rfl
    | fin s m e => rfl

theorem minMax_of_place (w : Bool) {x y : FVal} (hx : place x ≠ none) (hy : place y ≠ none) :
    minMax w x y = if (ltVal x y || (!ltVal y x && negOf x && !negOf y)) != w then x else y := by
  cases x with
  | nan q => exact absurd rfl hx
  | inf s =>
    cases y with
    | nan q => exact absurd rfl hy
    | inf s' => rfl
    | fin s' m' e' => rfl
  | fin s m e =>
    cases y with
    | nan q => exact absurd rfl hy
    | inf s' => rfl
    | fin s' m' e' => rfl

/-- x may stand before y: y is not below it, and at the same place a negative y has a negative x before it (−0 below +0). -/
structure Before (x y : FVal) : Prop where
  notBelow : ¬ less y x
  negative : same x y → negOf y = true → negOf x = true

theorem Before.nonnegative {x y : FVal} (h : Before x y) (hs : same x y) (hx : negOf x = false) : negOf y = false := by
  cases hy : negOf y with
  | false => rfl
  | true => exact absurd (h.negative hs hy) (by simp [hx])

/-- Minimum and maximum part two numbers: one stands before the other, the minimum is the first and the maximum the second. -/
theorem minMax_before {x y : FVal} (hx : place x ≠ none) (hy : place y ≠ none) :
    (minMax false x y = x ∧ minMax true x y = y ∧ Before x y) ∨ (minMax false x y = y ∧ minMax true x y = x ∧ Before y x) := by
  rw [minMax_of_place false hx hy, minMax_of_place true hx hy]
  cases hc : ltVal x y || (!ltVal y x && negOf x && !negOf y) with
  | true =>
    refine .inl ⟨rfl, rfl, ?_⟩
    simp only [Bool.or_eq_true, Bool.and_eq_true, Bool.not_eq_true', ltVal_iff_less, ltVal_eq_false_iff] at hc
    rcases hc with h | ⟨⟨hyx, hnx⟩, -⟩
    · exact ⟨less_asymm h, fun hs => absurd h (not_less_of_same hs)⟩
    · exact ⟨hyx, fun _ _ => hnx⟩
  | false =>
    refine .inr ⟨rfl, rfl, ?_⟩
    simp only [Bool.or_eq_false_iff, Bool.and_eq_false_imp, Bool.and_eq_true, Bool.not_eq_true', Bool.not_eq_false',
      ltVal_eq_false_iff] at hc
    obtain ⟨hxy, hsign⟩ := hc
    exact ⟨hxy, fun hs hnx => hsign ⟨not_less_of_same hs, hnx⟩⟩

theorem isMinimum_minMax (x y : FVal) : IsMinimum x y (minMax false x y) := by
  obtain ⟨hnn, hny, hnx⟩ := minMax_of_nan false x y
  refine ⟨hnn, hny, hnx, fun hx hy => ?_⟩
  rcases minMax_before hx hy with ⟨hz, -, h⟩ | ⟨hz, -, h⟩
  · rw [hz]
    exact ⟨.inl rfl, less_irrefl x, h.notBelow, fun hs hn => hn.elim id (h.negative hs)⟩
  · rw [hz]
    exact ⟨.inr rfl, h.notBelow, less_irrefl y, fun hs hn => hn.elim (h.negative (same_symm hs)) id⟩

theorem isMaximum_minMax (x y : FVal) : IsMaximum x y (minMax true x y) := by
  obtain ⟨hnn, hny, hnx⟩ := minMax_of_nan true x y
  refine ⟨hnn, hny, hnx, fun hx hy => ?_⟩
  rcases minMax_before hx hy with ⟨-, hz, h⟩ | ⟨-, hz, h⟩
  · rw [hz]
    exact ⟨.inr rfl, h.notBelow, less_irrefl y, fun hs hn => hn.elim (h.nonnegative hs) id⟩
  · rw [hz]
    exact ⟨.inl rfl, less_irrefl x, h.notBelow, fun hs hn => hn.elim id (h.nonnegative (same_symm hs))⟩

/-! ## Saturation -/

/-- `fsat` on a value; a NaN is not above zero. -/
def satVal (x : FVal) : FVal :=
  if !ltVal (.fin false 0 0) x then .fin false 0 0 else if !ltVal x (.fin false 1 0) then .fin false 1 0 else x

theorem isSaturated_satVal (x : FVal) : IsSaturated x (satVal x) := by
  have hpos := ltVal_iff_less (.fin false 0 0) x
  have hone := ltVal_iff_less x (.fin false 1 0)
  refine ⟨fun h => ?_, fun h0 h1 => ?_, fun h0 h1 => ?_⟩
  · have hn : ¬ less (.fin false 0 0) x := h.elim (fun hx => by rintro ⟨_, _, _, hb, _⟩; simp [hx] at hb) id
    simp [satVal, mt hpos.mp hn]
  · simp [satVal, hpos.mpr h0, mt hone.mp h1]
  · simp [satVal, hpos.mpr h0, hone.mpr h1]

/-! ## Encodings -/

/-- The formats of packed operands and of all lane arithmetic (R129, R141). -/
def packedFormats : List FParams := [f16P, bf16P]
def arithFormats : List FParams := f32P :: f64P :: packedFormats

theorem f16P_mem : f16P ∈ packedFormats := .head _
theorem bf16P_mem : bf16P ∈ packedFormats := .tail _ (.head _)
theorem f32P_mem : f32P ∈ arithFormats := .head _
theorem f64P_mem : f64P ∈ arithFormats := .tail _ (.head _)
theorem mem_arithFormats_of_packed {p : FParams} (h : p ∈ packedFormats) : p ∈ arithFormats := .tail _ (.tail _ h)

/-- An arithmetic format flushes what the statements' operands flush. -/
theorem operand_eq {p : FParams} (hp : p ∈ arithFormats) (fpm : Word) (a : Nat) : decodeFlt p (flushes fpm p) a = operand p fpm a := by
  simp only [arithFormats, packedFormats, List.mem_cons, List.not_mem_nil, or_false] at hp
  rcases hp with rfl | rfl | rfl | rfl <;> rfl

theorem sigFlags_eq (xs : List FVal) : sigFlags xs = signalling xs := by
  rw [sigFlags, signalling]
  congr 1
  induction xs with
  | nil => rfl
  | cons x xs ih =>
    rw [List.any_cons, List.contains_cons, ih]
    cases x with
    | nan q => cases q <;> rfl
    | inf s => rfl
    | fin s m e => rfl

theorem orFlags_signalling (xs ys : List FVal) : orFlags (signalling xs) (signalling ys) = signalling (xs ++ ys) := by
  simp [orFlags, signalling]

theorem minMaxBits_eq {p : FParams} (hp : p ∈ arithFormats) (w : Bool) (fpm : Word) (a b : Nat) :
    minMaxBits p w fpm a b =
      (encoded p (minMax w (operand p fpm a) (operand p fpm b)), signalling [operand p fpm a, operand p fpm b]) := by
  simp only [minMaxBits, operand_eq hp, sigFlags_eq, encoded]

/-- A NaN has one encoding, so a sign operation may as well quiet it. -/
theorem encoded_absVal (p : FParams) (x : FVal) : encoded p (absVal x) = encoded p (withoutSign x) := by cases x <;> rfl

theorem encoded_negVal (p : FParams) (x : FVal) : encoded p (negVal x) = encoded p (withOtherSign x) := by cases x <;> rfl

theorem signBits_eq {p : FParams} (hp : p ∈ arithFormats) {f h : FVal → FVal} (hf : ∀ x, encoded p (f x) = encoded p (h x))
    (fpm : Word) (a : Nat) : signBits p f fpm a = (encoded p (h (operand p fpm a)), signalling [operand p fpm a]) := by
  rw [← hf, signBits, operand_eq hp, sigFlags_eq, encoded]

theorem satBits_eq (fpm : Word) (a : Nat) :
    satBits fpm a = (encoded f32P (satVal (operand f32P fpm a)), signalling [operand f32P fpm a]) := by
  have hop : operand f32P fpm a = decodeFlt f32P (fpmFtz fpm) a := rfl
  rw [← sigFlags_eq, hop, satBits]
  cases decodeFlt f32P (fpmFtz fpm) a <;> rfl

end Sys2Proof.Machine
end

section
/-! SUPPORT. An encoding that `round_to()` answers fits the width of its format, so the halves of a packed result stand apart. -/
namespace Sys2Proof.Machine
open Sys2Proof.Claims

/-- The greatest exponent field, the greatest fraction under it and the NaN of a format fit their fields. -/
structure FieldsFit (p : FParams) : Prop where
  exponent : p.maxE < 2 ^ p.ebits
  fraction : p.maxF < 2 ^ p.fbits
  nan : p.nan < 2 ^ (p.ebits + p.fbits + 1)

theorem packFlt_lt {p : FParams} {e f : Nat} (neg : Bool) (he : e < 2 ^ p.ebits) (hf : f < 2 ^ p.fbits) :
    packFlt p neg e f < 2 ^ (p.ebits + p.fbits + 1) := by
  have hsign : neg.toNat * 2 ^ (p.ebits + p.fbits) ≤ 2 ^ (p.ebits + p.fbits) := by
    simpa using Nat.mul_le_mul_right (2 ^ (p.ebits + p.fbits)) neg.toNat_le
  have hexp : (e + 1) * 2 ^ p.fbits ≤ 2 ^ (p.ebits + p.fbits) := by
    rw [pow_add]
    exact Nat.mul_le_mul_right _ he
  rw [packFlt, pow_succ]
  linarith

theorem infEnc_lt {p : FParams} (hp : FieldsFit p) (neg sat : Bool) : infEnc p neg sat < 2 ^ (p.ebits + p.fbits + 1) := by
  have hmax := packFlt_lt neg hp.exponent hp.fraction
  unfold infEnc
  split
  · exact hmax
  · split
    · exact packFlt_lt neg (Nat.sub_lt (by positivity) one_pos) (by positivity)
    · split
      · exact hp.nan
      · exact hmax

theorem roundedUp_le (up : Bool) {lo n : Nat} (h : lo < n) : (if up then lo + 1 else lo) ≤ n := by
  cases up with
  | false => exact h.le
  | true => exact h

/-- A magnitude rounded to a multiple of 2^q that leaves k bits below its leading one: at most the next power of two. -/
theorem roundMag_le {m k : Nat} {e q : Int} (mode : Nat) (neg : Bool) (u : Nat) (hq : (Nat.log2 m : Int) + e - k ≤ q) :
    (roundMag mode neg u m e q).1 ≤ 2 ^ (k + 1) := by
  have hm : m < 2 ^ (m.log2 + 1) := Nat.lt_log2_self
  unfold roundMag
  split
  · next h =>
    calc m * 2 ^ (e - q).toNat ≤ 2 ^ (m.log2 + 1) * 2 ^ (e - q).toNat := Nat.mul_le_mul_right _ hm.le
      _ = 2 ^ (m.log2 + 1 + (e - q).toNat) := (pow_add ..).symm
      _ ≤ 2 ^ (k + 1) := Nat.pow_le_pow_right two_pos (by omega)
  · next h =>
    have hlo : m / 2 ^ (q - e).toNat < 2 ^ (k + 1) := by
      refine Nat.div_lt_of_lt_mul (hm.trans_le ?_)
      rw [← pow_add]
      exact Nat.pow_le_pow_right two_pos (by omega)
    exact roundedUp_le _ hlo

/-- A number rounded up to a power of two is halved. -/
theorem carried_lt {k n : Nat} {q : Int} (hn : n ≤ 2 ^ (k + 1)) :
    (if n ≥ 2 ^ (k + 1) then (n / 2, q + 1) else (n, q)).1 < 2 ^ (k + 1) := by
  split
  · exact (Nat.div_le_div_right hn).trans_lt (Nat.div_lt_self (Nat.two_pow_pos _) one_lt_two)
  · next h => exact not_le.mp h

/-- Without its leading one a number fits the fraction field. -/
theorem fraction_lt {k n : Nat} (hn : n < 2 ^ (k + 1)) : (if n < 2 ^ k then n else n - 2 ^ k) < 2 ^ k := by
  rw [pow_succ] at hn
  split <;> omega

/-- Of the encodings of a finite value the rounded one turns on its fraction, carried where rounding reached a power of two, and on
its exponent field, which the overflow test bounds (R124). -/
theorem roundFlt_lt {p : FParams} (hp : FieldsFit p) (flush sat : Bool) (mode u : Nat) (x : FVal) :
    (roundFlt p flush sat mode u x).1 < 2 ^ (p.ebits + p.fbits + 1) := by
  have hzero : ∀ neg, packFlt p neg 0 0 < 2 ^ (p.ebits + p.fbits + 1) := fun neg => packFlt_lt neg (by positivity) (by positivity)
  cases x with
  | nan q => exact hp.nan
  | inf neg => exact infEnc_lt hp neg sat
  | fin neg m e =>
    unfold roundFlt
    dsimp only
    split
    · exact hzero neg
    · generalize hq : (if (Nat.log2 m : Int) + e - p.fbits < 1 - (p.bias : Int) - p.fbits then 1 - (p.bias : Int) - p.fbits
        else (Nat.log2 m : Int) + e - p.fbits) = q
      have hn := roundMag_le (m := m) (e := e) (k := p.fbits) (q := q) mode neg u (by subst hq; split <;> omega)
      generalize roundMag mode neg u m e q = r at *
      obtain ⟨n, inexact⟩ := r
      dsimp only at *
      have hn' := carried_lt (q := q) hn
      generalize (if n ≥ 2 ^ (p.fbits + 1) then (n / 2, q + 1) else (n, q)) = r at *
      obtain ⟨n', q'⟩ := r
      dsimp only at *
      have hfrac := fraction_lt hn'
      generalize (if n' < 2 ^ p.fbits then n' else n' - 2 ^ p.fbits) = frac at *
      generalize (if n' < 2 ^ p.fbits then 0 else (q' + p.fbits + p.bias).toNat) = field at *
      split
      · split
        · exact packFlt_lt neg hp.exponent hp.fraction
        · exact infEnc_lt hp neg sat
      · next hover =>
        split
        · exact hzero neg
        · refine packFlt_lt neg (lt_of_le_of_lt ?_ hp.exponent) hfrac
          simp only [Bool.or_eq_true, decide_eq_true_eq, not_or, not_lt] at hover
          exact hover.1

/-- A packed format has 16 bits, and its fields fit. -/
theorem encoded_lt_of_packed {p : FParams} (hp : p ∈ packedFormats) (x : FVal) : encoded p x < 65536 := by
  simp only [packedFormats, List.mem_cons, List.not_mem_nil, or_false] at hp
  rcases hp with rfl | rfl
  · exact roundFlt_lt ⟨by decide, by decide, by decide⟩ ..
  · exact roundFlt_lt ⟨by decide, by decide, by decide⟩ ..

/-! ## Halves of a word -/

theorem toNat_lowHalf (a : Word) : (a.extractLsb' (16 * 0) 16).toNat = a.toNat % 65536 := by simp

theorem toNat_highHalf (a : Word) : (a.extractLsb' (16 * 1) 16).toNat = a.toNat / 65536 := by
  have := a.isLt
  rw [BitVec.extractLsb'_toNat, Nat.shiftRight_eq_div_pow]
  omega

theorem ofNat_halves {lo : Nat} (hi : Nat) (h : lo < 65536) :
    BitVec.ofNat 32 (lo + 65536 * hi) = BitVec.ofNat 16 hi ++ BitVec.ofNat 16 lo := by
  apply BitVec.eq_of_toNat_eq
  rw [BitVec.toNat_append, ← Nat.shiftLeft_add_eq_or_of_lt (BitVec.isLt _), Nat.shiftLeft_eq, BitVec.toNat_ofNat,
    BitVec.toNat_ofNat, BitVec.toNat_ofNat]
  omega

end Sys2Proof.Machine
end

section
/-! SUPPORT. What lane instructions of one and of two sources answer, from the operation they run, and the instructions of minimum,
maximum, sign and `fsat` with their operations as values and flags. -/
namespace Sys2Proof.Machine
open Sys2Proof.Claims

variable {ins : Instr} {k : SrcKind} {p : FParams} {s : State} {i : Issue} {rest : List Issue}

/-! ## Instructions by operand shape -/

theorem laneDone_bin32 {o : RBin} {f : Group → Word → Word → Word × Flags}
    (hx : exec ins s = .next (runLanes s 1 (bin32 k o f))) (hd : Head s i rest)
    (hr : ∀ m ∈ i.members, reads32 s k o.a m ∧ reads32 s k o.b m) :
    LaneDone ins s i rest 1 (fun g t => put32 t o.nw o.d (f g (src32 k g t o.a) (src32 k g t o.b)).1)
      fun g t => (f g (src32 k g t o.a) (src32 k g t o.b)).2 :=
  runs_lanes hx hd fun m hm => by
    obtain ⟨ha, hb⟩ := hr m hm
    obtain ⟨g, t, hmem, hra⟩ := reads32_member ha
    exact ⟨g, t, hmem, bin32_ok hra (reads32_of hmem hb), put32_idx ..⟩

theorem laneDone_bin64 {o : RBin} {f : Group → DWord → DWord → DWord × Flags}
    (hx : exec ins s = .next (runLanes s 1 (bin64 k o f))) (hd : Head s i rest)
    (hr : ∀ m ∈ i.members, reads64 s k o.a m ∧ reads64 s k o.b m) :
    LaneDone ins s i rest 1 (fun g t => put64 t o.nw o.d (f g (src64 k g t o.a) (src64 k g t o.b)).1)
      fun g t => (f g (src64 k g t o.a) (src64 k g t o.b)).2 :=
  runs_lanes hx hd fun m hm => by
    obtain ⟨ha, hb⟩ := hr m hm
    obtain ⟨g, t, hmem, hra⟩ := reads64_member ha
    exact ⟨g, t, hmem, bin64_ok hra (reads64_of hmem hb), put64_idx ..⟩

theorem laneDone_un32 {o : RUn} {f : Group → Word → Word × Flags} (hx : exec ins s = .next (runLanes s 1 (un32 k o f)))
    (hd : Head s i rest) (hr : ∀ m ∈ i.members, reads32 s k o.a m) :
    LaneDone ins s i rest 1 (fun g t => put32 t o.nw o.d (f g (src32 k g t o.a)).1) fun g t => (f g (src32 k g t o.a)).2 :=
  runs_lanes hx hd fun m hm => by
    obtain ⟨g, t, hmem, hra⟩ := reads32_member (hr m hm)
    exact ⟨g, t, hmem, un32_ok hra, put32_idx ..⟩

theorem laneDone_un64 {o : RUn} {f : Group → DWord → DWord × Flags} (hx : exec ins s = .next (runLanes s 1 (un64 k o f)))
    (hd : Head s i rest) (hr : ∀ m ∈ i.members, reads64 s k o.a m) :
    LaneDone ins s i rest 1 (fun g t => put64 t o.nw o.d (f g (src64 k g t o.a)).1) fun g t => (f g (src64 k g t o.a)).2 :=
  runs_lanes hx hd fun m hm => by
    obtain ⟨g, t, hmem, hra⟩ := reads64_member (hr m hm)
    exact ⟨g, t, hmem, un64_ok hra, put64_idx ..⟩

/-! ## Minimum and maximum, by width -/

theorem laneDone_minMax32 {o : RBin} (w : Bool) (hx : exec ins s = .next (runLanes s 1 (bin32 .f32 o (f32Op (minMaxBits f32P w)))))
    (hd : Head s i rest) (hr : ∀ m ∈ i.members, reads32 s .f32 o.a m ∧ reads32 s .f32 o.b m) :
    let v (g : Group) (t : Thread) (a : Src) := operand f32P g.ctl.fpm (src32 .f32 g t a).toNat
    LaneDone ins s i rest 1 (fun g t => put32 t o.nw o.d (BitVec.ofNat 32 (encoded f32P (minMax w (v g t o.a) (v g t o.b)))))
      fun g t => signalling [v g t o.a, v g t o.b] := by
  simpa only [f32Op, minMaxBits_eq f32P_mem] using laneDone_bin32 hx hd hr

theorem laneDone_minMax64 {o : RBin} (w : Bool) (hx : exec ins s = .next (runLanes s 1 (bin64 .f64 o (f64Op (minMaxBits f64P w)))))
    (hd : Head s i rest) (hr : ∀ m ∈ i.members, reads64 s .f64 o.a m ∧ reads64 s .f64 o.b m) :
    let v (g : Group) (t : Thread) (a : Src) := operand f64P g.ctl.fpm (src64 .f64 g t a).toNat
    LaneDone ins s i rest 1 (fun g t => put64 t o.nw o.d (BitVec.ofNat 64 (encoded f64P (minMax w (v g t o.a) (v g t o.b)))))
      fun g t => signalling [v g t o.a, v g t o.b] := by
  simpa only [f64Op, minMaxBits_eq f64P_mem] using laneDone_bin64 hx hd hr

theorem laneDone_minMaxPacked {o : RBin} (hp : p ∈ packedFormats) (w : Bool)
    (hx : exec ins s = .next (runLanes s 1 (bin32 k o (packed (minMaxBits p w))))) (hd : Head s i rest)
    (hr : ∀ m ∈ i.members, reads32 s k o.a m ∧ reads32 s k o.b m) :
    let v (h : Nat) (g : Group) (t : Thread) (a : Src) := operand p g.ctl.fpm ((src32 k g t a).extractLsb' (16 * h) 16).toNat
    let half (h : Nat) (g : Group) (t : Thread) := encoded p (minMax w (v h g t o.a) (v h g t o.b))
    LaneDone ins s i rest 1 (fun g t => put32 t o.nw o.d (BitVec.ofNat 16 (half 1 g t) ++ BitVec.ofNat 16 (half 0 g t)))
      fun g t => signalling [v 0 g t o.a, v 0 g t o.b, v 1 g t o.a, v 1 g t o.b] := by
  simpa only [packed, minMaxBits_eq (mem_arithFormats_of_packed hp), orFlags_signalling, List.cons_append, List.nil_append,
    ofNat_halves _ (encoded_lt_of_packed hp _), toNat_lowHalf, toNat_highHalf] using laneDone_bin32 hx hd hr

/-! ## Sign instructions and `fsat` -/

theorem laneDone_sign32 {o : RUn} {f h : FVal → FVal} (hf : ∀ x, encoded f32P (f x) = encoded f32P (h x))
    (hx : exec ins s = .next (runLanes s 1 (un32 .f32 o (f32Un (signBits f32P f))))) (hd : Head s i rest)
    (hr : ∀ m ∈ i.members, reads32 s .f32 o.a m) :
    let v (g : Group) (t : Thread) := operand f32P g.ctl.fpm (src32 .f32 g t o.a).toNat
    LaneDone ins s i rest 1 (fun g t => put32 t o.nw o.d (BitVec.ofNat 32 (encoded f32P (h (v g t))))) fun g t => signalling [v g t] := by
  simpa only [f32Un, signBits_eq f32P_mem hf] using laneDone_un32 hx hd hr

theorem laneDone_sign64 {o : RUn} {f h : FVal → FVal} (hf : ∀ x, encoded f64P (f x) = encoded f64P (h x))
    (hx : exec ins s = .next (runLanes s 1 (un64 .f64 o (f64Un (signBits f64P f))))) (hd : Head s i rest)
    (hr : ∀ m ∈ i.members, reads64 s .f64 o.a m) :
    let v (g : Group) (t : Thread) := operand f64P g.ctl.fpm (src64 .f64 g t o.a).toNat
    LaneDone ins s i rest 1 (fun g t => put64 t o.nw o.d (BitVec.ofNat 64 (encoded f64P (h (v g t))))) fun g t => signalling [v g t] := by
  simpa only [f64Un, signBits_eq f64P_mem hf] using laneDone_un64 hx hd hr

theorem laneDone_fsat {o : RUn} (hd : Head s i rest) (hr : ∀ m ∈ i.members, reads32 s .f32 o.a m) :
    let v (g : Group) (t : Thread) := operand f32P g.ctl.fpm (src32 .f32 g t o.a).toNat
    LaneDone (.fsat o) s i rest 1 (fun g t => put32 t o.nw o.d (BitVec.ofNat 32 (encoded f32P (satVal (v g t)))))
      fun g t => signalling [v g t] := by
  have hx : exec (.fsat o) s = .next (runLanes s 1 (un32 .f32 o (f32Un satBits))) := rfl
  simpa only [f32Un, satBits_eq] using laneDone_un32 hx hd hr

end Sys2Proof.Machine

open Sys2Proof Sys2Proof.Machine Sys2Proof.Claims

/-- Settles O7: the values are the model's `minMax`, sign operations and `satVal`, whose laws are over the extended real line. -/
theorem floatExtremeAndSignResults : Obligations.FloatExtremeAndSignResults := by
  refine ⟨fun o s i rest hd => ⟨fun e he hr => ?_, fun e he hr => ?_, fun e he hr => ?_⟩,
    fun o s i rest hd => ⟨fun hr => ?_, fun hr => ?_⟩⟩
  · simp only [extreme32, List.mem_cons, List.not_mem_nil, or_false] at he
    rcases he with rfl | rfl
    · exact ⟨_, isMinimum_minMax, laneDone_minMax32 false rfl hd hr⟩
    · exact ⟨_, isMaximum_minMax, laneDone_minMax32 true rfl hd hr⟩
  · simp only [extreme64, List.mem_cons, List.not_mem_nil, or_false] at he
    rcases he with rfl | rfl
    · exact ⟨_, isMinimum_minMax, laneDone_minMax64 false rfl hd hr⟩
    · exact ⟨_, isMaximum_minMax, laneDone_minMax64 true rfl hd hr⟩
  · simp only [extremePacked, List.mem_cons, List.not_mem_nil, or_false] at he
    rcases he with rfl | rfl | rfl | rfl
    · exact ⟨_, isMinimum_minMax, laneDone_minMaxPacked f16P_mem false rfl hd hr⟩
    · exact ⟨_, isMaximum_minMax, laneDone_minMaxPacked f16P_mem true rfl hd hr⟩
    · exact ⟨_, isMinimum_minMax, laneDone_minMaxPacked bf16P_mem false rfl hd hr⟩
    · exact ⟨_, isMaximum_minMax, laneDone_minMaxPacked bf16P_mem true rfl hd hr⟩
  · exact ⟨laneDone_sign32 (encoded_absVal f32P) rfl hd hr, laneDone_sign32 (encoded_negVal f32P) rfl hd hr,
      satVal, isSaturated_satVal, laneDone_fsat hd hr⟩
  · exact ⟨laneDone_sign64 (encoded_absVal f64P) rfl hd hr, laneDone_sign64 (encoded_negVal f64P) rfl hd hr⟩
end

section
/-! SUPPORT. Lane instructions that read nothing, and guarded ones of one register (R69); the pair of `rnd` as key and count (R147). -/
namespace Sys2Proof.Machine
open Sys2Proof.Claims

variable {ins : Instr} {s : State} {i : Issue} {rest : List Issue} {m : Nat × Nat} {g : Group} {t : Thread} {gd : Guard}

theorem isMember_iff : isMember s m = true ↔ ∃ g t, memberOf s m = some (g, t) := by
  simp [isMember, Option.isSome_iff_exists]

theorem guardHolds_of (hm : memberOf s m = some (g, t)) : guardHolds s gd m = guardTrue t gd := by
  simp [guardHolds, hm]

/-- What a member whose guard is true reads, one 32-bit source after another. -/
theorem guardedReads32_of {as : List (SrcKind × Src)} (hm : memberOf s m = some (g, t)) (hg : guardTrue t gd = true)
    (h : guardedReads32 s gd as m) : ∀ e ∈ as, readSrc32 e.1 g t e.2 = .ok (src32 e.1 g t e.2) :=
  fun e he => reads32_of hm (h.2 ((guardHolds_of hm).trans hg) e he)

/-- The same for 64-bit sources. -/
theorem guardedReads64_of {as : List (SrcKind × Src)} (hm : memberOf s m = some (g, t)) (hg : guardTrue t gd = true)
    (h : guardedReads64 s gd as m) : ∀ e ∈ as, readSrc64 e.1 g t e.2 = .ok (src64 e.1 g t e.2) :=
  fun e he => reads64_of hm (h.2 ((guardHolds_of hm).trans hg) e he)

/-- An instruction that reads no source that can fault and raises no flag. -/
theorem laneDone_plain {w : Nat} {res : Group → Thread → Thread} (hx : exec ins s = .next (runLanes s w fun g t => plain (res g t)))
    (hd : Head s i rest) (hm : ∀ m ∈ i.members, isMember s m) (hidx : ∀ g t, (res g t).idx = t.idx) :
    LaneDone ins s i rest w res noFlags :=
  runs_lanes hx hd fun m hmi => by
    obtain ⟨g, t, hmem⟩ := isMember_iff.mp (hm m hmi)
    exact ⟨g, t, hmem, rfl, hidx g t⟩

theorem guarded32_idx (nw : Bool) (d : BitVec 7) (r : Group → Thread → Word) (g : Group) (t : Thread) :
    (guarded32 gd nw d r g t).idx = t.idx := by
  unfold guarded32
  split
  · exact put32_idx ..
  · exact keep32_idx ..

/-- A guarded instruction without flags: where the guard is true its operands give a result, and elsewhere the destination stays. -/
theorem laneDone_guarded32 {w : Nat} {nw : Bool} {d : BitVec 7} {f : Group → Thread → LaneOut} {r : Group → Thread → Word}
    (hx : exec ins s = .next (runLanes s w fun g t => if guardTrue t gd then f g t else plain (keep32 t nw d)))
    (hd : Head s i rest) (hm : ∀ m ∈ i.members, isMember s m)
    (hf : ∀ m ∈ i.members, ∀ g t, memberOf s m = some (g, t) → guardTrue t gd = true → f g t = plain (put32 t nw d (r g t))) :
    LaneDone ins s i rest w (guarded32 gd nw d r) noFlags :=
  runs_lanes hx hd fun m hmi => by
    obtain ⟨g, t, hmem⟩ := isMember_iff.mp (hm m hmi)
    refine ⟨g, t, hmem, ?_, guarded32_idx ..⟩
    cases hg : guardTrue t gd with
    | true => simpa [guarded32, hg, plain, noFlags] using hf m hmi g t hmem hg
    | false => simp [guarded32, hg, plain, noFlags]

/-- `srbits` reads its words mod 2^32, so the halves of a pair are its key and its count. -/
theorem srbits_pair (a : DWord) (b c : Nat) :
    srbits (a.toNat / 2 ^ 32) a.toNat b c = srbits (a.extractLsb' 32 32).toNat (a.extractLsb' 0 32).toNat b c := by
  simp [srbits, BitVec.extractLsb'_toNat, Nat.shiftRight_eq_div_pow]

theorem laneDone_iaddi {o : ImmOp} (hd : Head s i rest) (hr : ∀ m ∈ i.members, reads32 s .int o.a m) :
    LaneDone (.iaddi o) s i rest 2
      (fun g t => put32 t o.nw o.d (BitVec.ofNat 32 ((src32 .int g t o.a).toNat + o.imm.toNat))) noFlags :=
  runs_lanes rfl hd fun m hm => by
    obtain ⟨g, t, hmem, ha⟩ := reads32_member (hr m hm)
    refine ⟨g, t, hmem, ?_, put32_idx ..⟩
    rw [ha, ← BitVec.add_def]
    rfl

theorem laneDone_rnd {o : MadOp} (hd : Head s i rest)
    (hr : ∀ m ∈ i.members, guardedReads64 s o.g [(.int, o.a)] m ∧ guardedReads32 s o.g [(.int, o.b), (.int, o.c)] m) :
    LaneDone (.rnd o) s i rest 2 (guarded32 o.g o.nw o.d fun g t =>
      let a := src64 .int g t o.a
      BitVec.ofNat 32 (srbits (a.extractLsb' 32 32).toNat (a.extractLsb' 0 32).toNat (src32 .int g t o.b).toNat
        (src32 .int g t o.c).toNat)) noFlags :=
  laneDone_guarded32 rfl hd (fun m hm => (hr m hm).1.1) fun m hm g t hmem hg => by
    obtain ⟨h64, h32⟩ := hr m hm
    have ha := guardedReads64_of hmem hg h64 (.int, o.a) (by simp)
    have hb := guardedReads32_of hmem hg h32 (.int, o.b) (by simp)
    have hc := guardedReads32_of hmem hg h32 (.int, o.c) (by simp)
    dsimp only at ha hb hc ⊢
    rw [ha, hb, hc, ← srbits_pair]
    rfl

end Sys2Proof.Machine

open Sys2Proof Sys2Proof.Machine Sys2Proof.Claims

/-- Settles O12: `nop`, `movi` and `clkr` read nothing; `iaddi` adds mod 2^32, and `rnd` takes key and count from the halves of its
pair. -/
theorem constantRandomAndClockResults : Obligations.ConstantRandomAndClockResults :=
  fun _ _ _ hd hm =>
    ⟨laneDone_plain rfl hd hm fun _ _ => shiftLatch_idx .., fun _ => laneDone_plain rfl hd hm fun _ _ => put32_idx ..,
      fun _ hr => laneDone_iaddi hd hr, fun _ hr => laneDone_rnd hd hr,
      fun _ => laneDone_plain rfl hd hm fun _ _ => put64_idx ..⟩
end

section
/-! SUPPORT. The words that parse as an instruction are those that encode it (Tables 3.4 to 3.8). -/
namespace Sys2Proof.Laws

/-- A list of words is the one word or the two words that parse as an instruction (R58, R78). -/
inductive Reads : List Word → Instr → Prop
  | one {w : Word} {i : Instr} (ht : isTwoWord w = false) (hp : parseOne w = .ok i) : Reads [w] i
  | two {w1 w2 : Word} {i : Instr} (ht : isTwoWord w1 = true) (hp : parseTwo w1 w2 = .ok i) : Reads [w1, w2] i

theorem decodeWords_of_reads {ws : List Word} {i : Instr} (h : Reads ws i) (hw : i.wf = true) (more : List Word) :
    decodeWords (ws ++ more) = .ok (i, ws.length) := by
  cases h with
  | one ht hp => exact decodeWords_one more ht hp hw
  | two ht hp => exact decodeWords_two more ht hp hw

theorem reads_of_decodeWords {ws : List Word} {i : Instr} {n : Nat} (h : decodeWords ws = .ok (i, n)) :
    i.wf = true ∧ Reads (ws.take n) i ∧ n ≤ ws.length := by
  obtain ⟨hw, ⟨w, more, rfl, ht, hp, rfl⟩ | ⟨w1, w2, more, rfl, ht, hp, rfl⟩⟩ := decodeWords_ok h
  · exact ⟨hw, .one ht hp, by simp⟩
  · exact ⟨hw, .two ht hp, by simp⟩

/-! ## An encoding is read -/

section
variable {α : Type} {f : α → Instr} {o : α} {op : BitVec 8}

theorem reads_one {w : Word} {d : Word → Except DecodeError α} (h : bits w 24 8 = op ∧ d w = .ok o)
    (hp : bits w 24 8 = op → parseOne w = f <$> d w := by intro h; unfold parseOne; rw [h]; rfl)
    (ht : decide (128 ≤ op.toNat) = false := by decide) : Reads [w] (f o) := by
  obtain ⟨hop, hd⟩ := h
  exact .one (by rw [isTwoWord_opcode, hop, ht]) (by rw [hp hop, hd]; rfl)

theorem reads_two {ws : List Word} {d : Word → Word → Except DecodeError α}
    (h : ∃ w1 w2, ws = [w1, w2] ∧ bits w1 24 8 = op ∧ d w1 w2 = .ok o)
    (hp : ∀ w1 w2, bits w1 24 8 = op → parseTwo w1 w2 = f <$> d w1 w2 := by intro w1 w2 h; unfold parseTwo; rw [h]; rfl)
    (ht : decide (128 ≤ op.toNat) = true := by decide) : Reads ws (f o) := by
  obtain ⟨w1, w2, rfl, hop, hd⟩ := h
  exact .two (by rw [isTwoWord_opcode, hop, ht]) (by rw [hp w1 w2 hop, hd]; rfl)
end

/-- The matrix forms but `mhdr` are told apart by their opcode. -/
theorem matWords (op : BitVec 8) (o : MatOp) : ∃ w1 w2, enc.mat op o = [w1, w2] ∧ bits w1 24 8 = op ∧ dec.mat w1 w2 = .ok o := by
  obtain ⟨w1, w2, hw, hop, -, hd⟩ := dec_mat op o
  exact ⟨w1, w2, hw, hop, hd⟩

/-- The `mhdr` forms are told apart by the low bits of their qf (R196). -/
theorem reads_mhdr {o : MatOp} {i : Instr} (h : mhdrOf o (o.qf.toNat % 8) = .ok i) : Reads (enc.mat 0xC5 o) i := by
  obtain ⟨w1, w2, hw, hop, hq, hd⟩ := dec_mat 0xC5 o
  have hp : parseTwo w1 w2 = dec.mat w1 w2 >>= fun o => mhdrOf o (bits w2 24 3).toNat := by unfold parseTwo; rw [hop]; rfl
  rw [hw]
  refine .two (by rw [isTwoWord_opcode, hop]; decide) ?_
  rw [hp, hd, hq, BitVec.extractLsb'_toNat, Nat.shiftRight_zero]
  exact h

/-- The `eng` functions are told apart by their fn7 (Table 3.8). -/
theorem reads_eng {fn7 : BitVec 7} {o : EngOp} {i : Instr} (h : engOf o fn7.toNat = .ok i) : Reads (enc.eng fn7 o) i := by
  obtain ⟨w1, w2, hw, hop, hf, hd⟩ := dec_eng fn7 o
  have hp : parseTwo w1 w2 = dec.eng w1 w2 >>= fun o => engOf o (bits w2 25 7).toNat := by unfold parseTwo; rw [hop]; rfl
  rw [hw]
  refine .two (by rw [isTwoWord_opcode, hop]; decide) ?_
  rw [hp, hd, hf]
  exact h

/-- The sub-operation that an immediate `mhdr` form asks of qf. -/
theorem qf_of_wfHdrImm {sub : BitVec 4} {bound : Nat} {o : MatOp} (h : o.wfHdrImm sub bound = true) : o.qf = sub := by
  simp only [MatOp.wfHdrImm, Bool.and_eq_true, beq_iff_eq] at h
  exact h.1.2

theorem qf_of_wfHdrFmt {o : MatOp} (h : o.wfHdrFmt = true) : o.qf = 0 := by
  simp only [MatOp.wfHdrFmt, Bool.and_eq_true, beq_iff_eq] at h
  exact h.1.1.1.2

theorem qf_of_wfHdrSt {o : MatOp} (h : o.wfHdrSt = true) : o.qf.toNat % 8 = 4 := by
  simp only [MatOp.wfHdrSt, Bool.and_eq_true, Bool.or_eq_true, beq_iff_eq] at h
  rcases h.2 with hq | hq <;> rw [hq] <;> rfl

/-- Every well-formed instruction with words is read from them. -/
theorem reads_encode {i : Instr} (hw : i.wf = true) (he : encode i ≠ []) : Reads (encode i) i := by
  cases i
  case nop => exact .one (by decide) (by decide)
  case iadd | isub | imul | imulh | imulhu | imin | iminu | imax | imaxu | and | or | xor | shl | shr | sar | rotl | iadds | isubs |
      iadd64 | isub64 | fadd | fsub | fmul | fmin | fmax | dadd | dsub | dmul | dmin | dmax | hadd2 | hmul2 | hmin2 | hmax2 | badd2 |
      bmul2 | bmin2 | bmax2 | shfl => exact reads_one (dec_rbin _ _)
  case iabs | popc | clz | brev | mov | mov64 | fabs | fneg | fsat | dabs | dneg | frcp | frsq | fsqrt | fexp2 | flog2 | fsin | fcos |
      ftanh | ballot => exact reads_one (dec_run _ _)
  case icmp | icmp64 | fcmp | dcmp => exact reads_one (dec_pcmp _ _)
  case pand | por | pxor | pandn => exact reads_one (dec_plog _ _)
  case pget => exact reads_one (dec_pget _ _)
  case pset | vany | vall => exact reads_one (dec_pvote _ _)
  case aadd | asub | amul => exact reads_one (dec_affBin _ _)
  case amov => exact reads_one (dec_affUn _ _)
  case aset => exact reads_one (dec_affSet _ _)
  case ashl => exact reads_one (dec_affShl _ _)
  case xbar => exact reads_one (dec_xbar _ _)
  case br | call => exact reads_one (dec_branch _ _)
  case ret | exit | yield => exact reads_one (dec_guardOnly _ _)
  case jmpr => exact reads_one (dec_jumpReg _ _)
  case brk | trap => exact reads_one (dec_trapOp _ _)
  case xwin => exact reads_one (dec_winOp _ _)
  case xset | xput => exact reads_one (dec_idxOp _ _)
  case bar => exact reads_one (dec_bar _ _)
  case clkr => exact reads_one (dec_clk _ _)
  case ffus | dfus | hfus2 | bfus2 => exact reads_two (dec_fma _ _)
  case imad | rnd => exact reads_two (dec_mad _ _)
  case sel => exact reads_two (dec_sel _ _)
  case bfx => exact reads_two (dec_bfx _ _)
  case bfi => exact reads_two (dec_bfi _ _)
  case cvt => exact reads_two (dec_cvt _ _)
  case movi | iaddi => exact reads_two (dec_imm _ _)
  case amovi => exact reads_two (dec_affMovi _ _)
  case aaddi | amuli => exact reads_two (dec_affImm _ _)
  case ld | st | pref | atom | red | swinit | swadd | swwait => exact reads_two (dec_mem _ _)
  case engCopy | engCopy2d | engGather | engScatter | engFill | engAllred | engBcast | engRtrace | engRany | engRlaunch | engBquery |
      engBrefit => exact reads_eng rfl
  case mclaim | mrel | mld | mst | mzero | mmul | madd | msub | mscale | mtrn | mrecomp | mdense | mrank | mnorm | mma | zld | zst |
      zcvt | zzero => exact reads_two (matWords _ _)
  case mhdrFmt => exact reads_mhdr (by rw [qf_of_wfHdrFmt hw]; rfl)
  case mhdrKey | mhdrWc | mhdrSofs => exact reads_mhdr (by rw [qf_of_wfHdrImm hw]; rfl)
  case mhdrSt => exact reads_mhdr (by rw [qf_of_wfHdrSt hw]; rfl)
  case spawn | await | phase | fnew | fput | fget | lacq | lrel | qput | qget | dcdec | tktake | tkwait | tself | temit | mvtx | mprim |
      mend | sinfo | tcomb | tdone | ctlr | ctlw | segw | xbld | perfr | sret => exact reads_two (dec_task _ _)
  all_goals exact absurd rfl he

/-! ## What is read is an encoding -/

theorem map_ok {ε α β : Type} {x : Except ε α} {f : α → β} {b : β} (h : f <$> x = .ok b) : ∃ a, x = .ok a ∧ f a = b := by
  cases x with
  | error e => cases h
  | ok a => exact ⟨a, rfl, Except.ok.inj h⟩

/-- An opcode as the match on its number names it. -/
theorem bits_of_toNat {w : Word} {op : BitVec 8} (h : (bits w 24 8).toNat = op.toNat) : bits w 24 8 = op :=
  BitVec.eq_of_toNat_eq h

theorem encode_one {α : Type} {f : α → Instr} {d : Word → Except DecodeError α} {e : BitVec 8 → α → Word}
    (hd : ∀ {w o}, d w = .ok o → e (bits w 24 8) o = w) {w : Word} {i : Instr} (h : f <$> d w = .ok i) {n : Nat}
    (hop : (bits w 24 8).toNat = n) (he : ∀ o, encode (f o) = [e (BitVec.ofNat 8 n) o]) : encode i = [w] := by
  obtain ⟨o, ho, rfl⟩ := map_ok h
  rw [he, ← hop, BitVec.ofNat_toNat, BitVec.setWidth_eq, hd ho]

theorem encode_two {α : Type} {f : α → Instr} {d : Word → Word → Except DecodeError α} {e : BitVec 8 → α → List Word}
    (hd : ∀ {w1 w2 o}, d w1 w2 = .ok o → e (bits w1 24 8) o = [w1, w2]) {w1 w2 : Word} {i : Instr} (h : f <$> d w1 w2 = .ok i) {n : Nat}
    (hop : (bits w1 24 8).toNat = n) (he : ∀ o, encode (f o) = e (BitVec.ofNat 8 n) o) : encode i = [w1, w2] := by
  obtain ⟨o, ho, rfl⟩ := map_ok h
  rw [he, ← hop, BitVec.ofNat_toNat, BitVec.setWidth_eq, hd ho]

theorem encode_of_mhdrOf {o : MatOp} {n : Nat} {i : Instr} (h : mhdrOf o n = .ok i) : encode i = enc.mat 0xC5 o := by
  unfold mhdrOf at h
  split at h <;> cases h <;> rfl

theorem encode_of_engOf {o : EngOp} {n : Nat} {i : Instr} (h : engOf o n = .ok i) : encode i = enc.eng (BitVec.ofNat 7 n) o := by
  unfold engOf at h
  split at h <;> cases h <;> rfl

/-- A word that parses is the one its instruction encodes to. The cases are the arms of `parseOne` in the order of the opcodes, those
of one format together. -/
theorem encode_of_parseOne {w : Word} {i : Instr} (h : parseOne w = .ok i) : encode i = [w] := by
  unfold parseOne at h
  split at h
  case h_1 =>
    split at h
    · next hz => cases h; rw [hz]; rfl
    · cases h
  case h_2 | h_3 | h_4 | h_5 | h_6 | h_7 | h_8 | h_9 | h_10 | h_12 | h_13 | h_14 | h_15 | h_16 | h_17 | h_18 | h_22 | h_23 | h_24
      | h_25 | h_38 | h_39 | h_40 | h_41 | h_42 | h_46 | h_47 | h_48 | h_49 | h_50 | h_53 | h_54 | h_55 | h_56 | h_57 | h_58 |
      h_59 | h_60 | h_75 => exact encode_one rbin_dec h ‹_› fun _ => rfl
  case h_11 | h_19 | h_20 | h_21 | h_26 | h_27 | h_43 | h_44 | h_45 | h_51 | h_52 | h_61 | h_62 | h_63 | h_64 | h_65 | h_66 | h_67
      | h_68 | h_79 => exact encode_one run_dec h ‹_› fun _ => rfl
  case h_28 | h_29 | h_30 | h_31 => exact encode_one pcmp_dec h ‹_› fun _ => rfl
  case h_32 | h_33 | h_34 | h_35 => exact encode_one plog_dec h ‹_› fun _ => rfl
  case h_36 => exact encode_one pget_dec h ‹_› fun _ => rfl
  case h_37 | h_77 | h_78 => exact encode_one pvote_dec h ‹_› fun _ => rfl
  case h_69 | h_70 | h_74 => exact encode_one affBin_dec h ‹_› fun _ => rfl
  case h_71 => exact encode_one affUn_dec h ‹_› fun _ => rfl
  case h_72 => exact encode_one affSet_dec h ‹_› fun _ => rfl
  case h_73 => exact encode_one affShl_dec h ‹_› fun _ => rfl
  case h_76 => exact encode_one xbar_dec h ‹_› fun _ => rfl
  case h_80 | h_81 => exact encode_one branch_dec h ‹_› fun _ => rfl
  case h_82 | h_84 | h_87 => exact encode_one guardOnly_dec h ‹_› fun _ => rfl
  case h_83 => exact encode_one jumpReg_dec h ‹_› fun _ => rfl
  case h_85 | h_86 => exact encode_one trapOp_dec h ‹_› fun _ => rfl
  case h_88 => exact encode_one winOp_dec h ‹_› fun _ => rfl
  case h_89 | h_90 => exact encode_one idxOp_dec h ‹_› fun _ => rfl
  case h_91 => exact encode_one bar_dec h ‹_› fun _ => rfl
  case h_92 => exact encode_one clk_dec h ‹_› fun _ => rfl
  all_goals cases h

theorem encode_of_dec_eng {w1 w2 : Word} {i : Instr} (h : (dec.eng w1 w2 >>= fun o => engOf o (bits w2 25 7).toNat) = .ok i)
    (hop : (bits w1 24 8).toNat = 0xB0) : encode i = [w1, w2] := by
  obtain ⟨o, ho, h⟩ := bind_ok h
  rw [encode_of_engOf h, BitVec.ofNat_toNat, BitVec.setWidth_eq, eng_dec (BitVec.eq_of_toNat_eq hop) ho]

theorem encode_of_dec_mhdr {w1 w2 : Word} {i : Instr} (h : (dec.mat w1 w2 >>= fun o => mhdrOf o (bits w2 24 3).toNat) = .ok i)
    (hop : (bits w1 24 8).toNat = 0xC5) : encode i = [w1, w2] := by
  obtain ⟨o, ho, h⟩ := bind_ok h
  rw [encode_of_mhdrOf h, ← mat_dec ho, BitVec.eq_of_toNat_eq (y := 0xC5) hop]

/-- Two words that parse are those their instruction encodes to, arm by arm of `parseTwo`. -/
theorem encode_of_parseTwo {w1 w2 : Word} {i : Instr} (h : parseTwo w1 w2 = .ok i) : encode i = [w1, w2] := by
  unfold parseTwo at h
  split at h
  case h_1 | h_2 | h_3 | h_4 => exact encode_two fma_dec h ‹_› fun _ => rfl
  case h_5 | h_15 => exact encode_two mad_dec h ‹_› fun _ => rfl
  case h_6 => exact encode_two sel_dec h ‹_› fun _ => rfl
  case h_7 => exact encode_two bfx_dec h ‹_› fun _ => rfl
  case h_8 => exact encode_two bfi_dec h ‹_› fun _ => rfl
  case h_9 => exact encode_two cvt_dec h ‹_› fun _ => rfl
  case h_10 | h_11 => exact encode_two imm_dec h ‹_› fun _ => rfl
  case h_12 => exact encode_two affMovi_dec h ‹_› fun _ => rfl
  case h_13 | h_14 => exact encode_two affImm_dec h ‹_› fun _ => rfl
  case h_16 | h_17 | h_18 | h_19 | h_20 | h_21 | h_22 | h_23 => exact encode_two mem_dec h ‹_› fun _ => rfl
  case h_24 | h_25 | h_26 | h_27 | h_28 | h_29 | h_30 | h_31 | h_32 | h_33 | h_34 | h_35 | h_36 | h_37 | h_38 | h_39 | h_40 | h_41
      | h_42 => exact encode_two mat_dec h ‹_› fun _ => rfl
  case h_43 | h_44 | h_45 | h_46 | h_47 | h_48 | h_49 | h_50 | h_51 | h_52 | h_53 | h_54 | h_55 | h_56 | h_57 | h_58 | h_59 | h_60
      | h_61 | h_62 | h_63 | h_64 | h_65 | h_66 | h_67 | h_68 | h_69 => exact encode_two task_dec h ‹_› fun _ => rfl
  case h_70 => exact encode_of_dec_eng h ‹_›
  case h_71 => exact encode_of_dec_mhdr h ‹_›
  case h_72 => cases h

theorem encode_of_reads {ws : List Word} {i : Instr} (h : Reads ws i) : encode i = ws := by
  cases h with
  | one _ hp => exact encode_of_parseOne hp
  | two _ hp => exact encode_of_parseTwo hp

end Sys2Proof.Laws

open Sys2Proof Sys2Proof.Laws

/-- Settles O59: the words that `Reads` an instruction are those of its encoding, form by form in both directions. -/
theorem decodeAndEncodeAgree : Obligations.DecodeAndEncodeAgree := by
  refine ⟨fun i more hw he => decodeWords_of_reads (reads_encode hw he) hw more, fun ws i n h => ?_⟩
  obtain ⟨hw, hr, hn⟩ := reads_of_decodeWords h
  exact ⟨hw, encode_of_reads hr, hn⟩
end

section
/-! SUPPORT. One step: it keeps the memories canonical, and it runs what the head issue group or the agenda names (R32, R212). -/
namespace Sys2Proof.Laws
open Sys2Proof.Machine

/-- A step is an action of the agenda, an instruction of an issue group, or an event of the background. -/
theorem step_canon {s t : State} (hc : canon s.mem s.cores) (ht : step s = .next t) : canon t.mem t.cores := by
  unfold step at ht
  split at ht
  · next a acts _ => exact doAction_canon a { s with agenda := acts } hc t ht
  · cases hr : runAny s s.issues.length 0 with
    | none => rw [hr] at ht; exact background_canon s hc t ht
    | some r => rw [hr] at ht; cases ht; exact runAny_canon s _ _ hc t hr

end Sys2Proof.Laws

namespace Sys2Proof.Machine

/-- Every arm of `exec` calls a meaning, and every meaning answers a next state. -/
theorem exec_next (ins : Instr) (s : State) : ∃ t, exec ins s = .next t := by
  cases ins <;> exact ⟨_, rfl⟩

variable {s t : State} {i : Issue} {rest : List Issue} {ins : Instr} {n : Nat}

theorem waitsWindow_eq_false {m : Nat × Nat} (h : ∀ o ∈ s.ops, o.gk ≠ m.1 ∨ o.threads ≠ [m.2] ∨ windowFull s o = false) :
    waitsWindow s m = false := by
  simp only [waitsWindow, List.any_eq_false, Bool.and_eq_true, beq_iff_eq, not_and, Bool.not_eq_true]
  rintro o ho ⟨hgk, hth⟩
  rcases h o ho with h | h | h
  · exact absurd hgk h
  · exact absurd hth h
  · exact h

theorem waitsPrivate_eq_false {m : Nat × Nat} (h : ∀ g u, memberOf s m = some (g, u) → u.pw = 0) : waitsPrivate s m = false := by
  unfold waitsPrivate
  split
  · next g u hm => simp [h g u hm]
  · rfl

/-- With no deferred fault of wait field 7 in a member, none is taken before the instruction (R262). -/
theorem takePrivate_eq_none (hi : s.issues = i :: rest)
    (h : ∀ m ∈ i.members, ∀ g u, memberOf s m = some (g, u) → ∀ d ∈ u.deferred, d.1 ≠ 7) : takePrivate s = none := by
  have hlate : deferredAmong s (headMembers s) (fun k => k == 7) = [] := by
    rw [headMembers_cons hi, deferredAmong, List.filterMap_eq_nil_iff]
    intro m hm
    split
    · next g u hgu => simpa [deferredOf] using h m hm g u hgu
    · rfl
  simp [takePrivate, hlate]

/-- The head issue group runs the instruction that its words decode to, when no member stalls or has a fault pending. -/
theorem runHead_eq (hi : s.issues = i :: rest) (hd : decodeWords (i.words.drop i.off) = .ok (ins, n))
    (hw : ∀ o ∈ s.ops, ∀ m ∈ i.members, o.gk ≠ m.1 ∨ o.threads ≠ [m.2] ∨ windowFull s o = false)
    (hm : ∀ m ∈ i.members, ∀ g u, memberOf s m = some (g, u) → u.pw = 0 ∧ ∀ d ∈ u.deferred, d.1 ≠ 7) :
    runHead s = exec ins s := by
  have hprivate : (headMembers s).any (waitsPrivate s) = false := by
    rw [headMembers_cons hi, List.any_eq_false]
    intro m hmi
    rw [waitsPrivate_eq_false fun g u hgu => (hm m hmi g u hgu).1]
    exact Bool.false_ne_true
  have hwindow : (headMembers s).any (waitsWindow s) = false := by
    rw [headMembers_cons hi, List.any_eq_false]
    intro m hmi
    rw [waitsWindow_eq_false fun o ho => hw o ho m hmi]
    exact Bool.false_ne_true
  have hwords : headWords s = i.words.drop i.off := by rw [headWords, hi]
  rw [runHead, hprivate, hwindow, takePrivate_eq_none hi fun m hmi g u hgu => (hm m hmi g u hgu).2, hwords, hd]
  rfl

/-- The first issue group is in front already. -/
theorem bringFront_zero (hi : s.issues = i :: rest) : bringFront s 0 = s := by
  simp only [bringFront, hi, List.getElem?_cons_zero, List.take_zero, List.nil_append, Nat.zero_add, List.drop_one, List.tail_cons]
  rw [← hi]

/-- The first issue group runs, or none of it moved. -/
theorem runIssue_zero (hi : s.issues = i :: rest) (hf : s.fatal = false) (hr : runHead s = .next t) :
    runIssue s 0 = if t.issues = s.issues then none else some (.next t) := by
  simp only [runIssue, hf, bringFront_zero hi, hr]
  rfl

end Sys2Proof.Machine

open Sys2Proof Sys2Proof.Machine Sys2Proof.Laws

/-- Settles O60: canonical memories are kept by every action, every instruction and every event. -/
theorem stepKeepsMemoriesCanonical : Obligations.StepKeepsMemoriesCanonical :=
  fun s t hs ht => (memoriesWf_iff t).mpr (step_canon ((memoriesWf_iff s).mp hs) ht)

/-- Settles O57: the first issue group's words are run, a stalled instruction hands on to the next one, and an event is run as it is. -/
theorem stepRunsTheDecodedInstruction : Obligations.StepRunsTheDecodedInstruction := by
  refine ⟨fun s t i rest ins n ha hf hi hd hw hm he => ?_, fun s ins acts ha hf hn => ?_, exec_next⟩
  · have hr := runIssue_zero hi hf ((runHead_eq hi hd hw hm).trans he)
    have hs : step s = ((runIssue s 0).orElse fun _ => runAny s rest.length 1).getD (background s) := by
      rw [step, ha, hi]
      rfl
    rw [hs, hr]
    exact ⟨fun h => by rw [if_neg h]; rfl, fun h => by rw [if_pos h]; rfl⟩
  · rw [step, ha]
    simp [doAction, hf, hn]
end


section
/-! SUPPORT. The device-scope registers of a device after cold reset: every unit of the state has its default value. -/
namespace Sys2Proof.Machine
open Sys2Proof.Claims

theorem timingReg_default : ∀ o < 2, ∀ i < 8, timingReg (outOf State.reset o) i = if i = 4 then 1 else 0 := by decide

theorem confReg_default : ∀ i < 16, confReg {} i = 0 := by decide

theorem routeReg_default : ∀ i < 16, routeReg {} i = if i = 0 then 0xA9AAAAA8 else if i = 1 then 0xAA else 0 := by decide

theorem powerReg_reset : ∀ i < 16, powerReg State.reset (0x500 + i) = if i = 3 then 1800 else 0 := by decide

theorem gaze_reset : ∀ i < 8, State.reset.gaze.getD i 0 = 0 := by decide

theorem pcsel_reset : ∀ i < 16, State.reset.pcsel.getD i 0 = 0 := by decide

theorem resetValue_of_plain {n : Nat} (hl2 : n ≠ 0x220) (hk0 : n ≠ 0x264) (hk1 : n ≠ 0x26C) (hcap : n ≠ 0x503)
    (hroute : n < 0x380 ∨ 0x400 ≤ n) : resetValue n = 0 := by
  have h0 : ¬ (0x380 ≤ n ∧ n < 0x400 ∧ n % 16 = 0) := by omega
  have h1 : ¬ (0x380 ≤ n ∧ n < 0x400 ∧ n % 16 = 1) := by omega
  simp only [resetValue, hl2, hk0, hk1, hcap, h0, h1, or_self, if_false]

theorem resetValue_timing {n : Nat} (h0 : 0x260 ≤ n) (h1 : n ≤ 0x26F) : resetValue n = if n % 8 = 4 then 1 else 0 := by
  by_cases hk : n % 8 = 4
  · have hn : n = 0x264 ∨ n = 0x26C := by omega
    rcases hn with rfl | rfl <;> rfl
  · rw [if_neg hk]
    exact resetValue_of_plain (by omega) (by omega) (by omega) (by omega) (by omega)

theorem resetValue_route {n : Nat} (h0 : 0x380 ≤ n) (h1 : n ≤ 0x3FF) :
    resetValue n = if n % 16 = 0 then 0xA9AAAAA8 else if n % 16 = 1 then 0xAA else 0 := by
  have hlow : n ≠ 0x220 ∧ n ≠ 0x264 ∧ n ≠ 0x26C ∧ n ≠ 0x503 := by omega
  obtain ⟨ha, hb, hc, hd⟩ := hlow
  have hr : n < 0x400 := by omega
  simp only [resetValue, ha, hb, hc, hd, h0, hr, true_and, or_self, if_false]

theorem resetValue_power {n : Nat} (h0 : 0x500 ≤ n) : resetValue n = if n - 0x500 = 3 then 1800 else 0 := by
  by_cases hk : n - 0x500 = 3
  · obtain rfl : n = 0x503 := by omega
    rfl
  · rw [if_neg hk]
    exact resetValue_of_plain (by omega) (by omega) (by omega) (by omega) (by omega)

/-- The table of reset values, range by range. -/
theorem deviceReg_reset (n : Nat) : deviceReg State.reset .host n = resetValue n := by
  unfold deviceReg
  simp only [Bool.and_eq_true, decide_eq_true_eq]
  split
  · exact (resetValue_of_plain (by omega) (by omega) (by omega) (by omega) (by omega)).symm
  split
  · next h => subst h; rfl
  split
  · rw [gaze_reset _ (by omega), resetValue_of_plain (by omega) (by omega) (by omega) (by omega) (by omega)]
  split
  · next h => rw [timingReg_default _ (by omega) _ (by omega), resetValue_timing h.1 h.2]
  split
  · next h => subst h; rfl
  split
  · next h => subst h; rfl
  split
  · exact (confReg_default _ (by omega)).trans (resetValue_of_plain (by omega) (by omega) (by omega) (by omega) (by omega)).symm
  split
  · next h => exact (routeReg_default _ (by omega)).trans (resetValue_route h.1 h.2).symm
  split
  · exact (pcsel_reset _ (by omega)).trans (resetValue_of_plain (by omega) (by omega) (by omega) (by omega) (by omega)).symm
  split
  · next h =>
    have hp := powerReg_reset (n - 0x500) (by omega)
    rw [Nat.add_sub_cancel' h.1] at hp
    rw [hp, resetValue_power h.1]
  · exact (resetValue_of_plain (by omega) (by omega) (by omega) (by omega) (by omega)).symm

end Sys2Proof.Machine

open Sys2Proof Sys2Proof.Machine Sys2Proof.Claims

/-- Settles O56: the reset state has the default value in every unit, and so has every register. -/
theorem resetState : Obligations.ResetState :=
  ⟨rfl, fun n _ => deviceReg_reset n, rfl, rfl, rfl, rfl, rfl⟩

/-- Settles O58: each listed word or pair of words decodes, and its instruction encodes to it. -/
theorem wordsOfTheWorkedExamplesDecode : Obligations.WordsOfTheWorkedExamplesDecode := by
  unfold Obligations.WordsOfTheWorkedExamplesDecode
  decide +kernel
end

section
/-! SUPPORT. Integer results as the model computes them on words and as Table 6.2 states them on numbers. -/
namespace Sys2Proof.Machine
open Sys2Proof.Claims

/-! ## Two sources -/

theorem sub_eq_ofInt {w : Nat} (a b : BitVec w) : a - b = BitVec.ofInt w (a.toNat - b.toNat) := by
  rw [BitVec.sub_eq_add_neg]
  simp [BitVec.ofInt_add, Int.sub_eq_add_neg, BitVec.ofInt_neg, BitVec.ofInt_natCast]

theorem mul_eq_ofNat (a b : Word) : a * b = BitVec.ofNat 32 (a.toNat * b.toNat) :=
  BitVec.eq_of_toNat_eq (by rw [BitVec.toNat_mul, BitVec.toNat_ofNat])

theorem minSigned_eq (a b : Word) : (if a.sle b then a else b) = BitVec.ofInt 32 (min a.toInt b.toInt) := by
  rw [min_def, BitVec.sle_eq_decide]
  by_cases h : a.toInt ≤ b.toInt <;> simp [h]

theorem maxSigned_eq (a b : Word) : (if a.sle b then b else a) = BitVec.ofInt 32 (max a.toInt b.toInt) := by
  rw [max_def, BitVec.sle_eq_decide]
  by_cases h : a.toInt ≤ b.toInt <;> simp [h]

theorem minUnsigned_eq (a b : Word) : (if a.ule b then a else b) = BitVec.ofNat 32 (min a.toNat b.toNat) := by
  rw [min_def, BitVec.ule_eq_decide]
  by_cases h : a.toNat ≤ b.toNat <;> simp [h]

theorem maxUnsigned_eq (a b : Word) : (if a.ule b then b else a) = BitVec.ofNat 32 (max a.toNat b.toNat) := by
  rw [max_def, BitVec.ule_eq_decide]
  by_cases h : a.toNat ≤ b.toNat <;> simp [h]

theorem shiftL_eq (a b : Word) : shiftL a b = if b.toNat < 32 then BitVec.ofNat 32 (a.toNat * 2 ^ b.toNat) else 0 := by
  unfold shiftL
  split
  · apply BitVec.eq_of_toNat_eq
    rw [BitVec.toNat_shiftLeft, BitVec.toNat_ofNat, Nat.shiftLeft_eq]
  · rfl

theorem shiftR_eq (a b : Word) : shiftR a b = if b.toNat < 32 then BitVec.ofNat 32 (a.toNat / 2 ^ b.toNat) else 0 := by
  unfold shiftR
  split
  · apply BitVec.eq_of_toNat_eq
    rw [BitVec.toNat_ushiftRight, BitVec.toNat_ofNat, Nat.shiftRight_eq_div_pow,
      Nat.mod_eq_of_lt ((Nat.div_le_self _ _).trans_lt a.isLt)]
  · rfl

theorem shiftA_eq (a b : Word) : shiftA a b = BitVec.ofInt 32 (a.toInt / 2 ^ min b.toNat 31) := by
  rw [shiftA, ← BitVec.ofInt_toInt (x := BitVec.sshiftRight _ _), BitVec.toInt_sshiftRight, Int.shiftRight_eq_div_pow]
  norm_cast

theorem rotL_eq (a b : Word) : rotL a b = a <<< (b.toNat % 32) ||| a >>> (32 - b.toNat % 32) := by
  rw [rotL, BitVec.rotateLeft_def, Nat.mod_mod]

variable {ins : Instr} {s : State} {i : Issue} {rest : List Issue}

/-- An integer instruction of two words puts what its table row says, and raises nothing. -/
theorem laneDone_intOp {o : RBin} {f h : Word → Word → Word} (hf : ∀ a b, f a b = h a b)
    (hx : exec ins s = .next (runLanes s 1 (bin32 .int o (intOp f)))) (hd : Head s i rest)
    (hr : ∀ m ∈ i.members, reads32 s .int o.a m ∧ reads32 s .int o.b m) :
    LaneDone ins s i rest 1 (fun g t => put32 t o.nw o.d (h (src32 .int g t o.a) (src32 .int g t o.b))) noFlags := by
  have hl := laneDone_bin32 hx hd hr
  simp only [intOp, hf] at hl
  exact hl

/-- The same for one source. -/
theorem laneDone_intUn {o : RUn} {f h : Word → Word} (hf : ∀ a, f a = h a)
    (hx : exec ins s = .next (runLanes s 1 (un32 .int o (intUn f)))) (hd : Head s i rest)
    (hr : ∀ m ∈ i.members, reads32 s .int o.a m) :
    LaneDone ins s i rest 1 (fun g t => put32 t o.nw o.d (h (src32 .int g t o.a))) noFlags := by
  have hl := laneDone_un32 hx hd hr
  simp only [intUn, hf] at hl
  exact hl

/-! ## One source -/

theorem absInt_eq (a : Word) : absInt a = BitVec.ofNat 32 a.toInt.natAbs := by
  rw [← BitVec.ofInt_natCast, Int.natCast_natAbs, absInt]
  split
  · next h => rw [abs_of_neg h, BitVec.ofInt_neg, BitVec.ofInt_toInt]
  · next h => rw [abs_of_nonneg (not_lt.mp h), BitVec.ofInt_toInt]

theorem bitOf_toNat {w : Nat} (a : BitVec w) (k : Nat) : bitOf a.toNat k = a.getLsbD k := by
  rw [bitOf, BitVec.getLsbD, Nat.testBit_eq_decide_div_mod_eq]; rfl

theorem popBits_eq (a : Word) (n : Nat) : popBits a.toNat n = ((List.range n).filter fun k => a.getLsbD k).length := by
  induction n with
  | zero => rfl
  | succ n ih =>
    rw [popBits, ih, bitOf_toNat, List.range_succ, List.filter_append, List.length_append, Nat.add_comm]
    cases h : a.getLsbD n <;> simp [h]

theorem popCount_eq (a : Word) : popCount a = BitVec.ofNat 32 (oneBits a) := by
  rw [popCount, popBits_eq, oneBits]

theorem revBits_eq (a : Word) (n : Nat) :
    revBits a.toNat n = ((List.range n).map fun k => if a.getLsbD (n - 1 - k) then 2 ^ k else 0).sum := by
  induction n with
  | zero => rfl
  | succ n ih =>
    have hterm : ∀ k, (if a.getLsbD (n + 1 - 1 - (k + 1)) then 2 ^ (k + 1) else 0) = 2 * if a.getLsbD (n - 1 - k) then 2 ^ k else 0 := by
      intro k
      rw [mul_ite, mul_zero, ← pow_succ', show n + 1 - 1 - (k + 1) = n - 1 - k by omega]
    rw [revBits, ih, bitOf_toNat, List.range_succ_eq_map, List.map_cons, List.sum_cons, List.map_map, ← List.sum_map_mul_left]
    simp only [Function.comp_def, Nat.succ_eq_add_one, hterm, pow_zero]
    cases h : a.getLsbD n <;> simp [h]

theorem bitRev_eq (a : Word) : bitRev a = BitVec.ofNat 32 (reversed a) := by
  rw [bitRev, revBits_eq, reversed]

/-- A test that holds below m and fails at m. -/
theorem length_takeWhile_range {p : Nat → Bool} {m n : Nat} (hm : m < n) (h : ∀ k < m, p k = true) (hf : p m = false) :
    ((List.range n).takeWhile p).length = m := by
  obtain ⟨r, rfl⟩ := Nat.exists_eq_add_of_lt hm
  rw [Nat.add_assoc, List.range_add, List.takeWhile_append_of_pos (fun k hk => h k (List.mem_range.mp hk)), List.range_succ_eq_map]
  simp [hf]

theorem leadZero_eq (a : Word) : leadZero a = BitVec.ofNat 32 (leadingZeros a) := by
  unfold leadZero leadingZeros
  split
  · next h => subst h; rfl
  · next h =>
    have h0 : a.toNat ≠ 0 := fun e => h (BitVec.eq_of_toNat_eq e)
    have hlt : a.toNat.log2 < 32 := (Nat.log2_lt h0).mpr a.isLt
    rw [length_takeWhile_range (m := 31 - a.toNat.log2) (by omega)]
    · intro k hk
      have hb : a.toNat < 2 ^ (31 - k) := Nat.lt_log2_self.trans_le (Nat.pow_le_pow_right two_pos (by omega))
      simp [BitVec.getLsbD, Nat.testBit_lt_two_pow hb]
    · rw [show 31 - (31 - a.toNat.log2) = a.toNat.log2 by omega]
      simp [BitVec.getLsbD, Nat.testBit_log2 h0]

end Sys2Proof.Machine

open Sys2Proof Sys2Proof.Machine Sys2Proof.Claims

/-- Settles O1: each row's operation on words is the table's operation on numbers. -/
theorem integerBinaryResults : Obligations.IntegerBinaryResults := by
  intro e he o s i rest hd hr
  simp only [intBinary, intArithmetic, intLogic, List.cons_append, List.nil_append, List.mem_cons, List.not_mem_nil, or_false] at he
  rcases he with rfl | rfl | rfl | rfl | rfl | rfl | rfl | rfl | rfl | rfl | rfl | rfl | rfl | rfl | rfl | rfl | rfl | rfl
  · exact laneDone_intOp BitVec.add_def rfl hd hr
  · exact laneDone_intOp sub_eq_ofInt rfl hd hr
  · exact laneDone_intOp mul_eq_ofNat rfl hd hr
  · exact laneDone_intOp (fun _ _ => rfl) rfl hd hr
  · exact laneDone_intOp (fun _ _ => rfl) rfl hd hr
  · exact laneDone_intOp minSigned_eq rfl hd hr
  · exact laneDone_intOp minUnsigned_eq rfl hd hr
  · exact laneDone_intOp maxSigned_eq rfl hd hr
  · exact laneDone_intOp maxUnsigned_eq rfl hd hr
  · exact laneDone_intOp (fun _ _ => rfl) rfl hd hr
  · exact laneDone_intOp (fun _ _ => rfl) rfl hd hr
  · exact laneDone_intOp (fun _ _ => rfl) rfl hd hr
  · exact laneDone_intOp shiftL_eq rfl hd hr
  · exact laneDone_intOp shiftR_eq rfl hd hr
  · exact laneDone_intOp shiftA_eq rfl hd hr
  · exact laneDone_intOp rotL_eq rfl hd hr
  · exact laneDone_intOp (fun _ _ => rfl) rfl hd hr
  · exact laneDone_intOp (fun _ _ => rfl) rfl hd hr

/-- Settles O2: counts and reversals are over the 32 bits of the source; the 64-bit forms are the operations on pairs. -/
theorem integerUnaryAndPairResults : Obligations.IntegerUnaryAndPairResults := by
  refine ⟨fun e he o s i rest hd hr => ?_, fun s i rest hd => ⟨fun e he o hr => ?_, fun o hr => laneDone_un64 (f := fun _ a => (a, {})) rfl hd hr⟩⟩
  · simp only [intUnary, List.mem_cons, List.not_mem_nil, or_false] at he
    rcases he with rfl | rfl | rfl | rfl | rfl
    · exact laneDone_intUn absInt_eq rfl hd hr
    · exact laneDone_intUn popCount_eq rfl hd hr
    · exact laneDone_intUn leadZero_eq rfl hd hr
    · exact laneDone_intUn bitRev_eq rfl hd hr
    · exact laneDone_intUn (fun _ => rfl) rfl hd hr
  · simp only [intBinary64, List.mem_cons, List.not_mem_nil, or_false] at he
    rcases he with rfl | rfl
    · simp only [← BitVec.add_def]
      exact laneDone_bin64 (f := fun _ a b => (a + b, {})) rfl hd hr
    · simp only [← sub_eq_ofInt]
      exact laneDone_bin64 (f := fun _ a b => (a - b, {})) rfl hd hr
end

section
/-! SUPPORT. The model's compare conditions are those of Table 6.4: over integers and over the extended real line. -/
namespace Sys2Proof.Machine
open Sys2Proof.Claims

variable {w : Nat}

theorem intCond_iff {cond : BitVec 4} (h : cond.toNat ≤ 9) (a b : BitVec w) : intCond cond a b = true ↔ intCondition a b cond.toNat := by
  unfold intCond
  generalize cond.toNat = n at h ⊢
  interval_cases n <;> simp only [intCondition]
  · rw [beq_iff_eq, BitVec.toNat_inj]
  · rw [bne_iff_ne, Ne, Ne, BitVec.toNat_inj]
  · rw [BitVec.slt_iff_toInt_lt]
  · rw [BitVec.sle_iff_toInt_le]
  · rw [BitVec.slt_iff_toInt_lt]
  · rw [BitVec.sle_iff_toInt_le]
  · rw [BitVec.ult_iff_toNat_lt]
  · rw [BitVec.ule_iff_toNat_le]
  · rw [BitVec.ult_iff_toNat_lt]
  · rw [BitVec.ule_iff_toNat_le]

/-- Two numbers are in one of three orders. -/
theorem same_iff (x y : FVal) : same x y ↔ ¬ unordered x y ∧ ¬ less x y ∧ ¬ less y x := by
  constructor
  · rintro h
    have h' := h
    obtain ⟨a, hx, hy⟩ := h'
    exact ⟨by simp [unordered, hx, hy], not_less_of_same h, not_less_of_same (same_symm h)⟩
  · rintro ⟨hu, hxy, hyx⟩
    rw [unordered, not_or] at hu
    obtain ⟨a, ha⟩ := Option.ne_none_iff_exists'.mp hu.1
    obtain ⟨b, hb⟩ := Option.ne_none_iff_exists'.mp hu.2
    rw [less_iff_of_place ha hb] at hxy
    rw [less_iff_of_place hb ha] at hyx
    exact ⟨a, ha, by rw [hb, le_antisymm (not_lt.mp hyx) (not_lt.mp hxy)]⟩

theorem not_unordered_of_less {x y : FVal} (h : less x y) : ¬ unordered x y := by
  obtain ⟨a, b, hx, hy, -⟩ := h
  simp [unordered, hx, hy]

theorem unordered_symm {x y : FVal} : unordered x y ↔ unordered y x := or_comm

/-- The model's test for a NaN among two operands. -/
def eitherNan (x y : FVal) : Bool := match x, y with | .nan _, _ => true | _, .nan _ => true | _, _ => false

theorem eitherNan_iff (x y : FVal) : eitherNan x y = true ↔ unordered x y := by
  have hn : ∀ z : FVal, (match z with | .nan _ => true | _ => false) = true ↔ place z = none := by
    intro z
    cases z with
    | nan q => simp [place]
    | inf s => cases s <;> simp [place]
    | fin s m e => simp [place]
  rw [unordered, ← hn, ← hn]
  cases x <;> cases y <;> simp [eitherNan]

/-- A condition of Table 6.4 from whether its operands are unordered, the first is less, the second is less. -/
def floatTest (un lt gt : Bool) : Nat → Bool
  | 0 => !un && !lt && !gt
  | 1 => un || lt || gt
  | 2 => !un && lt
  | 3 => !un && !gt
  | 4 => !un && gt
  | 5 => !un && !lt
  | 6 => un || lt
  | 7 => un || !gt
  | 8 => un || gt
  | 9 => un || !lt
  | 10 => !un
  | _ => un

theorem cmpFloat_eq (n : Nat) (x y : FVal) : cmpFloat n x y = floatTest (eitherNan x y) (ltVal x y) (ltVal y x) n := rfl

theorem cmpFloat_iff {n : Nat} (h : n ≤ 11) (x y : FVal) : cmpFloat n x y = true ↔ floatCondition x y n := by
  have hlt := @not_unordered_of_less x y
  have hgt := fun hl => mt unordered_symm.mp (@not_unordered_of_less y x hl)
  have hasymm := @less_asymm x y
  rw [cmpFloat_eq]
  interval_cases n <;>
    simp only [floatTest, floatCondition, same_iff, Bool.and_eq_true, Bool.or_eq_true, Bool.not_eq_true', Bool.eq_false_iff, ne_eq,
      eitherNan_iff, ltVal_iff_less] <;>
    tauto

variable {ins : Instr} {k : SrcKind} {s : State} {i : Issue} {rest : List Issue} {o : PCmp}

theorem laneDone_compare32 {f : Group → Word → Word → Bool × Flags} (hx : exec ins s = .next (runLanes s 1 (compare32 k o f)))
    (hd : Head s i rest) (hr : ∀ m ∈ i.members, reads32 s k o.a m ∧ reads32 s k o.b m) :
    LaneDone ins s i rest 1 (fun g t => shiftLatch (putPred t o.pd (f g (src32 k g t o.a) (src32 k g t o.b)).1) 0)
      fun g t => (f g (src32 k g t o.a) (src32 k g t o.b)).2 :=
  runs_lanes hx hd fun m hm => by
    obtain ⟨ha, hb⟩ := hr m hm
    obtain ⟨g, t, hmem, hra⟩ := reads32_member ha
    exact ⟨g, t, hmem, compare32_ok hra (reads32_of hmem hb), by simp⟩

theorem laneDone_compare64 {f : Group → DWord → DWord → Bool × Flags} (hx : exec ins s = .next (runLanes s 1 (compare64 k o f)))
    (hd : Head s i rest) (hr : ∀ m ∈ i.members, reads64 s k o.a m ∧ reads64 s k o.b m) :
    LaneDone ins s i rest 1 (fun g t => shiftLatch (putPred t o.pd (f g (src64 k g t o.a) (src64 k g t o.b)).1) 0)
      fun g t => (f g (src64 k g t o.a) (src64 k g t o.b)).2 :=
  runs_lanes hx hd fun m hm => by
    obtain ⟨ha, hb⟩ := hr m hm
    obtain ⟨g, t, hmem, hra⟩ := reads64_member ha
    exact ⟨g, t, hmem, compare64_ok hra (reads64_of hmem hb), by simp⟩

theorem signalling_pair (x y : FVal) : signalling [x, y] = { nv := x = .nan true || y = .nan true } := by
  simp [signalling, eq_comm]

/-- The flags and values of a float compare as the statement reads them. -/
theorem floatCond_eq {p : FParams} (hp : p ∈ arithFormats) (cond : BitVec 4) (fpm : Word) (a b : Nat) :
    floatCond p cond fpm a b = (cmpFloat cond.toNat (operand p fpm a) (operand p fpm b),
      { nv := operand p fpm a = .nan true || operand p fpm b = .nan true }) := by
  rw [← signalling_pair, ← sigFlags_eq, ← operand_eq hp, ← operand_eq hp]
  rfl

end Sys2Proof.Machine

open Sys2Proof Sys2Proof.Machine Sys2Proof.Claims

/-- Settles O3: the predicate is the model's test, which is the table's condition on numbers or on the extended real line. -/
theorem compareResults : Obligations.CompareResults := by
  refine ⟨fun o s i rest hd hc => ⟨fun hr => ?_, fun hr => ?_⟩, fun o s i rest hd hc => ⟨fun hr => ?_, fun hr => ?_⟩⟩
  · exact ⟨intCond o.cond, intCond_iff hc, laneDone_compare32 (f := fun _ a b => (intCond o.cond a b, {})) rfl hd hr⟩
  · exact ⟨intCond o.cond, intCond_iff hc, laneDone_compare64 (f := fun _ a b => (intCond o.cond a b, {})) rfl hd hr⟩
  · have hl := laneDone_compare32 (ins := .fcmp o) (k := .f32) (f := fun g a b => floatCond f32P o.cond g.ctl.fpm a.toNat b.toNat) rfl hd hr
    simp only [floatCond_eq f32P_mem] at hl
    exact ⟨cmpFloat o.cond.toNat, cmpFloat_iff hc, hl⟩
  · have hl := laneDone_compare64 (ins := .dcmp o) (k := .f64) (f := fun g a b => floatCond f64P o.cond g.ctl.fpm a.toNat b.toNat) rfl hd hr
    simp only [floatCond_eq f64P_mem] at hl
    exact ⟨cmpFloat o.cond.toNat, cmpFloat_iff hc, hl⟩

/-- Settles O4: predicate instructions read no source that can fault, but `pset`, which reads one word. -/
theorem predicateResults : Obligations.PredicateResults := by
  refine fun s i rest hd hm => ⟨fun e he o => ?_, fun o => laneDone_plain rfl hd hm fun _ _ => put32_idx .., fun o hr => ?_⟩
  · simp only [predBinary, List.mem_cons, List.not_mem_nil, or_false] at he
    rcases he with rfl | rfl | rfl | rfl <;>
      exact laneDone_plain rfl hd hm fun _ _ => (shiftLatch_idx ..).trans (putPred_idx ..)
  · refine runs_lanes rfl hd fun m hmi => ?_
    obtain ⟨g, t, hmem, ha⟩ := reads32_member (hr m hmi)
    refine ⟨g, t, hmem, ?_, (shiftLatch_idx ..).trans (putPred_idx ..)⟩
    rw [ha]
    rfl
end

section
/-! SUPPORT. Floating-point sums, products and fused products: the model rounds once under `fpm`, as R129 states it. -/
namespace Sys2Proof.Machine
open Sys2Proof.Claims

/-- An arithmetic format flushes under its own bit of `fpm` (R129). -/
theorem flushes_eq {p : FParams} (hp : p ∈ arithFormats) (fpm : Word) :
    flushes fpm p = if p.ebits = 11 then fpmFtz64 fpm else fpmFtz fpm := by
  simp only [arithFormats, packedFormats, List.mem_cons, List.not_mem_nil, or_false] at hp
  rcases hp with rfl | rfl | rfl | rfl <;> rfl

theorem floatBits_eq {p : FParams} (hp : p ∈ arithFormats) (f : Nat → FVal → FVal → Exact) (fpm : Word) (a b : Nat) :
    floatBits p f fpm a b = roundedPair p f fpm a b := by
  rw [floatBits, finish, flushes_eq hp]
  rfl

theorem roundedPair_lt {p : FParams} (hp : p ∈ packedFormats) (f : Nat → FVal → FVal → Exact) (fpm : Word) (a b : Nat) :
    (roundedPair p f fpm a b).1 < 65536 := by
  simp only [packedFormats, List.mem_cons, List.not_mem_nil, or_false] at hp
  rcases hp with rfl | rfl <;> exact roundFlt_lt ⟨by decide, by decide, by decide⟩ ..

theorem fmaBits_eq {p : FParams} (hp : p ∈ arithFormats) (o : FmaOp) (fpm : Word) (a b c : Nat) :
    fmaBits p o fpm a b c = fusedResult p o fpm a b c := by
  rw [fmaBits, operand_eq hp, operand_eq hp, operand_eq hp, finish, flushes_eq hp]
  rfl

theorem fusedResult_lt {p : FParams} (hp : p ∈ packedFormats) (o : FmaOp) (fpm : Word) (a b c : Nat) :
    (fusedResult p o fpm a b c).1 < 65536 := by
  simp only [packedFormats, List.mem_cons, List.not_mem_nil, or_false] at hp
  rcases hp with rfl | rfl <;> exact roundFlt_lt ⟨by decide, by decide, by decide⟩ ..

variable {ins : Instr} {k : SrcKind} {p : FParams} {s : State} {i : Issue} {rest : List Issue}

theorem laneDone_arith32 {o : RBin} {f : Nat → FVal → FVal → Exact}
    (hx : exec ins s = .next (runLanes s 1 (bin32 .f32 o (f32Op (floatBits f32P f))))) (hd : Head s i rest)
    (hr : ∀ m ∈ i.members, reads32 s .f32 o.a m ∧ reads32 s .f32 o.b m) :
    let r (g : Group) (t : Thread) := roundedPair f32P f g.ctl.fpm (src32 .f32 g t o.a).toNat (src32 .f32 g t o.b).toNat
    LaneDone ins s i rest 1 (fun g t => put32 t o.nw o.d (BitVec.ofNat 32 (r g t).1)) fun g t => (r g t).2 := by
  simpa only [f32Op, floatBits_eq f32P_mem] using laneDone_bin32 hx hd hr

theorem laneDone_arith64 {o : RBin} {f : Nat → FVal → FVal → Exact}
    (hx : exec ins s = .next (runLanes s 1 (bin64 .f64 o (f64Op (floatBits f64P f))))) (hd : Head s i rest)
    (hr : ∀ m ∈ i.members, reads64 s .f64 o.a m ∧ reads64 s .f64 o.b m) :
    let r (g : Group) (t : Thread) := roundedPair f64P f g.ctl.fpm (src64 .f64 g t o.a).toNat (src64 .f64 g t o.b).toNat
    LaneDone ins s i rest 1 (fun g t => put64 t o.nw o.d (BitVec.ofNat 64 (r g t).1)) fun g t => (r g t).2 := by
  simpa only [f64Op, floatBits_eq f64P_mem] using laneDone_bin64 hx hd hr

theorem laneDone_arithPacked {o : RBin} {f : Nat → FVal → FVal → Exact} (hp : p ∈ packedFormats)
    (hx : exec ins s = .next (runLanes s 1 (bin32 k o (packed (floatBits p f))))) (hd : Head s i rest)
    (hr : ∀ m ∈ i.members, reads32 s k o.a m ∧ reads32 s k o.b m) :
    let half (h : Nat) (g : Group) (t : Thread) := roundedPair p f g.ctl.fpm
      ((src32 k g t o.a).extractLsb' (16 * h) 16).toNat ((src32 k g t o.b).extractLsb' (16 * h) 16).toNat
    LaneDone ins s i rest 1 (fun g t => put32 t o.nw o.d (BitVec.ofNat 16 (half 1 g t).1 ++ BitVec.ofNat 16 (half 0 g t).1))
      fun g t => orFlags (half 0 g t).2 (half 1 g t).2 := by
  simpa only [packed, floatBits_eq (mem_arithFormats_of_packed hp), ofNat_halves _ (roundedPair_lt hp ..), toNat_lowHalf,
    toNat_highHalf] using laneDone_bin32 hx hd hr

/-! ## Three sources under a guard -/

theorem guarded64_idx (gd : Guard) (nw : Bool) (d : BitVec 7) (r : Group → Thread → DWord) (g : Group) (t : Thread) :
    (guarded64 gd nw d r g t).idx = t.idx := by
  unfold guarded64
  split
  · exact put64_idx ..
  · exact keep64_idx ..

theorem laneDone_tri32 {w : Nat} {nw : Bool} {d : BitVec 7} {gd : Guard} {sa sb sc : Src}
    {f : Group → Thread → Word → Word → Word → Word × Flags} {h : Group → Thread → Word × Flags}
    (hx : exec ins s = .next (runLanes s w (tri32 k nw d gd sa sb sc f))) (hd : Head s i rest)
    (hr : ∀ m ∈ i.members, guardedReads32 s gd [(k, sa), (k, sb), (k, sc)] m)
    (hf : ∀ g t, f g t (src32 k g t sa) (src32 k g t sb) (src32 k g t sc) = h g t) :
    LaneDone ins s i rest w (guarded32 gd nw d fun g t => (h g t).1) (guardedFlags gd fun g t => (h g t).2) :=
  runs_lanes hx hd fun m hmi => by
    obtain ⟨g, t, hmem⟩ := isMember_iff.mp (hr m hmi).1
    refine ⟨g, t, hmem, ?_, guarded32_idx ..⟩
    cases hg : guardTrue t gd with
    | true =>
      have hrs := guardedReads32_of hmem hg (hr m hmi)
      rw [tri32_ok hg (hrs (k, sa) (by simp)) (hrs (k, sb) (by simp)) (hrs (k, sc) (by simp)), hf]
      simp [guarded32, guardedFlags, hg]
    | false =>
      rw [tri32_off hg]
      simp [guarded32, guardedFlags, hg]

theorem guardedFlags_none (gd : Guard) : guardedFlags gd (fun _ _ => {}) = noFlags := by
  funext g t
  simp [guardedFlags, noFlags]

/-- The same for an instruction that raises no flag. -/
theorem laneDone_tri32_plain {w : Nat} {nw : Bool} {d : BitVec 7} {gd : Guard} {sa sb sc : Src}
    {f : Group → Thread → Word → Word → Word → Word × Flags} {h : Group → Thread → Word}
    (hx : exec ins s = .next (runLanes s w (tri32 k nw d gd sa sb sc f))) (hd : Head s i rest)
    (hr : ∀ m ∈ i.members, guardedReads32 s gd [(k, sa), (k, sb), (k, sc)] m)
    (hf : ∀ g t, f g t (src32 k g t sa) (src32 k g t sb) (src32 k g t sc) = (h g t, {})) :
    LaneDone ins s i rest w (guarded32 gd nw d h) noFlags := by
  have hl := laneDone_tri32 (h := fun g t => (h g t, {})) hx hd hr hf
  rwa [guardedFlags_none] at hl

theorem laneDone_fmaPacked {o : FmaOp} (hp : p ∈ packedFormats) (hx : exec ins s = .next (runLanes s 2 (fma32 k o (packedFma p o))))
    (hd : Head s i rest) (hr : ∀ m ∈ i.members, guardedReads32 s o.g [(k, o.a), (k, o.b), (k, o.c)] m) :
    let half (h : Nat) (g : Group) (t : Thread) := fusedResult p o g.ctl.fpm ((src32 k g t o.a).extractLsb' (16 * h) 16).toNat
      ((src32 k g t o.b).extractLsb' (16 * h) 16).toNat ((src32 k g t o.c).extractLsb' (16 * h) 16).toNat
    LaneDone ins s i rest 2 (guarded32 o.g o.nw o.d fun g t => BitVec.ofNat 16 (half 1 g t).1 ++ BitVec.ofNat 16 (half 0 g t).1)
      (guardedFlags o.g fun g t => orFlags (half 0 g t).2 (half 1 g t).2) := by
  have hl := laneDone_tri32 hx hd hr fun _ _ => rfl
  simpa only [packedFma, fmaBits_eq (mem_arithFormats_of_packed hp), ofNat_halves _ (fusedResult_lt hp ..), toNat_lowHalf,
    toNat_highHalf] using hl

theorem fma64_ok {o : FmaOp} {g : Group} {t : Thread} (hg : guardTrue t o.g = true)
    (hr : ∀ e ∈ [(SrcKind.f64, o.a), (.f64, o.b), (.f64, o.c)], readSrc64 e.1 g t e.2 = .ok (src64 e.1 g t e.2)) :
    let r := fusedResult f64P o g.ctl.fpm (src64 .f64 g t o.a).toNat (src64 .f64 g t o.b).toNat (src64 .f64 g t o.c).toNat
    fma64 o g t = .ok (put64 t o.nw o.d (BitVec.ofNat 64 r.1), r.2) := by
  have ha := hr (.f64, o.a) (by simp)
  have hb := hr (.f64, o.b) (by simp)
  have hc := hr (.f64, o.c) (by simp)
  rw [← fmaBits_eq f64P_mem]
  simp only [fma64, hg, if_true, ha, hb, hc]
  rfl

theorem laneDone_dfus {o : FmaOp} (hd : Head s i rest)
    (hr : ∀ m ∈ i.members, guardedReads64 s o.g [(.f64, o.a), (.f64, o.b), (.f64, o.c)] m) :
    let r (g : Group) (t : Thread) := fusedResult f64P o g.ctl.fpm (src64 .f64 g t o.a).toNat (src64 .f64 g t o.b).toNat
      (src64 .f64 g t o.c).toNat
    LaneDone (.dfus o) s i rest 2 (guarded64 o.g o.nw o.d fun g t => BitVec.ofNat 64 (r g t).1) (guardedFlags o.g fun g t => (r g t).2) :=
  runs_lanes (f := fma64 o) rfl hd fun m hmi => by
    obtain ⟨g, t, hmem⟩ := isMember_iff.mp (hr m hmi).1
    refine ⟨g, t, hmem, ?_, guarded64_idx ..⟩
    cases hg : guardTrue t o.g with
    | true =>
      rw [fma64_ok hg (guardedReads64_of hmem hg (hr m hmi))]
      simp [guarded64, guardedFlags, hg]
    | false => simp [fma64, guarded64, guardedFlags, hg, plain]

/-! ## Bit fields -/

theorem extractField_eq (o : BfxOp) (a c : Word) : extractField o.signed o.width.toNat a c = fieldExtracted o a c := by
  simp [extractField, fieldExtracted, field, and_assoc]

theorem imad_eq (a b c : Word) : a * b + c = BitVec.ofNat 32 (a.toNat * b.toNat + c.toNat) := by
  rw [mul_eq_ofNat, BitVec.ofNat_add, BitVec.ofNat_toNat (x := c), BitVec.setWidth_eq]

/-- A zero source can always be read beside others. -/
theorem guardedReads32_zero {gd : Guard} {as bs : List (SrcKind × Src)} {m : Nat × Nat} (h : guardedReads32 s gd as m)
    (hbs : ∀ e ∈ bs, e ∈ as ∨ e.2 = .zero) : guardedReads32 s gd bs m := by
  obtain ⟨hm, hr⟩ := h
  refine ⟨hm, fun hg e he => ?_⟩
  rcases hbs e he with ha | hz
  · exact hr hg e ha
  · obtain ⟨g, t, hmem⟩ := isMember_iff.mp hm
    rw [hz, reads32, hmem]
    rfl

end Sys2Proof.Machine

open Sys2Proof Sys2Proof.Machine Sys2Proof.Claims

/-- Settles O5: the model's `floatBits` is the exact result rounded once with the flags of both. -/
theorem floatArithmeticResults : Obligations.FloatArithmeticResults := by
  refine fun o s i rest hd => ⟨fun hr e he => ?_, fun hr e he => ?_⟩
  · simp only [arith32, List.mem_cons, List.not_mem_nil, or_false] at he
    rcases he with rfl | rfl | rfl <;> exact laneDone_arith32 rfl hd hr
  · simp only [arith64, List.mem_cons, List.not_mem_nil, or_false] at he
    rcases he with rfl | rfl | rfl <;> exact laneDone_arith64 rfl hd hr

/-- Settles O6: both halves are rounded on their own, and each fits its 16 bits. -/
theorem packedArithmeticResults : Obligations.PackedArithmeticResults := by
  intro o s i rest hd e he hr
  simp only [arithPacked, List.mem_cons, List.not_mem_nil, or_false] at he
  rcases he with rfl | rfl | rfl | rfl
  · exact laneDone_arithPacked f16P_mem rfl hd hr
  · exact laneDone_arithPacked f16P_mem rfl hd hr
  · exact laneDone_arithPacked bf16P_mem rfl hd hr
  · exact laneDone_arithPacked bf16P_mem rfl hd hr

/-- Settles O9: one rounding of the exact a × b + c, in threads whose guard is true. -/
theorem fusedResults : Obligations.FusedResults := by
  refine fun o s i rest hd => ⟨fun hr => ?_, laneDone_dfus hd, fun e he hr => ?_⟩
  · have hl := laneDone_tri32 (ins := .ffus o) rfl hd hr fun _ _ => rfl
    simpa only [fmaBits_eq f32P_mem] using hl
  · simp only [fusedPacked, List.mem_cons, List.not_mem_nil, or_false] at he
    rcases he with rfl | rfl
    · exact laneDone_fmaPacked f16P_mem rfl hd hr
    · exact laneDone_fmaPacked bf16P_mem rfl hd hr

/-- Settles O10: the operations of R144 on the sources of threads whose guard is true. -/
theorem selectAndBitFieldResults : Obligations.SelectAndBitFieldResults := by
  refine fun s i rest hd => ⟨fun o hr => ?_, fun o hr => ?_, fun o hr => ?_, fun o hr => ?_⟩
  · exact laneDone_tri32_plain rfl hd hr fun g t => by rw [imad_eq]
  · exact laneDone_tri32_plain rfl hd (fun m hm => guardedReads32_zero (hr m hm) (by simp)) fun g t => rfl
  · exact laneDone_tri32_plain rfl hd (fun m hm => guardedReads32_zero (hr m hm) (by simp)) fun g t => by rw [extractField_eq]
  · exact laneDone_tri32_plain rfl hd hr fun g t => rfl
end

section
/-! SUPPORT. `cvt` (R145): its source bits, its random bits, its result; index registers (R150). -/
namespace Sys2Proof.Machine
open Sys2Proof.Claims

theorem wideCode_eq (c : BitVec 5) : wideCode c = is64Fmt c := by
  have h : ∀ k : BitVec 5, (c == k) = (c.toNat == k.toNat) := fun k => by
    rw [Bool.eq_iff_iff, beq_iff_eq, beq_iff_eq, BitVec.toNat_inj]
  simp [wideCode, is64Fmt, h]

theorem narrowConst_eq (o : CvtOp) : narrowConst o = if 12 ≤ o.fromF.toNat then constantValue o.a else none := by
  unfold narrowConst
  by_cases h : 12 ≤ o.fromF.toNat
  · rw [if_pos h, if_neg (by omega)]
    cases o.a with
    | int n => simp [constantValue, intVal]
    | _ => rfl
  · rw [if_neg h, if_pos (by omega)]

variable {s : State} {i : Issue} {rest : List Issue} {o : CvtOp} {g : Group} {t : Thread}

theorem cvtSource_ok {m : Nat × Nat} (hmem : memberOf s m = some (g, t)) (hg : guardTrue t o.g = true)
    (h : if is64Fmt o.fromF then guardedReads64 s o.g [(srcKindOf o.fromF, o.a)] m
      else guardedReads32 s o.g [(srcKindOf o.fromF, o.a)] m) : cvtSource o g t = .ok (cvtBits o g t) := by
  unfold cvtSource cvtBits
  rw [wideCode_eq]
  cases hw : is64Fmt o.fromF with
  | true =>
    rw [hw, if_pos rfl] at h
    have ha := guardedReads64_of hmem hg h (srcKindOf o.fromF, o.a) (by simp)
    dsimp only at ha
    rw [ha]
    rfl
  | false =>
    rw [hw, if_neg Bool.false_ne_true] at h
    have ha := guardedReads32_of hmem hg h (srcKindOf o.fromF, o.a) (by simp)
    dsimp only at ha
    rw [ha]
    rfl

/-- A thread converts its source bits, drawing random bits only under rm = 5. -/
theorem convertLane_ok {ff tf : Fmt} (hg : guardTrue t o.g = true) (hf : fmtOf o.fromF.toNat = some ff) (ht : fmtOf o.toF.toNat = some tf)
    (hs : cvtSource o g t = .ok (cvtBits o g t)) (hc : o.rm = 5 → readSrc32 .int g t o.c = .ok (src32 .int g t o.c)) :
    convertLane o g t = .ok
      (if is64Fmt o.toF then put64 t o.nw o.d (BitVec.ofNat 64 (placeResult tf (cvtResult o ff tf g t).1))
        else put32 t o.nw o.d (BitVec.ofNat 32 (placeResult tf (cvtResult o ff tf g t).1)), (cvtResult o ff tf g t).2) := by
  have hu : ∀ j, j = (if o.rm = 5 then src32 .int g t o.c else 0) →
      (if o.rm = 5 then srbits g.ctl.srkey.toNat g.ctl.srn.toNat ((g.gid * g.record.threads + t.idx) % 2 ^ 32) j.toNat else 0) =
        cvtRandom o g t := by
    rintro j rfl
    unfold cvtRandom
    by_cases h5 : o.rm = 5
    · rw [if_pos h5, if_pos h5, if_pos h5]
    · rw [if_neg h5, if_neg h5]
  have hj : (if o.rm = 5 then readSrc32 .int g t o.c else pure 0) = Except.ok (if o.rm = 5 then src32 .int g t o.c else 0) := by
    by_cases h5 : o.rm = 5
    · rw [if_pos h5, if_pos h5, hc h5]
    · rw [if_neg h5, if_neg h5]
      rfl
  unfold convertLane
  rw [if_pos hg, hs, hj]
  simp only [bind, Except.bind, hu _ rfl, hf, ht, narrowConst_eq, wideCode_eq, pure, Except.pure]
  unfold cvtResult
  rfl

theorem convertLane_off (hg : guardTrue t o.g = false) :
    convertLane o g t = .ok (if is64Fmt o.toF then keep64 t o.nw o.d else keep32 t o.nw o.d, {}) := by
  simp [convertLane, hg, plain, wideCode_eq]

end Sys2Proof.Machine

open Sys2Proof Sys2Proof.Machine Sys2Proof.Claims

/-- Settles O11: the source is read as its format asks, and the result placed by the width of the target. -/
theorem conversionResults : Obligations.ConversionResults := by
  intro o s i rest ff tf hd hff htf hc ha
  have hok : ∀ m ∈ i.members, ∃ g t, memberOf s m = some (g, t) ∧ (guardTrue t o.g = true → convertLane o g t = .ok
      (if is64Fmt o.toF then put64 t o.nw o.d (BitVec.ofNat 64 (placeResult tf (cvtResult o ff tf g t).1))
        else put32 t o.nw o.d (BitVec.ofNat 32 (placeResult tf (cvtResult o ff tf g t).1)), (cvtResult o ff tf g t).2)) := by
    intro m hmi
    obtain ⟨g, t, hmem⟩ := isMember_iff.mp (hc m hmi).1
    refine ⟨g, t, hmem, fun hg => convertLane_ok hg hff htf (cvtSource_ok hmem hg (ha m hmi)) fun h5 => ?_⟩
    exact guardedReads32_of hmem hg (hc m hmi) (.int, o.c) (by simp [h5])
  cases hw : is64Fmt o.toF with
  | true =>
    refine runs_lanes (f := convertLane o) rfl hd fun m hmi => ?_
    obtain ⟨g, t, hmem, h⟩ := hok m hmi
    refine ⟨g, t, hmem, ?_, guarded64_idx ..⟩
    cases hg : guardTrue t o.g with
    | true => simp [h hg, hw, guarded64, guardedFlags, hg]
    | false => simp [convertLane_off hg, hw, guarded64, guardedFlags, hg]
  | false =>
    refine runs_lanes (f := convertLane o) rfl hd fun m hmi => ?_
    obtain ⟨g, t, hmem, h⟩ := hok m hmi
    refine ⟨g, t, hmem, ?_, guarded32_idx ..⟩
    cases hg : guardTrue t o.g with
    | true => simp [h hg, hw, guarded32, guardedFlags, hg]
    | false => simp [convertLane_off hg, hw, guarded32, guardedFlags, hg]

end

section
/-! SUPPORT. Index registers and `put` (R150, R66): the window check of a register and the halves of a pair. -/
namespace Sys2Proof.Machine
open Sys2Proof.Claims

theorem low_half (x : DWord) : x.setWidth 32 = x.extractLsb' 0 32 := by
  ext j hj
  simp [BitVec.getElem_setWidth, BitVec.getElem_extractLsb']

theorem high_half (x : DWord) : (x >>> 32).setWidth 32 = x.extractLsb' 32 32 := by
  ext j hj
  simp [BitVec.getElem_setWidth, BitVec.getElem_extractLsb']

theorem indexed_ok {s : State} {m : Nat × Nat} {g : Group} {t : Thread} {k : BitVec 2} (hm : memberOf s m = some (g, t))
    (h : inWindow s k m = true) : indexed t k 1 = .ok (t.x.getD k.toNat 0).toNat := by
  simp only [inWindow, hm, Bool.and_eq_true, decide_eq_true_eq] at h
  obtain ⟨hlo, hhi⟩ := h
  unfold indexed
  refine if_pos ?_
  rw [Bool.and_eq_true, Bool.and_eq_true, decide_eq_true_eq, decide_eq_true_eq]
  exact ⟨⟨hlo, Nat.succ_le_succ hhi⟩, rfl⟩

theorem laneDone_xwin {s : State} {i : Issue} {rest : List Issue} (hd : Head s i rest) (o : WinOp)
    (hr : ∀ m ∈ i.members, reads32 s .int o.a m ∧ reads32 s .int o.b m) :
    LaneDone (.xwin o) s i rest 1 (fun g t => shiftLatch
      { t with
        winLo := BitVec.ofNat 7 (min (src32 .int g t o.a).toNat 127)
        winHi := BitVec.ofNat 7 (min (src32 .int g t o.b).toNat (g.regCount - 1)) } 0) noFlags := by
  refine runs_lanes rfl hd fun m hmi => ?_
  obtain ⟨ha, hb⟩ := hr m hmi
  obtain ⟨g, t, hmem, hra⟩ := reads32_member ha
  refine ⟨g, t, hmem, ?_, rfl⟩
  rw [hra, reads32_of hmem hb]
  rfl

theorem laneDone_xset {s : State} {i : Issue} {rest : List Issue} (hd : Head s i rest) (o : IdxOp)
    (hr : ∀ m ∈ i.members, reads32 s .int o.a m) :
    LaneDone (.xset o) s i rest 1
      (fun g t => shiftLatch { t with x := t.x.set o.k.toNat ((src32 .int g t o.a).setWidth 7) } 0) noFlags := by
  refine runs_lanes rfl hd fun m hmi => ?_
  obtain ⟨g, t, hmem, hra⟩ := reads32_member (hr m hmi)
  refine ⟨g, t, hmem, ?_, rfl⟩
  rw [hra]
  rfl

theorem laneDone_xput {s : State} {i : Issue} {rest : List Issue} (hd : Head s i rest) (o : IdxOp)
    (hr : ∀ m ∈ i.members, reads32 s .int o.a m ∧ inWindow s o.k m) :
    LaneDone (.xput o) s i rest 1
      (fun g t => shiftLatch (setReg t (t.x.getD o.k.toNat 0).toNat (src32 .int g t o.a)) 0) noFlags := by
  refine runs_lanes rfl hd fun m hmi => ?_
  obtain ⟨ha, hw⟩ := hr m hmi
  obtain ⟨g, t, hmem, hra⟩ := reads32_member ha
  refine ⟨g, t, hmem, ?_, rfl⟩
  rw [hra, indexed_ok hmem hw]
  rfl

end Sys2Proof.Machine

open Sys2Proof Sys2Proof.Machine Sys2Proof.Claims

/-- Settles O13: each index instruction is a lane function; `put` and a false guard shift one value into the latches. -/
theorem indexRegistersAndPut : Obligations.IndexRegistersAndPut := by
  refine ⟨fun s i rest hd => ⟨laneDone_xwin hd, laneDone_xset hd, laneDone_xput hd⟩, fun t d => ⟨fun x => ?_, fun x => ?_, ?_⟩⟩
  · exact ⟨rfl, rfl, fun nw => by cases nw <;> exact ⟨rfl, rfl⟩⟩
  · refine ⟨?_, rfl, fun nw => by cases nw <;> exact ⟨rfl, rfl⟩⟩
    rw [← low_half, ← high_half]
    rfl
  · exact ⟨rfl, rfl, rfl, rfl, fun nw => ⟨rfl, rfl⟩⟩
end

section
/-! SUPPORT. The affine fit of `aset` (R149): where some base and stride reproduce the sources, `affineFit` finds them. -/
namespace Sys2Proof.Machine
open Sys2Proof.Claims

/-- Two threads fix the stride, so whatever fits is what `affineFit` computes; one thread alone takes stride 0. -/
theorem affineFit_of_fits {vs : List (Nat × Int)} {x : Affine} (hne : vs ≠ []) (hs : vs.Pairwise fun x y => x.1 < y.1)
    (hx : Fits vs x) : ∃ y, affineFit vs = some y ∧ Fits vs y := by
  obtain ⟨b, st, -, hlo, hhi, hv, -⟩ := hx
  match vs, hne with
  | [(t, v)], _ => exact ⟨_, rfl, v, 0, rfl, by omega, by omega, by simp, fun _ => rfl⟩
  | (t0, v0) :: (t1, v1) :: r, _ =>
    have ht : t0 < t1 := (List.pairwise_cons.mp hs).1 (t1, v1) (by simp)
    have h0 : v0 = b + st * t0 := hv (t0, v0) (by simp)
    have h1 : v1 = b + st * t1 := hv (t1, v1) (by simp)
    have hd : (t1 : Int) - t0 ≠ 0 := by omega
    have hdiff : v1 - v0 = st * ((t1 : Int) - t0) := by rw [h0, h1]; ring
    have hst : (v1 - v0) / ((t1 : Int) - t0) = st := by rw [hdiff, Int.mul_ediv_cancel _ hd]
    have hb : v0 - st * t0 = b := by rw [h0]; ring
    have hr : (r.all fun e => e.2 == b + st * e.1) = true := by
      rw [List.all_eq_true]
      exact fun e he => beq_iff_eq.mpr (hv e (by simp [he]))
    refine ⟨{ base := BitVec.ofInt 64 b, stride := BitVec.ofInt 32 st }, ?_, b, st, rfl, hlo, hhi, hv, by simp⟩
    unfold affineFit
    simp only [hst, hb]
    refine if_pos ?_
    simp only [hdiff, hr, Bool.and_true, Bool.and_eq_true, decide_eq_true_eq]
    exact ⟨⟨trivial, hlo⟩, hhi⟩

variable {s : State} {i : Issue} {rest : List Issue}

theorem runs_affine {ins : Instr} {w : Nat} {d : BitVec 4} {f f' : Group → Affine} (hd : Head s i rest)
    (hx : exec ins s = .next (runAffine s w d f)) (hf : ∀ g, f g = f' g) :
    Runs ins s fun s' => GroupsRun s s' i rest w (fun _ t => shiftLatch t 0) (withAffine d f') := by
  obtain rfl : f = f' := funext hf
  exact ⟨_, hx, runAffine_run hd w d f⟩

theorem shiftLeft_eq_ofNat {w : Nat} (x : BitVec w) (n : Nat) : x <<< n = BitVec.ofNat w (x.toNat * 2 ^ n) :=
  BitVec.eq_of_toNat_eq (by simp [Nat.shiftLeft_eq])

/-- With no operand fault the sources that `aset` fits are the members' values. -/
theorem asetSources_eq (hi : s.issues = i :: rest) {a : Src} (hr : ∀ m ∈ i.members, reads32 s .int a m) (gk : Nat) :
    asetSources s gk a = asetValues s i gk a := by
  rw [asetSources, headThreads, headMembers_cons hi, List.filterMap_map, asetValues]
  refine List.filterMap_congr fun m hm => ?_
  obtain ⟨hmi, hgk⟩ := List.mem_filter.mp hm
  obtain ⟨g, t, hmem, hra⟩ := reads32_member (hr m hmi)
  have he : (gk, m.2) = m := Prod.ext (beq_iff_eq.mp hgk).symm rfl
  simp only [Function.comp_apply, he, hmem, hra, Option.map_some]

theorem asetValues_ne_nil {a : Src} (hr : ∀ m ∈ i.members, reads32 s .int a m) {gk : Nat} (hp : takesPart i gk = true) :
    asetValues s i gk a ≠ [] := by
  obtain ⟨m, hmi, hgk⟩ := List.any_eq_true.mp hp
  obtain ⟨g, t, hmem, -⟩ := reads32_member (hr m hmi)
  refine List.ne_nil_of_mem (a := (m.2, (src32 .int g t a).toInt)) (List.mem_filterMap.mpr ⟨m, ?_, ?_⟩)
  · exact List.mem_filter.mpr ⟨hmi, hgk⟩
  · rw [hmem, Option.map_some]

/-- The base and stride that `aset` writes for a group. -/
def asetFit (s : State) (i : Issue) (a : Src) (gk : Nat) : Affine := (affineFit (asetValues s i gk a)).getD {}

theorem asetFit_fits {a : Src} (hr : ∀ m ∈ i.members, reads32 s .int a m)
    (hs : ∀ gk, (asetValues s i gk a).Pairwise fun x y => x.1 < y.1)
    (hf : ∀ gk, takesPart i gk → ∃ x, Fits (asetValues s i gk a) x) {gk : Nat} (hp : takesPart i gk = true) :
    affineFit (asetValues s i gk a) = some (asetFit s i a gk) ∧ Fits (asetValues s i gk a) (asetFit s i a gk) := by
  obtain ⟨x, hx⟩ := hf gk hp
  obtain ⟨y, hy, hfy⟩ := affineFit_of_fits (asetValues_ne_nil hr hp) (hs gk) hx
  have he : asetFit s i a gk = y := by rw [asetFit, hy, Option.getD_some]
  rw [he]
  exact ⟨hy, hfy⟩

theorem execAset_eq (o : AffSet) (hi : s.issues = i :: rest) (hr : ∀ m ∈ i.members, reads32 s .int o.a m)
    (hfit : ∀ gk, takesPart i gk = true → affineFit (asetValues s i gk o.a) = some (asetFit s i o.a gk)) :
    execAset o s = .next (finishInstr (shiftZero
      ((headGroups s).foldl (fun x gk => modGroup x gk fun g => setAffine g o.d.toNat (asetFit s i o.a gk)) s)) 1 []) := by
  have hnf : asetFaults s o.a = [] := by
    rw [asetFaults, headMembers_cons hi, List.filterMap_eq_nil_iff]
    intro m hm
    obtain ⟨g, t, hmem, hra⟩ := reads32_member (hr m hm)
    have hp : takesPart i m.1 = true := List.any_eq_true.mpr ⟨m, hm, beq_iff_eq.mpr rfl⟩
    simp only [hmem, hra, asetSources_eq hi hr, hfit m.1 hp]
    rfl
  unfold execAset
  simp only [hnf, asetSources_eq hi hr]
  congr 3
  refine List.foldl_ext _ _ _ fun x gk hgk => ?_
  rw [hfit gk ((mem_headGroups hi gk).mp hgk)]

end Sys2Proof.Machine

open Sys2Proof Sys2Proof.Machine Sys2Proof.Claims

/-- Settles O15: an affine instruction is a change of each group once; `aset` writes the fit of its sources. -/
theorem affineRegisterResults : Obligations.AffineRegisterResults := by
  refine ⟨fun s i rest hd _ => ⟨?_, ?_, ?_, ?_, ?_⟩, fun o s i rest hd hr hs hf => ⟨asetFit s i o.a, ?_, ?_⟩⟩
  · intro e he o
    simp only [affineBinary, List.mem_cons, List.not_mem_nil, or_false] at he
    rcases he with rfl | rfl | rfl
    · exact runs_affine hd rfl fun _ => rfl
    · exact runs_affine hd rfl fun _ => rfl
    · exact runs_affine hd rfl fun g => congrArg (Affine.mk _) (BitVec.eq_of_toNat_eq (by simp [Nat.mul_mod]))
  · exact fun o => runs_affine hd rfl fun _ => rfl
  · refine fun o => runs_affine hd rfl fun g => ?_
    rw [← shiftLeft_eq_ofNat, ← shiftLeft_eq_ofNat]
  · exact fun o => runs_affine hd rfl fun _ => rfl
  · intro e he o
    simp only [affineImmediate, List.mem_cons, List.not_mem_nil, or_false] at he
    rcases he with rfl | rfl
    · exact runs_affine hd rfl fun _ => rfl
    · exact runs_affine hd rfl fun _ => rfl
  · exact fun gk hp => (asetFit_fits hr hs hf hp).2
  · exact ⟨_, execAset_eq o hd.issues hr fun gk hp => (asetFit_fits hr hs hf hp).1,
      groups_run hd (u := fun gk g => setAffine g o.d.toNat (asetFit s i o.a gk)) (fun _ _ => rfl) (fun _ _ => rfl) 1⟩
end

section
/-! SUPPORT. A converging instruction of one whole group (R36, R151), and what a cross-lane instruction makes of its live threads. -/
namespace Sys2Proof.Machine
open Sys2Proof.Claims

variable {s : State} {i : Issue} {rest : List Issue} {g : Group}

theorem isLive_iff {t : Thread} : isLive t = true ↔ t.status ≠ .exited := by simp [isLive]

theorem mem_liveThreads {t : Thread} : t ∈ liveThreads g ↔ t ∈ g.threads ∧ t.status ≠ .exited := by
  rw [liveThreads, List.mem_filter, isLive_iff]

theorem viewOf_fresh (hi : s.issues = i :: rest) (hst : i.stale = []) (x : Group) : viewOf s x = x := by
  simp [viewOf, staleOf, hi, hst]

/-! ## One whole group -/

end Sys2Proof.Machine

namespace Sys2Proof.Claims.Converged
open Sys2Proof.Machine

variable {s : State} {i : Issue} {rest : List Issue} {g : Group}

variable (hc : Converged s i rest g)
include hc

theorem member_gk {m : Nat × Nat} (hm : m ∈ i.members) : m.1 = g.gk := ((hc.member m).mp hm).1

theorem headGroups : headGroups s = [g.gk] := by
  have hmem : ∀ gk, gk ∈ Machine.headGroups s ↔ gk = g.gk := fun gk => by
    rw [mem_headGroups hc.head.issues, takesPart, List.any_eq_true]
    constructor
    · rintro ⟨m, hm, he⟩
      rw [← beq_iff_eq.mp he, hc.member_gk hm]
    · rintro rfl
      obtain ⟨m, hm⟩ := List.exists_mem_of_ne_nil _ hc.head.nonempty
      exact ⟨m, hm, beq_iff_eq.mpr (hc.member_gk hm)⟩
  have hn := headGroups_nodup s
  generalize Machine.headGroups s = l at hmem hn
  match l with
  | [] => exact absurd ((hmem g.gk).mpr rfl) (by simp)
  | [a] => rw [(hmem a).mp (by simp)]
  | a :: b :: r =>
    have ha := (hmem a).mp (by simp)
    have hb := (hmem b).mp (by simp)
    simp [ha, hb] at hn

/-- Every live thread of the group is a member, with the group as it stands. -/
theorem memberOf {t : Thread} (ht : threadOf g t.idx = some t) : memberOf s (g.gk, t.idx) = some (g, t) := by
  simp [Machine.memberOf, hc.group, ht, viewOf_fresh hc.head.issues hc.fresh]

theorem thread {m : Nat × Nat} (hm : m ∈ i.members) :
    ∃ t, threadOf g m.2 = some t ∧ t.status ≠ .exited ∧ Machine.memberOf s m = some (g, t) := by
  obtain ⟨hgk, t, ht, hl⟩ := (hc.member m).mp hm
  refine ⟨t, ht, hl, ?_⟩
  have he : m = (g.gk, t.idx) := Prod.ext hgk (threadOf_idx ht).symm
  rw [he]
  exact hc.memberOf (by rw [threadOf_idx ht]; exact ht)

theorem threadOf_self {t : Thread} (ht : t ∈ g.threads) : threadOf g t.idx = some t := by
  have hd := hc.distinct
  unfold threadOf
  generalize g.threads = l at hd ht
  induction l with
  | nil => simp at ht
  | cons x l ih =>
    rw [List.map_cons, List.nodup_cons] at hd
    rcases List.mem_cons.mp ht with rfl | ht
    · simp
    · have hne : (x.idx == t.idx) = false := by
        rw [beq_eq_false_iff_ne]
        exact fun e => hd.1 (e ▸ List.mem_map_of_mem (f := fun u : Thread => u.idx) ht)
      rw [List.find?_cons, hne]
      exact ih hd.2 ht

theorem whole : whole s g = true := by
  rw [Machine.whole, List.all_eq_true]
  intro t ht
  obtain ⟨htg, hl⟩ := mem_liveThreads.mp ht
  have hm : (g.gk, t.idx) ∈ i.members := (hc.member _).mpr ⟨rfl, t, hc.threadOf_self htg, hl⟩
  rw [headThreads, headMembers_cons hc.head.issues, List.contains_iff_mem, List.mem_map]
  exact ⟨_, List.mem_filter.mpr ⟨hm, beq_iff_eq.mpr rfl⟩, rfl⟩

/-- A converging instruction runs once, on the one group. -/
theorem runConv (fin : State → State) (f : State → Group → GroupOut) :
    runConv s fin f = closeConv i fin (match f s g with
      | .fault s1 e => (groupFault s1 g.gk e, [])
      | .left s1 => (s1, [])
      | .stall s1 => (s1, [])
      | .done s1 => (s1, [g.gk])) := by
  obtain ⟨hiss, -⟩ := hc.start
  unfold Machine.runConv
  simp only [hc.head.issues, hiss, List.any_nil, Bool.not_false, List.filter_true, hc.headGroups, List.foldl_cons, List.foldl_nil]
  unfold convGroup
  simp only [hc.group, hc.whole, Bool.not_true, Bool.false_eq_true, if_false]
  cases f s g <;> rfl

theorem runConv_done {fin : State → State} {f : State → Group → GroupOut} {s1 : State} (hf : f s g = .done s1)
    (hi : s1.issues = s.issues) : Machine.runConv s fin f = fin s1 := by
  obtain ⟨hiss, -⟩ := hc.start
  have hall : (i.members.filter fun m => ([g.gk] : List Nat).contains m.1) = i.members := by
    rw [List.filter_eq_self]
    intro m hm
    simp [hc.member_gk hm]
  rw [hc.runConv, hf]
  unfold closeConv
  have hin : (i.members.all fun m => i.members.contains m) = true := by simp
  simp only [hi, hc.head.issues, hiss, List.nil_append, hall, hin, Bool.not_true, Bool.false_eq_true, if_false, if_true]

end Sys2Proof.Claims.Converged

namespace Sys2Proof.Machine
open Sys2Proof.Claims

variable {s : State} {i : Issue} {rest : List Issue} {g : Group}

/-! ## Lookups after every thread of a group is mapped -/

theorem threadOf_map {h : Thread → Thread} (hidx : ∀ t, (h t).idx = t.idx) (x : Group) (k : Nat) :
    threadOf { x with threads := x.threads.map h } k = (threadOf x k).map h := by
  unfold threadOf
  simp only [List.find?_map]
  congr 2
  funext t
  simp [hidx]

/-- A group's threads mapped. -/
theorem threadAt_mapThreads {h : Thread → Thread} (hidx : ∀ t, (h t).idx = t.idx) (s : State) (gk : Nat) (n : Nat × Nat) :
    threadAt (modGroup s gk fun x => { x with threads := x.threads.map h }) n =
      if n.1 = gk then (threadAt s n).map h else threadAt s n := by
  unfold threadAt
  by_cases he : n.1 = gk
  · rw [if_pos he, he, groupOf_modGroup (f := fun x => { x with threads := x.threads.map h }) fun _ => rfl]
    cases groupOf s gk with
    | none => rfl
    | some x => exact threadOf_map hidx x n.2
  · rw [if_neg he, groupOf_modGroup_other (f := fun x => { x with threads := x.threads.map h }) (fun _ => rfl) he]

theorem groupOf_mapThreads {h : Thread → Thread} {gk k : Nat} {x : Group} (hx : groupOf s k = some x) :
    ∃ ts, groupOf (modGroup s gk fun x => { x with threads := x.threads.map h }) k = some { x with threads := ts } := by
  by_cases he : k = gk
  · subst he
    exact ⟨_, by rw [groupOf_modGroup (f := fun x => { x with threads := x.threads.map h }) fun _ => rfl, hx]; rfl⟩
  · exact ⟨x.threads, by rw [groupOf_modGroup_other (f := fun x => { x with threads := x.threads.map h }) (fun _ => rfl) he, hx]⟩

theorem fpmAfter_noFlags (s : State) (ms : List (Nat × Nat)) (gk : Nat) (fpm : Word) : fpmAfter noFlags s ms gk fpm = fpm := by
  unfold fpmAfter
  induction ms generalizing fpm with
  | nil => rfl
  | cons m r ih =>
    have h0 : raiseFlags fpm {} = fpm := by simp [raiseFlags, flagWord]
    rw [List.foldl_cons]
    split
    · split
      · rw [noFlags, h0]
        exact ih fpm
      · exact ih fpm
    · exact ih fpm

/-! ## Cross-lane instructions -/

/-- What the live threads of a group read, by thread index. -/
def liveValues (g : Group) (v : Thread → Word) : List (Nat × Word) := (liveThreads g).map fun t => (t.idx, v t)

theorem crossRead_ok {k : Group → Thread → Except FaultInfo Word} {v : Thread → Word} {l : List Thread}
    (h : ∀ t ∈ l, k g t = .ok (v t)) : crossRead k g l = .ok (l.map fun t => (t.idx, v t)) := by
  induction l with
  | nil => rfl
  | cons t l ih =>
    simp only [crossRead, h t (by simp), ih fun u hu => h u (by simp [hu]), List.map_cons]
    rfl

/-- The law of cross-lane instructions whose operands all read: each live thread becomes what `f` makes of it. -/
theorem laneDone_cross {ins : Instr} {a b : Group → Thread → Except FaultInfo Word}
    {f : Group → List (Nat × Word) → Thread → Word → Thread} {res : Group → Thread → Thread} {va vb : Thread → Word}
    (hx : exec ins s = .next (runCross s a b f)) (hc : Converged s i rest g)
    (ha : ∀ t ∈ liveThreads g, a g t = .ok (va t)) (hb : ∀ t ∈ liveThreads g, b g t = .ok (vb t))
    (hres : ∀ t ∈ liveThreads g, f g (liveValues g va) t (laneValue (liveValues g vb) t.idx) = res g t)
    (hidx : ∀ t x, (f g (liveValues g va) t x).idx = t.idx) : LaneDone ins s i rest 1 res noFlags := by
  refine ⟨_, hx, ?_⟩
  let h (t : Thread) : Thread := if isLive t then f g (liveValues g va) t (laneValue (liveValues g vb) t.idx) else t
  have hh : ∀ t, (h t).idx = t.idx := fun t => by
    unfold h
    split
    · exact hidx t _
    · rfl
  obtain ⟨hi, hn, he⟩ := hc.head
  have hrun : runCross s a b f = finishInstr (modGroup s g.gk fun x => { x with threads := x.threads.map h }) 1 [] := by
    unfold runCross
    refine hc.runConv_done ?_ rfl
    dsimp only
    rw [crossRead_ok ha, crossRead_ok hb]
    rfl
  rw [hrun]
  generalize hs1 : modGroup s g.gk (fun x => { x with threads := x.threads.map h }) = s1
  have hi1 : s1.issues = i :: rest := by rw [← hs1]; exact hi
  obtain ⟨am, ao, ag, ai, af⟩ := advance_spec hi1 hn he 1
  have hat : ∀ n, threadAt s1 n = if n.1 = g.gk then (threadAt s n).map h else threadAt s n := fun n => by
    rw [← hs1, threadAt_mapThreads hh]
  rw [finishInstr]
  simp only [List.map_nil, List.isEmpty_nil, if_true]
  refine ⟨fun m hm g' t hmt => ?_, fun n hnm => ?_, fun gk x hgx => ?_, ai, ?_⟩
  · obtain ⟨t', ht', hl, hm'⟩ := hc.thread hm
    rw [hm'] at hmt
    obtain ⟨rfl, rfl⟩ := Prod.mk.inj (Option.some.inj hmt)
    have hlive : t' ∈ liveThreads g := mem_liveThreads.mpr ⟨List.mem_of_find?_eq_some ht', hl⟩
    refine am m hm (res g t') ?_
    rw [hat, if_pos (hc.member_gk hm), (memberOf_eq hm').1, Option.map_some, ← hres t' hlive]
    exact congrArg some (if_pos (isLive_iff.mpr hl))
  · rw [ao n hnm, hat]
    split
    · next hgk =>
      cases ht : threadAt s n with
      | none => rfl
      | some t =>
        have htg : threadOf g n.2 = some t := by simpa [threadAt, hgk, hc.group] using ht
        have hex : t.status = .exited := by
          by_contra hl
          exact hnm ((hc.member n).mpr ⟨hgk, t, htg, hl⟩)
        exact congrArg some (if_neg (by simp [isLive, hex]))
    · rfl
  · obtain ⟨ts, h1⟩ := groupOf_mapThreads (h := h) (gk := g.gk) hgx
    rw [hs1] at h1
    obtain ⟨ts', h2⟩ := ag gk _ h1
    exact ⟨ts', by rw [h2, fpmAfter_noFlags]⟩
  · rw [af, ← hs1]
    rfl

/-- The value of a lane is that of the live thread there, else 0. -/
theorem laneValue_live (hd : (g.threads.map fun t => t.idx).Nodup) (v : Thread → Word) (u : Nat) :
    laneValue (liveValues g v) u = match threadOf g u with
      | some t => if t.status = .exited then 0 else v t
      | none => 0 := by
  unfold laneValue liveValues liveThreads threadOf
  generalize g.threads = l at hd
  induction l with
  | nil => rfl
  | cons x l ih =>
    rw [List.map_cons, List.nodup_cons] at hd
    obtain ⟨hx, hl⟩ := hd
    by_cases hxu : x.idx = u
    · subst hxu
      by_cases hlx : isLive x = true
      · simp [hlx, isLive_iff.mp hlx]
      · have hnone : l.find? (fun t => t.idx == x.idx) = none := by
          rw [List.find?_eq_none]
          intro t ht he
          exact hx (beq_iff_eq.mp he ▸ List.mem_map_of_mem (f := fun u : Thread => u.idx) ht)
        have hex : x.status = .exited := by simpa [isLive] using hlx
        rw [List.filter_cons_of_neg hlx, ih hl, hnone]
        simp [hex]
    · have hf : (x.idx == u) = false := beq_eq_false_iff_ne.mpr hxu
      rw [List.find?_cons, hf, ← ih hl]
      by_cases hlx : isLive x = true
      · simp [hlx, hxu]
      · rw [List.filter_cons_of_neg hlx]

theorem laneValue_sourceOf (hc : Converged s i rest g) (a : Src) (u : Nat) :
    laneValue (liveValues g fun t => src32 .int g t a) u = Claims.sourceOf .int g a u := laneValue_live hc.distinct _ u

theorem sourceOf_live (hc : Converged s i rest g) {t : Thread} (ht : t ∈ liveThreads g) (a : Src) :
    Claims.sourceOf .int g a t.idx = src32 .int g t a := by
  obtain ⟨htg, hl⟩ := mem_liveThreads.mp ht
  simp [Claims.sourceOf, hc.threadOf_self htg, hl]

theorem ballotMask_foldl (vs : List (Nat × Word)) (q i : Nat) (hi : i < 32) (acc : Word) :
    (vs.foldl (fun (m : Word) (e : Nat × Word) =>
      if decide (e.1 / 32 = q) && !(e.2 == 0) then m ||| (1#32 <<< (e.1 % 32)) else m) acc).getLsbD i = true ↔
    acc.getLsbD i = true ∨ ∃ e ∈ vs, e.1 = 32 * q + i ∧ e.2 ≠ 0 := by
  induction vs generalizing acc with
  | nil => simp
  | cons e r ih =>
    have hbit : (1#32 <<< (e.1 % 32)).getLsbD i = true ↔ e.1 % 32 = i := by
      simp only [BitVec.getLsbD_shiftLeft, hi, decide_true, Bool.true_and, Bool.and_eq_true, Bool.not_eq_true', decide_eq_false_iff_not,
        BitVec.getLsbD_one]
      simp
      omega
    rw [List.foldl_cons, ih]
    simp only [List.mem_cons, or_and_right, exists_or, exists_eq_left]
    by_cases hc : e.1 / 32 = q ∧ e.2 ≠ 0
    · have hq : e.1 % 32 = i ↔ e.1 = 32 * q + i ∧ e.2 ≠ 0 := ⟨fun h => ⟨by omega, hc.2⟩, fun h => by omega⟩
      have hcb : (decide (e.1 / 32 = q) && !(e.2 == 0)) = true := by simpa using hc
      rw [if_pos hcb, BitVec.getLsbD_or, Bool.or_eq_true, hbit, hq, or_assoc]
    · have hq : ¬ (e.1 = 32 * q + i ∧ e.2 ≠ 0) := fun h => hc ⟨by omega, h.2⟩
      have hcb : ¬ (decide (e.1 / 32 = q) && !(e.2 == 0)) = true := by simpa using hc
      simp only [if_neg hcb, hq, false_or]

theorem ballotMask_isBallot (a : Src) (q : Nat) : IsBallot g a q (ballotMask (liveValues g fun t => src32 .int g t a) q) := by
  intro i hi
  have h0 : (0 : Word).getLsbD i = false := BitVec.getLsbD_zero
  unfold ballotMask
  rw [ballotMask_foldl _ _ _ hi]
  simp only [liveValues, List.mem_map, mem_liveThreads, h0, Bool.false_eq_true, false_or]
  constructor
  · rintro ⟨_, ⟨t, ⟨ht, hl⟩, rfl⟩, h1, h2⟩
    exact ⟨t, ht, hl, h1, h2⟩
  · rintro ⟨t, ht, hl, h1, h2⟩
    exact ⟨_, ⟨t, ⟨ht, hl⟩, rfl⟩, h1, h2⟩

end Sys2Proof.Machine

open Sys2Proof Sys2Proof.Machine Sys2Proof.Claims

/-- Settles O16: every cross-lane instruction is a function of what the live threads read. -/
theorem crossLaneAndVoteResults : Obligations.CrossLaneAndVoteResults := by
  have hread {g : Group} {a : Src} (h : allRead g a) : ∀ t ∈ liveThreads g, readSrc32 .int g t a = .ok (src32 .int g t a) :=
    fun t ht => h t (mem_liveThreads.mp ht).1 (mem_liveThreads.mp ht).2
  refine ⟨fun s i rest g hc => ⟨fun o ha hb => ?_, fun o ha => ?_⟩, fun s i rest g hc => ⟨fun o ha => ⟨?_, ?_⟩, fun o ha => ?_⟩⟩
  · refine laneDone_cross rfl hc (hread ha) (hread hb) (fun t ht => ?_) fun _ _ => put32_idx ..
    rw [laneValue_sourceOf hc, laneValue_sourceOf hc, sourceOf_live hc ht]
  · refine laneDone_cross rfl hc (hread ha) (fun _ _ => rfl) (fun t ht => ?_) fun _ _ => put32_idx ..
    rw [laneValue_sourceOf hc]
  · refine ⟨(liveValues g fun t => src32 .int g t o.a).any fun e => e.2 != 0, ?_, ?_⟩
    · simp [liveValues, mem_liveThreads, and_assoc]
    · exact laneDone_cross rfl hc (hread ha) (fun _ _ => rfl) (fun _ _ => rfl) fun _ _ => by simp
  · refine ⟨(liveValues g fun t => src32 .int g t o.a).all fun e => e.2 != 0, ?_, ?_⟩
    · simp [liveValues, mem_liveThreads]
    · exact laneDone_cross rfl hc (hread ha) (fun _ _ => rfl) (fun _ _ => rfl) fun _ _ => by simp
  · exact ⟨ballotMask (liveValues g fun t => src32 .int g t o.a), ballotMask_isBallot o.a,
      laneDone_cross rfl hc (hread ha) (fun _ _ => rfl) (fun _ _ => rfl) fun _ _ => put32_idx ..⟩
end

section
/-! SUPPORT. Control transfers (R156 to R158), traps (R160), and a thread alone that goes on elsewhere. -/
namespace Sys2Proof.Machine
open Sys2Proof.Claims

variable {s : State} {i : Issue} {rest : List Issue}

theorem headSite_cons (hi : s.issues = i :: rest) : headSite s = siteOf i := by rw [headSite, hi]

theorem headHdr_cons (hi : s.issues = i :: rest) : headHdr s = i.hdr := by rw [headHdr, headSite_cons hi, siteOf]

theorem headNext_cons (hi : s.issues = i :: rest) : headNext s = nextClause i := by
  rw [headNext, headSite_cons hi]
  rfl

theorem branchTarget_cons (hi : s.issues = i :: rest) (off : BitVec 20) :
    branchTarget s off = i.hdr + BitVec.ofInt 64 (4 * off.toInt) := by
  rw [branchTarget, headHdr_cons hi, BitVec.ofInt_mul]
  rfl

theorem codeFault_none {pc : Nat} (h4 : pc % 4 = 0) (h57 : pc < 2 ^ 57) : codeFault pc = none := by
  rw [codeFault, if_neg (by simp [h4]), if_neg (Nat.not_le.mpr h57)]

theorem memberOf_gk {m : Nat × Nat} {g : Group} {t : Thread} (h : memberOf s m = some (g, t)) : g.gk = m.1 := by
  obtain ⟨-, g0, hg0, rfl⟩ := memberOf_eq h
  rw [viewOf_gk, groupOf_gk hg0]

/-- A thread alone, sent to an address after an effect has made s3 of the state, leaves its clause for that address (R156). -/
theorem goes_of {s3 : State} {m : Nat × Nat} {t3 : Thread} (hi : s3.issues = i :: rest) (hm : i.members = [m])
    (hlast : i.off + 1 = i.words.length) (ht : threadAt s3 m = some t3) (hst : t3.status = .issuing) (hb : NoBars i.hdr t3)
    (pc : DWord) :
    Goes s3 (finishInstr (modThread (jump s3 m.1 m.2 pc) m.1 m.2 fun t => shiftLatch t 0) 1 []) rest m pc := by
  have hjump : jump s3 m.1 m.2 pc = { modThread s3 m.1 m.2 (fun t => { t with pc := pc, hdr := pc }) with
      issues := { i with jumped := i.jumped ++ [m] } :: rest } := by simp [jump, hi]
  generalize hs4 : modThread (jump s3 m.1 m.2 pc) m.1 m.2 (fun t => shiftLatch t 0) = s4
  have hi4 : s4.issues = { i with jumped := i.jumped ++ [m] } :: rest := by
    rw [← hs4, modThread_issues, hjump]
  have hf4 : s4 = { s3 with groups := s4.groups, issues := s4.issues } := by
    rw [← hs4, hjump]
    rfl
  have hj : ∀ n, threadAt (jump s3 m.1 m.2 pc) n = threadAt (modThread s3 m.1 m.2 fun t => { t with pc := pc, hdr := pc }) n := fun n => by
    rw [hjump]
    rfl
  have hself : threadAt s4 m = some (shiftLatch { t3 with pc := pc, hdr := pc } 0) := by
    rw [← hs4, threadAt_modThread (f := fun t => shiftLatch t 0) (fun _ h => h), hj,
      threadAt_modThread (f := fun t => { t with pc := pc, hdr := pc }) (fun _ h => h), ht]
    rfl
  have hoth : ∀ n, n ≠ m → threadAt s4 n = threadAt s3 n := fun n hn => by
    rw [← hs4, threadAt_modThread_other (f := fun t => shiftLatch t 0) (fun _ h => h) hn, hj,
      threadAt_modThread_other (f := fun t => { t with pc := pc, hdr := pc }) (fun _ h => h) hn]
  have hgrp : ∀ gk x, groupOf s3 gk = some x → ∃ ts, groupOf s4 gk = some { x with threads := ts } := fun gk x hx => by
    have hjg : groupOf (jump s3 m.1 m.2 pc) gk = groupOf (modThread s3 m.1 m.2 fun t => { t with pc := pc, hdr := pc }) gk := by
      rw [hjump]
      rfl
    by_cases hgk : gk = m.1
    · subst hgk
      exact ⟨_, by rw [← hs4, groupOf_modThread, hjg, groupOf_modThread, hx]; rfl⟩
    · exact ⟨x.threads, by rw [← hs4, groupOf_modThread_other _ _ hgk, hjg, groupOf_modThread_other _ _ hgk, hx]⟩
  obtain ⟨am, ao, ag, ai, af⟩ := advance_spec hi4 (by simp [hm]) (by simp [hm]) 1
  have hnot : ¬ i.off + 1 < i.words.length := by omega
  rw [finishInstr]
  simp only [List.map_nil, List.isEmpty_nil, if_true]
  refine ⟨fun t htm => ?_, fun n hn => (ao n (by simpa [hm] using hn)).trans (hoth n hn), fun gk x hx => ?_, ?_, ?_⟩
  · obtain ⟨t', ht', ha⟩ := am m (by simp [hm]) _ hself
    obtain rfl := Option.some.inj (htm.symm.trans ht)
    rw [afterWords, if_neg hnot] at ha
    obtain ⟨a, rfl⟩ := ha
    refine ⟨a, ht'.trans (congrArg some ?_)⟩
    have hleft := leftClause_none (i := { i with jumped := i.jumped ++ [m] }) (m := m) (a := a)
      (t := shiftLatch { t with pc := pc, hdr := pc } 0) hst hb
    rw [hleft]
    simp [goesTo, shiftLatch]
  · obtain ⟨ts, h1⟩ := hgrp gk x hx
    obtain ⟨ts', h2⟩ := ag gk _ h1
    exact ⟨ts', h2⟩
  · rw [ai, issuesAfter, if_neg hnot]
  · rw [af, hf4]

/-- A guarded instruction that sends its one thread on. -/
theorem runThreads_goes {s3 : State} {m : Nat × Nat} {g : Group} {t : Thread} {gd : Guard} {pc : DWord}
    {f : State → Group → Thread → State × Option FaultInfo} (hl : LastWord s i rest) (ha : Alone s i rest m g t)
    (hg : guardTrue t gd = true) (hf : f s g t = (jump s3 g.gk t.idx pc, none)) (hi3 : s3.issues = s.issues)
    (ht : ∃ t3, threadAt s3 m = some t3 ∧ t3.status = .issuing ∧ NoBars i.hdr t3) : Goes s3 (runThreads s 1 gd f) rest m pc := by
  obtain ⟨t3, ht3, hst, hb⟩ := ht
  rw [memberOf_gk ha.member, memberOf_idx ha.member] at hf
  rw [runThreads_one ha hg hf]
  exact goes_of (hi3.trans ha.issues) ha.members hl.last ht3 hst hb pc

/-- A trap of a thread alone: the thread leaves its issue group and takes the fault where it stands (R160, R65). -/
theorem trapFault_one {m : Nat × Nat} {g : Group} {t : Thread} {o : TrapOp} (ha : Alone s i rest m g t) (hg : guardTrue t o.g = true)
    (cls : Nat) : trapFault cls o s = takeFaults { s with issues := rest } (siteOf i)
      [{ gk := m.1, tid := m.2, f := { cls := cls, va := nextClause i, detail := o.code.toNat % 2 ^ 11 } }] := by
  have hadv : advance s 1 [m] = { s with issues := rest } := by
    simp [advance, ha.issues, ha.members]
  rw [trapFault, runThreads_fault ha hg rfl, finishInstr, headNext_cons ha.issues, headSite_cons ha.issues]
  simp only [List.map_cons, List.map_nil, hadv, List.isEmpty_cons, Bool.false_eq_true, if_false]

end Sys2Proof.Machine

open Sys2Proof Sys2Proof.Machine Sys2Proof.Claims

/-- Settles O17: each of the three is a control transfer with its own target. -/
theorem transfersSetTheProgramCounter : Obligations.TransfersSetTheProgramCounter := by
  intro s i rest hl
  have hi := hl.head.issues
  refine ⟨fun o => ⟨_, rfl, ?_⟩, fun o ho => ⟨_, rfl, ?_⟩, fun gd => ⟨_, rfl, ?_⟩⟩
  · rw [branchTarget_cons hi]
    refine transfers_run (tgt := fun _ _ => some (i.hdr + BitVec.ofInt 64 (4 * o.off.toInt))) hl fun m _ g t hm _ s1 ts => ?_
    rw [← memberOf_gk hm, ← memberOf_idx hm]
  · refine transfers_run (tgt := fun g t => some (src64 .int g t o.a)) hl fun m hmi g t hm hg s1 ts => ?_
    obtain ⟨hr, h4, h57⟩ := ho m hmi g t hm hg
    have hrd : readSrc64 .int { g with threads := ts } t o.a = .ok (src64 .int g t o.a) := by
      rw [← reads64_of hm hr]
      rfl
    dsimp only
    rw [hrd]
    dsimp only
    rw [codeFault_none h4 h57, ← memberOf_gk hm, ← memberOf_idx hm]
  · have h := transfers_run (gd := gd) (f := fun s _ _ => (s, none)) (tgt := fun _ _ => none) hl fun _ _ _ _ _ _ _ _ => rfl
    simpa using h

/-- Settles O18: both go to their address once the frame words have been read and written. -/
theorem callAndReturnResults : Obligations.CallAndReturnResults := by
  refine ⟨fun o s s0 s1 s2 i rest m g t d tgs hl ha hg h0 h1 h2 hi3 ht => ⟨_, rfl, ?_⟩,
    fun gd s s0 s1 s2 s3 s4 i rest m g t d lo hi tgs hl ha hg h0 h1 hd h2 h3 h4 h57 h5 hi5 ht => ⟨_, rfl, ?_⟩⟩
  · rw [branchTarget_cons ha.issues, headNext_cons ha.issues]
    refine runThreads_goes hl ha hg ?_ hi3 ht
    unfold callThread
    rw [h0]
    simp only [h1, h2]
    simp [field, Nat.shiftRight_eq_div_pow]
  · refine runThreads_goes hl ha hg ?_ hi5 ht
    unfold retThread
    rw [h0]
    simp only [h1, h2, h3, codeFault_none h4 h57, h5]
    rw [if_neg (by omega)]

/-- Settles O20: the fault is the effect of both, at the instruction's own site. -/
theorem trapsRaiseTheirFault : Obligations.TrapsRaiseTheirFault := by
  intro o s i rest m g t ha hg
  exact ⟨congrArg Host.Outcome.next (trapFault_one ha hg 20), congrArg Host.Outcome.next (trapFault_one ha hg 21)⟩
end

section
/-! SUPPORT. A state against `exit` (R159): its group lists two threads under one index, the second waiting for the handler that the
first one's exit opens. The entry to the handler then goes to the first of them, which is live again. -/
namespace Sys2Proof.Machine.TwinThreads

def exiting : Thread := { idx := 0, regs := [], winHi := 0, pc := 0, hdr := 0, status := .issuing }
def waiting : Thread := { exiting with status := .waitHandler 0 { cls := 0 } false }
def group : Group := { gk := 0, grid := 0, gid := 0, record := {}, kd := {}, core := 0, threads := [exiting, waiting] }
def issue : Issue := { core := 0, members := [(0, 0)], hdr := 0, words := [0] }
def state : State := { State.reset with groups := [group], issues := [issue] }
def always : Guard := { neg := false, p := 7 }

/-- Status of thread 0 of group 0 in what an instruction answers. -/
def statusAfter (r : Res) : Option ThreadStatus :=
  match r with
  | .next s => (threadAt s (0, 0)).map fun t => t.status
  | _ => none

theorem exit_leaves_ready : statusAfter (exec (.exit always) state) = some .ready := by decide +kernel

end Sys2Proof.Machine.TwinThreads

open Sys2Proof Sys2Proof.Machine Sys2Proof.Claims

/-- Refutes O19: nothing in the statement keeps a group from listing two threads under one index, and then the thread that exits may be
the one that enters a handler for the other (`TwinThreads.state`). -/
theorem not_exitEndsTheThread : ¬ Obligations.ExitEndsTheThread := by
  intro h
  obtain ⟨s', hx, ⟨t', ht, hst⟩, -⟩ := h TwinThreads.always TwinThreads.state TwinThreads.issue [] (0, 0) TwinThreads.group
    TwinThreads.exiting ⟨rfl, rfl, rfl⟩ rfl (by decide) rfl
  have hr := TwinThreads.exit_leaves_ready
  rw [hx, TwinThreads.statusAfter, ht, Option.map_some, hst] at hr
  exact absurd hr (by decide)
end

section
/-! SUPPORT. The route and the information word of a fault, as Table 4.4 and R411 give them. -/
namespace Sys2Proof.Machine
open Sys2Proof.Claims

theorem toNat_append_eq {v w : Nat} (x : BitVec v) (y : BitVec w) : (x ++ y).toNat = x.toNat * 2 ^ w + y.toNat := by
  rw [BitVec.toNat_append, ← Nat.shiftLeft_add_eq_or_of_lt y.isLt, Nat.shiftLeft_eq]

/-- A 2-bit code within the low 32 bits of a number. -/
theorem code_low (a b : Nat) {cls : Nat} (h : cls < 16) : (a * 2 ^ 32 + b) / 2 ^ (2 * cls) % 4 = b / 2 ^ (2 * cls) % 4 := by
  have hd : 2 ^ (2 * cls) * 4 ∣ a * 2 ^ 32 := by
    have h2 : 2 ^ (2 * cls) * 4 = 2 ^ (2 * cls + 2) := by ring
    rw [h2]
    exact Dvd.dvd.mul_left (pow_dvd_pow 2 (by omega)) _
  obtain ⟨q, hq⟩ := hd
  rw [← Nat.mod_mul_right_div_self, ← Nat.mod_mul_right_div_self, hq, Nat.mul_add_mod_self_left]

/-- A 2-bit code above them. -/
theorem code_high (a : Nat) {b cls : Nat} (hb : b < 2 ^ 32) (h : 16 ≤ cls) :
    (a * 2 ^ 32 + b) / 2 ^ (2 * cls) % 4 = a / 2 ^ (2 * (cls - 16)) % 4 := by
  have h2 : 2 * cls = 32 + 2 * (cls - 16) := by omega
  have hq : (a * 2 ^ 32 + b) / 2 ^ 32 = a := by
    rw [Nat.mul_comm, Nat.mul_add_div (by positivity), Nat.div_eq_of_lt hb, Nat.add_zero]
  rw [h2, pow_add, ← Nat.div_div_eq_div_mul, hq]

/-- The two routing registers, as one 64-bit word, hold two bits for each class (R410). -/
theorem routeCode_eq (p : Partition) (cls : Nat) : routeCode p cls = codeOf p cls := by
  unfold routeCode codeOf
  rw [toNat_append_eq]
  by_cases hlt : cls < 16
  · exact (if_pos hlt).trans (code_low p.route1.toNat p.route0.toNat hlt).symm
  · exact (if_neg hlt).trans (code_high p.route1.toNat p.route0.isLt (Nat.le_of_not_lt hlt)).symm

theorem routeOf_eq (s : State) (g : Group) (t : Thread) (cls : Nat) :
    routeOf s g t cls = routeByRules (partOf s g.record.part) g.kd.hpcdef cls t.inKernel t.inSup := by
  simp only [routeOf, routeByRules, routeCode_eq, Bool.and_eq_true, Bool.or_eq_true, decide_eq_true_eq, bne_iff_ne, field, pow_zero,
    Nat.div_one]
  rfl

/-- The bits of the information word are the fields of Table 4.4. -/
theorem hinfoOf_eq (g : Group) (k index : Nat) (f : FaultInfo) (hc : f.cls < 256) (hl : laneNumber g k < 32) :
    hinfoOf g k index f = faultInformation f.cls index (subcoreNumber g k) (laneNumber g k) f.detail := by
  have hs : subcoreOf g k = subcoreNumber g k := rfl
  have hln : laneOf g k = laneNumber g k := rfl
  unfold hinfoOf faultInformation
  have h0 : (0 : BitVec 2).toNat = 0 := rfl
  rw [hs, hln]
  apply BitVec.eq_of_toNat_eq
  simp only [toNat_append_eq, BitVec.toNat_ofNat, h0]
  omega

end Sys2Proof.Machine

open Sys2Proof Sys2Proof.Machine Sys2Proof.Claims

/-- Settles O23: the model applies the five rules to the class's two bits. -/
theorem routesFollowTheRules : Obligations.RoutesFollowTheRules := fun s g t cls _ => routeOf_eq s g t cls
end

section
/-! SUPPORT. One thread and its group changed together, and a fault that one thread takes (R411, R412). -/
namespace Sys2Proof.Machine
open Sys2Proof.Claims

/-! ## A change of one thread and of its group -/

theorem updFirst_updFirst {α : Type} {p : α → Bool} {f f' : α → α} (hf : ∀ x, p x = true → p (f x) = true) (l : List α) :
    updFirst p f' (updFirst p f l) = updFirst p (fun x => f' (f x)) l := by
  induction l with
  | nil => rfl
  | cons x r ih =>
    by_cases h : p x = true
    · simp [updFirst, h, hf x h]
    · simp [updFirst, h, ih]

theorem modGroup_modGroup {s : State} {gk : Nat} {f f' : Group → Group} (hf : ∀ g, (f g).gk = g.gk) :
    modGroup (modGroup s gk f) gk f' = modGroup s gk fun g => f' (f g) := by
  unfold modGroup
  rw [updFirst_updFirst fun g hg => by simpa [hf g] using hg]

/-- A group changed by `u` and its thread k by `h`. -/
def actOn (k : Nat) (u : Group → Group) (h : Thread → Thread) (g : Group) : Group :=
  { u g with threads := updFirst (fun x => x.idx == k) h g.threads }

theorem actOn_actOn {k : Nat} {u u' : Group → Group} {h h' : Thread → Thread} (hh : ∀ t, (h t).idx = t.idx)
    (hu' : ∀ (g : Group) ts, u' { g with threads := ts } = { u' g with threads := ts }) (g : Group) :
    actOn k u' h' (actOn k u h g) = actOn k (fun g => u' (u g)) (fun t => h' (h t)) g := by
  unfold actOn
  rw [updFirst_updFirst fun t ht => by simpa [hh t] using ht, hu']

theorem modThread_eq_actOn (s : State) (gk k : Nat) (h : Thread → Thread) : modThread s gk k h = modGroup s gk (actOn k id h) := rfl

theorem modGroup_eq_actOn {s : State} {gk : Nat} {u : Group → Group} (hu : ∀ g, (u g).threads = g.threads) (k : Nat) :
    modGroup s gk u = modGroup s gk (actOn k u id) := by
  have hid : ∀ l : List Thread, updFirst (fun x => x.idx == k) id l = l := fun l => by
    induction l with
    | nil => rfl
    | cons x r ih => unfold updFirst; split <;> simp [ih]
  congr 1
  funext g
  rw [actOn, hid, ← hu g]

/-- Such a change is all that a lookup sees. -/
theorem changed_of {s s' : State} {m : Nat × Nat} {t : Thread} {u : Group → Group} {h : Thread → Thread} {n : Nat}
    (hs : s' = { modGroup s m.1 (actOn m.2 u h) with names := n }) (hu : ∀ g, (u g).gk = g.gk) (hh : ∀ t, (h t).idx = t.idx)
    (ht : threadAt s m = some t) : Changed s s' m (h t) u := by
  have hk : ∀ g, (actOn m.2 u h g).gk = g.gk := hu
  have hgr : ∀ gk, groupOf s' gk = groupOf (modGroup s m.1 (actOn m.2 u h)) gk := fun gk => by
    rw [hs]
    rfl
  have hth : ∀ g : Group, threadOf (actOn m.2 u h g) = threadOf (updThread g m.2 h) := fun _ => rfl
  refine ⟨?_, fun n hn => ?_, fun gk g hg => ?_, ?_⟩
  · rw [threadAt, hgr, groupOf_modGroup hk]
    obtain ⟨g, hg, htg⟩ := Option.bind_eq_some_iff.mp ht
    rw [hg, Option.map_some, Option.bind_some, hth, threadOf_updThread fun t ht => (hh t).trans ht, htg, Option.map_some]
  · rw [threadAt, hgr]
    by_cases hgk : n.1 = m.1
    · have hk2 : n.2 ≠ m.2 := fun e => hn (Prod.ext hgk e)
      rw [hgk, groupOf_modGroup hk, threadAt, hgk]
      cases groupOf s m.1 with
      | none => rfl
      | some g => rw [Option.map_some, Option.bind_some, hth, threadOf_updThread_other (fun t ht => (hh t).trans ht) hk2, Option.bind_some]
    · rw [groupOf_modGroup_other hk hgk, threadAt]
  · rw [hgr]
    by_cases hgk : gk = m.1
    · subst hgk
      exact ⟨_, by rw [groupOf_modGroup hk, hg, if_pos rfl]; rfl⟩
    · exact ⟨g.threads, by rw [groupOf_modGroup_other hk hgk, hg, if_neg hgk]⟩
  · rw [hs]
    rfl

/-- Only the group of the thread matters to what is changed in it. -/
theorem changed_congr {s s' : State} {m : Nat × Nat} {t : Thread} {u u' : Group → Group} (h : Changed s s' m t u)
    (hu : ∀ g, groupOf s m.1 = some g → u' g = u g) : Changed s s' m t u' := by
  refine ⟨h.member, h.other, fun gk g hg => ?_, h.frame⟩
  obtain ⟨ts, hts⟩ := h.group gk g hg
  refine ⟨ts, hts.trans ?_⟩
  by_cases he : gk = m.1
  · subst he
    rw [if_pos rfl, if_pos rfl, hu g hg]
  · rw [if_neg he, if_neg he]

/-! ## A fault of one thread -/

theorem dropMembers_none {s : State} {p : Nat × Nat → Bool} (h : ∀ i ∈ s.issues, i.members ≠ [] ∧ ∀ n ∈ i.members, p n = false) :
    dropMembers s p = s := by
  have hmap : (s.issues.map fun i => { i with members := i.members.filter fun m => !(p m) }) = s.issues := by
    refine (List.map_congr_left fun i hi => ?_).trans (List.map_id _)
    have hf : (i.members.filter fun m => !(p m)) = i.members :=
      List.filter_eq_self.mpr fun n hn => by rw [(h i hi).2 n hn]; rfl
    rw [hf]
    rfl
  have hfil : (s.issues.filter fun i => !(i.members.isEmpty)) = s.issues :=
    List.filter_eq_self.mpr fun i hi => by
      cases hm : i.members with
      | nil => exact absurd hm (h i hi).1
      | cons a l => rfl
  rw [dropMembers, hmap, hfil]

/-- One thread's fault, taken by a thread that stands in no issue group. -/
theorem takeFaults_one {s : State} {m : Nat × Nat} (h : apart s.issues m) (site : FaultSite) (f : FaultInfo) :
    takeFaults s site [{ gk := m.1, tid := m.2, f := f }] =
      [0, 1, 2, 3].foldl (addRecord site ([{ gk := m.1, tid := m.2, f := f }].filterMap
        (parkedHere (takeOne site s { gk := m.1, tid := m.2, f := f })))) (takeOne site s { gk := m.1, tid := m.2, f := f }) := by
  have hd : dropMembers s (fun n => [({ gk := m.1, tid := m.2, f := f } : Faulting)].any fun x => x.gk == n.1 && x.tid == n.2) = s := by
    refine dropMembers_none fun i hi => ⟨(h i hi).1, fun n hn => ?_⟩
    have hne : n ≠ m := fun e => (h i hi).2 (e ▸ hn)
    simp only [List.any_cons, List.any_nil, Bool.or_false, Bool.and_eq_false_iff, beq_eq_false_iff_ne]
    by_contra hc
    simp only [not_or, not_not] at hc
    exact hne (Prod.ext hc.1.symm hc.2.symm)
  rw [takeFaults, hd]
  rfl

/-- A thread that does not park for the host leaves no record to write. -/
theorem takeFaults_unparked {s : State} {m : Nat × Nat} (h : apart s.issues m) {site : FaultSite} {f : FaultInfo}
    (hp : ∀ t, threadAt (takeOne site s { gk := m.1, tid := m.2, f := f }) m = some t → t.status ≠ .parked none) :
    takeFaults s site [{ gk := m.1, tid := m.2, f := f }] = takeOne site s { gk := m.1, tid := m.2, f := f } := by
  rw [takeFaults_one h]
  generalize takeOne site s { gk := m.1, tid := m.2, f := f } = s1 at hp
  have hno : parkedHere s1 { gk := m.1, tid := m.2, f := f } = none := by
    unfold parkedHere
    cases hg : groupOf s1 m.1 with
    | none => rfl
    | some g =>
      cases ht : threadOf g m.2 with
      | none => simp only [ht]
      | some t =>
        simp only [ht]
        exact if_neg (hp t (by rw [threadAt, hg, Option.bind_some, ht]))
  rw [List.filterMap_cons, hno]
  rfl

/-- What entering a handler writes: the control registers of the group, and the thread that goes on at the handler. -/
def handlerCtl (site : FaultSite) (info : Word) (va : DWord) (sup : Bool) (g : Group) : Group :=
  if sup then { g with ctl := { g.ctl with svpcr := site.pc, svinfo := info, svva := va } }
  else { g with ctl := { g.ctl with hpc := site.pc, hinfo := info, hva := va } }

def handlerThread (site : FaultSite) (f : FaultInfo) (entry : DWord) (a : Nat) (sup : Bool) (t : Thread) : Thread :=
  if sup then { entered t entry a with inSup := true, sClause := (site.hdr, site.n), emulS := emulates f }
  else { entered t entry a with inKernel := true, kClause := (site.hdr, site.n), emulK := emulates f }

theorem enterHandler_eq {s : State} {gk : Nat} {g : Group} (hg : groupOf s gk = some g) (site : FaultSite) (k : Nat) (f : FaultInfo)
    (sup : Bool) : enterHandler s site gk k f sup =
      { modGroup s gk (actOn k (handlerCtl site (hinfoOf g k site.index f) f.va sup)
          (handlerThread site f (if sup then (partOf s g.record.part).svpc else BitVec.ofNat 64 g.kd.hpcdef) s.names sup)) with
        names := s.names + 1 } := by
  unfold enterHandler
  rw [hg]
  cases sup
  all_goals
    unfold readyAt modThread modGroup
    simp only [fresh, if_true, Bool.false_eq_true, if_false]
    rw [updFirst_updFirst, updFirst_updFirst]
    · congr 2
      funext x
      unfold updThread actOn
      congr 1
      rw [updFirst_updFirst]
      · rfl
      · exact fun _ h => h
    · exact fun _ h => h
    · exact fun _ h => h

/-- A fault on route 0 or 1 of a thread whose group has no other thread in a handler enters that handler. -/
theorem takeOne_enters {s : State} {m : Nat × Nat} {g : Group} {t : Thread} (h : TakesFault s m g t) (site : FaultSite) {f : FaultInfo}
    {sup : Bool} (hr : routeOf s g t f.cls = sup.toNat) :
    takeOne site s { gk := m.1, tid := m.2, f := f } =
      { modGroup s m.1 (actOn m.2 (handlerCtl site (hinfoOf g m.2 site.index f) f.va sup)
          (handlerThread site f (if sup then (partOf s g.record.part).svpc else BitVec.ofNat 64 g.kd.hpcdef) s.names sup)) with
        names := s.names + 1 } := by
  have hno : (g.threads.any fun y => inHandler y && y.idx != m.2) = false := by
    rw [List.any_eq_false]
    intro y hy
    by_cases he : y.idx = m.2
    · simp [he]
    · obtain ⟨hk, hs⟩ := h.alone y hy he
      simp [inHandler, hk, hs]
  have hg1 : groupOf (modThread s m.1 m.2 fun t => { t with pc := site.pc, hdr := site.hdr, clause := none }) m.1 =
      some (updThread g m.2 fun t => { t with pc := site.pc, hdr := site.hdr, clause := none }) := by
    rw [groupOf_modThread, h.group, Option.map_some]
  have hroute : routeOf (modThread s m.1 m.2 fun t => { t with pc := site.pc, hdr := site.hdr, clause := none }) g t f.cls = sup.toNat := hr
  unfold takeOne
  simp only [h.group, h.thread, hroute, hno, Bool.false_eq_true, if_false]
  have hsup : sup.toNat ≤ 1 := Bool.toNat_le sup
  have hbeq : (sup.toNat == 1) = sup := by cases sup <;> rfl
  rw [if_neg (by omega), if_neg (by omega), hbeq, enterHandler_eq hg1, modThread_eq_actOn, modGroup_modGroup]
  · refine congrArg (fun F => ({ modGroup s m.1 F with names := s.names + 1 } : State)) (funext fun x => ?_)
    rw [actOn_actOn]
    · cases sup <;> rfl
    · exact fun _ => rfl
    · intro y ts
      unfold handlerCtl
      split <;> rfl
  · exact fun _ => rfl

theorem handlerThread_idx (site : FaultSite) (f : FaultInfo) (entry : DWord) (a : Nat) (sup : Bool) (t : Thread) :
    (handlerThread site f entry a sup t).idx = t.idx := by
  cases sup <;> rfl

theorem handlerThread_status (site : FaultSite) (f : FaultInfo) (entry : DWord) (a : Nat) (sup : Bool) (t : Thread) :
    (handlerThread site f entry a sup t).status = .ready := by
  cases sup <;> rfl

/-- The law of routes 0 and 1. -/
theorem takeFaults_enters {s : State} {m : Nat × Nat} {g : Group} {t : Thread} (h : TakesFault s m g t) (site : FaultSite) {f : FaultInfo}
    {sup : Bool} (hr : routeOf s g t f.cls = sup.toNat) :
    Changed s (takeFaults s site [{ gk := m.1, tid := m.2, f := f }]) m
      (handlerThread site f (if sup then (partOf s g.record.part).svpc else BitVec.ofNat 64 g.kd.hpcdef) s.names sup t)
      (handlerCtl site (hinfoOf g m.2 site.index f) f.va sup) := by
  have ht : threadAt s m = some t := by rw [threadAt, h.group, Option.bind_some, h.thread]
  have hc := changed_of (takeOne_enters h site hr) (fun _ => by unfold handlerCtl; split <;> rfl) (handlerThread_idx _ _ _ _ _) ht
  have hp : takeFaults s site [{ gk := m.1, tid := m.2, f := f }] = takeOne site s { gk := m.1, tid := m.2, f := f } := by
    refine takeFaults_unparked h.apart fun u hu hpk => ?_
    rw [hc.member] at hu
    rw [← Option.some.inj hu, handlerThread_status] at hpk
    exact absurd hpk (by simp)
  rw [hp]
  exact hc

end Sys2Proof.Machine

open Sys2Proof Sys2Proof.Machine Sys2Proof.Claims

/-- Settles O21: both routes enter a handler, which changes the thread and the control registers of its group alone. -/
theorem handlerEntrySavesAndContinues : Obligations.HandlerEntrySavesAndContinues := by
  refine ⟨fun s site m g t f h hcls hr => ⟨s.names, ?_⟩, fun s site m g t f h hcls hr => ⟨s.names, ?_⟩⟩
  · have hc := takeFaults_enters (sup := false) h site ((routeOf_eq s g t _).trans hr)
    rw [hinfoOf_eq g m.2 site.index f (by omega) h.lane] at hc
    refine changed_congr hc fun x hx => ?_
    rw [Option.some.inj (hx.symm.trans h.group)]
    rfl
  · have hc := takeFaults_enters (sup := true) h site ((routeOf_eq s g t _).trans hr)
    rw [hinfoOf_eq g m.2 site.index f (by omega) h.lane] at hc
    refine changed_congr hc fun x hx => ?_
    rw [Option.some.inj (hx.symm.trans h.group)]
    rfl
end

section
/-! SUPPORT. What the memory system leaves as it is: every function that reads or writes memory through caches and translations changes
physical memory with its marks, caches, translation state and write logs alone, one lemma for each (R212). -/
namespace Sys2Proof.Machine

-- Each lemma here serves the next ones: elaborated in order, they keep no thread waiting.
set_option Elab.async false

/-- The stores that belong to a core: scratchpad, tile store and accumulator memory. -/
def storesOf (c : Core) : Mem × Mem × Mem := (c.scratch, c.tiles, c.acc)

/-- What of a state no access to memory changes: all but physical memory, caches, translations, write logs and free values. -/
def kept (s : State) : State × (Nat → Mem × Mem × Mem) :=
  ({ s with fresh := 0, mem := [], poison := [], sealed := [], sizeTags := [], dies := [], cores := [], partitions := [] },
    fun c => storesOf (coreOf s c))

theorem storesOf_mk (c : Core) : storesOf c = (c.scratch, c.tiles, c.acc) := rfl
grind_pattern storesOf_mk => storesOf c

/-- What the memory system writes of a state does not show in what is kept. -/
theorem kept_update (s : State) (fr : Nat) (m : Mem) (ps : List Nat) (se : Table (Nat × Nat)) (tg : Table Nat) (ds : Table Die)
    (pa : Table Partition) :
    kept { s with fresh := fr, mem := m, poison := ps, sealed := se, sizeTags := tg, dies := ds, partitions := pa } = kept s := rfl
grind_pattern kept_update => kept { s with fresh := fr, mem := m, poison := ps, sealed := se, sizeTags := tg, dies := ds, partitions := pa }

/-- A core changed in what is not a store. -/
theorem modCore_kept {s : State} {c : Nat} {f : Core → Core} (hf : storesOf (f (coreOf s c)) = storesOf (coreOf s c)) :
    kept (modCore s c f) = kept s := by
  refine Prod.ext rfl (funext fun d => ?_)
  by_cases h : d = c
  · subst h
    exact (congrArg storesOf (coreOf_modCore s d f)).trans hf
  · exact congrArg storesOf (coreOf_modCore_other s f h)
grind_pattern modCore_kept => modCore s c f

theorem foldl_kept {α : Type} {f : State → α → State} {s : State} {l : List α} (hf : ∀ s x, kept (f s x) = kept s) :
    kept (l.foldl f s) = kept s := by
  induction l generalizing s with
  | nil => rfl
  | cons x l ih => exact ih.trans (hf s x)
grind_pattern foldl_kept => l.foldl f s

theorem foldl_kept_fst {α β : Type} {f : State × β → α → State × β} {s : State × β} {l : List α}
    (hf : ∀ (s : State × β) x, kept (f s x).1 = kept s.1) : kept (l.foldl f s).1 = kept s.1 := by
  induction l generalizing s with
  | nil => rfl
  | cons x l ih => exact ih.trans (hf s x)
grind_pattern foldl_kept_fst => l.foldl f s

/-! ## Mem -/

theorem modDie_kept (s : State) (d : Nat) (f : Die → Die) : kept (modDie s d f) = kept s := rfl
grind_pattern modDie_kept => modDie s d f
theorem modPart_kept (s : State) (p : Nat) (f : Partition → Partition) : kept (modPart s p f) = kept s := rfl
grind_pattern modPart_kept => modPart s p f
theorem useFresh_kept (s : State) (n : Nat) : kept (useFresh s n) = kept s := rfl
grind_pattern useFresh_kept => useFresh s n
theorem logHostWrite_kept (s : State) (part : Nat) (pa : Nat) : kept (logHostWrite s part pa) = kept s := by grind [logHostWrite]
grind_pattern logHostWrite_kept => logHostWrite s part pa
theorem storeSector_kept (s : State) (part : Nat) (sec : Nat) (bs : List Byte) : kept (storeSector s part sec bs) = kept s := by grind [storeSector]
grind_pattern storeSector_kept => storeSector s part sec bs
theorem storeSectors_kept (s : State) (part : Nat) (sec : Nat) (a3 : Nat) (a4 : List Byte) : kept (storeSectors s part sec a3 a4) = kept s := by
  fun_induction storeSectors <;> grind
grind_pattern storeSectors_kept => storeSectors s part sec a3 a4
theorem markPoison_kept (s : State) (sec : Nat) (bad : Bool) : kept (markPoison s sec bad) = kept s := by grind [markPoison]
grind_pattern markPoison_kept => markPoison s sec bad
theorem countError_kept (s : State) (die : Nat) (k : Nat) : kept (countError s die k) = kept s := by grind [countError]
grind_pattern countError_kept => countError s die k
theorem poisonLine_kept (s : State) (line : Nat) : kept (poisonLine s line) = kept s := by grind [poisonLine]
grind_pattern poisonLine_kept => poisonLine s line
theorem checkLine_kept (s : State) (part : Nat) (line : Nat) : kept (checkLine s part line) = kept s := by grind [checkLine]
grind_pattern checkLine_kept => checkLine s part line
theorem sectorBytes_kept (s : State) (part : Nat) (sec : Nat) : kept (sectorBytes s part sec).1 = kept s := by grind [sectorBytes]
grind_pattern sectorBytes_kept => sectorBytes s part sec
theorem expandLine_kept (s : State) (part : Nat) (line : Nat) : kept (expandLine s part line) = kept s := by grind [expandLine]
grind_pattern expandLine_kept => expandLine s part line
theorem putSector_kept (s : State) (part : Nat) (sec : Nat) (bs : List Byte) (bad : Bool) : kept (putSector s part sec bs bad) = kept s := by grind [putSector]
grind_pattern putSector_kept => putSector s part sec bs bad
theorem packLine_kept (s : State) (part : Nat) (line : Nat) : kept (packLine s part line) = kept s := by
  simp only [packLine]
  (repeat' split) <;> grind
grind_pattern packLine_kept => packLine s part line
theorem directWrite_kept (s : State) (part : Nat) (pa : Nat) (bs : List Byte) : kept (directWrite s part pa bs) = kept s := by grind [directWrite]
grind_pattern directWrite_kept => directWrite s part pa bs
theorem directRead_kept (s : State) (part : Nat) (pa : Nat) (n : Nat) : kept (directRead s part pa n).1 = kept s := by grind [directRead]
grind_pattern directRead_kept => directRead s part pa n
theorem deviceStore_kept (s : State) (part : Nat) (pa : Nat) (bs : List Byte) : kept (deviceStore s part pa bs) = kept s := by grind [deviceStore]
grind_pattern deviceStore_kept => deviceStore s part pa bs
theorem deviceLoad_kept (s : State) (part : Nat) (pa : Nat) (n : Nat) : kept (deviceLoad s part pa n).1 = kept s := by grind [deviceLoad]
grind_pattern deviceLoad_kept => deviceLoad s part pa n
theorem l2Put_kept (s : State) (die : Nat) (l : L2Line) : kept (l2Put s die l) = kept s := by grind [l2Put]
grind_pattern l2Put_kept => l2Put s die l
theorem flushSector_kept (s : State) (l : L2Line) (e : Nat × L2Sector) : kept (flushSector s l e) = kept s := by grind [flushSector]
grind_pattern flushSector_kept => flushSector s l e
theorem l2WriteBack_kept (s : State) (die : Nat) (line : Nat) : kept (l2WriteBack s die line) = kept s := by grind [l2WriteBack]
grind_pattern l2WriteBack_kept => l2WriteBack s die line
theorem l2Evict_kept (s : State) (die : Nat) (line : Nat) : kept (l2Evict s die line) = kept s := by grind [l2Evict]
grind_pattern l2Evict_kept => l2Evict s die line
theorem freeWay_kept (s : State) (u : WayUse) (slice : Nat) : kept (freeWay s u slice) = kept s := by grind [freeWay]
grind_pattern freeWay_kept => freeWay s u slice
theorem takeWay_kept (s : State) (part : Nat) (slice : Nat) (line : Nat) : kept (takeWay s part slice line).1 = kept s := by grind [takeWay]
grind_pattern takeWay_kept => takeWay s part slice line
theorem l2Own_kept (s : State) (die : Nat) (part : Nat) (line : Nat) : kept (l2Own s die part line) = kept s := by grind [l2Own]
grind_pattern l2Own_kept => l2Own s die part line
theorem l2Line_kept (s : State) (die : Nat) (part : Nat) (line : Nat) (compr : Bool) : kept (l2Line s die part line compr).1 = kept s := by grind [l2Line]
grind_pattern l2Line_kept => l2Line s die part line compr
theorem l2Keep_kept (s : State) (die : Nat) (part : Nat) (line : Nat) (k : Nat) (compr : Bool) (x : L2Sector) : kept (l2Keep s die part line k compr x) = kept s := by grind [l2Keep]
grind_pattern l2Keep_kept => l2Keep s die part line k compr x
theorem l2Fill_kept (s : State) (die : Nat) (part : Nat) (line : Nat) (k : Nat) (x : L2Sector) : kept (l2Fill s die part line k x) = kept s := by grind [l2Fill]
grind_pattern l2Fill_kept => l2Fill s die part line k x
theorem l2Fetch_kept (s : State) (die : Nat) (part : Nat) (pa : Nat) : kept (l2Fetch s die part pa).1 = kept s := by grind [l2Fetch]
grind_pattern l2Fetch_kept => l2Fetch s die part pa
theorem l2Store_kept (s : State) (die : Nat) (part : Nat) (pa : Nat) (compr : Bool) (bytes : Table Byte) : kept (l2Store s die part pa compr bytes) = kept s := by grind [l2Store]
grind_pattern l2Store_kept => l2Store s die part pa compr bytes
theorem l2Merge_kept (s : State) (die : Nat) (part : Nat) (line : Nat) (compr : Bool) (bytes : Table Byte) : kept (l2Merge s die part line compr bytes) = kept s := by grind [l2Merge]
grind_pattern l2Merge_kept => l2Merge s die part line compr bytes
theorem l2Single_kept (s : State) (die : Nat) (line : Nat) : kept (l2Single s die line) = kept s := by grind [l2Single]
grind_pattern l2Single_kept => l2Single s die line
theorem l2Touch_kept (s : State) (die : Nat) (c : Ctx) (pa : Nat) (replicate : Option Nat) : kept (l2Touch s die c pa replicate) = kept s := by grind [l2Touch]
grind_pattern l2Touch_kept => l2Touch s die c pa replicate
theorem putGrant_kept (s : State) (core : Nat) (asid : Nat) (line : Nat) (pa : Nat) : kept (putGrant s core asid line pa) = kept s := by grind [putGrant]
grind_pattern putGrant_kept => putGrant s core asid line pa
theorem mergeDirty_kept (s : State) (core : Nat) (l : L1Line) : kept (mergeDirty s core l) = kept s := by grind [mergeDirty]
grind_pattern mergeDirty_kept => mergeDirty s core l
theorem giveUpLine_kept (s : State) (core : Nat) (l : L1Line) : kept (giveUpLine s core l) = kept s := by grind [giveUpLine]
grind_pattern giveUpLine_kept => giveUpLine s core l
theorem recallLine_kept (s : State) (line : Nat) : kept (recallLine s line) = kept s := by grind [recallLine]
grind_pattern recallLine_kept => recallLine s line
theorem l2Read_kept (s : State) (die : Nat) (part : Nat) (pa : Nat) (n : Nat) : kept (l2Read s die part pa n).1 = kept s := by grind [l2Read]
grind_pattern l2Read_kept => l2Read s die part pa n
theorem l2Write_kept (s : State) (die : Nat) (part : Nat) (pa : Nat) (compr : Bool) (bs : List Byte) : kept (l2Write s die part pa compr bs) = kept s := by grind [l2Write]
grind_pattern l2Write_kept => l2Write s die part pa compr bs
theorem l2Poison_kept (s : State) (die : Nat) (part : Nat) (pa : Nat) : kept (l2Poison s die part pa) = kept s := by grind [l2Poison]
grind_pattern l2Poison_kept => l2Poison s die part pa
theorem keptFault_kept {α : Type} (s : State) (cls : Nat) (va : Nat) (acc : Acc) : kept (@keptFault α s cls va acc).1 = kept s := by grind [keptFault]
grind_pattern keptFault_kept => @keptFault α s cls va acc
theorem readPte_kept (s : State) (d : Nat) (part : Nat) (pa : Nat) : kept (readPte s d part pa).1 = kept s := by grind [readPte]
grind_pattern readPte_kept => readPte s d part pa
theorem setAcc_kept (s : State) (d : Nat) (part : Nat) (pa : Nat) (pte : Nat) : kept (setAcc s d part pa pte) = kept s := by grind [setAcc]
grind_pattern setAcc_kept => setAcc s d part pa pte
theorem mergeable_kept (s : State) (d : Nat) (part : Nat) (tablePa : Nat) (idx : Nat) : kept (mergeable s d part tablePa idx).1 = kept s := by grind [mergeable]
grind_pattern mergeable_kept => mergeable s d part tablePa idx
theorem walkLevels_kept (c : Ctx) (acc : Acc) (asid : Nat) (va : Nat) (a4 : List Nat) (a5 : State) (a6 : Nat) (a7 : List TlbEntry) : kept (walkLevels c acc asid va a4 a5 a6 a7).1 = kept a5 := by
  fun_induction walkLevels <;> grind
grind_pattern walkLevels_kept => walkLevels c acc asid va a4 a5 a6 a7
theorem translate_kept (s : State) (c : Ctx) (acc : Acc) (va : Nat) : kept (translate s c acc va).1 = kept s := by grind [translate]
grind_pattern translate_kept => translate s c acc va
theorem countEvent_kept (s : State) (core : Nat) (ev : Nat) (n : Nat) : kept (countEvent s core ev n) = kept s := by grind [countEvent]
grind_pattern countEvent_kept => countEvent s core ev n
theorem l1Put_kept (s : State) (core : Nat) (l : L1Line) : kept (l1Put s core l) = kept s := by grind [l1Put]
grind_pattern l1Put_kept => l1Put s core l
theorem l1WriteBack_kept (s : State) (core : Nat) (asid : Nat) (line : Nat) : kept (l1WriteBack s core asid line) = kept s := by grind [l1WriteBack]
grind_pattern l1WriteBack_kept => l1WriteBack s core asid line
theorem l1Evict_kept (s : State) (core : Nat) (asid : Nat) (line : Nat) : kept (l1Evict s core asid line) = kept s := by grind [l1Evict]
grind_pattern l1Evict_kept => l1Evict s core asid line
theorem l1Room_kept (s : State) (core : Nat) (line : Nat) : kept (l1Room s core line) = kept s := by grind [l1Room]
grind_pattern l1Room_kept => l1Room s core line
theorem l1Alloc_kept (s : State) (core : Nat) (asid : Nat) (part : Nat) (va : Nat) (pa : Nat) (attr : PageAttr) (next : Bool) : kept (l1Alloc s core asid part va pa attr next).1 = kept s := by grind [l1Alloc]
grind_pattern l1Alloc_kept => l1Alloc s core asid part va pa attr next
theorem l1Load_kept (s : State) (c : Ctx) (va : Nat) (pa : Nat) (n : Nat) (hint : Nat) (attr : PageAttr) (grid : Nat) : kept (l1Load s c va pa n hint attr grid).1 = kept s := by grind [l1Load]
grind_pattern l1Load_kept => l1Load s c va pa n hint attr grid
theorem l1Store_kept (s : State) (c : Ctx) (va : Nat) (pa : Nat) (hint : Nat) (attr : PageAttr) (bs : List Byte) : kept (l1Store s c va pa hint attr bs) = kept s := by grind [l1Store]
grind_pattern l1Store_kept => l1Store s c va pa hint attr bs
theorem holdLine_kept (s : State) (core : Nat) (asid : Nat) (line : Nat) : kept (holdLine s core asid line) = kept s := by grind [holdLine]
grind_pattern holdLine_kept => holdLine s core asid line
theorem combineFlush_kept (s : State) (core : Nat) : kept (combineFlush s core) = kept s := by grind [combineFlush]
grind_pattern combineFlush_kept => combineFlush s core
theorem combineStore_kept (s : State) (c : Ctx) (va : Nat) (pa : Nat) (bs : List Byte) : kept (combineStore s c va pa bs) = kept s := by grind [combineStore]
grind_pattern combineStore_kept => combineStore s c va pa bs
theorem combineLoad_kept (s : State) (c : Ctx) (va : Nat) (pa : Nat) (n : Nat) : kept (combineLoad s c va pa n).1 = kept s := by grind [combineLoad]
grind_pattern combineLoad_kept => combineLoad s c va pa n
theorem placeRead_kept (s : State) (c : Ctx) (p : Piece) : kept (placeRead s c p).1 = kept s := by grind [placeRead]
grind_pattern placeRead_kept => placeRead s c p
theorem placeWrite_kept (s : State) (c : Ctx) (p : Piece) (bs : List Byte) : kept (placeWrite s c p bs) = kept s := by grind [placeWrite]
grind_pattern placeWrite_kept => placeWrite s c p bs
theorem placePoison_kept (s : State) (c : Ctx) (p : Piece) : kept (placePoison s c p) = kept s := by grind [placePoison]
grind_pattern placePoison_kept => placePoison s c p
theorem loadPiece_kept (s : State) (c : Ctx) (p : Piece) (hint : Nat) (grid : Nat) : kept (loadPiece s c p hint grid).1 = kept s := by grind [loadPiece]
grind_pattern loadPiece_kept => loadPiece s c p hint grid
theorem storePiece_kept (s : State) (c : Ctx) (p : Piece) (hint : Nat) (bs : List Byte) : kept (storePiece s c p hint bs) = kept s := by grind [storePiece]
grind_pattern storePiece_kept => storePiece s c p hint bs
theorem drainFlume_kept (s : State) (core : Nat) : kept (drainFlume s core) = kept s := by grind [drainFlume]
grind_pattern drainFlume_kept => drainFlume s core
theorem drainCore_kept (s : State) (core : Nat) : kept (drainCore s core) = kept s := by grind [drainCore]
grind_pattern drainCore_kept => drainCore s core
theorem dropClean_kept (s : State) (core : Nat) : kept (dropClean s core) = kept s := by grind [dropClean]
grind_pattern dropClean_kept => dropClean s core
theorem acquireCore_kept (s : State) (core : Nat) : kept (acquireCore s core) = kept s := by grind [acquireCore]
grind_pattern acquireCore_kept => acquireCore s core
theorem translateParts_kept (s : State) (c : Ctx) (acc : Acc) (a3 : List (Nat × Nat)) : kept (translateParts s c acc a3).1 = kept s := by
  fun_induction translateParts <;> grind
grind_pattern translateParts_kept => translateParts s c acc a3
theorem readPieces_kept (s : State) (c : Ctx) (a2 : List Piece) : kept (readPieces s c a2).1 = kept s := by
  fun_induction readPieces <;> grind
grind_pattern readPieces_kept => readPieces s c a2
theorem writePieces_kept (s : State) (c : Ctx) (a2 : List Piece) (a3 : List Byte) : kept (writePieces s c a2 a3) = kept s := by
  fun_induction writePieces <;> grind
grind_pattern writePieces_kept => writePieces s c a2 a3
theorem vmRead_kept (s : State) (c : Ctx) (va : Nat) (n : Nat) : kept (vmRead s c va n).1 = kept s := by grind [vmRead]
grind_pattern vmRead_kept => vmRead s c va n
theorem vmWrite_kept (s : State) (c : Ctx) (va : Nat) (bs : List Byte) : kept (vmWrite s c va bs).1 = kept s := by grind [vmWrite]
grind_pattern vmWrite_kept => vmWrite s c va bs
theorem hwRead_kept (s : State) (part : Nat) (sec : Bool) (va : Nat) (n : Nat) : kept (hwRead s part sec va n).1 = kept s := by grind [hwRead]
grind_pattern hwRead_kept => hwRead s part sec va n
theorem hwAmend_kept (s : State) (part : Nat) (sec : Bool) (va : Nat) (n : Nat) (f : Nat → Nat) (bad : Bool) : kept (hwAmend s part sec va n f bad).1 = kept s := by grind [hwAmend]
grind_pattern hwAmend_kept => hwAmend s part sec va n f bad
theorem hwWrite_kept (s : State) (part : Nat) (sec : Bool) (va : Nat) (bs : List Byte) : kept (hwWrite s part sec va bs).1 = kept s := by grind [hwWrite]
grind_pattern hwWrite_kept => hwWrite s part sec va bs
theorem hwUpdate_kept (s : State) (part : Nat) (sec : Bool) (va : Nat) (n : Nat) (f : Nat → Nat) : kept (hwUpdate s part sec va n f).1 = kept s := by grind [hwUpdate]
grind_pattern hwUpdate_kept => hwUpdate s part sec va n f
/-! ## Ops -/

theorem hostWords_kept (s : State) (part : Nat) (pa : Nat) (ws : List DWord) : kept (hostWords s part pa ws) = kept s := by grind [hostWords]
grind_pattern hostWords_kept => hostWords s part pa ws
theorem hostEvent_kept (s : State) (part : Nat) (code : Nat) (arg0 : Nat) (arg1 : Nat) : kept (hostEvent s part code arg0 arg1) = kept s := by grind [hostEvent]
grind_pattern hostEvent_kept => hostEvent s part code arg0 arg1
theorem recordEvent_kept (s : State) (part : Nat) (f : Option FaultInfo) : kept (recordEvent s part f) = kept s := by
  unfold recordEvent
  grind
grind_pattern recordEvent_kept => recordEvent s part f
/-! ## Queues -/

theorem readEntry_kept (s : State) (part : Nat) (taskid : Nat) : kept (readEntry s part taskid).1 = kept s := by grind [readEntry]
grind_pattern readEntry_kept => readEntry s part taskid
theorem entryUpdate_kept (s : State) (g : Grid) (f : Nat → Nat) : kept (entryUpdate s g f) = kept s := by grind [entryUpdate]
grind_pattern entryUpdate_kept => entryUpdate s g f
theorem ownerFailed_kept (s : State) (part : Nat) (owner : Nat) : kept (ownerFailed s part owner).1 = kept s := by grind [ownerFailed]
grind_pattern ownerFailed_kept => ownerFailed s part owner
theorem readLanding_kept (s : State) (part : Nat) (g : Nat) (cls : Nat) (x : Nat × DeckEntry) : kept (readLanding s part g cls x).1 = kept s := by grind [readLanding]
grind_pattern readLanding_kept => readLanding s part g cls x
/-! ## Access -/

theorem resolvePart_kept (s : State) (c : Ctx) (acc : Acc) (hint : Nat) (va : Nat) (len : Nat) : kept (resolvePart s c acc hint va len).1 = kept s := by grind [resolvePart]
grind_pattern resolvePart_kept => resolvePart s c acc hint va len
theorem resolveParts_kept (s : State) (c : Ctx) (acc : Acc) (hint : Nat) (a4 : List (Nat × Nat)) : kept (resolveParts s c acc hint a4).1 = kept s := by
  fun_induction resolveParts <;> grind
grind_pattern resolveParts_kept => resolveParts s c acc hint a4
theorem resolve_kept (s : State) (g : Group) (t : Thread) (seg : Nat) (size : Nat) (o : Nat) (acc : Acc) (hint : Nat) (want : Nat) : kept (resolve s g t seg size o acc hint want).1 = kept s := by grind [resolve]
grind_pattern resolve_kept => resolve s g t seg size o acc hint want
theorem applyOwn_kept (gr : Grid) (g : Group) (va : Nat) (a3 : Nat) (a4 : State) (a5 : Nat) (a6 : List Byte) : kept (applyOwn gr g va a3 a4 a5 a6).1 = kept a4 := by
  fun_induction applyOwn <;> grind
grind_pattern applyOwn_kept => applyOwn gr g va a3 a4 a5 a6
theorem loadPieces_kept (s : State) (c : Ctx) (hint : Nat) (grid : Nat) (a4 : List Piece) : kept (loadPieces s c hint grid a4).1 = kept s := by
  fun_induction loadPieces <;> grind
grind_pattern loadPieces_kept => loadPieces s c hint grid a4
theorem atomicInL1_kept (s : State) (c : Ctx) (asid : Nat) (p : Piece) (am : Nat) (size : Nat) (y : DWord) (cmp : DWord) : kept (atomicInL1 s c asid p am size y cmp).1 = kept s := by grind [atomicInL1]
grind_pattern atomicInL1_kept => atomicInL1 s c asid p am size y cmp
theorem atomicAtHome_kept (s : State) (c : Ctx) (asid : Nat) (p : Piece) (am : Nat) (size : Nat) (y : DWord) (cmp : DWord) : kept (atomicAtHome s c asid p am size y cmp).1 = kept s := by grind [atomicAtHome]
grind_pattern atomicAtHome_kept => atomicAtHome s c asid p am size y cmp
theorem loadValue_kept (s : State) (c : Ctx) (g : Group) (place : Place) (size : Nat) (treat : Treat) (hint : Nat) (staged : Nat) : kept (loadValue s c g place size treat hint staged).1 = kept s := by
  unfold loadValue
  grind
grind_pattern loadValue_kept => loadValue s c g place size treat hint staged
/-! ## Memory -/

theorem memTarget_kept (s : State) (g : Group) (t : Thread) (o : MemOp) (size : Nat) (acc : Acc) (want : Nat) : kept (memTarget s g t o size acc want).1 = kept s := by grind [memTarget]
grind_pattern memTarget_kept => memTarget s g t o size acc want
theorem prefetchPiece_kept (c : Ctx) (hint : Nat) (grid : Nat) (s : State) (p : Piece) : kept (prefetchPiece c hint grid s p) = kept s := by grind [prefetchPiece]
grind_pattern prefetchPiece_kept => prefetchPiece c hint grid s p
theorem prefetch_kept (o : MemOp) (s : State) (g : Group) (t : Thread) : kept (prefetch o s g t).1 = kept s := by grind [prefetch]
grind_pattern prefetch_kept => prefetch o s g t
/-! ## Phases -/

/-! ## Objects -/

theorem writeObject_kept (s : State) (g : Group) (va : Nat) (size : Nat) (v : Nat) : kept (writeObject s g va size v) = kept s := by grind [writeObject]
grind_pattern writeObject_kept => writeObject s g va size v
theorem waitReady_kept (s : State) (part : Nat) (task : Nat) (gid : Nat) (k : WaitKind) (v : Nat) : kept (waitReady s part task gid k v).1 = kept s := by
  unfold waitReady
  (repeat' split) <;> grind
grind_pattern waitReady_kept => waitReady s part task gid k v
/-! ## Control -/

theorem frameTarget_kept (s : State) (g : Group) (t : Thread) (k : Nat) (acc : Acc) : kept (frameTarget s g t k acc).1 = kept s := by grind [frameTarget]
grind_pattern frameTarget_kept => frameTarget s g t k acc
theorem frameWord_kept (s : State) (g : Group) (t : Thread) (k : Nat) : kept (frameWord s g t k).1 = kept s := by grind [frameWord]
grind_pattern frameWord_kept => frameWord s g t k
theorem frameTargets_kept (s : State) (g : Group) (t : Thread) (a3 : List Nat) : kept (frameTargets s g t a3).1 = kept s := by
  fun_induction frameTargets <;> grind
grind_pattern frameTargets_kept => frameTargets s g t a3
/-! ## What is kept, field by field -/

section
variable {s s' : State}

/-- Two states that keep the same differ in caches alone. -/
theorem cachesOnly_of_kept (h : kept s' = kept s) : CachesOnly s s' := by
  obtain ⟨h1, h2⟩ := Prod.mk.inj h
  refine ⟨?_, fun c => ?_⟩
  · cases s
    cases s'
    simp only [State.mk.injEq, true_and] at h1 ⊢
    exact h1
  · obtain ⟨ha, hb⟩ := Prod.mk.inj (congrFun h2 c)
    obtain ⟨hb, hc⟩ := Prod.mk.inj hb
    exact ⟨ha, hb, hc⟩

theorem groups_of_kept (h : kept s' = kept s) : s'.groups = s.groups := congrArg (fun k => k.1.groups) h
theorem issues_of_kept (h : kept s' = kept s) : s'.issues = s.issues := congrArg (fun k => k.1.issues) h
theorem ops_of_kept (h : kept s' = kept s) : s'.ops = s.ops := congrArg (fun k => k.1.ops) h
theorem names_of_kept (h : kept s' = kept s) : s'.names = s.names := congrArg (fun k => k.1.names) h
theorem grids_of_kept (h : kept s' = kept s) : s'.grids = s.grids := congrArg (fun k => k.1.grids) h
theorem clusters_of_kept (h : kept s' = kept s) : s'.clusters = s.clusters := congrArg (fun k => k.1.clusters) h
theorem waiters_of_kept (h : kept s' = kept s) : s'.waiters = s.waiters := congrArg (fun k => k.1.waiters) h

theorem groupOf_of_kept (h : kept s' = kept s) (gk : Nat) : groupOf s' gk = groupOf s gk := groupOf_congr (groups_of_kept h) gk
theorem threadAt_of_kept (h : kept s' = kept s) (m : Nat × Nat) : threadAt s' m = threadAt s m := threadAt_congr (groups_of_kept h) m
end

end Sys2Proof.Machine
end

section
/-! SUPPORT. A group that fails (R413), and a fault that waits for the host (R414). -/
namespace Sys2Proof.Machine
open Sys2Proof.Claims

theorem mem_dropMembers {s : State} {p : Nat × Nat → Bool} {i : Issue} (hi : i ∈ (dropMembers s p).issues) {n : Nat × Nat}
    (hn : n ∈ i.members) : p n = false := by
  obtain ⟨h1, -⟩ := List.mem_filter.mp hi
  obtain ⟨j, -, rfl⟩ := List.mem_map.mp h1
  simpa using (List.mem_filter.mp hn).2

/-- What is left of a group that has failed. -/
structure Failed (s' : State) (gk : Nat) : Prop where
  group : ∃ g', groupOf s' gk = some g' ∧ g'.failed = true ∧ g'.run = .exited ∧ ∀ u ∈ g'.threads, u.status = .exited
  issues : ∀ i ∈ s'.issues, ∀ n ∈ i.members, n.1 ≠ gk

theorem failGroup_failed {s : State} {gk : Nat} {g : Group} (hg : groupOf s gk = some g) (hf : g.failed = false) (hinfo : Word) (va : DWord) :
    Failed (failGroup s gk hinfo va) gk := by
  unfold failGroup
  simp only [hg, hf, Bool.false_eq_true, if_false]
  generalize hs1 : (hwUpdate s g.record.part g.record.world g.frame 64 fun v =>
    setField (setField (setField (setField v 166 1 1) 167 1 1) 192 32 hinfo.toNat) 256 64 va.toNat).1 = s1
  generalize hs2 : hwUpdate s1 g.record.part g.record.world g.record.farr 64 (fun v =>
    if bitOf v 320 = true then v else setField (setField (setField v 320 1 1) 256 32 g.gid) 288 32 hinfo.toNat) = r2
  generalize hs3 : recordEvent r2.1 g.record.part r2.2 = s3
  have hk : kept s3 = kept s := by
    rw [← hs3, recordEvent_kept, ← hs2, hwUpdate_kept, ← hs1, hwUpdate_kept]
  generalize hs4 : dropMembers (modGrid s3 g.grid fun x => { x with failed := true }) (fun m => m.1 == gk) = s4
  have hg4 : groupOf s4 gk = some g := by
    rw [← hs4]
    exact (groupOf_of_kept hk gk).trans hg
  have hi4 : ∀ i ∈ s4.issues, ∀ n ∈ i.members, n.1 ≠ gk := fun i hi n hn => by
    rw [← hs4] at hi
    simpa using mem_dropMembers hi hn
  have hset : ∀ {x : State} {F : Group → Group}, x.groups = s4.groups → (∀ y, (F y).gk = y.gk) →
      groupOf (modGroup x gk F) gk = some (F g) := fun hx hF => by
    rw [groupOf_modGroup hF, groupOf_congr hx, hg4, Option.map_some]
  refine ⟨⟨_, hset ?_ fun _ => rfl, rfl, rfl, ?_⟩, ?_⟩
  · dsimp only
    split <;> rfl
  · intro u hu
    obtain ⟨v, -, rfl⟩ := List.mem_map.mp hu
    rfl
  · intro i hi
    refine hi4 i ?_
    rw [modGroup_issues] at hi
    dsimp only at hi
    split at hi <;> exact hi

/-- A fault on route 3 fails the group of the thread. -/
theorem takeFaults_fails {s : State} {m : Nat × Nat} {g : Group} {t : Thread} (h : TakesFault s m g t) (hf : g.failed = false)
    (site : FaultSite) {f : FaultInfo} (hr : routeOf s g t f.cls = 3) :
    Failed (takeFaults s site [{ gk := m.1, tid := m.2, f := f }]) m.1 := by
  have hg1 : groupOf (modThread s m.1 m.2 fun t => { t with pc := site.pc, hdr := site.hdr, clause := none }) m.1 =
      some (updThread g m.2 fun t => { t with pc := site.pc, hdr := site.hdr, clause := none }) := by
    rw [groupOf_modThread, h.group, Option.map_some]
  have hroute : routeOf (modThread s m.1 m.2 fun t => { t with pc := site.pc, hdr := site.hdr, clause := none }) g t f.cls = 3 := hr
  have hone : Failed (takeOne site s { gk := m.1, tid := m.2, f := f }) m.1 := by
    unfold takeOne
    simp only [h.group, h.thread, hroute, if_true]
    exact failGroup_failed hg1 hf _ _
  rw [takeFaults_unparked h.apart fun u hu => ?_]
  · exact hone
  · obtain ⟨g', hg', -, -, hex⟩ := hone.group
    rw [threadAt, hg', Option.bind_some] at hu
    rw [hex u (List.mem_of_find?_eq_some hu)]
    simp

/-! ## The host's route -/

/-- The thread as route 2 parks it. -/
def parkedAt (site : FaultSite) (t : Thread) : Thread := { t with pc := site.pc, hdr := site.hdr, clause := none, status := .parked none }

theorem takeOne_parks {s : State} {m : Nat × Nat} {g : Group} {t : Thread} (h : TakesFault s m g t) (site : FaultSite) {f : FaultInfo}
    (hr : routeOf s g t f.cls = 2) :
    takeOne site s { gk := m.1, tid := m.2, f := f } = modThread s m.1 m.2 (parkedAt site) := by
  have hroute : routeOf (modThread s m.1 m.2 fun t => { t with pc := site.pc, hdr := site.hdr, clause := none }) g t f.cls = 2 := hr
  unfold takeOne
  simp only [h.group, h.thread, hroute]
  rw [if_neg (by omega), if_pos trivial, modThread_eq_actOn, modThread_eq_actOn, modGroup_modGroup]
  · refine congrArg (modGroup s m.1) (funext fun x => ?_)
    rw [actOn_actOn]
    · rfl
    · exact fun _ => rfl
    · exact fun _ _ => rfl
  · exact fun _ => rfl

/-- The record of one thread that parked. -/
def oneRecord (site : FaultSite) (x : Faulting) (g : Group) (t : Thread) : FaultRec :=
  { seq := none, words := faultRecord site g t x.f (2 ^ laneOf g t.idx), members := [(x.gk, x.tid)]
    firsts := [(x.gk, hinfoOf g t.idx site.index x.f, x.f.va)] }

theorem ofNat_mul_shift (x : Word) : BitVec.ofNat 64 (2 ^ 32 * x.toNat) = BitVec.setWidth 64 x <<< 32 := by
  apply BitVec.eq_of_toNat_eq
  simp [Nat.shiftLeft_eq, Nat.mul_comm]

theorem addRecord_one (site : FaultSite) (x : Faulting) (g : Group) (t : Thread) (s : State) (sub : Nat) :
    addRecord site [(x, g, t)] s sub =
      if subcoreOf g t.idx = sub then modPart s g.record.part fun q => { q with parked := q.parked ++ [oneRecord site x g t] } else s := by
  unfold addRecord
  by_cases h : subcoreOf g t.idx = sub
  · have hf : ([(x, g, t)].filter fun p => subcoreOf p.2.1 p.2.2.idx == sub) = [(x, g, t)] := by simp [h]
    rw [hf, if_pos h]
    simp [oneRecord, firstFaults, sortBy, insertBy]
  · have hf : ([(x, g, t)].filter fun p => subcoreOf p.2.1 p.2.2.idx == sub) = [] := by simp [h]
    rw [hf, if_neg h]

/-- A fault on route 2: the thread parks and its record waits. -/
theorem takeFaults_parks {s : State} {m : Nat × Nat} {g : Group} {t : Thread} (h : TakesFault s m g t) (site : FaultSite) {f : FaultInfo}
    (hr : routeOf s g t f.cls = 2) (hsub : subcoreOf g m.2 < 4) :
    takeFaults s site [{ gk := m.1, tid := m.2, f := f }] =
      modPart (modThread s m.1 m.2 (parkedAt site)) g.record.part fun q =>
        { q with parked := q.parked ++ [oneRecord site { gk := m.1, tid := m.2, f := f } (updThread g m.2 (parkedAt site)) (parkedAt site t)] } := by
  have hg : groupOf (modThread s m.1 m.2 (parkedAt site)) m.1 = some (updThread g m.2 (parkedAt site)) := by
    rw [groupOf_modThread, h.group, Option.map_some]
  have ht : threadOf (updThread g m.2 (parkedAt site)) m.2 = some (parkedAt site t) := by
    rw [threadOf_updThread (f := parkedAt site) fun _ h => h, h.thread, Option.map_some]
  have hp : parkedHere (modThread s m.1 m.2 (parkedAt site)) { gk := m.1, tid := m.2, f := f } =
      some ({ gk := m.1, tid := m.2, f := f }, updThread g m.2 (parkedAt site), parkedAt site t) := by
    simp only [parkedHere, hg, ht]
    rfl
  have hidx : t.idx = m.2 := threadOf_idx h.thread
  have hs : subcoreOf (updThread g m.2 (parkedAt site)) (parkedAt site t).idx = subcoreOf g m.2 := by rw [← hidx]; rfl
  rw [takeFaults_one h.apart, takeOne_parks h site hr, List.filterMap_cons, hp]
  simp only [List.filterMap_nil, List.foldl_cons, List.foldl_nil, addRecord_one, hs]
  generalize subcoreOf g m.2 = k at hsub
  interval_cases k <;> rfl

end Sys2Proof.Machine

open Sys2Proof Sys2Proof.Machine Sys2Proof.Claims

/-- Settles O22: route 3 fails the group, route 2 parks the thread with one record of it. -/
theorem fatalAndHostRoutes : Obligations.FatalAndHostRoutes := by
  refine ⟨fun s site m g t f h hcls hf hr => ?_, fun s site m g t f h hcls hsub hr => ?_⟩
  · have hfail := takeFaults_fails h hf site ((routeOf_eq s g t _).trans hr)
    exact ⟨hfail.group, hfail.issues⟩
  · obtain ⟨gk, k⟩ := m
    obtain rfl : t.idx = k := threadOf_idx h.thread
    have ht : threadAt s (gk, t.idx) = some t := by rw [threadAt, h.group, Option.bind_some, h.thread]
    have hpark := takeFaults_parks h site ((routeOf_eq s g t _).trans hr) hsub
    have hinfo := hinfoOf_eq g t.idx site.index f (by omega) h.lane
    dsimp only
    rw [hpark]
    refine ⟨⟨parkedAt site t, ?_, rfl⟩, faultRecord site g t f (2 ^ laneOf g t.idx), ?_, ?_⟩
    · exact (threadAt_modThread (f := parkedAt site) (fun _ h => h)).trans (by rw [ht, Option.map_some])
    · rw [partOf_modPart, ← hinfo]
      rfl
    · have hk : subcoreOf g t.idx % 4 = subcoreNumber g t.idx := Nat.mod_eq_of_lt hsub
      rw [← hinfo, ← ofNat_mul_shift, ← hk]
      rfl
end

section
/-! SUPPORT. Return from a handler (R169, R412): the thread that comes back, and its arrivals at barriers (R162). -/
namespace Sys2Proof.Machine
open Sys2Proof.Claims

/-! ## Barriers at which a thread parks -/

theorem parkedOn_foldl (l : List (Nat × DWord)) (m : BitVec 4) {b : Nat} (hb : b < 4) :
    (l.foldl (fun m e => m ||| (1#4 <<< e.1)) m).getLsbD b = (m.getLsbD b || l.any fun e => e.1 == b) := by
  induction l generalizing m with
  | nil => simp
  | cons e l ih =>
    have hbit : (1#4 <<< e.1).getLsbD b = (e.1 == b) := by
      rw [Bool.eq_iff_iff]
      simp only [BitVec.getLsbD_shiftLeft, hb, decide_true, Bool.true_and, Bool.and_eq_true, Bool.not_eq_true', decide_eq_false_iff_not,
        BitVec.getLsbD_one, beq_iff_eq]
      simp
      omega
    rw [List.foldl_cons, ih, List.any_cons, BitVec.getLsbD_or, hbit, Bool.or_assoc]

/-- A thread that leaves the clauses at c and at d parks on the barriers at which it arrived in them. -/
theorem parkBars_parkBars (c d : DWord) (z : Thread) (hz : z.status = .ready) :
    let left := z.bars.filter fun x => x.2 = d ∨ x.2 = c
    let t' := parkBars c (parkBars d z)
    (∀ b < 4, t'.parkedOn.getLsbD b = (z.parkedOn.getLsbD b || left.any fun x => x.1 = b)) ∧
    t' = { z with
      bars := z.bars.filter fun x => x.2 ≠ d ∧ x.2 ≠ c, parkedOn := t'.parkedOn, status := if left = [] then .ready else .atBar } := by
  intro left t'
  have hleft : left = [] ↔ z.bars.filter (fun e => e.2 == d) = [] ∧
      (z.bars.filter fun e => e.2 != d).filter (fun e => e.2 == c) = [] := by
    simp only [left, List.filter_eq_nil_iff, List.mem_filter, decide_eq_true_eq, beq_iff_eq, bne_iff_ne]
    constructor
    · exact fun h => ⟨fun x hx hd => h x hx (.inl hd), fun x hx hc => h x hx.1 (.inr hc)⟩
    · rintro ⟨h1, h2⟩ x hx (hd | hc)
      · exact h1 x hx hd
      · exact h2 x ⟨hx, h1 x hx⟩ hc
  refine ⟨fun b hb => ?_, ?_⟩
  · simp only [t', parkBars]
    rw [parkedOn_foldl _ _ hb, parkedOn_foldl _ _ hb, Bool.or_assoc]
    congr 1
    rw [Bool.eq_iff_iff]
    simp only [left, Bool.or_eq_true, List.any_eq_true, List.mem_filter, decide_eq_true_eq, beq_iff_eq, bne_iff_ne]
    constructor
    · rintro (⟨x, ⟨hx, hd⟩, hq⟩ | ⟨x, ⟨⟨hx, -⟩, hc⟩, hq⟩)
      · exact ⟨x, ⟨hx, .inl hd⟩, hq⟩
      · exact ⟨x, ⟨hx, .inr hc⟩, hq⟩
    · rintro ⟨x, ⟨hx, hdc⟩, hq⟩
      by_cases hd : x.2 = d
      · exact .inl ⟨x, ⟨hx, hd⟩, hq⟩
      · exact .inr ⟨x, ⟨⟨hx, hd⟩, hdc.resolve_left hd⟩, hq⟩
  · have hbars : (z.bars.filter fun e => e.2 != d).filter (fun e => e.2 != c) = z.bars.filter fun x => x.2 ≠ d ∧ x.2 ≠ c := by
      rw [List.filter_filter]
      refine List.filter_congr fun x _ => ?_
      rw [Bool.eq_iff_iff]
      simp [and_comm]
    have hst : t'.status = if left = [] then .ready else .atBar := by
      simp only [t', parkBars, List.isEmpty_iff, hz, hleft]
      by_cases h1 : z.bars.filter (fun e => e.2 == d) = []
      · by_cases h2 : (z.bars.filter fun e => e.2 != d).filter (fun e => e.2 == c) = []
        · rw [if_pos h2, if_pos h1, if_pos ⟨h1, h2⟩]
        · rw [if_neg h2, if_neg fun h => h2 h.2]
      · rw [if_neg h1, ite_self, if_neg fun h => h1 h.1]
    rw [← hst, ← hbars]
    rfl

/-! ## The return -/

/-- The place of a return, in the clause of the fault or at a header (R169). -/
def returnsInside (cl : DWord × Nat) (pc : DWord) : Bool :=
  decide (cl.1.toNat < pc.toNat) && decide (pc.toNat ≤ cl.1.toNat + 4 * cl.2)

/-- A thread out of the handler it is in, the supervisor routine first (R412). -/
def outOfHandler (x : Thread) : Thread := if x.inSup then { x with inSup := false, emulS := none } else { x with inKernel := false, emulK := none }

theorem outOfHandler_idx (x : Thread) : (outOfHandler x).idx = x.idx := by
  unfold outOfHandler
  split <;> rfl

/-- What a return makes of the thread x, which was t when it left its handler. -/
def backFrom (cl : DWord × Nat) (t : Thread) (pc : DWord) (a : Nat) (x : Thread) : Thread :=
  let z : Thread := { outOfHandler x with
    status := .ready, pc := pc, hdr := if returnsInside cl pc then cl.1 else pc, age := a, clause := none, l0 := 0, l1 := 0 }
  if returnsInside cl pc then { z with bars := z.bars.map fun e => if e.2 == t.hdr then (e.1, cl.1) else e }
  else parkBars cl.1 (parkBars t.hdr z)

theorem backFrom_idx (cl : DWord × Nat) (t : Thread) (pc : DWord) (a : Nat) (x : Thread) : (backFrom cl t pc a x).idx = x.idx := by
  unfold backFrom
  dsimp only
  split
  · exact outOfHandler_idx x
  · exact outOfHandler_idx x

/-- A thread that comes back is ready or parked at barriers. -/
theorem backFrom_status (cl : DWord × Nat) (t : Thread) (pc : DWord) (a : Nat) (x : Thread) :
    (backFrom cl t pc a x).status = .ready ∨ (backFrom cl t pc a x).status = .atBar := by
  unfold backFrom
  dsimp only
  split
  · exact .inl rfl
  · rw [(parkBars_parkBars _ _ _ rfl).2]
    dsimp only
    split
    · exact .inl rfl
    · exact .inr rfl

theorem nextHandler_none {s : State} {gk : Nat} {g : Group} (hg : groupOf s gk = some g)
    (h : ∀ u ∈ g.threads, ∀ k f b, u.status ≠ .waitHandler k f b) : nextHandler s gk = s := by
  unfold nextHandler
  rw [hg]
  dsimp only
  split
  · rfl
  · split
    · rfl
    · next u hu =>
      split
      · next hs => exact absurd hs (h u (List.mem_of_find?_eq_some hu) _ _ _)
      · rfl

/-- The clause in which a thread faulted into the handler that it is in (R68). -/
def faultClause (t : Thread) : DWord × Nat := if t.inSup then t.sClause else t.kClause

theorem leaveHandler_eq {s : State} {gk k : Nat} {g : Group} {t : Thread} (hg : groupOf s gk = some g) (ht : threadOf g k = some t)
    (h : ∀ u ∈ g.threads, ∀ k f b, u.status ≠ .waitHandler k f b) (pc : DWord) :
    leaveHandler s gk k pc = { modGroup s gk (actOn k id (backFrom (faultClause t) t pc s.names)) with names := s.names + 1 } := by
  have hg' : groupOf { modGroup s gk (actOn k id (backFrom (faultClause t) t pc s.names)) with names := s.names + 1 } gk =
      some (actOn k id (backFrom (faultClause t) t pc s.names) g) := by
    refine (groupOf_modGroup (s := s) (f := actOn k id (backFrom (faultClause t) t pc s.names)) fun _ => rfl).trans ?_
    rw [hg, Option.map_some]
  have hnone := nextHandler_none hg' fun u hu kk f b hw => by
    rcases mem_updFirst hu with hu | ⟨y, -, -, rfl⟩
    · exact h u hu kk f b hw
    · rcases backFrom_status (faultClause t) t pc s.names y with he | he <;> rw [he] at hw <;> exact absurd hw (by simp)
  unfold leaveHandler
  rw [hg]
  dsimp only
  rw [ht]
  refine Eq.trans (congrArg (fun x => nextHandler x gk) ?_) hnone
  unfold readyAt modThread modGroup
  simp only [fresh]
  rw [updFirst_updFirst, updFirst_updFirst]
  · congr 2
    funext x
    unfold updThread actOn
    congr 1
    rw [updFirst_updFirst, updFirst_updFirst]
    · rfl
    · exact fun y hy => beq_iff_eq.mpr ((outOfHandler_idx y).trans (beq_iff_eq.mp hy))
    · exact fun _ h => h
  · exact fun _ h => h
  · exact fun _ h => h

/-- The thread that comes back is what R169 and R162 say. -/
theorem returned_backFrom (cl : DWord × Nat) (t : Thread) (pc : DWord) (a : Nat) (e : Thread)
    (he : { outOfHandler t with status := .ready, pc := pc, hdr := pc, age := a, clause := none, l0 := 0, l1 := 0 } = e)
    (hb : (outOfHandler t).bars = t.bars) (hp : (outOfHandler t).parkedOn = t.parkedOn) :
    returned t cl pc e (backFrom cl t pc a t) := by
  subst he
  unfold returned backFrom
  by_cases h : cl.1.toNat < pc.toNat ∧ pc.toNat ≤ cl.1.toNat + 4 * cl.2
  · have hi : returnsInside cl pc = true := by simpa [returnsInside] using h
    rw [if_pos h, hi]
    simp only [if_true, hb, beq_iff_eq]
  · have hi : returnsInside cl pc = false := by simpa [returnsInside] using h
    rw [if_neg h, hi]
    simp only [Bool.false_eq_true, if_false]
    have hz := parkBars_parkBars cl.1 t.hdr
      { outOfHandler t with status := .ready, pc := pc, hdr := pc, age := a, clause := none, l0 := 0, l1 := 0 } rfl
    simp only [hb, hp] at hz ⊢
    exact hz

theorem takeFaults_nil {s : State} (h : ∀ i ∈ s.issues, i.members ≠ []) (site : FaultSite) : takeFaults s site [] = s := by
  have hd := dropMembers_none (s := s) (p := fun m => ([] : List Faulting).any fun x => x.gk == m.1 && x.tid == m.2) fun i hi => ⟨h i hi, fun _ _ => rfl⟩
  rw [takeFaults, hd]
  rfl

theorem execSret_eq {o : TaskOp} {s : State} {i : Issue} {rest : List Issue} {m : Nat × Nat} {g : Group} {t : Thread}
    (ha : Alone s i rest m g t) (hg : guardTrue t o.g = true) (hap : apart rest m)
    (hw : ∀ u ∈ g.threads, ∀ k f b, u.status ≠ .waitHandler k f b) (hh : inHandler t = true) :
    Runs (.sret o) s fun s' => ∃ a, Changed { s with issues := rest } s' m
      (backFrom (faultClause t) t (if t.inSup then g.ctl.svpcr else g.ctl.hpc) a t) id := by
  obtain ⟨hi, hm, hmt⟩ := ha
  obtain ⟨hth, g0, hg0, hgv⟩ := memberOf_eq hmt
  have hgk : g.gk = m.1 := memberOf_gk hmt
  have hidx : t.idx = m.2 := memberOf_idx hmt
  have hdrop : dropMembers s (fun n => n == (g.gk, t.idx)) = { s with issues := rest } := by
    rw [hgk, hidx]
    have hrest := dropMembers_none (s := { s with issues := rest }) (p := fun n => n == m) fun j hj =>
      ⟨(hap j hj).1, fun n hn => beq_eq_false_iff_ne.mpr fun he => (hap j hj).2 (he ▸ hn)⟩
    rw [← hrest]
    simp [dropMembers, hi, hm]
  have hret : sretThread s g t = (leaveHandler { s with issues := rest } m.1 m.2 (if t.inSup then g.ctl.svpcr else g.ctl.hpc), none) := by
    rw [sretThread, hh, hdrop, hgk, hidx]
    rfl
  have hth0 : threadOf g0 m.2 = some t := by
    rw [threadAt, hg0, Option.bind_some] at hth
    exact hth
  have hw0 : ∀ u ∈ g0.threads, ∀ k f b, u.status ≠ .waitHandler k f b := by
    have he : g.threads = g0.threads := by
      rw [hgv, viewOf]
      split <;> rfl
    rwa [he] at hw
  have hlv := leaveHandler_eq (s := { s with issues := rest }) hg0 hth0 hw0 (if t.inSup then g.ctl.svpcr else g.ctl.hpc)
  have hch := changed_of hlv (fun _ => rfl) (backFrom_idx _ _ _ _) hth
  have hsret : execSret o s = .next (takeFaults (leaveHandler { s with issues := rest } m.1 m.2
      (if t.inSup then g.ctl.svpcr else g.ctl.hpc)) (headSite s) []) := by
    simp [execSret, headMembers_cons hi, hm, hmt, hg, hret]
  refine ⟨_, hsret, s.names, ?_⟩
  rw [takeFaults_nil fun j hj => (hap j ?_).1]
  · exact hch
  · rw [hlv] at hj
    exact hj

end Sys2Proof.Machine

open Sys2Proof Sys2Proof.Machine Sys2Proof.Claims

/-- Settles O24: the return changes the one thread; its place and its barriers are those of R169 and R162. -/
theorem handlerReturnResumes : Obligations.HandlerReturnResumes := by
  intro o s i rest m g t ha hg hap hw
  refine ⟨fun hsup => ?_, fun hsup hk => ?_⟩
  · obtain ⟨s', hx, a, hc⟩ := execSret_eq ha hg hap hw (by simp [inHandler, hsup])
    refine ⟨s', hx, a, _, ?_, hc⟩
    simp only [faultClause, hsup, if_true]
    exact returned_backFrom _ t _ a _ (by simp [outOfHandler, hsup, entered]) (by simp [outOfHandler, hsup]) (by simp [outOfHandler, hsup])
  · obtain ⟨s', hx, a, hc⟩ := execSret_eq ha hg hap hw (by simp [inHandler, hk])
    refine ⟨s', hx, a, _, ?_, hc⟩
    simp only [faultClause, hsup, Bool.false_eq_true, if_false]
    exact returned_backFrom _ t _ a _ (by simp [outOfHandler, hsup, entered]) (by simp [outOfHandler, hsup]) (by simp [outOfHandler, hsup])
end

section
/-! SUPPORT. Barriers (R162, R163): the arrival of one thread alone, and the opening. -/
namespace Sys2Proof.Machine
open Sys2Proof.Claims

/-- A thread with no operation outstanding has nothing to perform. -/
theorem performThread_idle {s : State} {m : Nat × Nat} (h : idle s m) : performThread s m.1 m.2 = s := by
  unfold performThread performAll
  have hstep : ∀ o ∈ s.ops, ∀ x : State,
      (if isAccess o && (o.gk == m.1 && o.threads.contains m.2) && !(windowFull x o) then performOp x o else x) = x := by
    intro o ho x
    refine if_neg ?_
    simp only [Bool.and_eq_true, not_and]
    intro hp
    have hm := hp.2
    exact fun _ => h o ho (beq_iff_eq.mp hm.1) (List.contains_iff_mem.mp hm.2)
  generalize s.ops = l at hstep
  suffices ∀ x : State, l.foldl (fun s o => if isAccess o && (o.gk == m.1 && o.threads.contains m.2) && !(windowFull s o) then performOp s o else s) x = x from this s
  induction l with
  | nil => exact fun _ => rfl
  | cons o l ih =>
    intro x
    rw [List.foldl_cons, hstep o (by simp) x]
    exact ih (fun o ho => hstep o (by simp [ho])) x

theorem releaseThread_idle {s : State} {m : Nat × Nat} (h : idle s m) : kept (releaseThread s m.1 m.2) = kept s := by
  unfold releaseThread
  split
  · rfl
  · rw [drainCore_kept, performThread_idle h]

variable {s1 : State} {i : Issue} {rest : List Issue} {m : Nat × Nat}

theorem shiftZero_one (hi : s1.issues = i :: rest) (hm : i.members = [m]) :
    shiftZero s1 = modThread s1 m.1 m.2 fun t => shiftLatch t 0 := by
  rw [shiftZero_eq hi, hm]
  rfl

theorem finish_one (hi : s1.issues = i :: rest) (hm : i.members = [m]) (w : Nat) :
    Past s1 (finishInstr (shiftZero s1) w []) i rest m w := by
  rw [shiftZero_one hi hm]
  exact past_of hi hm w

/-- What the end of an instruction of one thread does to the threads of its group: the one changes, but not in where it has arrived. -/
theorem groupOf_finish_one {g : Group} (hi : s1.issues = i :: rest) (hm : i.members = [m]) (hg : groupOf s1 m.1 = some g) (w : Nat) :
    ∃ h : Thread → Thread, (∀ t, (h t).arrived = t.arrived) ∧
      groupOf (finishInstr (shiftZero s1) w []) m.1 = some { g with threads := updFirst (fun x => x.idx == m.2) h g.threads } := by
  have hi2 : (shiftZero s1).issues = i :: rest := by
    rw [shiftZero_one hi hm]
    exact hi
  have hg2 : groupOf (shiftZero s1) m.1 = some (updThread g m.2 fun t => shiftLatch t 0) := by
    rw [shiftZero_one hi hm, groupOf_modThread, hg, Option.map_some]
  rw [finishInstr]
  simp only [List.map_nil, List.isEmpty_nil, if_true]
  rw [advance_all hi2 (by simp [hm])]
  by_cases hc : i.off + w < i.words.length
  · rw [if_pos hc]
    exact ⟨fun t => shiftLatch t 0, fun _ => rfl, hg2⟩
  · rw [if_neg hc, hm, List.foldl_cons, List.foldl_nil, leaveClause]
    refine ⟨fun t => leftClause i m (shiftZero s1).names (shiftLatch t 0), fun t => ?_, ?_⟩
    · unfold leftClause
      dsimp only
      split <;> rfl
    · rw [groupOf_modThread]
      refine (congrArg (Option.map _) hg2).trans ?_
      exact congrArg (fun ts => some { g with threads := ts }) 
        (updFirst_updFirst (p := fun x : Thread => x.idx == m.2) (f := fun t => shiftLatch t 0) (fun _ h => h) g.threads)

/-- The arrival of a thread at barrier b. -/
def arrivedThread (b : Nat) (t : Thread) : Thread := { t with arrived := t.arrived ||| (1#4 <<< b), bars := t.bars ++ [(b, t.hdr)] }

def barrierCount (b : Nat) (t : Thread) (g : Group) : Nat := g.barriers.getD b 0 + if t.arrived.getLsbD b then 0 else 1

/-- The group at the barrier, and its thread, once the thread has arrived. -/
def arrivedGroup (k b : Nat) (g : Group) (t : Thread) : Group :=
  { updThread g k (arrivedThread b) with barriers := g.barriers.set b (barrierCount b t g) }

theorem arriveAt_eq {s : State} {gk k b : Nat} {g : Group} {t : Thread} (hg : groupOf s gk = some g) (ht : threadOf g k = some t)
    (hb : b < g.barriers.length) :
    groupOf (arriveAt s gk k b) gk =
      some (arrivedGroup k b g t) := by
  unfold arriveAt
  rw [groupOf_modGroup fun x => by split <;> rfl, hg, Option.map_some]
  simp only [ht]
  have hset : (if t.arrived.getLsbD b then g.barriers else g.barriers.set b (g.barriers.getD b 0 + 1)) =
      g.barriers.set b (barrierCount b t g) := by
    unfold barrierCount
    cases t.arrived.getLsbD b with
    | true => simp [hb]
    | false => rfl
  rw [hset]
  rfl

theorem threadAt_arriveAt_other {s : State} {m n : Nat × Nat} {b : Nat} {g : Group} {t : Thread} (hg : groupOf s m.1 = some g)
    (ht : threadOf g m.2 = some t) (hb : b < g.barriers.length) (hn : n ≠ m) : threadAt (arriveAt s m.1 m.2 b) n = threadAt s n := by
  unfold threadAt
  by_cases hgk : n.1 = m.1
  · have hk : n.2 ≠ m.2 := fun e => hn (Prod.ext hgk e)
    rw [hgk, arriveAt_eq hg ht hb, hg, Option.bind_some, Option.bind_some]
    exact threadOf_updThread_other (f := arrivedThread b) (fun _ h => h) hk
  · rw [arriveAt, groupOf_modGroup_other (fun x => by split <;> rfl) hgk]

theorem liveThreads_updThread {h : Thread → Thread} (hs : ∀ t, (h t).status = t.status) (g : Group) (k : Nat) :
    (liveThreads (updThread g k h)).length = (liveThreads g).length := by
  unfold liveThreads updThread
  generalize g.threads = l
  have hl : ∀ t, isLive (h t) = isLive t := fun t => by rw [isLive, isLive, hs]
  induction l with
  | nil => rfl
  | cons x l ih =>
    dsimp only at ih ⊢
    unfold updFirst
    split
    · rw [List.filter_cons, List.filter_cons, hl]
      split <;> rfl
    · rw [List.filter_cons, List.filter_cons]
      split
      · rw [List.length_cons, List.length_cons, ih]
      · exact ih

theorem freeBar_idx (b a : Nat) (t : Thread) : (freeBar b a t).idx = t.idx := by
  unfold freeBar
  dsimp only
  split <;> rfl

theorem freeBar_arrived {b : Nat} (hb : b < 4) (a : Nat) (t : Thread) : (freeBar b a t).arrived.getLsbD b = false := by
  have h : (t.arrived &&& ~~~(1#4 <<< b)).getLsbD b = false := by
    simp [hb]
  unfold freeBar
  dsimp only
  split <;> exact h

/-- At the opening a thread parked on the one barrier is ready (R163). -/
theorem freeBar_ready {b a : Nat} {t : Thread} (hs : t.status = .atBar) (hp : t.parkedOn = 1#4 <<< b) :
    (freeBar b a t).status = .ready ∧ (freeBar b a t).parkedOn = 0 := by
  have h0 : (1#4 <<< b) &&& ~~~(1#4 <<< b) = 0 := by
    ext j hj
    simp
  unfold freeBar
  dsimp only
  rw [if_pos ⟨hs, by rw [hp]; exact h0⟩]
  exact ⟨rfl, by dsimp only; rw [hp]; exact h0⟩

theorem mem_updFirst_of_not {α : Type} {p : α → Bool} {f : α → α} {x : α} {l : List α} (hx : x ∈ l) (hp : p x = false) :
    x ∈ updFirst p f l := by
  induction l with
  | nil => exact hx
  | cons y l ih =>
    unfold updFirst
    rcases List.mem_cons.mp hx with rfl | hx
    · simp [hp]
    · split
      · simp [hx]
      · simp [ih hx]

section arrival
variable {s : State} {b : BitVec 2} {g1 : Group} {t1 : Thread} (hr : s1.issues = i :: rest) (hm : i.members = [m])
  (hg : groupOf s1 m.1 = some g1) (ht : threadOf g1 m.2 = some t1) (hb : b.toNat < g1.barriers.length)
  (hx : exec (.bar b) s = .next (finishInstr (shiftZero (openBarrier m.1 (arriveAt s1 m.1 m.2 b.toNat) b.toNat)) 1 []))
include hr hm hg ht hb hx

/-- An arrival that is not the last: the thread goes on in its clause, counted. -/
theorem barArrives_waits (hc : barrierCount b.toNat t1 g1 ≠ (liveThreads g1).length) : Runs (.bar b) s fun s' =>
    (∃ t', threadAt s' m = some t' ∧ afterWords i 1 m (shiftLatch (arrivedThread b.toNat t1) 0) t') ∧
    (∀ n, n ≠ m → threadAt s' n = threadAt s1 n) ∧
    ∃ ts, groupOf s' m.1 = some { g1 with threads := ts, barriers := g1.barriers.set b.toNat (barrierCount b.toNat t1 g1) } := by
  have hg2 := arriveAt_eq hg ht hb
  have hno : openBarrier m.1 (arriveAt s1 m.1 m.2 b.toNat) b.toNat = arriveAt s1 m.1 m.2 b.toNat := by
    unfold openBarrier
    rw [hg2]
    have hlen : (liveThreads (arrivedGroup m.2 b.toNat g1 t1)).length = (liveThreads g1).length :=
      liveThreads_updThread (h := arrivedThread b.toNat) (fun _ => rfl) g1 m.2
    have hget : (arrivedGroup m.2 b.toNat g1 t1).barriers.getD b.toNat 0 = barrierCount b.toNat t1 g1 := by
      simp [arrivedGroup, hb]
    refine if_neg ?_
    rw [Bool.and_eq_true, not_and]
    intro _
    rw [beq_iff_eq]
    exact fun he => hc (hget.symm.trans (he.trans hlen))
  rw [hno] at hx
  have hp := finish_one (s1 := arriveAt s1 m.1 m.2 b.toNat) hr hm 1
  refine ⟨_, hx, ?_, fun n hn => (hp.other n hn).trans (threadAt_arriveAt_other hg ht hb hn), ?_⟩
  · refine hp.member _ ?_
    rw [threadAt, hg2, Option.bind_some]
    exact (threadOf_updThread (f := arrivedThread b.toNat) fun _ h => h).trans (by rw [ht, Option.map_some])
  · obtain ⟨ts, h⟩ := hp.group _ _ hg2
    exact ⟨ts, h⟩

/-- The last arrival opens the barrier. -/
theorem barArrives_opens (hc : barrierCount b.toNat t1 g1 = (liveThreads g1).length) (ha : t1.arrived.getLsbD b.toNat = false) :
    Runs (.bar b) s fun s' => ∃ g', groupOf s' m.1 = some g' ∧ g'.barriers.getD b.toNat 0 = 0 ∧
      (∀ u ∈ g'.threads, u.arrived.getLsbD b.toNat = false) ∧
      ∀ u ∈ g1.threads, u.idx ≠ m.2 → u.status = .atBar → u.parkedOn = 1#4 <<< b.toNat →
        ∃ u' ∈ g'.threads, u'.idx = u.idx ∧ u'.status = .ready ∧ u'.parkedOn = 0 := by
  have hg2 := arriveAt_eq hg ht hb
  generalize hs2 : arriveAt s1 m.1 m.2 b.toNat = s2 at hg2 hx
  have hi2 : s2.issues = i :: rest := by rw [← hs2]; exact hr
  have hb4 : b.toNat < 4 := b.isLt
  have hopen : ∃ a, groupOf (openBarrier m.1 s2 b.toNat) m.1 = some { arrivedGroup m.2 b.toNat g1 t1 with
      barriers := (arrivedGroup m.2 b.toNat g1 t1).barriers.set b.toNat 0
      threads := (arrivedGroup m.2 b.toNat g1 t1).threads.map (freeBar b.toNat a) } ∧ (openBarrier m.1 s2 b.toNat).issues = i :: rest := by
    have hlen : (liveThreads (arrivedGroup m.2 b.toNat g1 t1)).length = (liveThreads g1).length :=
      liveThreads_updThread (h := arrivedThread b.toNat) (fun _ => rfl) g1 m.2
    have hget : (arrivedGroup m.2 b.toNat g1 t1).barriers.getD b.toNat 0 = barrierCount b.toNat t1 g1 := by
      simp [arrivedGroup, hb]
    have hpos : barrierCount b.toNat t1 g1 ≠ 0 := by
      simp [barrierCount, ha]
    have hk : kept (acquireCore s2 (arrivedGroup m.2 b.toNat g1 t1).core) = kept s2 := acquireCore_kept ..
    have hcond : ((arrivedGroup m.2 b.toNat g1 t1).barriers.getD b.toNat 0 != 0 &&
        (arrivedGroup m.2 b.toNat g1 t1).barriers.getD b.toNat 0 == (liveThreads (arrivedGroup m.2 b.toNat g1 t1)).length) = true := by
      rw [hget, hlen, Bool.and_eq_true, bne_iff_ne, beq_iff_eq]
      exact ⟨hpos, hc⟩
    refine ⟨(acquireCore s2 (arrivedGroup m.2 b.toNat g1 t1).core).names, ?_⟩
    unfold openBarrier
    rw [hg2]
    dsimp only
    rw [if_pos hcond]
    refine ⟨?_, (issues_of_kept hk).trans hi2⟩
    rw [groupOf_modGroup]
    · exact (congrArg (Option.map _) ((groupOf_of_kept hk m.1).trans hg2)).trans rfl
    · exact fun _ => rfl
  obtain ⟨a, hg3, hi3⟩ := hopen
  obtain ⟨h, hh, hg4⟩ := groupOf_finish_one hi3 hm hg3 1
  refine ⟨_, hx, _, hg4, ?_, ?_, ?_⟩
  · simp [arrivedGroup, hb]
  · intro u hu
    rcases mem_updFirst hu with hu | ⟨y, hy, -, rfl⟩
    · obtain ⟨v, -, rfl⟩ := List.mem_map.mp hu
      exact freeBar_arrived hb4 a v
    · obtain ⟨v, -, rfl⟩ := List.mem_map.mp hy
      rw [hh]
      exact freeBar_arrived hb4 a v
  · intro u hu hk hst hp
    have hku : (u.idx == m.2) = false := beq_eq_false_iff_ne.mpr hk
    obtain ⟨hready, hpark⟩ := freeBar_ready (a := a) hst hp
    refine ⟨freeBar b.toNat a u, mem_updFirst_of_not (List.mem_map_of_mem ?_) (by rw [freeBar_idx]; exact hku), freeBar_idx .., hready, hpark⟩
    exact mem_updFirst_of_not hu hku
end arrival

theorem execBar_eq {s : State} {b : BitVec 2} (hi : s.issues = i :: rest) (hm : i.members = [m]) :
    exec (.bar b) s = .next (finishInstr (shiftZero
      (openBarrier m.1 (arriveAt (releaseThread s m.1 m.2) m.1 m.2 b.toNat) b.toNat)) 1 []) := by
  show execBar b s = _
  rw [execBar, headMembers_cons hi, hm]
  rfl

theorem barArrives_of {s : State} {b : BitVec 2} {g : Group} {g1 : Group} {t1 : Thread} {t : Thread} (ha : Alone s i rest m g t)
    (hi : (releaseThread s m.1 m.2).issues = s.issues) (hg : groupOf (releaseThread s m.1 m.2) m.1 = some g1)
    (ht : threadOf g1 m.2 = some t1) (hb : b.toNat < g1.barriers.length) :
    BarArrives b s (releaseThread s m.1 m.2) i m g1 t1 := by
  have hx := execBar_eq (b := b) ha.issues ha.members
  exact ⟨fun hc => barArrives_waits (hi.trans ha.issues) ha.members hg ht hb hx hc,
    fun hc hn => barArrives_opens (hi.trans ha.issues) ha.members hg ht hb hx hc hn⟩

end Sys2Proof.Machine

open Sys2Proof Sys2Proof.Machine Sys2Proof.Claims

/-- Settles O25: the release keeps the threads of a group with nothing outstanding, and the arrival is counted after it. -/
theorem barrierArrivalAndOpening : Obligations.BarrierArrivalAndOpening := by
  intro b s i rest m g t ha
  refine ⟨fun g0 hg0 hb hidle => ?_, fun hi g1 t1 hg ht hb => barArrives_of ha hi hg ht hb⟩
  have hk := releaseThread_idle hidle
  have ht0 : threadOf g0 m.2 = some t := by
    have h := (memberOf_eq ha.member).1
    rwa [threadAt, hg0, Option.bind_some] at h
  have h := barArrives_of (b := b) ha (issues_of_kept hk) ((groupOf_of_kept hk m.1).trans hg0) ht0 hb
  unfold BarArrives at h ⊢
  simp only [threadAt_of_kept hk] at h
  exact h
end

section
/-! SUPPORT. Reads of control registers (R103, R165). -/
namespace Sys2Proof.Machine
open Sys2Proof.Claims

/-- The registers of Table 4.2 that a supervisor alone may touch. -/
theorem supOnly_iff (n : Nat) : supOnly n = true ↔ n ∈ [0x006, 0x007, 0x00D, 0x00E, 0x00F] := by
  simp [supOnly, or_assoc]

theorem ctlFault_read {s : State} {g : Group} {t : Thread} {n : Nat} (h : mayRead s g t n) : ctlFault s g t n false = none := by
  unfold mayRead at h
  unfold ctlFault
  cases hs : t.inSup with
  | true =>
    rw [hs, if_pos rfl] at h
    have hout : ¬ (n ≥ 0x200 ∧ outside s g.record.part n = true) := fun ⟨hn, ho⟩ =>
      h.elim (fun h => by omega) fun h => by rw [ho] at h; contradiction
    simp [hout]
  | false =>
    simp only [hs, Bool.false_eq_true, if_false, ← supOnly_iff] at h
    simp [h]

theorem readControl_idx (o : TaskOp) (n : Nat) (s : State) (g : Group) (t : Thread) : (readControl o n s g t).idx = t.idx := by
  unfold readControl
  split
  · split <;> rfl
  · rfl

end Sys2Proof.Machine

open Sys2Proof Sys2Proof.Machine Sys2Proof.Claims

/-- Settles O26: a read that the thread may make raises no fault, so the instruction is a lane function. -/
theorem controlRegisterReads : Obligations.ControlRegisterReads := by
  intro o s i rest hd n hmay
  refine runs_lanes (f := ctlReadThread s o) rfl hd fun m hmi => ?_
  obtain ⟨g, t, hm, hr⟩ := hmay m hmi
  refine ⟨g, t, hm, ?_, readControl_idx ..⟩
  unfold ctlReadThread readControl
  cases hg : guardTrue t o.g with
  | false => rfl
  | true =>
    have hf : ctlFault s g t (ctlNumber o) false = none := ctlFault_read (hr hg)
    simp only [Bool.not_true, Bool.false_eq_true, if_false, hf, if_true]
    rfl
end

section
/-! SUPPORT. A state against `ctlw` (R165): its group is of a partition numbered 8, which the device does not have, so that register 0x400
is `pcsel` 0 (Table 4.6) and the number of the partition's first routing register as well. -/
namespace Sys2Proof.Machine.NinthPartition
open Sys2Proof.Claims

def supervisor : Thread := { idx := 0, regs := [], winHi := 0, pc := 0, hdr := 0, status := .issuing, inSup := true }
def group : Group := { gk := 0, grid := 0, gid := 0, record := { part := 8 }, kd := {}, core := 0, threads := [supervisor] }
def issue : Issue := { core := 0, members := [(0, 0)], hdr := 0, words := [0, 0] }
def state : State := { State.reset with groups := [group], issues := [issue] }
def write : TaskOp := { d := 0, ao := 0, as := 0, b := .int 20, tx := 0, g := { neg := false, p := 7 }, wait := 7, imm := 0x400 }

/-- First routing register of partition 8 in what an instruction answers. -/
def routeAfter (r : Res) : Option Word :=
  match r with
  | .next s => some (partOf s 8).route0
  | _ => none

/-- The write of the statement's clause for routing registers. -/
def claimed : State := supervisorWrite state group.record.part (write.imm.toNat % 2 ^ 12) 4

theorem claimed_route0 : (partOf claimed 8).route0 = 4 := by decide +kernel

theorem ctlw_keeps_route0 : routeAfter (exec (.ctlw write) state) = some 0xA9AAAAA8#32 := by decide +kernel

end Sys2Proof.Machine.NinthPartition

open Sys2Proof Sys2Proof.Machine Sys2Proof.Claims

/-- Refutes O27: nothing in the statement keeps the number of a group's partition below 8; for partition 8 its clause on `route0` claims
register 0x400, to which the model gives `pcsel` (`NinthPartition.state`). -/
theorem not_controlRegisterWrites : ¬ Obligations.ControlRegisterWrites := by
  intro h
  obtain ⟨-, -, hdev⟩ := h NinthPartition.write NinthPartition.state NinthPartition.issue [] (0, 0) NinthPartition.group
    NinthPartition.supervisor 4 ⟨rfl, rfl, rfl⟩ rfl rfl rfl (fun j hj => absurd hj (by simp)) (Or.inr (by decide))
  obtain ⟨s', hx, hpast⟩ := hdev (by decide)
  have hframe := congrArg State.partitions hpast.frame
  have hp : s'.partitions = NinthPartition.claimed.partitions := hframe
  have hr := NinthPartition.ctlw_keeps_route0
  have hc := NinthPartition.claimed_route0
  rw [partOf, ← hp, ← partOf] at hc
  rw [hx, NinthPartition.routeAfter, hc] at hr
  exact absurd hr (by decide)
end

section
/-! SUPPORT. Segments, pattern slots and counters (R167, R154, R168): what the one member of an issue group makes of its group. -/
namespace Sys2Proof.Machine
open Sys2Proof.Claims

/-- Only the group itself matters to what is changed in it. -/
theorem modGroup_congr {s : State} {gk : Nat} {u u' : Group → Group} (h : ∀ g, groupOf s gk = some g → u g = u' g) :
    modGroup s gk u = modGroup s gk u' := by
  unfold groupOf at h
  unfold modGroup
  generalize s.groups = l at h ⊢
  suffices updFirst (fun g => g.gk == gk) u l = updFirst (fun g => g.gk == gk) u' l by rw [this]
  induction l with
  | nil => rfl
  | cons x l ih =>
    unfold updFirst
    by_cases hx : (x.gk == gk) = true
    · rw [if_pos hx, if_pos hx, h x (List.find?_cons_of_pos hx)]
    · rw [if_neg hx, if_neg hx, ih fun g hg => h g (by rw [List.find?_cons_of_neg (p := fun g : Group => g.gk == gk) hx]; exact hg)]

section alone
variable {s s1 : State} {i : Issue} {rest : List Issue} {m : Nat × Nat} {g : Group} {t : Thread}

namespace Alone

theorem headGroups (ha : Alone s i rest m g t) : headGroups s = [m.1] := by
  simp [Machine.headGroups, headMembers_cons ha.issues, ha.members]

theorem headThreads (ha : Alone s i rest m g t) : headThreads s m.1 = [m.2] := by
  simp [Machine.headThreads, headMembers_cons ha.issues, ha.members]

/-- The group of the member as it stands in the state; the issue group may see older control registers and segments (R104). -/
theorem group (ha : Alone s i rest m g t) : ∃ g0, groupOf s m.1 = some g0 ∧ threadOf g0 m.2 = some t ∧ g = viewOf s g0 := by
  have h := ha.member
  unfold Machine.memberOf at h
  cases hg : groupOf s m.1 with
  | none => simp [hg] at h
  | some g0 =>
    simp only [hg, Option.map_eq_some_iff, Prod.mk.injEq] at h
    obtain ⟨t0, ht0, hv, rfl⟩ := h
    exact ⟨g0, rfl, ht0, hv.symm⟩

theorem group_fresh (ha : Alone s i rest m g t) (hst : i.stale = []) : groupOf s m.1 = some g ∧ threadOf g m.2 = some t := by
  obtain ⟨g0, hg, ht, hv⟩ := ha.group
  rw [viewOf_fresh ha.issues hst] at hv
  subst hv
  exact ⟨hg, ht⟩

end Alone

/-- An instruction whose effect on the one member is s1. -/
theorem runs_past {ins : Instr} {s0 : State} {w : Nat} {gd : Guard} {f : State → Group → Thread → State × Option FaultInfo}
    (hx : exec ins s = .next (runThreads s0 w gd f)) (ha : Alone s0 i rest m g t) (hg : guardTrue t gd = true)
    (hf : f s0 g t = (s1, none)) (hi : s1.issues = i :: rest) : Runs ins s fun s' => Past s1 s' i rest m w := by
  refine ⟨_, hx, ?_⟩
  rw [runThreads_one ha hg hf]
  exact past_of hi ha.members w

theorem affOf_viewOf (s : State) (x : Group) (a : Nat) : affOf (viewOf s x) a = affOf x a := by
  unfold viewOf
  split <;> rfl

/-- No other issue group of a group keeps a view of it, when it takes part in none. -/
theorem keepViews_none (hi : s.issues = i :: rest) (hst : i.stale = []) (hr : ∀ j ∈ rest, takesPart j g.gk = false)
    (f : StaleView → StaleView) : keepViews s g f = s := by
  have hmap : rest.map (fun j : Issue =>
      if j.members.any (fun m => m.1 == g.gk) && !(j.stale.any fun v => v.gk == g.gk) then
        { j with stale := j.stale ++ [{ gk := g.gk, ctl := g.ctl, segs := g.segs }] } else j) = rest :=
    (List.map_congr_left fun j hj => by
      have h := hr j hj
      rw [takesPart] at h
      rw [h]
      rfl).trans (List.map_id _)
  unfold keepViews
  rw [hi]
  dsimp only
  rw [hmap, hst]
  have hi2 : { i with stale := updFirst (fun v : StaleView => v.gk == g.gk) f [] } = i := by
    rw [updFirst, ← hst]
  rw [hi2, ← hi]

/-! ## Segments -/

/-- A segment written, with the bits that say which of segments 5 to 7 were (R167). -/
def withSegment (n : Nat) (sg : Segment) (g : Group) : Group :=
  { g with segs := g.segs.set n sg, segset := if n ≥ 5 then g.segset ||| (1#3 <<< (n - 5)) else g.segset }

theorem segset_bits (x : BitVec 3) {n k : Nat} (hn : n < 8) (hk : k < 3) :
    (if n ≥ 5 then x ||| (1#3 <<< (n - 5)) else x).getLsbD k = (x.getLsbD k || decide (k + 5 = n)) := by
  by_cases h5 : n ≥ 5
  · rw [if_pos h5, BitVec.getLsbD_or, BitVec.getLsbD_shiftLeft, BitVec.getLsbD_one]
    congr 1
    rw [Bool.eq_iff_iff]
    simp only [Bool.and_eq_true, decide_eq_true_eq, Bool.not_eq_true', decide_eq_false_iff_not]
    omega
  · rw [if_neg h5]
    have hne : ¬ k + 5 = n := by omega
    simp [hne]

theorem segwGroup_alone (ha : Alone s i rest m g t) {o : TaskOp} (hg : guardTrue t o.g = true) (hsup : t.inSup = true)
    (hst : i.stale = []) (hr : ∀ j ∈ rest, takesPart j m.1 = false) (hu : segwUniform g o = true) :
    segwGroup o s s m.1 = modGroup s m.1
      (withSegment (o.tx.toNat % 8) { base := (affOf g o.ao.toNat).base, limit := (affOf g o.as.toNat).base }) := by
  obtain ⟨hgo, -⟩ := ha.group_fresh hst
  have hmay : segwMay s o m.1 = true := by
    simp [segwMay, ha.headThreads, ha.member, hg, hsup]
  have hgk : g.gk = m.1 := groupOf_gk hgo
  unfold segwGroup
  rw [hgo]
  dsimp only
  rw [hmay, hu, keepViews_none ha.issues hst (by rw [hgk]; exact hr)]
  rfl

theorem alone_modGroup (ha : Alone s i rest m g t) (hst : i.stale = []) {u : Group → Group} (hk : ∀ x, (u x).gk = x.gk)
    (hth : ∀ x, (u x).threads = x.threads) : Alone (modGroup s m.1 u) i rest m (u g) t := by
  obtain ⟨hgo, ht⟩ := ha.group_fresh hst
  refine ⟨ha.issues, ha.members, ?_⟩
  have hto : threadOf (u g) m.2 = some t := by rw [threadOf, hth]; exact ht
  simp only [Machine.memberOf]
  rw [groupOf_modGroup hk, hgo, Option.map_some]
  dsimp only
  rw [hto, Option.map_some, viewOf_fresh (s := modGroup s m.1 u) ha.issues hst]

theorem runs_segw (ha : Alone s i rest m g t) {o : TaskOp} (hg : guardTrue t o.g = true) (hsup : t.inSup = true)
    (hst : i.stale = []) (hr : ∀ j ∈ rest, takesPart j m.1 = false) (hao : (affOf g o.ao.toNat).stride = 0)
    (has : (affOf g o.as.toNat).stride = 0) :
    Runs (.segw o) s fun s' => Past (modGroup s m.1
      (withSegment (o.tx.toNat % 8) { base := (affOf g o.ao.toNat).base, limit := (affOf g o.as.toNat).base })) s' i rest m 2 := by
  have hu : segwUniform g o = true := by simp [segwUniform, hao, has]
  let u := withSegment (o.tx.toNat % 8) { base := (affOf g o.ao.toNat).base, limit := (affOf g o.as.toNat).base }
  have ha1 : Alone (modGroup s m.1 u) i rest m (u g) t := alone_modGroup ha hst (fun _ => rfl) fun _ => rfl
  have hx : exec (.segw o) s = .next (runThreads (modGroup s m.1 u) 2 o.g fun s g t =>
      if !t.inSup then (s, some { cls := fcIllegalInstr })
      else if !(segwUniform g o) then (s, some { cls := fcNonUniform })
      else (s, none)) := by
    show execSegw o s = _
    rw [execSegw, ha.headGroups, List.foldl_cons, List.foldl_nil, segwGroup_alone ha hg hsup hst hr hu]
  have hu1 : segwUniform (u g) o = true := hu
  refine runs_past hx ha1 hg ?_ ha.issues
  rw [hsup, hu1]
  rfl

/-! ## Pattern slots -/

/-- The one member is the acting thread of its group. -/
theorem actingMembers_alone (ha : Alone s i rest m g t) {gd : Guard} (hg : guardTrue t gd = true) : actingMembers s gd = [m] := by
  have hidx : t.idx = m.2 := memberOf_idx ha.member
  simp [actingMembers, ha.headGroups, actingThread, ha.headThreads, ha.member, hg, hidx]

theorem runs_xbld (ha : Alone s i rest m g t) {o : TaskOp} (hg : guardTrue t o.g = true) {bs : List Byte}
    (hao : (affOf g o.ao.toNat).stride = 0) (hread : xbldRead s g t (xbldVa g o) = (s1, .ok bs)) (hi : s1.issues = s.issues) :
    Runs (.xbld o) s fun s' => Past (modGroup s1 m.1 fun g =>
      let ps := if g.patterns.isEmpty then List.replicate 8 [] else g.patterns
      { g with patterns := ps.set (o.tx.toNat % 8) (bs.map fun b => b.setWidth 5) }) s' i rest m 2 := by
  obtain ⟨g0, hg0, ht0, rfl⟩ := ha.group
  have hgk : (viewOf s g0).gk = m.1 := memberOf_gk ha.member
  have hidx : t.idx = m.2 := memberOf_idx ha.member
  have hstr : strided s m.1 o.ao = false := by
    rw [affOf_viewOf] at hao
    simp [strided, hg0, hao]
  refine runs_past (s0 := s) (w := 2) (gd := o.g) rfl ha hg ?_ (hi.trans ha.issues)
  rw [hgk, hstr, actingMembers_alone ha hg, hidx]
  simp [xbldThread, hread, hgk]

/-! ## Counters -/

theorem counterValue_eq (s : State) (g : Group) (n : Nat) : perfCounter s g n = Claims.counterValue s g n := by
  have hdie : dieOfCore g.core = g.core / 48 := rfl
  rw [perfCounter, Claims.counterValue, ← hdie]
  unfold Machine.counterValue
  split
  case h_14 h0 h1 h2 h3 h4 h5 h6 h7 h128 h129 h130 h131 h132 =>
    have hlow : ¬ (n = 2 ∨ n = 3) ∧ ¬ (n = 4 ∨ n = 5) ∧ ¬ (n = 6 ∨ n = 7) :=
      ⟨fun h => h.elim h2 h3, fun h => h.elim h4 h5, fun h => h.elim h6 h7⟩
    have herr : ¬ (128 ≤ n ∧ n ≤ 131) := by
      have hne : n ≠ 128 ∧ n ≠ 129 ∧ n ≠ 130 ∧ n ≠ 131 := ⟨h128, h129, h130, h131⟩
      omega
    have hpc : (16 ≤ n && decide (n < 32)) = true ↔ 16 ≤ n ∧ n ≤ 31 := by
      rw [Bool.and_eq_true, decide_eq_true_eq, decide_eq_true_eq]
      omega
    rw [if_neg h0, if_neg h1, if_neg hlow.1, if_neg hlow.2.1, if_neg hlow.2.2, if_neg herr, if_neg h132]
    exact if_congr hpc rfl rfl
  all_goals rfl

theorem runs_perfr (ha : Alone s i rest m g t) {o : TaskOp} (hg : guardTrue t o.g = true)
    (hn : o.imm.toNat % 2 ^ 8 < 128 ∨ t.inSup = true) : Runs (.perfr o) s fun s' =>
      Past (modThread s m.1 m.2 fun t => setPair t o.d.toNat (BitVec.ofNat 64 (Claims.counterValue s g (o.imm.toNat % 2 ^ 8))))
        s' i rest m 2 := by
  have hgk : g.gk = m.1 := memberOf_gk ha.member
  have hidx : t.idx = m.2 := memberOf_idx ha.member
  refine runs_past (s0 := s) (w := 2) (gd := o.g) rfl ha hg ?_ ha.issues
  have hmay : ¬ (decide (o.imm.toNat % 2 ^ 8 ≥ 128) && !t.inSup) = true := by
    rw [Bool.and_eq_true, decide_eq_true_eq, Bool.not_eq_true', not_and]
    intro h128 h
    rcases hn with hn | hn
    · omega
    · exact absurd (hn.symm.trans h) (by decide)
  rw [perfThread, if_neg hmay, hgk, hidx, counterValue_eq]

end alone
end Sys2Proof.Machine

open Sys2Proof Sys2Proof.Machine Sys2Proof.Claims

/-- Settles O28: each effect is one change of the member's group or thread, past which the member goes. -/
theorem segmentPatternAndCounterResults : Obligations.SegmentPatternAndCounterResults := by
  intro o s i rest m g t ha hg
  refine ⟨fun hsup hst hr hao has => ?_, fun s1 bs hao hread hi => ?_, fun hn => ?_⟩
  · obtain ⟨hgo, -⟩ := ha.group_fresh hst
    obtain ⟨s', hx, hp⟩ := runs_segw ha hg hsup hst hr hao has
    refine ⟨s', hx, _, fun k hk => segset_bits g.segset (Nat.mod_lt _ (by decide)) hk, ?_⟩
    rw [modGroup_congr fun x hx => ?_] at hp
    · exact hp
    · rw [Option.some.inj (hx.symm.trans hgo)]
      rfl
  · obtain ⟨s', hx, hp⟩ := runs_xbld ha hg hao hread hi
    refine ⟨s', hx, ?_⟩
    rw [modGroup_congr fun x _ => ?_] at hp
    · exact hp
    · cases hpat : x.patterns <;> rfl
  · exact runs_perfr ha hg hn
end

section
/-! SUPPORT. Faults of one thread at its instruction (R65): by the form of the instruction, and by where the checks of an address stop
(Table 11.2 rows 1 and 2). -/
namespace Sys2Proof.Machine
open Sys2Proof.Claims

section alone
variable {s : State} {i : Issue} {rest : List Issue} {m : Nat × Nat} {g : Group} {t : Thread} {e : FaultInfo}

theorem finishInstr_fault (hi : s.issues = i :: rest) (hm : i.members = [m]) (w : Nat) (e : FaultInfo) :
    finishInstr s w [{ gk := m.1, tid := m.2, f := e }] =
      takeFaults { s with issues := rest } (siteNow i) [{ gk := m.1, tid := m.2, f := e }] := by
  have hadv : advance s w [m] = { s with issues := rest } := by
    simp [advance, hi, hm]
  rw [finishInstr, headSite_cons hi]
  simp only [List.map_cons, List.map_nil, hadv, List.isEmpty_cons, Bool.false_eq_true, if_false]
  rfl

/-- A lane function faults for the one member. -/
theorem runLanes_fault (ha : Alone s i rest m g t) {f : Group → Thread → LaneOut} (hf : f g t = .error e) (w : Nat) :
    runLanes s w f = takeFaults { s with issues := rest } (siteNow i) [{ gk := m.1, tid := m.2, f := e }] := by
  rw [← finishInstr_fault ha.issues ha.members w e]
  simp [runLanes, headMembers_cons ha.issues, ha.members, applyLane, laneFault, ha.member, hf]

/-- A per-thread effect faults for the one member and leaves the state. -/
theorem runThreads_faults (ha : Alone s i rest m g t) {gd : Guard} (hg : guardTrue t gd = true)
    {f : State → Group → Thread → State × Option FaultInfo} (hf : f s g t = (s, some e)) (w : Nat) :
    runThreads s w gd f = takeFaults { s with issues := rest } (siteNow i) [{ gk := m.1, tid := m.2, f := e }] := by
  rw [runThreads_fault ha hg hf, finishInstr_fault ha.issues ha.members]

/-- The same for an instruction of an engine queue with room. -/
theorem runQueued_faults (ha : Alone s i rest m g t) (hu : Unbegun i) (hroom : engineCount s g.core < 64) {gd : Guard}
    (hg : guardTrue t gd = true) {f : State → Group → Thread → State × Option FaultInfo} (hf : f s g t = (s, some e)) :
    runQueued s gd f = takeFaults { s with issues := rest } (siteNow i) [{ gk := m.1, tid := m.2, f := e }] := by
  obtain ⟨hiss, hflt⟩ := hu
  have hheld : decide (engineCount s g.core ≥ 64) = false := decide_eq_false (by omega)
  rw [← finishInstr_fault ha.issues ha.members 2 e]
  simp [runQueued, runPartly, ha.issues, ha.members, hiss, hflt, partStep, ha.member, hg, hheld, hf]

theorem counterFull_false (ha : Alone s i rest m g t) {wait : BitVec 3} (hw : hasRoom wait t) (gd : Guard) :
    counterFull s gd wait = false := by
  unfold counterFull
  rw [headMembers_cons ha.issues, ha.members]
  by_cases h6 : wait.toNat < 6
  · have hroom : decide (t.w.getD wait.toNat 0 ≥ 63) = false := decide_eq_false (Nat.not_le.mpr (hw h6))
    rw [List.any_cons, List.any_nil, ha.member]
    dsimp only
    rw [hroom, Bool.and_false, Bool.or_false, Bool.and_false]
  · simp [h6]

/-! ## Forms that a thread may not execute -/

theorem ctlFault_user {n : Nat} {write : Bool} (hsup : t.inSup = false)
    (hn : n ∈ [0x006, 0x007, 0x00D, 0x00E, 0x00F] ∨ 0x200 ≤ n ∨ write = true ∧ 0x100 ≤ n) :
    ctlFault s g t n write = some { cls := 9 } := by
  have hb : (supOnly n || decide (n ≥ 0x200) || (write && decide (n ≥ 0x100))) = true := by
    rw [Bool.or_eq_true, Bool.or_eq_true, Bool.and_eq_true, decide_eq_true_eq, decide_eq_true_eq, supOnly_iff, or_assoc]
    exact hn
  unfold ctlFault
  rw [hsup, Bool.not_false, if_pos rfl, if_pos hb]
  rfl

theorem ctlr_faults (ha : Alone s i rest m g t) {o : TaskOp} (hg : guardTrue t o.g = true)
    (hf : ctlFault s g t (ctlNumber o) false = some e) : OneFaults (.ctlr o) s i rest m e := by
  have hl : ctlReadThread s o g t = .error e := by
    unfold ctlReadThread
    dsimp only
    rw [hg, hf]
    rfl
  exact congrArg Host.Outcome.next (runLanes_fault ha hl 2)

theorem ctlw_faults (ha : Alone s i rest m g t) {o : TaskOp} (hg : guardTrue t o.g = true)
    (hf : ctlFault s g t (ctlNumber o) true = some e) : OneFaults (.ctlw o) s i rest m e := by
  have hvals : ctlValues s o m.1 = [] := by
    simp [ctlValues, ha.headThreads, ha.member, hf]
  have hwr : ctlWriteGroup o s s m.1 = s := by
    rw [ctlWriteGroup, hvals]
  have hth : ctlWriteThread o s g t = (s, some e) := by
    rw [ctlWriteThread, hf]
  show execCtlw o s = _
  rw [execCtlw, ha.headGroups, List.foldl_cons, List.foldl_nil, hwr, ite_self]
  exact congrArg Host.Outcome.next (runThreads_faults ha hg hth 2)

theorem perfr_faults (ha : Alone s i rest m g t) {o : TaskOp} (hg : guardTrue t o.g = true) (hsup : t.inSup = false)
    (hn : 128 ≤ o.imm.toNat % 2 ^ 8) : OneFaults (.perfr o) s i rest m { cls := 9 } := by
  have hth : perfThread o s g t = (s, some { cls := 9 }) := by
    have hb : (decide (o.imm.toNat % 2 ^ 8 ≥ 128) && !t.inSup) = true := by
      rw [hsup, decide_eq_true hn]
      rfl
    rw [perfThread, if_pos hb]
    rfl
  exact congrArg Host.Outcome.next (runThreads_faults ha hg hth 2)

theorem segw_faults (ha : Alone s i rest m g t) {o : TaskOp} (hg : guardTrue t o.g = true) (hsup : t.inSup = false) :
    OneFaults (.segw o) s i rest m { cls := 1 } := by
  have hmay : segwMay s o m.1 = false := by
    simp [segwMay, ha.headThreads, ha.member, hsup]
  have hgr : segwGroup o s s m.1 = s := by
    unfold segwGroup
    rw [hmay]
    cases groupOf s m.1 <;> rfl
  show execSegw o s = _
  rw [execSegw, ha.headGroups, List.foldl_cons, List.foldl_nil, hgr]
  refine congrArg Host.Outcome.next (runThreads_faults ha hg ?_ 2)
  rw [hsup]
  rfl

/-- A fault removes its thread from the issue groups whether or not it has left the group in progress. -/
theorem takeFaults_leaves (hi : s.issues = i :: rest) (hm : i.members = [m]) (site : FaultSite) (e : FaultInfo) :
    takeFaults s site [{ gk := m.1, tid := m.2, f := e }] =
      takeFaults { s with issues := rest } site [{ gk := m.1, tid := m.2, f := e }] := by
  have hdrop : ∀ p : Nat × Nat → Bool, p m = true → dropMembers s p = dropMembers { s with issues := rest } p := by
    intro p hp
    simp [dropMembers, hi, hm, hp]
  unfold takeFaults
  rw [hdrop _ (by simp)]

theorem sret_faults (ha : Alone s i rest m g t) {o : TaskOp} (hg : guardTrue t o.g = true) (hh : inHandler t = false) :
    OneFaults (.sret o) s i rest m { cls := 1 } := by
  have hret : sretThread s g t = (s, some { cls := 1 }) := by
    rw [sretThread, hh]
    rfl
  have hx : execSret o s = .next (takeFaults s (siteOf i) [{ gk := m.1, tid := m.2, f := { cls := 1 } }]) := by
    simp [execSret, headMembers_cons ha.issues, ha.members, ha.member, hg, hret, headSite_cons ha.issues]
  exact hx.trans (congrArg Host.Outcome.next (takeFaults_leaves ha.issues ha.members _ _))

/-! ## Accesses -/

theorem memTarget_fault {o : MemOp} {off size : Nat} (hoff : memOffset g t o = .ok off)
    (hf : formAddress g t.idx o.seg.toNat size off = .error e) (acc : Acc) (want : Nat) :
    memTarget s g t o size acc want = (s, .error e) := by
  rw [memTarget, hoff]
  dsimp only
  rw [resolve, hf]

theorem access_faults (ha : Alone s i rest m g t) {o : MemOp} (hg : guardTrue t o.g = true) (hw : hasRoom o.wait t) {off : Nat}
    (hoff : memOffset g t o = .ok off) (hf : formAddress g t.idx o.seg.toNat (2 ^ o.size.toNat) off = .error e) :
    ∀ x ∈ [Instr.ld, Instr.st, Instr.atom, Instr.red], OneFaults (x o) s i rest m e := by
  have hfull := counterFull_false ha hw o.g
  have hrun : ∀ f, f s g t = (s, some e) → (if counterFull s o.g o.wait = true then s else runThreads s 2 o.g f) =
      takeFaults { s with issues := rest } (siteNow i) [{ gk := m.1, tid := m.2, f := e }] := by
    intro f hf
    rw [hfull, if_neg (by decide)]
    exact runThreads_faults ha hg hf 2
  have hatom : ∀ ret, issueAtomic ret o s g t = (s, some e) := fun ret => by
    rw [issueAtomic, accessBytes, memTarget_fault hoff hf]
  simp only [List.forall_mem_cons, List.not_mem_nil, false_imp_iff, implies_true, and_true]
  refine ⟨congrArg Host.Outcome.next (hrun _ ?_), congrArg Host.Outcome.next (hrun _ ?_), congrArg Host.Outcome.next (hrun _ (hatom _)),
    congrArg Host.Outcome.next (hrun _ (hatom _))⟩
  · rw [issueLoad, accessBytes, memTarget_fault hoff hf]
  · rw [issueStore, accessBytes, memTarget_fault hoff hf]

theorem syncWord_faults (ha : Alone s i rest m g t) {o : MemOp} (hg : guardTrue t o.g = true) (hw : hasRoom o.wait t) {off : Nat}
    (hu : Unbegun i) (hroom : engineCount s g.core < 64) (hoff : memOffset g t o = .ok off)
    (hf : formAddress g t.idx o.seg.toNat 16 off = .error e) :
    ∀ x ∈ [Instr.swinit, Instr.swadd, Instr.swwait], OneFaults (x o) s i rest m e := by
  have hfull := counterFull_false ha hw o.g
  have htgt : ∀ acc, syncTarget s g t o acc = .error e := fun acc => by
    rw [syncTarget, memTarget_fault hoff hf]
  simp only [List.forall_mem_cons, List.not_mem_nil, false_imp_iff, implies_true, and_true]
  refine ⟨?_, ?_, ?_⟩
  · show execSwinit o s = _
    rw [execSwinit, hfull, if_neg (by decide)]
    refine congrArg Host.Outcome.next (runThreads_faults ha hg ?_ 2)
    rw [issueSyncInit, htgt]
  · show execSwadd o s = _
    rw [execSwadd, hfull, if_neg (by decide)]
    refine congrArg Host.Outcome.next (runQueued_faults ha hu hroom hg ?_)
    rw [issueSyncAdd, htgt]
  · show execSwwait o s = _
    rw [execSwwait, hfull, if_neg (by decide)]
    refine congrArg Host.Outcome.next (runQueued_faults ha hu hroom hg ?_)
    rw [issueSyncWait, htgt]

end alone

/-! ## The checks of an address (Table 11.2 rows 1 and 2) -/

section address
variable {g : Group} {seg size off : Nat} (k : Nat)

theorem formAddress_misaligned (h3 : seg ≠ 3) (hm : ((segOf g seg).base.toNat + off) % 2 ^ 64 % size ≠ 0) :
    formAddress g k seg size off = .error { cls := 5, va := BitVec.ofNat 64 (((segOf g seg).base.toNat + off) % 2 ^ 64) } := by
  unfold formAddress
  rw [if_neg h3]
  exact if_pos (bne_iff_ne.mpr hm)

theorem formAddress_beyond (h3 : seg ≠ 3) (hm : ((segOf g seg).base.toNat + off) % 2 ^ 64 % size = 0)
    (hl : off + size > (segOf g seg).limit.toNat) :
    formAddress g k seg size off = .error { cls := 7, va := BitVec.ofNat 64 (((segOf g seg).base.toNat + off) % 2 ^ 64) } := by
  unfold formAddress
  rw [if_neg h3]
  refine (if_neg ?_).trans (if_pos (decide_eq_true hl))
  rw [bne_iff_ne, ne_eq, not_not]
  exact hm

theorem formAddress_frame_misaligned (hm : off % min size 4 ≠ 0) :
    formAddress g k 3 size off = .error { cls := 5, va := BitVec.ofNat 64 (frameByte (segOf g 3).base.toNat off k) } := by
  unfold formAddress
  rw [if_pos rfl]
  exact if_pos (bne_iff_ne.mpr hm)

theorem formAddress_frame_beyond (hm : off % min size 4 = 0) (hl : off + size > (segOf g 3).limit.toNat) :
    formAddress g k 3 size off = .error { cls := 7, va := BitVec.ofNat 64 (frameByte (segOf g 3).base.toNat off k) } := by
  unfold formAddress
  rw [if_pos rfl]
  refine (if_neg ?_).trans (if_pos (decide_eq_true hl))
  rw [bne_iff_ne, ne_eq, not_not]
  exact hm

end address

end Sys2Proof.Machine

open Sys2Proof Sys2Proof.Machine Sys2Proof.Claims

/-- Settles O29: the refused form or the failed check answers before anything is done, and the one member takes the fault. -/
theorem refusedFormsTakeTheirFault : Obligations.RefusedFormsTakeTheirFault := by
  intro s i rest m g t ha _
  refine ⟨fun o hg hsup => ?_, fun o off hg hw hoff => ⟨fun x hx => ?_, fun h3 hu hroom x hx => ?_⟩⟩
  · refine ⟨fun hn => ctlr_faults ha hg (ctlFault_user hsup (hn.imp_right Or.inl)),
      fun hn => ctlw_faults ha hg (ctlFault_user hsup (hn.imp_right fun h => Or.inr ⟨rfl, h⟩)),
      perfr_faults ha hg hsup, segw_faults ha hg hsup, fun hk => sret_faults ha hg ?_⟩
    rw [inHandler, hsup, hk]
    rfl
  · refine ⟨fun h3 hm => ?_, fun h3 hm hl => ?_, fun h3 hm => ?_, fun h3 hm hl => ?_⟩
    · exact access_faults ha hg hw hoff (formAddress_misaligned _ (fun h => h3 (BitVec.eq_of_toNat_eq h)) hm) x hx
    · exact access_faults ha hg hw hoff (formAddress_beyond _ (fun h => h3 (BitVec.eq_of_toNat_eq h)) hm hl) x hx
    · refine access_faults ha hg hw hoff ?_ x hx
      rw [h3]
      exact formAddress_frame_misaligned _ hm
    · refine access_faults ha hg hw hoff ?_ x hx
      rw [h3] at hl ⊢
      exact formAddress_frame_beyond _ hm hl
  · refine ⟨fun hm => ?_, fun hm hl => ?_⟩
    · exact syncWord_faults ha hg hw hu hroom hoff (formAddress_misaligned _ (fun h => h3 (BitVec.eq_of_toNat_eq h)) hm) x hx
    · exact syncWord_faults ha hg hw hu hroom hoff (formAddress_beyond _ (fun h => h3 (BitVec.eq_of_toNat_eq h)) hm hl) x hx
end

section
/-! SUPPORT. The issue of counted operations (R70, R258 to R268). -/
namespace Sys2Proof.Machine
open Sys2Proof.Claims

section alone
variable {s s1 : State} {i : Issue} {rest : List Issue} {m : Nat × Nat} {g : Group} {t : Thread} {wait : BitVec 3} {kind : OpKind}

/-- The state with one more outstanding operation, charged to its thread. -/
theorem issueOp_eq (s : State) (m : Nat × Nat) (g : Group) (t : Thread) (wait : BitVec 3) (kind : OpKind) (hgk : g.gk = m.1) :
    issueOp s g m.2 wait t.inSup kind =
      modThread { s with names := s.names + 1, ops := s.ops ++ [opFor s m g t wait kind] } m.1 m.2 (charged wait) := by
  rw [← hgk, opFor, ← hgk]
  rfl

theorem charged_idx (wait : BitVec 3) {k : Nat} (t : Thread) (h : t.idx = k) : (charged wait t).idx = k := by
  unfold charged
  split <;> exact h

theorem threadAt_issueOp (hgk : g.gk = m.1) (sup : Bool) :
    threadAt (issueOp s g m.2 wait sup kind) m = (threadAt s m).map (charged wait) := by
  rw [← threadAt_modThread (f := charged wait) (charged_idx wait (k := m.2)), ← hgk]
  rfl

theorem threadAt_issueOp_other (hgk : g.gk = m.1) (sup : Bool) {n : Nat × Nat} (hn : n ≠ m) :
    threadAt (issueOp s g m.2 wait sup kind) n = threadAt s n := by
  rw [← threadAt_modThread_other (s := s) (f := charged wait) (charged_idx wait (k := m.2)) hn, ← hgk]
  rfl

theorem groupOf_issueOp (s : State) (g : Group) (k : Nat) (wait : BitVec 3) (sup : Bool) (kind : OpKind) (gk : Nat) :
    groupOf (issueOp s g k wait sup kind) gk =
      (groupOf s gk).map fun x => if gk = g.gk then updThread x k (charged wait) else x := by
  by_cases h : gk = g.gk
  · subst h
    simp only [if_true]
    exact groupOf_modThread s g.gk k (charged wait)
  · simp only [if_neg h]
    rw [Option.map_id']
    exact groupOf_modThread_other (s := s) (f := charged wait) h

/-- The one member has issued an operation and goes on. -/
theorem issued_of (hi : s1.issues = i :: rest) (hm : i.members = [m]) (hgk : g.gk = m.1) :
    Issued s1 (finishInstr (modThread (issueOp s1 g m.2 wait t.inSup kind) m.1 m.2 fun t => shiftLatch t 0) 2 []) i rest m g t wait
      kind := by
  have hp := past_of (s1 := issueOp s1 g m.2 wait t.inSup kind) (i := i) (rest := rest) hi hm 2
  have hops : (issueOp s1 g m.2 wait t.inSup kind).ops = s1.ops ++ [opFor s1 m g t wait kind] := by
    rw [issueOp_eq s1 m g t wait kind hgk]
    rfl
  have hfr := hp.frame
  refine ⟨?_, fun t1 ht1 => ?_, fun n hn => ?_, fun gk x hx => ?_, hp.issues, ?_⟩
  · rw [hfr]
    exact hops
  · exact hp.member _ (by rw [threadAt_issueOp hgk, ht1, Option.map_some])
  · rw [hp.other n hn, threadAt_issueOp_other hgk _ hn]
  · obtain ⟨ts, hts⟩ := hp.group gk _ (by rw [groupOf_issueOp, hx, Option.map_some])
    refine ⟨ts, hts.trans ?_⟩
    split <;> rfl
  · rw [hfr]
    rfl

/-- An instruction whose effect on the one member ends with the issue of an operation. -/
theorem runs_issued {ins : Instr} {gd : Guard} {f : State → Group → Thread → State × Option FaultInfo}
    (hx : exec ins s = .next (runThreads s 2 gd f)) (ha : Alone s i rest m g t) (hg : guardTrue t gd = true)
    (hf : f s g t = (issueOp s1 g m.2 wait t.inSup kind, none)) (hi : s1.issues = s.issues) :
    Runs ins s fun s' => Issued s1 s' i rest m g t wait kind := by
  refine ⟨_, hx, ?_⟩
  rw [runThreads_one ha hg hf]
  exact issued_of (hi.trans ha.issues) ha.members (memberOf_gk ha.member)

theorem cachesOnly_memTarget (s : State) (g : Group) (t : Thread) (o : MemOp) (size : Nat) (acc : Acc) (want : Nat) :
    CachesOnly s (memTarget s g t o size acc want).1 := cachesOnly_of_kept (memTarget_kept ..)

/-! ## Loads -/

theorem runs_ld (ha : Alone s i rest m g t) {o : MemOp} (hg : guardTrue t o.g = true) (hw : hasRoom o.wait t) {r : State} {tg : Target}
    (hr : memTarget s g t o (2 ^ o.size.toNat) .r 0 = (r, .ok tg)) (hi : (deviceOrder r g t tg.place).issues = s.issues) :
    Runs (.ld o) s fun s' => Issued (deviceOrder r g t tg.place) s' i rest m g t o.wait
      (.load tg.place o.d.toNat (2 ^ o.size.toNat) tg.treat o.hint.toNat (stagedNow (deviceOrder r g t tg.place) g)) := by
  have hx : exec (.ld o) s = .next (runThreads s 2 o.g (issueLoad o)) := by
    show execLd o s = _
    rw [execLd, counterFull_false ha hw, if_neg (by decide)]
  refine runs_issued hx ha hg ?_ hi
  rw [issueLoad, accessBytes, hr, memberOf_idx ha.member]

/-! ## Staging -/

theorem stageFull_room {n : Nat} {tg : Target} (h : stagingRoom s g tg n) :
    (if tg.treat = .shared then stageFull s g (placeVa tg.place) n else none) = none := by
  split
  case isFalse => rfl
  case isTrue hsh =>
    unfold stageFull
    split
    · next gr now hgr hnow => exact if_neg (Nat.not_lt.mpr (h hsh gr now hgr hnow))
    · rfl

/-! ## Stores -/

section store
variable {o : MemOp} {r s3 : State} {tg : Target} {ws : List Word} 

/-- What a store leaves once its entries are staged. -/
theorem issueStore_eq (hidx : t.idx = m.2) (hr : memTarget s g t o (2 ^ o.size.toNat) .w 1 = (r, .ok tg))
    (hws : sourceRegs t o.d.toNat ((2 ^ o.size.toNat + 3) / 4) = .ok ws)
    (hroom : stagingRoom r g tg (max 1 (2 ^ o.size.toNat / 8)))
    (hst : (stagedFor r g tg (storeEntries (placeVa tg.place) (leBytes (wordsNat ws) (2 ^ o.size.toNat)))).2 = none)
    (h3 : s3 = deviceOrder (stagedFor r g tg (storeEntries (placeVa tg.place) (leBytes (wordsNat ws) (2 ^ o.size.toNat)))).1 g t tg.place) :
    issueStore o s g t =
      let x := issueOp s3 g m.2 o.wait t.inSup (.store tg.place (leBytes (wordsNat ws) (2 ^ o.size.toNat)) tg.treat o.hint.toNat)
      (if devicePlace tg.place && (windowOf s3 g.record.part g.record.world (placeVa tg.place)).isSome then performLast x else x, none) := by
  subst h3
  unfold stagedFor at hst
  unfold issueStore accessBytes stagedFor
  dsimp only
  rw [hr]
  dsimp only
  rw [stageFull_room hroom, hws]
  dsimp only
  generalize hx : (if tg.treat = .shared then stage r g (placeVa tg.place)
    (storeEntries (placeVa tg.place) (leBytes (wordsNat ws) (2 ^ o.size.toNat))) else (r, none)) = x at hst ⊢
  obtain ⟨x1, x2⟩ := x
  dsimp only at hst
  subst hst
  dsimp only
  rw [hidx]
  split <;> rename_i hwin
  · exact (if_pos hwin).symm ▸ rfl
  · exact (if_neg hwin).symm ▸ rfl

end store

/-! ## Atomics -/

theorem normalPlace_eq (p : Place) :
    (match p with | .mem _ ps => ps.all (fun p => p.attr.mtype == 0) | .scratch _ => true) = normalPlace p := by
  cases p <;> rfl

theorem emulDetail_eq (o : MemOp) (ret : Bool) (va : Nat) :
    ({ cls := fcMemType, va := BitVec.ofNat 64 va, detail := emulDetail o ret } : FaultInfo) = typeFault o ret va := by
  cases ret <;> rfl

section atomic
variable {o : MemOp} {r : State} {tg : Target} {ret : Bool}

theorem issueAtomic_type (hr : memTarget s g t o (2 ^ o.size.toNat) .rw (if ret then 2 else 1) = (r, .ok tg))
    (hn : normalPlace tg.place = false) :
    issueAtomic ret o s g t = (settleLine r g t tg.place, some (typeFault o ret (placeVa tg.place))) := by
  unfold issueAtomic accessBytes
  dsimp only
  rw [hr]
  dsimp only
  rw [← emulDetail_eq]
  refine if_pos ?_
  rw [Bool.not_eq_true']
  exact (normalPlace_eq tg.place).trans hn

theorem issueAtomic_eq {y cmp : DWord} (hidx : t.idx = m.2)
    (hr : memTarget s g t o (2 ^ o.size.toNat) .rw (if ret then 2 else 1) = (r, .ok tg))
    (hn : normalPlace tg.place = true) (hy : atomOperands o t = .ok (y, cmp)) (hroom : stagingRoom r g tg 1)
    (hst : (stagedFor r g tg [redEntry (placeVa tg.place) o.am.toNat (2 ^ o.size.toNat) y.toNat]).2 = none) :
    issueAtomic ret o s g t =
      (issueOp (stagedFor r g tg [redEntry (placeVa tg.place) o.am.toNat (2 ^ o.size.toNat) y.toNat]).1 g m.2 o.wait t.inSup
        (.atomic tg.place o.am.toNat (2 ^ o.size.toNat) y cmp ret o.d.toNat tg.treat), none) := by
  have hc : ¬ (!(match tg.place with | .mem _ ps => ps.all (fun p => p.attr.mtype == 0) | .scratch _ => true)) = true := by
    rw [Bool.not_eq_true', normalPlace_eq, hn]
    decide
  unfold stagedFor at hst
  unfold issueAtomic accessBytes stagedFor
  dsimp only
  rw [hr]
  refine (if_neg hc).trans ?_
  rw [stageFull_room hroom, hy]
  dsimp only
  generalize hx : (if tg.treat = .shared then stage r g (placeVa tg.place)
    [redEntry (placeVa tg.place) o.am.toNat (2 ^ o.size.toNat) y.toNat] else (r, none)) = x at hst ⊢
  obtain ⟨x1, x2⟩ := x
  dsimp only at hst
  subst hst
  rw [hidx]

end atomic

/-! ## Prefetches -/

/-- What a prefetch leaves: the pieces of its place, where it has one in memory, are fetched. -/
def prefetched (o : MemOp) (s : State) (g : Group) (t : Thread) : State :=
  match (memTarget s g t o (2 ^ o.size.toNat) .r 0).2 with
  | .ok { place := .mem _ ps, .. } =>
    ps.foldl (prefetchPiece (ctxOf g t) o.hint.toNat g.grid) (memTarget s g t o (2 ^ o.size.toNat) .r 0).1
  | _ => (memTarget s g t o (2 ^ o.size.toNat) .r 0).1

theorem prefetch_eq (o : MemOp) (s : State) (g : Group) (t : Thread) : prefetch o s g t = (prefetched o s g t, none) := by
  unfold prefetch prefetched accessBytes
  obtain ⟨r, x⟩ := memTarget s g t o (2 ^ o.size.toNat) .r 0
  cases x with
  | error f => rfl
  | ok tg =>
    obtain ⟨p, tr⟩ := tg
    cases p <;> rfl

end alone

end Sys2Proof.Machine

open Sys2Proof Sys2Proof.Machine Sys2Proof.Claims

/-- Settles O30: the target is formed by caches alone, and each effect of the one member ends with the issue of its operation. -/
theorem memoryAccessesIssue : Obligations.MemoryAccessesIssue := by
  refine ⟨fun o s i rest m g t ha hg hw => ⟨cachesOnly_memTarget s g t o _, ?_, ?_, ?_⟩, fun o s i rest m g t ha => ⟨?_, ?_⟩⟩
  · intro r tg hr s2 hi
    exact runs_ld ha hg hw (Prod.ext rfl hr) hi
  · intro r tg ws hr hws hroom data st s3 kind window hst
    have hx : exec (.st o) s = .next (runThreads s 2 o.g (issueStore o)) := by
      show execSt o s = _
      rw [execSt, counterFull_false ha hw, if_neg (by decide)]
    have hf := issueStore_eq (memberOf_idx ha.member) (r := r.1) (Prod.ext rfl hr) hws hroom hst (s3 := s3) rfl
    refine ⟨fun hwin hi => runs_issued hx ha hg (hf.trans ?_) hi, ?_⟩
    · exact congrArg (·, none) (if_neg (Bool.eq_false_iff.mp hwin))
    · intro hwin s4 hi
      exact runs_past hx ha hg (hf.trans (congrArg (·, none) (if_pos hwin))) (hi.trans ha.issues)
  · intro e he r tg hr
    have hx : exec (e.1 o) s = .next (runThreads s 2 o.g (issueAtomic e.2 o)) := by
      have hfull := counterFull_false ha hw o.g
      rcases List.mem_cons.mp he with rfl | he
      · show execAtom o s = _
        rw [execAtom, hfull, if_neg (by decide)]
      · rw [List.mem_singleton.mp he]
        show execRed o s = _
        rw [execRed, hfull, if_neg (by decide)]
    refine ⟨?_, ?_⟩
    · intro y cmp hn hy hroom st hst hi
      exact runs_issued hx ha hg (issueAtomic_eq (memberOf_idx ha.member) (Prod.ext rfl hr) hn hy hroom hst) hi
    · intro hn s1 hi
      rw [hx, runThreads_fault ha hg (issueAtomic_type (Prod.ext rfl hr) hn), finishInstr_fault (hi.trans ha.issues) ha.members]
  · intro hg
    refine ⟨_, rfl, ?_⟩
    rw [runThreads_off ha hg]
    exact past_of ha.issues ha.members 2
  · intro hg r s1
    have hf := prefetch_eq o s g t
    have hk : kept (prefetched o s g t) = kept s := (congrArg (fun x => kept x.1) hf).symm.trans (prefetch_kept o s g t)
    exact ⟨cachesOnly_of_kept hk, runs_past (s0 := s) rfl ha hg hf ((issues_of_kept hk).trans ha.issues)⟩
end

section
/-! SUPPORT. Numbers by their fields, bytes of a scratchpad, and accesses that are performed and complete (R70, R212, R262). -/
namespace Sys2Proof.Machine
open Sys2Proof.Claims

/-! ## Fields of a number -/

theorem setField_eq (v lo n x : Nat) :
    setField v lo n x = 2 ^ lo * (2 ^ n * (v / 2 ^ (lo + n)) + x % 2 ^ n) + v % 2 ^ lo := by
  have hv := Nat.div_add_mod v (2 ^ lo)
  have hq := Nat.div_add_mod (v / 2 ^ lo) (2 ^ n)
  rw [Nat.div_div_eq_div_mul, ← Nat.pow_add] at hq
  rw [setField, field]
  generalize v / 2 ^ (lo + n) = b at hq ⊢
  generalize v / 2 ^ lo % 2 ^ n = a at hq ⊢
  generalize v / 2 ^ lo = q at hv hq
  generalize v % 2 ^ lo = r at hv ⊢
  generalize x % 2 ^ n = y
  subst hq
  rw [← hv, Nat.mul_add, Nat.mul_add, Nat.mul_comm a]
  generalize 2 ^ lo * (2 ^ n * b) = c
  rw [Nat.mul_comm y]
  omega

theorem testBit_setField (v lo n x j : Nat) :
    (setField v lo n x).testBit j = if lo ≤ j ∧ j < lo + n then x.testBit (j - lo) else v.testBit j := by
  rw [setField_eq, Nat.testBit_two_pow_mul_add _ (Nat.mod_lt _ (Nat.two_pow_pos lo))]
  by_cases h1 : j < lo
  · rw [if_pos h1, if_neg (by omega), Nat.testBit_mod_two_pow]
    simp [h1]
  · rw [if_neg h1, Nat.testBit_two_pow_mul_add _ (Nat.mod_lt _ (Nat.two_pow_pos n))]
    by_cases h2 : j - lo < n
    · rw [if_pos h2, if_pos (by omega), Nat.testBit_mod_two_pow]
      simp [h2]
    · rw [if_neg h2, if_neg (by omega), Nat.testBit_div_two_pow]
      congr 1
      omega

theorem testBit_field (v lo n j : Nat) : (field v lo n).testBit j = (decide (j < n) && v.testBit (j + lo)) := by
  rw [field, Nat.testBit_mod_two_pow, Nat.testBit_div_two_pow]

theorem field_setField (v lo n x : Nat) : field (setField v lo n x) lo n = x % 2 ^ n := by
  refine Nat.eq_of_testBit_eq fun j => ?_
  rw [testBit_field, testBit_setField, Nat.testBit_mod_two_pow]
  by_cases h : j < n
  · rw [if_pos (by omega), Nat.add_sub_cancel]
  · simp [h]

theorem field_setField_other {v lo n x lo' n' : Nat} (h : lo' + n' ≤ lo ∨ lo + n ≤ lo') :
    field (setField v lo n x) lo' n' = field v lo' n' := by
  refine Nat.eq_of_testBit_eq fun j => ?_
  rw [testBit_field, testBit_field, testBit_setField]
  by_cases hj : j < n'
  · rw [if_neg (by omega)]
  · simp [hj]

theorem bitOf_eq (v lo : Nat) : bitOf v lo = v.testBit lo := by
  rw [bitOf, Nat.testBit_eq_decide_div_mod_eq]
  rfl

theorem setField_lt {v lo n x k : Nat} (hv : v < 2 ^ k) (h : lo + n ≤ k) : setField v lo n x < 2 ^ k := by
  refine Nat.lt_pow_two_of_testBit _ fun j hj => ?_
  rw [testBit_setField, if_neg (by omega)]
  exact Nat.testBit_lt_two_pow (hv.trans_le (Nat.pow_le_pow_right (by decide) hj))

theorem leNat_lt (bs : List Byte) : leNat bs < 2 ^ (8 * bs.length) := by
  induction bs with
  | nil => exact Nat.one_pos
  | cons b r ih =>
    rw [leNat, List.length_cons, Nat.mul_add, Nat.pow_add, Nat.mul_comm]
    have := b.isLt
    omega

/-! ## Bytes of a scratchpad -/

theorem memGet_memWrite {m : Mem} (h : memWf m = true) (off : Nat) (bs : List Byte) (a : Nat) :
    memGet (memWrite m off bs) a = if off ≤ a ∧ a < off + bs.length then bs.getD (a - off) 0 else memGet m a := by
  by_cases ha : off ≤ a ∧ a < off + bs.length
  · rw [if_pos ha]
    have hread : memRead (memWrite m off bs) off bs.length = bs := memRead_memWrite h off bs
    have hget : ∀ (n b k : Nat), k < n → (memRead (memWrite m off bs) b n).getD k 0 = memGet (memWrite m off bs) (b + k) := by
      intro n
      induction n with
      | zero => exact fun b k hk => absurd hk (Nat.not_lt_zero k)
      | succ n ih =>
        intro b k hk
        cases k with
        | zero => rfl
        | succ k =>
          rw [memRead, List.getD_cons_succ, ih (b + 1) k (by omega)]
          congr 1
          omega
    have := hget bs.length off (a - off) (by omega)
    rw [hread] at this
    rw [this]
    congr 1
    omega
  · rw [if_neg ha]
    exact memGet_memWrite_other h (by omega)

theorem scratchWf {s : State} (h : memoriesWf s = true) (core : Nat) : memWf (coreOf s core).scratch = true :=
  (Laws.canon_coreOf ((Laws.memoriesWf_iff s).mp h) core).1

theorem scratchWritten_of {s : State} (h : memoriesWf s = true) (core off : Nat) (bs : List Byte) :
    ScratchWritten s (scratchWrite s core off bs) core off bs := by
  refine ⟨fun a => ?_, ⟨memWrite (coreOf s core).scratch off bs, coreOf_modCore ..⟩, fun k hk => coreOf_modCore_other _ _ hk, rfl⟩
  have hc := coreOf_modCore s core fun c =>
    { c with scratch := memWrite c.scratch off bs, scratchPoison := clearUnits c.scratchPoison off bs.length }
  rw [scratchByte, scratchWrite, hc]
  exact memGet_memWrite (scratchWf h core) off bs a

theorem scratchRead_scratchWrite {s : State} (h : memoriesWf s = true) (core off : Nat) (bs : List Byte) :
    scratchRead (scratchWrite s core off bs) core off bs.length = bs := by
  have hc := coreOf_modCore s core fun c =>
    { c with scratch := memWrite c.scratch off bs, scratchPoison := clearUnits c.scratchPoison off bs.length }
  rw [scratchRead, scratchWrite, hc]
  exact memRead_memWrite (scratchWf h core) off bs

theorem wakeSync_none {s : State} (h : noSyncWaits s) (core : Nat) : wakeSync core s = s := by
  have hone : ∀ o ∈ s.ops, ∀ x : State, wakeOne core x o = x := by
    intro o ho x
    unfold wakeOne
    split
    · next hk => exact absurd hk (h o ho _ _ _)
    · rfl
  unfold wakeSync
  generalize s.ops = l at hone
  suffices ∀ x : State, l.foldl (wakeOne core) x = x from this s
  induction l with
  | nil => exact fun _ => rfl
  | cons o l ih =>
    intro x
    rw [List.foldl_cons, hone o (by simp) x]
    exact ih (fun o ho => hone o (by simp [ho])) x

theorem scratchStore_noWaits {s : State} (h : noSyncWaits s) (core off : Nat) (bs : List Byte) :
    scratchStore s core off bs = scratchWrite s core off bs := by
  rw [scratchStore]
  exact wakeSync_none (s := scratchWrite s core off bs) h core

/-! ## Completions -/

theorem modThread_id (s : State) (gk k : Nat) : modThread s gk k (fun t => t) = s := by
  have hth : ∀ l : List Thread, updFirst (fun x => x.idx == k) (fun t => t) l = l := fun l => by
    induction l with
    | nil => rfl
    | cons x r ih => unfold updFirst; split <;> simp [ih]
  have hg : ∀ l : List Group, updFirst (fun g => g.gk == gk) (fun g => updThread g k fun t => t) l = l := fun l => by
    induction l with
    | nil => rfl
    | cons x r ih =>
      unfold updFirst
      split
      · rw [updThread, hth]
      · rw [ih]
  rw [modThread, modGroup, hg]

theorem modThread_modThread {s : State} {gk k : Nat} {f h : Thread → Thread} (hf : ∀ t, (f t).idx = t.idx) :
    modThread (modThread s gk k f) gk k h = modThread s gk k fun t => h (f t) := by
  rw [modThread_eq_actOn, modThread_eq_actOn, modGroup_modGroup (f := actOn k id f) fun _ => rfl, modThread_eq_actOn]
  congr 1
  funext g
  exact actOn_actOn hf (fun _ _ => rfl) g

theorem credited_idx (cnt : Nat) (t : Thread) : (credited cnt t).idx = t.idx := by
  unfold credited
  split <;> rfl

section completed
variable {s s1 : State} {o : Op} {tid : Nat} {g g1 : Group}

theorem creditCounter_resident {gk cnt : Nat} (hg : groupOf s gk = some g) (hr : g.run ≠ .preempted) :
    creditCounter s gk tid cnt = modThread s gk tid (credited cnt) := by
  unfold creditCounter
  rw [hg]
  dsimp only
  by_cases h6 : cnt ≥ 6
  · have hc : credited cnt = fun t => { t with pw := t.pw - 1 } := by
      funext t
      rw [credited, if_neg (by omega)]
    rw [if_pos h6, hc]
  · have hc : credited cnt = fun t => { t with w := t.w.set cnt (t.w.getD cnt 0 - 1) } := by
      funext t
      rw [credited, if_pos (by omega)]
    rw [if_neg h6, if_neg hr, hc]

theorem retireOp_resident (ht : o.threads = [tid]) (hg : groupOf s o.gk = some g) (hr : g.run ≠ .preempted) :
    retireOp s o = modThread (dropOp s o.id) o.gk tid (credited o.cnt) := by
  rw [retireOp, ht, List.foldl_cons, List.foldl_nil]
  exact creditCounter_resident hg hr

/-- An operation of one thread that is on its core completes once the thread has what `f` makes of it. -/
theorem completed_of (ht : o.threads = [tid]) (hg : groupOf s1 o.gk = some g1) (hr : g1.run ≠ .preempted) {f : Thread → Thread}
    (hf : ∀ t, (f t).idx = t.idx) : Completed s1 (retireOp (modThread s1 o.gk tid f) o) o (o.gk, tid) f := by
  have hgr : groupOf (modThread s1 o.gk tid f) o.gk = some (updThread g1 tid f) := by
    rw [groupOf_modThread, hg, Option.map_some]
  have he : retireOp (modThread s1 o.gk tid f) o = modThread (dropOp s1 o.id) o.gk tid fun t => credited o.cnt (f t) := by
    rw [retireOp_resident ht hgr hr, ← modThread_modThread (s := dropOp s1 o.id) hf]
    rfl
  have hidx : ∀ t : Thread, t.idx = tid → (credited o.cnt (f t)).idx = tid := fun t h => by rw [credited_idx, hf, h]
  rw [he]
  refine ⟨rfl, fun t h => ?_, fun n hn => ?_, fun gk x hx => ?_, rfl⟩
  · rw [threadAt_modThread (m := (o.gk, tid)) (f := fun t => credited o.cnt (f t)) hidx]
    exact congrArg (Option.map _) h
  · exact threadAt_modThread_other (s := dropOp s1 o.id) (m := (o.gk, tid)) (f := fun t => credited o.cnt (f t)) hidx hn
  · have hx' : groupOf (dropOp s1 o.id) gk = some x := hx
    by_cases hgk : gk = o.gk
    · subst hgk
      exact ⟨_, by rw [groupOf_modThread, hx', Option.map_some]; rfl⟩
    · exact ⟨x.threads, by rw [groupOf_modThread_other _ _ hgk, hx']⟩

theorem setRegs_idx (vals : List (Nat × Word)) (t : Thread) : (vals.foldl (fun t e => setReg t e.1 e.2) t).idx = t.idx := by
  induction vals generalizing t with
  | nil => rfl
  | cons e r ih => exact ih _

theorem replyWords_resident {gk : Nat} (hg : groupOf s gk = some g) (hr : g.run ≠ .preempted) (vals : List (Nat × Word)) :
    replyWords s gk tid vals = modThread s gk tid fun t => vals.foldl (fun t e => setReg t e.1 e.2) t := by
  unfold replyWords
  rw [hg]
  exact if_neg hr

/-- An access that writes registers. -/
theorem performOp_completed (ht : o.threads = [tid]) (hg : groupOf s o.gk = some g) (ha : isAccessKind o.kind = true)
    {vals : List (Nat × Word)} (hp : performAccess s g o = (s1, .ok vals)) (hg1 : groupOf s1 o.gk = some g1) (hr : g1.run ≠ .preempted) :
    Completed s1 (performOp s o) o (o.gk, tid) fun t => vals.foldl (fun t e => setReg t e.1 e.2) t := by
  have he : performOp s o = retireOp (replyWords s1 o.gk tid vals) o := by
    unfold performOp
    rw [hg]
    dsimp only
    rw [ha, hp, ht]
    rfl
  rw [he, replyWords_resident hg1 hr]
  exact completed_of ht hg1 hr (setRegs_idx vals)

/-- An access that met poison. -/
theorem performOp_poisoned (ht : o.threads = [tid]) (hg : groupOf s o.gk = some g) (ha : isAccessKind o.kind = true) {va : Nat}
    (hp : performAccess s g o = (s1, .error va)) (hg1 : groupOf s1 o.gk = some g1) (hr : g1.run ≠ .preempted) :
    Completed s1 (performOp s o) o (o.gk, tid) (withDeferred o.cnt (poisonAt va)) := by
  have he : performOp s o = retireOp (modThread s1 o.gk tid (withDeferred o.cnt (poisonAt va))) o := by
    unfold performOp
    rw [hg]
    dsimp only
    rw [ha, hp, ht]
    rfl
  rw [he]
  exact completed_of ht hg1 hr fun _ => rfl

end completed

/-- An outstanding operation of the right kind is performed. -/
theorem complete_outstanding {s : State} {id : Nat} {o : Op} {g : Group} {tid : Nat} (h : Outstanding s id o g tid) {p : OpKind → Bool}
    (hp : p o.kind = true) : complete s id p = performOp s o := by
  rw [complete, h.op]
  dsimp only
  rw [hp, h.may]
  rfl

end Sys2Proof.Machine
end

section
/-! SUPPORT. Sync words (R216, R217, R269 to R272). -/
namespace Sys2Proof.Machine
open Sys2Proof.Claims

/-! ## The word -/

theorem syncInit_fields (w : Nat) (x : Word) : field (syncInit w x) 0 32 = x.toNat ∧ field (syncInit w x) 32 32 = 0 ∧
    field (syncInit w x) 64 32 = field w 64 32 ∧ bitOf (syncInit w x) 96 = false := by
  unfold syncInit
  refine ⟨?_, ?_, ?_, ?_⟩
  · rw [field_setField_other (by decide), field_setField_other (by decide), field_setField]
    exact Nat.mod_eq_of_lt x.isLt
  · rw [field_setField_other (by decide), field_setField, Nat.zero_mod]
  · rw [field_setField_other (by decide), field_setField_other (by decide), field_setField_other (by decide)]
  · rw [bitOf_eq, testBit_setField, if_pos (by decide)]
    rfl

theorem syncInit_lt {w : Nat} (h : w < 2 ^ 128) (x : Word) : syncInit w x < 2 ^ 128 :=
  setField_lt (setField_lt (setField_lt h (by decide)) (by decide)) (by decide)

/-- The overrun bit as an arrival leaves it (R217). -/
def withOverrun (w c : Nat) : Nat := if c > field w 0 32 then setField w 96 1 1 else w

theorem withOverrun_field (w c : Nat) {lo : Nat} (h : lo + 32 ≤ 96) : field (withOverrun w c) lo 32 = field w lo 32 := by
  unfold withOverrun
  split
  · exact field_setField_other (.inl h)
  · rfl

theorem withOverrun_bit (w c : Nat) : bitOf (withOverrun w c) 96 = (bitOf w 96 || decide (field w 0 32 < c)) := by
  unfold withOverrun
  by_cases h : c > field w 0 32
  · rw [if_pos h, bitOf_eq, testBit_setField, if_pos (by decide), decide_eq_true h, Bool.or_true]
    rfl
  · rw [if_neg h, decide_eq_false h, Bool.or_false]

theorem syncArrive_eq (w n : Nat) : syncArrive w n =
    if field w 0 32 = 0 ∨ field w 32 32 + n < field w 0 32 then setField w 32 32 (field w 32 32 + n)
    else setField (setField (withOverrun w (field w 32 32 + n)) 32 32 0) 64 32 (field w 64 32 + 1) := by
  rw [← withOverrun_field w (field w 32 32 + n) (lo := 64) (by decide)]
  unfold syncArrive
  dsimp only
  by_cases h0 : field w 0 32 = 0
  · rw [if_pos h0, if_pos (.inl h0)]
  · rw [if_neg h0]
    by_cases hc : field w 32 32 + n < field w 0 32
    · rw [if_pos hc, if_pos (.inr hc)]
    · rw [if_neg hc, if_neg (not_or.mpr ⟨h0, hc⟩)]
      rfl

theorem isArrival_syncArrive (w n : Nat) : IsArrival w (syncArrive w n) n := by
  by_cases hc : field w 0 32 = 0 ∨ field w 32 32 + n < field w 0 32
  · rw [syncArrive_eq, if_pos hc]
    refine ⟨field_setField_other (by decide), ?_⟩
    refine (if_pos hc).mpr ⟨field_setField .., field_setField_other (by decide), ?_⟩
    rw [bitOf_eq, bitOf_eq, testBit_setField, if_neg (by decide)]
  · rw [syncArrive_eq, if_neg hc]
    refine ⟨?_, (if_neg hc).mpr ⟨?_, field_setField .., ?_⟩⟩
    · rw [field_setField_other (by decide), field_setField_other (by decide), withOverrun_field _ _ (by decide)]
    · rw [field_setField_other (by decide), field_setField, Nat.zero_mod]
    · rw [← withOverrun_bit, bitOf_eq, bitOf_eq, testBit_setField, if_neg (by decide), testBit_setField, if_neg (by decide)]

theorem syncArrive_lt {w : Nat} (h : w < 2 ^ 128) (n : Nat) : syncArrive w n < 2 ^ 128 := by
  have ho : withOverrun w (field w 32 32 + n) < 2 ^ 128 := by
    unfold withOverrun
    split
    · exact setField_lt h (by decide)
    · exact h
  rw [syncArrive_eq]
  split
  · exact setField_lt h (by decide)
  · exact setField_lt (setField_lt ho (by decide)) (by decide)

/-! ## The word in its scratchpad -/

theorem syncWord_lt (s : State) (core off : Nat) : syncWord s core off < 2 ^ 128 := by
  have h := leNat_lt (scratchRead s core off 16)
  rw [scratchRead, memRead_length] at h
  exact h

theorem syncWord_written {s : State} (h : memoriesWf s = true) (core off : Nat) {w : Nat} (hw : w < 2 ^ 128) :
    syncWord (scratchWrite s core off (leBytes w 16)) core off = w := by
  have hr := scratchRead_scratchWrite h core off (leBytes w 16)
  rw [leBytes_length] at hr
  rw [syncWord, hr, leNat_leBytes]
  exact Nat.mod_eq_of_lt hw

/-! ## Issue -/

section alone
variable {s : State} {i : Issue} {rest : List Issue} {m : Nat × Nat} {g : Group} {t : Thread} {o : MemOp} {x : Word} {off : Nat}

theorem runQueued_one {s1 : State} (ha : Alone s i rest m g t) (hu : Unbegun i) (hroom : engineCount s g.core < 64) {gd : Guard}
    (hg : guardTrue t gd = true) {f : State → Group → Thread → State × Option FaultInfo} (hf : f s g t = (s1, none)) :
    runQueued s gd f = finishInstr (modThread s1 m.1 m.2 fun t => shiftLatch t 0) 2 [] := by
  obtain ⟨hiss, hflt⟩ := hu
  have hheld : decide (engineCount s g.core ≥ 64) = false := decide_eq_false (by omega)
  simp [runQueued, runPartly, ha.issues, ha.members, hiss, hflt, partStep, ha.member, hg, hheld, hf]

theorem runs_swinit (ha : Alone s i rest m g t) (hg : guardTrue t o.g = true) (hw : hasRoom o.wait t)
    (hx : sourceRegs t o.d.toNat 1 = .ok [x]) (ht : syncTarget s g t o .w = .ok off) :
    Runs (.swinit o) s fun s' => Issued s s' i rest m g t o.wait (.swInit off x) := by
  have he : exec (.swinit o) s = .next (runThreads s 2 o.g (issueSyncInit o)) := by
    show execSwinit o s = _
    rw [execSwinit, counterFull_false ha hw, if_neg (by decide)]
  refine runs_issued he ha hg ?_ rfl
  rw [issueSyncInit, ht, hx, memberOf_idx ha.member]
  rfl

theorem runs_swadd (ha : Alone s i rest m g t) (hu : Unbegun i) (hg : guardTrue t o.g = true) (hw : hasRoom o.wait t)
    (hx : sourceRegs t o.d.toNat 1 = .ok [x]) (ht : syncTarget s g t o .rw = .ok off) (hroom : engineCount s g.core < 64)
    (hi : (releaseThread s m.1 m.2).issues = s.issues) :
    Runs (.swadd o) s fun s' => Issued (releaseThread s m.1 m.2) s' i rest m g t o.wait (.swAdd off x) := by
  have hgk : g.gk = m.1 := memberOf_gk ha.member
  have hf : issueSyncAdd o s g t = (issueOp (releaseThread s m.1 m.2) g m.2 o.wait t.inSup (.swAdd off x), none) := by
    rw [issueSyncAdd, ht, hx, memberOf_idx ha.member, hgk]
    rfl
  refine ⟨finishInstr (modThread (issueOp (releaseThread s m.1 m.2) g m.2 o.wait t.inSup (.swAdd off x)) m.1 m.2
    fun t => shiftLatch t 0) 2 [], ?_, issued_of (hi.trans ha.issues) ha.members hgk⟩
  show execSwadd o s = _
  rw [execSwadd, counterFull_false ha hw, if_neg (by decide), runQueued_one ha hu hroom hg hf]

end alone

/-! ## An acquire changes L1 lines alone (R248) -/

theorem dropCleans_with (l : List Nat) (s : State) (ops : List Op) (groups : List Group) (n : Nat) :
    l.foldl dropClean { s with ops := ops, groups := groups, names := n } =
      { s with ops := ops, groups := groups, names := n, cores := (l.foldl dropClean s).cores } := by
  induction l generalizing s with
  | nil => rfl
  | cons c l ih => exact ih (dropClean s c)

theorem acquireCore_with (s : State) (ops : List Op) (groups : List Group) (n core : Nat) :
    acquireCore { s with ops := ops, groups := groups, names := n } core =
      { s with ops := ops, groups := groups, names := n, cores := (acquireCore s core).cores } := dropCleans_with ..

theorem dropClean_lines (s : State) (core k : Nat) : ∃ lines, coreOf (dropClean s core) k = { coreOf s k with l1 := lines } := by
  by_cases h : k = core
  · subst h
    exact ⟨_, coreOf_modCore ..⟩
  · exact ⟨(coreOf s k).l1, coreOf_modCore_other _ _ h⟩

theorem acquireCore_lines (s : State) (core k : Nat) : ∃ lines, coreOf (acquireCore s core) k = { coreOf s k with l1 := lines } := by
  unfold acquireCore
  generalize flumeCores s core = l
  induction l generalizing s with
  | nil => exact ⟨(coreOf s k).l1, rfl⟩
  | cons c l ih =>
    obtain ⟨a, ha⟩ := dropClean_lines s c k
    obtain ⟨b, hb⟩ := ih (dropClean s c)
    exact ⟨b, by rw [List.foldl_cons, hb, ha]⟩

/-! ## Waits -/

section wait
variable {s : State} {i : Issue} {rest : List Issue} {m : Nat × Nat} {g : Group} {t : Thread} {o : MemOp} {x : Word} {off : Nat}

theorem runs_swwait {s1 : State} (ha : Alone s i rest m g t) (hu : Unbegun i) (hg : guardTrue t o.g = true) (hw : hasRoom o.wait t)
    (hx : sourceRegs t o.d.toNat 1 = .ok [x]) (ht : syncTarget s g t o .r = .ok off) (hops : s.ops = [])
    (h1 : wakeSync g.core (issueOp s g m.2 o.wait t.inSup (.swWait off x o.d.toNat)) = s1) :
    exec (.swwait o) s = .next (finishInstr (modThread s1 m.1 m.2 fun t => shiftLatch t 0) 2 []) := by
  have hgk : g.gk = m.1 := memberOf_gk ha.member
  have hidle : idle s m := fun o ho => by rw [hops] at ho; cases ho
  have hroom : engineCount s g.core < 64 := by
    rw [engineCount, hops]
    exact Nat.zero_lt_succ _
  have hf : issueSyncWait o s g t = (s1, none) := by
    rw [issueSyncWait, ht, hx, memberOf_idx ha.member, hgk]
    dsimp only
    rw [performThread_idle hidle, ← h1]
    rfl
  show execSwwait o s = _
  rw [execSwwait, counterFull_false ha hw, if_neg (by decide), runQueued_one ha hu hroom hg hf]

theorem wakeSync_issued (hops : s.ops = []) (hgk : g.gk = m.1) (hp : scratchPoisoned s g.core off 16 = false) (d : Nat) (wait : BitVec 3) :
    wakeSync g.core (issueOp s g m.2 wait t.inSup (.swWait off x d)) =
      if leNat (scratchRead s g.core (off + 8) 4) = x.toNat then issueOp s g m.2 wait t.inSup (.swWait off x d)
      else retireOp (acquireCore (replyLast (issueOp s g m.2 wait t.inSup (.swWait off x d)) (opFor s m g t wait (.swWait off x d)) m.2
        [(d, BitVec.ofNat 32 (leNat (scratchRead s g.core (off + 8) 4)))]) g.core) (opFor s m g t wait (.swWait off x d)) := by
  have he := issueOp_eq s m g t wait (.swWait off x d) hgk
  generalize issueOp s g m.2 wait t.inSup (.swWait off x d) = y at he
  have hyo : y.ops = [opFor s m g t wait (.swWait off x d)] := by
    rw [he]
    show s.ops ++ _ = _
    rw [hops]
    rfl
  have hyc : ∀ c, coreOf y c = coreOf s c := fun c => by rw [he]; rfl
  have hpy : scratchPoisoned y g.core off 16 = false := by
    rw [scratchPoisoned, hyc]
    exact hp
  have hry : scratchRead y g.core (off + 8) 4 = scratchRead s g.core (off + 8) 4 := by rw [scratchRead, hyc, scratchRead]
  have hne : ¬ (g.core != g.core) = true := by simp
  rw [wakeSync, hyo, List.foldl_cons, List.foldl_nil, wakeOne, opFor]
  dsimp only
  rw [if_neg hne, hpy, if_neg (by decide), hry]
  rfl

/-- The wait is over at once: the thread has the generation in its register, and no operation is outstanding. -/
theorem swwait_done (hops : s.ops = []) (hgk : g.gk = m.1) (hg : groupOf s m.1 = some g) (hr : g.run ≠ .preempted) (d : Nat)
    (wait : BitVec 3) (v : Word) :
    retireOp (acquireCore (replyLast (issueOp s g m.2 wait t.inSup (.swWait off x d)) (opFor s m g t wait (.swWait off x d)) m.2
        [(d, v)]) g.core) (opFor s m g t wait (.swWait off x d)) =
      { modThread s m.1 m.2 (fun t => credited wait.toNat (withRegs d [v] (charged wait t))) with
        cores := (acquireCore s g.core).cores, names := s.names + 1 } := by
  have hgi : groupOf (issueOp s g m.2 wait t.inSup (.swWait off x d)) m.1 = some (updThread g m.2 (charged wait)) := by
    rw [groupOf_issueOp, hg, Option.map_some, if_pos hgk.symm]
  have hreply : replyLast (issueOp s g m.2 wait t.inSup (.swWait off x d)) (opFor s m g t wait (.swWait off x d)) m.2 [(d, v)] =
      modThread { s with names := s.names + 1, ops := [opFor s m g t wait (.swWait off x d)] } m.1 m.2
        (fun t => withRegs d [v] (charged wait t)) := by
    have h1 : replyLast (issueOp s g m.2 wait t.inSup (.swWait off x d)) (opFor s m g t wait (.swWait off x d)) m.2 [(d, v)] =
        replyWords (issueOp s g m.2 wait t.inSup (.swWait off x d)) m.1 m.2 [(d, v)] := by
      unfold replyLast
      simp only [opFor, hgi]
      rfl
    rw [h1, replyWords_resident hgi hr, issueOp_eq s m g t wait _ hgk, modThread_modThread fun t => charged_idx wait t rfl, hops]
    rfl
  have hg2 : groupOf (modThread { s with names := s.names + 1, ops := [opFor s m g t wait (.swWait off x d)] } m.1 m.2
      (fun t => withRegs d [v] (charged wait t))) m.1 = some (updThread g m.2 fun t => withRegs d [v] (charged wait t)) := by
    rw [groupOf_modThread]
    exact congrArg (Option.map _) hg
  have hidx : ∀ u : Thread, (withRegs d [v] (charged wait u)).idx = u.idx := fun u => charged_idx wait u rfl
  rw [hreply, retireOp_resident (tid := m.2) (g := updThread g m.2 fun t => withRegs d [v] (charged wait t)) rfl
    ((groupOf_of_kept (acquireCore_kept ..) m.1).trans hg2) hr]
  have hacq : acquireCore (modThread { s with names := s.names + 1, ops := [opFor s m g t wait (.swWait off x d)] } m.1 m.2
      (fun t => withRegs d [v] (charged wait t))) g.core = _ := acquireCore_with s _ _ _ _
  rw [hacq]
  have hdrop : ([opFor s m g t wait (.swWait off x d)].filter fun o => o.id != s.names) = s.ops := by
    rw [hops]
    simp [opFor]
  have hmm := modThread_modThread (s := s) (gk := m.1) (k := m.2) (h := credited wait.toNat) hidx
  have hgroups := congrArg State.groups hmm
  have he : ∀ ops groups, ops = s.ops → groups =
      (modThread s m.1 m.2 fun t => credited wait.toNat (withRegs d [v] (charged wait t))).groups →
      ({ s with ops := ops, groups := groups, names := s.names + 1, cores := (acquireCore s g.core).cores } : State) =
      { modThread s m.1 m.2 (fun t => credited wait.toNat (withRegs d [v] (charged wait t))) with
        cores := (acquireCore s g.core).cores, names := s.names + 1 } := by
    rintro _ _ rfl rfl
    rfl
  exact he _ _ hdrop hgroups

end wait

/-! ## Completions -/

section complete
variable {s : State} {id : Nat} {op : Op} {g : Group} {tid off : Nat}

theorem runs_swInit (h : Outstanding s id op g tid) (hn : noSyncWaits s) {x : Word}
    (hk : op.kind = .swInit off x) : Runs (.storeCompletion id) s fun s' =>
      Completed (scratchWrite s op.core off (leBytes (syncInit (syncWord s op.core off) x) 16)) s' op (op.gk, tid) fun t => t := by
  have ha : isAccessKind op.kind = true := by rw [hk]; rfl
  have hx : exec (.storeCompletion id) s = .next (performOp s op) := by
    show execStoreCompletion id s = _
    rw [execStoreCompletion, complete_outstanding h (by rw [hk])]
  have hp : performAccess s g op =
      (scratchWrite s op.core off (leBytes (syncInit (syncWord s op.core off) x) 16), .ok []) := by
    rw [performAccess, hk]
    dsimp only
    rw [scratchStore_noWaits hn]
    rfl
  exact ⟨_, hx, performOp_completed h.threads h.group ha hp h.group h.resident⟩

theorem exec_swAdd (h : Outstanding s id op g tid) {n : Word} (hk : op.kind = .swAdd off n) (hp : scratchPoisoned s op.core off 16 = false) :
    exec (.syncWordPieceArrival id 0) s =
      .next (retireOp (if n = 0 then s else countPiece s op.core off n.toNat) op) := by
  show execSyncWordPieceArrival id 0 s = _
  rw [execSyncWordPieceArrival, h.op]
  simp only [hk, if_true]
  rw [completeSyncAdd, hp]
  rfl

theorem completed_retire {s1 : State} (h : Outstanding s id op g tid) (hg : s1.groups = s.groups) :
    Completed s1 (retireOp s1 op) op (op.gk, tid) fun t => t := by
  have hc := completed_of (s1 := s1) (f := fun t => t) h.threads ((groupOf_congr hg _).trans h.group) h.resident fun _ => rfl
  rwa [modThread_id] at hc

end complete

end Sys2Proof.Machine

open Sys2Proof Sys2Proof.Machine Sys2Proof.Claims

/-- Settles O31: the word is a number of 128 bits whose fields `swinit` and arrivals replace one by one, and a wait that is over is retired
as it issues. -/
theorem syncWordOperations : Obligations.SyncWordOperations := by
  refine ⟨fun o s i rest m g t x off ha hu hg hw hx => ⟨runs_swinit ha hg hw hx, fun ht hroom => runs_swadd ha hu hg hw hx ht hroom, ?_⟩, ?_⟩
  · intro ht hp hops gen
    have hgk : g.gk = m.1 := memberOf_gk ha.member
    refine ⟨fun hgen => ?_, fun hgen hr hgo => ?_⟩
    · have hwake := wakeSync_issued (t := t) (x := x) hops hgk hp o.d.toNat o.wait
      rw [if_pos hgen] at hwake
      exact ⟨_, runs_swwait ha hu hg hw hx ht hops hwake, issued_of ha.issues ha.members hgk⟩
    · have hwake := wakeSync_issued (t := t) (x := x) hops hgk hp o.d.toNat o.wait
      rw [if_neg hgen, swwait_done hops hgk hgo hr] at hwake
      refine ⟨_, runs_swwait ha hu hg hw hx ht hops hwake, _, past_of ?_ ha.members 2, rfl, acquireCore_lines s g.core⟩
      exact ha.issues
  · intro s id op g tid hwf h hn
    refine ⟨fun off x hk => ?_, fun off n hk hp => ⟨fun h0 => ?_, fun h0 => ?_⟩⟩
    · obtain ⟨s', hx, hc⟩ := runs_swInit h hn hk
      have hlt := syncInit_lt (syncWord_lt s op.core off) x
      refine ⟨s', hx, _, hc, ?_⟩
      dsimp only
      rw [syncWord_written hwf _ _ hlt]
      exact ⟨scratchWritten_of hwf .., syncInit_fields _ x⟩
    · refine ⟨_, exec_swAdd h hk hp, ?_⟩
      rw [if_pos h0]
      exact completed_retire h rfl
    · have hlt := syncArrive_lt (syncWord_lt s op.core off) n.toNat
      have hcount : countPiece s op.core off n.toNat =
          scratchWrite s op.core off (leBytes (syncArrive (syncWord s op.core off) n.toNat) 16) := scratchStore_noWaits hn ..
      refine ⟨_, exec_swAdd h hk hp, countPiece s op.core off n.toNat, ?_, ?_⟩
      · rw [if_neg h0]
        refine completed_retire h ?_
        rw [hcount]
        rfl
      · rw [hcount, syncWord_written hwf _ _ hlt]
        exact ⟨scratchWritten_of hwf .., isArrival_syncArrive ..⟩
end

section
/-! SUPPORT. Loads and late replies arrive (R252, R262, R263). -/
namespace Sys2Proof.Machine
open Sys2Proof.Claims

section arrival
variable {s s1 : State} {id : Nat} {op : Op} {g : Group} {tid d size hint staged : Nat} {treat : Treat} {bs : List Byte} {bad : Bool}
  (h : Outstanding s id op g tid)
include h

theorem exec_loadArrival (hk : (match op.kind with | .load .. => true | .reply .. => true | _ => false) = true) :
    exec (.loadArrival id) s = .next (performOp s op) := by
  show execLoadArrival id s = _
  rw [execLoadArrival, complete_outstanding h hk]

/-- What a load brings its thread, by the value that the memory system answers. -/
theorem runs_load {place : Place} (hk : op.kind = .load place d size treat hint staged)
    (hv : loadValue s (opCtx op g) g place size treat hint staged = (s1, bs, bad)) :
    Runs (.loadArrival id) s fun s' => Completed s1 s' op (op.gk, tid)
      (if bad then withDeferred op.cnt (poisonAt (placeVa place)) else withRegs d (bytesToWords 16 bs)) := by
  have hkept : kept s1 = kept s := (congrArg (fun x => kept x.1) hv).symm.trans (loadValue_kept ..)
  have hg1 : groupOf s1 op.gk = some g := (groupOf_of_kept hkept _).trans h.group
  have ha : isAccessKind op.kind = true := by rw [hk]; rfl
  have hp : performAccess s g op =
      (s1, if bad then .error (placeVa place) else .ok (enumFrom d (bytesToWords 16 bs))) := by
    rw [performAccess, hk]
    dsimp only
    rw [hv]
  refine ⟨_, exec_loadArrival h (by rw [hk]), ?_⟩
  cases bad with
  | true => exact performOp_poisoned h.threads h.group ha hp hg1 h.resident
  | false => exact performOp_completed h.threads h.group ha hp hg1 h.resident

theorem runs_reply {vals : List (Nat × Word)} (hk : op.kind = .reply vals) : Runs (.loadArrival id) s fun s' =>
    Completed s s' op (op.gk, tid) fun t => vals.foldl (fun t e => setReg t e.1 e.2) t := by
  have ha : isAccessKind op.kind = true := by rw [hk]; rfl
  have hp : performAccess s g op = (s, .ok vals) := by rw [performAccess, hk]
  exact ⟨_, exec_loadArrival h (by rw [hk]), performOp_completed h.threads h.group ha hp h.group h.resident⟩

end arrival

theorem loadValue_direct {s : State} {c : Ctx} {g : Group} {asid size hint staged : Nat} {ps : List Piece} {treat : Treat}
    (h : treat = .direct ∨ gridOf s g.grid = none) :
    loadValue s c g (.mem asid ps) size treat hint staged = loadPieces s c hint g.grid ps := by
  unfold loadValue
  split
  · next hp => cases hp
  · next gr hp hgr =>
    rcases h with h | h
    · cases h
    · rw [h] at hgr
      cases hgr
  · next hp _ =>
    cases hp
    rfl

theorem loadValue_shared {s : State} {c : Ctx} {g : Group} {asid size hint staged : Nat} {ps : List Piece} {gr : Grid}
    (hgr : gridOf s g.grid = some gr) :
    loadValue s c g (.mem asid ps) size .shared hint staged =
      let va := placeVa (.mem asid ps)
      let r := loadPieces s c hint g.grid (ps.map wholeUnits)
      let own := applyOwn gr g (va - va % 8) staged r.1 0 r.2.1
      (own.1, (own.2.drop (va % 8)).take size, r.2.2) := by
  have hunit : ∀ va : Nat, va / 8 * 8 = va - va % 8 ∧ va - (va - va % 8) = va % 8 := fun va => by omega
  unfold loadValue
  rw [hgr]
  dsimp only
  obtain ⟨h1, h2⟩ := hunit (placeVa (.mem asid ps))
  rw [h1, h2]

end Sys2Proof.Machine

open Sys2Proof Sys2Proof.Machine Sys2Proof.Claims

/-- Settles O32: a load is performed with the value that the memory system answers, which changes caches alone. -/
theorem loadsArrive : Obligations.LoadsArrive := by
  intro s id op g tid d size hint staged treat h m
  refine ⟨fun off hk => ⟨fun hp => ?_, fun hp => ?_⟩, fun asid ps hk => ?_, fun vals hk => runs_reply h hk⟩
  · exact runs_load h hk (bs := scratchRead s op.core off size) (bad := false) (Prod.ext rfl (Prod.ext rfl hp))
  · exact runs_load h hk (bs := scratchRead s op.core off size) (bad := true) (Prod.ext rfl (Prod.ext rfl hp))
  · intro arrives
    refine ⟨?_, ?_⟩
    · intro htr r
      exact ⟨cachesOnly_of_kept (loadPieces_kept ..), runs_load h hk (loadValue_direct htr)⟩
    · intro gr htr hgr va unit r own
      subst htr
      exact ⟨cachesOnly_of_kept ((applyOwn_kept ..).trans (loadPieces_kept ..)), runs_load h hk (loadValue_shared hgr)⟩
end

section
/-! SUPPORT. A state against `eng` (R275): the issue group that runs next has a thread of a pre-empted group, whose counters lie in its record.
A collective whose block faults completes at once, the record cannot be reached, and the group fails: it leaves the issue group (R465). -/
namespace Sys2Proof.Machine.PreemptedIssuer
open Sys2Proof.Claims

def thread : Thread := { idx := 0, regs := [], winHi := 0, pc := 0, hdr := 0, status := .issuing }
def group : Group := { gk := 0, grid := 0, gid := 0, record := {}, kd := {}, run := .preempted, core := 0, threads := [thread] }
def issue : Issue := { core := 0, members := [(0, 0)], hdr := 0, words := [0, 0, 0, 0] }
def state : State := { State.reset with groups := [group], issues := [issue] }
def collective : EngOp :=
  { d := 0, a := .int 16, b := .int 16, reply := false, g := { neg := false, p := 7 }, wait := 0, imm := 0 }

/-- Number of issue groups in what an instruction answers. -/
def issuesLeft (r : Res) : Option Nat :=
  match r with
  | .next s => some s.issues.length
  | _ => none

theorem group_leaves : issuesLeft (exec (.engAllred collective) state) = some 0 := by decide +kernel

end Sys2Proof.Machine.PreemptedIssuer

open Sys2Proof Sys2Proof.Machine Sys2Proof.Claims

/-- Refutes O34: nothing in the statement keeps the thread's group resident, and the completion of a faulting collective may then end the
group instead of going on in its clause (`PreemptedIssuer.state`). -/
theorem not_engineOperationsIssue : ¬ Obligations.EngineOperationsIssue := by
  intro h
  obtain ⟨-, hdet, -, -⟩ := h PreemptedIssuer.collective PreemptedIssuer.state PreemptedIssuer.issue [] (0, 0) PreemptedIssuer.group
    PreemptedIssuer.thread 0 0 ⟨rfl, rfl, rfl⟩ ⟨rfl, rfl⟩ rfl (fun _ => by decide) (by decide) rfl rfl (by decide) (by decide)
  obtain ⟨hfault, -⟩ := (hdet rfl (Or.inl fun o ho => absurd ho List.not_mem_nil)).2 (.engAllred, .allred) List.mem_cons_self
  obtain ⟨s', hx, hp⟩ := hfault { cls := 8, va := 0, detail := 5 } (by decide +kernel)
  have hl := PreemptedIssuer.group_leaves
  rw [hx, PreemptedIssuer.issuesLeft, hp.issues] at hl
  exact absurd hl (by decide)
end

section
/-! SUPPORT. Engine operations end (R275, R276), and the rounds of collectives (R278, R279). -/
namespace Sys2Proof.Machine
open Sys2Proof.Claims

/-! ## The block -/

theorem engTarget_kept (s : State) (g : Group) (c : Ctx) (e : EngState) (space addr n : Nat) (acc : Acc) :
    kept (engTarget s g c e space addr n acc).1 = kept s := by grind [engTarget]
grind_pattern engTarget_kept => engTarget s g c e space addr n acc

theorem engFetch_kept (s : State) (g : Group) (c : Ctx) (e : EngState) (n : Nat) (t : Target) :
    kept (engFetch s g c e n t).1 = kept s := by grind [engFetch]
grind_pattern engFetch_kept => engFetch s g c e n t

theorem engRead_kept (s : State) (g : Group) (c : Ctx) (e : EngState) (space addr n : Nat) :
    kept (engRead s g c e space addr n).1 = kept s := by grind [engRead]
grind_pattern engRead_kept => engRead s g c e space addr n

theorem readBlock_kept (s : State) (g : Group) (c : Ctx) (e : EngState) : kept (readBlock s g c e).1 = kept s := by grind [readBlock]

/-- Reading its block leaves an operation its function. -/
theorem readBlock_fn (s : State) (g : Group) (c : Ctx) (e : EngState) : (readBlock s g c e).2.fn = e.fn := by
  unfold readBlock
  split
  · rfl
  · split
    · rfl
    · split <;> rfl

/-! ## The end of an operation -/

section ends
variable {s : State} {o : Op} {e : EngState} {g : Group} {tid : Nat}

theorem withStatus_idx (e : EngState) (cnt : Nat) (r : EngEnd) (t : Thread) : (withStatus e cnt r t).idx = t.idx := by
  unfold withStatus
  cases e.reply <;> cases r.fault <;> rfl

theorem replyLast_resident (hearly : o.early = []) (hg : groupOf s o.gk = some g) (hr : g.run ≠ .preempted) (vals : List (Nat × Word)) :
    replyLast s o tid vals = modThread s o.gk tid fun t => vals.foldl (fun t e => setReg t e.1 e.2) t := by
  rw [← replyWords_resident hg hr]
  unfold replyLast
  rw [hg, hearly]
  exact congrArg (replyWords s o.gk tid) (List.filter_eq_self.mpr fun _ _ => rfl)

/-- The status and the fault of an end go to the thread, whose counter falls. -/
theorem completed_endEng (hearly : o.early = []) (ht : o.threads = [tid]) (hg : groupOf s o.gk = some g) (hr : g.run ≠ .preempted)
    (r : EngEnd) : Completed s (endEng s o e r) o (o.gk, tid) (withStatus e o.cnt r) := by
  have htid : o.threads.headD 0 = tid := by rw [ht]; rfl
  have he : endEng s o e r = retireOp (modThread s o.gk tid (withStatus e o.cnt r)) o := by
    unfold endEng withStatus
    dsimp only
    rw [htid]
    cases e.reply with
    | none =>
      cases r.fault with
      | none => exact congrArg (retireOp · o) (modThread_id s o.gk tid).symm
      | some f => rfl
    | some d =>
      dsimp only
      rw [replyLast_resident hearly hg hr]
      cases r.fault with
      | none => rfl
      | some f =>
        refine congrArg (retireOp · o) ?_
        exact modThread_modThread (f := fun t => [(d, BitVec.ofNat 32 r.status)].foldl (fun t e => setReg t e.1 e.2) t) fun _ => rfl
  rw [he]
  exact completed_of ht hg hr (withStatus_idx e o.cnt r)

end ends

end Sys2Proof.Machine

namespace Sys2Proof.Claims.EngineOutstanding
open Sys2Proof.Machine

variable {s : State} {id : Nat} {op : Op} {e : EngState} {g : Group} {tid : Nat}

/-- The end of an operation after an effect that left its group resident. -/
theorem completed {j : Option (Nat × Nat)} (h : EngineOutstanding s id op e j g tid) {s2 : State} {g2 : Group}
    (hg : groupOf s2 op.gk = some g2) (hr : g2.run ≠ .preempted) (e' : EngState) (r : EngEnd) :
    Completed s2 (endEng s2 op e' r) op (op.gk, tid) (withStatus e' op.cnt r) := completed_endEng h.early h.threads hg hr r

theorem name_eq {j : Option (Nat × Nat)} (h : EngineOutstanding s id op e j g tid) : op.id = id := by
  have := List.find?_some h.op
  simpa using this

theorem exec_completion (h : EngineOutstanding s id op e none g tid) :
    exec (.engineOperationCompletion id) s = .next (
      let b := readBlock s g (opCtx op g) e
      match b.2.bad with
      | some f => endEng b.1 op b.2 { status := 3, fault := some (engFault b.2 f) }
      | none =>
        if b.2.fn == .allred || b.2.fn == .bcast then arrive b.1 op b.2
        else
          let r := if isRayFn b.2.fn then runRays b.1 g (opCtx op g) b.2 op.id else runData b.1 g (opCtx op g) b.2 op.id
          endEng r.1 op b.2 r.2) := by
  have hj : ¬ e.joined.isSome = true := by rw [h.round]; decide
  show execEngineOperationCompletion id s = _
  unfold execEngineOperationCompletion
  simp only [h.op, h.kind]
  unfold completeEng
  rw [h.group]
  exact congrArg Host.Outcome.next (if_neg hj)

theorem block_group {j : Option (Nat × Nat)} (h : EngineOutstanding s id op e j g tid) :
    groupOf (readBlock s g (opCtx op g) e).1 op.gk = some g := (groupOf_of_kept (readBlock_kept ..) _).trans h.group

/-- The end that the block alone decides, or the function. -/
theorem runs_end (h : EngineOutstanding s id op e none g tid) {s2 : State} {r : EngEnd}
    (hx : exec (.engineOperationCompletion id) s = .next (endEng s2 op (readBlock s g (opCtx op g) e).2 r)) {g2 : Group}
    (hg : groupOf s2 op.gk = some g2) (hr : g2.run ≠ .preempted) :
    Runs (.engineOperationCompletion id) s fun s' =>
      Completed s2 s' op (op.gk, tid) (withStatus (readBlock s g (opCtx op g) e).2 op.cnt r) :=
  ⟨_, hx, h.completed hg hr _ r⟩

end Sys2Proof.Claims.EngineOutstanding

namespace Sys2Proof.Machine
open Sys2Proof.Claims

/-! ## Rounds -/

/-- A collective object after a valid arrival of a rank (R278). -/
def arrivalValue (v rank : Nat) : Nat :=
  if objArrived v + 1 = objP v then setField (setField (setField v 80 16 0) 128 256 0) 96 32 (field v 96 32 + 1)
  else setField (setField v 80 16 (objArrived v + 1)) (128 + rank) 1 1

theorem isJoined_arrivalValue (v : Nat) {rank : Nat} (hr : rank < 256) : IsJoined v (arrivalValue v rank) rank := by
  unfold arrivalValue
  by_cases h : objArrived v + 1 = objP v
  · rw [if_pos h]
    refine ⟨?_, (if_pos h).mpr ⟨?_, fun k hk => ?_, field_setField ..⟩⟩
    · rw [field_setField_other (by decide), field_setField_other (by decide), field_setField_other (by decide)]
    · rw [objArrived, field_setField_other (by decide), field_setField_other (by decide), field_setField, Nat.zero_mod]
    · rw [bitOf_eq, testBit_setField, if_neg (by omega), testBit_setField, if_pos (by omega), Nat.zero_testBit]
  · rw [if_neg h]
    refine ⟨?_, (if_neg h).mpr ⟨?_, fun k hk => ?_, ?_⟩⟩
    · rw [field_setField_other (by omega), field_setField_other (by decide)]
    · rw [objArrived, field_setField_other (by omega), field_setField]
    · rw [bitOf_eq, bitOf_eq, testBit_setField]
      by_cases hk : k = rank
      · subst hk
        rw [if_pos (by omega), Nat.sub_self, decide_eq_true rfl, Bool.or_true]
        rfl
      · rw [if_neg (by omega), testBit_setField, if_neg (by omega), decide_eq_false hk, Bool.or_false]
    · rw [field_setField_other (by omega), field_setField_other (by decide)]

theorem objP_le {fn : EngFn} {v : Nat} (h : objOk fn v = true) : objP v ≤ 256 := by
  unfold objOk at h
  simp only [Bool.and_eq_true, decide_eq_true_eq] at h
  exact h.1.1.1.2

theorem roundMoves_eq (e : EngState) (out : List (Byte × Bool)) :
    ((enumFrom 0 out).map fun b =>
      ({ dst := wrap64 (blockWord e 1 + b.1), src := .val b.2.1 b.2.2, elem := 0 } : EngMove)) = roundMoves e out := by
  have hw : ∀ a b : Nat, wrap64 ((a : Int) + b) = (a + b) % 2 ^ 64 := fun a b => by
    unfold wrap64
    omega
  unfold roundMoves
  simp only [hw]

theorem runPieces_status (s : State) (g : Group) (c : Ctx) (e : EngState) (id space : Nat) (ms : List EngMove) (pre : List FaultInfo)
    (carried : Bool) : let r := runPieces s g c e id space ms pre carried
    r.2.status = 0 ∨ r.2.status = 1 ∨ (r.2.status = 3 ∧ r.2.fault.isSome) := by
  unfold runPieces
  dsimp only
  split
  · exact .inr (.inr ⟨rfl, rfl⟩)
  · split
    · exact .inr (.inr ⟨rfl, rfl⟩)
    · dsimp only
      split
      · exact .inr (.inl rfl)
      · exact .inl rfl

end Sys2Proof.Machine

namespace Sys2Proof.Claims.EngineOutstanding
open Sys2Proof.Machine

variable {s s1 : State} {id : Nat} {op : Op} {e : EngState} {g : Group} {tid : Nat} {p : Piece}

/-- What an arrival at an object that can be read does, by the object's value. -/
theorem arrive_eq {j : Option (Nat × Nat)} (h : EngineOutstanding s id op e j g tid)
    (hb : (readBlock s g (opCtx op g) e).2.bad = none) (hd : dataOk (readBlock s g (opCtx op g) e).2 = true)
    (ho : objectPiece (readBlock s g (opCtx op g) e).1 (opCtx op g) (blockWord (readBlock s g (opCtx op g) e).2 3) = (s1, .ok p)) :
    arrive s op e =
      let b := (readBlock s g (opCtx op g) e).2
      let q := readPieces s1 (opCtx op g) [p]
      let v := leNat q.2.1
      let rank := argLow b
      if objOk b.fn v = false then endEng q.1 op b { status := 4 }
      else if rank ≥ objP v ∨ bitOf v (128 + rank) = true then endEng q.1 op b { status := 2 }
      else
        let s := putEng (writePieces q.1 (opCtx op g) [p] (leBytes (arrivalValue v rank) 64)) op.id { b with joined := some (p.pa, rank) }
        if objArrived v + 1 = objP v then runRound s b.fn p.pa v else s := by
  unfold arrive
  rw [h.group]
  dsimp only
  rw [hb]
  dsimp only
  rw [hd, ho]
  simp only [Bool.not_true, Bool.false_eq_true, if_false, Bool.not_eq_true', Bool.or_eq_true, decide_eq_true_eq, beq_iff_eq]
  rfl

theorem endRound_eq {j : Option (Nat × Nat)}
    (h : EngineOutstanding s id op e j g tid) (rank : Nat) (out : List (Byte × Bool)) :
    endRound out s (rank, op, e) =
      let r := runPieces s g (opCtx op g) e op.id (dstSpace e) (roundMoves e out) [] (out.any fun b => b.2)
      endEng r.1 op e r.2 := by
  unfold Machine.endRound
  dsimp only
  rw [h.group]
  dsimp only
  rw [roundMoves_eq]

end Sys2Proof.Claims.EngineOutstanding

open Sys2Proof Sys2Proof.Machine Sys2Proof.Claims

/-- Settles O35: every end of an operation is one change of its thread, and an arrival follows the object's value as it stands. -/
theorem engineOperationsComplete : Obligations.EngineOperationsComplete := by
  refine ⟨?_, ?_, fun s fn pa obj => ?_, ?_⟩
  · intro s id op e g tid h b done
    have hx := h.exec_completion
    have hfn : b.2.fn = e.fn := readBlock_fn ..
    have hid : op.id = id := h.name_eq
    have hgb := h.block_group
    dsimp only at hx
    rw [hid, hfn] at hx
    refine ⟨cachesOnly_of_kept (readBlock_kept ..), fun f hf => ?_, fun hb hray hall hbc => ?_, fun hb hray => ?_⟩
    · rw [hf] at hx
      refine h.runs_end (hx.trans ?_) hgb h.resident
      dsimp only
      rw [engFault, hfn]
    · have hcoll : ¬ (e.fn == .allred || e.fn == .bcast) = true := by
        rw [Bool.or_eq_true, beq_iff_eq, beq_iff_eq]
        exact fun hc => hc.elim hall hbc
      rw [hb] at hx
      dsimp only at hx
      rw [if_neg hcoll, hray, if_neg (by decide)] at hx
      refine ⟨fun hok => ?_, fun hok hemp => ?_, ?_⟩
      · rw [runData, hok] at hx
        exact h.runs_end hx hgb h.resident
      · rw [runData, hok, hemp] at hx
        exact h.runs_end hx hgb h.resident
      · intro r hr
        obtain ⟨g2, hg2, hr2⟩ := hr
        exact h.runs_end hx hg2 hr2
    · have hcoll : ¬ (e.fn == .allred || e.fn == .bcast) = true := by
        rw [Bool.or_eq_true, beq_iff_eq, beq_iff_eq]
        rintro (hc | hc) <;> rw [hc] at hray <;> exact absurd hray (by decide)
      intro r hr
      obtain ⟨g2, hg2, hr2⟩ := hr
      rw [hb] at hx
      dsimp only at hx
      rw [if_neg hcoll, hray, if_pos rfl] at hx
      exact h.runs_end hx hg2 hr2
  · intro s s1 id op e g tid p h b hb hd ho q v rank
    have hx := h.arrive_eq hb hd ho
    have hfn : e.fn = b.2.fn := (readBlock_fn ..).symm
    rw [hfn]
    refine ⟨fun hok => hx.trans (if_pos hok), fun hok hrank => ?_, fun hok hrank hbit => ?_⟩
    · exact hx.trans ((if_neg (Bool.not_eq_false _ ▸ hok)).trans (if_pos hrank))
    · have hr : ¬ (rank ≥ objP v ∨ bitOf v (128 + rank) = true) := by
        rw [hbit]
        exact fun hc => hc.elim (Nat.not_le.mpr hrank) (by decide)
      have h256 : rank < 256 := Nat.lt_of_lt_of_le hrank (objP_le hok)
      exact ⟨_, isJoined_arrivalValue v h256, hx.trans ((if_neg (Bool.not_eq_false _ ▸ hok)).trans (if_neg hr))⟩
  · intro ops r
    have hread : sourcesOf (objLen obj) (roundReads fn obj ops) s = r := rfl
    unfold roundReads at hread
    refine ⟨fun srcs hr => ?_, fun f hr => ?_⟩
    · have hr' : r = (r.1, .ok srcs) := Prod.ext rfl hr
      rw [hr'] at hread
      unfold runRound
      dsimp only
      rw [hread]
    · have hr' : r = (r.1, .error f) := Prod.ext rfl hr
      rw [hr'] at hread
      unfold runRound
      dsimp only
      rw [hread]
  · intro s id pa rank op e g tid h
    refine ⟨fun out => ?_, fun r => h.completed h.group h.resident e r⟩
    intro r
    refine ⟨runPieces_status .., fun ⟨g2, hg2, hr2⟩ => ?_⟩
    rw [h.endRound_eq]
    exact h.completed hg2 hr2 e _
end

section
/-! SUPPORT. The end of an instruction for every member of its issue group, and the issue of matrix commands (R181 to R191). -/
namespace Sys2Proof.Machine
open Sys2Proof.Claims

/-! ## Every member goes on -/

theorem shiftZero_touched {s1 : State} {i : Issue} {rest : List Issue} (hi : s1.issues = i :: rest) (hn : i.members.Nodup) :
    Touched s1 (shiftZero s1) i.members fun _ t => shiftLatch t 0 := by
  rw [shiftZero_eq hi]
  exact modThread_foldl (h := fun _ t => shiftLatch t 0) (fun _ _ => rfl) hn s1

theorem allPast_of {s1 : State} {i : Issue} {rest : List Issue} (hi : s1.issues = i :: rest) (hn : i.members.Nodup)
    (he : i.members ≠ []) (w : Nat) : AllPast s1 (finishInstr (shiftZero s1) w []) i rest w := by
  obtain ⟨zm, zo, zg, zf⟩ := shiftZero_touched hi hn
  generalize shiftZero s1 = s2 at *
  have hi2 : s2.issues = i :: rest := by rw [zf]; exact hi
  obtain ⟨am, ao, ag, ai, af⟩ := advance_spec hi2 hn he w
  rw [finishInstr]
  simp only [List.map_nil, List.isEmpty_nil, if_true]
  refine ⟨fun m hm t ht => am m hm _ (by rw [zm m hm, ht]; rfl), fun n hn => (ao n hn).trans (zo n hn), fun gk g hg => ?_, ai, ?_⟩
  · obtain ⟨ts, h1⟩ := zg gk g hg
    obtain ⟨ts', h2⟩ := ag gk _ h1
    exact ⟨ts', h2⟩
  · rw [af, zf]

/-! ## Release of a whole group -/

theorem releaseGroup_kept {s : State} {gk : Nat} (h : ∀ x ∈ s.ops, x.gk ≠ gk) : kept (releaseGroup s gk) = kept s := by
  have hstep : ∀ o ∈ s.ops, ∀ x : State, (if isAccess o && (o.gk == gk) && !(windowFull x o) then performOp x o else x) = x := by
    intro o ho x
    refine if_neg ?_
    simp [h o ho]
  have hall : performAll s (fun o => o.gk == gk) = s := by
    unfold performAll
    generalize s.ops = l at hstep
    suffices ∀ x : State, l.foldl (fun s o => if isAccess o && (o.gk == gk) && !(windowFull s o) then performOp s o else s) x = x from
      this s
    induction l with
    | nil => exact fun _ => rfl
    | cons o l ih =>
      intro x
      rw [List.foldl_cons, hstep o (by simp) x]
      exact ih (fun o ho => hstep o (by simp [ho])) x
  unfold releaseGroup
  split
  · rfl
  · rw [drainCore_kept, hall]

/-! ## Issue -/

section issue
variable {s : State} {i : Issue} {rest : List Issue} {g : Group} {o : MatOp} {instr : Instr} {plan : List MHeader → MatPlan}
  {claim : State → Group → Option Nat × List MHeader → Option Nat × List MHeader}

/-- A live thread is charged with the command (R70, R181). -/
def chargeLive (wait : BitVec 3) (t : Thread) : Thread := if isLive t then charged wait t else t

theorem chargeLive_idx (wait : BitVec 3) (t : Thread) : (chargeLive wait t).idx = t.idx := by
  unfold chargeLive
  split
  · exact charged_idx wait t rfl
  · rfl

/-- The state in which a command has entered the queue of its core and the headers follow. -/
def withCommand (s1 : State) (g : Group) (wait : BitVec 3) (cmd : MCmd) (hs : List MHeader) : State :=
  modGroup (modCore (modGroup s1 g.gk fun x => { x with threads := x.threads.map (chargeLive wait) }) g.core fun c =>
    { c with mqueue := c.mqueue ++ [cmd] }) g.gk fun x => { x with ihdrs := hs }

theorem enqueueCommand_eq (s : State) (g : Group) (o : MatOp) (cmd : MCmd) : enqueueCommand s g o cmd =
    modCore (modGroup (releaseGroup s g.gk) g.gk fun x => { x with threads := x.threads.map (chargeLive o.wait) }) g.core fun c =>
      { c with mqueue := c.mqueue ++ [cmd] } := by
  have hc : (fun t : Thread => if !(isLive t) then t
      else if o.wait.toNat < 6 then { t with w := t.w.set o.wait.toNat (t.w.getD o.wait.toNat 0 + 1) }
      else { t with pw := t.pw + 1 }) = chargeLive o.wait := by
    funext t
    unfold chargeLive charged
    cases isLive t <;> rfl
  rw [← hc]
  rfl

theorem issueMatrix_done (hc : Converged s i rest g) (hr : MatrixReady s o g) (hf : issueFault g o (plan g.ihdrs) = none)
    {at' : Option Nat} {hs : List MHeader} (hcl : claim s g (none, headersAfter g o (plan g.ihdrs)) = (at', hs)) :
    issueMatrix o instr plan claim s g =
      .done (withCommand (releaseGroup s g.gk) g o.wait { commandOf g instr o (plan g.ihdrs) with claim := at' } hs) := by
  have hheld : ((commandsOf s g).any fun m => m.hold) = false := by
    rw [List.any_eq_false]
    intro m hm
    have := List.all_eq_true.mp hr.held m hm
    simpa using this
  unfold issueMatrix
  rw [viewOf_fresh hc.head.issues hc.fresh]
  dsimp only
  rw [hheld, if_neg (by decide), hr.mover]
  dsimp only
  rw [hr.room, if_neg (by decide), hf]
  dsimp only
  rw [hcl]
  dsimp only
  rw [enqueueCommand_eq]
  rfl

/-- What the queue, the threads and the headers are once every member has gone on. -/
theorem matrixIssued_of {s1 : State} (hc : Converged s i rest g) (hi : s1.issues = i :: rest) (wait : BitVec 3) (cmd : MCmd)
    (hs : List MHeader) :
    MatrixIssued s1 (finishInstr (shiftZero (withCommand s1 g wait cmd hs)) 2 []) i rest g wait cmd hs := by
  obtain ⟨pm, po, pg, pi, pf⟩ := allPast_of (s1 := withCommand s1 g wait cmd hs) hi hc.head.nodup hc.head.nonempty 2
  have hgk : ∀ gk, groupOf (withCommand s1 g wait cmd hs) gk = (groupOf s1 gk).map fun x =>
      if gk = g.gk then { x with threads := x.threads.map (chargeLive wait), ihdrs := hs } else x := by
    intro gk
    have hcore : groupOf (modCore (modGroup s1 g.gk fun x => { x with threads := x.threads.map (chargeLive wait) }) g.core fun c =>
        { c with mqueue := c.mqueue ++ [cmd] }) gk = groupOf (modGroup s1 g.gk fun x => { x with threads := x.threads.map (chargeLive wait) }) gk := rfl
    unfold withCommand
    by_cases h : gk = g.gk
    · subst h
      rw [groupOf_modGroup (f := fun x : Group => { x with ihdrs := hs }) fun _ => rfl, hcore,
        groupOf_modGroup (f := fun x : Group => { x with threads := x.threads.map (chargeLive wait) }) fun _ => rfl, Option.map_map]
      simp only [if_true]
      rfl
    · rw [groupOf_modGroup_other (f := fun x : Group => { x with ihdrs := hs }) (fun _ => rfl) h, hcore,
        groupOf_modGroup_other (f := fun x : Group => { x with threads := x.threads.map (chargeLive wait) }) (fun _ => rfl) h]
      simp only [if_neg h, Option.map_id']
  have hth : ∀ n, threadAt (withCommand s1 g wait cmd hs) n = if n.1 = g.gk then (threadAt s1 n).map (chargeLive wait) else threadAt s1 n := by
    intro n
    rw [threadAt, hgk, threadAt]
    cases groupOf s1 n.1 with
    | none => simp
    | some x =>
      rw [Option.map_some, Option.bind_some, Option.bind_some]
      by_cases h : n.1 = g.gk
      · rw [if_pos h, if_pos h]
        exact threadOf_map (chargeLive_idx wait) x n.2
      · rw [if_neg h, if_neg h]
  refine ⟨?_, fun m hm t ht hl => ?_, fun n hn => ?_, fun gk x hx => ?_, pi, ?_⟩
  · rw [pf]
    rfl
  · obtain ⟨t', ht', ha⟩ := pm m hm (charged wait t) (by
      rw [hth, if_pos (hc.member_gk hm), ht, Option.map_some, chargeLive, if_pos (isLive_iff.mpr hl)])
    exact ⟨t', ht', ha⟩
  · rw [po n fun hm => hn (hc.member_gk hm), hth, if_neg hn]
  · obtain ⟨ts, hts⟩ := pg gk _ (by rw [hgk, hx, Option.map_some])
    refine ⟨ts, hts.trans ?_⟩
    split <;> rfl
  · rw [pf]
    rfl

theorem runs_matrix (hx : exec instr s = .next (runMatrix s o instr plan claim)) (hc : Converged s i rest g) (hr : MatrixReady s o g)
    (hi : (releaseGroup s g.gk).issues = s.issues) (hf : issueFault g o (plan g.ihdrs) = none) {at' : Option Nat} {hs : List MHeader}
    (hcl : claim s g (none, headersAfter g o (plan g.ihdrs)) = (at', hs)) :
    Runs instr s fun s' => MatrixIssued (releaseGroup s g.gk) s' i rest g o.wait
      { commandOf g instr o (plan g.ihdrs) with claim := at' } hs := by
  refine ⟨_, hx, ?_⟩
  rw [runMatrix, hc.runConv_done (issueMatrix_done hc hr hf hcl) hi, pastTwo]
  exact matrixIssued_of hc (hi.trans hc.head.issues) ..

end issue

theorem exec_matrixForms : ∀ e ∈ matrixForms, ∀ (o : MatOp) (s : State), exec (e.1 o) s = .next (runMatrix s o (e.1 o) (e.2 o)) := by
  unfold matrixForms matrixHeaderForms matrixMoveForms matrixAlgebraForms
  simp only [List.forall_mem_append, List.forall_mem_cons, List.not_mem_nil, false_imp_iff, implies_true, and_true]
  and_intros <;> exact fun _ _ => rfl

theorem claimNow_free {s : State} {g : Group} {o : MatOp} (h : (hdrAt g.ihdrs o.md).scount = 0) {b : Nat}
    (hb : claimBase s g.core o.imm.toNat = some b) (hs : List MHeader) :
    claimNow o s g (none, hs) = (some b, hs.set o.md.toNat
      { withRank 0 (hdrAt g.ihdrs o.md) with sbase := BitVec.ofNat 8 b, scount := BitVec.ofNat 9 o.imm.toNat }) := by
  unfold claimNow
  dsimp only
  rw [if_neg (by simp [h]), hb]

theorem claimNow_none {s : State} {g : Group} {o : MatOp} (h : (hdrAt g.ihdrs o.md).scount ≠ 0 ∨ claimBase s g.core o.imm.toNat = none)
    (hs : List MHeader) : claimNow o s g (none, hs) = (none, hs) := by
  unfold claimNow
  dsimp only
  split
  · rfl
  · next hsc =>
    rcases h with h | h
    · exact absurd (bne_iff_ne.mpr h) hsc
    · rw [h]

end Sys2Proof.Machine

open Sys2Proof Sys2Proof.Machine Sys2Proof.Claims

/-- Settles O36: the plan meets no fault, so the command enters the queue after the release and every member goes on. -/
theorem matrixCommandsIssue : Obligations.MatrixCommandsIssue := by
  intro o s i rest g hc _ hr s1 hrel
  have hi : s1.issues = s.issues := hrel.elim (fun h => issues_of_kept (releaseGroup_kept h)) id
  refine ⟨?_, ?_⟩
  · intro e he p hf
    exact runs_matrix (exec_matrixForms e he o s) hc hr hi hf rfl
  · intro p h hf
    refine ⟨fun h0 b hb => ?_, fun h0 => ?_⟩
    · exact runs_matrix (plan := fun _ => p) (claim := claimNow o) rfl hc hr hi hf (claimNow_free h0 hb _)
    · exact runs_matrix (plan := fun _ => p) (claim := claimNow o) rfl hc hr hi hf (claimNow_none h0 _)
end

section
/-! SUPPORT. A state against the start of a matrix command (R182, R413): beside the group whose command is next there is one that failed
while it was pre-empted, and the commands that it kept enter the queue first. -/
namespace Sys2Proof.Machine.KeptCommands
open Sys2Proof.Claims

def held : MCmd := { gk := 0, instr := .nop, cnt := 7, threads := [], hold := true }
def running : Group := { gk := 0, grid := 0, gid := 0, record := {}, kd := {}, core := 0, threads := [] }
def failed : Group := { running with gk := 1, run := .exited, saved := [{ held with gk := 1 }] }
def state : State := { State.reset with groups := [running, failed], cores := [(0, { mqueue := [held] })] }

/-- Commands that group 1 keeps. -/
def keptCount (s : State) : Nat := ((groupOf s 1).map fun g => g.saved.length).getD 0

/-- The same in what an event answers. -/
def keptAfter (r : Res) : Option Nat :=
  match r with
  | .next s => some (keptCount s)
  | _ => none

theorem kept_enter : keptAfter (exec (.matrixCommandStart 0) state) = some 0 := by decide +kernel

/-- The state of the statement's clause for a recompression. -/
def claimed : State := modCore (started state 0 0 held) 0 fun c => { c with mrun := some { held with fault := none } }

theorem kept_claimed : keptCount claimed = 1 := by decide +kernel

theorem starts : Starts state 0 0 held running := ⟨by decide +kernel, by decide +kernel, by decide +kernel, rfl⟩

end Sys2Proof.Machine.KeptCommands

open Sys2Proof Sys2Proof.Machine Sys2Proof.Claims

/-- Refutes O37: nothing in the statement excludes a failed group that still keeps commands, and these enter the queue before the next one
starts (`KeptCommands.state`). -/
theorem not_matrixCommandsActAndComplete : ¬ Obligations.MatrixCommandsActAndComplete := by
  intro h
  obtain ⟨-, hhold, -, -⟩ := h.1 KeptCommands.state 0 0 KeptCommands.held KeptCommands.running KeptCommands.starts
  have hx : exec (.matrixCommandStart 0) KeptCommands.state = .next KeptCommands.claimed := hhold rfl
  have hk := KeptCommands.kept_enter
  rw [hx, KeptCommands.keptAfter, KeptCommands.kept_claimed] at hk
  exact absurd hk (by decide)
end

section
/-! SUPPORT. Decks and landings: what queueing a record leaves as it is (R283, R284), and what a task's own quantities are (R317, R334). -/
namespace Sys2Proof.Machine
open Sys2Proof.Claims

/-! ## Queueing a record -/

/-- What of a state neither an access to memory nor the queueing of a record changes: all that is kept, but for clusters and names. -/
def beyondDecks (s : State) : State × (Nat → Mem × Mem × Mem) := kept { s with clusters := [], names := 0 }

theorem beyondDecks_of_kept {s s' : State} (h : kept s' = kept s) : beyondDecks s' = beyondDecks s := by
  obtain ⟨h1, h2⟩ := Prod.mk.inj h
  exact congrArg₂ Prod.mk (congrArg (fun k : State => { k with clusters := [], names := 0 }) h1) h2

@[simp] theorem modCluster_beyondDecks (s : State) (g : Nat) (f : Cluster → Cluster) :
    beyondDecks (modCluster s g f) = beyondDecks s := rfl
@[simp] theorem setDeck_beyondDecks (s : State) (g cls : Nat) (l : List DeckEntry) : beyondDecks (setDeck s g cls l) = beyondDecks s := rfl
@[simp] theorem setLanding_beyondDecks (s : State) (g cls : Nat) (l : List (Nat × DeckEntry)) :
    beyondDecks (setLanding s g cls l) = beyondDecks s := rfl
@[simp] theorem setWaiting_beyondDecks (s : State) (g cls : Nat) (l : List DeckEntry) :
    beyondDecks (setWaiting s g cls l) = beyondDecks s := rfl
@[simp] theorem fresh_beyondDecks (s : State) : beyondDecks (fresh s).1 = beyondDecks s := rfl
@[simp] theorem hwWrite_beyondDecks (s : State) (part : Nat) (sec : Bool) (va : Nat) (bs : List Byte) :
    beyondDecks (hwWrite s part sec va bs).1 = beyondDecks s := beyondDecks_of_kept (hwWrite_kept ..)
@[simp] theorem recordEvent_beyondDecks (s : State) (part : Nat) (f : Option FaultInfo) :
    beyondDecks (recordEvent s part f) = beyondDecks s := beyondDecks_of_kept (recordEvent_kept ..)

theorem foldl_beyondDecks {α : Type} {f : State → α → State} (hf : ∀ s x, beyondDecks (f s x) = beyondDecks s) (l : List α) (s : State) :
    beyondDecks (l.foldl f s) = beyondDecks s := by
  induction l generalizing s with
  | nil => rfl
  | cons x l ih => rw [List.foldl_cons, ih, hf]

theorem noteWhere_kept (s : State) (e : DeckEntry) (cluster : Nat) (inland : Bool) (slot : Nat) :
    kept (noteWhere s e cluster inland slot) = kept s := by
  unfold noteWhere
  split
  · rfl
  · exact entryUpdate_kept ..

@[simp] theorem noteWhere_beyondDecks (s : State) (e : DeckEntry) (cluster : Nat) (inland : Bool) (slot : Nat) :
    beyondDecks (noteWhere s e cluster inland slot) = beyondDecks s := beyondDecks_of_kept (noteWhere_kept ..)

@[simp] theorem pushLanding_beyondDecks (part g cls : Nat) (s : State) (e : DeckEntry) :
    beyondDecks (pushLanding part g cls s e) = beyondDecks s := by
  unfold pushLanding
  dsimp only
  split <;> simp only [recordEvent_beyondDecks, noteWhere_beyondDecks, setLanding_beyondDecks, modCluster_beyondDecks, hwWrite_beyondDecks]

@[simp] theorem pushDeck_beyondDecks (part g cls : Nat) (s : State) (e : DeckEntry) :
    beyondDecks (pushDeck part g cls s e) = beyondDecks s := by
  unfold pushDeck
  dsimp only
  split
  · simp only [foldl_beyondDecks (pushLanding_beyondDecks part g cls), setDeck_beyondDecks, noteWhere_beyondDecks]
  · simp only [setDeck_beyondDecks, noteWhere_beyondDecks]

@[simp] theorem enqueueEntry_beyondDecks (part g cls : Nat) (s : State) (e : DeckEntry) :
    beyondDecks (enqueueEntry part g cls s e) = beyondDecks s := by
  unfold enqueueEntry
  dsimp only
  split
  · rw [pushDeck_beyondDecks, fresh_beyondDecks]
  · split
    · rw [setWaiting_beyondDecks, fresh_beyondDecks]
    · rw [pushLanding_beyondDecks, fresh_beyondDecks]

section
variable {s s' : State}
theorem groups_of_beyondDecks (h : beyondDecks s' = beyondDecks s) : s'.groups = s.groups := congrArg (fun k => k.1.groups) h
theorem issues_of_beyondDecks (h : beyondDecks s' = beyondDecks s) : s'.issues = s.issues := congrArg (fun k => k.1.issues) h
theorem grids_of_beyondDecks (h : beyondDecks s' = beyondDecks s) : s'.grids = s.grids := congrArg (fun k => k.1.grids) h
end

/-! ## Accepting a record (R289, R296) -/

/-- The task-table entry of a record is free to record its grid (R302). -/
def entryTakes (e : Option Nat) : Bool :=
  match e with
  | some e => entryState e == 0 || entryState e == 4 || entryState e == 5
  | none => false

/-- The grid of a record as it is accepted: all of its groups are to come (R289). -/
def acceptedGrid (s : State) (r : TaskRecord) (parent cluster : Nat) (host : Bool) (slot : Option (Nat × Nat)) : Grid :=
  { id := s.names, record := r, gfirst0 := r.gfirst, total := r.gcount, parent := parent, hostLaunched := host, cluster := cluster
    recorded := entryTakes (readEntry (fresh s).1 r.part r.taskid).2, remain := r.gcount, paySlot := slot }

theorem beyondDecks_grids {s s' : State} (h : beyondDecks s' = beyondDecks s) (l : List Grid) :
    beyondDecks { s' with grids := l } = beyondDecks { s with grids := l } := by
  obtain ⟨h1, h2⟩ := Prod.mk.inj h
  exact congrArg₂ Prod.mk (congrArg (fun k : State => { k with grids := l }) h1) h2

/-- Accepting a record adds its grid; all else that changes is memory, caches, clusters and names. -/
theorem acceptRecord_beyondDecks (s : State) (r : TaskRecord) (parent cluster : Nat) (host : Bool) (info : GfxInfo)
    (slot : Option (Nat × Nat)) : beyondDecks (acceptRecord s r parent cluster host info slot) =
      beyondDecks { s with grids := s.grids ++ [acceptedGrid s r parent cluster host slot] } := by
  have hr := readEntry_kept (fresh s).1 r.part r.taskid
  have hg : (readEntry (fresh s).1 r.part r.taskid).1.grids = s.grids := (grids_of_kept hr).trans rfl
  unfold acceptRecord
  rw [foldl_beyondDecks fun s e => enqueueEntry_beyondDecks .., recordEvent_beyondDecks, hwWrite_beyondDecks,
    beyondDecks_of_kept (entryUpdate_kept ..), hg]
  exact beyondDecks_grids ((beyondDecks_of_kept hr).trans (fresh_beyondDecks s)) _

/-! ## Instructions that issue for their threads one by one (R317) -/

section alone
variable {s s1 : State} {i : Issue} {rest : List Issue} {m : Nat × Nat} {g : Group} {t : Thread}

/-- An instruction that is not held and whose effect on the one member is s1. -/
theorem runPartly_past {gd : Guard} {held : State → Group → Thread → Bool} {f : State → Group → Thread → State × Option FaultInfo}
    (ha : Alone s i rest m g t) (hu : Unbegun i) (hg : guardTrue t gd = true) (hh : held s g t = false) (hf : f s g t = (s1, none))
    (hi : s1.issues = i :: rest) : Past s1 (runPartly s gd held f) i rest m 2 := by
  have hstep : partStep gd held f (s, [], []) m = (modThread s1 m.1 m.2 fun t => shiftLatch t 0, [m], []) := by
    unfold partStep
    simp only [ha.member]
    rw [hg, hh, hf]
    rfl
  have hrun : runPartly s gd held f = finishInstr (modThread s1 m.1 m.2 fun t => shiftLatch t 0) 2 [] := by
    unfold runPartly
    simp only [ha.issues, ha.members, hu.1, hu.2, List.contains_nil, Bool.not_false, List.filter_true, List.foldl_cons,
      List.foldl_nil, hstep, List.map_nil, List.append_nil, List.length_cons, List.length_nil, if_pos]
  rw [hrun]
  exact past_of hi ha.members 2

/-! ## spawn (R317) -/

/-- The frame record with one more child (R317). -/
def withChild (v : Nat) : Nat := setField (setField v 32 32 (field v 32 32 + 1)) 0 32 (field v 0 32 + 1)

theorem withChild_pending (v : Nat) : field (withChild v) 0 32 = (field v 0 32 + 1) % 2 ^ 32 := field_setField ..

theorem withChild_children (v : Nat) : field (withChild v) 32 32 = (field v 32 32 + 1) % 2 ^ 32 := by
  rw [withChild, field_setField_other (by decide), field_setField]

theorem withChild_outside (v : Nat) : SameOutside v (withChild v) [(0, 64)] := by
  intro k hk
  have h := hk _ (List.mem_singleton_self _)
  simp only [Nat.not_lt_zero, false_or] at h
  rw [withChild, testBit_setField, if_neg (by omega), testBit_setField, if_neg (by omega)]

theorem spawnRecord_eq {v fr : Nat} {o : TaskOp} {farr : Nat} (hf : farr < 2 ^ 57) (g : Group) (t : Thread) :
    spawnRecord v o g t farr (field fr 32 32) (field fr 160 4) =
      { parseRecord v with
        arg := ((affOf g o.as.toNat).base + (affOf g o.as.toNat).stride.signExtend 64 * BitVec.ofNat 64 t.idx).toNat % 2 ^ 57
        farr := farr % 2 ^ 57, depth := field fr 160 4 + 1, part := g.record.part, world := g.record.world
        prec := 0, carry := 0, variant := 0
        taskid := if o.tx.getLsbD 0 then ((parseRecord v).taskid + field fr 32 32) % 2 ^ 32 else (parseRecord v).taskid } := by
  rw [spawnRecord, decide_eq_false (not_le.mpr hf), Bool.or_false]
  rfl

theorem spawnThread_eq {o : TaskOp} {r1 r2 : State} {farr : DWord} {v fr : Nat} {r : TaskRecord}
    (hb : readSrc64 .int g t o.b = .ok farr) (ht : readObject s g t o 64 .r = (r1, .ok v)) (hfr : frameRead r1 g = (r2, some fr))
    (hd : field fr 160 4 < 10) (hr : spawnRecord v o g t farr.toNat (field fr 32 32) (field fr 160 4) = r)
    (hv : recordValid r g.record.part = true) :
    spawnThread o s g t =
      (let s3 := acceptRecord (frameUpdate (releaseThread r2 g.gk t.idx) g withChild) r g.frame (clusterOfGroup g) false .none none
       if o.tx.getLsbD 1 then modThread s3 g.gk t.idx fun t => setReg t o.d.toNat (BitVec.ofNat 32 r.taskid) else s3, none) := by
  unfold spawnThread
  simp only [hb, ht, hfr, hr, hv, if_neg (not_le.mpr hd)]
  rfl

/-! ## tself (R334) -/

theorem tselfValue_free (h : g.record.det = false) : tselfValue s g 5 = (s, some 0) := by
  simp [tselfValue, h]

theorem tselfValue_committed {gr : Grid} {bs : List Byte} (h : g.record.det = true) (hgr : gridOf s g.grid = some gr)
    (hb : hwRead s g.record.part g.record.world gr.record.farr 64 = (s1, .ok bs)) :
    tselfValue s g 5 = (s1, some (field (leNat bs) 326 16)) := by
  simp [tselfValue, h, hgr, hb]

theorem runs_tself {o : TaskOp} (ha : Alone s i rest m g t) (hg : guardTrue t o.g = true) {v : Nat}
    (hv : tselfValue s g (o.tx.toNat % 8) = (s1, some v)) (hi : s1.issues = s.issues) :
    Runs (.tself o) s fun s' => Past (modThread s1 m.1 m.2 fun t => setReg t o.d.toNat (BitVec.ofNat 32 v)) s' i rest m 2 := by
  have hgk := memberOf_gk ha.member
  have hidx := memberOf_idx ha.member
  refine runs_past (f := tselfThread o) rfl ha hg ?_ (hi.trans ha.issues)
  rw [tselfThread, hv, hgk, hidx]

end alone

end Sys2Proof.Machine

open Sys2Proof Sys2Proof.Machine Sys2Proof.Claims

/-- Settles O38: the child's record is the template with the fields of R317 set, and its grid is the only one added. -/
theorem spawnAndSelfResults : Obligations.SpawnAndSelfResults := by
  refine ⟨?_, ?_⟩
  · intro o s i rest m g t ha hu hg hh template frame farr v fr hb hfarr hv hfr hd
    have hgk := memberOf_gk ha.member
    have hidx := memberOf_idx ha.member
    refine ⟨_, spawnRecord_eq (v := v) (fr := fr) (o := o) hfarr g t, fun hvalid =>
      ⟨withChild, fun x => ⟨withChild_pending x, withChild_children x, withChild_outside x⟩, ?_, fun hi => ?_⟩⟩
    · exact ⟨_, grids_of_beyondDecks (acceptRecord_beyondDecks ..), rfl, rfl, rfl, rfl⟩
    · refine ⟨_, rfl, runPartly_past ha hu hg hh ?_ (hi.trans ha.issues)⟩
      rw [spawnThread_eq hb (Prod.ext rfl hv) (Prod.ext rfl hfr) hd rfl hvalid, hgk, hidx]
      rfl
  · intro o s i rest m g t ha hg puts sel
    refine ⟨fun h0 hi => runs_tself ha hg (by rw [show o.tx.toNat % 8 = 0 from h0]; rfl) hi,
      fun h3 hi => runs_tself ha hg (by rw [show o.tx.toNat % 8 = 3 from h3]; rfl) hi, ?_, ?_, ?_, ?_⟩
    · intro h4 hi
      refine runs_tself ha hg ?_ hi
      rw [show o.tx.toNat % 8 = 4 from h4, tselfValue]
      cases g.adopt <;> rfl
    · intro h5 hdet hi
      refine runs_tself ha hg ?_ hi
      rw [show o.tx.toNat % 8 = 5 from h5]
      exact tselfValue_free hdet
    · intro frame fr hfr
      have hframe : frameRead s g = (frame.1, some fr) := Prod.ext rfl hfr
      refine ⟨fun h1 hi => runs_tself ha hg ?_ hi, fun h2 hi => runs_tself ha hg ?_ hi⟩
      · rw [show o.tx.toNat % 8 = 1 from h1, tselfValue, hframe]
        rfl
      · rw [show o.tx.toNat % 8 = 2 from h2, tselfValue, hframe]
        rfl
    · intro gr h5 hdet hgr b bs hb hi
      have hread : hwRead s g.record.part g.record.world gr.record.farr 64 = (b.1, .ok bs) := Prod.ext rfl hb
      refine runs_tself ha hg ?_ hi
      rw [show o.tx.toNat % 8 = 5 from h5]
      exact tselfValue_committed hdet hgr hread
end

section
/-! SUPPORT. The end of a phase (R39, R40), and group-scope instructions (R313): what a group alone in its issue group does. -/
namespace Sys2Proof.Machine
open Sys2Proof.Claims

/-! ## The end of a phase -/

/-- A group as the end of its phase leaves it (R39, R40, R43). -/
def parkGroup (rpc hdr : DWord) (n : Nat) (g : Group) : Group :=
  { g with
    run := .parked, adopt := none, wait := none, hdrBase := if holdsPinned g then g.hdrBase else none, record := contRecord g n
    barriers := [0, 0, 0, 0], patterns := [], threads := g.threads.map (parkThread rpc hdr) }

theorem parkThread_status (rpc hdr : DWord) (t : Thread) :
    (parkThread rpc hdr t).status = .ready ∨ (parkThread rpc hdr t).status = .exited := by
  by_cases h : t.status = .exited
  · exact .inr (if_pos h)
  · exact .inl (if_neg h)

section
variable {s : State} {gk : Nat} {g : Group} {rpc hdr : DWord} {n wobj : Nat}

/-- The state in which a group has left its issue groups and parked, its phase record written. -/
def phaseState (s : State) (gk : Nat) (g : Group) (rpc hdr : DWord) (n wobj : Nat) : State :=
  modGroup (dropMembers (hwWrite (releaseGroup s gk) g.record.part g.record.world (phaseRecordVa g) (phaseRecord g rpc n wobj)).1
    fun m => m.1 == gk) gk (parkGroup rpc hdr n)

theorem endPhase_kept (hg : groupOf (releaseGroup s gk) gk = some g)
    (hw : (hwWrite (releaseGroup s gk) g.record.part g.record.world (phaseRecordVa g) (phaseRecord g rpc n wobj)).2 = none) :
    kept (endPhase s gk rpc hdr n wobj) = kept (phaseState s gk g rpc hdr n wobj) := by
  have hpair : hwWrite (releaseGroup s gk) g.record.part g.record.world (phaseRecordVa g) (phaseRecord g rpc n wobj) =
      ((hwWrite (releaseGroup s gk) g.record.part g.record.world (phaseRecordVa g) (phaseRecord g rpc n wobj)).1, none) :=
    Prod.ext rfl hw
  unfold endPhase
  simp only [hg]
  rw [hpair]
  dsimp only
  split
  · rfl
  · exact entryUpdate_kept ..

theorem phaseState_group (hg : groupOf (releaseGroup s gk) gk = some g) :
    groupOf (phaseState s gk g rpc hdr n wobj) gk = some (parkGroup rpc hdr n g) := by
  have h : groupOf (hwWrite (releaseGroup s gk) g.record.part g.record.world (phaseRecordVa g) (phaseRecord g rpc n wobj)).1 gk =
      some g := (groupOf_of_kept (hwWrite_kept ..) gk).trans hg
  rw [phaseState, groupOf_modGroup (f := parkGroup rpc hdr n) fun _ => rfl]
  exact congrArg (Option.map (parkGroup rpc hdr n)) h

theorem endPhase_group (hg : groupOf (releaseGroup s gk) gk = some g)
    (hw : (hwWrite (releaseGroup s gk) g.record.part g.record.world (phaseRecordVa g) (phaseRecord g rpc n wobj)).2 = none) :
    groupOf (endPhase s gk rpc hdr n wobj) gk = some (parkGroup rpc hdr n g) :=
  (groupOf_of_kept (endPhase_kept hg hw) gk).trans (phaseState_group hg)

/-- The group is in no issue group any more, and no issue group is empty. -/
theorem endPhase_issues (hg : groupOf (releaseGroup s gk) gk = some g)
    (hw : (hwWrite (releaseGroup s gk) g.record.part g.record.world (phaseRecordVa g) (phaseRecord g rpc n wobj)).2 = none) :
    ∀ i ∈ (endPhase s gk rpc hdr n wobj).issues, i.members ≠ [] ∧ ∀ m ∈ i.members, m.1 ≠ gk := by
  rw [issues_of_kept (endPhase_kept hg hw)]
  intro i hi
  have hi' : i ∈ (dropMembers (hwWrite (releaseGroup s gk) g.record.part g.record.world (phaseRecordVa g)
      (phaseRecord g rpc n wobj)).1 fun m => m.1 == gk).issues := hi
  refine ⟨?_, fun m hm => by simpa using mem_dropMembers hi' hm⟩
  have h := (List.mem_filter.mp hi').2
  simpa using h

theorem phaseEnded_of (hg : groupOf (releaseGroup s gk) gk = some g)
    (hw : (hwWrite (releaseGroup s gk) g.record.part g.record.world (phaseRecordVa g) (phaseRecord g rpc n wobj)).2 = none) :
    PhaseEnded (endPhase s gk rpc hdr n wobj) g rpc n := by
  have hgk : g.gk = gk := groupOf_gk hg
  subst hgk
  refine ⟨⟨_, endPhase_group hg hw, rfl, rfl, rfl, rfl, rfl, rfl, rfl, List.length_map .., fun t ht => ?_⟩,
    fun i hi => (endPhase_issues hg hw i hi).2⟩
  obtain ⟨x, -, rfl⟩ := List.mem_map.mp ht
  exact ⟨rfl, rfl, parkThread_status rpc hdr x⟩

end

/-- Enqueueing a continuation leaves the issue groups as they are. -/
theorem enqueueCont_issues (s : State) (gk : Nat) : (enqueueCont s gk).issues = s.issues := by
  unfold enqueueCont
  split
  · rfl
  · dsimp only
    rw [issues_of_beyondDecks (enqueueEntry_beyondDecks ..)]
    rfl

/-- A step ended and the continuation enqueued leave the issue groups as they are. -/
theorem continueNow_issues (s : State) (g : Group) : (continueNow s g).issues = s.issues := by
  rw [continueNow, enqueueCont_issues]
  rfl

end Sys2Proof.Machine

/-! ## Group-scope instructions -/

namespace Sys2Proof.Claims.Performs
open Sys2Proof.Machine

variable {s s1 : State} {i : Issue} {rest : List Issue} {g : Group} {gd : Guard} {t0 : Thread} {ts : List Thread}
  {f : State → Group → List Thread → GroupOut}
variable (hp : Performs s i rest g gd t0 ts)
include hp

theorem waitsDone_all : (liveThreads g).all waitsDone = true := by
  rw [List.all_eq_true]
  intro t ht
  obtain ⟨htg, hl⟩ := mem_liveThreads.mp ht
  rw [waitsDone, List.all_eq_true]
  intro n hn
  exact beq_iff_eq.mpr ((hp.waits t htg hl).1 n hn)

theorem none_late : deferredAmong s ((headThreads s g.gk).map fun t => (g.gk, t)) (fun _ => true) = [] := by
  rw [deferredAmong, List.filterMap_eq_nil_iff]
  intro m hm
  obtain ⟨k, hk, rfl⟩ := List.mem_map.mp hm
  rw [headThreads, headMembers_cons hp.converged.head.issues] at hk
  obtain ⟨n, hn, rfl⟩ := List.mem_map.mp hk
  have hmem := (List.mem_filter.mp hn).1
  obtain ⟨t, ht, hl, hm'⟩ := hp.converged.thread hmem
  rw [← hp.converged.member_gk hmem, hm']
  have hd := (hp.waits t (List.mem_of_find?_eq_some ht) hl).2
  simp [deferredOf, hd]

/-- A group-scope instruction runs once, on the one group and its threads with a true guard. -/
theorem runGroup_eq : Machine.runGroup s gd f = closeConv i pastTwo (match f s g ts with
      | .fault s1 e => (groupFault s1 g.gk e, [])
      | .left s1 => (s1, [])
      | .stall s1 => (s1, [])
      | .done s1 => (s1, [g.gk])) := by
  have hts : (liveThreads g).filter (fun t => guardTrue t gd) = ts := hp.guarded.symm
  unfold Machine.runGroup
  rw [hp.converged.runConv]
  simp only [hp.waitsDone_all, hp.none_late, Bool.not_true, List.isEmpty_nil, hts]
  cases hc : ts with
  | nil => exact absurd hc hp.some
  | cons t r => rfl

theorem runGroup_done (hf : f s g ts = .done s1) (hi : s1.issues = s.issues) : Machine.runGroup s gd f = pastTwo s1 := by
  have h := hp.converged.runConv_done (fin := pastTwo) (f := fun s g => f s g ts) hf hi
  rw [hp.converged.runConv, hf] at h
  rw [hp.runGroup_eq, hf]
  exact h

/-- The group has left every issue group. -/
theorem runGroup_left (hf : f s g ts = .left s1) (hi : ∀ j ∈ s1.issues, j.members ≠ [] ∧ ∀ m ∈ j.members, m.1 ≠ g.gk) :
    Machine.runGroup s gd f = s1 := by
  rw [hp.runGroup_eq, hf]
  unfold closeConv
  dsimp only
  split
  · rfl
  · next j r hj =>
    obtain ⟨hne, hgk⟩ := hi j (by rw [hj]; exact List.mem_cons_self)
    obtain ⟨m, hm⟩ := List.exists_mem_of_ne_nil _ hne
    have hnot : (j.members.all fun m => i.members.contains m) = false := by
      rw [List.all_eq_false]
      refine ⟨m, hm, ?_⟩
      rw [List.contains_iff_mem]
      exact fun hmi => hgk m hm (hp.converged.member_gk hmi)
    rw [hnot]
    rfl

/-- The group has performed the instruction and goes on. -/
theorem runs_done {ins : Instr} (hx : exec ins s = .next (runGroup s gd f)) (hf : f s g ts = .done s1) (hi : s1.issues = s.issues) :
    Runs ins s fun s' => AllPast s1 s' i rest 2 :=
  ⟨_, hx, by
    rw [hp.runGroup_done hf hi]
    exact allPast_of (hi.trans hp.converged.head.issues) hp.converged.head.nodup hp.converged.head.nonempty 2⟩

end Sys2Proof.Claims.Performs

namespace Sys2Proof.Machine
open Sys2Proof.Claims

/-! ## await and phase (R318) -/

section
variable {s : State} {i : Issue} {rest : List Issue} {g g0 : Group} {t0 : Thread} {ts : List Thread} {o : TaskOp}
  {follow : State → Group → State}

/-- The carry count that `await` and `phase` name, or the variant's (R318). -/
def carryCount (o : TaskOp) (g : Group) : Nat := if o.tx = 0 then variantCarry g else o.tx.toNat

theorem carryCount_eq (o : TaskOp) (g : Group) : (if o.tx.toNat = 0 then variantCarry g else o.tx.toNat) = carryCount o g := by
  have h : o.tx.toNat = 0 ↔ o.tx = 0 := BitVec.toNat_inj (y := 0)
  simp only [h, carryCount]

theorem phaseEnd_eq (hp : Performs s i rest g o.g t0 ts) (hn : carryCount o g ≤ g.regCount)
    (hg : groupOf (releaseGroup s g.gk) g.gk = some g0) (hnf : g0.failed = false)
    (hw : (hwWrite (releaseGroup s g.gk) g0.record.part g0.record.world (phaseRecordVa g0)
      (phaseRecord g0 (nextClause i) (carryCount o g) 0)).2 = none)
    (hfollow : (follow (endPhase s g.gk (nextClause i) (nextClause i) (carryCount o g) 0)
      (parkGroup (nextClause i) (nextClause i) (carryCount o g) g0)).issues =
        (endPhase s g.gk (nextClause i) (nextClause i) (carryCount o g) 0).issues) :
    phaseEnd o follow s = follow (endPhase s g.gk (nextClause i) (nextClause i) (carryCount o g) 0)
      (parkGroup (nextClause i) (nextClause i) (carryCount o g) g0) := by
  have hx := endPhase_group (hdr := nextClause i) hg hw
  have hi := endPhase_issues (hdr := nextClause i) hg hw
  unfold phaseEnd
  refine hp.runGroup_left ?_ (by rw [hfollow]; exact hi)
  simp only [carryCount_eq, headNext_cons hp.converged.head.issues, if_neg (not_lt.mpr hn), hx]
  exact if_neg (by rw [show (parkGroup (nextClause i) (nextClause i) (carryCount o g) g0).failed = g0.failed from rfl, hnf]; simp)

/-- What `await` does to the parked group: it goes on at once, or waits for the pending count (R318, R290). -/
def awaitChildren (s : State) (g : Group) : State :=
  match frameRead s g with
  | (s, none) => s
  | (s, some v) => if field v 0 32 = 0 then continueNow s g else modGroup s g.gk fun g => { g with awaiting := true }

theorem execAwait_eq (o : TaskOp) (s : State) : exec (.await o) s = .next (phaseEnd o awaitChildren s) := rfl

theorem frameRead_ok {bs : List Byte} (hb : (hwRead s g.record.part g.record.world g.frame 64).2 = .ok bs) :
    frameRead s g = ((hwRead s g.record.part g.record.world g.frame 64).1, some (leNat bs)) := by
  have h : hwRead s g.record.part g.record.world g.frame 64 = ((hwRead s g.record.part g.record.world g.frame 64).1, .ok bs) :=
    Prod.ext rfl hb
  unfold frameRead
  rw [h]

theorem awaitChildren_ok {bs : List Byte} (hb : (hwRead s g.record.part g.record.world g.frame 64).2 = .ok bs) :
    awaitChildren s g = if field (leNat bs) 0 32 = 0 then continueNow (hwRead s g.record.part g.record.world g.frame 64).1 g
      else modGroup (hwRead s g.record.part g.record.world g.frame 64).1 g.gk fun g => { g with awaiting := true } := by
  unfold awaitChildren
  rw [frameRead_ok hb]

theorem awaitChildren_issues {bs : List Byte} (hb : (hwRead s g.record.part g.record.world g.frame 64).2 = .ok bs) :
    (awaitChildren s g).issues = s.issues := by
  rw [awaitChildren_ok hb]
  split
  · rw [continueNow_issues, issues_of_kept (hwRead_kept ..)]
  · rw [modGroup_issues, issues_of_kept (hwRead_kept ..)]

end

end Sys2Proof.Machine
open Sys2Proof Sys2Proof.Machine Sys2Proof.Claims

/-- Settles O39: the phase record is written after the release, the group leaves its issue groups and parks, and its continuation is
enqueued at once or waits for the frame's pending count. -/
theorem phaseEndsParkTheGroup : Obligations.PhaseEndsParkTheGroup := by
  refine ⟨?_, fun s gk h => cachesOnly_of_kept (releaseGroup_kept h), ?_⟩
  · intro s gk g rpc hdr n wobj s0 hg hw
    exact phaseEnded_of hg hw
  · intro o s i rest g t0 ts hp n s0 s1 g0 hn hg hnf hw
    have hgk : g0.gk = g.gk := groupOf_gk hg
    refine ⟨?_, ?_⟩
    · show Host.Outcome.next (phaseEnd o continueNow s) = _
      rw [phaseEnd_eq hp hn hg hnf hw (continueNow_issues ..), continueNow]
      exact congrArg (fun k => Host.Outcome.next (enqueueCont (endStep s1 k) k)) hgk
    · intro b bs hb
      have hx : exec (.await o) s = .next (awaitChildren s1 (parkGroup (nextClause i) (nextClause i) n g0)) := by
        rw [execAwait_eq, phaseEnd_eq hp hn hg hnf hw (awaitChildren_issues hb)]
        rfl
      rw [hx, awaitChildren_ok (g := parkGroup (nextClause i) (nextClause i) n g0) hb]
      refine ⟨fun h0 => ?_, fun h0 => ?_⟩
      · rw [if_pos h0, continueNow]
        exact congrArg (fun k => Host.Outcome.next (enqueueCont (endStep _ k) k)) hgk
      · rw [if_neg h0]
        exact congrArg (fun k => Host.Outcome.next (modGroup b.1 k fun x => { x with awaiting := true })) hgk
end

section
/-! SUPPORT. Objects that change without a wait (R320, R321, R325, R329): the fields written, and the acting thread alone. -/
namespace Sys2Proof.Machine
open Sys2Proof.Claims

/-! ## Fields written -/

theorem sameOutside_refl (v : Nat) (rs : List (Nat × Nat)) : SameOutside v v rs := fun _ _ => rfl

/-- A field written inside one of the ranges leaves every bit outside them. -/
theorem sameOutside_setField {v v1 lo n x : Nat} {rs : List (Nat × Nat)} (h : SameOutside v v1 rs)
    (hr : ∃ r ∈ rs, r.1 ≤ lo ∧ lo + n ≤ r.1 + r.2) : SameOutside v (setField v1 lo n x) rs := by
  intro k hk
  obtain ⟨r, hr, h1, h2⟩ := hr
  have hout := hk r hr
  rw [testBit_setField, if_neg (by omega)]
  exact h k hk

theorem field_setField_of_lt {v lo n x : Nat} (h : x < 2 ^ n) : field (setField v lo n x) lo n = x := by
  rw [field_setField, Nat.mod_eq_of_lt h]

/-- The object that `fnew` leaves (R320). -/
def newFuture (v : Nat) (owner : Word) : Nat :=
  setField (setField (setField (setField v 0 2 (if owner = 0 then 0 else 1)) 32 32 owner.toNat) 64 32 0) 128 64 0

theorem isNewFuture_newFuture (v : Nat) (owner : Word) : IsNewFuture v (newFuture v owner) owner := by
  unfold newFuture
  refine ⟨?_, ?_, ?_, field_setField_of_lt (by decide), ?_⟩
  · rw [field_setField_other (by decide), field_setField_other (by decide), field_setField_other (by decide), field_setField_of_lt]
    split <;> decide
  · rw [field_setField_other (by decide), field_setField_other (by decide), field_setField_of_lt owner.isLt]
  · rw [field_setField_other (by decide), field_setField_of_lt (by decide)]
  · refine sameOutside_setField (sameOutside_setField (sameOutside_setField (sameOutside_setField (sameOutside_refl v _) ?_) ?_) ?_) ?_
      <;> simp

/-- The lock that `lrel` and `lacq` leave (R324, R325). -/
def lockOf (v owner grant : Nat) : Nat := setField (setField v 0 32 owner) 64 32 grant

theorem isLock_lockOf (v owner grant : Nat) : IsLock v (lockOf v owner grant) owner grant := by
  unfold lockOf
  refine ⟨by rw [field_setField_other (by decide), field_setField], field_setField .., ?_⟩
  exact sameOutside_setField (sameOutside_setField (sameOutside_refl v _) (by simp)) (by simp)

theorem isMoved_setField (v lo x : Nat) : IsMoved v (setField v lo 32 x) lo x :=
  ⟨field_setField .., sameOutside_setField (sameOutside_refl v _) (by simp)⟩

/-! ## The acting thread of an issue group of one -/

section alone
variable {s s1 : State} {i : Issue} {rest : List Issue} {m : Nat × Nat} {g : Group} {t : Thread} {o : TaskOp}

theorem acting_alone (ha : Alone s i rest m g t) (hg : guardTrue t o.g = true) :
    (actingMembers s o.g).contains (g.gk, t.idx) = true := by
  rw [actingMembers_alone ha hg, memberOf_gk ha.member, memberOf_idx ha.member]
  simp

theorem runs_acting {ins : Instr} {f : State → Group → Thread → State × Option FaultInfo} (hx : exec ins s = .next (runActing s o.g f))
    (ha : Alone s i rest m g t) (hg : guardTrue t o.g = true) (hf : f s g t = (s1, none)) (hi : s1.issues = s.issues) :
    Runs ins s fun s' => Past s1 s' i rest m 2 := by
  refine runs_past (f := fun s1 g t => if (actingMembers s o.g).contains (g.gk, t.idx) then f s1 g t else (s1, none)) hx ha hg ?_
    (hi.trans ha.issues)
  exact (if_pos (acting_alone ha hg)).trans hf

theorem runs_dcdec (ha : Alone s i rest m g t) (hu : Unbegun i) (hg : guardTrue t o.g = true) (hh : dcdecHeld o s g t = false)
    (hf : dcdecThread o s g t = (s1, none)) (hi : s1.issues = s.issues) : Runs (.dcdec o) s fun s' => Past s1 s' i rest m 2 := by
  exact ⟨_, rfl, runPartly_past (held := fun s1 g t => (actingMembers s o.g).contains (g.gk, t.idx) && dcdecHeld o s1 g t)
    (f := fun s1 g t => if (actingMembers s o.g).contains (g.gk, t.idx) then dcdecThread o s1 g t else (s1, none))
    ha hu hg ((congrArg _ hh).trans (Bool.and_false _)) ((if_pos (acting_alone ha hg)).trans hf) (hi.trans ha.issues)⟩

/-! ## What each does -/

theorem fnewThread_eq {r : State} {v : Nat} {x : Word} (hx : readSrc32 .int g t o.b = .ok x)
    (hr : readObject s g t o 32 .rw = (r, .ok v)) :
    fnewThread o s g t = (writeObject r g (objectVa g o) 32 (newFuture v x), none) := by
  unfold fnewThread
  simp only [hx, hr]
  rfl

theorem fputThread_eq {r : State} {v : Nat} {x : DWord} (hx : readSrc64 .int g t o.b = .ok x)
    (hr : readObject s g t o 32 .rw = (r, .ok v)) :
    fputThread o s g t = (if field v 0 2 ≥ 2 then r
      else (settleFuture (releaseThread r g.gk t.idx) g.record.part g.record.world (objectVa g o) x.toNat false).1, none) := by
  unfold fputThread
  simp only [hx, hr]
  split <;> rfl

theorem lrelThread_free {r : State} {v : Nat} (hr : readObject s g t o 16 .rw = (r, .ok v)) (ho : field v 0 32 = g.record.taskid)
    (hw : waitersOn (releaseThread r g.gk t.idx) g.record.part g.record.world (objectVa g o) = []) :
    lrelThread o s g t = (writeObject (releaseThread r g.gk t.idx) g (objectVa g o) 16 (lockOf v 0 0), none) := by
  unfold lrelThread
  simp only [hr, ho, bne_self_eq_false, Bool.false_eq_true, if_false, hw]
  rfl

theorem lrelThread_grants {r : State} {v : Nat} {w : Waiter} {ws : List Waiter} {x : Group}
    (hr : readObject s g t o 16 .rw = (r, .ok v)) (ho : field v 0 32 = g.record.taskid)
    (hw : waitersOn (releaseThread r g.gk t.idx) g.record.part g.record.world (objectVa g o) = w :: ws)
    (hx : groupOf (releaseThread r g.gk t.idx) w.gk = some x) :
    lrelThread o s g t =
      (wakeWaiter (writeObject (releaseThread r g.gk t.idx) g (objectVa g o) 16 (lockOf v 0 x.record.taskid)) w, none) := by
  unfold lrelThread
  simp only [hr, ho, bne_self_eq_false, Bool.false_eq_true, if_false, hw, hx]
  rfl

/-- The counter that `dcdec` leaves: its fired bit is set when it reaches zero (R329). -/
def lowered (v : Nat) : Nat :=
  if field v 0 32 = 1 then setField (setField v 0 32 (field v 0 32 - 1)) 32 1 1 else setField v 0 32 (field v 0 32 - 1)

theorem dcdecThread_eq {r : State} {v : Nat} (hr : readObject s g t o 128 .rw = (r, .ok v))
    (hv : recordValid (parseRecord (field v 512 512)) g.record.part = true) (hw : (parseRecord (field v 512 512)).world = g.record.world) :
    dcdecThread o s g t = (
      let s2 := releaseThread r g.gk t.idx
      let s3 := writeObject s2 g (objectVa g o) 128 (lowered v)
      if field v 0 32 = 0 then s2
      else if field v 0 32 = 1 then acceptRecord s3 (parseRecord (field v 512 512)) 0 (clusterOfGroup g) false .none none else s3,
      none) := by
  have hs : successorValid g (parseRecord (field v 512 512)) = true := by simp [successorValid, hv, hw]
  unfold dcdecThread lowered
  simp only [hr, hs, Bool.not_true, Bool.false_eq_true, if_false]
  split <;> rfl

end alone

/-! ## A future that is settled (R321) -/

/-- A future as its value fills it. -/
def filledFuture (v x : Nat) : Nat := setField (setField v 0 2 2) 128 64 x

theorem settleFuture_eq {s : State} {part va x : Nat} {world : Bool} {bs : List Byte}
    (hb : (hwRead s part world va 32).2 = .ok bs) (hp : field (leNat bs) 0 2 < 2)
    (hw : (hwWrite (hwRead s part world va 32).1 part world va (leBytes (filledFuture (leNat bs) x) 32)).2 = none) :
    settleFuture s part world va x false =
      (wakeAll (hwWrite (hwRead s part world va 32).1 part world va (leBytes (filledFuture (leNat bs) x) 32)).1 part world va, none) := by
  have hr : hwRead s part world va 32 = ((hwRead s part world va 32).1, .ok bs) := Prod.ext rfl hb
  have hws : hwWrite (hwRead s part world va 32).1 part world va (leBytes (setField (setField (leNat bs) 0 2 2) 128 64 x) 32) =
      ((hwWrite (hwRead s part world va 32).1 part world va (leBytes (filledFuture (leNat bs) x) 32)).1, none) := Prod.ext rfl hw
  unfold settleFuture
  rw [hr]
  simp only [if_neg (not_le.mpr hp), Bool.false_eq_true, if_false, hws]

end Sys2Proof.Machine
open Sys2Proof Sys2Proof.Machine Sys2Proof.Claims

/-- Settles O40: each object is written with the fields of its rule, after the release, and its waiters and successor follow. -/
theorem objectUpdateResults : Obligations.ObjectUpdateResults := by
  refine ⟨?_, ?_⟩
  · intro o s i rest m g t ha hg va done
    have hgk := memberOf_gk ha.member
    have hidx := memberOf_idx ha.member
    refine ⟨?_, ?_, ?_⟩
    · intro b s2 v hv
      have hr : readObject s g t o 32 .rw = (b.1, .ok v) := Prod.ext rfl hv
      refine ⟨fun x hx => ⟨_, isNewFuture_newFuture v x, fun hi => runs_acting rfl ha hg (fnewThread_eq hx hr) hi⟩, fun x hx => ?_⟩
      have hf := fputThread_eq hx hr
      rw [hgk, hidx] at hf
      refine ⟨fun h hi => runs_acting rfl ha hg (by rw [hf, if_pos h]) hi, fun h hi => runs_acting rfl ha hg ?_ hi⟩
      rw [hf, if_neg (not_le.mpr h)]
    · intro b s2 v hv ho
      have hr : readObject s g t o 16 .rw = (b.1, .ok v) := Prod.ext rfl hv
      have hs2 : releaseThread b.1 g.gk t.idx = s2 := by rw [hgk, hidx]
      refine ⟨fun hw => ⟨_, isLock_lockOf v 0 0, fun hi => runs_acting rfl ha hg ?_ hi⟩,
        fun w ws x hw hx => ⟨_, isLock_lockOf v 0 x.record.taskid, fun hi => runs_acting rfl ha hg ?_ hi⟩⟩
      · rw [lrelThread_free hr ho (by rw [hs2]; exact hw), hs2]
      · rw [lrelThread_grants hr ho (by rw [hs2]; exact hw) (by rw [hs2]; exact hx), hs2]
    · intro b s2 v hu hh hv r hvalid hworld
      have hr : readObject s g t o 128 .rw = (b.1, .ok v) := Prod.ext rfl hv
      have hf := dcdecThread_eq hr hvalid hworld
      rw [hgk, hidx] at hf
      refine ⟨fun h hi => runs_dcdec ha hu hg hh (by rw [hf]; exact congrArg (·, none) (if_pos h)) hi, fun h => ?_, fun h => ?_⟩
      · have hn1 : field v 0 32 ≠ 1 := by omega
        refine ⟨lowered v, ?_, fun hi => runs_dcdec ha hu hg hh ?_ hi⟩
        · rw [lowered, if_neg hn1]
          exact isMoved_setField ..
        · rw [hf]
          exact congrArg (·, none) ((if_neg (by omega)).trans (if_neg hn1))
      · have hl : lowered v = setField (setField v 0 32 0) 32 1 1 := by rw [lowered, if_pos h, h]
        refine ⟨lowered v, ?_, ?_, ?_, fun hi => runs_dcdec ha hu hg hh ?_ hi⟩
        · rw [hl, field_setField_other (by decide), field_setField_of_lt (by decide)]
        · rw [hl, bitOf_eq, testBit_setField, if_pos (by decide)]
          rfl
        · rw [hl]
          exact sameOutside_setField (sameOutside_setField (sameOutside_refl v _) (by simp)) (by simp)
        · rw [hf]
          exact congrArg (·, none) ((if_neg (by omega)).trans (if_pos h))
  · intro s part va x world b bs hb hp
    refine ⟨filledFuture (leNat bs) x, ?_, field_setField .., ?_, fun hw => settleFuture_eq hb hp hw⟩
    · rw [filledFuture, field_setField_other (by decide), field_setField_of_lt (by decide)]
    · exact sameOutside_setField (sameOutside_setField (sameOutside_refl _ _) (by simp)) (by simp)
end

section
/-! SUPPORT. Waits that are ready (R314, Table 13.3): readiness, the effect on the object, the results in the threads. -/
namespace Sys2Proof.Machine
open Sys2Proof.Claims

/-! ## A wait of one group -/

section
variable {s r r1 s2 : State} {i : Issue} {rest : List Issue} {g : Group} {t0 : Thread} {ts : List Thread} {o : TaskOp} {ins : Instr}
  {k : State → Group → List Thread → Except FaultInfo WaitKind} {kind : WaitKind} {size v : Nat}
  {refuse : Group → Nat → Option FaultInfo} {effect : State → Group → List Thread → Nat → State × Option FaultInfo}

/-- A wait whose checks pass and whose object is ready is performed (R314). -/
theorem waitDone_of (hp : Performs s i rest g o.g t0 ts) (hx : exec ins s = .next (runWait o k size refuse effect s))
    (hk : k s g ts = .ok kind) (hr : readObject s g t0 o size .rw = (r, .ok v)) (href : refuse g v = none)
    (hready : waitReady r g.record.part g.record.taskid g.gid kind v = (r1, true)) (heff : effect r1 g ts v = (s2, none)) :
    WaitDone ins s s2 i rest g := by
  intro hi
  have hi' : (acquireCore s2 g.core).issues = s.issues := (issues_of_kept (acquireCore_kept s2 g.core)).trans hi
  unfold runWait at hx
  refine hp.runs_done hx ?_ hi'
  simp only [hp.first, hk, hr, href, hready, heff]

end

theorem txPred_low (o : TaskOp) : txPred o false = o.tx.setWidth 3 := BitVec.eq_of_toNat_eq (by simp [txPred])
theorem txPred_high (o : TaskOp) : txPred o true = (o.tx >>> 3).setWidth 3 := BitVec.eq_of_toNat_eq (by simp [txPred])

/-! ## Futures (R322) -/

section
variable {s : State} {g : Group} {ts : List Thread} {o : TaskOp} {v : Nat}

theorem fgetEffect_full (h : field v 0 2 = 2) : fgetEffect o s g ts v =
    (setThreads s g.gk ts fun t => putPred (setPair t o.d.toNat (BitVec.ofNat 64 (field v 128 64))) (o.tx.setWidth 3) false, none) := by
  simp [fgetEffect, h, txPred_low]

theorem fgetEffect_failed (h : field v 0 2 = 3) : fgetEffect o s g ts v =
    (setThreads s g.gk ts fun t => putPred (setPair t o.d.toNat 0) (o.tx.setWidth 3) true, none) := by
  simp [fgetEffect, h, txPred_low]

theorem fgetEffect_pending (h : field v 0 2 < 2) : fgetEffect o s g ts v =
    (setThreads (settleFuture s g.record.part g.record.world (objectVa g o) 0 true).1 g.gk ts fun t =>
      putPred (setPair t o.d.toNat 0) (o.tx.setWidth 3) true, none) := by
  have h2 : (field v 0 2 == 2) = false := beq_eq_false_iff_ne.mpr (by omega)
  simp [fgetEffect, h, h2, txPred_low, markFailed]

/-! ## Locks (R324) -/

theorem lacqEffect_eq (again : Bool) (h : (field v 0 32 != 0) = again) : lacqEffect o s g ts v =
    (setThreads (writeObject (modGroup s g.gk fun x => { x with wait := none }) g (objectVa g o) 16 (lockOf v g.record.taskid 0)) g.gk ts
      fun t => putPred t (o.tx.setWidth 3) again, none) := by
  simp only [lacqEffect, h, txPred_low]
  rfl

/-! ## Rings (R326 to R328) -/

theorem ringRefuse_none {lo : Nat} (h1 : 1 ≤ field v 64 4) (h2 : field v 64 4 ≤ 12)
    (hp : field v lo 32 = 0 ∨ field v lo 32 = g.record.taskid) : ringRefuse o lo g v = none := by
  have h0 : field v 64 4 ≠ 0 := by omega
  have h12 : ¬ field v 64 4 > 12 := by omega
  unfold ringRefuse
  rcases hp with hp | hp <;> simp [h0, h12, hp]

/-- What a ring instruction tells the threads with a true guard: which of them moved an entry, and whether any did (R328). -/
def movedPreds (o : TaskOp) (gk : Nat) (ts : List Thread) (k : Nat) (s : State) : State := (enumFrom 0 ts).foldl
  (fun s e => modThread s gk e.2.idx fun t =>
    putPred (putPred t (o.tx.setWidth 3) (decide (e.1 < k))) ((o.tx >>> 3).setWidth 3) (k == 0)) s

theorem ringPreds_eq (s : State) (gk k : Nat) : ringPreds o s gk k ts = movedPreds o gk ts k s := by
  simp only [ringPreds, txPred_low, txPred_high]
  rfl

/-- The entries that `qput` writes, four registers of each thread (R328). -/
def putEntries (s : State) (g : Group) (o : TaskOp) (v : Nat) (ts : List Thread) : State :=
  (enumFrom (field v 128 32) ts).foldl (fun s e => (hwWrite s g.record.part g.record.world
    (objectVa g o + 64 + 16 * (e.1 % 2 ^ field v 64 4))
    ((List.range 4).flatMap fun w => leBytes (regOf e.2 (o.d.toNat + w)).toNat 4)).1) s

theorem qputEffect_moves {t0 : Thread} {r : State} {es : List (List Byte)} {k : Nat} (h0 : (liveThreads g).head? = some t0)
    (hk : min ts.length (ringFree v) = k) (hpos : 0 < k)
    (he : readEntries s g t0 (objectVa g o) v (field v 128 32) .rw k = (r, .ok es)) :
    qputEffect o s g ts v = (wakeAll (writeObject (movedPreds o g.gk ts k (putEntries (releaseGroup r g.gk) g o v (ts.take k))) g
      (objectVa g o) 64 (setField v 128 32 (field v 128 32 + k))) g.record.part g.record.world (objectVa g o), none) := by
  simp only [qputEffect, h0, hk, he, if_neg (Nat.ne_of_gt hpos), ringPreds_eq]
  rfl

theorem qputEffect_none {t0 : Thread} (h0 : (liveThreads g).head? = some t0) (hf : ringFree v = 0) :
    qputEffect o s g ts v = (movedPreds o g.gk ts 0 (releaseGroup s g.gk), none) := by
  simp only [qputEffect, h0, hf, Nat.min_zero, readEntries, if_true, ringPreds_eq, List.take_zero, enumFrom, List.foldl_nil]

/-- The entries that `qget` brings, each into four registers of a thread (R328). -/
def gotEntries (s : State) (g : Group) (o : TaskOp) (ts : List Thread) (es : List (List Byte)) : State :=
  (ts.zip es).foldl (fun s e => replyRegs s g.gk e.1.idx o.d.toNat (bytesToWords 4 e.2)) s

theorem qgetEffect_moves {t0 : Thread} {r : State} {es : List (List Byte)} {k : Nat} (h0 : (liveThreads g).head? = some t0)
    (hk : min ts.length (ringUsed v) = k) (hpos : 0 < k)
    (he : readEntries s g t0 (objectVa g o) v (field v 96 32) .r k = (r, .ok es)) :
    qgetEffect o s g ts v = (wakeAll (writeObject (movedPreds o g.gk ts k (gotEntries r g o (ts.take k) es)) g
      (objectVa g o) 64 (setField v 96 32 (field v 96 32 + k))) g.record.part g.record.world (objectVa g o), none) := by
  simp only [qgetEffect, h0, hk, he, if_neg (Nat.ne_of_gt hpos), ringPreds_eq]
  rfl

theorem qgetEffect_none {t0 : Thread} (h0 : (liveThreads g).head? = some t0) (hf : ringUsed v = 0) :
    qgetEffect o s g ts v = (movedPreds o g.gk ts 0 s, none) := by
  simp only [qgetEffect, h0, hf, Nat.min_zero, readEntries, if_true, ringPreds_eq, List.take_zero, List.zip_nil_left, List.foldl_nil]

/-! ## Tickets (R331, R332) -/

theorem isTicket_setField (v turn : Nat) : IsTicket v (setField v 0 32 turn) turn (bitOf v 32) := by
  refine ⟨field_setField .., ?_, sameOutside_setField (sameOutside_refl v _) (by simp)⟩
  rw [bitOf_eq, bitOf_eq, testBit_setField, if_neg (by decide)]

theorem tktakeEffect_eq : tktakeEffect o s g ts v =
    (setThreads (setTicket (modGroup (releaseGroup s g.gk) g.gk fun x =>
      { x with taken := x.taken ++ ticketSlots (releaseGroup s g.gk) g.grid (objectVa g o) }) g.record.part g.record.world
        (objectVa g o) (setField v 0 32 (g.gid + 1))).1 g.gk ts fun t => putPred t (o.tx.setWidth 3) (bitOf v 32), none) := by
  simp only [tktakeEffect, txPred_low]

end

/-! ## Readiness (Table 13.3) -/

section
variable {s : State} {part task gid v : Nat}

theorem waitReady_fget (h : 2 ≤ field v 0 2) : waitReady s part task gid .fget v = (s, true) := if_pos h

theorem waitReady_fget_pending (h : field v 0 2 < 2) :
    waitReady s part task gid .fget v = ownerFailed s part (field v 32 32) := if_neg (not_le.mpr h)

theorem waitReady_lacq_free (h : field v 0 32 = 0) (hg : field v 64 32 = 0 ∨ field v 64 32 = task) :
    waitReady s part task gid .lacq v = (s, true) :=
  (if_pos h).trans (if_pos (by simpa using hg))

theorem waitReady_lacq_granted (h : field v 0 32 = 0) (h0 : field v 64 32 ≠ 0) (ht : field v 64 32 ≠ task) :
    waitReady s part task gid .lacq v = ownerFailed s part (field v 64 32) :=
  (if_pos h).trans (if_neg (by simp [h0, ht]))

theorem waitReady_lacq_held (h : field v 0 32 ≠ 0) :
    waitReady s part task gid .lacq v = ownerFailed s part (field v 0 32) := if_neg h

theorem waitReady_qput_room (h : 0 < ringFree v) : waitReady s part task gid .qput v = (s, true) := if_pos h

theorem waitReady_qput_full (h : ringFree v = 0) :
    waitReady s part task gid .qput v = ownerFailed s part (field v 32 32) := if_neg (by omega)

theorem waitReady_qget_some (h : 0 < ringUsed v) : waitReady s part task gid .qget v = (s, true) := if_pos h

theorem waitReady_qget_empty (h : ringUsed v = 0) :
    waitReady s part task gid .qget v = ownerFailed s part (field v 0 32) := if_neg (by omega)

theorem waitReady_tktake (h : gid % 2 ^ 32 ≤ field v 0 32) : waitReady s part task gid .tktake v = (s, true) :=
  congrArg (s, ·) (decide_eq_true h)

theorem waitReady_tkwait {n : Nat} (h : n ≤ field v 0 32) : waitReady s part task gid (.tkwait n) v = (s, true) :=
  congrArg (s, ·) (decide_eq_true h)

end

/-- The kind of a `qput` whose data registers can be read (R235, R328). -/
def qputKind (o : TaskOp) (_ : State) (_ : Group) (ts : List Thread) : Except FaultInfo WaitKind :=
  match ts.findSome? fun t => match regChecked t o.d.toNat 4 with | .error f => some f | .ok _ => none with
  | some f => .error f
  | none => .ok .qput

theorem qputKind_ok {o : TaskOp} {ts : List Thread} (h : ∀ t ∈ ts, ∃ r, regChecked t o.d.toNat 4 = .ok r) (s : State) (g : Group) :
    qputKind o s g ts = .ok .qput := by
  have hn : (ts.findSome? fun t => match regChecked t o.d.toNat 4 with | .error f => some f | .ok _ => none) = none := by
    rw [List.findSome?_eq_none_iff]
    intro t ht
    obtain ⟨r, hr⟩ := h t ht
    rw [hr]
  unfold qputKind
  rw [hn]

/-- The kind of a `tkwait`, which takes its bound from the first thread with a true guard (R332). -/
def tkwaitKind (o : TaskOp) (_ : State) (g : Group) (ts : List Thread) : Except FaultInfo WaitKind :=
  match ts with
  | [] => .ok (.tkwait 0)
  | t :: _ => (readSrc32 .int g t o.b).map fun n => .tkwait n.toNat

theorem tkwaitKind_ok {o : TaskOp} {g : Group} {t : Thread} {ts : List Thread} {n : Word} (ht : ts.head? = some t)
    (hn : readSrc32 .int g t o.b = .ok n) (s : State) : tkwaitKind o s g ts = .ok (.tkwait n.toNat) := by
  obtain ⟨r, rfl⟩ := List.head?_eq_some_iff.mp ht
  unfold tkwaitKind
  simp only [hn]
  rfl

/-- A ticket that has passed the turn of a group faults (R331). -/
def ticketRefuse (o : TaskOp) (g : Group) (v : Nat) : Option FaultInfo :=
  if field v 0 32 > g.gid % 2 ^ 32 then some { cls := fcOwnership, va := BitVec.ofNat 64 (objectVa g o), detail := 6 } else none

theorem exec_fget (o : TaskOp) (s : State) :
    exec (.fget o) s = .next (runWait o (waitKind .fget) 32 noRefusal (fgetEffect o) s) := rfl
theorem exec_lacq (o : TaskOp) (s : State) :
    exec (.lacq o) s = .next (runWait o (waitKind .lacq) 16 noRefusal (lacqEffect o) s) := rfl
theorem exec_qput (o : TaskOp) (s : State) :
    exec (.qput o) s = .next (runWait o (qputKind o) 64 (ringRefuse o 0) (qputEffect o) s) := rfl
theorem exec_qget (o : TaskOp) (s : State) :
    exec (.qget o) s = .next (runWait o (waitKind .qget) 64 (ringRefuse o 32) (qgetEffect o) s) := rfl
theorem exec_tktake (o : TaskOp) (s : State) :
    exec (.tktake o) s = .next (runWait o (waitKind .tktake) 8 (ticketRefuse o) (tktakeEffect o) s) := rfl

/-- What `tkwait` puts in the threads with a true guard. -/
def tkwaitEffect (o : TaskOp) (s : State) (g : Group) (ts : List Thread) (v : Nat) : State × Option FaultInfo :=
  (setThreads s g.gk ts fun t => putPred t (txPred o false) (bitOf v 32), none)

theorem exec_tkwait (o : TaskOp) (s : State) :
    exec (.tkwait o) s = .next (runWait o (tkwaitKind o) 8 noRefusal (tkwaitEffect o) s) := rfl

end Sys2Proof.Machine
open Sys2Proof Sys2Proof.Machine Sys2Proof.Claims

/-- Settles O41: in each case the object is ready, and its effect and results are those of its instruction. -/
theorem waitsThatAreReady : Obligations.WaitsThatAreReady := by
  intro o s i rest g t0 ts hp va part world pd pf all
  have hts : 0 < ts.length := List.length_pos_of_ne_nil hp.some
  refine ⟨?_, ?_, ?_, ?_⟩
  · intro b failed v hv
    have hr : readObject s g t0 o 32 .rw = (b.1, .ok v) := Prod.ext rfl hv
    refine ⟨fun h => ?_, fun h => ?_, fun h hf => ?_⟩
    · exact waitDone_of hp (exec_fget o s) rfl hr rfl (waitReady_fget h.ge) (fgetEffect_full h)
    · exact waitDone_of hp (exec_fget o s) rfl hr rfl (waitReady_fget (by omega)) (fgetEffect_failed h)
    · exact waitDone_of hp (exec_fget o s) rfl hr rfl ((waitReady_fget_pending h).trans (Prod.ext rfl hf)) (fgetEffect_pending h)
  · intro b failed v hv
    have hr : readObject s g t0 o 16 .rw = (b.1, .ok v) := Prod.ext rfl hv
    refine ⟨_, isLock_lockOf v g.record.taskid 0, fun h hg => ?_, fun h h0 ht hf => ?_, fun h hf => ?_⟩
    · exact waitDone_of hp (exec_lacq o s) rfl hr rfl (waitReady_lacq_free h hg) (lacqEffect_eq false (by simp [h]))
    · exact waitDone_of hp (exec_lacq o s) rfl hr rfl ((waitReady_lacq_granted h h0 ht).trans (Prod.ext rfl hf))
        (lacqEffect_eq false (by simp [h]))
    · exact waitDone_of hp (exec_lacq o s) rfl hr rfl ((waitReady_lacq_held h).trans (Prod.ext rfl hf))
        (lacqEffect_eq true (by simp [h]))
  · intro b v hv h1 h12 used preds
    have hr : readObject s g t0 o 64 .rw = (b.1, .ok v) := Prod.ext rfl hv
    refine ⟨fun hregs hparty => ⟨?_, ?_⟩, fun hparty => ⟨?_, ?_⟩⟩
    · intro hu k e he filled
      obtain ⟨es, he⟩ := he
      have hfree : 0 < ringFree v := Nat.sub_pos_of_lt hu
      exact ⟨_, isMoved_setField v 128 _, waitDone_of hp (exec_qput o s) (qputKind_ok hregs s g) hr (ringRefuse_none h1 h12 hparty)
        (waitReady_qput_room hfree) (qputEffect_moves hp.first rfl (lt_min hts hfree) (Prod.ext rfl he))⟩
    · intro hu x hx
      have hfree : ringFree v = 0 := Nat.sub_eq_zero_of_le hu.ge
      exact waitDone_of hp (exec_qput o s) (qputKind_ok hregs s g) hr (ringRefuse_none h1 h12 hparty)
        ((waitReady_qput_full hfree).trans (Prod.ext rfl hx)) (qputEffect_none hp.first hfree)
    · intro hu k e es he got
      exact ⟨_, isMoved_setField v 96 _, waitDone_of hp (exec_qget o s) rfl hr (ringRefuse_none h1 h12 hparty)
        (waitReady_qget_some hu) (qgetEffect_moves hp.first rfl (lt_min hts hu) (Prod.ext rfl he))⟩
    · intro hu x hx
      exact waitDone_of hp (exec_qget o s) rfl hr (ringRefuse_none h1 h12 hparty)
        ((waitReady_qget_empty hu).trans (Prod.ext rfl hx)) (qgetEffect_none hp.first hu)
  · intro b v hv
    have hr : readObject s g t0 o 8 .rw = (b.1, .ok v) := Prod.ext rfl hv
    refine ⟨fun hgid h => ⟨_, isTicket_setField v (g.gid + 1), ?_⟩, fun t n ht hn hle => ?_⟩
    · have hle : field v 0 32 = g.gid % 2 ^ 32 := by rw [Nat.mod_eq_of_lt hgid, h]
      exact waitDone_of hp (exec_tktake o s) rfl hr (if_neg hle.not_gt) (waitReady_tktake hle.ge) tktakeEffect_eq
    · refine waitDone_of hp (exec_tkwait o s) (tkwaitKind_ok ht hn s) hr rfl (waitReady_tkwait hle) ?_
      rw [tkwaitEffect, txPred_low]
      rfl
end

section
/-! SUPPORT. Issue groups under the work that a core does for a waiter (R303, R413): issue groups change only as the members of a failed
group leave them. One lemma for each function that such work calls. -/
namespace Sys2Proof.Machine

-- Each lemma here serves the next ones: elaborated in order, they keep no thread waiting.
set_option Elab.async false
open Sys2Proof.Claims
set_option linter.unusedVariables false

/-- What holds of some issue groups holds of them without the members of a group. -/
def closed (P : List Issue → Prop) : Prop := ∀ (s : State) (gk : Nat), P s.issues → P (dropMembers s fun m => m.1 == gk).issues

/-- A fact about issue groups. -/
def holds (P : List Issue → Prop) (l : List Issue) : Prop := P l

theorem holds_of_eq {P : List Issue → Prop} {l l' : List Issue} (h : l' = l) (hc : holds P l) : holds P l' := h ▸ hc

theorem holds_of_kept {P : List Issue → Prop} {s s' : State} (h : kept s' = kept s) (hc : holds P s.issues) : holds P s'.issues :=
  holds_of_eq (issues_of_kept h) hc

theorem foldl_holds {P : List Issue → Prop} {α : Type} {f : State → α → State} {s : State} {l : List α}
    (hf : ∀ s x, holds P s.issues → holds P (f s x).issues) (h : holds P s.issues) : holds P (l.foldl f s).issues := by
  induction l generalizing s with
  | nil => exact h
  | cons x l ih => exact ih (hf _ _ h)
grind_pattern foldl_holds => l.foldl f s, holds P _

theorem foldl_holds_fst {P : List Issue → Prop} {α β : Type} {f : State × β → α → State × β} {s : State × β} {l : List α}
    (hf : ∀ s x, holds P s.1.issues → holds P (f s x).1.issues) (h : holds P s.1.issues) : holds P (l.foldl f s).1.issues := by
  induction l generalizing s with
  | nil => exact h
  | cons x l ih => exact ih (hf _ _ h)
grind_pattern foldl_holds_fst => l.foldl f s, holds P _

theorem modCore_holds {P : List Issue → Prop} (s : State) (c : Nat) (f : Core → Core) (hc : holds P s.issues) :
    holds P (modCore s c f).issues := hc
grind_pattern modCore_holds => modCore s c f, holds P _

theorem readOwnership_kept (s : State) (r : TaskRecord) (kd : KDesc) : kept (readOwnership s r kd).1 = kept s := by grind [readOwnership]

theorem modCluster_holds {P : List Issue → Prop} (hP : closed P) (s : State) (g : Nat) (f : Cluster → Cluster) (hc : holds P s.issues) :
    holds P (modCluster s g f).issues := by grind [modCluster]
grind_pattern modCluster_holds => modCluster s g f, holds P _
theorem modDie_holds {P : List Issue → Prop} (s : State) (d : Nat) (f : Die → Die) (hc : holds P s.issues) :
    holds P (modDie s d f).issues := holds_of_kept (modDie_kept ..) hc
grind_pattern modDie_holds => modDie s d f, holds P _
theorem modOut_holds {P : List Issue → Prop} (hP : closed P) (s : State) (o : Nat) (f : Output → Output) (hc : holds P s.issues) :
    holds P (modOut s o f).issues := by grind [modOut]
grind_pattern modOut_holds => modOut s o f, holds P _
theorem l2WriteBack_holds {P : List Issue → Prop} (s : State) (die : Nat) (line : Nat) (hc : holds P s.issues) :
    holds P (l2WriteBack s die line).issues := holds_of_kept (l2WriteBack_kept ..) hc
grind_pattern l2WriteBack_holds => l2WriteBack s die line, holds P _
theorem countEvent_holds {P : List Issue → Prop} (s : State) (core : Nat) (ev : Nat) (n : Nat) (hc : holds P s.issues) :
    holds P (countEvent s core ev n).issues := holds_of_kept (countEvent_kept ..) hc
grind_pattern countEvent_holds => countEvent s core ev n, holds P _
theorem combineFlush_holds {P : List Issue → Prop} (s : State) (core : Nat) (hc : holds P s.issues) :
    holds P (combineFlush s core).issues := holds_of_kept (combineFlush_kept ..) hc
grind_pattern combineFlush_holds => combineFlush s core, holds P _
theorem storePiece_holds {P : List Issue → Prop} (s : State) (c : Ctx) (p : Piece) (hint : Nat) (bs : List Byte)
    (hc : holds P s.issues) :
    holds P (storePiece s c p hint bs).issues := holds_of_kept (storePiece_kept ..) hc
grind_pattern storePiece_holds => storePiece s c p hint bs, holds P _
theorem drainFlume_holds {P : List Issue → Prop} (s : State) (core : Nat) (hc : holds P s.issues) :
    holds P (drainFlume s core).issues := holds_of_kept (drainFlume_kept ..) hc
grind_pattern drainFlume_holds => drainFlume s core, holds P _
theorem drainCore_holds {P : List Issue → Prop} (s : State) (core : Nat) (hc : holds P s.issues) :
    holds P (drainCore s core).issues := holds_of_kept (drainCore_kept ..) hc
grind_pattern drainCore_holds => drainCore s core, holds P _
theorem acquireCore_holds {P : List Issue → Prop} (s : State) (core : Nat) (hc : holds P s.issues) :
    holds P (acquireCore s core).issues := holds_of_kept (acquireCore_kept ..) hc
grind_pattern acquireCore_holds => acquireCore s core, holds P _
theorem translateParts_holds {P : List Issue → Prop} (s : State) (c : Ctx) (acc : Acc) (a3 : List (Nat × Nat))
    (hc : holds P s.issues) :
    holds P (translateParts s c acc a3).1.issues := holds_of_kept (translateParts_kept ..) hc
grind_pattern translateParts_holds => translateParts s c acc a3, holds P _
theorem readPieces_holds {P : List Issue → Prop} (s : State) (c : Ctx) (a2 : List Piece) (hc : holds P s.issues) :
    holds P (readPieces s c a2).1.issues := holds_of_kept (readPieces_kept ..) hc
grind_pattern readPieces_holds => readPieces s c a2, holds P _
theorem hwRead_holds {P : List Issue → Prop} (s : State) (part : Nat) (sec : Bool) (va : Nat) (n : Nat) (hc : holds P s.issues) :
    holds P (hwRead s part sec va n).1.issues := holds_of_kept (hwRead_kept ..) hc
grind_pattern hwRead_holds => hwRead s part sec va n, holds P _
theorem hwWrite_holds {P : List Issue → Prop} (s : State) (part : Nat) (sec : Bool) (va : Nat) (bs : List Byte)
    (hc : holds P s.issues) :
    holds P (hwWrite s part sec va bs).1.issues := holds_of_kept (hwWrite_kept ..) hc
grind_pattern hwWrite_holds => hwWrite s part sec va bs, holds P _
theorem hwUpdate_holds {P : List Issue → Prop} (s : State) (part : Nat) (sec : Bool) (va : Nat) (n : Nat) (f : Nat → Nat)
    (hc : holds P s.issues) :
    holds P (hwUpdate s part sec va n f).1.issues := holds_of_kept (hwUpdate_kept ..) hc
grind_pattern hwUpdate_holds => hwUpdate s part sec va n f, holds P _
theorem scratchWrite_holds {P : List Issue → Prop} (hP : closed P) (s : State) (core : Nat) (off : Nat) (bs : List Byte) (hc : holds P s.issues) :
    holds P (scratchWrite s core off bs).issues := by grind [scratchWrite]
grind_pattern scratchWrite_holds => scratchWrite s core off bs, holds P _
theorem modGroup_holds {P : List Issue → Prop} (hP : closed P) (s : State) (gk : Nat) (f : Group → Group) (hc : holds P s.issues) :
    holds P (modGroup s gk f).issues := by grind [modGroup]
grind_pattern modGroup_holds => modGroup s gk f, holds P _
theorem modThread_holds {P : List Issue → Prop} (hP : closed P) (s : State) (gk : Nat) (t : Nat) (f : Thread → Thread) (hc : holds P s.issues) :
    holds P (modThread s gk t f).issues := by grind [modThread]
grind_pattern modThread_holds => modThread s gk t f, holds P _
theorem modGrid_holds {P : List Issue → Prop} (hP : closed P) (s : State) (id : Nat) (f : Grid → Grid) (hc : holds P s.issues) :
    holds P (modGrid s id f).issues := by grind [modGrid]
grind_pattern modGrid_holds => modGrid s id f, holds P _
theorem fresh_holds {P : List Issue → Prop} (hP : closed P) (s : State) (hc : holds P s.issues) : holds P (fresh s).1.issues := by grind [fresh]
grind_pattern fresh_holds => fresh s, holds P _
theorem hostEvent_holds {P : List Issue → Prop} (s : State) (part : Nat) (code : Nat) (arg0 : Nat) (arg1 : Nat)
    (hc : holds P s.issues) :
    holds P (hostEvent s part code arg0 arg1).issues := holds_of_kept (hostEvent_kept ..) hc
grind_pattern hostEvent_holds => hostEvent s part code arg0 arg1, holds P _
theorem recordEvent_holds {P : List Issue → Prop} (s : State) (part : Nat) (f : Option FaultInfo) (hc : holds P s.issues) :
    holds P (recordEvent s part f).issues := holds_of_kept (recordEvent_kept ..) hc
grind_pattern recordEvent_holds => recordEvent s part f, holds P _
theorem failGroup_holds {P : List Issue → Prop} (hP : closed P) (s : State) (gk : Nat) (hinfo : Word) (va : DWord)
    (hc : holds P s.issues) : holds P (failGroup s gk hinfo va).issues := by
  unfold failGroup
  split
  · exact hc
  · split
    · exact hc
    · dsimp only
      split <;>
      · refine hP _ gk ?_
        show holds P (recordEvent _ _ _).issues
        rw [issues_of_kept (recordEvent_kept ..), issues_of_kept (hwUpdate_kept ..), issues_of_kept (hwUpdate_kept ..)]
        exact hc
grind_pattern failGroup_holds => failGroup s gk hinfo va, holds P _
theorem failRecord_holds {P : List Issue → Prop} (hP : closed P) (s : State) (gk : Nat) (f : FaultInfo) (hc : holds P s.issues) :
    holds P (failRecord s gk f).issues := by grind [failRecord]
grind_pattern failRecord_holds => failRecord s gk f, holds P _
theorem readEntry_holds {P : List Issue → Prop} (s : State) (part : Nat) (taskid : Nat) (hc : holds P s.issues) :
    holds P (readEntry s part taskid).1.issues := holds_of_kept (readEntry_kept ..) hc
grind_pattern readEntry_holds => readEntry s part taskid, holds P _
theorem entryUpdate_holds {P : List Issue → Prop} (s : State) (g : Grid) (f : Nat → Nat) (hc : holds P s.issues) :
    holds P (entryUpdate s g f).issues := holds_of_kept (entryUpdate_kept ..) hc
grind_pattern entryUpdate_holds => entryUpdate s g f, holds P _
theorem noteWhere_holds {P : List Issue → Prop} (s : State) (e : DeckEntry) (cluster : Nat) (inland : Bool) (slot : Nat)
    (hc : holds P s.issues) :
    holds P (noteWhere s e cluster inland slot).issues := holds_of_kept (noteWhere_kept ..) hc
grind_pattern noteWhere_holds => noteWhere s e cluster inland slot, holds P _
theorem setDeck_holds {P : List Issue → Prop} (hP : closed P) (s : State) (g : Nat) (cls : Nat) (l : List DeckEntry) (hc : holds P s.issues) :
    holds P (setDeck s g cls l).issues := by grind [setDeck]
grind_pattern setDeck_holds => setDeck s g cls l, holds P _
theorem setLanding_holds {P : List Issue → Prop} (hP : closed P) (s : State) (g : Nat) (cls : Nat) (l : List (Nat × DeckEntry))
    (hc : holds P s.issues) :
    holds P (setLanding s g cls l).issues := by grind [setLanding]
grind_pattern setLanding_holds => setLanding s g cls l, holds P _
theorem setWaiting_holds {P : List Issue → Prop} (hP : closed P) (s : State) (g : Nat) (cls : Nat) (l : List DeckEntry) (hc : holds P s.issues) :
    holds P (setWaiting s g cls l).issues := by grind [setWaiting]
grind_pattern setWaiting_holds => setWaiting s g cls l, holds P _
theorem enqueueEntry_holds {P : List Issue → Prop} (hP : closed P) (part : Nat) (g : Nat) (cls : Nat) (s : State) (e : DeckEntry)
    (hc : holds P s.issues) :
    holds P (enqueueEntry part g cls s e).issues := holds_of_eq (issues_of_beyondDecks (enqueueEntry_beyondDecks ..)) hc
grind_pattern enqueueEntry_holds => enqueueEntry part g cls s e, holds P _
theorem enqueueCont_holds {P : List Issue → Prop} (hP : closed P) (s : State) (gk : Nat) (hc : holds P s.issues) :
    holds P (enqueueCont s gk).issues := by grind [enqueueCont]
grind_pattern enqueueCont_holds => enqueueCont s gk, holds P _
theorem countWaiter_holds {P : List Issue → Prop} (hP : closed P) (s : State) (part : Nat) (world : Bool) (obj : Nat) (k : WaitKind) (delta : Nat)
    (hc : holds P s.issues) :
    holds P (countWaiter s part world obj k delta).issues := by grind [countWaiter]
grind_pattern countWaiter_holds => countWaiter s part world obj k delta, holds P _
theorem wakeWaiter_holds {P : List Issue → Prop} (hP : closed P) (s : State) (w : Waiter) (hc : holds P s.issues) :
    holds P (wakeWaiter s w).issues := by grind [wakeWaiter]
grind_pattern wakeWaiter_holds => wakeWaiter s w, holds P _
theorem wakeAll_holds {P : List Issue → Prop} (hP : closed P) (s : State) (part : Nat) (world : Bool) (obj : Nat) (hc : holds P s.issues) :
    holds P (wakeAll s part world obj).issues := by grind [wakeAll]
grind_pattern wakeAll_holds => wakeAll s part world obj, holds P _
theorem settleFuture_holds {P : List Issue → Prop} (hP : closed P) (s : State) (part : Nat) (world : Bool) (va : Nat) (value : Nat)
    (failed : Bool) (hc : holds P s.issues) :
    holds P (settleFuture s part world va value failed).1.issues := by grind [settleFuture]
grind_pattern settleFuture_holds => settleFuture s part world va value failed, holds P _
theorem acceptRecord_holds {P : List Issue → Prop} (hP : closed P) (s : State) (r : TaskRecord) (parent : Nat) (cluster : Nat)
    (hostLaunched : Bool) (info : GfxInfo) (paySlot : Option (Nat × Nat)) (hc : holds P s.issues) :
    holds P (acceptRecord s r parent cluster hostLaunched info paySlot).issues := by grind [acceptRecord]
grind_pattern acceptRecord_holds => acceptRecord s r parent cluster hostLaunched info paySlot, holds P _
theorem resolveParts_holds {P : List Issue → Prop} (s : State) (c : Ctx) (acc : Acc) (hint : Nat) (a4 : List (Nat × Nat))
    (hc : holds P s.issues) :
    holds P (resolveParts s c acc hint a4).1.issues := holds_of_kept (resolveParts_kept ..) hc
grind_pattern resolveParts_holds => resolveParts s c acc hint a4, holds P _
theorem recordUpdate_holds {P : List Issue → Prop} (hP : closed P) (s : State) (g : Group) (off : Nat) (n : Nat) (f : Nat → Nat)
    (hc : holds P s.issues) :
    holds P (recordUpdate s g off n f).issues := by grind [recordUpdate]
grind_pattern recordUpdate_holds => recordUpdate s g off n f, holds P _
theorem replyWords_holds {P : List Issue → Prop} (hP : closed P) (s : State) (gk : Nat) (tid : Nat) (vals : List (Nat × Word))
    (hc : holds P s.issues) :
    holds P (replyWords s gk tid vals).issues := by grind [replyWords]
grind_pattern replyWords_holds => replyWords s gk tid vals, holds P _
theorem replyLast_holds {P : List Issue → Prop} (hP : closed P) (s : State) (o : Op) (tid : Nat) (vals : List (Nat × Word)) (hc : holds P s.issues) :
    holds P (replyLast s o tid vals).issues := by grind [replyLast]
grind_pattern replyLast_holds => replyLast s o tid vals, holds P _
theorem creditCounter_holds {P : List Issue → Prop} (hP : closed P) (s : State) (gk : Nat) (tid : Nat) (cnt : Nat) (hc : holds P s.issues) :
    holds P (creditCounter s gk tid cnt).issues := by grind [creditCounter]
grind_pattern creditCounter_holds => creditCounter s gk tid cnt, holds P _
theorem deferFault_holds {P : List Issue → Prop} (hP : closed P) (s : State) (gk : Nat) (tid : Nat) (cnt : Nat) (f : FaultInfo)
    (hc : holds P s.issues) :
    holds P (deferFault s gk tid cnt f).issues := by grind [deferFault]
grind_pattern deferFault_holds => deferFault s gk tid cnt f, holds P _
theorem dropOp_holds {P : List Issue → Prop} (hP : closed P) (s : State) (id : Nat) (hc : holds P s.issues) :
    holds P (dropOp s id).issues := by grind [dropOp]
grind_pattern dropOp_holds => dropOp s id, holds P _
theorem retireOp_holds {P : List Issue → Prop} (hP : closed P) (s : State) (o : Op) (hc : holds P s.issues) :
    holds P (retireOp s o).issues := by grind [retireOp]
grind_pattern retireOp_holds => retireOp s o, holds P _
theorem wakeOne_holds {P : List Issue → Prop} (hP : closed P) (core : Nat) (s : State) (o : Op) (hc : holds P s.issues) :
    holds P (wakeOne core s o).issues := by grind [wakeOne]
grind_pattern wakeOne_holds => wakeOne core s o, holds P _
theorem wakeSync_holds {P : List Issue → Prop} (hP : closed P) (core : Nat) (s : State) (hc : holds P s.issues) :
    holds P (wakeSync core s).issues := by grind [wakeSync]
grind_pattern wakeSync_holds => wakeSync core s, holds P _
theorem scratchStore_holds {P : List Issue → Prop} (hP : closed P) (s : State) (core : Nat) (off : Nat) (bs : List Byte) (hc : holds P s.issues) :
    holds P (scratchStore s core off bs).issues := by grind [scratchStore]
grind_pattern scratchStore_holds => scratchStore s core off bs, holds P _
theorem windowPiece_holds {P : List Issue → Prop} (hP : closed P) (s : State) (part : Nat) (die : Nat) (writer : Nat) (piece : Nat) (data : DWord)
    (core : Option Nat) (hc : holds P s.issues) :
    holds P (windowPiece s part die writer piece data core).issues := by grind [windowPiece]
grind_pattern windowPiece_holds => windowPiece s part die writer piece data core, holds P _
theorem loadPieces_holds {P : List Issue → Prop} (s : State) (c : Ctx) (hint : Nat) (grid : Nat) (a4 : List Piece)
    (hc : holds P s.issues) :
    holds P (loadPieces s c hint grid a4).1.issues := holds_of_kept (loadPieces_kept ..) hc
grind_pattern loadPieces_holds => loadPieces s c hint grid a4, holds P _
theorem storePieces_holds {P : List Issue → Prop} (hP : closed P) (s : State) (c : Ctx) (g : Group) (tid : Nat) (hint : Nat) (a5 : List Piece)
    (a6 : List Byte) (hc : holds P s.issues) :
    holds P (storePieces s c g tid hint a5 a6).issues := by
  fun_induction storePieces <;> grind
grind_pattern storePieces_holds => storePieces s c g tid hint a5 a6, holds P _
theorem atomicInL1_holds {P : List Issue → Prop} (s : State) (c : Ctx) (asid : Nat) (p : Piece) (am : Nat) (size : Nat)
    (y : DWord) (cmp : DWord) (hc : holds P s.issues) :
    holds P (atomicInL1 s c asid p am size y cmp).1.issues := holds_of_kept (atomicInL1_kept ..) hc
grind_pattern atomicInL1_holds => atomicInL1 s c asid p am size y cmp, holds P _
theorem atomicAtHome_holds {P : List Issue → Prop} (s : State) (c : Ctx) (asid : Nat) (p : Piece) (am : Nat) (size : Nat)
    (y : DWord) (cmp : DWord) (hc : holds P s.issues) :
    holds P (atomicAtHome s c asid p am size y cmp).1.issues := holds_of_kept (atomicAtHome_kept ..) hc
grind_pattern atomicAtHome_holds => atomicAtHome s c asid p am size y cmp, holds P _
theorem atomicPlace_holds {P : List Issue → Prop} (hP : closed P) (s : State) (c : Ctx) (place : Place) (am : Nat) (size : Nat) (y : DWord)
    (cmp : DWord) (hc : holds P s.issues) :
    holds P (atomicPlace s c place am size y cmp).1.issues := by
  unfold atomicPlace
  grind
grind_pattern atomicPlace_holds => atomicPlace s c place am size y cmp, holds P _
theorem loadValue_holds {P : List Issue → Prop} (s : State) (c : Ctx) (g : Group) (place : Place) (size : Nat) (treat : Treat)
    (hint : Nat) (staged : Nat) (hc : holds P s.issues) :
    holds P (loadValue s c g place size treat hint staged).1.issues := holds_of_kept (loadValue_kept ..) hc
grind_pattern loadValue_holds => loadValue s c g place size treat hint staged, holds P _
theorem performAccess_holds {P : List Issue → Prop} (hP : closed P) (s : State) (g : Group) (o : Op) (hc : holds P s.issues) :
    holds P (performAccess s g o).1.issues := by grind [performAccess]
grind_pattern performAccess_holds => performAccess s g o, holds P _
theorem performOp_holds {P : List Issue → Prop} (hP : closed P) (s : State) (o : Op) (hc : holds P s.issues) : holds P (performOp s o).issues := by
  unfold performOp
  (repeat' split) <;> grind
grind_pattern performOp_holds => performOp s o, holds P _
theorem performAll_holds {P : List Issue → Prop} (hP : closed P) (s : State) (p : Op → Bool) (hc : holds P s.issues) :
    holds P (performAll s p).issues := by grind [performAll]
grind_pattern performAll_holds => performAll s p, holds P _
theorem performThread_holds {P : List Issue → Prop} (hP : closed P) (s : State) (gk : Nat) (tid : Nat) (hc : holds P s.issues) :
    holds P (performThread s gk tid).issues := by grind [performThread]
grind_pattern performThread_holds => performThread s gk tid, holds P _
theorem releaseThread_holds {P : List Issue → Prop} (hP : closed P) (s : State) (gk : Nat) (tid : Nat) (hc : holds P s.issues) :
    holds P (releaseThread s gk tid).issues := by grind [releaseThread]
grind_pattern releaseThread_holds => releaseThread s gk tid, holds P _
theorem releaseGroup_holds {P : List Issue → Prop} (hP : closed P) (s : State) (gk : Nat) (hc : holds P s.issues) :
    holds P (releaseGroup s gk).issues := by grind [releaseGroup]
grind_pattern releaseGroup_holds => releaseGroup s gk, holds P _
theorem endStep_holds {P : List Issue → Prop} (hP : closed P) (s : State) (gk : Nat) (hc : holds P s.issues) :
    holds P (endStep s gk).issues := by grind [endStep]
grind_pattern endStep_holds => endStep s gk, holds P _
theorem frameUpdate_holds {P : List Issue → Prop} (hP : closed P) (s : State) (g : Group) (f : Nat → Nat) (hc : holds P s.issues) :
    holds P (frameUpdate s g f).issues := by grind [frameUpdate]
grind_pattern frameUpdate_holds => frameUpdate s g f, holds P _
theorem frameRead_holds {P : List Issue → Prop} (hP : closed P) (s : State) (g : Group) (hc : holds P s.issues) :
    holds P (frameRead s g).1.issues := by grind [frameRead]
grind_pattern frameRead_holds => frameRead s g, holds P _
theorem groupExit_holds {P : List Issue → Prop} (hP : closed P) (s : State) (gk : Nat) (hc : holds P s.issues) :
    holds P (groupExit s gk).issues := by grind [groupExit]
grind_pattern groupExit_holds => groupExit s gk, holds P _
theorem childDone_holds {P : List Issue → Prop} (hP : closed P) (s : State) (part : Nat) (world : Bool) (frame : Nat) (failed : Bool)
    (hc : holds P s.issues) :
    holds P (childDone s part world frame failed).issues := by grind [childDone]
grind_pattern childDone_holds => childDone s part world frame failed, holds P _
theorem waitReady_holds {P : List Issue → Prop} (s : State) (part : Nat) (task : Nat) (gid : Nat) (k : WaitKind) (v : Nat)
    (hc : holds P s.issues) :
    holds P (waitReady s part task gid k v).1.issues := holds_of_kept (waitReady_kept ..) hc
grind_pattern waitReady_holds => waitReady s part task gid k v, holds P _
theorem objectReady_holds {P : List Issue → Prop} (hP : closed P) (s : State) (gk : Nat) (k : WaitKind) (obj : Nat) (part : Nat) (world : Bool)
    (hc : holds P s.issues) :
    holds P (objectReady s gk k obj part world).1.issues := by grind [objectReady]
grind_pattern objectReady_holds => objectReady s gk k obj part world, holds P _
theorem objectOwner_holds {P : List Issue → Prop} (hP : closed P) (s : State) (gk : Nat) (k : WaitKind) (obj : Nat) (part : Nat) (world : Bool)
    (hc : holds P s.issues) :
    holds P (objectOwner s gk k obj part world).1.issues := by
  unfold objectOwner
  grind
grind_pattern objectOwner_holds => objectOwner s gk k obj part world, holds P _
theorem markFailed_holds {P : List Issue → Prop} (hP : closed P) (s : State) (k : WaitKind) (obj : Nat) (part : Nat) (world : Bool)
    (hc : holds P s.issues) :
    holds P (markFailed s k obj part world).issues := by grind [markFailed]
grind_pattern markFailed_holds => markFailed s k obj part world, holds P _
theorem retest_holds {P : List Issue → Prop} (hP : closed P) (s : State) (ws : List Waiter) (hc : holds P s.issues) :
    holds P (retest s ws).issues := by grind [retest]
grind_pattern retest_holds => retest s ws, holds P _
theorem modFrame_holds {P : List Issue → Prop} (hP : closed P) (s : State) (die : Nat) (grid : Nat) (f : Frame → Frame) (hc : holds P s.issues) :
    holds P (modFrame s die grid f).issues := by grind [modFrame]
grind_pattern modFrame_holds => modFrame s die grid f, holds P _
theorem readTemplate_holds {P : List Issue → Prop} (hP : closed P) (s : State) (part : Nat) (world : Bool) (va : Nat) (hc : holds P s.issues) :
    holds P (readTemplate s part world va).1.issues := by grind [readTemplate]
grind_pattern readTemplate_holds => readTemplate s part world va, holds P _
theorem readViews_holds {P : List Issue → Prop} (hP : closed P) (part : Nat) (world : Bool) (a2 : State) (a3 : List Nat) (hc : holds P a2.issues) :
    holds P (readViews part world a2 a3).1.issues := by
  fun_induction readViews <;> grind
grind_pattern readViews_holds => readViews part world a2 a3, holds P _
theorem captureFrame_holds {P : List Issue → Prop} (hP : closed P) (f : Frame) (s : State) (e : Nat × Timing) (hc : holds P s.issues) :
    holds P (captureFrame f s e).issues := by grind [captureFrame]
grind_pattern captureFrame_holds => captureFrame f s e, holds P _
theorem openFrame_holds {P : List Issue → Prop} (hP : closed P) (s : State) (g : Grid) (hc : holds P s.issues) :
    holds P (openFrame s g).1.issues := by
  unfold openFrame
  grind
grind_pattern openFrame_holds => openFrame s g, holds P _
theorem closeGeometry_holds {P : List Issue → Prop} (hP : closed P) (s : State) (g : Grid) (hc : holds P s.issues) :
    holds P (closeGeometry s g).issues := by grind [closeGeometry]
grind_pattern closeGeometry_holds => closeGeometry s g, holds P _
theorem assignTile_holds {P : List Issue → Prop} (hP : closed P) (die : Nat) (grid : Nat) (s : State) (t : Tile) (hc : holds P s.issues) :
    holds P (assignTile die grid s t).issues := by grind [assignTile]
grind_pattern assignTile_holds => assignTile die grid s t, holds P _
theorem assignTiles_holds {P : List Issue → Prop} (hP : closed P) (s : State) (die : Nat) (hc : holds P s.issues) :
    holds P (assignTiles s die).issues := by grind [assignTiles]
grind_pattern assignTiles_holds => assignTiles s die, holds P _
theorem dropFrames_holds {P : List Issue → Prop} (hP : closed P) (s : State) (die : Nat) (hc : holds P s.issues) :
    holds P (dropFrames s die).issues := by grind [dropFrames]
grind_pattern dropFrames_holds => dropFrames s die, holds P _
theorem launchFormed_holds {P : List Issue → Prop} (hP : closed P) (s : State) (r : TaskRecord) (info : GfxInfo) (hc : holds P s.issues) :
    holds P (launchFormed s r info).issues := by grind [launchFormed]
grind_pattern launchFormed_holds => launchFormed s r info, holds P _
theorem launchGroup_holds {P : List Issue → Prop} (hP : closed P) (die : Nat) (grid : Nat) (s : State) (l : Launch) (hc : holds P s.issues) :
    holds P (launchGroup die grid s l).issues := by grind [launchGroup]
grind_pattern launchGroup_holds => launchGroup die grid s l, holds P _
theorem launchAll_holds {P : List Issue → Prop} (hP : closed P) (die : Nat) (grid : Nat) (s : State) (hc : holds P s.issues) :
    holds P (launchAll die grid s).issues := by grind [launchAll]
grind_pattern launchAll_holds => launchAll die grid s, holds P _
theorem retireTiles_holds {P : List Issue → Prop} (hP : closed P) (s : State) (info : GfxInfo) (hc : holds P s.issues) :
    holds P (retireTiles s info).issues := by
  unfold retireTiles
  grind
grind_pattern retireTiles_holds => retireTiles s info, holds P _
theorem dropHostLines_holds {P : List Issue → Prop} (hP : closed P) (s : State) (part : Nat) (hc : holds P s.issues) :
    holds P (dropHostLines s part).issues := by grind [dropHostLines]
grind_pattern dropHostLines_holds => dropHostLines s part, holds P _
theorem flushHostLines_holds {P : List Issue → Prop} (hP : closed P) (s : State) (part : Nat) (hc : holds P s.issues) :
    holds P (flushHostLines s part).issues := by grind [flushHostLines]
grind_pattern flushHostLines_holds => flushHostLines s part, holds P _
theorem dropAllClean_holds {P : List Issue → Prop} (hP : closed P) (s : State) (core : Nat) (hc : holds P s.issues) :
    holds P (dropAllClean s core).issues := by grind [dropAllClean]
grind_pattern dropAllClean_holds => dropAllClean s core, holds P _
theorem settleL1s_holds {P : List Issue → Prop} (hP : closed P) (s : State) (cluster : Nat) (hc : holds P s.issues) :
    holds P (settleL1s s cluster).issues := by grind [settleL1s]
grind_pattern settleL1s_holds => settleL1s s cluster, holds P _
theorem beginFusion_holds {P : List Issue → Prop} (hP : closed P) (s : State) (cluster : Nat) (grid : Nat) (hc : holds P s.issues) :
    holds P (beginFusion s cluster grid).issues := by grind [beginFusion]
grind_pattern beginFusion_holds => beginFusion s cluster grid, holds P _
theorem endFusion_holds {P : List Issue → Prop} (hP : closed P) (grid : Nat) (s : State) (cluster : Nat) (hc : holds P s.issues) :
    holds P (endFusion grid s cluster).issues := by grind [endFusion]
grind_pattern endFusion_holds => endFusion grid s cluster, holds P _
theorem readOwnership_holds {P : List Issue → Prop} (hP : closed P) (s : State) (r : TaskRecord) (kd : KDesc) (hc : holds P s.issues) :
    holds P (readOwnership s r kd).1.issues := holds_of_kept (readOwnership_kept ..) hc
grind_pattern readOwnership_holds => readOwnership s r kd, holds P _
theorem readFirstTable_holds {P : List Issue → Prop} (hP : closed P) (s : State) (g : Grid) (r : TaskRecord) (kd : KDesc) (hc : holds P s.issues) :
    holds P (readFirstTable s g r kd).1.issues := by grind [readFirstTable]
grind_pattern readFirstTable_holds => readFirstTable s g r kd, holds P _
theorem openFirstFrame_holds {P : List Issue → Prop} (hP : closed P) (s : State) (g : Grid) (r : TaskRecord) (hc : holds P s.issues) :
    holds P (openFirstFrame s g r).1.issues := by grind [openFirstFrame]
grind_pattern openFirstFrame_holds => openFirstFrame s g r, holds P _
theorem firstDispatch_holds {P : List Issue → Prop} (hP : closed P) (s : State) (g : Grid) (r : TaskRecord) (kd : KDesc) (hc : holds P s.issues) :
    holds P (firstDispatch s g r kd).1.issues := by grind [firstDispatch]
grind_pattern firstDispatch_holds => firstDispatch s g r kd, holds P _
theorem endHelp_holds {P : List Issue → Prop} (hP : closed P) (s : State) (gk : Nat) (hc : holds P s.issues) : holds P (endHelp s gk).issues := by grind [endHelp]
grind_pattern endHelp_holds => endHelp s gk, holds P _
theorem freeSlotOf_holds {P : List Issue → Prop} (hP : closed P) (s : State) (at' : Nat × Nat) (hc : holds P s.issues) :
    holds P (freeSlotOf s at').issues := by grind [freeSlotOf]
grind_pattern freeSlotOf_holds => freeSlotOf s at', holds P _
theorem completeGrid_holds {P : List Issue → Prop} (hP : closed P) (s : State) (id : Nat) (hc : holds P s.issues) :
    holds P (completeGrid s id).issues := by grind [completeGrid]
grind_pattern completeGrid_holds => completeGrid s id, holds P _
theorem retireGroups_holds {P : List Issue → Prop} (hP : closed P) (s : State) (id : Nat) (n : Nat) (hc : holds P s.issues) :
    holds P (retireGroups s id n).issues := by grind [retireGroups]
grind_pattern retireGroups_holds => retireGroups s id n, holds P _
theorem failDispatch_holds {P : List Issue → Prop} (hP : closed P) (s : State) (id : Nat) (gid : Nat) (hc : holds P s.issues) :
    holds P (failDispatch s id gid).issues := by grind [failDispatch]
grind_pattern failDispatch_holds => failDispatch s id gid, holds P _
theorem prepare_holds {P : List Issue → Prop} (hP : closed P) (s : State) (r : TaskRecord) (hc : holds P s.issues) :
    holds P (prepare s r).1.issues := by grind [prepare]
grind_pattern prepare_holds => prepare s r, holds P _
theorem startThreads_holds {P : List Issue → Prop} (hP : closed P) (s : State) (r : TaskRecord) (p : Prepared) (parked : Option Group)
    (hc : holds P s.issues) :
    holds P (startThreads s r p parked).1.issues := by grind [startThreads]
grind_pattern startThreads_holds => startThreads s r p parked, holds P _
theorem clearRoom_holds {P : List Issue → Prop} (hP : closed P) (s : State) (core : Nat) (r : TaskRecord) (room : Room) (hc : holds P s.issues) :
    holds P (clearRoom s core r room).issues := by grind [clearRoom]
grind_pattern clearRoom_holds => clearRoom s core r room, holds P _
theorem settleStart_holds {P : List Issue → Prop} (hP : closed P) (s : State) (gk : Nat) (hc : holds P s.issues) :
    holds P (settleStart s gk).issues := by grind [settleStart]
grind_pattern settleStart_holds => settleStart s gk, holds P _
theorem failFresh_holds {P : List Issue → Prop} (hP : closed P) (s : State) (core : Nat) (gid : Nat) (e : DeckEntry) (grid : Grid) (kd : KDesc)
    (room : Room) (f : FaultInfo) (hc : holds P s.issues) :
    holds P (failFresh s core gid e grid kd room f).1.issues := by grind [failFresh]
grind_pattern failFresh_holds => failFresh s core gid e grid kd room f, holds P _
theorem startPhase_holds {P : List Issue → Prop} (hP : closed P) (s : State) (core : Nat) (e : DeckEntry) (gid : Nat) (parked : Option Group)
    (room : Room) (adopt : Option (Nat × Nat)) (hc : holds P s.issues) :
    holds P (startPhase s core e gid parked room adopt).1.issues := by
  unfold startPhase
  (repeat' split) <;> grind
grind_pattern startPhase_holds => startPhase s core e gid parked room adopt, holds P _
theorem leaveLanding_holds {P : List Issue → Prop} (hP : closed P) (part : Nat) (cluster : Nat) (cls : Nat) (s : State) (e : DeckEntry)
    (hc : holds P s.issues) :
    holds P (leaveLanding part cluster cls s e).issues := by grind [leaveLanding]
grind_pattern leaveLanding_holds => leaveLanding part cluster cls s e, holds P _
theorem leaveQueue_holds {P : List Issue → Prop} (hP : closed P) (s : State) (cluster : Nat) (cls : Nat) (e : DeckEntry) (hc : holds P s.issues) :
    holds P (leaveQueue s cluster cls e).issues := by grind [leaveQueue]
grind_pattern leaveQueue_holds => leaveQueue s cluster cls e, holds P _
theorem noteDispatch_holds {P : List Issue → Prop} (hP : closed P) (s : State) (id : Nat) (parked : Option Group) (hc : holds P s.issues) :
    holds P (noteDispatch s id parked).issues := by grind [noteDispatch]
grind_pattern noteDispatch_holds => noteDispatch s id parked, holds P _
theorem markEntry_holds {P : List Issue → Prop} (hP : closed P) (s : State) (cluster : Nat) (cls : Nat) (e : DeckEntry) (hc : holds P s.issues) :
    holds P (markEntry s cluster cls e).issues := by grind [markEntry]
grind_pattern markEntry_holds => markEntry s cluster cls e, holds P _
theorem dispatchEntry_holds {P : List Issue → Prop} (hP : closed P) (s : State) (core : Nat) (cluster : Nat) (cls : Nat) (e : DeckEntry)
    (room : Room) (adopt : Option (Nat × Nat)) (hc : holds P s.issues) :
    holds P (dispatchEntry s core cluster cls e room adopt).1.issues := by grind [dispatchEntry]
grind_pattern dispatchEntry_holds => dispatchEntry s core cluster cls e room adopt, holds P _
theorem chase_holds {P : List Issue → Prop} (hP : closed P) (core : Nat) (cls : Nat) (w0 : Waiter) (a3 : Nat) (a4 : State) (a5 : Waiter)
    (hc : holds P a4.issues) :
    holds P (chase core cls w0 a3 a4 a5).1.issues := by
  fun_induction chase <;> grind
grind_pattern chase_holds => chase core cls w0 a3 a4 a5, holds P _
theorem parkWaiter_holds {P : List Issue → Prop} (hP : closed P) (s : State) (w : Waiter) (hc : holds P s.issues) :
    holds P (parkWaiter s w).issues := by grind [parkWaiter]
grind_pattern parkWaiter_holds => parkWaiter s w, holds P _
theorem releaseWaiter_holds {P : List Issue → Prop} (hP : closed P) (s : State) (w : Waiter) (hc : holds P s.issues) :
    holds P (releaseWaiter s w).issues := by grind [releaseWaiter]
grind_pattern releaseWaiter_holds => releaseWaiter s w, holds P _
theorem takeParked_holds {P : List Issue → Prop} (hP : closed P) (s : State) (gk : Nat) (hc : holds P s.issues) :
    holds P (takeParked s gk).issues := by
  unfold takeParked
  split <;> grind
grind_pattern takeParked_holds => takeParked s gk, holds P _
theorem help_holds {P : List Issue → Prop} (hP : closed P) (core : Nat) (w : Waiter) (a2 : Nat) (a3 : State) (hc : holds P a3.issues) :
    holds P (help core w a2 a3).issues := by
  fun_induction help <;> grind
grind_pattern help_holds => help core w a2 a3, holds P _

/-! ## Issue groups that a group has left -/

/-- Every issue group has a member, and none of the group gk. -/
def clear (gk : Nat) (l : List Issue) : Prop := ∀ i ∈ l, i.members ≠ [] ∧ ∀ m ∈ i.members, m.1 ≠ gk

theorem clear_dropMembers_same (s : State) (gk : Nat) : clear gk (dropMembers s fun m => m.1 == gk).issues := fun _ hi =>
  ⟨by simpa using (List.mem_filter.mp hi).2, fun _ hm => by simpa using mem_dropMembers hi hm⟩

theorem clear_closed (gk : Nat) : closed (clear gk) := by
  intro s k hc i hi
  obtain ⟨h1, h2⟩ := List.mem_filter.mp hi
  obtain ⟨j, hj, rfl⟩ := List.mem_map.mp h1
  exact ⟨by simpa using h2, fun m hm => (hc j hj).2 m (List.mem_filter.mp hm).1⟩

end Sys2Proof.Machine
end

section
/-! SUPPORT. Waits that are not ready (R314, R44, R303): the waiter counted, the phase ended at the wait, the group parked or helped. -/
namespace Sys2Proof.Machine
open Sys2Proof.Claims

/-! ## A phase that ended without failing its group -/

/-- A record access that faults leaves its group failed, where there is one (R465). -/
theorem failRecord_failed {s : State} {gk : Nat} {f : FaultInfo} {x : Group} (hx : groupOf (failRecord s gk f) gk = some x) :
    x.failed = true := by
  unfold failRecord at hx
  cases hg : groupOf s gk with
  | none =>
    rw [hg] at hx
    exact absurd (hg.symm.trans hx) (by simp)
  | some g =>
    rw [hg] at hx
    dsimp only at hx
    cases hf : g.failed with
    | true =>
      have hs : ∀ a b, failGroup s gk a b = s := fun a b => by simp [failGroup, hg, hf]
      rw [hs, hg] at hx
      exact Option.some.inj hx ▸ hf
    | false =>
      obtain ⟨g', h1, h2, -⟩ := (failGroup_failed hg hf _ f.va).group
      exact Option.some.inj (h1.symm.trans hx) ▸ h2

section
variable {s : State} {gk : Nat} {g g3 : Group} {rpc hdr : DWord} {n wobj : Nat}

/-- A phase end whose group has not failed has written the phase record (R40, R465). -/
theorem endPhase_wrote (h3 : groupOf (endPhase s gk rpc hdr n wobj) gk = some g3) (hf : g3.failed = false) :
    ∃ g, groupOf (releaseGroup s gk) gk = some g ∧
      (hwWrite (releaseGroup s gk) g.record.part g.record.world (phaseRecordVa g) (phaseRecord g rpc n wobj)).2 = none := by
  cases hg : groupOf (releaseGroup s gk) gk with
  | none =>
    have he : endPhase s gk rpc hdr n wobj = releaseGroup s gk := by simp [endPhase, hg]
    rw [he, hg] at h3
    exact absurd h3 (by simp)
  | some g =>
    refine ⟨g, rfl, ?_⟩
    rcases hw : hwWrite (releaseGroup s gk) g.record.part g.record.world (phaseRecordVa g) (phaseRecord g rpc n wobj) with ⟨s1, _ | f⟩
    · rfl
    · have he : endPhase s gk rpc hdr n wobj = failRecord s1 gk f := by simp [endPhase, hg, hw]
      rw [he] at h3
      exact absurd (failRecord_failed h3) (by simp [hf])

theorem endPhase_clear (h3 : groupOf (endPhase s gk rpc hdr n wobj) gk = some g3) (hf : g3.failed = false) :
    clear gk (endPhase s gk rpc hdr n wobj).issues := by
  obtain ⟨g, hg, hw⟩ := endPhase_wrote h3 hf
  exact endPhase_issues hg hw

/-! ## The wait -/

/-- A wait whose group parked without failing goes to the waiters of its object, or its core helps (R314, R303). -/
theorem parkWait_eq {k : WaitKind} {va : Nat} {site : FaultSite}
    (h3 : groupOf (endPhase (countWaiter s g.record.part g.record.world va k 1) g.gk site.pc site.hdr (variantCarry g) va) g.gk = some g3)
    (hf : g3.failed = false) (hgk : g3.gk = g.gk) (hcore : g3.core = g.core) (hdet : g3.record.det = g.record.det)
    (hworld : g3.record.world = g.record.world) :
    parkWait s g k va site = .left (
      let s4 := modGroup (endPhase (countWaiter s g.record.part g.record.world va k 1) g.gk site.pc site.hdr (variantCarry g) va) g.gk
        fun x => { x with wait := some (k, va) }
      let w : Waiter := { gk := g.gk, kind := k, obj := va, part := g.record.part, world := g.record.world }
      if g.record.det then parkWaiter s4 w else help g.core w 8 s4) := by
  unfold parkWait
  simp only [h3, hf, hgk, hcore, hdet, hworld, Bool.false_eq_true, if_false]

end

section
variable {s r r1 : State} {i : Issue} {rest : List Issue} {g g3 : Group} {t0 : Thread} {ts : List Thread} {o : TaskOp} {ins : Instr}
  {k : State → Group → List Thread → Except FaultInfo WaitKind} {kind : WaitKind} {size v : Nat}
  {refuse : Group → Nat → Option FaultInfo} {effect : State → Group → List Thread → Nat → State × Option FaultInfo}

/-- The state in which a group's phase has ended at a wait that is not ready, the wait counted and noted (R314, R303). -/
def waitState (r1 : State) (i : Issue) (g : Group) (kind : WaitKind) (va : Nat) : State :=
  endPhase (countWaiter r1 g.record.part g.record.world va kind 1) g.gk (i.hdr + BitVec.ofNat 64 (4 * (i.off + 1))) i.hdr
    (variantCarry g) va

/-- The same with the wait noted in the group. -/
def notedState (r1 : State) (i : Issue) (g : Group) (kind : WaitKind) (va : Nat) : State :=
  modGroup (waitState r1 i g kind va) g.gk fun x => { x with wait := some (kind, va) }

/-- The waiter of a group's wait (R314). -/
def waiterOf (g : Group) (kind : WaitKind) (va : Nat) : Waiter :=
  { gk := g.gk, kind := kind, obj := va, part := g.record.part, world := g.record.world }

/-- What becomes of the waiter: it parks in a deterministic grid, elsewhere its core helps (R314, R303). -/
def afterWait (r1 : State) (i : Issue) (g : Group) (kind : WaitKind) (va : Nat) : State :=
  if g.record.det then
    { notedState r1 i g kind va with waiters := (notedState r1 i g kind va).waiters ++ [waiterOf g kind va] }
  else help g.core (waiterOf g kind va) 8 (notedState r1 i g kind va)

theorem afterWait_clear {va : Nat} (h : clear g.gk (waitState r1 i g kind va).issues) : clear g.gk (afterWait r1 i g kind va).issues := by
  have h4 : clear g.gk (notedState r1 i g kind va).issues := h
  unfold afterWait
  by_cases hd : g.record.det = true
  · rw [if_pos hd]
    exact h4
  · rw [if_neg hd]
    exact help_holds (clear_closed g.gk) g.core _ 8 _ h4

theorem parkWait_site (hpay : kind ≠ .payload) {va : Nat}
    (h3 : groupOf (waitState r1 i g kind va) g.gk = some g3) (hf : g3.failed = false) (hgk : g3.gk = g.gk)
    (hcore : g3.core = g.core) (hdet : g3.record.det = g.record.det) (hworld : g3.record.world = g.record.world) :
    parkWait r1 g kind va (siteOf i) = .left (afterWait r1 i g kind va) := by
  have hpark : ∀ x : State, parkWaiter x (waiterOf g kind va) = { x with waiters := x.waiters ++ [waiterOf g kind va] } :=
    fun x => if_neg hpay
  have h := parkWait_eq (site := siteOf i) h3 hf hgk hcore hdet hworld
  refine h.trans (congrArg GroupOut.left ?_)
  unfold afterWait
  by_cases hd : g.record.det = true
  · exact (if_pos hd).trans ((hpark _).trans (if_pos hd).symm)
  · exact (if_neg hd).trans (if_neg hd).symm

/-- A wait whose checks pass and whose object is not ready. -/
theorem exec_waits (hp : Performs s i rest g o.g t0 ts) (hx : exec ins s = .next (runWait o k size refuse effect s))
    (hk : k s g ts = .ok kind) (hr : readObject s g t0 o size .rw = (r, .ok v)) (href : refuse g v = none)
    (hready : waitReady r g.record.part g.record.taskid g.gid kind v = (r1, false)) (hpay : kind ≠ .payload)
    (h3 : groupOf (waitState r1 i g kind (objectVa g o)) g.gk = some g3) (hf : g3.failed = false) (hgk : g3.gk = g.gk)
    (hcore : g3.core = g.core) (hdet : g3.record.det = g.record.det) (hworld : g3.record.world = g.record.world) :
    exec ins s = .next (afterWait r1 i g kind (objectVa g o)) := by
  have hsite : headSite s = siteOf i := headSite_cons hp.converged.head.issues
  rw [hx]
  refine congrArg Host.Outcome.next ?_
  unfold runWait
  refine hp.runGroup_left (s1 := afterWait r1 i g kind (objectVa g o)) ?_ (afterWait_clear (endPhase_clear h3 hf))
  simp only [hp.first, hk, hr, href, hready, hsite]
  exact parkWait_site hpay h3 hf hgk hcore hdet hworld

end
end Sys2Proof.Machine
open Sys2Proof Sys2Proof.Machine Sys2Proof.Claims

/-- Settles O42: the object is not ready, so the phase ends at the wait; a level whose phase has ended is left and its waiter helped. -/
theorem waitsThatAreNotReady : Obligations.WaitsThatAreNotReady := by
  refine ⟨?_, ?_⟩
  · intro o s i rest g t0 ts hp part world parks
    have park : ∀ {ins : TaskOp → Instr} {k : State → Group → List Thread → Except FaultInfo WaitKind} {kind : WaitKind} {size : Nat}
        {refuse : Group → Nat → Option FaultInfo} {effect : State → Group → List Thread → Nat → State × Option FaultInfo},
        exec (ins o) s = .next (runWait o k size refuse effect s) → k s g ts = .ok kind → kind ≠ .payload →
        (∀ v, (kind = .qget ∨ kind = .qput → 1 ≤ field v 64 4 ∧ field v 64 4 ≤ 12) →
          (kind = .qget → field v 32 32 = 0 ∨ field v 32 32 = g.record.taskid) →
          (kind = .qput → field v 0 32 = 0 ∨ field v 0 32 = g.record.taskid) →
          (kind = .tktake → field v 0 32 ≤ g.gid % 2 ^ 32) → refuse g v = none) → parks ins size kind := by
      intro ins k kind size refuse effect hx hk hpay href v hv hring hget hput htk ready va pc s3 w g3 hready h3 hf hgk hcore hdet _ hworld s4
      have h := exec_waits hp hx hk (Prod.ext rfl hv) (href v hring hget hput htk) (Prod.ext rfl hready) hpay h3 hf hgk hcore hdet hworld
      refine ⟨fun hd => h.trans ?_, fun hd => h.trans ?_⟩
      · exact congrArg Host.Outcome.next (if_pos hd)
      · exact congrArg Host.Outcome.next (if_neg (by simp [hd]))
    refine ⟨?_, fun hregs => ?_, fun t n ht hn => ?_, ?_, fun v n hlt => ?_⟩
    · unfold objectWaits
      simp only [List.forall_mem_cons, List.not_mem_nil, false_imp_iff, implies_true, and_true]
      refine ⟨?_, ?_, ?_, ?_⟩
      · exact park (exec_fget o s) rfl (by simp) fun v _ _ _ _ => rfl
      · exact park (exec_lacq o s) rfl (by simp) fun v _ _ _ _ => rfl
      · exact park (exec_qget o s) rfl (by simp) fun v hc hg _ _ => ringRefuse_none (hc (.inl rfl)).1 (hc (.inl rfl)).2 (hg rfl)
      · exact park (exec_tktake o s) rfl (by simp) fun v _ _ _ ht => if_neg (not_lt.mpr (ht rfl))
    · exact park (exec_qput o s) (qputKind_ok hregs s g) (by simp)
        fun v hc _ hp _ => ringRefuse_none (hc (.inr rfl)).1 (hc (.inr rfl)).2 (hp rfl)
    · exact park (exec_tkwait o s) (tkwaitKind_ok ht hn s) (by simp) fun v _ _ _ _ => rfl
    · intro v hu x hx
      exact (waitReady_qput_full (Nat.sub_eq_zero_of_le hu.ge)).trans (Prod.ext rfl hx)
    · exact congrArg (s, ·) (decide_eq_false (not_le.mpr hlt))
  · intro core s l hl s1
    have hx : exec (.adoptedPhaseEnd core) s = .next (match groupOf s1 l.waiter with
        | none => s1
        | some g => if l.taken || g.run != .parked then s1
          else help core { gk := l.waiter, kind := l.kind, obj := l.obj, part := l.part, world := l.world } 8 s1) := by
      show execAdoptedPhaseEnd core s = _
      unfold execAdoptedPhaseEnd
      rw [hl] <;> rfl
    refine ⟨fun g hg hrun ht => ?_, fun h => ?_⟩
    · have hg1 : groupOf s1 l.waiter = some g := hg
      rw [hx, hg1]
      simp [ht, hrun]
    · rw [hx]
      cases hg : groupOf s l.waiter with
      | none => rw [show groupOf s1 l.waiter = none from hg]
      | some g =>
        rw [show groupOf s1 l.waiter = some g from hg]
        rcases h g hg with hr | hr <;> simp [hr]
end

section
/-! SUPPORT. What waking waiters leaves as it is (R303, R314, R315), and lists put in order. -/
namespace Sys2Proof.Machine
open Sys2Proof.Claims

/-! ## Waking waiters -/

/-- A group without the note that it awaits its children. -/
def unawaited (g : Group) : Group := { g with awaiting := false }

/-- What of a state the waking of waiters does not change: all that is beyond the decks, but for waiters and who awaits its children. -/
def calm (s : State) : State × (Nat → Mem × Mem × Mem) := beyondDecks { s with waiters := [], groups := s.groups.map unawaited }

theorem calm_of_beyondDecks {s s' : State} (h : beyondDecks s' = beyondDecks s) : calm s' = calm s := by
  obtain ⟨h1, h2⟩ := Prod.mk.inj h
  exact congrArg₂ Prod.mk (congrArg (fun k : State => { k with waiters := [], groups := k.groups.map unawaited }) h1) h2

theorem calm_of_kept {s s' : State} (h : kept s' = kept s) : calm s' = calm s := calm_of_beyondDecks (beyondDecks_of_kept h)

theorem setGroups_calm (s : State) {l : List Group} (h : l.map unawaited = s.groups.map unawaited) :
    calm { s with groups := l } = calm s := by
  unfold calm
  dsimp only
  rw [h]

theorem foldl_calm {α : Type} {f : State → α → State} (hf : ∀ s x, calm (f s x) = calm s) (l : List α) (s : State) :
    calm (l.foldl f s) = calm s := by
  induction l generalizing s with
  | nil => rfl
  | cons x l ih => rw [List.foldl_cons, ih, hf]

theorem enqueueCont_calm (s : State) (gk : Nat) : calm (enqueueCont s gk) = calm s := by
  unfold enqueueCont
  split
  · rfl
  · dsimp only
    rw [calm_of_beyondDecks (enqueueEntry_beyondDecks ..)]
    exact setGroups_calm s (map_updFirst (f := unawaited) (fun _ => rfl) _)

theorem countWaiter_kept (s : State) (part : Nat) (world : Bool) (obj : Nat) (k : WaitKind) (delta : Nat) :
    kept (countWaiter s part world obj k delta) = kept s := by
  unfold countWaiter
  split
  · rfl
  · exact hwUpdate_kept ..

theorem wakeWaiter_calm (s : State) (w : Waiter) : calm (wakeWaiter s w) = calm s := by
  unfold wakeWaiter
  rw [enqueueCont_calm, calm_of_kept (countWaiter_kept ..)]
  rfl

theorem wakeAll_calm (s : State) (part : Nat) (world : Bool) (obj : Nat) : calm (wakeAll s part world obj) = calm s :=
  foldl_calm wakeWaiter_calm _ s

theorem settleFuture_calm (s : State) (part : Nat) (world : Bool) (va value : Nat) (failed : Bool) :
    calm (settleFuture s part world va value failed).1 = calm s := by
  have hr := hwRead_kept s part world va 32
  unfold settleFuture
  split
  · next h => rw [h] at hr; exact calm_of_kept hr
  · next s1 bs h =>
    rw [h] at hr
    have h1 : calm s1 = calm s := calm_of_kept hr
    dsimp only
    split
    · exact h1
    · have hw := hwWrite_kept s1 part world va
        (leBytes (if failed then setField (leNat bs) 0 2 3 else setField (setField (leNat bs) 0 2 2) 128 64 value) 32)
      split
      · next hf => rw [hf] at hw; exact (calm_of_kept hw).trans h1
      · next hf => rw [hf] at hw; exact (wakeAll_calm ..).trans ((calm_of_kept hw).trans h1)

theorem markFailed_calm (s : State) (k : WaitKind) (obj part : Nat) (world : Bool) : calm (markFailed s k obj part world) = calm s := by
  unfold markFailed
  split
  · exact settleFuture_calm ..
  · rfl

theorem objectReady_kept (s : State) (gk : Nat) (k : WaitKind) (obj part : Nat) (world : Bool) :
    kept (objectReady s gk k obj part world).1 = kept s := by
  have hr := hwRead_kept s part world obj (objectSize k)
  unfold objectReady
  split
  · rfl
  · generalize hwRead s part world obj (objectSize k) = r at hr
    obtain ⟨s1, e⟩ := r
    cases groupOf s gk with
    | none => exact hr
    | some g =>
      cases e with
      | error f => exact hr
      | ok bs => exact (waitReady_kept ..).trans hr

/-- One parked waiter tested (R303, R315). -/
def retestOne (s : State) (w : Waiter) : State :=
  match objectReady s w.gk w.kind w.obj w.part w.world with
  | (s, false) => s
  | (s, true) =>
    let on := handedOn s w
    let s := markFailed s w.kind w.obj w.part w.world
    if !on && s.waiters.any (fun x => x.gk == w.gk) then wakeWaiter s w else s

theorem retestOne_calm (s : State) (w : Waiter) : calm (retestOne s w) = calm s := by
  have hr := objectReady_kept s w.gk w.kind w.obj w.part w.world
  unfold retestOne
  split
  · next h => rw [h] at hr; exact calm_of_kept hr
  · next h =>
    rw [h] at hr
    dsimp only
    split
    · exact (wakeWaiter_calm ..).trans ((markFailed_calm ..).trans (calm_of_kept hr))
    · exact (markFailed_calm ..).trans (calm_of_kept hr)

theorem retest_calm (s : State) (ws : List Waiter) : calm (retest s ws) = calm s := foldl_calm retestOne_calm ws s

theorem setTicket_calm (s : State) (part : Nat) (world : Bool) (va v : Nat) : calm (setTicket s part world va v).1 = calm s := by
  have hw := hwWrite_kept s part world va (leBytes v 8)
  unfold setTicket
  split
  · next h => rw [h] at hw; exact calm_of_kept hw
  · next h => rw [h] at hw; exact (retest_calm ..).trans (calm_of_kept hw)

section
variable {s s' : State} (h : calm s' = calm s)
include h

theorem ops_of_calm : s'.ops = s.ops := congrArg (fun k => k.1.ops) h
theorem issues_of_calm : s'.issues = s.issues := congrArg (fun k => k.1.issues) h
theorem grids_of_calm : s'.grids = s.grids := congrArg (fun k => k.1.grids) h
theorem groups_of_calm : s'.groups.map unawaited = s.groups.map unawaited := congrArg (fun k => k.1.groups) h

end

/-! ## Lists put in order -/

section
variable {α : Type} (f : α → Nat)

theorem insertBy_perm (x : α) (l : List α) : (insertBy f x l).Perm (x :: l) := by
  induction l with
  | nil => exact List.Perm.refl _
  | cons y r ih =>
    unfold insertBy
    split
    · exact List.Perm.refl _
    · exact (ih.cons y).trans (List.Perm.swap x y r)

theorem insertBy_sorted (x : α) {l : List α} (h : l.Pairwise fun a b => f a ≤ f b) :
    (insertBy f x l).Pairwise fun a b => f a ≤ f b := by
  induction l with
  | nil => exact List.pairwise_singleton _ x
  | cons y r ih =>
    obtain ⟨hy, hr⟩ := List.pairwise_cons.mp h
    unfold insertBy
    split
    · next hxy =>
      refine List.pairwise_cons.mpr ⟨fun z hz => ?_, h⟩
      rcases List.mem_cons.mp hz with rfl | hz
      · exact hxy.le
      · exact hxy.le.trans (hy z hz)
    · next hxy =>
      refine List.pairwise_cons.mpr ⟨fun z hz => ?_, ih hr⟩
      rcases List.mem_cons.mp ((insertBy_perm f x r).mem_iff.mp hz) with rfl | hz
      · exact not_lt.mp hxy
      · exact hy z hz

theorem sortBy_perm_sorted (l : List α) : (sortBy f l).Perm l ∧ (sortBy f l).Pairwise fun a b => f a ≤ f b := by
  have main : ∀ acc : List α, (acc.Pairwise fun a b => f a ≤ f b) →
      (l.foldl (fun acc x => insertBy f x acc) acc).Perm (acc ++ l) ∧
      (l.foldl (fun acc x => insertBy f x acc) acc).Pairwise fun a b => f a ≤ f b := by
    induction l with
    | nil => exact fun acc h => ⟨by simp, h⟩
    | cons x l ih =>
      intro acc h
      obtain ⟨h1, h2⟩ := ih _ (insertBy_sorted f x h)
      exact ⟨h1.trans (((insertBy_perm f x acc).append_right l).trans List.perm_middle.symm), h2⟩
  exact main [] List.Pairwise.nil

theorem sortBy_perm (l : List α) : (sortBy f l).Perm l := (sortBy_perm_sorted f l).1
theorem sortBy_sorted (l : List α) : (sortBy f l).Pairwise fun a b => f a ≤ f b := (sortBy_perm_sorted f l).2

/-- A list in strictly ascending order is the only order of its elements. -/
theorem sortBy_eq_of_strict {l gs : List α} (hp : gs.Perm l) (hs : gs.Pairwise fun a b => f a < f b) : sortBy f l = gs := by
  have inj : ∀ a ∈ gs, ∀ b ∈ gs, f a = f b → a = b := by
    intro a ha b hb he
    by_contra hne
    have h := List.Pairwise.forall_of_forall_of_flip (R := fun a b => a ≠ b → f a ≠ f b) (l := gs) (fun x _ hx => absurd rfl hx)
      (hs.imp fun h _ => h.ne) (hs.imp fun h _ => h.ne')
    exact h ha hb hne he
  refine List.Perm.eq_of_pairwise (le := fun a b => f a ≤ f b) (fun a b ha hb h1 h2 => ?_) (sortBy_sorted f l)
    (hs.imp fun h => h.le) ((sortBy_perm f l).trans hp.symm)
  exact inj a (hp.mem_iff.mpr ((sortBy_perm f l).mem_iff.mp ha)) b hb (Nat.le_antisymm h1 h2)

end
end Sys2Proof.Machine
end

section
/-! SUPPORT. Steps of deterministic grids (R250, R254 to R256, R333): tickets taken by the hardware, and what a commit leaves. -/
namespace Sys2Proof.Machine
open Sys2Proof.Claims

/-! ## Tickets taken by the hardware -/

/-- A ticket taken for a group, poisoned when the group has failed (R333, R256). -/
def takenTicket (g : Group) (v : Nat) : Nat :=
  if g.failed then setField (setField v 0 32 (g.gid + 1)) 32 1 1 else setField v 0 32 (g.gid + 1)

theorem isTicket_takenTicket (g : Group) (v : Nat) : IsTicket v (takenTicket g v) (g.gid + 1) (bitOf v 32 || g.failed) := by
  unfold takenTicket
  cases hf : g.failed with
  | false =>
    rw [if_neg (by simp), Bool.or_false]
    exact isTicket_setField v (g.gid + 1)
  | true =>
    rw [if_pos rfl, Bool.or_true]
    refine ⟨by rw [field_setField_other (by decide), field_setField], ?_, ?_⟩
    · rw [bitOf_eq, testBit_setField, if_pos (by decide)]
      rfl
    · exact sameOutside_setField (sameOutside_setField (sameOutside_refl v _) (by simp)) (by simp)

theorem execTicket_taken {gk slot va v : Nat} {s : State} {g : Group} (hd : dueTicket s gk slot = some (g, va, .ok v))
    (hw : (setTicket (modGroup (releaseGroup s gk) gk fun x => { x with taken := x.taken ++ [slot] }) g.record.part g.record.world va
      (takenTicket g v)).2 = none) :
    exec (.ticketAutomaticTake gk slot) s = .next
      (setTicket (modGroup (releaseGroup s gk) gk fun x => { x with taken := x.taken ++ [slot] }) g.record.part g.record.world va
        (takenTicket g v)).1 := by
  have hp : setTicket (modGroup (releaseGroup s gk) gk fun x => { x with taken := x.taken ++ [slot] }) g.record.part g.record.world va
      (if g.failed then setField (setField v 0 32 (g.gid + 1)) 32 1 1 else setField v 0 32 (g.gid + 1)) =
      ((setTicket (modGroup (releaseGroup s gk) gk fun x => { x with taken := x.taken ++ [slot] }) g.record.part g.record.world va
        (takenTicket g v)).1, none) := Prod.ext rfl hw
  show execTicketAutomaticTake gk slot s = _
  unfold execTicketAutomaticTake
  simp only [hd, hp]

theorem execTicket_notDue {gk slot : Nat} {s : State} (hd : dueTicket s gk slot = none) :
    exec (.ticketAutomaticTake gk slot) s = .next s := by
  show execTicketAutomaticTake gk slot s = _
  unfold execTicketAutomaticTake
  rw [hd]

/-! ## What the entries of a log leave as it is -/

/-- The operations, the grids with their committed steps, and the groups with their grids. -/
def bones (s : State) : List Op × List (Nat × Nat) × List (Nat × Nat) :=
  (s.ops, s.grids.map fun g => (g.id, g.commits), s.groups.map fun g => (g.gk, g.grid))

theorem bones_of_kept {s s' : State} (h : kept s' = kept s) : bones s' = bones s := congrArg (fun k => bones k.1) h

theorem modGroup_bones {s : State} {gk : Nat} {f : Group → Group} (hf : ∀ g, ((f g).gk, (f g).grid) = (g.gk, g.grid)) :
    bones (modGroup s gk f) = bones s := by
  unfold bones
  rw [modGroup_groups, map_updFirst (f := f) hf]
  rfl

theorem modGrid_bones {s : State} {id : Nat} {f : Grid → Grid} (hf : ∀ g, ((f g).id, (f g).commits) = (g.id, g.commits)) :
    bones (modGrid s id f) = bones s := by
  unfold bones
  rw [modGrid_grids, map_updFirst (f := f) hf]
  rfl

theorem foldl_bones {α : Type} {f : State → α → State} (hf : ∀ s x, bones (f s x) = bones s) (l : List α) (s : State) :
    bones (l.foldl f s) = bones s := by
  induction l generalizing s with
  | nil => rfl
  | cons x l ih => rw [List.foldl_cons, ih, hf]

theorem setWaiters_bones (s : State) (ws : List Waiter) (cs : Table Cluster) :
    bones { s with waiters := ws, clusters := cs } = bones s := rfl
theorem dropMembers_bones (s : State) (p : Nat × Nat → Bool) : bones (dropMembers s p) = bones s := rfl
theorem modCore_bones (s : State) (c : Nat) (f : Core → Core) : bones (modCore s c f) = bones s := rfl
theorem recordEvent_bones (s : State) (part : Nat) (f : Option FaultInfo) : bones (recordEvent s part f) = bones s :=
  bones_of_kept (recordEvent_kept ..)
theorem hwUpdate_bones (s : State) (part : Nat) (sec : Bool) (va n : Nat) (f : Nat → Nat) :
    bones (hwUpdate s part sec va n f).1 = bones s := bones_of_kept (hwUpdate_kept ..)

theorem failGroup_bones (s : State) (gk : Nat) (hinfo : Word) (va : DWord) : bones (failGroup s gk hinfo va) = bones s := by
  unfold failGroup
  split
  · rfl
  · split
    · rfl
    · dsimp only
      split <;> simp only [modGroup_bones, implies_true, setWaiters_bones, modCore_bones, dropMembers_bones, modGrid_bones,
        recordEvent_bones, hwUpdate_bones]

theorem failRecord_bones (s : State) (gk : Nat) (f : FaultInfo) : bones (failRecord s gk f) = bones s := by
  unfold failRecord
  split
  · rfl
  · exact failGroup_bones ..

theorem failCommit_bones (s : State) (gk : Nat) (f : FaultInfo) : bones (failCommit s gk f) = bones s := by
  unfold failCommit
  split
  · rfl
  · split
    · exact failRecord_bones ..
    · simp only [modGrid_bones, implies_true, recordEvent_bones, hwUpdate_bones]

theorem commitBytes_kept (s : State) (r : TaskRecord) (unit mask data n : Nat) : kept (commitBytes s r unit mask data n).1 = kept s := by
  induction n with
  | zero => rfl
  | succ n ih =>
    unfold commitBytes
    split
    · next h => rw [h] at ih; exact ih
    · next h =>
      rw [h] at ih
      split
      · exact (hwWrite_kept ..).trans ih
      · exact ih

theorem commitEntry_kept (s : State) (r : TaskRecord) (e : Nat) : kept (commitEntry s r e).1 = kept s := by
  unfold commitEntry
  dsimp only
  split
  · exact commitBytes_kept ..
  · split
    · exact hwUpdate_kept ..
    · rfl

/-- One entry of a group's log, read and applied (R254). -/
def commitStep (gr : Grid) (g : Group) (s : State) (i : Nat) : State :=
  match hwRead s g.record.part g.record.world (logVa gr g i) 16 with
  | (s, .error f) => failCommit s g.gk f
  | (s, .ok bs) =>
    match commitEntry s g.record (leNat bs) with
    | (s, some f) => failCommit s g.gk f
    | (s, none) => s

theorem commitStep_bones (gr : Grid) (g : Group) (s : State) (i : Nat) : bones (commitStep gr g s i) = bones s := by
  have hr := hwRead_kept s g.record.part g.record.world (logVa gr g i) 16
  unfold commitStep
  split
  · next h => rw [h] at hr; exact (failCommit_bones ..).trans (bones_of_kept hr)
  · next s1 bs h =>
    rw [h] at hr
    have hc := commitEntry_kept s1 g.record (leNat bs)
    split
    · next h => rw [h] at hc; exact (failCommit_bones ..).trans (bones_of_kept (hc.trans hr))
    · next h => rw [h] at hc; exact bones_of_kept (hc.trans hr)

theorem commitGroup_bones (gr : Grid) (s : State) (g : Group) : bones (commitGroup gr s g) = bones s :=
  foldl_bones (commitStep_bones gr g) _ s

/-! ## A commit in its parts -/

/-- The staged entries of a grid's groups applied, in ascending group (R254). -/
def applied (s : State) (grid : Nat) (gr : Grid) : State :=
  (sortBy (fun g => g.gid) (s.groups.filter fun g => g.grid == grid && !g.failed)).foldl (commitGroup gr) s

/-- The grid record with one more committed step. -/
def stepCounted (s : State) (gr : Grid) : State × Option FaultInfo :=
  hwUpdate s gr.record.part gr.record.world gr.record.farr 64 fun v => setField v 326 16 (field v 326 16 + 1)

/-- A group with what it took and staged in the step cleared. -/
def stepCleared (grid : Nat) (g : Group) : Group := if g.grid == grid then { g with taken := [], staged := 0 } else g

/-- The device with the step of a grid counted and cleared. -/
def stepOver (s : State) (grid : Nat) : State :=
  { modGrid s grid (fun x => { x with commits := x.commits + 1 }) with groups := s.groups.map (stepCleared grid) }

/-- The state before the listed tickets are reset: the entries applied, the step counted and cleared. -/
def counted (s : State) (grid : Nat) (gr : Grid) : State :=
  stepOver (recordEvent (stepCounted (applied s grid gr) gr).1 gr.record.part (stepCounted (applied s grid gr) gr).2) grid

/-- A listed ticket reset (R256). -/
def resetTicket (gr : Grid) (s : State) (va : Nat) : State :=
  if va = 0 then s
  else
    match hwRead s gr.record.part gr.record.world va 8 with
    | (s, .error f) => recordEvent s gr.record.part (some f)
    | (s, .ok bs) =>
      match setTicket s gr.record.part gr.record.world va (setField (leNat bs) 0 32 gr.gfirst0) with
      | (s, f) => recordEvent s gr.record.part f

/-- The state that a commit leaves. -/
def committed (s : State) (grid : Nat) (gr : Grid) : State :=
  releaseGrid grid (gr.ticks.foldl (resetTicket gr) (counted s grid gr))

section
variable {s : State} {grid : Nat} {gr : Grid}

theorem execCommit_may (hg : gridOf s grid = some gr) (hm : mayCommit s gr = true) :
    exec (.deterministicCommit grid) s = .next (committed s grid gr) := by
  show execDeterministicCommit grid s = _
  unfold execDeterministicCommit
  simp only [hg, hm, Bool.not_true, Bool.false_eq_true, if_false]
  rfl

theorem execCommit_not (hg : gridOf s grid = some gr) (hm : mayCommit s gr = false) : exec (.deterministicCommit grid) s = .next s := by
  show execDeterministicCommit grid s = _
  unfold execDeterministicCommit
  simp only [hg, hm, Bool.not_false, if_true]

theorem gridOf_id (hg : gridOf s grid = some gr) : gr.id = grid := by
  have h := List.find?_some hg
  simpa using h

/-- No operation of a group of the grid is outstanding at its commit. -/
theorem mayCommit_ops (hg : gridOf s grid = some gr) (hm : mayCommit s gr = true) :
    ∀ p ∈ s.groups.map (fun g => (g.gk, g.grid)), p.2 = grid → ∀ o ∈ s.ops, o.gk ≠ p.1 := by
  intro p hp hgrid o ho hgk
  obtain ⟨g, hgm, rfl⟩ := List.mem_map.mp hp
  have hid := gridOf_id hg
  have hin : g ∈ s.groups.filter fun g => g.grid == gr.id := List.mem_filter.mpr ⟨hgm, by simpa [hid] using hgrid⟩
  unfold mayCommit at hm
  simp only [Bool.and_eq_true, Bool.not_eq_true', List.any_eq_false] at hm
  exact hm.2 o ho (List.any_eq_true.mpr ⟨g, hin, by simpa using hgk.symm⟩)

theorem resetTicket_calm (gr : Grid) (s : State) (va : Nat) : calm (resetTicket gr s va) = calm s := by
  have hr := hwRead_kept s gr.record.part gr.record.world va 8
  unfold resetTicket
  split
  · rfl
  · split
    · next h => rw [h] at hr; exact calm_of_kept ((recordEvent_kept ..).trans hr)
    · next s1 bs h =>
      rw [h] at hr
      dsimp only
      exact (calm_of_kept (recordEvent_kept ..)).trans ((setTicket_calm ..).trans (calm_of_kept hr))

/-- The release at the end of a commit finds nothing outstanding. -/
theorem releaseGrid_kept (h : ∀ g ∈ s.groups, g.grid = grid → ∀ o ∈ s.ops, o.gk ≠ g.gk) : kept (releaseGrid grid s) = kept s := by
  have main : ∀ (l : List Group) (x : State), (∀ g ∈ l, ∀ o ∈ x.ops, o.gk ≠ g.gk) →
      kept (l.foldl (fun s g => releaseGroup s g.gk) x) = kept x := by
    intro l
    induction l with
    | nil => exact fun _ _ => rfl
    | cons g l ih =>
      intro x hx
      have h1 := releaseGroup_kept (hx g List.mem_cons_self)
      rw [List.foldl_cons, ih _ fun g' hg' => by rw [ops_of_kept h1]; exact hx g' (List.mem_cons_of_mem _ hg'), h1]
  refine main _ s fun g hg => ?_
  obtain ⟨h1, h2⟩ := List.mem_filter.mp hg
  exact h g h1 (by simpa using h2)

theorem applied_bones (s : State) (grid : Nat) (gr : Grid) : bones (applied s grid gr) = bones s :=
  foldl_bones (commitGroup_bones gr) _ s

theorem gridOf_of_bones {s' : State} (h : bones s' = bones s) (hg : gridOf s grid = some gr) :
    ∃ gr', gridOf s' grid = some gr' ∧ gr'.commits = gr.commits := by
  have hl : s'.grids.map (fun g => (g.id, g.commits)) = s.grids.map fun g => (g.id, g.commits) := congrArg (fun b => b.2.1) h
  unfold gridOf at hg ⊢
  generalize s.grids = l at hl hg
  generalize s'.grids = l' at hl
  induction l generalizing l' with
  | nil => simp at hg
  | cons x l ih =>
    cases l' with
    | nil => simp at hl
    | cons y l' =>
      simp only [List.map_cons, List.cons.injEq, Prod.mk.injEq] at hl
      obtain ⟨⟨hid, hc⟩, hl⟩ := hl
      rw [List.find?_cons] at hg ⊢
      rw [hid]
      split at hg
      · exact ⟨y, rfl, by rw [hc, Option.some.inj hg]⟩
      · exact ih hg l' hl

theorem counted_grid (hg : gridOf s grid = some gr) :
    ∃ gr', gridOf (counted s grid gr) grid = some gr' ∧ gr'.commits = gr.commits + 1 := by
  have hb : bones (recordEvent (stepCounted (applied s grid gr) gr).1 gr.record.part (stepCounted (applied s grid gr) gr).2) =
      bones s := by
    rw [recordEvent_bones]
    exact (hwUpdate_bones ..).trans (applied_bones ..)
  obtain ⟨g1, h1, hc⟩ := gridOf_of_bones hb hg
  refine ⟨{ g1 with commits := g1.commits + 1 }, ?_, congrArg (· + 1) hc⟩
  have hf := find_updFirst_same (p := fun x : Grid => x.id == grid) (f := fun x => { x with commits := x.commits + 1 })
    (fun x hx => hx) (recordEvent (stepCounted (applied s grid gr) gr).1 gr.record.part (stepCounted (applied s grid gr) gr).2).grids
  exact hf.trans (congrArg (Option.map _) h1)

theorem stepCleared_cleared {g : Group} (h : (stepCleared grid g).grid = grid) :
    (stepCleared grid g).taken = [] ∧ (stepCleared grid g).staged = 0 := by
  unfold stepCleared at h ⊢
  split
  · exact ⟨rfl, rfl⟩
  · next hn =>
    rw [if_neg hn] at h
    exact absurd h (by simpa using hn)

theorem stepCleared_name (g : Group) : ((stepCleared grid g).gk, (stepCleared grid g).grid) = (g.gk, g.grid) := by
  unfold stepCleared
  split <;> rfl

theorem counted_names (s : State) (grid : Nat) (gr : Grid) :
    (counted s grid gr).groups.map (fun g => (g.gk, g.grid)) = s.groups.map fun g => (g.gk, g.grid) := by
  have hb : bones (recordEvent (stepCounted (applied s grid gr) gr).1 gr.record.part (stepCounted (applied s grid gr) gr).2) =
      bones s := by
    rw [recordEvent_bones]
    exact (hwUpdate_bones ..).trans (applied_bones ..)
  refine (List.map_map ..).trans (Eq.trans ?_ (congrArg (fun b => b.2.2) hb))
  exact List.map_congr_left fun g _ => stepCleared_name g

theorem counted_ops (s : State) (grid : Nat) (gr : Grid) : (counted s grid gr).ops = s.ops := by
  have hb : bones (recordEvent (stepCounted (applied s grid gr) gr).1 gr.record.part (stepCounted (applied s grid gr) gr).2) =
      bones s := by
    rw [recordEvent_bones]
    exact (hwUpdate_bones ..).trans (applied_bones ..)
  exact congrArg (fun b => b.1) hb

theorem ticks_calm (gr : Grid) (s : State) : calm (gr.ticks.foldl (resetTicket gr) s) = calm s :=
  foldl_calm (resetTicket_calm gr) _ s

/-- The commit's last release finds nothing outstanding (R255). -/
theorem committed_kept (hg : gridOf s grid = some gr) (hm : mayCommit s gr = true) :
    kept (committed s grid gr) = kept (gr.ticks.foldl (resetTicket gr) (counted s grid gr)) := by
  have hc := ticks_calm gr (counted s grid gr)
  refine releaseGrid_kept fun g hgm hgrid => ?_
  rw [ops_of_calm hc, counted_ops]
  have hn : (gr.ticks.foldl (resetTicket gr) (counted s grid gr)).groups.map (fun g => (g.gk, g.grid)) =
      s.groups.map fun g => (g.gk, g.grid) := by
    rw [← counted_names s grid gr]
    have h := congrArg (List.map fun g : Group => (g.gk, g.grid)) (groups_of_calm hc)
    rw [List.map_map, List.map_map] at h
    exact h
  exact mayCommit_ops hg hm (g.gk, g.grid) (hn ▸ List.mem_map_of_mem (f := fun g : Group => (g.gk, g.grid)) hgm) hgrid

/-- With no ticket listed nothing is reset. -/
theorem resetTicket_none (gr : Grid) (s : State) {l : List Nat} (h : ∀ va ∈ l, va = 0) : l.foldl (resetTicket gr) s = s := by
  induction l with
  | nil => rfl
  | cons va l ih =>
    rw [List.foldl_cons, resetTicket, if_pos (h va List.mem_cons_self)]
    exact ih fun v hv => h v (List.mem_cons_of_mem _ hv)

end
end Sys2Proof.Machine
open Sys2Proof Sys2Proof.Machine Sys2Proof.Claims

/-- Settles O43: the hardware takes due tickets after a release; a commit applies the entries, counts the step and clears it, and finds
nothing outstanding to release. -/
theorem deterministicStepResults : Obligations.DeterministicStepResults := by
  refine ⟨fun gk slot s g va v hd => ⟨takenTicket g v, isTicket_takenTicket g v, fun hw => execTicket_taken hd hw⟩,
    fun gk slot s hd => execTicket_notDue hd, fun grid s gr hg => ⟨execCommit_not hg, fun hm => ⟨_, execCommit_may hg hm, ?_⟩⟩⟩
  have hk := committed_kept hg hm
  have hc := ticks_calm gr (counted s grid gr)
  refine ⟨?_, fun x hx hgrid => ?_, ?_⟩
  · obtain ⟨g1, h1, h2⟩ := counted_grid hg
    refine ⟨g1, ?_, h2⟩
    rw [gridOf, grids_of_kept hk, grids_of_calm hc]
    exact h1
  · rw [groups_of_kept hk] at hx
    have hm := List.mem_map_of_mem (f := unawaited) hx
    rw [groups_of_calm hc] at hm
    obtain ⟨y, hy, he⟩ := List.mem_map.mp hm
    obtain ⟨z, -, rfl⟩ := List.mem_map.mp hy
    have hgr : (stepCleared grid z).grid = x.grid := congrArg (fun g : Machine.Group => g.grid) (a₁ := unawaited _) (a₂ := unawaited _) he
    have htk : (stepCleared grid z).taken = x.taken := congrArg (fun g : Machine.Group => g.taken) (a₁ := unawaited _) (a₂ := unawaited _) he
    have hst : (stepCleared grid z).staged = x.staged := congrArg (fun g : Machine.Group => g.staged) (a₁ := unawaited _) (a₂ := unawaited _) he
    obtain ⟨h1, h2⟩ := stepCleared_cleared (hgr.trans hgrid)
    exact ⟨htk ▸ h1, hst ▸ h2⟩
  · intro gs hperm hsort hticks w hw
    have hap : applied s grid gr = gs.foldl (commitGroup gr) s := by
      rw [applied, sortBy_eq_of_strict (fun g : Machine.Group => g.gid) hperm hsort]
    have hst : stepCounted (applied s grid gr) gr = (w.1, none) := by
      rw [hap]
      exact Prod.ext rfl hw
    have hcl : (fun x : Machine.Group => if x.grid = grid then { x with taken := [], staged := 0 } else x) = stepCleared grid := by
      funext x
      simp only [stepCleared, beq_iff_eq]
    rw [hcl, committed, resetTicket_none gr _ hticks, counted, hst]
    rfl
end

section
/-! SUPPORT. The graphics instructions of a thread (R343, R348, R351, Table 14.4). -/
namespace Sys2Proof.Machine
open Sys2Proof.Claims

/-! ## Words as bytes -/

theorem leBytes_append (w r k : Nat) (h : w < 2 ^ 32) : leBytes (w + 2 ^ 32 * r) (4 + k) = leBytes w 4 ++ leBytes r k := by
  have hstep : ∀ (n a : Nat), a < 2 ^ (8 * n) → leBytes (a + 2 ^ (8 * n) * r) (n + k) = leBytes a n ++ leBytes r k := by
    intro n
    induction n with
    | zero =>
      intro a ha
      have ha0 : a = 0 := by simpa using ha
      simp [ha0, leBytes]
    | succ n ih =>
      intro a ha
      have hp : 2 ^ (8 * (n + 1)) = 256 * 2 ^ (8 * n) := by rw [Nat.mul_add, Nat.pow_add, Nat.mul_comm]
      rw [hp] at ha ⊢
      have hdiv : (a + 256 * 2 ^ (8 * n) * r) / 256 = a / 256 + 2 ^ (8 * n) * r := by
        rw [Nat.mul_assoc, Nat.add_mul_div_left _ _ (by decide)]
      have hb : BitVec.ofNat 8 (a + 256 * 2 ^ (8 * n) * r) = BitVec.ofNat 8 a := by
        apply BitVec.eq_of_toNat_eq
        rw [Nat.mul_assoc]
        simp [Nat.add_mul_mod_self_left]
      rw [Nat.add_right_comm, leBytes, leBytes, hdiv, ih _ (Nat.div_lt_of_lt_mul ha), List.cons_append]
      rw [hb]
  exact hstep 4 w h

theorem leBytes_wordsNat (ws : List Word) : leBytes (wordsNat ws) (4 * ws.length) = ws.flatMap fun w => leBytes w.toNat 4 := by
  induction ws with
  | nil => rfl
  | cons w r ih =>
    rw [wordsNat, List.length_cons, Nat.mul_add, Nat.add_comm (4 * r.length), leBytes_append _ _ _ w.isLt, ih, List.flatMap_cons]

theorem length_leBytes (v n : Nat) : (leBytes v n).length = n := by
  induction n generalizing v with
  | zero => rfl
  | succ n ih => rw [leBytes, List.length_cons, ih]

theorem sourceRegs_length {t : Thread} {d n : Nat} {ws : List Word} (h : sourceRegs t d n = .ok ws) : ws.length = n := by
  unfold sourceRegs at h
  cases hr : regChecked t d n with
  | error f => rw [hr] at h; cases h
  | ok u =>
    rw [hr] at h
    cases h
    simp

/-- Bytes written to a scratchpad that no thread waits on. -/
theorem scratchStored_of {s : State} (hm : memoriesWf s = true) (hn : noSyncWaits s) (core off : Nat) (bs : List Byte) :
    ScratchStored s (scratchStore s core off bs) core off bs := by
  obtain ⟨hb, -, ho, hf⟩ := scratchWritten_of hm core off bs
  rw [scratchStore_noWaits hn]
  refine ⟨hf, fun c a => ?_⟩
  by_cases hc : c = core
  · subst hc
    rw [hb]
    simp
  · rw [if_neg fun h => hc h.1, scratchByte, ho c hc]
    rfl

section alone
variable {s : State} {i : Issue} {rest : List Issue} {m : Nat × Nat} {g : Group} {t : Thread} {o : TaskOp} {b : Word}

/-! ## The mesh output buffer (R343) -/

theorem meshWrite_eq {n base : Nat} {place : Nat → Nat} {ws : List Word} (hk : g.record.kind = 2) (hb : readSrc32 .int g t o.b = .ok b)
    (hlt : b.toNat < 256) (hw : sourceRegs t o.d.toNat n = .ok ws) (he : meshEnded g = false) (hbase : g.meshBase = some base) :
    meshWrite o n place s g t =
      (scratchStore s g.core (base + place b.toNat) (ws.flatMap fun w => leBytes w.toNat 4), none) := by
  have hkf : kindFault g 2 = none := if_pos hk
  unfold meshWrite
  simp only [hkf, hb, hw, if_neg (not_le.mpr hlt), he, hbase]
  rw [← leBytes_wordsNat, sourceRegs_length hw]

theorem runs_meshWrite {ins : Instr} {n base : Nat} {place : Nat → Nat} {ws : List Word}
    (hx : exec ins s = .next (runThreads s 2 o.g (meshWrite o n place))) (hm : memoriesWf s = true) (ha : Alone s i rest m g t)
    (hg : guardTrue t o.g = true) (hn : noSyncWaits s) (hk : g.record.kind = 2) (hb : readSrc32 .int g t o.b = .ok b)
    (hlt : b.toNat < 256) (hw : sourceRegs t o.d.toNat n = .ok ws) (he : meshEnded g = false) (hbase : g.meshBase = some base) :
    Runs ins s fun s' => ∃ s1, Past s1 s' i rest m 2 ∧
      ScratchStored s s1 g.core (base + place b.toNat) (ws.flatMap fun w => leBytes w.toNat 4) := by
  have hs := scratchStored_of hm hn g.core (base + place b.toNat) (ws.flatMap fun w => leBytes w.toNat 4)
  obtain ⟨s', h1, h2⟩ := runs_past hx ha hg (meshWrite_eq hk hb hlt hw he hbase) (by rw [hs.1]; exact ha.issues)
  exact ⟨s', h1, _, h2, hs⟩

/-! ## What a group knows (R348) -/

theorem runs_sinfo (ha : Alone s i rest m g t) (hg : guardTrue t o.g = true) (hb : readSrc32 .int g t o.b = .ok b) {v : Word}
    (hv : sinfoValue s g t (o.tx.toNat % 16) b.toNat = .ok v) :
    Runs (.sinfo o) s fun s' => Past (modThread s m.1 m.2 fun t => setReg t o.d.toNat v) s' i rest m 2 := by
  refine runs_past (s0 := s) (w := 2) (gd := o.g) (f := fun s g t =>
    match readSrc32 .int g t o.b with
    | .error f => (s, some f)
    | .ok b =>
      match sinfoValue s g t (o.tx.toNat % 16) b.toNat with
      | .error f => (s, some f)
      | .ok v => (modThread s g.gk t.idx fun t => setReg t o.d.toNat v, none)) rfl ha hg ?_ ha.issues
  simp only [hb, hv, memberOf_gk ha.member, memberOf_idx ha.member]

theorem sinfoValue_sample {x : SampleInfo} {y : Sample} {sel n : Nat} (hx : g.gfx = .sample x) (hy : x.samples[t.idx]? = some y) :
    (sel = 2 → sinfoValue s g t sel n = .ok (BitVec.ofNat 32 (y.i + 2 ^ 16 * y.j))) ∧
    (sel = 3 → sinfoValue s g t sel n = .ok (lambdaOf y.e1 y)) ∧ (sel = 4 → sinfoValue s g t sel n = .ok (lambdaOf y.e2 y)) ∧
    (sel = 5 → sinfoValue s g t sel n = .ok x.key) := by
  refine ⟨?_, ?_, ?_, ?_⟩ <;> rintro rfl <;> simp [sinfoValue, hx, sampleInfo, hy]

theorem sinfoValue_mesh {c k n : Nat} {e : Bool} (hx : g.gfx = .mesh c k e) :
    sinfoValue s g t 1 n = .ok (BitVec.ofNat 32 ((clusterOf s c).ring.getD k {}).len) ∧
    (n % 4 = 0 → n < ((clusterOf s c).ring.getD k {}).len → n / 64 ∉ ((clusterOf s c).ring.getD k {}).poison →
      sinfoValue s g t 0 n = .ok (BitVec.ofNat 32 (leNat ((((clusterOf s c).ring.getD k {}).data.drop n).take 4)))) := by
  have hp : slotOfGroup s g = (clusterOf s c).ring.getD k {} := by simp [slotOfGroup, hx]
  refine ⟨by simp [sinfoValue, hx, hp], fun h4 hl hn => ?_⟩
  unfold sinfoValue
  rw [hx]
  dsimp only
  rw [if_neg (by decide), if_pos rfl, hp, if_neg (by simp [h4]), if_neg (not_le.mpr hl), if_neg (by simpa using hn)]

/-! ## tcomb (R351) -/

theorem runs_tcomb (ha : Alone s i rest m g t) (hg : guardTrue t o.g = true) {z : Word} {ws : List Word}
    (hz : readSrc32 .f32 g t o.b = .ok z) (hw : hasRoom o.wait t) (hk : g.record.kind = 3) (hs : sourceRegs t o.d.toNat 2 = .ok ws) :
    Runs (.tcomb o) s fun s' => Issued s s' i rest m g t o.wait (.tcomb z (BitVec.ofNat 64 (wordsNat ws)) [] false) := by
  have hkf : kindFault g 3 = none := if_pos hk
  refine runs_issued (gd := o.g) (f := fun s g t =>
    match kindFault g 3, readSrc32 .f32 g t o.b, sourceRegs t o.d.toNat 2 with
    | some f, _, _ => (s, some f)
    | none, .error f, _ => (s, some f)
    | none, .ok _, .error f => (s, some f)
    | none, .ok z, .ok ws => (issueOp s g t.idx o.wait t.inSup (.tcomb z (BitVec.ofNat 64 (wordsNat ws)) [] false), none))
    ?_ ha hg ?_ rfl
  · show execTcomb o s = _
    rw [execTcomb, counterFull_false ha hw, if_neg (by decide)] <;> rfl
  · simp only [hkf, hz, hs, memberOf_idx ha.member]

end alone
end Sys2Proof.Machine
open Sys2Proof Sys2Proof.Machine Sys2Proof.Claims

/-- Settles O44: the words go to the place that the buffer's base and the index give, and nothing else changes. -/
theorem geometryThreadResults : Obligations.GeometryThreadResults := by
  intro o s i rest m g t b hm ha hg
  refine ⟨fun base ws hb hn hk he hbase hlt => ⟨fun hw => ?_, fun hw => ?_⟩, ?_, fun z ws hz hroom hk hs => runs_tcomb ha hg hz hroom hk hs⟩
  · exact runs_meshWrite (place := fun b => 48 * b) rfl hm ha hg hn hk hb hlt hw he hbase
  · have h := runs_meshWrite (ins := .mprim o) (place := fun b => 12288 + 4 * b) rfl hm ha hg hn hk hb hlt hw he hbase
    rw [← Nat.add_assoc] at h
    exact h
  · intro hb puts sel
    have hput : ∀ {v : Word}, sinfoValue s g t sel b.toNat = .ok v → puts v := fun hv => runs_sinfo ha hg hb hv
    refine ⟨fun v hv => hput hv, ?_, ?_, ?_⟩
    · intro die f hx h1
      exact hput (by simp [sinfoValue, hx, h1])
    · intro c k e hx p
      obtain ⟨hlen, hdata⟩ := sinfoValue_mesh (s := s) (t := t) (n := b.toNat) hx
      exact ⟨fun h1 => hput (h1 ▸ hlen), fun h0 h4 hl hp => hput (h0 ▸ hdata h4 hl hp)⟩
    · intro x y hx hy
      obtain ⟨h2, h3, h4, h5⟩ := sinfoValue_sample (s := s) (sel := sel) (n := b.toNat) hx hy
      exact ⟨fun h => hput (h2 h), fun h => hput (h3 h), fun h => hput (h4 h), fun h => hput (h5 h)⟩
end

section
/-! SUPPORT. Payload slots: a slot that holds a payload keeps it through releases, frame updates and the queueing of records (R340). One
lemma for each function that such work calls. -/
namespace Sys2Proof.Machine

-- Each lemma here serves the next ones: elaborated in order, they keep no thread waiting.
set_option Elab.async false
open Sys2Proof.Claims

/-- Slot k of the payload ring of cluster c holds this payload, and is kept for nobody. -/
def slotIs (c k : Nat) (p : PaySlot) (cs : Table Cluster) : Prop := (tget cs {} c).ring[k]? = some p ∧ p.reserved = none

theorem tget_map {α : Type} (F : α → α) (d : α) (t : Table α) (c : Nat) :
    tget (t.map fun e => (e.1, F e.2)) d c = F (tget t d c) ∨ (tget (t.map fun e => (e.1, F e.2)) d c = d ∧ tget t d c = d) := by
  induction t with
  | nil => exact .inr ⟨rfl, rfl⟩
  | cons e t ih =>
    by_cases h : e.1 = c
    · exact .inl (by simp [tget, h])
    · simpa [tget, h] using ih

theorem slot_of_ring {c0 k0 : Nat} {p0 : PaySlot} {cs cs' : Table Cluster} (h : (tget cs' {} c0).ring = (tget cs {} c0).ring)
    (hc : slotIs c0 k0 p0 cs) : slotIs c0 k0 p0 cs' := by
  rw [slotIs, h]
  exact hc

theorem slot_of_kept {c0 k0 : Nat} {p0 : PaySlot} {s s' : State} (h : kept s' = kept s) (hc : slotIs c0 k0 p0 s.clusters) :
    slotIs c0 k0 p0 s'.clusters := (clusters_of_kept h).symm ▸ hc

/-- A group that fails is forgotten by the rings; no payload is (R413). -/
theorem forgetGroup_slot {c0 k0 : Nat} {p0 : PaySlot} {cs : Table Cluster} (gk : Nat) (hc : slotIs c0 k0 p0 cs) :
    slotIs c0 k0 p0 (cs.map fun e => (e.1, forgetGroup gk e.2)) := by
  rcases tget_map (forgetGroup gk) ({} : Cluster) cs c0 with h | ⟨h1, h2⟩
  · obtain ⟨hk, hr⟩ := hc
    refine ⟨?_, hr⟩
    rw [h]
    show ((tget cs {} c0).ring.map _)[k0]? = _
    rw [List.getElem?_map, hk, Option.map_some, hr]
    rfl
  · exact slot_of_ring (by rw [h1, h2]) hc

/-! ## Rings and the queueing of records -/

/-- The rings of the clusters. -/
def ringsOf (s : State) (c : Nat) : List PaySlot := (clusterOf s c).ring

theorem modCluster_rings {s : State} {g : Nat} {f : Cluster → Cluster} (hf : ∀ c, (f c).ring = c.ring) :
    ringsOf (modCluster s g f) = ringsOf s := by
  funext c
  unfold ringsOf clusterOf modCluster
  by_cases h : c = g
  · subst h
    rw [tget_tset, if_pos rfl, hf]
    rfl
  · rw [tget_tset_other _ _ _ h]

theorem rings_of_kept {s s' : State} (h : kept s' = kept s) : ringsOf s' = ringsOf s := by
  unfold ringsOf clusterOf
  rw [clusters_of_kept h]

theorem pushLanding_rings (part g cls : Nat) (s : State) (e : DeckEntry) : ringsOf (pushLanding part g cls s e) = ringsOf s := by
  have hw := rings_of_kept (hwWrite_kept s part false (landingVa s part g cls ((clusterOf s g).landTail.getD cls 0))
    (leBytes (encodeRecord e.record) 64))
  unfold pushLanding
  dsimp only
  split
  · exact (rings_of_kept (recordEvent_kept ..)).trans hw
  · rw [rings_of_kept (noteWhere_kept ..)]
    unfold setLanding
    simp only [modCluster_rings, implies_true]
    exact hw

theorem foldl_rings {α : Type} {f : State → α → State} (hf : ∀ s x, ringsOf (f s x) = ringsOf s) (l : List α) (s : State) :
    ringsOf (l.foldl f s) = ringsOf s := by
  induction l generalizing s with
  | nil => rfl
  | cons x l ih => rw [List.foldl_cons, ih, hf]

theorem setDeck_rings (s : State) (g cls : Nat) (l : List DeckEntry) : ringsOf (setDeck s g cls l) = ringsOf s :=
  modCluster_rings (f := fun c => { c with decks := c.decks.set cls l }) fun _ => rfl
theorem setWaiting_rings (s : State) (g cls : Nat) (l : List DeckEntry) : ringsOf (setWaiting s g cls l) = ringsOf s :=
  modCluster_rings (f := fun c => { c with waiting := c.waiting.set cls l }) fun _ => rfl

theorem pushDeck_rings (part g cls : Nat) (s : State) (e : DeckEntry) : ringsOf (pushDeck part g cls s e) = ringsOf s := by
  unfold pushDeck
  dsimp only
  split
  · rw [foldl_rings (pushLanding_rings part g cls), setDeck_rings, rings_of_kept (noteWhere_kept ..), setDeck_rings]
  · rw [rings_of_kept (noteWhere_kept ..), setDeck_rings]

theorem enqueueEntry_rings (part g cls : Nat) (s : State) (e : DeckEntry) : ringsOf (enqueueEntry part g cls s e) = ringsOf s := by
  unfold enqueueEntry
  dsimp only
  split
  · rw [pushDeck_rings]
    rfl
  · split
    · rw [setWaiting_rings]
      rfl
    · rw [pushLanding_rings]
      rfl

theorem acceptRecord_rings (s : State) (r : TaskRecord) (parent cluster : Nat) (host : Bool) (info : GfxInfo)
    (slot : Option (Nat × Nat)) : ringsOf (acceptRecord s r parent cluster host info slot) = ringsOf s := by
  unfold acceptRecord
  rw [foldl_rings fun s e => enqueueEntry_rings .., rings_of_kept (recordEvent_kept ..), rings_of_kept (hwWrite_kept ..),
    rings_of_kept (entryUpdate_kept ..)]
  have hr := rings_of_kept (readEntry_kept (fresh s).1 r.part r.taskid)
  exact hr

theorem enqueueEntry_slot {c0 k0 : Nat} {p0 : PaySlot} (part g cls : Nat) (s : State) (e : DeckEntry)
    (hc : slotIs c0 k0 p0 s.clusters) : slotIs c0 k0 p0 (enqueueEntry part g cls s e).clusters :=
  slot_of_ring (congrFun (enqueueEntry_rings part g cls s e) c0) hc
grind_pattern enqueueEntry_slot => enqueueEntry part g cls s e, slotIs c0 k0 p0 _

/-! ## Folds and the parts of a state -/

theorem foldl_slot {c0 k0 : Nat} {p0 : PaySlot} {α : Type} {f : State → α → State} {s : State} {l : List α}
    (hf : ∀ s x, slotIs c0 k0 p0 s.clusters → slotIs c0 k0 p0 (f s x).clusters) (h : slotIs c0 k0 p0 s.clusters) :
    slotIs c0 k0 p0 (l.foldl f s).clusters := by
  induction l generalizing s with
  | nil => exact h
  | cons x l ih => exact ih (hf _ _ h)
grind_pattern foldl_slot => l.foldl f s, slotIs c0 k0 p0 _

theorem dropMembers_slot {c0 k0 : Nat} {p0 : PaySlot} (s : State) (p : Nat × Nat → Bool) (hc : slotIs c0 k0 p0 s.clusters) :
    slotIs c0 k0 p0 (dropMembers s p).clusters := hc
grind_pattern dropMembers_slot => dropMembers s p, slotIs c0 k0 p0 _

theorem modCore_slot {c0 k0 : Nat} {p0 : PaySlot} (s : State) (c : Nat) (f : Core → Core) (hc : slotIs c0 k0 p0 s.clusters) :
    slotIs c0 k0 p0 (modCore s c f).clusters := hc
grind_pattern modCore_slot => modCore s c f, slotIs c0 k0 p0 _

/-! ## Performing operations -/

theorem modDie_slot {c0 k0 : Nat} {p0 : PaySlot} (s : State) (d : Nat) (f : Die → Die) (hc : slotIs c0 k0 p0 s.clusters) :
    slotIs c0 k0 p0 (modDie s d f).clusters := slot_of_kept (modDie_kept ..) hc
grind_pattern modDie_slot => modDie s d f, slotIs c0 k0 p0 _
theorem storePiece_slot {c0 k0 : Nat} {p0 : PaySlot} (s : State) (c : Ctx) (p : Piece) (hint : Nat) (bs : List Byte)
    (hc : slotIs c0 k0 p0 s.clusters) :
    slotIs c0 k0 p0 (storePiece s c p hint bs).clusters := slot_of_kept (storePiece_kept ..) hc
grind_pattern storePiece_slot => storePiece s c p hint bs, slotIs c0 k0 p0 _
theorem drainCore_slot {c0 k0 : Nat} {p0 : PaySlot} (s : State) (core : Nat) (hc : slotIs c0 k0 p0 s.clusters) :
    slotIs c0 k0 p0 (drainCore s core).clusters := slot_of_kept (drainCore_kept ..) hc
grind_pattern drainCore_slot => drainCore s core, slotIs c0 k0 p0 _
theorem acquireCore_slot {c0 k0 : Nat} {p0 : PaySlot} (s : State) (core : Nat) (hc : slotIs c0 k0 p0 s.clusters) :
    slotIs c0 k0 p0 (acquireCore s core).clusters := slot_of_kept (acquireCore_kept ..) hc
grind_pattern acquireCore_slot => acquireCore s core, slotIs c0 k0 p0 _
theorem hwRead_slot {c0 k0 : Nat} {p0 : PaySlot} (s : State) (part : Nat) (sec : Bool) (va : Nat) (n : Nat) (hc : slotIs c0 k0 p0 s.clusters) :
    slotIs c0 k0 p0 (hwRead s part sec va n).1.clusters := slot_of_kept (hwRead_kept ..) hc
grind_pattern hwRead_slot => hwRead s part sec va n, slotIs c0 k0 p0 _
theorem hwWrite_slot {c0 k0 : Nat} {p0 : PaySlot} (s : State) (part : Nat) (sec : Bool) (va : Nat) (bs : List Byte)
    (hc : slotIs c0 k0 p0 s.clusters) :
    slotIs c0 k0 p0 (hwWrite s part sec va bs).1.clusters := slot_of_kept (hwWrite_kept ..) hc
grind_pattern hwWrite_slot => hwWrite s part sec va bs, slotIs c0 k0 p0 _
theorem hwUpdate_slot {c0 k0 : Nat} {p0 : PaySlot} (s : State) (part : Nat) (sec : Bool) (va : Nat) (n : Nat) (f : Nat → Nat)
    (hc : slotIs c0 k0 p0 s.clusters) :
    slotIs c0 k0 p0 (hwUpdate s part sec va n f).1.clusters := slot_of_kept (hwUpdate_kept ..) hc
grind_pattern hwUpdate_slot => hwUpdate s part sec va n f, slotIs c0 k0 p0 _
theorem scratchWrite_slot {c0 k0 : Nat} {p0 : PaySlot} (s : State) (core : Nat) (off : Nat) (bs : List Byte) (hc : slotIs c0 k0 p0 s.clusters) :
    slotIs c0 k0 p0 (scratchWrite s core off bs).clusters := by grind [scratchWrite]
grind_pattern scratchWrite_slot => scratchWrite s core off bs, slotIs c0 k0 p0 _
theorem modGroup_slot {c0 k0 : Nat} {p0 : PaySlot} (s : State) (gk : Nat) (f : Group → Group) (hc : slotIs c0 k0 p0 s.clusters) :
    slotIs c0 k0 p0 (modGroup s gk f).clusters := by grind [modGroup]
grind_pattern modGroup_slot => modGroup s gk f, slotIs c0 k0 p0 _
theorem modThread_slot {c0 k0 : Nat} {p0 : PaySlot} (s : State) (gk : Nat) (t : Nat) (f : Thread → Thread) (hc : slotIs c0 k0 p0 s.clusters) :
    slotIs c0 k0 p0 (modThread s gk t f).clusters := by grind [modThread]
grind_pattern modThread_slot => modThread s gk t f, slotIs c0 k0 p0 _
theorem modGrid_slot {c0 k0 : Nat} {p0 : PaySlot} (s : State) (id : Nat) (f : Grid → Grid) (hc : slotIs c0 k0 p0 s.clusters) :
    slotIs c0 k0 p0 (modGrid s id f).clusters := by grind [modGrid]
grind_pattern modGrid_slot => modGrid s id f, slotIs c0 k0 p0 _
theorem fresh_slot {c0 k0 : Nat} {p0 : PaySlot} (s : State) (hc : slotIs c0 k0 p0 s.clusters) :
    slotIs c0 k0 p0 (fresh s).1.clusters := by grind [fresh]
grind_pattern fresh_slot => fresh s, slotIs c0 k0 p0 _
theorem hostEvent_slot {c0 k0 : Nat} {p0 : PaySlot} (s : State) (part : Nat) (code : Nat) (arg0 : Nat) (arg1 : Nat)
    (hc : slotIs c0 k0 p0 s.clusters) :
    slotIs c0 k0 p0 (hostEvent s part code arg0 arg1).clusters := slot_of_kept (hostEvent_kept ..) hc
grind_pattern hostEvent_slot => hostEvent s part code arg0 arg1, slotIs c0 k0 p0 _
theorem recordEvent_slot {c0 k0 : Nat} {p0 : PaySlot} (s : State) (part : Nat) (f : Option FaultInfo) (hc : slotIs c0 k0 p0 s.clusters) :
    slotIs c0 k0 p0 (recordEvent s part f).clusters := slot_of_kept (recordEvent_kept ..) hc
grind_pattern recordEvent_slot => recordEvent s part f, slotIs c0 k0 p0 _
theorem failGroup_slot {c0 k0 : Nat} {p0 : PaySlot} (s : State) (gk : Nat) (hinfo : Word) (va : DWord)
    (hc : slotIs c0 k0 p0 s.clusters) : slotIs c0 k0 p0 (failGroup s gk hinfo va).clusters := by
  unfold failGroup
  split
  · exact hc
  · split
    · exact hc
    · dsimp only
      refine forgetGroup_slot gk ?_
      split <;>
      · show slotIs c0 k0 p0 (recordEvent _ _ _).clusters
        rw [clusters_of_kept (recordEvent_kept ..), clusters_of_kept (hwUpdate_kept ..), clusters_of_kept (hwUpdate_kept ..)]
        exact hc
grind_pattern failGroup_slot => failGroup s gk hinfo va, slotIs c0 k0 p0 _
theorem failRecord_slot {c0 k0 : Nat} {p0 : PaySlot} (s : State) (gk : Nat) (f : FaultInfo) (hc : slotIs c0 k0 p0 s.clusters) :
    slotIs c0 k0 p0 (failRecord s gk f).clusters := by grind [failRecord]
grind_pattern failRecord_slot => failRecord s gk f, slotIs c0 k0 p0 _
theorem noteWhere_slot {c0 k0 : Nat} {p0 : PaySlot} (s : State) (e : DeckEntry) (cluster : Nat) (inland : Bool) (slot : Nat)
    (hc : slotIs c0 k0 p0 s.clusters) :
    slotIs c0 k0 p0 (noteWhere s e cluster inland slot).clusters := slot_of_kept (noteWhere_kept ..) hc
grind_pattern noteWhere_slot => noteWhere s e cluster inland slot, slotIs c0 k0 p0 _
theorem enqueueCont_slot {c0 k0 : Nat} {p0 : PaySlot} (s : State) (gk : Nat) (hc : slotIs c0 k0 p0 s.clusters) :
    slotIs c0 k0 p0 (enqueueCont s gk).clusters := by grind [enqueueCont]
grind_pattern enqueueCont_slot => enqueueCont s gk, slotIs c0 k0 p0 _
theorem countWaiter_slot {c0 k0 : Nat} {p0 : PaySlot} (s : State) (part : Nat) (world : Bool) (obj : Nat) (k : WaitKind) (delta : Nat)
    (hc : slotIs c0 k0 p0 s.clusters) :
    slotIs c0 k0 p0 (countWaiter s part world obj k delta).clusters := slot_of_kept (countWaiter_kept ..) hc
grind_pattern countWaiter_slot => countWaiter s part world obj k delta, slotIs c0 k0 p0 _
theorem wakeWaiter_slot {c0 k0 : Nat} {p0 : PaySlot} (s : State) (w : Waiter) (hc : slotIs c0 k0 p0 s.clusters) :
    slotIs c0 k0 p0 (wakeWaiter s w).clusters := by grind [wakeWaiter]
grind_pattern wakeWaiter_slot => wakeWaiter s w, slotIs c0 k0 p0 _
theorem wakeAll_slot {c0 k0 : Nat} {p0 : PaySlot} (s : State) (part : Nat) (world : Bool) (obj : Nat) (hc : slotIs c0 k0 p0 s.clusters) :
    slotIs c0 k0 p0 (wakeAll s part world obj).clusters := by grind [wakeAll]
grind_pattern wakeAll_slot => wakeAll s part world obj, slotIs c0 k0 p0 _
theorem settleFuture_slot {c0 k0 : Nat} {p0 : PaySlot} (s : State) (part : Nat) (world : Bool) (va : Nat) (value : Nat) (failed : Bool)
    (hc : slotIs c0 k0 p0 s.clusters) :
    slotIs c0 k0 p0 (settleFuture s part world va value failed).1.clusters := by grind [settleFuture]
grind_pattern settleFuture_slot => settleFuture s part world va value failed, slotIs c0 k0 p0 _
theorem recordUpdate_slot {c0 k0 : Nat} {p0 : PaySlot} (s : State) (g : Group) (off : Nat) (n : Nat) (f : Nat → Nat)
    (hc : slotIs c0 k0 p0 s.clusters) :
    slotIs c0 k0 p0 (recordUpdate s g off n f).clusters := by grind [recordUpdate]
grind_pattern recordUpdate_slot => recordUpdate s g off n f, slotIs c0 k0 p0 _
theorem replyWords_slot {c0 k0 : Nat} {p0 : PaySlot} (s : State) (gk : Nat) (tid : Nat) (vals : List (Nat × Word)) (hc : slotIs c0 k0 p0 s.clusters) :
    slotIs c0 k0 p0 (replyWords s gk tid vals).clusters := by grind [replyWords]
grind_pattern replyWords_slot => replyWords s gk tid vals, slotIs c0 k0 p0 _
theorem replyLast_slot {c0 k0 : Nat} {p0 : PaySlot} (s : State) (o : Op) (tid : Nat) (vals : List (Nat × Word)) (hc : slotIs c0 k0 p0 s.clusters) :
    slotIs c0 k0 p0 (replyLast s o tid vals).clusters := by grind [replyLast]
grind_pattern replyLast_slot => replyLast s o tid vals, slotIs c0 k0 p0 _
theorem creditCounter_slot {c0 k0 : Nat} {p0 : PaySlot} (s : State) (gk : Nat) (tid : Nat) (cnt : Nat) (hc : slotIs c0 k0 p0 s.clusters) :
    slotIs c0 k0 p0 (creditCounter s gk tid cnt).clusters := by grind [creditCounter]
grind_pattern creditCounter_slot => creditCounter s gk tid cnt, slotIs c0 k0 p0 _
theorem deferFault_slot {c0 k0 : Nat} {p0 : PaySlot} (s : State) (gk : Nat) (tid : Nat) (cnt : Nat) (f : FaultInfo)
    (hc : slotIs c0 k0 p0 s.clusters) :
    slotIs c0 k0 p0 (deferFault s gk tid cnt f).clusters := by grind [deferFault]
grind_pattern deferFault_slot => deferFault s gk tid cnt f, slotIs c0 k0 p0 _
theorem dropOp_slot {c0 k0 : Nat} {p0 : PaySlot} (s : State) (id : Nat) (hc : slotIs c0 k0 p0 s.clusters) :
    slotIs c0 k0 p0 (dropOp s id).clusters := by grind [dropOp]
grind_pattern dropOp_slot => dropOp s id, slotIs c0 k0 p0 _
theorem retireOp_slot {c0 k0 : Nat} {p0 : PaySlot} (s : State) (o : Op) (hc : slotIs c0 k0 p0 s.clusters) :
    slotIs c0 k0 p0 (retireOp s o).clusters := by grind [retireOp]
grind_pattern retireOp_slot => retireOp s o, slotIs c0 k0 p0 _
theorem wakeOne_slot {c0 k0 : Nat} {p0 : PaySlot} (core : Nat) (s : State) (o : Op) (hc : slotIs c0 k0 p0 s.clusters) :
    slotIs c0 k0 p0 (wakeOne core s o).clusters := by grind [wakeOne]
grind_pattern wakeOne_slot => wakeOne core s o, slotIs c0 k0 p0 _
theorem wakeSync_slot {c0 k0 : Nat} {p0 : PaySlot} (core : Nat) (s : State) (hc : slotIs c0 k0 p0 s.clusters) :
    slotIs c0 k0 p0 (wakeSync core s).clusters := by grind [wakeSync]
grind_pattern wakeSync_slot => wakeSync core s, slotIs c0 k0 p0 _
theorem scratchStore_slot {c0 k0 : Nat} {p0 : PaySlot} (s : State) (core : Nat) (off : Nat) (bs : List Byte) (hc : slotIs c0 k0 p0 s.clusters) :
    slotIs c0 k0 p0 (scratchStore s core off bs).clusters := by grind [scratchStore]
grind_pattern scratchStore_slot => scratchStore s core off bs, slotIs c0 k0 p0 _
theorem windowPiece_slot {c0 k0 : Nat} {p0 : PaySlot} (s : State) (part : Nat) (die : Nat) (writer : Nat) (piece : Nat) (data : DWord)
    (core : Option Nat) (hc : slotIs c0 k0 p0 s.clusters) :
    slotIs c0 k0 p0 (windowPiece s part die writer piece data core).clusters := by grind [windowPiece]
grind_pattern windowPiece_slot => windowPiece s part die writer piece data core, slotIs c0 k0 p0 _
theorem storePieces_slot {c0 k0 : Nat} {p0 : PaySlot} (s : State) (c : Ctx) (g : Group) (tid : Nat) (hint : Nat) (a5 : List Piece)
    (a6 : List Byte) (hc : slotIs c0 k0 p0 s.clusters) :
    slotIs c0 k0 p0 (storePieces s c g tid hint a5 a6).clusters := by
  fun_induction storePieces <;> grind
grind_pattern storePieces_slot => storePieces s c g tid hint a5 a6, slotIs c0 k0 p0 _
theorem atomicInL1_slot {c0 k0 : Nat} {p0 : PaySlot} (s : State) (c : Ctx) (asid : Nat) (p : Piece) (am : Nat) (size : Nat) (y : DWord)
    (cmp : DWord) (hc : slotIs c0 k0 p0 s.clusters) :
    slotIs c0 k0 p0 (atomicInL1 s c asid p am size y cmp).1.clusters := slot_of_kept (atomicInL1_kept ..) hc
grind_pattern atomicInL1_slot => atomicInL1 s c asid p am size y cmp, slotIs c0 k0 p0 _
theorem atomicAtHome_slot {c0 k0 : Nat} {p0 : PaySlot} (s : State) (c : Ctx) (asid : Nat) (p : Piece) (am : Nat) (size : Nat) (y : DWord)
    (cmp : DWord) (hc : slotIs c0 k0 p0 s.clusters) :
    slotIs c0 k0 p0 (atomicAtHome s c asid p am size y cmp).1.clusters := slot_of_kept (atomicAtHome_kept ..) hc
grind_pattern atomicAtHome_slot => atomicAtHome s c asid p am size y cmp, slotIs c0 k0 p0 _
theorem atomicPlace_slot {c0 k0 : Nat} {p0 : PaySlot} (s : State) (c : Ctx) (place : Place) (am : Nat) (size : Nat) (y : DWord) (cmp : DWord)
    (hc : slotIs c0 k0 p0 s.clusters) :
    slotIs c0 k0 p0 (atomicPlace s c place am size y cmp).1.clusters := by
  unfold atomicPlace
  grind
grind_pattern atomicPlace_slot => atomicPlace s c place am size y cmp, slotIs c0 k0 p0 _
theorem loadValue_slot {c0 k0 : Nat} {p0 : PaySlot} (s : State) (c : Ctx) (g : Group) (place : Place) (size : Nat) (treat : Treat) (hint : Nat)
    (staged : Nat) (hc : slotIs c0 k0 p0 s.clusters) :
    slotIs c0 k0 p0 (loadValue s c g place size treat hint staged).1.clusters := slot_of_kept (loadValue_kept ..) hc
grind_pattern loadValue_slot => loadValue s c g place size treat hint staged, slotIs c0 k0 p0 _
theorem performAccess_slot {c0 k0 : Nat} {p0 : PaySlot} (s : State) (g : Group) (o : Op) (hc : slotIs c0 k0 p0 s.clusters) :
    slotIs c0 k0 p0 (performAccess s g o).1.clusters := by grind [performAccess]
grind_pattern performAccess_slot => performAccess s g o, slotIs c0 k0 p0 _
theorem performOp_slot {c0 k0 : Nat} {p0 : PaySlot} (s : State) (o : Op) (hc : slotIs c0 k0 p0 s.clusters) :
    slotIs c0 k0 p0 (performOp s o).clusters := by
  unfold performOp
  (repeat' split) <;> grind
grind_pattern performOp_slot => performOp s o, slotIs c0 k0 p0 _
theorem performAll_slot {c0 k0 : Nat} {p0 : PaySlot} (s : State) (p : Op → Bool) (hc : slotIs c0 k0 p0 s.clusters) :
    slotIs c0 k0 p0 (performAll s p).clusters := by grind [performAll]
grind_pattern performAll_slot => performAll s p, slotIs c0 k0 p0 _
theorem releaseGroup_slot {c0 k0 : Nat} {p0 : PaySlot} (s : State) (gk : Nat) (hc : slotIs c0 k0 p0 s.clusters) :
    slotIs c0 k0 p0 (releaseGroup s gk).clusters := by grind [releaseGroup]
grind_pattern releaseGroup_slot => releaseGroup s gk, slotIs c0 k0 p0 _
theorem frameUpdate_slot {c0 k0 : Nat} {p0 : PaySlot} (s : State) (g : Group) (f : Nat → Nat) (hc : slotIs c0 k0 p0 s.clusters) :
    slotIs c0 k0 p0 (frameUpdate s g f).clusters := by grind [frameUpdate]
grind_pattern frameUpdate_slot => frameUpdate s g f, slotIs c0 k0 p0 _

end Sys2Proof.Machine
end

section
/-! SUPPORT. The graphics instructions of a group (R340, R341, R344, R354): a payload slot taken or waited for, counted operations. -/
namespace Sys2Proof.Machine
open Sys2Proof.Claims

/-! ## An issue group that stays, or that its group has left -/

/-- The issue group still stands at the head, or its group has left every issue group. -/
def stays (gk : Nat) (i : Issue) (l : List Issue) : Prop := clear gk l ∨ ∃ rest, l = i :: rest

theorem stays_closed {gk : Nat} {i : Issue} (hi : i.members ≠ []) (hm : ∀ m ∈ i.members, m.1 = gk) : closed (stays gk i) := by
  rintro s k (hc | ⟨rest, hr⟩)
  · exact .inl (clear_closed gk s k hc)
  · by_cases hk : k = gk
    · subst hk
      exact .inl (clear_dropMembers_same s k)
    · have hf : (i.members.filter fun m => !(m.1 == k)) = i.members := by
        rw [List.filter_eq_self]
        intro m hmm
        rw [hm m hmm]
        simpa using fun h => hk h.symm
      have hne : i.members.isEmpty = false := by simpa using hi
      refine .inr ⟨(rest.map fun j => { j with members := j.members.filter fun m => !(m.1 == k) }).filter fun j => !(j.members.isEmpty), ?_⟩
      unfold dropMembers
      dsimp only
      rw [hr, List.map_cons, List.filter_cons_of_pos (by rw [hf, hne]; rfl), hf]

theorem endPhase_holds {P : List Issue → Prop} (hP : closed P) (s : State) (gk : Nat) (rpc hdr : DWord) (n wobj : Nat)
    (hc : holds P s.issues) : holds P (endPhase s gk rpc hdr n wobj).issues := by
  have hr : holds P (releaseGroup s gk).issues := releaseGroup_holds hP s gk hc
  unfold endPhase
  dsimp only
  split
  · exact hr
  · next g _ =>
    have hw := hwWrite_holds (P := P) (releaseGroup s gk) g.record.part g.record.world (phaseRecordVa g) (phaseRecord g rpc n wobj) hr
    split
    · next h =>
      rw [h] at hw
      exact failRecord_holds hP _ gk _ hw
    · next s1 h =>
      rw [h] at hw
      have hd : holds P (dropMembers s1 fun m => m.1 == gk).issues := hP s1 gk hw
      split
      · exact hd
      · exact holds_of_kept (entryUpdate_kept ..) hd

theorem waitForSlot_holds {P : List Issue → Prop} (hP : closed P) (s : State) (g : Group) (site : FaultSite)
    (hc : holds P s.issues) : holds P (waitForSlot s g site).issues := by
  have he := endPhase_holds hP s g.gk site.pc site.hdr (variantCarry g) 0 hc
  unfold waitForSlot
  dsimp only
  split
  · exact he
  · split
    · exact he
    · exact help_holds hP _ _ 8 _ he

theorem loadTemplate_holds {P : List Issue → Prop} (hP : closed P) (s : State) (g : Group) (t : Thread) (va : Nat)
    (hc : holds P s.issues) : holds P (loadTemplate s g t va).1.issues := by
  have hp : holds P (performThread s g.gk t.idx).issues := performThread_holds hP s g.gk t.idx hc
  unfold loadTemplate
  split
  · exact hc
  · have hr := resolveParts_holds (P := P) (performThread s g.gk t.idx) (ctxOf g t) .r 0 [(va, 64)] hp
    dsimp only
    split
    · next h => rw [h] at hr; exact hr
    · next h =>
      rw [h] at hr
      split <;> exact loadPieces_holds _ _ _ _ _ hr

theorem temitChecks_holds {P : List Issue → Prop} (hP : closed P) (o : TaskOp) (s : State) (g : Group) (t : Thread)
    (hc : holds P s.issues) : holds P (temitChecks o s g t).1.issues := by
  have hl := loadTemplate_holds hP s g t (temitVa g o) hc
  unfold temitChecks
  split
  · exact hc
  · exact hc
  · dsimp only
    split_ifs
    · exact hc
    · exact hc
    · exact hc
    · exact hc
    · split
      · next h => rw [h] at hl; exact hl
      · next s1 v h =>
        rw [h] at hl
        have hf := frameRead_holds hP s1 g hl
        split_ifs
        · exact hl
        · split
          · next h => rw [h] at hf; exact hf
          · next h =>
            rw [h] at hf
            split_ifs <;> exact hf

/-- A `temit` that passes its checks is of a task stage, and its record is that of its meshlets (R340). -/
theorem temitChecks_ok {o : TaskOp} {s : State} {g : Group} {t : Thread} {r : TaskRecord} (h : (temitChecks o s g t).2 = some (.ok r)) :
    g.record.kind = 1 ∧ r.kind = 2 ∧ ∃ v fr farr, r = temitRecord v fr o g farr := by
  unfold temitChecks at h
  split at h
  · simp at h
  · simp at h
  · next farr hk _ =>
    have hkind : g.record.kind = 1 := by
      unfold kindFault at hk
      by_contra hne
      simp [hne] at hk
    dsimp only at h
    split_ifs at h <;> try simp at h
    split at h
    · simp at h
    · next v _ =>
      split_ifs at h <;> try simp at h
      split at h
      · simp at h
      · next fr _ =>
        split_ifs at h with hd hv
        · simp at h
        · simp at h
        · injection h with h
          injection h with h
          refine ⟨hkind, ?_, v, fr, farr.toNat, h.symm⟩
          rw [← h]
          simp only [not_or] at hv
          simpa using hv.2

/-! ## Counted operations of a group (R70, R313) -/

theorem setThreads_issues (s : State) (gk : Nat) (ts : List Thread) (f : Thread → Thread) :
    (setThreads s gk ts f).issues = s.issues := by
  unfold setThreads
  induction ts generalizing s with
  | nil => rfl
  | cons t ts ih => exact ih (modThread s gk t.idx f)

theorem issueGroupOp_issues (s : State) (g : Group) (ts : List Thread) (wait : BitVec 3) (kind : OpKind) :
    (issueGroupOp s g ts wait kind).issues = s.issues := by
  unfold issueGroupOp
  dsimp only
  rw [setThreads_issues]
  rfl

/-! ## temit (R340, R341) -/

theorem mem_enumFrom {α : Type} {l : List α} {n : Nat} {e : Nat × α} (h : e ∈ enumFrom n l) : n ≤ e.1 ∧ e.1 < n + l.length := by
  induction l generalizing n with
  | nil => simp [enumFrom] at h
  | cons x l ih =>
    rcases List.mem_cons.mp h with rfl | h
    · simp
    · have := ih h
      simp only [List.length_cons]
      omega

theorem slotFor_lt {s : State} {c gk slot : Nat} (h : slotFor s c gk = some slot) : slot < (clusterOf s c).ring.length := by
  obtain ⟨e, he, rfl⟩ := Option.map_eq_some_iff.mp h
  have hm : e ∈ enumFrom 0 (clusterOf s c).ring := by
    cases h : (enumFrom 0 (clusterOf s c).ring).find? fun e => e.2.reserved == some gk with
    | some e1 =>
      rw [h] at he
      exact Option.some.inj he ▸ List.mem_of_find?_eq_some h
    | none =>
      rw [h] at he
      exact List.mem_of_find?_eq_some he
  simpa using (mem_enumFrom hm).2

/-- The slot that `temit` takes, with its payload. -/
def paySlot (o : TaskOp) (s : State) (g : Group) (r : TaskRecord) : PaySlot :=
  { owner := some (r.part, r.taskid), len := payLen o, data := scratchRead s g.core (payPlace g o) (payLen o), filled := (fresh s).2 }

theorem emitPayload_slot {o : TaskOp} {s : State} {g : Group} {r : TaskRecord} {slot : Nat}
    (h : slot < (clusterOf s (clusterOfGroup g)).ring.length) :
    slotIs (clusterOfGroup g) slot (paySlot o s g r) (emitPayload o s g r slot).clusters := by
  let s1 := modCluster (fresh s).1 (clusterOfGroup g) fun c => { c with ring := c.ring.set slot (paySlot o s g r) }
  have h1 : slotIs (clusterOfGroup g) slot (paySlot o s g r) s1.clusters := by
    refine ⟨?_, rfl⟩
    show (clusterOf s1 (clusterOfGroup g)).ring[slot]? = _
    rw [clusterOf_modCluster]
    exact List.getElem?_set_self h
  have h2 := frameUpdate_slot (releaseGroup s1 g.gk) g
    (fun v => setField (setField v 32 32 (field v 32 32 + 1)) 0 32 (field v 0 32 + 1)) (releaseGroup_slot s1 g.gk h1)
  exact slot_of_ring (congrFun (acceptRecord_rings _ r g.frame (clusterOfGroup g) false .none (some (clusterOfGroup g, slot))) _) h2

end Sys2Proof.Machine

namespace Sys2Proof.Claims.Performs
open Sys2Proof.Machine

variable {s s1 : State} {i : Issue} {rest : List Issue} {g : Group} {gd : Guard} {t0 : Thread} {ts : List Thread}
variable {f : State → Group → List Thread → GroupOut} (hp : Performs s i rest g gd t0 ts)
include hp

/-- What is left of a group-scope instruction whose group has left its issue group, or is still to run it (R313). -/
theorem runGroup_stays (hf : f s g ts = .left s1) (hs : stays g.gk i s1.issues) : Machine.runGroup s gd f = s1 := by
  rcases hs with hc | ⟨rest', hr⟩
  · exact hp.runGroup_left hf hc
  · obtain ⟨hd, -⟩ := hp.converged.start
    rw [hp.runGroup_eq, hf]
    have hall : (i.members.all fun m => i.members.contains m) = true := by simp
    have hnone : (i.members.all fun m => (i.issued ++ i.members.filter fun m => List.contains [] m.1).contains m) = false := by
      obtain ⟨m, ms, hms⟩ := List.exists_cons_of_ne_nil hp.converged.head.nonempty
      rw [hms, hd]
      simp
    have hi : { i with issued := i.issued ++ i.members.filter fun m => List.contains [] m.1 } = i := by
      rw [hd, List.filter_eq_nil_iff.mpr (by simp), List.append_nil, ← hd]
    simp only [closeConv, hr]
    rw [hall, hnone, hi, ← hr]
    rfl

/-- No wait counter of a thread of the group is full: each is zero (R70). -/
theorem counterFull_false (wait : BitVec 3) : counterFull s gd wait = false := by
  unfold counterFull
  rw [headMembers_cons hp.converged.head.issues]
  by_cases h6 : wait.toNat < 6
  · rw [Bool.and_eq_false_iff]
    refine .inr (List.any_eq_false.mpr fun m hm => ?_)
    obtain ⟨t, ht, hl, hm'⟩ := hp.converged.thread hm
    have hz : t.w.getD wait.toNat 0 = 0 := by
      rw [List.getD_eq_getElem?_getD]
      cases h : t.w[wait.toNat]? with
      | none => rfl
      | some n => exact (hp.waits t (List.mem_of_find?_eq_some ht) hl).1 n (List.mem_of_getElem? h)
    rw [hm']
    dsimp only
    rw [hz]
    simp
  · simp [h6]

end Sys2Proof.Claims.Performs

namespace Sys2Proof.Machine
open Sys2Proof.Claims

section
variable {o : TaskOp} {s : State} {i : Issue} {rest : List Issue} {g : Group} {t0 t : Thread} {ts : List Thread}
variable (hp : Performs s i rest g o.g t0 ts) (ht : ts.head? = some t)
include hp ht

theorem runs_temit {r : TaskRecord} {slot : Nat} (hr : (temitChecks o s g t).2 = some (.ok r))
    (hslot : slotFor (temitChecks o s g t).1 (clusterOfGroup g) g.gk = some slot) (hh : temitHeld (temitChecks o s g t).1 g r = false)
    (hi : (emitPayload o (temitChecks o s g t).1 g r slot).issues = s.issues) :
    Runs (.temit o) s fun s' => AllPast (emitPayload o (temitChecks o s g t).1 g r slot) s' i rest 2 := by
  have hc : temitChecks o s g t = ((temitChecks o s g t).1, some (.ok r)) := Prod.ext rfl hr
  refine hp.runs_done rfl ?_ hi
  rw [ht]
  dsimp only
  rw [hc]
  dsimp only
  rw [hslot]
  dsimp only
  rw [hh]
  rfl

/-- Without a slot the group joins the ring's waiter list and its phase ends (R341). -/
theorem exec_temit_waits {r : TaskRecord} (hr : (temitChecks o s g t).2 = some (.ok r))
    (hn : slotFor (temitChecks o s g t).1 (clusterOfGroup g) g.gk = none) :
    exec (.temit o) s = .next (waitForSlot (temitChecks o s g t).1 g (siteNow i)) := by
  have hc : temitChecks o s g t = ((temitChecks o s g t).1, some (.ok r)) := Prod.ext rfl hr
  have hi : i.members ≠ [] := hp.converged.head.nonempty
  have hclosed := stays_closed (gk := g.gk) hi fun m hm => hp.converged.member_gk hm
  have hstart : holds (stays g.gk i) s.issues := .inr ⟨rest, hp.converged.head.issues⟩
  refine congrArg Host.Outcome.next (hp.runGroup_stays ?_
    (waitForSlot_holds hclosed _ g (siteNow i) (temitChecks_holds hclosed o s g t hstart)))
  rw [ht]
  dsimp only
  rw [hc]
  dsimp only
  rw [hn, headSite_cons hp.converged.head.issues]
  rfl

/-- `mend` beyond its checks (R344). -/
theorem runs_mend {b : DWord} (hi : (releaseGroup s g.gk).issues = s.issues) (hb : readSrc64 .int g t o.b = .ok b)
    (hk : g.record.kind = 2) (hf : mendFault s g b.toNat = none) :
    Runs (.mend o) s fun s' => AllPast (issueGroupOp (modGroup (releaseGroup s g.gk) g.gk fun x =>
      { x with gfx := match x.gfx with | .mesh c k _ => .mesh c k true | y => y }) g ts o.wait
      (.binning (field b.toNat 0 9) (field b.toNat 16 9) (BitVec.ofNat 24 (field b.toNat 32 24)))) s' i rest 2 := by
  refine hp.runs_done (congrArg Host.Outcome.next (if_neg (by rw [hp.counterFull_false]; exact Bool.false_ne_true))) ?_ ?_
  · rw [ht, kindFault, if_pos hk]
    dsimp only
    rw [hb]
    dsimp only
    rw [hf] <;> rfl
  · rw [issueGroupOp_issues]
    exact hi

omit ht in
/-- `tdone` beyond its checks (R354). -/
theorem runs_tdone (hi : (releaseGroup s g.gk).issues = s.issues) (hf : tdoneFault s g o = none) :
    Runs (.tdone o) s fun s' => AllPast (issueGroupOp (releaseGroup s g.gk) g ts o.wait
      (.tdone o.d.toNat (o.tx.toNat % 8) ((segOf g 1).base.toNat + pixelOff g o))) s' i rest 2 := by
  refine hp.runs_done (congrArg Host.Outcome.next (if_neg (by rw [hp.counterFull_false]; exact Bool.false_ne_true))) ?_ ?_
  · rw [hf, txPred_low, BitVec.toNat_setWidth]
  · rw [issueGroupOp_issues]
    exact hi

end

end Sys2Proof.Machine

open Sys2Proof Sys2Proof.Machine Sys2Proof.Claims

/-- Settles O45: a slot taken holds its payload through the release and the enqueue, which keep every ring slot that is not reserved;
without one nothing of the wait brings the group back into an issue group; `mend` and `tdone` pass their checks and issue once. -/
theorem geometryGroupResults : Obligations.GeometryGroupResults := by
  unfold Obligations.GeometryGroupResults
  intro o s i rest g t0 t ts hp ht
  refine ⟨?_, ?_⟩
  · intro checks s1 r hr
    obtain ⟨hk, hr2, v, fr, farr, rfl⟩ := temitChecks_ok hr
    refine ⟨⟨hk, hr2, rfl, rfl, rfl, rfl, rfl, rfl, rfl⟩, fun slot hslot hh => ⟨runs_temit hp ht hr hslot hh, ?_⟩,
      exec_temit_waits hp ht hr⟩
    obtain ⟨hp1, hp2⟩ := emitPayload_slot (o := o) (r := temitRecord v fr o g farr) (slotFor_lt hslot)
    exact ⟨_, hp1, rfl, rfl, rfl, hp2⟩
  · intro s1 hs
    have hi : s1.issues = s.issues := hs.elim (fun h => issues_of_kept (releaseGroup_kept h)) id
    refine ⟨fun b c k hb hk _ hf => ?_, runs_tdone hp hi⟩
    intro s2
    have h := runs_mend hp ht hi hb hk hf
    rw [show field b.toNat 0 9 = b.toNat % 512 by simp [field]] at h
    exact h
end

section
/-! SUPPORT. What the memory system leaves of dies and partitions: the front ends with their frames, invalidate queues and windows, and
every register, one lemma for each function that reads or writes memory (R212). -/
namespace Sys2Proof.Machine

-- Each lemma here serves the next ones: elaborated in order, they keep no thread waiting.
set_option Elab.async false

/-- What of a die no access to memory changes: its invalidate queues and windows and the frames of its front end. -/
def front (d : Die) : Die := { d with l2 := [], tlb := [], grants := [], errors := [] }

/-- What of a partition no access to memory changes: all but its write log. -/
def office (p : Partition) : Partition := { p with writeLog := [], logOverflow := false }

/-- What of dies and partitions no access to memory changes. -/
def deep (s : State) : (Nat → Die) × (Nat → Partition) := (fun d => front (dieOf s d), fun p => office (partOf s p))

theorem front_mk (d : Die) : front d = { d with l2 := [], tlb := [], grants := [], errors := [] } := rfl
grind_pattern front_mk => front d

theorem office_mk (p : Partition) : office p = { p with writeLog := [], logOverflow := false } := rfl
grind_pattern office_mk => office p

theorem deep_update (s : State) (fr : Nat) (m : Mem) (ps : List Nat) (se : Table (Nat × Nat)) (tg : Table Nat) (cs : Table Core) :
    deep { s with fresh := fr, mem := m, poison := ps, sealed := se, sizeTags := tg, cores := cs } = deep s := rfl
grind_pattern deep_update => deep { s with fresh := fr, mem := m, poison := ps, sealed := se, sizeTags := tg, cores := cs }

theorem modCore_deep (s : State) (c : Nat) (f : Core → Core) : deep (modCore s c f) = deep s := rfl
grind_pattern modCore_deep => modCore s c f

theorem dieOf_modDie_other (s : State) {d e : Nat} (f : Die → Die) (h : e ≠ d) : dieOf (modDie s d f) e = dieOf s e :=
  tget_tset_other _ _ _ h

/-- A die changed in what memory changes of it. -/
theorem modDie_deep {s : State} {d : Nat} {f : Die → Die} (hf : front (f (dieOf s d)) = front (dieOf s d)) :
    deep (modDie s d f) = deep s := by
  refine Prod.ext (funext fun e => ?_) rfl
  by_cases h : e = d
  · subst h
    exact (congrArg front (dieOf_modDie s e f)).trans hf
  · exact congrArg front (dieOf_modDie_other s f h)
grind_pattern modDie_deep => modDie s d f

/-- A partition changed in its write log. -/
theorem modPart_deep {s : State} {p : Nat} {f : Partition → Partition} (hf : office (f (partOf s p)) = office (partOf s p)) :
    deep (modPart s p f) = deep s := by
  refine Prod.ext rfl (funext fun e => ?_)
  by_cases h : e = p
  · subst h
    exact (congrArg office (partOf_modPart s e f)).trans hf
  · exact congrArg office (partOf_modPart_other s f h)
grind_pattern modPart_deep => modPart s p f

theorem foldl_deep {α : Type} {f : State → α → State} {s : State} {l : List α} (hf : ∀ s x, deep (f s x) = deep s) :
    deep (l.foldl f s) = deep s := by
  induction l generalizing s with
  | nil => rfl
  | cons x l ih => exact ih.trans (hf s x)
grind_pattern foldl_deep => l.foldl f s

theorem foldl_deep_fst {α β : Type} {f : State × β → α → State × β} {s : State × β} {l : List α}
    (hf : ∀ (s : State × β) x, deep (f s x).1 = deep s.1) : deep (l.foldl f s).1 = deep s.1 := by
  induction l generalizing s with
  | nil => rfl
  | cons x l ih => exact ih.trans (hf s x)
grind_pattern foldl_deep_fst => l.foldl f s

/-! ## Mem -/

theorem useFresh_deep (s : State) (n : Nat) : deep (useFresh s n) = deep s := rfl
grind_pattern useFresh_deep => useFresh s n
theorem logHostWrite_deep (s : State) (part : Nat) (pa : Nat) : deep (logHostWrite s part pa) = deep s := by grind [logHostWrite]
grind_pattern logHostWrite_deep => logHostWrite s part pa
theorem storeSector_deep (s : State) (part : Nat) (sec : Nat) (bs : List Byte) : deep (storeSector s part sec bs) = deep s := by grind [storeSector]
grind_pattern storeSector_deep => storeSector s part sec bs
theorem storeSectors_deep (s : State) (part : Nat) (sec : Nat) (a3 : Nat) (a4 : List Byte) : deep (storeSectors s part sec a3 a4) = deep s := by
  fun_induction storeSectors <;> grind
grind_pattern storeSectors_deep => storeSectors s part sec a3 a4
theorem markPoison_deep (s : State) (sec : Nat) (bad : Bool) : deep (markPoison s sec bad) = deep s := by grind [markPoison]
grind_pattern markPoison_deep => markPoison s sec bad
theorem countError_deep (s : State) (die : Nat) (k : Nat) : deep (countError s die k) = deep s := by grind [countError]
grind_pattern countError_deep => countError s die k
theorem poisonLine_deep (s : State) (line : Nat) : deep (poisonLine s line) = deep s := by grind [poisonLine]
grind_pattern poisonLine_deep => poisonLine s line
theorem checkLine_deep (s : State) (part : Nat) (line : Nat) : deep (checkLine s part line) = deep s := by grind [checkLine]
grind_pattern checkLine_deep => checkLine s part line
theorem sectorBytes_deep (s : State) (part : Nat) (sec : Nat) : deep (sectorBytes s part sec).1 = deep s := by grind [sectorBytes]
grind_pattern sectorBytes_deep => sectorBytes s part sec
theorem expandLine_deep (s : State) (part : Nat) (line : Nat) : deep (expandLine s part line) = deep s := by grind [expandLine]
grind_pattern expandLine_deep => expandLine s part line
theorem putSector_deep (s : State) (part : Nat) (sec : Nat) (bs : List Byte) (bad : Bool) :
    deep (putSector s part sec bs bad) = deep s := by grind [putSector]
grind_pattern putSector_deep => putSector s part sec bs bad
theorem packLine_deep (s : State) (part : Nat) (line : Nat) : deep (packLine s part line) = deep s := by
  simp only [packLine]
  (repeat' split) <;> grind
grind_pattern packLine_deep => packLine s part line
theorem directWrite_deep (s : State) (part : Nat) (pa : Nat) (bs : List Byte) : deep (directWrite s part pa bs) = deep s := by grind [directWrite]
grind_pattern directWrite_deep => directWrite s part pa bs
theorem directRead_deep (s : State) (part : Nat) (pa : Nat) (n : Nat) : deep (directRead s part pa n).1 = deep s := by grind [directRead]
grind_pattern directRead_deep => directRead s part pa n
theorem deviceStore_deep (s : State) (part : Nat) (pa : Nat) (bs : List Byte) : deep (deviceStore s part pa bs) = deep s := by grind [deviceStore]
grind_pattern deviceStore_deep => deviceStore s part pa bs
theorem deviceLoad_deep (s : State) (part : Nat) (pa : Nat) (n : Nat) : deep (deviceLoad s part pa n).1 = deep s := by grind [deviceLoad]
grind_pattern deviceLoad_deep => deviceLoad s part pa n
theorem l2Put_deep (s : State) (die : Nat) (l : L2Line) : deep (l2Put s die l) = deep s := by grind [l2Put]
grind_pattern l2Put_deep => l2Put s die l
theorem flushSector_deep (s : State) (l : L2Line) (e : Nat × L2Sector) : deep (flushSector s l e) = deep s := by grind [flushSector]
grind_pattern flushSector_deep => flushSector s l e
theorem l2WriteBack_deep (s : State) (die : Nat) (line : Nat) : deep (l2WriteBack s die line) = deep s := by grind [l2WriteBack]
grind_pattern l2WriteBack_deep => l2WriteBack s die line
theorem l2Evict_deep (s : State) (die : Nat) (line : Nat) : deep (l2Evict s die line) = deep s := by grind [l2Evict]
grind_pattern l2Evict_deep => l2Evict s die line
theorem freeWay_deep (s : State) (u : WayUse) (slice : Nat) : deep (freeWay s u slice) = deep s := by grind [freeWay]
grind_pattern freeWay_deep => freeWay s u slice
theorem takeWay_deep (s : State) (part : Nat) (slice : Nat) (line : Nat) : deep (takeWay s part slice line).1 = deep s := by grind [takeWay]
grind_pattern takeWay_deep => takeWay s part slice line
theorem l2Own_deep (s : State) (die : Nat) (part : Nat) (line : Nat) : deep (l2Own s die part line) = deep s := by grind [l2Own]
grind_pattern l2Own_deep => l2Own s die part line
theorem l2Line_deep (s : State) (die : Nat) (part : Nat) (line : Nat) (compr : Bool) :
    deep (l2Line s die part line compr).1 = deep s := by grind [l2Line]
grind_pattern l2Line_deep => l2Line s die part line compr
theorem l2Keep_deep (s : State) (die : Nat) (part : Nat) (line : Nat) (k : Nat) (compr : Bool) (x : L2Sector) :
    deep (l2Keep s die part line k compr x) = deep s := by grind [l2Keep]
grind_pattern l2Keep_deep => l2Keep s die part line k compr x
theorem l2Fill_deep (s : State) (die : Nat) (part : Nat) (line : Nat) (k : Nat) (x : L2Sector) :
    deep (l2Fill s die part line k x) = deep s := by grind [l2Fill]
grind_pattern l2Fill_deep => l2Fill s die part line k x
theorem l2Fetch_deep (s : State) (die : Nat) (part : Nat) (pa : Nat) : deep (l2Fetch s die part pa).1 = deep s := by grind [l2Fetch]
grind_pattern l2Fetch_deep => l2Fetch s die part pa
theorem l2Store_deep (s : State) (die : Nat) (part : Nat) (pa : Nat) (compr : Bool) (bytes : Table Byte) :
    deep (l2Store s die part pa compr bytes) = deep s := by grind [l2Store]
grind_pattern l2Store_deep => l2Store s die part pa compr bytes
theorem l2Merge_deep (s : State) (die : Nat) (part : Nat) (line : Nat) (compr : Bool) (bytes : Table Byte) :
    deep (l2Merge s die part line compr bytes) = deep s := by grind [l2Merge]
grind_pattern l2Merge_deep => l2Merge s die part line compr bytes
theorem l2Single_deep (s : State) (die : Nat) (line : Nat) : deep (l2Single s die line) = deep s := by grind [l2Single]
grind_pattern l2Single_deep => l2Single s die line
theorem l2Touch_deep (s : State) (die : Nat) (c : Ctx) (pa : Nat) (replicate : Option Nat) :
    deep (l2Touch s die c pa replicate) = deep s := by
  unfold l2Touch
  dsimp only
  (repeat' split) <;> grind
grind_pattern l2Touch_deep => l2Touch s die c pa replicate
theorem putGrant_deep (s : State) (core : Nat) (asid : Nat) (line : Nat) (pa : Nat) :
    deep (putGrant s core asid line pa) = deep s := by grind [putGrant]
grind_pattern putGrant_deep => putGrant s core asid line pa
theorem mergeDirty_deep (s : State) (core : Nat) (l : L1Line) : deep (mergeDirty s core l) = deep s := by grind [mergeDirty]
grind_pattern mergeDirty_deep => mergeDirty s core l
theorem giveUpLine_deep (s : State) (core : Nat) (l : L1Line) : deep (giveUpLine s core l) = deep s := by grind [giveUpLine]
grind_pattern giveUpLine_deep => giveUpLine s core l
theorem recallLine_deep (s : State) (line : Nat) : deep (recallLine s line) = deep s := by grind [recallLine]
grind_pattern recallLine_deep => recallLine s line
theorem l2Read_deep (s : State) (die : Nat) (part : Nat) (pa : Nat) (n : Nat) : deep (l2Read s die part pa n).1 = deep s := by grind [l2Read]
grind_pattern l2Read_deep => l2Read s die part pa n
theorem l2Write_deep (s : State) (die : Nat) (part : Nat) (pa : Nat) (compr : Bool) (bs : List Byte) :
    deep (l2Write s die part pa compr bs) = deep s := by grind [l2Write]
grind_pattern l2Write_deep => l2Write s die part pa compr bs
theorem l2Poison_deep (s : State) (die : Nat) (part : Nat) (pa : Nat) : deep (l2Poison s die part pa) = deep s := by grind [l2Poison]
grind_pattern l2Poison_deep => l2Poison s die part pa
theorem keptFault_deep {α : Type} (s : State) (cls : Nat) (va : Nat) (acc : Acc) : deep (@keptFault α s cls va acc).1 = deep s := by grind [keptFault]
grind_pattern keptFault_deep => @keptFault α s cls va acc
theorem readPte_deep (s : State) (d : Nat) (part : Nat) (pa : Nat) : deep (readPte s d part pa).1 = deep s := by grind [readPte]
grind_pattern readPte_deep => readPte s d part pa
theorem setAcc_deep (s : State) (d : Nat) (part : Nat) (pa : Nat) (pte : Nat) : deep (setAcc s d part pa pte) = deep s := by grind [setAcc]
grind_pattern setAcc_deep => setAcc s d part pa pte
theorem mergeable_deep (s : State) (d : Nat) (part : Nat) (tablePa : Nat) (idx : Nat) :
    deep (mergeable s d part tablePa idx).1 = deep s := by grind [mergeable]
grind_pattern mergeable_deep => mergeable s d part tablePa idx
theorem walkLevels_deep (c : Ctx) (acc : Acc) (asid : Nat) (va : Nat) (a4 : List Nat) (a5 : State) (a6 : Nat) (a7 : List TlbEntry) :
    deep (walkLevels c acc asid va a4 a5 a6 a7).1 = deep a5 := by
  fun_induction walkLevels <;> grind
grind_pattern walkLevels_deep => walkLevels c acc asid va a4 a5 a6 a7
theorem translate_deep (s : State) (c : Ctx) (acc : Acc) (va : Nat) : deep (translate s c acc va).1 = deep s := by grind [translate]
grind_pattern translate_deep => translate s c acc va
theorem countEvent_deep (s : State) (core : Nat) (ev : Nat) (n : Nat) : deep (countEvent s core ev n) = deep s := by grind [countEvent]
grind_pattern countEvent_deep => countEvent s core ev n
theorem l1Put_deep (s : State) (core : Nat) (l : L1Line) : deep (l1Put s core l) = deep s := by grind [l1Put]
grind_pattern l1Put_deep => l1Put s core l
theorem l1WriteBack_deep (s : State) (core : Nat) (asid : Nat) (line : Nat) : deep (l1WriteBack s core asid line) = deep s := by grind [l1WriteBack]
grind_pattern l1WriteBack_deep => l1WriteBack s core asid line
theorem l1Evict_deep (s : State) (core : Nat) (asid : Nat) (line : Nat) : deep (l1Evict s core asid line) = deep s := by grind [l1Evict]
grind_pattern l1Evict_deep => l1Evict s core asid line
theorem l1Room_deep (s : State) (core : Nat) (line : Nat) : deep (l1Room s core line) = deep s := by grind [l1Room]
grind_pattern l1Room_deep => l1Room s core line
theorem l1Alloc_deep (s : State) (core : Nat) (asid : Nat) (part : Nat) (va : Nat) (pa : Nat) (attr : PageAttr) (next : Bool) :
    deep (l1Alloc s core asid part va pa attr next).1 = deep s := by grind [l1Alloc]
grind_pattern l1Alloc_deep => l1Alloc s core asid part va pa attr next
theorem l1Load_deep (s : State) (c : Ctx) (va : Nat) (pa : Nat) (n : Nat) (hint : Nat) (attr : PageAttr) (grid : Nat) :
    deep (l1Load s c va pa n hint attr grid).1 = deep s := by grind [l1Load]
grind_pattern l1Load_deep => l1Load s c va pa n hint attr grid
theorem l1Store_deep (s : State) (c : Ctx) (va : Nat) (pa : Nat) (hint : Nat) (attr : PageAttr) (bs : List Byte) :
    deep (l1Store s c va pa hint attr bs) = deep s := by grind [l1Store]
grind_pattern l1Store_deep => l1Store s c va pa hint attr bs
theorem holdLine_deep (s : State) (core : Nat) (asid : Nat) (line : Nat) : deep (holdLine s core asid line) = deep s := by grind [holdLine]
grind_pattern holdLine_deep => holdLine s core asid line
theorem combineFlush_deep (s : State) (core : Nat) : deep (combineFlush s core) = deep s := by grind [combineFlush]
grind_pattern combineFlush_deep => combineFlush s core
theorem combineStore_deep (s : State) (c : Ctx) (va : Nat) (pa : Nat) (bs : List Byte) :
    deep (combineStore s c va pa bs) = deep s := by grind [combineStore]
grind_pattern combineStore_deep => combineStore s c va pa bs
theorem combineLoad_deep (s : State) (c : Ctx) (va : Nat) (pa : Nat) (n : Nat) : deep (combineLoad s c va pa n).1 = deep s := by grind [combineLoad]
grind_pattern combineLoad_deep => combineLoad s c va pa n
theorem placeRead_deep (s : State) (c : Ctx) (p : Piece) : deep (placeRead s c p).1 = deep s := by grind [placeRead]
grind_pattern placeRead_deep => placeRead s c p
theorem placeWrite_deep (s : State) (c : Ctx) (p : Piece) (bs : List Byte) : deep (placeWrite s c p bs) = deep s := by grind [placeWrite]
grind_pattern placeWrite_deep => placeWrite s c p bs
theorem placePoison_deep (s : State) (c : Ctx) (p : Piece) : deep (placePoison s c p) = deep s := by grind [placePoison]
grind_pattern placePoison_deep => placePoison s c p
theorem loadPiece_deep (s : State) (c : Ctx) (p : Piece) (hint : Nat) (grid : Nat) :
    deep (loadPiece s c p hint grid).1 = deep s := by grind [loadPiece]
grind_pattern loadPiece_deep => loadPiece s c p hint grid
theorem storePiece_deep (s : State) (c : Ctx) (p : Piece) (hint : Nat) (bs : List Byte) :
    deep (storePiece s c p hint bs) = deep s := by grind [storePiece]
grind_pattern storePiece_deep => storePiece s c p hint bs
theorem drainFlume_deep (s : State) (core : Nat) : deep (drainFlume s core) = deep s := by grind [drainFlume]
grind_pattern drainFlume_deep => drainFlume s core
theorem drainCore_deep (s : State) (core : Nat) : deep (drainCore s core) = deep s := by grind [drainCore]
grind_pattern drainCore_deep => drainCore s core
theorem dropClean_deep (s : State) (core : Nat) : deep (dropClean s core) = deep s := by grind [dropClean]
grind_pattern dropClean_deep => dropClean s core
theorem acquireCore_deep (s : State) (core : Nat) : deep (acquireCore s core) = deep s := by grind [acquireCore]
grind_pattern acquireCore_deep => acquireCore s core
theorem translateParts_deep (s : State) (c : Ctx) (acc : Acc) (a3 : List (Nat × Nat)) : deep (translateParts s c acc a3).1 = deep s := by
  fun_induction translateParts <;> grind
grind_pattern translateParts_deep => translateParts s c acc a3
theorem readPieces_deep (s : State) (c : Ctx) (a2 : List Piece) : deep (readPieces s c a2).1 = deep s := by
  fun_induction readPieces <;> grind
grind_pattern readPieces_deep => readPieces s c a2
theorem writePieces_deep (s : State) (c : Ctx) (a2 : List Piece) (a3 : List Byte) : deep (writePieces s c a2 a3) = deep s := by
  fun_induction writePieces <;> grind
grind_pattern writePieces_deep => writePieces s c a2 a3
theorem vmRead_deep (s : State) (c : Ctx) (va : Nat) (n : Nat) : deep (vmRead s c va n).1 = deep s := by grind [vmRead]
grind_pattern vmRead_deep => vmRead s c va n
theorem vmWrite_deep (s : State) (c : Ctx) (va : Nat) (bs : List Byte) : deep (vmWrite s c va bs).1 = deep s := by grind [vmWrite]
grind_pattern vmWrite_deep => vmWrite s c va bs
theorem hwRead_deep (s : State) (part : Nat) (sec : Bool) (va : Nat) (n : Nat) : deep (hwRead s part sec va n).1 = deep s := by grind [hwRead]
grind_pattern hwRead_deep => hwRead s part sec va n
theorem hwAmend_deep (s : State) (part : Nat) (sec : Bool) (va : Nat) (n : Nat) (f : Nat → Nat) (bad : Bool) :
    deep (hwAmend s part sec va n f bad).1 = deep s := by grind [hwAmend]
grind_pattern hwAmend_deep => hwAmend s part sec va n f bad
theorem hwWrite_deep (s : State) (part : Nat) (sec : Bool) (va : Nat) (bs : List Byte) :
    deep (hwWrite s part sec va bs).1 = deep s := by grind [hwWrite]
grind_pattern hwWrite_deep => hwWrite s part sec va bs
theorem hwUpdate_deep (s : State) (part : Nat) (sec : Bool) (va : Nat) (n : Nat) (f : Nat → Nat) :
    deep (hwUpdate s part sec va n f).1 = deep s := by grind [hwUpdate]
grind_pattern hwUpdate_deep => hwUpdate s part sec va n f
/-! ## Ops -/

theorem hostWords_deep (s : State) (part : Nat) (pa : Nat) (ws : List DWord) : deep (hostWords s part pa ws) = deep s := by grind [hostWords]
grind_pattern hostWords_deep => hostWords s part pa ws
/-! ## Access -/

theorem resolvePart_deep (s : State) (c : Ctx) (acc : Acc) (hint : Nat) (va : Nat) (len : Nat) :
    deep (resolvePart s c acc hint va len).1 = deep s := by grind [resolvePart]
grind_pattern resolvePart_deep => resolvePart s c acc hint va len
theorem resolveParts_deep (s : State) (c : Ctx) (acc : Acc) (hint : Nat) (a4 : List (Nat × Nat)) :
    deep (resolveParts s c acc hint a4).1 = deep s := by
  fun_induction resolveParts <;> grind
grind_pattern resolveParts_deep => resolveParts s c acc hint a4
theorem resolve_deep (s : State) (g : Group) (t : Thread) (seg : Nat) (size : Nat) (o : Nat) (acc : Acc) (hint : Nat) (want : Nat) :
    deep (resolve s g t seg size o acc hint want).1 = deep s := by grind [resolve]
grind_pattern resolve_deep => resolve s g t seg size o acc hint want
theorem applyOwn_deep (gr : Grid) (g : Group) (va : Nat) (a3 : Nat) (a4 : State) (a5 : Nat) (a6 : List Byte) :
    deep (applyOwn gr g va a3 a4 a5 a6).1 = deep a4 := by
  fun_induction applyOwn <;> grind
grind_pattern applyOwn_deep => applyOwn gr g va a3 a4 a5 a6
theorem loadPieces_deep (s : State) (c : Ctx) (hint : Nat) (grid : Nat) (a4 : List Piece) : deep (loadPieces s c hint grid a4).1 = deep s := by
  fun_induction loadPieces <;> grind
grind_pattern loadPieces_deep => loadPieces s c hint grid a4
theorem atomicInL1_deep (s : State) (c : Ctx) (asid : Nat) (p : Piece) (am : Nat) (size : Nat) (y : DWord) (cmp : DWord) :
    deep (atomicInL1 s c asid p am size y cmp).1 = deep s := by grind [atomicInL1]
grind_pattern atomicInL1_deep => atomicInL1 s c asid p am size y cmp
theorem atomicAtHome_deep (s : State) (c : Ctx) (asid : Nat) (p : Piece) (am : Nat) (size : Nat) (y : DWord) (cmp : DWord) :
    deep (atomicAtHome s c asid p am size y cmp).1 = deep s := by grind [atomicAtHome]
grind_pattern atomicAtHome_deep => atomicAtHome s c asid p am size y cmp
theorem loadValue_deep (s : State) (c : Ctx) (g : Group) (place : Place) (size : Nat) (treat : Treat) (hint : Nat) (staged : Nat) :
    deep (loadValue s c g place size treat hint staged).1 = deep s := by
  unfold loadValue
  grind
grind_pattern loadValue_deep => loadValue s c g place size treat hint staged
/-! ## Memory -/

theorem memTarget_deep (s : State) (g : Group) (t : Thread) (o : MemOp) (size : Nat) (acc : Acc) (want : Nat) :
    deep (memTarget s g t o size acc want).1 = deep s := by grind [memTarget]
grind_pattern memTarget_deep => memTarget s g t o size acc want
theorem prefetchPiece_deep (c : Ctx) (hint : Nat) (grid : Nat) (s : State) (p : Piece) :
    deep (prefetchPiece c hint grid s p) = deep s := by grind [prefetchPiece]
grind_pattern prefetchPiece_deep => prefetchPiece c hint grid s p
theorem prefetch_deep (o : MemOp) (s : State) (g : Group) (t : Thread) : deep (prefetch o s g t).1 = deep s := by grind [prefetch]
grind_pattern prefetch_deep => prefetch o s g t
/-! ## Objects -/

theorem writeObject_deep (s : State) (g : Group) (va : Nat) (size : Nat) (v : Nat) :
    deep (writeObject s g va size v) = deep s := by grind [writeObject]
grind_pattern writeObject_deep => writeObject s g va size v
/-! ## Control -/

theorem frameTarget_deep (s : State) (g : Group) (t : Thread) (k : Nat) (acc : Acc) :
    deep (frameTarget s g t k acc).1 = deep s := by grind [frameTarget]
grind_pattern frameTarget_deep => frameTarget s g t k acc
theorem frameWord_deep (s : State) (g : Group) (t : Thread) (k : Nat) : deep (frameWord s g t k).1 = deep s := by grind [frameWord]
grind_pattern frameWord_deep => frameWord s g t k
theorem frameTargets_deep (s : State) (g : Group) (t : Thread) (a3 : List Nat) : deep (frameTargets s g t a3).1 = deep s := by
  fun_induction frameTargets <;> grind
grind_pattern frameTargets_deep => frameTargets s g t a3

/-! ## What is kept, piece by piece -/

section
variable {s s' : State}

theorem frames_of_deep (h : deep s' = deep s) (d : Nat) : (dieOf s' d).frames = (dieOf s d).frames :=
  congrArg (fun k => (k.1 d).frames) h

theorem openFrameOf_of_deep (h : deep s' = deep s) (d p : Nat) : openFrameOf s' d p = openFrameOf s d p := by
  rw [openFrameOf, frames_of_deep h]
  rfl

end

end Sys2Proof.Machine
end

section
/-! SUPPORT. The operations of the front end complete (R344, R345, R351, R354): binning, sample records, hand-off. -/
namespace Sys2Proof.Machine
open Sys2Proof.Claims Sys2Proof.Laws

/-! ## Threads of a group, each changed by a function of its own -/

/-- The threads ks of a group are what F makes of them; nothing else of the device changed. -/
structure Regrouped (s s' : State) (gk : Nat) (ks : List Nat) (F : Nat → Thread → Thread) : Prop where
  member : ∀ k ∈ ks, threadAt s' (gk, k) = (threadAt s (gk, k)).map (F k)
  other : ∀ n, n.1 ≠ gk ∨ n.2 ∉ ks → threadAt s' n = threadAt s n
  group : ∀ j g, groupOf s j = some g → ∃ ts, groupOf s' j = some { g with threads := ts }
  frame : s' = { s with groups := s'.groups }

theorem regrouped_modThread {s : State} {gk k : Nat} {f : Thread → Thread} (hf : ∀ t, (f t).idx = t.idx) :
    Regrouped s (modThread s gk k f) gk [k] fun _ => f := by
  have hi : ∀ t : Thread, t.idx = k → (f t).idx = k := fun t h => (hf t).trans h
  refine ⟨fun j hj => ?_, fun n hn => ?_, fun j g hg => ?_, rfl⟩
  · rw [List.mem_singleton.mp hj]
    exact threadAt_modThread (m := (gk, k)) hi
  · refine threadAt_modThread_other (m := (gk, k)) hi fun h => ?_
    rcases hn with hn | hn <;> simp [h] at hn
  · by_cases hj : j = gk
    · subst hj
      exact ⟨_, by rw [groupOf_modThread, hg, Option.map_some]; rfl⟩
    · exact ⟨g.threads, by rw [groupOf_modThread_other _ _ hj, hg]⟩

theorem Regrouped.nil (s : State) (gk : Nat) (F : Nat → Thread → Thread) : Regrouped s s gk [] F :=
  ⟨by simp, fun _ _ => rfl, fun _ g hg => ⟨g.threads, hg⟩, rfl⟩

theorem Regrouped.group_run {s s' : State} {gk j : Nat} {ks : List Nat} {F : Nat → Thread → Thread} (h : Regrouped s s' gk ks F)
    (hg : ∃ g, groupOf s j = some g ∧ g.run ≠ .preempted) : ∃ g, groupOf s' j = some g ∧ g.run ≠ .preempted := by
  obtain ⟨g, hg, hr⟩ := hg
  obtain ⟨ts, hg'⟩ := h.group j g hg
  exact ⟨_, hg', hr⟩

theorem frame_trans {s s1 s2 : State} (h1 : s1 = { s with groups := s1.groups }) (h2 : s2 = { s1 with groups := s2.groups }) :
    s2 = { s with groups := s2.groups } := by
  rw [h1] at h2
  exact h2

theorem frame_dropOp {s s1 s2 : State} {id : Nat} (h1 : s1 = { s with groups := s1.groups })
    (h2 : s2 = { dropOp s1 id with groups := s2.groups }) : s2 = { s with groups := s2.groups, ops := s2.ops } := by
  cases s
  cases s1
  cases s2
  simp only [State.mk.injEq, dropOp, true_and] at h1 h2 ⊢
  simp_all

/-- Of the threads k :: ks the first is changed, then the others. -/
theorem Regrouped.cons {s s1 s2 : State} {gk k : Nat} {ks : List Nat} {F : Nat → Thread → Thread} (hk : k ∉ ks)
    (h1 : Regrouped s s1 gk [k] fun _ => F k) (h2 : Regrouped s1 s2 gk ks F) : Regrouped s s2 gk (k :: ks) F := by
  refine ⟨fun j hj => ?_, fun n hn => ?_, fun j g hg => ?_, frame_trans h1.frame h2.frame⟩
  · rcases List.mem_cons.mp hj with rfl | hj
    · rw [h2.other (gk, j) (.inr hk)]
      exact h1.member j (by simp)
    · rw [h2.member j hj]
      exact congrArg _ (h1.other (gk, j) (.inr fun h => hk (List.mem_singleton.mp h ▸ hj)))
  · rw [h2.other n (hn.imp_right fun h hm => h (List.mem_cons_of_mem _ hm)),
      h1.other n (hn.imp_right fun h hm => h (List.mem_singleton.mp hm ▸ List.mem_cons_self))]
  · obtain ⟨ts, hg1⟩ := h1.group j g hg
    have hg2 := h2.group j _ hg1
    exact hg2

/-- The same threads are changed once more. -/
theorem Regrouped.trans {s s1 s2 : State} {gk : Nat} {ks : List Nat} {F G : Nat → Thread → Thread}
    (h1 : Regrouped s s1 gk ks F) (h2 : Regrouped s1 s2 gk ks G) : Regrouped s s2 gk ks fun k t => G k (F k t) := by
  refine ⟨fun k hk => ?_, fun n hn => ?_, fun j g hg => ?_, frame_trans h1.frame h2.frame⟩
  · rw [h2.member k hk, h1.member k hk, Option.map_map]
    rfl
  · rw [h2.other n hn, h1.other n hn]
  · obtain ⟨ts, hg1⟩ := h1.group j g hg
    have hg2 := h2.group j _ hg1
    exact hg2

/-- A step that changes one thread of a group on its core, taken for each of a list of threads. -/
theorem regrouped_foldl {gk : Nat} {ks : List Nat} {step : State → Nat → State} {F : Nat → Thread → Thread}
    (hstep : ∀ s k, (∃ g, groupOf s gk = some g ∧ g.run ≠ .preempted) → Regrouped s (step s k) gk [k] fun _ => F k)
    (hd : ks.Nodup) {s : State} (hg : ∃ g, groupOf s gk = some g ∧ g.run ≠ .preempted) :
    Regrouped s (ks.foldl step s) gk ks F := by
  induction ks generalizing s with
  | nil => exact .nil s gk F
  | cons k ks ih =>
    obtain ⟨hk, hd⟩ := List.nodup_cons.mp hd
    have h1 := hstep s k hg
    exact .cons hk h1 (ih hd (h1.group_run hg))

/-! ## Operations of several threads -/

theorem regrouped_retireOp {s : State} {o : Op} (hd : o.threads.Nodup) (hg : ∃ g, groupOf s o.gk = some g ∧ g.run ≠ .preempted) :
    Regrouped (dropOp s o.id) (retireOp s o) o.gk o.threads fun _ => credited o.cnt := by
  have hg' : ∃ g, groupOf (dropOp s o.id) o.gk = some g ∧ g.run ≠ .preempted := hg
  refine regrouped_foldl (fun s k hg => ?_) hd hg'
  obtain ⟨g, hg, hr⟩ := hg
  rw [creditCounter_resident hg hr]
  exact regrouped_modThread (credited_idx o.cnt)

/-- An operation whose threads were changed by F is retired. -/
theorem opDone_of {s1 s2 : State} {o : Op} {F : Nat → Thread → Thread} (hd : o.threads.Nodup)
    (hg : ∃ g, groupOf s1 o.gk = some g ∧ g.run ≠ .preempted) (h : Regrouped s1 s2 o.gk o.threads F) :
    OpDone s1 (retireOp s2 o) o F := by
  have hr := regrouped_retireOp (s := s2) hd (h.group_run hg)
  have hops : s2.ops = s1.ops := by rw [h.frame]
  have hfr := frame_dropOp h.frame hr.frame
  refine ⟨?_, fun k hk t ht => ?_, fun n hn => ?_, fun j g hg => ?_, hfr⟩
  · rw [hr.frame, ← hops]
    rfl
  · rw [hr.member k hk]
    have h1 := h.member k hk
    rw [ht] at h1
    exact congrArg (Option.map _) h1
  · exact (hr.other n hn).trans (h.other n hn)
  · obtain ⟨ts, hg1⟩ := h.group j g hg
    have hg2 := hr.group j _ hg1
    exact hg2

theorem Regrouped.congr {s s' : State} {gk : Nat} {ks : List Nat} {F G : Nat → Thread → Thread} (h : Regrouped s s' gk ks F)
    (hFG : ∀ k ∈ ks, F k = G k) : Regrouped s s' gk ks G :=
  ⟨fun k hk => hFG k hk ▸ h.member k hk, h.other, h.group, h.frame⟩

theorem Regrouped.refl (s : State) (gk : Nat) (ks : List Nat) : Regrouped s s gk ks fun _ t => t :=
  ⟨fun _ _ => Option.map_id'.symm, fun _ _ => rfl, fun _ g hg => ⟨g.threads, hg⟩, rfl⟩

/-! ## Binning (R344, R345) -/

/-- A fault of a group's operation waits for the first of its threads (R344). -/
def binFault (o : Op) (f : Option FaultInfo) (k : Nat) (t : Thread) : Thread :=
  match f with
  | some f => if o.threads.head? = some k then withDeferred o.cnt f t else t
  | none => t

def deferFirst (s : State) (o : Op) (f : Option FaultInfo) : State :=
  match f with
  | some f => deferFault s o.gk (o.threads.headD 0) o.cnt f
  | none => s

theorem regrouped_deferFirst {s : State} {o : Op} (hd : o.threads.Nodup) (hne : o.threads ≠ []) (f : Option FaultInfo) :
    Regrouped s (deferFirst s o f) o.gk o.threads (binFault o f) := by
  cases f with
  | none => exact .refl s o.gk o.threads
  | some f =>
    obtain ⟨k, ks, hk⟩ := List.exists_cons_of_ne_nil hne
    have hdef : deferFirst s o (some f) = modThread s o.gk k (withDeferred o.cnt f) := by
      rw [deferFirst, hk]
      rfl
    rw [hdef, hk]
    rw [hk] at hd
    obtain ⟨hnot, -⟩ := List.nodup_cons.mp hd
    refine (Regrouped.cons (F := fun j => if j = k then withDeferred o.cnt f else fun t => t) hnot ?_
      ((Regrouped.refl _ o.gk ks).congr fun j hj => ?_)).congr fun j _ => ?_
    · rw [if_pos rfl]
      exact regrouped_modThread fun _ => rfl
    · exact (if_neg fun h : j = k => hnot (h ▸ hj)).symm
    · funext t
      by_cases h : j = k
      · simp [binFault, hk, h]
      · simp [binFault, hk, h, Ne.symm h]

theorem writeBins_kept (f : Frame) (s : State) (r : Nat) (rs : List Nat) : kept (writeBins f s r rs).1 = kept s := hwWrite_kept ..

theorem writeBins_deep (f : Frame) (s : State) (r : Nat) (rs : List Nat) : deep (writeBins f s r rs).1 = deep s := hwWrite_deep ..

theorem binMeshlet_kept (s : State) (g : Group) (die base nv np : Nat) (key : BitVec 24) :
    kept (binMeshlet s g die base nv np key).1 = kept s := by
  unfold binMeshlet
  split
  · rfl
  · split
    · rfl
    · next f _ =>
      dsimp only
      have hw := writeBins_kept f s f.binsUsed (meshletRecords s f g.core base np key)
      split
      · rfl
      · split
        · next h => rw [h] at hw; exact hw
        · next h => rw [h] at hw; exact hw

/-- A meshlet that is not binned leaves its frame as it is. -/
theorem binMeshlet_failed {s : State} {g : Group} {die base nv np : Nat} {key : BitVec 24}
    (h : (binMeshlet s g die base nv np key).2 ≠ none) : deep (binMeshlet s g die base nv np key).1 = deep s := by
  unfold binMeshlet at h ⊢
  split at h
  · next hc => rw [if_pos hc]
  · next hc =>
    rw [if_neg hc]
    split at h
    · exact absurd rfl h
    · next f hf =>
      dsimp only at h ⊢
      have hw := writeBins_deep f s f.binsUsed (meshletRecords s f g.core base np key)
      split at h
      · next hc => rw [if_pos hc]
      · next hc =>
        rw [if_neg hc]
        split at h
        · next h1 => rw [h1] at hw; exact hw
        · exact absurd rfl h

theorem openFrameOf_modFrame {s : State} {die part : Nat} {f : Frame} (hd : ((dieOf s die).frames.map fun x => x.grid).Nodup)
    (hf : openFrameOf s die part = some f) {n : Nat} :
    openFrameOf (modFrame s die f.grid fun f => { f with binsUsed := f.binsUsed + n }) die part =
      some { f with binsUsed := f.binsUsed + n } := by
  unfold openFrameOf modFrame at *
  rw [dieOf_modDie]
  dsimp only
  generalize (dieOf s die).frames = l at hd hf ⊢
  induction l with
  | nil => simp at hf
  | cons x l ih =>
    obtain ⟨hx, hd⟩ := List.nodup_cons.mp hd
    rw [List.find?_cons] at hf
    unfold updFirst
    split at hf
    · next hp =>
      obtain rfl := Option.some.inj hf
      rw [if_pos (beq_self_eq_true _)]
      exact List.find?_cons_of_pos hp
    · next hp =>
      have hne : (x.grid == f.grid) = false :=
        beq_eq_false_iff_ne.mpr fun he => hx (List.mem_map.mpr ⟨f, List.mem_of_find?_eq_some hf, he.symm⟩)
      rw [hne]
      exact (List.find?_cons_of_neg (by rw [hp]; exact Bool.false_ne_true)).trans (ih hd hf)

/-- A meshlet that is binned has all of its records in the open frame. -/
theorem binMeshlet_done {s : State} {g : Group} {die base nv np : Nat} {key : BitVec 24} {f : Frame}
    (h : (binMeshlet s g die base nv np key).2 = none) (hf : openFrameOf s die g.record.part = some f)
    (hd : ((dieOf s die).frames.map fun x => x.grid).Nodup) :
    f.binsUsed + (meshletRecords s f g.core base np key).length ≤ binRoom f ∧
      openFrameOf (binMeshlet s g die base nv np key).1 die g.record.part =
        some { f with binsUsed := f.binsUsed + (meshletRecords s f g.core base np key).length } := by
  have hw := writeBins_deep f s f.binsUsed (meshletRecords s f g.core base np key)
  unfold binMeshlet at h ⊢
  rw [hf] at h ⊢
  dsimp only at h ⊢
  split at h
  · simp at h
  · next hc =>
    rw [if_neg hc]
    split at h
    · simp at h
    · next hroom =>
      rw [if_neg hroom]
      refine ⟨Nat.not_lt.mp hroom, ?_⟩
      split at h
      · simp at h
      · next h1 =>
        rw [h1] at hw
        exact openFrameOf_modFrame (by rw [frames_of_deep hw]; exact hd) (by rw [openFrameOf_of_deep hw]; exact hf)

/-- MESHLET_BINNING of the operation that is next of its partition (R344, R345). -/
theorem runs_meshletBinning {s : State} {id : Nat} {op : Op} {g : Group} {nv np base : Nat} {key : BitVec 24}
    (ho : GroupOutstanding s id op g) (hk : op.kind = .binning nv np key) (hb : g.meshBase = some base)
    (hnext : ((s.ops.takeWhile fun x => x.id != id).any fun x => submittedTo s (meshDie s g) g.record.part x) = false) :
    Runs (.meshletBinning id) s fun s' =>
      OpDone (modGroup (binMeshlet s g (meshDie s g) base nv np key).1 op.gk fun g => { g with meshBase := none }) s' op
        (binFault op (binMeshlet s g (meshDie s g) base nv np key).2) := by
  obtain ⟨hop, -, hg, hr, hd, hne⟩ := ho
  let r := binMeshlet s g (meshDie s g) base nv np key
  let s1 := modGroup r.1 op.gk fun g => { g with meshBase := none }
  refine ⟨retireOp (deferFirst s1 op r.2) op, ?_, opDone_of hd ?_ (regrouped_deferFirst hd hne r.2)⟩
  · show Host.Outcome.next _ = _
    rw [hop]
    dsimp only
    rw [hk, hg]
    dsimp only
    rw [hnext, hb]
    dsimp only [Bool.false_eq_true, if_false]
    rw [groupOf_gk hg]
    rfl
  · refine ⟨{ g with meshBase := none }, ?_, hr⟩
    rw [groupOf_modGroup (f := fun g => { g with meshBase := none }) fun _ => rfl, groupOf_of_kept (binMeshlet_kept ..), hg]
    rfl

/-! ## Sample records (R351) -/

/-- A store to a scratchpad leaves groups and operations when no thread waits for a sync word. -/
theorem combineOne_groups (z key : Word) (colour : DWord) (acc : State × Bool) (p : Nat × Nat) (hn : noSyncWaits acc.1) :
    (combineOne z key colour acc p).1.groups = acc.1.groups ∧ noSyncWaits (combineOne z key colour acc p).1 := by
  unfold combineOne
  dsimp only
  split
  · exact ⟨rfl, hn⟩
  · split
    · rw [scratchStore_noWaits hn]
      exact ⟨rfl, hn⟩
    · exact ⟨rfl, hn⟩

theorem combineAll_groups (z key : Word) (colour : DWord) (ps : List (Nat × Nat)) (acc : State × Bool) (hn : noSyncWaits acc.1) :
    (ps.foldl (combineOne z key colour) acc).1.groups = acc.1.groups := by
  induction ps generalizing acc with
  | nil => rfl
  | cons p ps ih =>
    obtain ⟨hg, hn'⟩ := combineOne_groups z key colour acc p hn
    exact (ih _ hn').trans hg

/-- One record of one buffer takes the lesser triple (R351). -/
theorem combineOne_clean {s : State} (hm : memoriesWf s = true) (hn : noSyncWaits s) {core place : Nat}
    (hp : scratchPoisoned s core place 16 = false) (z key : Word) (colour : DWord) (bad : Bool) :
    ∃ s1, combineOne z key colour (s, bad) (core, place) = (s1, bad) ∧
      if tripleLess z key colour (leNat (scratchRead s core place 16)) then
        ScratchStored s s1 core place (leBytes (z.toNat + 2 ^ 32 * key.toNat + 2 ^ 64 * colour.toNat) 16)
      else s1 = s := by
  unfold combineOne
  rw [if_neg (by rw [hp]; exact Bool.false_ne_true)]
  dsimp only
  by_cases hl : tripleLess z key colour (leNat (scratchRead s core place 16)) = true
  · rw [if_pos hl]
    exact ⟨_, rfl, by rw [if_pos hl]; exact scratchStored_of hm hn core place _⟩
  · rw [if_neg hl]
    exact ⟨_, rfl, by rw [if_neg hl]⟩

section
variable {s : State} {id tid : Nat} {op : Op} {g : Group} {z : Word} {colour : DWord} {done : List Nat} {bad : Bool}

/-- The tiles of a sample that have their slots by now and not its record (R351). -/
def placesNow (s : State) (g : Group) (tid : Nat) (done : List Nat) : List (Tile × Nat × Nat) :=
  (combinePlaces s g tid).2.filter fun t => t.1.assigned && !(done.contains t.1.q)

/-- The update of these records. -/
def combineNow (s : State) (g : Group) (tid : Nat) (z : Word) (colour : DWord) (done : List Nat) (bad : Bool) : State × Bool :=
  ((placesNow s g tid done).map fun t => t.2).foldl (combineOne z (combinePlaces s g tid).1 colour) (s, bad)

/-- What is left of a `tcomb` with a tile that has no slot. -/
def tcombLeft (s : State) (g : Group) (tid : Nat) (z : Word) (colour : DWord) (done : List Nat) (bad : Bool) : OpKind :=
  .tcomb z colour (done ++ (placesNow s g tid done).map fun t => t.1.q) (combineNow s g tid z colour done bad).2

theorem exec_tcombCompletion (ho : GroupOutstanding s id op g) (ht : op.threads = [tid]) (hk : op.kind = .tcomb z colour done bad)
    (hearly : ∀ x ∈ s.ops.takeWhile (fun x => x.id != id), x.gk ≠ op.gk ∨ x.threads ≠ [tid]) :
    exec (.tcombCompletion id) s = .next
      (if (combinePlaces s g tid).2.all fun t => t.1.assigned then
        retireOp (if (combineNow s g tid z colour done bad).2 then
          deferFault (combineNow s g tid z colour done bad).1 op.gk tid op.cnt { cls := fcPoison }
          else (combineNow s g tid z colour done bad).1) op
      else { (combineNow s g tid z colour done bad).1 with
        ops := updFirst (fun x => x.id == id) (fun x => { x with kind := tcombLeft s g tid z colour done bad })
          (combineNow s g tid z colour done bad).1.ops }) := by
  have hno : ∀ q : Op → Bool, ¬((s.ops.takeWhile fun x => x.id != id).any fun x =>
      x.gk == op.gk && x.threads == op.threads && q x) = true := by
    intro q
    rw [Bool.not_eq_true, List.any_eq_false]
    intro x hx
    rw [ht]
    rcases hearly x hx with h | h
    · simp [h]
    · simp [h]
  show Host.Outcome.next _ = _
  congr 1
  rw [ho.op]
  dsimp only
  rw [hk, ho.group]
  dsimp only
  rw [if_neg (hno _), ht]
  rfl

/-- A `tcomb` completes with the last of its records (R351). -/
theorem runs_tcombCompletion (ho : GroupOutstanding s id op g) (ht : op.threads = [tid]) (hk : op.kind = .tcomb z colour done bad)
    (hearly : ∀ x ∈ s.ops.takeWhile (fun x => x.id != id), x.gk ≠ op.gk ∨ x.threads ≠ [tid])
    (hall : ∀ t ∈ (combinePlaces s g tid).2, t.1.assigned = true)
    (hg : noSyncWaits s ∨ ∃ g1, groupOf (combineNow s g tid z colour done bad).1 op.gk = some g1 ∧ g1.run ≠ .preempted) :
    Runs (.tcombCompletion id) s fun s' => Completed (combineNow s g tid z colour done bad).1 s' op (op.gk, tid)
      (if (combineNow s g tid z colour done bad).2 then withDeferred op.cnt { cls := 17 } else fun t => t) := by
  refine ⟨_, exec_tcombCompletion ho ht hk hearly, ?_⟩
  have hg1 : ∃ g1, groupOf (combineNow s g tid z colour done bad).1 op.gk = some g1 ∧ g1.run ≠ .preempted := by
    rcases hg with hn | hg
    · exact ⟨g, (groupOf_congr (combineAll_groups _ _ _ _ _ hn) op.gk).trans ho.group, ho.resident⟩
    · exact hg
  obtain ⟨g1, hg1, hr⟩ := hg1
  rw [if_pos (List.all_eq_true.mpr hall)]
  have hid := modThread_id (combineNow s g tid z colour done bad).1 op.gk tid
  by_cases hb : (combineNow s g tid z colour done bad).2 = true
  · rw [if_pos hb, if_pos hb]
    exact completed_of ht hg1 hr fun _ => rfl
  · rw [if_neg hb, if_neg hb]
    have hc := completed_of (f := fun t => t) ht hg1 hr fun _ => rfl
    rw [hid] at hc
    exact hc

end

/-! ## Hand-off (R354) -/

/-- An output whose hand-off queue holds an operation no longer. -/
def forgetHandoff (id : Nat) (y : Output) : Output := { y with handoff := y.handoff.filter fun x => x.1 != id }

def forgetHandoffs (s : State) (id : Nat) : State := { s with outputs := s.outputs.map fun e => (e.1, forgetHandoff id e.2) }

theorem outOf_forgetHandoffs (s : State) (id o : Nat) : outOf (forgetHandoffs s id) o = forgetHandoff id (outOf s o) := by
  rcases tget_map (forgetHandoff id) ({} : Output) s.outputs o with h | ⟨h1, h2⟩
  · exact h
  · exact h1.trans (congrArg (forgetHandoff id) h2).symm

theorem mem_tset_self {α : Type} (t : Table α) (k : Nat) (v : α) : (k, v) ∈ tset t k v := by
  induction t with
  | nil => exact List.mem_singleton.mpr rfl
  | cons x t ih =>
    obtain ⟨i, w⟩ := x
    unfold tset
    split_ifs
    · exact List.mem_cons_self
    · exact List.mem_cons_self
    · exact List.mem_cons_of_mem _ ih

/-- No queue holds an operation that has not been handed off. -/
theorem handoff_of_none {s : State} {id : Nat} (h : handedOff s id = none) (e : Nat × Output) (he : e ∈ s.outputs) (x : Nat × Nat)
    (hx : x ∈ e.2.handoff) : x.1 ≠ id := by
  intro hid
  have hn := List.findSome?_eq_none_iff.mp h x (List.mem_flatMap.mpr ⟨e, he, hx⟩)
  simp [hid] at hn

theorem handoff_outOf_of_none {s : State} {id : Nat} (h : handedOff s id = none) (o : Nat) : ∀ x ∈ (outOf s o).handoff, x.1 ≠ id :=
  tget_mem o (fun y : Output => ∀ x ∈ y.handoff, x.1 ≠ id) (handoff_of_none h) (by simp)

theorem forgetHandoff_of_none {s : State} {id : Nat} (h : handedOff s id = none) (o : Nat) : forgetHandoff id (outOf s o) = outOf s o := by
  have hf : (outOf s o).handoff.filter (fun x => x.1 != id) = (outOf s o).handoff := by
    rw [List.filter_eq_self]
    intro x hx
    simpa using handoff_outOf_of_none h o x hx
  rw [forgetHandoff, hf]

/-- The operation joins a hand-off queue with its status. -/
def joinHandoff (s : State) (o id st : Nat) : State := modOut s o fun y => { y with handoff := y.handoff ++ [(id, st)] }

theorem handedOff_joinHandoff {s : State} {id : Nat} (h : handedOff s id = none) (o st : Nat) :
    handedOff (joinHandoff s o id st) id = some st := by
  have hmem : (id, st) ∈ (joinHandoff s o id st).outputs.flatMap fun e => e.2.handoff :=
    List.mem_flatMap.mpr ⟨_, mem_tset_self .., by simp⟩
  cases hf : handedOff (joinHandoff s o id st) id with
  | none => 
    have hn := List.findSome?_eq_none_iff.mp hf _ hmem
    simp at hn
  | some v =>
    obtain ⟨x, hx, hv⟩ := List.exists_of_findSome?_eq_some hf
    obtain ⟨e, he, hx⟩ := List.mem_flatMap.mp hx
    split at hv
    · next hid =>
      have hid : x.1 = id := by simpa using hid
      rcases mem_tset he with he | rfl
      · exact absurd hid (handoff_of_none h e he x hx)
      · rcases List.mem_append.mp hx with hx | hx
        · exact absurd hid (handoff_outOf_of_none h o x hx)
        · rw [List.mem_singleton.mp hx] at hv
          exact congrArg some (Option.some.inj hv).symm
    · simp at hv

theorem forgetHandoff_joinHandoff {s : State} {id : Nat} (h : handedOff s id = none) (o st j : Nat) :
    forgetHandoff id (outOf (joinHandoff s o id st) j) = outOf s j := by
  by_cases hj : j = o
  · subst hj
    have hq := congrArg Output.handoff (forgetHandoff_of_none h j)
    rw [joinHandoff, outOf_modOut, forgetHandoff, List.filter_append]
    simp only [forgetHandoff] at hq
    rw [hq]
    simp
  · rw [joinHandoff, outOf_modOut_other _ _ hj]
    exact forgetHandoff_of_none h j

/-- What the status of a hand-off makes of a thread (R354). -/
def withStatus (d pl st : Nat) (t : Thread) : Thread := putPred (withRegs d [BitVec.ofNat 32 st] t) (BitVec.ofNat 3 pl) (st != 0)

section
variable {s : State} {id : Nat} {op : Op} {g : Group} {d pl off : Nat}

theorem regrouped_status {o : Op} (he : o.early = []) {k : Nat} {s : State} (hg : ∃ g, groupOf s o.gk = some g ∧ g.run ≠ .preempted)
    (d pl st : Nat) :
    Regrouped s (replyPred (replyLast s o k [(d, BitVec.ofNat 32 st)]) o.gk k (BitVec.ofNat 3 pl) (st != 0)) o.gk [k]
      fun _ => withStatus d pl st := by
  obtain ⟨g, hg, hr⟩ := hg
  have h1 : replyLast s o k [(d, BitVec.ofNat 32 st)] = modThread s o.gk k (withRegs d [BitVec.ofNat 32 st]) := by
    unfold replyLast
    rw [hg, he]
    exact replyWords_resident hg hr [(d, BitVec.ofNat 32 st)]
  have hm : Regrouped s (modThread s o.gk k (withRegs d [BitVec.ofNat 32 st])) o.gk [k] fun _ => withRegs d [BitVec.ofNat 32 st] :=
    regrouped_modThread fun _ => rfl
  obtain ⟨g2, hg2, hr2⟩ := hm.group_run ⟨g, hg, hr⟩
  have h2 : replyPred (modThread s o.gk k (withRegs d [BitVec.ofNat 32 st])) o.gk k (BitVec.ofNat 3 pl) (st != 0) =
      modThread (modThread s o.gk k (withRegs d [BitVec.ofNat 32 st])) o.gk k fun t => putPred t (BitVec.ofNat 3 pl) (st != 0) := by
    unfold replyPred
    rw [hg2]
    exact if_neg (by simp [hr2])
  rw [h1, h2]
  exact hm.trans (regrouped_modThread fun _ => putPred_idx ..)

/-- A `tdone` whose entry has reached its queue completes with its status in every thread (R354). -/
theorem runs_tdoneCompletion {st : Nat} (ho : GroupOutstanding s id op g) (hk : op.kind = .tdone d pl off)
    (hs : handedOff (handOff id s) id = some st) (hg : groupOf (handOff id s) op.gk = some g) :
    Runs (.tdoneCompletion id) s fun s' => OpDone (forgetHandoffs (handOff id s) id) s' op fun _ => withStatus d pl st := by
  have hgr : ∃ g, groupOf (forgetHandoffs (handOff id s) id) op.gk = some g ∧ g.run ≠ .preempted := ⟨g, hg, ho.resident⟩
  refine ⟨_, ?_, opDone_of ho.distinct hgr (regrouped_foldl (fun s k hg => regrouped_status ho.early hg d pl st) ho.distinct hgr)⟩
  show Host.Outcome.next _ = _
  rw [ho.op]
  dsimp only
  rw [hk]
  dsimp only
  rw [hs]
  rfl

theorem writeHist_kept (s : State) (part : Nat) (world : Bool) (va : Nat) (bs : List Byte) (bad : Bool) :
    kept (writeHist s part world va bs bad) = kept s := by
  have hw := hwWrite_kept s part world va bs
  unfold writeHist
  split
  · next s1 e h =>
    rw [h] at hw
    exact (recordEvent_kept ..).trans hw
  · next s1 h =>
    rw [h] at hw
    split
    · exact hw
    · have ht := translateParts_kept s1 (hwCtx part world) .w (splitSectors va bs.length)
      split
      · next s2 ps h =>
        rw [h] at ht
        exact (foldl_kept fun s p => placePoison_kept ..).trans (ht.trans hw)
      · next s2 e h =>
        rw [h] at ht
        exact ht.trans hw

theorem copyTile_kept (s : State) (core off : Nat) (x : TileView) : kept (copyTile s core off x) = kept s := by
  unfold copyTile
  split
  · rfl
  · exact foldl_kept fun s r => writeHist_kept ..

/-- What the hand-off leaves in memory, before the entry is noted and queued (R354). -/
def handed (s : State) (st core off : Nat) (i : SampleInfo) (v : TileView) : State :=
  modFrame (if st = 0 then copyTile s core off v else s) i.die i.frame fun f => updTile f i.q fun t =>
    { t with accepted := t.accepted || st == 0, lateDone := t.lateDone || st == 1 }

theorem handed_kept (s : State) (st core off : Nat) (i : SampleInfo) (v : TileView) : kept (handed s st core off i v) = kept s := by
  show kept (if st = 0 then copyTile s core off v else s) = kept s
  split
  · exact copyTile_kept ..
  · rfl

theorem outputs_of_kept {s s' : State} (h : kept s' = kept s) : s'.outputs = s.outputs := congrArg (fun k => k.1.outputs) h

theorem handOff_now (ho : GroupOutstanding s id op g) (hk : op.kind = .tdone d pl off) (hn : handedOff s id = none) {i : SampleInfo}
    {v : TileView} (hi : g.gfx = .recon i) (hv : tileView s i = some v) :
    handOff id s = joinHandoff (handed s (tdoneStatus s v) op.core off i v) v.entry.panel id (tdoneStatus s v) := by
  have hh : handingOff s id = some (op, off, i, v) := by
    unfold handingOff
    rw [ho.op]
    dsimp only
    rw [hk, ho.group]
    dsimp only
    rw [hi]
    dsimp only
    rw [hv]
    rfl
  unfold handOff
  rw [hn, hh]
  rfl

theorem handOff_before {st : Nat} (h : handedOff s id = some st) : handOff id s = s := by
  unfold handOff
  rw [h]

theorem tdoneStatus_le (s : State) (v : TileView) : tdoneStatus s v ≤ 3 := by
  unfold tdoneStatus
  dsimp only
  (repeat' split) <;> omega

end

end Sys2Proof.Machine

open Sys2Proof Sys2Proof.Machine Sys2Proof.Claims

/-- Settles O46: a binning writes its records into the open frame or leaves every frame as it was; the operations of a group are retired
thread by thread; the entry of a tile leaves its hand-off queue as it found it. -/
theorem geometryOperationsComplete : Obligations.GeometryOperationsComplete := by
  unfold Obligations.GeometryOperationsComplete
  refine ⟨?_, ?_, ?_, ?_⟩
  · intro s id op g nv np base die key ho hk hb hdie hnext hd r
    subst hdie
    refine ⟨runs_meshletBinning ho hk hb hnext, fun hr => openFrameOf_of_deep (binMeshlet_failed hr) _ _, fun f hr hf => ?_⟩
    exact binMeshlet_done hr hf hd
  · intro s id op g tid z colour done bad ho ht hk hearly places now r
    refine ⟨fun hall hg => runs_tcombCompletion ho ht hk hearly hall hg, fun ⟨t, htp, hta⟩ => ?_⟩
    have hx := exec_tcombCompletion ho ht hk hearly
    rw [if_neg fun h => by simp [List.all_eq_true.mp h t htp] at hta] at hx
    exact hx
  · intro s core place z key colour bad hm hn hp old new
    exact combineOne_clean hm hn hp z key colour bad
  · intro s id op g d pl off ho hk completes
    refine ⟨fun st hst => ?_, fun x v hn hi hv => ?_⟩
    · have hb := handOff_before hst
      have hr := runs_tdoneCompletion ho hk (by rw [hb]; exact hst) (by rw [hb]; exact ho.group)
      rw [hb] at hr
      obtain ⟨s', hx, hd⟩ := hr
      exact ⟨s', hx, forgetHandoffs s id, rfl, fun o => outOf_forgetHandoffs s id o, hd⟩
    · intro st s1
      have hb := handOff_now ho hk hn hi hv
      have hke := handed_kept s st op.core off x v
      have hn1 : handedOff (handed s st op.core off x v) id = none := by
        rw [handedOff, outputs_of_kept hke]
        exact hn
      have hr := runs_tdoneCompletion ho hk (by rw [hb]; exact handedOff_joinHandoff hn1 ..)
        (by rw [hb]; exact (groupOf_of_kept hke op.gk).trans ho.group)
      rw [hb] at hr
      obtain ⟨s', hx, hd⟩ := hr
      refine ⟨fun h => ?_, tdoneStatus_le s v, s', hx, _, rfl, fun o => ?_, hd⟩
      · exact if_pos (by simpa using h)
      · rw [outOf_forgetHandoffs]
        refine (forgetHandoff_joinHandoff hn1 _ _ o).trans ?_
        rw [outOf, outputs_of_kept hke]
        rfl
end

section
/-! SUPPORT. Clauses are fetched and issued (R32 to R38, R62): the formation of an issue group, and what its threads become. -/
namespace Sys2Proof.Machine
open Sys2Proof.Claims

/-! ## Groups by age (R34) -/

section
variable {α : Type} {key : α → Nat}

/-- A list takes the keys it has not met before. -/
def keysFrom (key : α → Nat) (acc : List Nat) (ms : List α) : List Nat :=
  ms.foldl (fun acc m => if acc.contains (key m) then acc else acc ++ [key m]) acc

theorem keysFrom_cons_of_mem {acc : List Nat} {m : α} (h : key m ∈ acc) (ms : List α) : keysFrom key acc (m :: ms) = keysFrom key acc ms := by
  unfold keysFrom
  rw [List.foldl_cons, if_pos (List.contains_iff_mem.mpr h)]

theorem keysFrom_cons_of_not_mem {acc : List Nat} {m : α} (h : key m ∉ acc) (ms : List α) :
    keysFrom key acc (m :: ms) = keysFrom key (acc ++ [key m]) ms := by
  unfold keysFrom
  rw [List.foldl_cons, if_neg fun hc => h (List.contains_iff_mem.mp hc)]

theorem prefix_keysFrom (acc : List Nat) (ms : List α) : acc <+: keysFrom key acc ms := by
  induction ms generalizing acc with
  | nil => exact List.prefix_rfl
  | cons m ms ih =>
    by_cases h : key m ∈ acc
    · rw [keysFrom_cons_of_mem h]
      exact ih acc
    · rw [keysFrom_cons_of_not_mem h]
      exact (List.prefix_append acc [key m]).trans (ih _)

theorem mem_keysFrom (acc : List Nat) {ms : List α} {m : α} (hm : m ∈ ms) : key m ∈ keysFrom key acc ms := by
  induction ms generalizing acc with
  | nil => simp at hm
  | cons x ms ih =>
    by_cases h : key x ∈ acc
    · rw [keysFrom_cons_of_mem h]
      rcases List.mem_cons.mp hm with rfl | hm
      · exact (prefix_keysFrom acc ms).subset h
      · exact ih acc hm
    · rw [keysFrom_cons_of_not_mem h]
      rcases List.mem_cons.mp hm with rfl | hm
      · exact (prefix_keysFrom _ ms).subset (by simp)
      · exact ih _ hm

/-- What stands before a key that is among the first n is among them too. -/
theorem mem_take_of_prefix {acc l : List Nat} (hp : acc <+: l) {n k a : Nat} (hk : k ∈ l.take n) (hka : k ∉ acc) (ha : a ∈ acc) :
    a ∈ l.take n := by
  obtain ⟨t, rfl⟩ := hp
  rw [List.take_append] at hk ⊢
  have hlen : acc.length ≤ n := by
    by_contra hlt
    rw [Nat.sub_eq_zero_of_le (Nat.le_of_not_le hlt), List.take_zero, List.append_nil] at hk
    exact hka (List.mem_of_mem_take hk)
  rw [List.take_of_length_le hlen]
  exact List.mem_append_left _ ha

/-- Of a list in ascending age, each of the first n keys has an element that is no younger than any of another key. -/
theorem older_of_first {age : α → Nat} {acc : List Nat} {ms : List α} (hs : ms.Pairwise fun a b => age a ≤ age b) {n k : Nat} {y : α}
    (hk : k ∈ (keysFrom key acc ms).take n) (hka : k ∉ acc) (hy : y ∈ ms) (hyn : key y ∉ (keysFrom key acc ms).take n) :
    ∃ z ∈ ms, key z = k ∧ age z ≤ age y := by
  induction ms generalizing acc with
  | nil => simp at hy
  | cons m ms ih =>
    obtain ⟨hm, hs⟩ := List.pairwise_cons.mp hs
    by_cases h : key m ∈ acc
    · rw [keysFrom_cons_of_mem h] at hk hyn
      rcases List.mem_cons.mp hy with rfl | hy
      · exact absurd (mem_take_of_prefix (prefix_keysFrom acc ms) hk hka h) hyn
      · obtain ⟨z, hz, hzk⟩ := ih hs hk hka hy hyn
        exact ⟨z, List.mem_cons_of_mem _ hz, hzk⟩
    · rw [keysFrom_cons_of_not_mem h] at hk hyn
      by_cases hkm : k = key m
      · refine ⟨m, List.mem_cons_self, hkm.symm, ?_⟩
        rcases List.mem_cons.mp hy with rfl | hy
        · exact Nat.le_refl _
        · exact hm y hy
      · have hka' : k ∉ acc ++ [key m] := by simp [hka, hkm]
        rcases List.mem_cons.mp hy with rfl | hy
        · exact absurd (mem_take_of_prefix (prefix_keysFrom _ ms) hk hka' (by simp)) hyn
        · obtain ⟨z, hz, hzk⟩ := ih hs hk hka' hy hyn
          exact ⟨z, List.mem_cons_of_mem _ hz, hzk⟩

/-- The first of a list in ascending age that passes a test is no younger than any that passes it. -/
theorem find_oldest {age : α → Nat} {p : α → Bool} {ms : List α} (hs : ms.Pairwise fun a b => age a ≤ age b) {y : α} (hy : y ∈ ms)
    (hp : p y = true) : ∃ z, ms.find? p = some z ∧ age z ≤ age y := by
  induction ms with
  | nil => simp at hy
  | cons m ms ih =>
    obtain ⟨hm, hs⟩ := List.pairwise_cons.mp hs
    by_cases h : p m = true
    · refine ⟨m, List.find?_cons_of_pos h, ?_⟩
      rcases List.mem_cons.mp hy with rfl | hy
      · exact Nat.le_refl _
      · exact hm y hy
    · rcases List.mem_cons.mp hy with rfl | hy
      · exact absurd hp h
      · rw [List.find?_cons_of_neg h]
        exact ih hs hy
end

/-! ## Formation (R32, R34) -/

theorem laneNumber_eq (g : Group) (k : Nat) : laneNumber g k = laneOf g k := rfl

theorem firstGroups_eq (ms : List (Group × Thread)) : firstGroups ms = (keysFrom (fun m => m.1.gk) [] ms).take 4 := rfl

theorem mem_pickLanes {ms : List (Group × Thread)} {m : Group × Thread} (h : m ∈ pickLanes ms) : m ∈ ms ∧ m.1.gk ∈ firstGroups ms := by
  unfold pickLanes at h
  obtain ⟨l, -, hf⟩ := List.mem_filterMap.mp h
  obtain ⟨hm, hg⟩ := List.mem_filter.mp (List.mem_of_find?_eq_some hf)
  exact ⟨hm, List.contains_iff_mem.mp hg⟩

/-- Of a chosen group's threads on a lane the oldest is taken. -/
theorem pickLanes_oldest {ms : List (Group × Thread)} (hs : ms.Pairwise fun a b => a.2.age ≤ b.2.age) {y : Group × Thread} (hy : y ∈ ms)
    (hg : y.1.gk ∈ firstGroups ms) (hl : laneOf y.1 y.2.idx < 32) :
    ∃ z ∈ pickLanes ms, laneOf z.1 z.2.idx = laneOf y.1 y.2.idx ∧ z.2.age ≤ y.2.age := by
  obtain ⟨z, hz, ha⟩ := find_oldest (age := fun m => m.2.age) (p := fun m => laneOf m.1 m.2.idx == laneOf y.1 y.2.idx)
    (hs.filter fun m => (firstGroups ms).contains m.1.gk) (List.mem_filter.mpr ⟨hy, (List.contains_iff_mem (as := firstGroups ms)).mpr hg⟩)
    (beq_self_eq_true _)
  exact ⟨z, List.mem_filterMap.mpr ⟨_, List.mem_range.mpr hl, hz⟩, by simpa using List.find?_some hz, ha⟩

theorem pickLanes_lanes (ms : List (Group × Thread)) :
    (pickLanes ms).Pairwise fun x y => laneOf x.1 x.2.idx ≠ laneOf y.1 y.2.idx := by
  unfold pickLanes
  dsimp only
  rw [List.pairwise_filterMap]
  refine List.Pairwise.imp (fun {a b} hab x hx y hy => ?_) List.pairwise_lt_range
  have ha := List.find?_some hx
  have hb := List.find?_some hy
  simp only [beq_iff_eq] at ha hb
  omega

theorem pickLanes_formed {lead : Group × Thread} {l : List (Group × Thread)}
    (hs : (lead :: l).Pairwise fun a b => a.2.age ≤ b.2.age) (hl : laneOf lead.1 lead.2.idx < 32) :
    FormedFrom (lead :: l) lead (pickLanes (lead :: l)) := by
  have hold : ∀ y ∈ lead :: l, lead.2.age ≤ y.2.age := by
    intro y hy
    rcases List.mem_cons.mp hy with rfl | hy
    · exact Nat.le_refl _
    · exact (List.pairwise_cons.mp hs).1 y hy
  have hgl : lead.1.gk ∈ firstGroups (lead :: l) := by
    obtain ⟨t, ht⟩ := prefix_keysFrom (key := fun m : Group × Thread => m.1.gk) [lead.1.gk] l
    rw [firstGroups_eq, keysFrom_cons_of_not_mem (by simp), List.nil_append, ← ht]
    simp
  refine ⟨⟨?_, hold⟩, fun m hm => (mem_pickLanes hm).1, pickLanes_lanes _, firstGroups (lead :: l), ?_, fun m hm => (mem_pickLanes hm).2,
    fun y hy => ⟨pickLanes_oldest hs hy, fun hyn => ⟨?_, fun k hk => ?_⟩⟩⟩
  · refine List.mem_filterMap.mpr ⟨_, List.mem_range.mpr hl, ?_⟩
    rw [List.filter_cons_of_pos (p := fun m : Group × Thread => (firstGroups (lead :: l)).contains m.1.gk) (List.contains_iff_mem.mpr hgl)]
    exact List.find?_cons_of_pos (beq_self_eq_true _)
  · exact List.length_take_le ..
  · by_contra hlen
    refine hyn ?_
    rw [firstGroups_eq] at hlen ⊢
    rw [List.length_take] at hlen
    rw [List.take_of_length_le (by omega)]
    exact mem_keysFrom [] hy
  · exact older_of_first (age := fun m : Group × Thread => m.2.age) hs hk (by simp) hy hyn

/-- The name of a member of an issue group. -/
def nameOf (m : Group × Thread) : Nat × Nat := (m.1.gk, m.2.idx)

/-- Members on lanes that differ have names that differ. -/
theorem nodup_names {s : State} {ms : List (Group × Thread)} (hr : ∀ m ∈ ms, Resident s m)
    (hl : ms.Pairwise fun x y => laneOf x.1 x.2.idx ≠ laneOf y.1 y.2.idx) : (ms.map nameOf).Nodup := by
  refine List.pairwise_map.mpr (hl.imp_of_mem fun {a b} ha hb hab hn => hab ?_)
  obtain ⟨hgk, hidx⟩ := Prod.mk.inj hn
  have hg : a.1 = b.1 := by
    have h := (hr a ha).group
    rw [hgk, (hr b hb).group] at h
    exact (Option.some.inj h).symm
  rw [hg, hidx]

theorem threadAt_resident {s : State} {m : Group × Thread} (h : Resident s m) : threadAt s (nameOf m) = some m.2 := by
  rw [threadAt, nameOf, h.group]
  exact h.thread

/-! ## Threads of a list of members, each changed by a function of its own -/

/-- What becomes of a named thread: what F makes of it for the first member of that name. -/
def byName (F : Group × Thread → Thread → Thread) (ms : List (Group × Thread)) (n : Nat × Nat) (t : Thread) : Thread :=
  match ms.find? fun m => nameOf m == n with
  | some m => F m t
  | none => t

theorem byName_self {F : Group × Thread → Thread → Thread} {ms : List (Group × Thread)} (hd : (ms.map nameOf).Nodup) {m : Group × Thread}
    (hm : m ∈ ms) : byName F ms (nameOf m) = F m := by
  have hf : ms.find? (fun x => nameOf x == nameOf m) = some m := by
    induction ms with
    | nil => simp at hm
    | cons x ms ih =>
      obtain ⟨hx, hd⟩ := List.nodup_cons.mp hd
      rcases List.mem_cons.mp hm with rfl | hm
      · exact List.find?_cons_of_pos (beq_self_eq_true _)
      · rw [List.find?_cons_of_neg fun h => hx (by rw [beq_iff_eq.mp h]; exact List.mem_map_of_mem hm)]
        exact ih hd hm
  funext t
  rw [byName, hf]

theorem foldl_modThread {F : Group × Thread → Thread → Thread} (hidx : ∀ m t, (F m t).idx = t.idx) {ms : List (Group × Thread)}
    (hd : (ms.map nameOf).Nodup) (s : State) :
    Touched s (ms.foldl (fun s m => modThread s m.1.gk m.2.idx (F m)) s) (ms.map nameOf) (byName F ms) := by
  have hfold : ∀ (l : List (Group × Thread)) (s : State), (∀ m ∈ l, m ∈ ms) →
      l.foldl (fun s m => modThread s m.1.gk m.2.idx (F m)) s =
        (l.map nameOf).foldl (fun s m => modThread s m.1 m.2 (byName F ms m)) s := by
    intro l
    induction l with
    | nil => exact fun _ _ => rfl
    | cons m l ih =>
      intro s hl
      rw [List.foldl_cons, List.map_cons, List.foldl_cons, byName_self hd (hl m List.mem_cons_self)]
      exact ih _ fun x hx => hl x (List.mem_cons_of_mem _ hx)
  rw [hfold ms s fun _ h => h]
  refine modThread_foldl (fun n t => ?_) hd s
  unfold byName
  split
  · exact hidx _ t
  · rfl

/-! ## Fetch (R62, R64) -/

theorem freshOrStale_kept (s : State) (c : Ctx) (va : Nat) (e : ISector) : kept (freshOrStale s c va e).1 = kept s := by
  unfold freshOrStale
  dsimp only
  split <;> rfl

theorem fetchSector_kept (s : State) (c : Ctx) (va : Nat) : kept (fetchSector s c va).1 = kept s := by
  unfold fetchSector
  dsimp only
  split
  · next e _ =>
    split
    · exact keptFault_kept ..
    · exact freshOrStale_kept s c va e
  · have ht := translate_kept s c .x va
    split
    · next h => rw [h] at ht; exact ht
    · next s1 pa attr h =>
      rw [h] at ht
      have hp := placeRead_kept s1 c { va := va / 64 * 64, pa := pa / 64 * 64, len := 64, attr := attr }
      split
      · exact hp.trans ht
      · have hk : ∀ (s : State) (d : Nat) (e : ISector), kept (modCore s d fun k => { k with icache := keepSector k.icache e }) = kept s :=
          fun _ _ _ => modCore_kept (by simp only [storesOf_mk])
        exact (hk ..).trans (hp.trans ht)

theorem fetchClause_kept (s : State) (c : Ctx) (hdr : Nat) : kept (fetchClause s c hdr).1 = kept s := by
  have h1 := fetchSector_kept s c hdr
  unfold fetchClause
  split
  · rfl
  · split
    · next h => rw [h] at h1; exact h1
    · next s1 a h =>
      rw [h] at h1
      have h2 := fetchSector_kept s1 c (hdr / 64 * 64 + 64)
      dsimp only
      split
      · exact h1
      · split
        · next h => rw [h] at h2; exact h2.trans h1
        · next h => rw [h] at h2; exact h2.trans h1

/-- The threads of a subcore stand in ascending age. -/
theorem formed_of_threadsOn {s : State} {core sub : Nat} {p : Group → Thread → Bool} {lead : Group × Thread} {rest : List (Group × Thread)}
    (h : threadsOn s core sub p = lead :: rest) (hl : laneNumber lead.1 lead.2.idx < 32) (q : Group × Thread → Bool) :
    FormedFrom (lead :: rest.filter q) lead (pickLanes (lead :: rest.filter q)) := by
  have hs : (lead :: rest).Pairwise fun a b => a.2.age ≤ b.2.age := by
    rw [← h]
    exact sortBy_sorted (fun m : Group × Thread => m.2.age) _
  refine pickLanes_formed (hs.sublist ?_) hl
  exact List.Sublist.cons_cons lead List.filter_sublist

/-- The members of an issue group that a subcore's oldest ready thread leads stand at its place. -/
theorem place_of_mem {s : State} {lead : Group × Thread} {rest : List (Group × Thread)} {q : Group × Thread → Bool} {m : Group × Thread}
    (hm : m ∈ pickLanes (lead :: rest.filter fun m => samePlace s lead m && q m)) : m.2.pc = lead.2.pc ∧ m.2.hdr = lead.2.hdr := by
  rcases List.mem_cons.mp (mem_pickLanes hm).1 with rfl | h
  · exact ⟨rfl, rfl⟩
  · have hp := (List.mem_filter.mp h).2
    simp only [samePlace, Bool.and_eq_true, beq_iff_eq] at hp
    obtain ⟨⟨⟨hpc, hhdr⟩, -⟩, -⟩ := hp
    exact ⟨hpc.symm, hhdr.symm⟩

/-- What a fetched clause makes of a member. -/
def fetched (hw : Word) (ws : List Word) (m : Group × Thread) (t : Thread) : Thread :=
  match checkClause m.1.regCount m.2.inSup hw ws with
  | .ok xs => giveClause hw ws xs t
  | .error _ => t

theorem fetched_idx (hw : Word) (ws : List Word) (m : Group × Thread) (t : Thread) : (fetched hw ws m t).idx = t.idx := by
  unfold fetched giveClause
  dsimp only
  (repeat' split) <;> rfl

/-- A clause that every member may run is given to each (R62). -/
theorem fetchFor_ok {s : State} {core : Nat} {lead : Group × Thread} {ms : List (Group × Thread)} {hw : Word} {ws : List Word}
    (hf : (fetchClause s { ctxOf lead.1 lead.2 with core := core } lead.2.hdr.toNat).2 = .ok (hw, ws))
    (hc : ∀ m ∈ ms, ∃ xs, checkClause m.1.regCount m.2.inSup hw ws = .ok xs) :
    fetchFor s core lead ms = ms.foldl (fun s m => modThread s m.1.gk m.2.idx (fetched hw ws m))
      (fetchClause s { ctxOf lead.1 lead.2 with core := core } lead.2.hdr.toNat).1 := by
  have he : fetchClause s { ctxOf lead.1 lead.2 with core := core } lead.2.hdr.toNat =
      ((fetchClause s { ctxOf lead.1 lead.2 with core := core } lead.2.hdr.toNat).1, .ok (hw, ws)) := Prod.ext rfl hf
  unfold fetchFor
  dsimp only
  rw [he]
  dsimp only
  rw [List.filterMap_eq_nil_iff.mpr]
  · show List.foldl _ _ ms = _
    refine List.foldl_ext _ _ _ fun s m hm => ?_
    obtain ⟨xs, hx⟩ := hc m hm
    have hg : fetched hw ws m = giveClause hw ws xs := by
      funext t
      rw [fetched, hx]
    rw [hx, hg]
  · intro m hm
    obtain ⟨xs, hx⟩ := hc m hm
    rw [hx]

/-- The members of an issue group that have been fetched for (R62). -/
theorem fetchFor_threads {s : State} {core : Nat} {lead : Group × Thread} {ms : List (Group × Thread)} {hw : Word} {ws : List Word}
    (hf : (fetchClause s { ctxOf lead.1 lead.2 with core := core } lead.2.hdr.toNat).2 = .ok (hw, ws))
    (hc : ∀ m ∈ ms, Resident s m ∧ ∃ xs, checkClause m.1.regCount m.2.inSup hw ws = .ok xs) (hp : ∀ m ∈ ms, m.2.pc = m.2.hdr)
    (hl : ms.Pairwise fun x y => laneOf x.1 x.2.idx ≠ laneOf y.1 y.2.idx) :
    let s1 := (fetchClause s { ctxOf lead.1 lead.2 with core := core } lead.2.hdr.toNat).1
    Touched s1 (fetchFor s core lead ms) (ms.map nameOf) (byName (fetched hw ws) ms) ∧
      ∀ m ∈ ms, threadAt (fetchFor s core lead ms) (nameOf m) =
        some { m.2 with clause := some (hw, ws), status := if hw.getLsbD 18 then .held else .ready } := by
  intro s1
  have hd := nodup_names (fun m hm => (hc m hm).1) hl
  have ht : Touched s1 (fetchFor s core lead ms) (ms.map nameOf) (byName (fetched hw ws) ms) := by
    rw [fetchFor_ok hf fun m hm => (hc m hm).2]
    exact foldl_modThread (fetched_idx hw ws) hd s1
  refine ⟨ht, fun m hm => ?_⟩
  obtain ⟨hr, xs, hx⟩ := hc m hm
  rw [ht.member _ (List.mem_map_of_mem hm), byName_self hd hm, threadAt_of_kept (fetchClause_kept ..), threadAt_resident hr,
    Option.map_some, fetched, hx]
  dsimp only
  rw [giveClause, if_pos (hp m hm)]

/-! ## Issue (R32 to R35) -/

theorem takeDeferred_none {s : State} {lead : Group × Thread} {ms : List (Group × Thread)} (h : ∀ m ∈ ms, m.2.deferred = []) :
    takeDeferred s lead ms = none := by
  unfold takeDeferred
  rw [List.filterMap_eq_nil_iff.mpr]
  · rfl
  · intro m hm
    rw [deferredOf, h m hm]
    rfl

/-- What starting makes of a member (R66, R68). -/
def started (m : Group × Thread) (t : Thread) : Thread :=
  if t.pc = t.hdr then { t with status := .issuing, l0 := 0, l1 := 0 }
  else
    let xs := slotsOf m.1 m.2
    let f := (resumeAt xs t.hdr t.pc).getD 0
    { t with status := .issuing, l0 := reload xs t f 1, l1 := reload xs t f 2 }

theorem started_idx (m : Group × Thread) (t : Thread) : (started m t).idx = t.idx := by
  unfold started
  dsimp only
  split <;> rfl

/-- Threads at their clause's header start an issue group at its first word. -/
theorem startIssue_head {s : State} {core : Nat} {rcv : Bool} {hw : Word} {ws : List Word} {lead : Group × Thread}
    {ms : List (Group × Thread)} (hlead : lead.2.pc = lead.2.hdr) (hr : ∀ m ∈ ms, Resident s m) (hp : ∀ m ∈ ms, m.2.pc = m.2.hdr)
    (hd : (ms.map nameOf).Nodup) :
    (startIssue s core rcv (hw, ws) lead ms).issues =
      s.issues ++ [{ core := core, members := ms.map nameOf, hdr := lead.2.hdr, words := ws, rcv := rcv }] ∧
    (∀ m ∈ ms, threadAt (startIssue s core rcv (hw, ws) lead ms) (nameOf m) = some (starting m.2)) ∧
    ∀ n, n ∉ ms.map nameOf → threadAt (startIssue s core rcv (hw, ws) lead ms) n = threadAt s n := by
  have hmid : (lead.2.pc != lead.2.hdr) = false := by rw [hlead]; exact bne_self_eq_false _
  let s1 := if !(lead.2.pc != lead.2.hdr) && (List.range 6).any (waitMask hw) then acquireCore s core else s
  have hk1 : kept s1 = kept s := by
    show kept (if _ then _ else _) = _
    split
    · exact acquireCore_kept ..
    · rfl
  have ht : Touched s1 (ms.foldl startThread s1) (ms.map nameOf) (byName started ms) := foldl_modThread started_idx hd s1
  have hthr : ∀ n, threadAt (startIssue s core rcv (hw, ws) lead ms) n = threadAt (ms.foldl startThread s1) n := fun n =>
    threadAt_of_kept (countEvent_kept (ms.foldl startThread s1) core 1 1) n
  refine ⟨?_, fun m hm => ?_, fun n hn => ?_⟩
  · have hi : (ms.foldl startThread s1).issues = s.issues := by
      have h1 := issues_of_kept hk1
      rw [ht.frame]
      exact h1
    show (ms.foldl startThread s1).issues ++ _ = _
    rw [hi]
    simp only [hmid]
    rfl
  · rw [hthr, ht.member _ (List.mem_map_of_mem hm), byName_self hd hm, threadAt_of_kept hk1, threadAt_resident (hr m hm),
      Option.map_some, started, if_pos (hp m hm)]
    rfl
  · rw [hthr, ht.other n hn, threadAt_of_kept hk1]

section
variable {s : State} {core sub : Nat} {lead : Group × Thread} {rest : List (Group × Thread)} {hw : Word} {ws : List Word}

/-- The issue group that a subcore's oldest ready thread leads. -/
def issuing (s : State) (lead : Group × Thread) (rest : List (Group × Thread)) : List (Group × Thread) :=
  pickLanes (lead :: rest.filter fun m => samePlace s lead m && m.2.clause == lead.2.clause)

theorem mem_issuing {m : Group × Thread} (hm : m ∈ issuing s lead rest) : m ∈ lead :: rest := by
  rcases List.mem_cons.mp (mem_pickLanes hm).1 with rfl | h
  · exact List.mem_cons_self
  · exact List.mem_cons_of_mem _ (List.mem_filter.mp h).1

variable (hready : threadsOn s core sub (fun _ t => t.status == .ready && t.clause.isSome && waitOver t) = lead :: rest)
include hready

theorem exec_clauseIssue_waits (h : subcoreBusy s core sub = true ∨ olderOn s core [sub] lead.2.age = true) :
    exec (.clauseIssue core sub) s = .next s := by
  show Host.Outcome.next _ = _
  rw [hready]
  dsimp only
  split
  · rfl
  · next hc =>
    have ho := h.resolve_left fun hb => hc (by rw [hb, Bool.or_true])
    rw [if_pos ho]

theorem exec_clauseIssue (hmay : mayIssue s = true) (hdef : ∀ y ∈ lead :: rest, y.2.deferred = [])
    (hcl : lead.2.clause = some (hw, ws)) (hb : subcoreBusy s core sub = false) (ho : olderOn s core [sub] lead.2.age = false) :
    exec (.clauseIssue core sub) s = .next (startIssue s core false (hw, ws) lead (issuing s lead rest)) := by
  have hno := takeDeferred_none (s := s) (lead := lead) (ms := issuing s lead rest) fun m hm => hdef m (mem_issuing hm)
  show Host.Outcome.next _ = _
  rw [hready, hmay, hb]
  dsimp only
  rw [ho]
  show Host.Outcome.next (match takeDeferred s lead (issuing s lead rest) with
    | some s => s
    | none => startIssue s core false (lead.2.clause.getD (0, [])) lead (issuing s lead rest)) = _
  rw [hno, hcl]
  rfl

end

/-! ## Reconvergence (R37, R38) -/

theorem threadOf_mem {g : Group} (hd : (g.threads.map fun u => u.idx).Nodup) {u : Thread} (hu : u ∈ g.threads) :
    threadOf g u.idx = some u := by
  cases hf : threadOf g u.idx with
  | none => exact absurd (beq_self_eq_true u.idx) (List.find?_eq_none.mp hf u hu)
  | some t => exact congrArg some (List.inj_on_of_nodup_map hd (List.mem_of_find?_eq_some hf) hu (threadOf_idx hf))

section
variable {s : State} {gk : Nat} {g : Group} {t : Thread} {rest : List Thread} (hmay : mayIssue s = true) (hg : groupOf s gk = some g)
variable (hheld : allHeld g = true) (hlive : liveThreads g = t :: rest)
variable (hidle : ∀ u ∈ liveThreads g, subcoreBusy s g.core (subcoreOf g u.idx) = false)

/-- A held group whose subcores are at a clause boundary, as its reconvergence finds it. -/
def reconverge (s : State) (gk : Nat) (g : Group) (t : Thread) (rest : List Thread) : State :=
  let clause := ((liveThreads g).findSome? fun x => x.clause).getD (0, [])
  if rest.any fun x => x.pc != t.pc || x.hdr != t.hdr then
    takeFaults s { pc := t.hdr, index := 0, hdr := t.hdr, n := clause.2.length } [{ gk := gk, tid := t.idx, f := { cls := fcIllegalClause } }]
  else if (liveThreads g).all waitOver && !(olderOn s g.core ((liveThreads g).map fun x => subcoreOf g x.idx) (heldAge g)) then
    match takeDeferred s (g, t) ((liveThreads g).map fun x => (g, x)) with
    | some s => s
    | none => startIssue s g.core true clause (g, t) ((liveThreads g).map fun x => (g, x))
  else s

include hmay hg hheld hlive hidle

theorem exec_reconvergence : exec (.reconvergence gk) s = .next (reconverge s gk g t rest) := by
  have hb : ((liveThreads g).map fun x => subcoreOf g x.idx).any (subcoreBusy s g.core) = false := by
    rw [List.any_eq_false]
    intro k hk
    obtain ⟨u, hu, rfl⟩ := List.mem_map.mp hk
    rw [hidle u hu]
    exact Bool.false_ne_true
  show Host.Outcome.next _ = _
  rw [hg]
  dsimp only
  rw [hb, hheld, hmay]
  unfold reconverge
  rw [hlive]
  rfl

/-- Held at two places (R38). -/
theorem reconvergence_faults (h : ∃ u ∈ rest, u.pc ≠ t.pc ∨ u.hdr ≠ t.hdr) :
    ∃ n, exec (.reconvergence gk) s =
      .next (takeFaults s { pc := t.hdr, index := 0, hdr := t.hdr, n := n } [{ gk := gk, tid := t.idx, f := { cls := 2 } }]) := by
  obtain ⟨u, hu, hne⟩ := h
  refine ⟨_, (exec_reconvergence hmay hg hheld hlive hidle).trans (congrArg Host.Outcome.next (if_pos ?_))⟩
  rw [List.any_eq_true]
  exact ⟨u, hu, by simpa using hne⟩

variable {hw : Word} {ws : List Word}
variable (hplace : ∀ u ∈ liveThreads g, u.pc = t.hdr ∧ u.hdr = t.hdr ∧ waitOver u = true ∧ u.deferred = [] ∧ u.clause = some (hw, ws))
include hplace

/-- Held at one place: the group issues as one in its turn (R37). -/
theorem exec_reconvergence_one : exec (.reconvergence gk) s = .next
    (if olderOn s g.core ((liveThreads g).map fun x => subcoreOf g x.idx) (heldAge g) then s
    else startIssue s g.core true (hw, ws) (g, t) ((liveThreads g).map fun x => (g, x))) := by
  have ht : t ∈ liveThreads g := by rw [hlive]; exact List.mem_cons_self
  obtain ⟨hpc, hhdr, -, -, hcl⟩ := hplace t ht
  have hsame : ¬(rest.any fun x => x.pc != t.pc || x.hdr != t.hdr) = true := by
    rw [List.any_eq_true]
    rintro ⟨u, hu, hne⟩
    obtain ⟨hupc, huhdr, -⟩ := hplace u (by rw [hlive]; exact List.mem_cons_of_mem _ hu)
    rw [hupc, huhdr, hpc] at hne
    simp at hne
  have hover : (liveThreads g).all waitOver = true := List.all_eq_true.mpr fun u hu => by
    obtain ⟨-, -, hw, -⟩ := hplace u hu
    exact hw
  have hfirst : (liveThreads g).findSome? (fun x => x.clause) = some (hw, ws) := by
    rw [hlive, List.findSome?_cons, hcl]
  have hno : takeDeferred s (g, t) ((liveThreads g).map fun x => (g, x)) = none := takeDeferred_none fun m hm => by
    obtain ⟨u, hu, rfl⟩ := List.mem_map.mp hm
    obtain ⟨-, -, -, hdef, -⟩ := hplace u hu
    exact hdef
  rw [exec_reconvergence hmay hg hheld hlive hidle, reconverge, if_neg hsame, hover, hno, hfirst, Bool.true_and]
  cases olderOn s g.core ((liveThreads g).map fun x => subcoreOf g x.idx) (heldAge g) <;> rfl

end

end Sys2Proof.Machine

open Sys2Proof Sys2Proof.Machine Sys2Proof.Claims

/-- Settles O47: the first four groups of the threads at a place, by age, and the oldest of them on each lane form an issue group; members
have names of their own, so each is given its clause, or started, once. -/
theorem clausesAreFetchedAndIssued : Obligations.ClausesAreFetchedAndIssued := by
  unfold Obligations.ClausesAreFetchedAndIssued
  refine ⟨?_, ?_, ?_⟩
  · intro core sub s lead rest hgate hready hl
    let ms := pickLanes (lead :: rest.filter fun m => samePlace s lead m && m.2.inSup == lead.2.inSup)
    have hform := formed_of_threadsOn hready hl fun m => samePlace s lead m && m.2.inSup == lead.2.inSup
    have hx : exec (.clauseFetch core sub) s = .next (fetchFor s core lead ms) := by
      show Host.Outcome.next _ = _
      rw [if_neg (by rw [hgate]; exact Bool.false_ne_true), hready]
    refine ⟨ms, hform, fun x hf => ?_, fun hw ws hf hc hpc => ⟨_, hx, ?_⟩⟩
    · have he : fetchClause s { ctxOf lead.1 lead.2 with core := core } lead.2.hdr.toNat =
          ((fetchClause s { ctxOf lead.1 lead.2 with core := core } lead.2.hdr.toNat).1, .error x) := Prod.ext rfl hf
      rw [hx, fetchFor]
      dsimp only
      rw [he]
    · have hp : ∀ m ∈ ms, m.2.pc = m.2.hdr := fun m hm => by
        obtain ⟨h1, h2⟩ := place_of_mem hm
        rw [h1, h2, hpc]
      obtain ⟨⟨-, hother, hgroup, hframe⟩, hmem⟩ := fetchFor_threads hf hc hp hform.lanes
      exact ⟨hmem, hother, hgroup, hframe⟩
  · intro core sub s lead rest hw ws hmay hready hall hcl hpc hl
    refine ⟨exec_clauseIssue_waits hready, fun hb ho => ⟨_, exec_clauseIssue hready hmay (fun y hy => (hall y hy).2) hcl hb ho, ?_⟩⟩
    have hform := formed_of_threadsOn hready hl fun m => samePlace s lead m && m.2.clause == lead.2.clause
    have hr : ∀ m ∈ issuing s lead rest, Resident s m := fun m hm => (hall m (mem_issuing hm)).1
    have hp : ∀ m ∈ issuing s lead rest, m.2.pc = m.2.hdr := fun m hm => by
      obtain ⟨h1, h2⟩ := place_of_mem hm
      rw [h1, h2, hpc]
    obtain ⟨hi, hm, ho⟩ := startIssue_head (rcv := false) (core := core) (hw := hw) (ws := ws) hpc hr hp (nodup_names hr hform.lanes)
    exact ⟨_, hform, hi, hm, ho⟩
  · intro gk s g t rest hmay hg hheld hlive hd hidle
    refine ⟨?_, reconvergence_faults hmay hg hheld hlive hidle⟩
    intro hw ws hplace older
    have hx := exec_reconvergence_one hmay hg hheld hlive hidle hplace
    refine ⟨fun ho => hx.trans (congrArg Host.Outcome.next (if_pos ho)), fun ho => ?_⟩
    rw [if_neg (by rw [show olderOn s g.core _ _ = older from rfl, ho]; exact Bool.false_ne_true)] at hx
    obtain rfl := groupOf_gk hg
    have ht : t ∈ liveThreads g := by rw [hlive]; exact List.mem_cons_self
    obtain ⟨hpc, -⟩ := hplace t ht
    have hr : ∀ m ∈ (liveThreads g).map fun x => (g, x), Resident s m ∧ m.2.pc = m.2.hdr := fun m hm => by
      obtain ⟨u, hu, rfl⟩ := List.mem_map.mp hm
      obtain ⟨h1, h2, -⟩ := hplace u hu
      exact ⟨⟨hg, threadOf_mem hd (mem_liveThreads.mp hu).1⟩, h1.trans h2.symm⟩
    have hnames : ((liveThreads g).map fun x => (g, x)).map nameOf = (liveThreads g).map fun u => (g.gk, u.idx) := by
      rw [List.map_map]
      rfl
    have hdn : (((liveThreads g).map fun x => (g, x)).map nameOf).Nodup := by
      rw [hnames]
      have h := (hd.sublist ((List.filter_sublist (p := isLive) (l := g.threads)).map fun u => u.idx)).map (f := fun k => (g.gk, k))
        fun a b hab => (Prod.mk.inj hab).2
      rw [List.map_map] at h
      exact h
    obtain ⟨hi, hm, -⟩ := startIssue_head (rcv := true) (core := g.core) (hw := hw) (ws := ws) (lead := (g, t)) hpc
      (fun m hm => (hr m hm).1) (fun m hm => (hr m hm).2) hdn
    rw [hnames] at hi
    exact ⟨_, hx, hi, fun u hu => hm (g, u) (List.mem_map_of_mem hu)⟩
end

section
/-! SUPPORT. A state against `kill` (R414, R413): a fault record names a thread of a group that is marked failed and still resident, as a
failing group never is; the group fails no second time, and its run state stays. -/
namespace Sys2Proof.Machine.MarkedFailed
open Sys2Proof.Claims

def parked : Thread := { idx := 0, regs := [], winHi := 0, pc := 0, hdr := 0, status := .parked (some 0) }
def group : Group := { gk := 0, grid := 0, gid := 0, record := {}, kd := {}, core := 0, threads := [parked], failed := true }
def record : FaultRec := { seq := some 0, words := [], members := [(0, 0)], firsts := [(0, 0, 0)] }
def state : State := { State.reset with groups := [group], partitions := [(0, { parked := [record] })], booted := true }

/-- Run state of group 0 in what a command answers. -/
def runAfter (r : Res) : Option GroupRun :=
  match r with
  | .next s => (groupOf s 0).map fun g => g.run
  | _ => none

theorem kill_leaves_resident : runAfter (exec (.kill 0 0) state) = some .resident := by decide +kernel

theorem mem_parkedUnder : (0, 0) ∈ parkedUnder state 0 0 := by decide +kernel

theorem named : ∀ r ∈ (partOf state 0).parked, ∀ m ∈ r.members, ∃ e ∈ r.firsts, e.1 = m.1 := by decide +kernel

end Sys2Proof.Machine.MarkedFailed

open Sys2Proof Sys2Proof.Machine Sys2Proof.Claims

/-- Refutes O48: nothing in the statement says that a group marked failed has exited, and `kill` leaves one that has not as it is
(`MarkedFailed.state`). -/
theorem not_faultRecordsAndReplay : ¬ Obligations.FaultRecordsAndReplay := by
  intro h
  obtain ⟨s', hx, hk, -⟩ := (h.2 0 0 MarkedFailed.state ⟨rfl, rfl, by decide⟩).2 MarkedFailed.named
  obtain ⟨g, hg, -, hr⟩ := hk (0, 0) MarkedFailed.mem_parkedUnder
  have hrun := MarkedFailed.kill_leaves_resident
  rw [hx, MarkedFailed.runAfter, hg, Option.map_some, hr] at hrun
  exact absurd hrun (by decide)
end

section
/-! SUPPORT. Records enter decks and leave them (R283, R284, R294, R295): the cluster of an enqueue, the oldest eligible record. -/
namespace Sys2Proof.Machine
open Sys2Proof.Claims

/-! ## The best of a list -/

section
variable {α : Type} {r : α → α → Prop} [DecidableRel r]

/-- The preferred of the best so far and the next one. -/
def preferred (r : α → α → Prop) [DecidableRel r] (b : Option α) (g : α) : Option α :=
  match b with
  | none => some g
  | some x => if r g x then some g else some x

theorem preferred_eq (b : Option α) (g : α) : preferred r b g = some g ∨ (preferred r b g = b ∧ b ≠ none) := by
  cases b with
  | none => exact .inl rfl
  | some x =>
    unfold preferred
    dsimp only
    split
    · exact .inl rfl
    · exact .inr ⟨rfl, by simp⟩

omit [DecidableRel r] in
/-- What is chosen from a list is one of it. -/
theorem mem_of_chosen {f : Option α → α → Option α} (hf : ∀ b g, f b g = some g ∨ f b g = b) {c : α} {l : List α} {b : Option α}
    (h : l.foldl f b = some c) : c ∈ l ∨ b = some c := by
  induction l generalizing b with
  | nil => exact .inr h
  | cons g l ih =>
    rcases ih h with hc | hc
    · exact .inl (List.mem_cons_of_mem _ hc)
    · rcases hf b g with he | he
      · rw [he] at hc
        rw [← Option.some.inj hc]
        exact .inl List.mem_cons_self
      · rw [he] at hc
        exact .inr hc

/-- The best of a list is one of it. -/
theorem mem_of_best {c : α} {l : List α} {b : Option α} (h : l.foldl (preferred r) b = some c) : c ∈ l ∨ b = some c :=
  mem_of_chosen (fun b g => (preferred_eq b g).imp_right And.left) h

/-- A list without a best is empty. -/
theorem nil_of_best_none {l : List α} {b : Option α} (h : l.foldl (preferred r) b = none) : l = [] := by
  induction l generalizing b with
  | nil => rfl
  | cons g l ih =>
    rw [List.foldl_cons] at h
    obtain rfl := ih h
    rcases preferred_eq (r := r) b g with he | ⟨he, hne⟩
    · rw [List.foldl_nil, he] at h
      cases h
    · rw [List.foldl_nil, he] at h
      exact absurd h hne

/-- The best of a list by a measure has the least one. -/
theorem le_of_best {key : α → Nat} {c : α} {l : List α} {b : Option α}
    (h : l.foldl (preferred fun x y => key x < key y) b = some c) : ∀ d, d ∈ l ∨ b = some d → key c ≤ key d := by
  induction l generalizing b with
  | nil =>
    intro d hd
    obtain rfl : b = some c := h
    rw [Option.some.inj (hd.resolve_left (by simp))]
  | cons g l ih =>
    have hmin := ih h
    intro d hd
    have hbest : ∃ x, preferred (fun x y => key x < key y) b g = some x ∧ key x ≤ key g ∧ ∀ y, b = some y → key x ≤ key y := by
      cases b with
      | none => exact ⟨g, rfl, Nat.le_refl _, by simp⟩
      | some y =>
        unfold preferred
        dsimp only
        split
        · next hlt => exact ⟨g, rfl, Nat.le_refl _, fun z hz => by rw [← Option.some.inj hz]; exact hlt.le⟩
        · next hlt => exact ⟨y, rfl, Nat.not_lt.mp hlt, fun z hz => by rw [← Option.some.inj hz]⟩
    obtain ⟨x, hx, hxg, hxb⟩ := hbest
    have hcx := hmin x (.inr hx)
    rcases hd with hd | hd
    · rcases List.mem_cons.mp hd with rfl | hd
      · exact hcx.trans hxg
      · exact hmin d (.inl hd)
    · exact hcx.trans (hxb d hd)
end

/-! ## Enqueue (R283, R284) -/

theorem hostBlocked_of_open {s : State} (h : hostOpen s) : hostBlocked s = false := by
  obtain ⟨hf, hb, hm⟩ := h
  simp [hostBlocked, firmwareStopped, linkDown, hf, hb, hm]

theorem eventFree_given (s : State) (part code arg0 : Nat) : EventGiven s (eventFree s part code arg0) part code arg0 := ⟨_, _, rfl⟩

theorem enqueueCluster_zero (s : State) (part cls : Nat) :
    enqueueCluster s part 0 cls = ((partClusters s part).filter fun g => !(gated s g)).foldl
      (preferred fun x y => (deckOf s x cls).length < (deckOf s y cls).length) none := by
  unfold enqueueCluster
  dsimp only
  rw [if_pos rfl]
  congr 1
  funext b g
  cases b <;> rfl

/-- An enqueue at offset 0 goes to an open cluster whose deck is the shortest (R283). -/
theorem enqueueCluster_shortest {s : State} {part cls c : Nat} (h : enqueueCluster s part 0 cls = some c) :
    c ∈ partClusters s part ∧ gated s c = false ∧
      ∀ d ∈ partClusters s part, gated s d = false → (deckOf s c cls).length ≤ (deckOf s d cls).length := by
  rw [enqueueCluster_zero] at h
  have hmin := le_of_best h
  obtain ⟨hp, hg⟩ := List.mem_filter.mp ((mem_of_best h).resolve_right (by simp))
  exact ⟨hp, by simpa using hg, fun d hd hdg => hmin d (.inl (List.mem_filter.mpr ⟨hd, by rw [hdg]; rfl⟩))⟩

theorem length_recordBytes {words : List DWord} (h : words.length = 8) : (words.flatMap fun w => leBytes w.toNat 8).length = 64 := by
  rw [List.length_flatMap]
  simp only [length_leBytes, List.map_const', List.sum_replicate, h]
  rfl

section
variable {s : State} {part : Nat} {words : List DWord} (ho : hostOpen s) (hp : part < 8) (hw : words.length = 8)
include ho hp

theorem exec_hostEnqueue (off : Nat) :
    exec (.hostEnqueue part off words) s = .next (enqueueBytes s part off (words.flatMap fun w => leBytes w.toNat 8)) := by
  refine congrArg Host.Outcome.next (if_neg ?_)
  rw [hostBlocked_of_open ho]
  simpa using hp

theorem exec_hostEnqueue_invalid (hv : recordValid (parseRecord (leNat (words.flatMap fun w => leBytes w.toNat 8))) part = false)
    (off : Nat) : exec (.hostEnqueue part off words) s = .next (eventFree s part 1 off) := by
  rw [exec_hostEnqueue ho hp]
  refine congrArg Host.Outcome.next (if_pos ?_)
  rw [hv]
  simp

include hw in
theorem exec_hostEnqueue_valid (hctl : (partOf s part).pctl.getLsbD 0 = true)
    (hv : recordValid (parseRecord (leNat (words.flatMap fun w => leBytes w.toNat 8))) part = true) {c : Nat}
    (hc : enqueueCluster s part 0 (parseRecord (leNat (words.flatMap fun w => leBytes w.toNat 8))).cls = some c) :
    let r := parseRecord (leNat (words.flatMap fun w => leBytes w.toNat 8))
    exec (.hostEnqueue part 0 words) s = .next (if !r.det && landingLeft s part c r.cls == 0 then eventFree s part 1 0
      else acceptRecord (dropPartCode s part) { r with depth := 0 } 0 c true .none none) := by
  intro r
  rw [exec_hostEnqueue ho hp]
  refine congrArg Host.Outcome.next ((if_neg ?_).trans ?_)
  · rw [hctl, hv, length_recordBytes hw]
    simp
  · rw [hc]
end

/-! ## The oldest eligible record (R50, R294, R295) -/

theorem oldest_eq (l : List DeckEntry) : oldest l = l.foldl (preferred fun x y : DeckEntry => x.seq < y.seq) none := by
  unfold oldest
  congr 1
  funext b e
  cases b <;> rfl

theorem oldest_some {l : List DeckEntry} {e : DeckEntry} (h : oldest l = some e) : e ∈ l ∧ ∀ x ∈ l, e.seq ≤ x.seq := by
  rw [oldest_eq] at h
  exact ⟨(mem_of_best h).resolve_right (by simp), fun x hx => le_of_best h x (.inl hx)⟩

theorem oldest_none {l : List DeckEntry} (h : oldest l = none) : l = [] := by
  rw [oldest_eq] at h
  exact nil_of_best_none h

/-- A search through the classes 0 to 3 finds the first that gives something. -/
theorem findSome_class {α : Type} {f : Nat → Option α} {a : α} (h : [0, 1, 2, 3].findSome? f = some a) :
    ∃ cls, f cls = some a ∧ ∀ k < cls, f k = none := by
  simp only [List.findSome?_cons, List.findSome?_nil] at h
  split at h
  · next h0 => exact ⟨0, by rw [h0, h], by omega⟩
  · next h0 =>
    split at h
    · next h1 => exact ⟨1, by rw [h1, h], fun k hk => by obtain rfl : k = 0 := by omega
                                                         exact h0⟩
    · next h1 =>
      split at h
      · next h2 =>
        refine ⟨2, by rw [h2, h], fun k hk => ?_⟩
        interval_cases k
        · exact h0
        · exact h1
      · next h2 =>
        split at h
        · next h3 =>
          refine ⟨3, by rw [h3, h], fun k hk => ?_⟩
          interval_cases k
          · exact h0
          · exact h1
          · exact h2
        · cases h

/-- A core dispatches the oldest eligible record of the highest class (R50). -/
theorem ownPick_some {s : State} {core cls : Nat} {e : DeckEntry} (h : ownPick s core = some (cls, e)) :
    e ∈ deckOf s (core / 8) cls ∧ eligible s core (core / 8) e = true ∧
      (∀ x ∈ deckOf s (core / 8) cls, eligible s core (core / 8) x = true → e.seq ≤ x.seq) ∧
      ∀ k < cls, ∀ x ∈ deckOf s (core / 8) k, eligible s core (core / 8) x = false := by
  unfold ownPick at h
  dsimp only at h
  obtain ⟨c, hc, hbefore⟩ := findSome_class h
  obtain ⟨x, hx, he⟩ := Option.map_eq_some_iff.mp hc
  obtain ⟨rfl, rfl⟩ := Prod.mk.inj he
  obtain ⟨hm, hmin⟩ := oldest_some hx
  obtain ⟨hd, hel⟩ := List.mem_filter.mp hm
  refine ⟨hd, hel, fun y hy hye => hmin y (List.mem_filter.mpr ⟨hy, hye⟩), fun k hk y hy => ?_⟩
  have hnil := oldest_none (Option.map_eq_none_iff.mp (hbefore k hk))
  exact Bool.eq_false_iff.mpr (List.filter_eq_nil_iff.mp hnil y hy)

/-- A steal takes from another cluster a record that may leave it (R295). -/
theorem stealPick_some {s : State} {core c cls : Nat} {e : DeckEntry} (h : stealPick s core = some (c, cls, e)) :
    c ≠ core / 8 ∧ e.record.det = false ∧ e.record.pin = false := by
  unfold stealPick at h
  dsimp only at h
  obtain ⟨k, hk, -⟩ := findSome_class h
  obtain ⟨g', hg, hge⟩ := Option.bind_eq_some_iff.mp hk
  obtain ⟨x, hx, he⟩ := Option.map_eq_some_iff.mp hge
  obtain ⟨rfl, hce⟩ := Prod.mk.inj he
  obtain ⟨rfl, rfl⟩ := Prod.mk.inj hce
  obtain ⟨-, hf⟩ := List.mem_filter.mp (oldest_some hx).1
  have hm := mem_of_chosen (by
    intro b g
    cases b with
    | none => exact .inl rfl
    | some x =>
      dsimp only
      split
      · exact .inl rfl
      · exact .inr rfl) hg
  obtain ⟨ho, -⟩ := List.mem_filter.mp (hm.resolve_right (by simp))
  simp only [Bool.and_eq_true, Bool.not_eq_true'] at hf
  obtain ⟨⟨hdet, hpin⟩, -⟩ := hf
  refine ⟨show g' ≠ clusterOfCore core from ?_, hdet, hpin⟩
  split at ho
  · obtain ⟨-, hne⟩ := List.mem_filter.mp ho
    simpa using hne
  · simp at ho

/-! ## Dispatch, steals, refills (R294, R295, R284) -/

section
variable {s : State} {core : Nat}

theorem exec_groupDispatch_idle (h : testDue s core = true ∨ clocksGated s = true) : exec (.groupDispatch core) s = .next s :=
  congrArg Host.Outcome.next (if_pos (by rcases h with h | h <;> simp [h]))

theorem exec_steal_idle (h : testDue s core = true ∨ clocksGated s = true ∨ (ownPick s core).isSome = true) :
    exec (.steal core) s = .next s :=
  congrArg Host.Outcome.next (if_pos (by rcases h with h | h | h <;> simp [h]))

theorem exec_groupDispatch {cls : Nat} {e : DeckEntry} (ht : testDue s core = false) (hg : clocksGated s = false)
    (hp : ownPick s core = some (cls, e)) :
    exec (.groupDispatch core) s = .next (match roomFor s core cls e.record (parkedOf s e) with
      | none => s
      | some room => (dispatchEntry s core (core / 8) cls e room none).1) := by
  refine congrArg Host.Outcome.next ((if_neg (by simp [ht, hg])).trans ?_)
  rw [hp]
  dsimp only
  cases roomFor s core cls e.record (parkedOf s e) <;> rfl

theorem exec_groupDispatch_noRoom {cls : Nat} {e : DeckEntry} (hp : ownPick s core = some (cls, e))
    (hr : roomFor s core cls e.record (parkedOf s e) = none) : exec (.groupDispatch core) s = .next s := by
  by_cases h : testDue s core = true ∨ clocksGated s = true
  · exact exec_groupDispatch_idle h
  · simp only [not_or, Bool.not_eq_true] at h
    rw [exec_groupDispatch h.1 h.2 hp, hr]

theorem exec_steal {c cls : Nat} {e : DeckEntry} {room : Room} (ht : testDue s core = false) (hg : clocksGated s = false)
    (hi : residents s core = []) (hc : gated s (core / 8) = false) (ho : ownPick s core = none) (hp : stealPick s core = some (c, cls, e))
    (hr : roomFor s core cls e.record (parkedOf s e) = some room) :
    exec (.steal core) s = .next (countEvent (dispatchEntry s core c cls e room none).1 core 7 1) := by
  refine congrArg Host.Outcome.next ((if_neg ?_).trans ?_)
  · rw [hi, show gated s (clusterOfCore core) = false from hc, ht, hg, ho]
    simp
  · rw [hp]
    dsimp only
    rw [hr]

end

section
variable {s : State} {c cls part : Nat}

theorem exec_skidderRefill (ho : ownerOf s c = some part) (hg : clocksGated s = false) :
    let s0 := admitWaiting part c cls (waitingOf s c cls).length s
    exec (.skidderRefill c cls) s = .next (if (deckOf s0 c cls).length < Config.deckLow && !((landingOf s0 c cls).isEmpty) then
      let s1 := refillMany part c cls Config.deckRefill s0
      s1.dies.foldl (fun s d => d.2.frames.foldl (fun s f => launchAll d.1 f.grid s) s) s1
    else s0) := by
  intro s0
  show Host.Outcome.next _ = _
  rw [if_neg (by rw [hg]; exact Bool.false_ne_true), ho]

/-- Without a frame nothing of the rasteriser waits for the room. -/
theorem launches_none {s : State} (h : ∀ d ∈ s.dies, d.2.frames = []) :
    s.dies.foldl (fun s d => d.2.frames.foldl (fun s f => launchAll d.1 f.grid s) s) s = s := by
  have hfold : ∀ (l : List (Nat × Die)) (x : State), (∀ d ∈ l, d.2.frames = []) →
      l.foldl (fun s d => d.2.frames.foldl (fun s f => launchAll d.1 f.grid s) s) x = x := by
    intro l
    induction l with
    | nil => exact fun _ _ => rfl
    | cons d l ih =>
      intro x hl
      rw [List.foldl_cons, hl d List.mem_cons_self]
      exact ih x fun y hy => hl y (List.mem_cons_of_mem _ hy)
  exact hfold s.dies s h

end

end Sys2Proof.Machine

open Sys2Proof Sys2Proof.Machine Sys2Proof.Claims

/-- Settles O49: a fold that keeps the better of two finds the shortest deck and the oldest record; a class is searched only when those
above it give nothing. -/
theorem recordsAreQueuedAndDispatched : Obligations.RecordsAreQueuedAndDispatched := by
  unfold Obligations.RecordsAreQueuedAndDispatched
  refine ⟨?_, ?_, ?_⟩
  · intro part words s ho hp hw hctl r
    refine ⟨fun hv c hc => ⟨enqueueCluster_shortest hc, ?_, ?_⟩, fun hv off => ?_⟩
    · intro hl
      refine (exec_hostEnqueue_valid ho hp hw hctl hv hc).trans (congrArg Host.Outcome.next (if_neg ?_))
      rcases hl with hl | hl
      · rw [hl]
        simp
      · rw [beq_eq_false_iff_ne.mpr hl]
        simp
    · intro hdet hl
      refine ⟨_, (exec_hostEnqueue_valid ho hp hw hctl hv hc).trans (congrArg Host.Outcome.next (if_pos ?_)), eventFree_given ..⟩
      rw [hdet, hl]
      rfl
    · exact ⟨_, exec_hostEnqueue_invalid ho hp hv off, eventFree_given ..⟩
  · intro core s
    refine ⟨fun cls e => ownPick_some, fun h => ⟨exec_groupDispatch_idle h, exec_steal_idle (h.imp_right .inl)⟩, ?_, ?_, ?_, ?_⟩
    · intro cls e room ht hg hp hr
      rw [exec_groupDispatch ht hg hp, hr]
    · exact fun cls e hp hr => exec_groupDispatch_noRoom hp hr
    · exact fun h => exec_steal_idle (.inr (.inr h))
    · exact fun c cls e room ht hg hi hc ho hp hr => ⟨stealPick_some hp, exec_steal ht hg hi hc ho hp hr⟩
  · intro c cls part s ho hg s0
    have hx := exec_skidderRefill (cls := cls) ho hg
    refine ⟨fun hw => ?_, ?_, fun hlow => hx.trans (congrArg Host.Outcome.next (if_neg ?_))⟩
    · show admitWaiting part c cls (waitingOf s c cls).length s = s
      rw [hw]
      rfl
    · intro hlow hland s1 hf
      refine hx.trans (congrArg Host.Outcome.next ((if_pos ?_).trans (launches_none hf)))
      simp [s0] at hlow hland ⊢
      exact ⟨hlow, hland⟩
    · simp [s0] at hlow ⊢
      omega
end

section
/-! SUPPORT. What a die does for an invalidate command (R368): the cached translations and the lines of a core that go. -/
namespace Sys2Proof.Machine
open Sys2Proof.Claims

-- Each lemma here serves the next ones: elaborated in order, they keep no thread waiting.
set_option Elab.async false

/-! ## Below the L1s no core changes -/

theorem foldl_cores {α : Type} {f : State → α → State} {s : State} {l : List α} (hf : ∀ s x, (f s x).cores = s.cores) :
    (l.foldl f s).cores = s.cores := by
  induction l generalizing s with
  | nil => rfl
  | cons x l ih => exact ih.trans (hf s x)
grind_pattern foldl_cores => l.foldl f s

theorem foldl_cores_fst {α β : Type} {f : State × β → α → State × β} {s : State × β} {l : List α}
    (hf : ∀ (s : State × β) x, (f s x).1.cores = s.1.cores) : (l.foldl f s).1.cores = s.1.cores := by
  induction l generalizing s with
  | nil => rfl
  | cons x l ih => exact ih.trans (hf s x)
grind_pattern foldl_cores_fst => l.foldl f s

grind_pattern modDie_cores => modDie s d f
grind_pattern modPart_cores => modPart s p f
grind_pattern useFresh_cores => useFresh s n
theorem logHostWrite_cores (s : State) (part : Nat) (pa : Nat) : (logHostWrite s part pa).cores = s.cores := by grind [logHostWrite]
grind_pattern logHostWrite_cores => logHostWrite s part pa
theorem storeSector_cores (s : State) (part : Nat) (sec : Nat) (bs : List Byte) :
    (storeSector s part sec bs).cores = s.cores := by grind [storeSector]
grind_pattern storeSector_cores => storeSector s part sec bs
theorem storeSectors_cores (s : State) (part : Nat) (sec : Nat) (a3 : Nat) (a4 : List Byte) : (storeSectors s part sec a3 a4).cores = s.cores := by
  fun_induction storeSectors <;> grind
grind_pattern storeSectors_cores => storeSectors s part sec a3 a4
theorem markPoison_cores (s : State) (sec : Nat) (bad : Bool) : (markPoison s sec bad).cores = s.cores := by grind [markPoison]
grind_pattern markPoison_cores => markPoison s sec bad
theorem countError_cores (s : State) (die : Nat) (k : Nat) : (countError s die k).cores = s.cores := by grind [countError]
grind_pattern countError_cores => countError s die k
theorem poisonLine_cores (s : State) (line : Nat) : (poisonLine s line).cores = s.cores := by grind [poisonLine]
grind_pattern poisonLine_cores => poisonLine s line
theorem checkLine_cores (s : State) (part : Nat) (line : Nat) : (checkLine s part line).cores = s.cores := by grind [checkLine]
grind_pattern checkLine_cores => checkLine s part line
theorem sectorBytes_cores (s : State) (part : Nat) (sec : Nat) : (sectorBytes s part sec).1.cores = s.cores := by grind [sectorBytes]
grind_pattern sectorBytes_cores => sectorBytes s part sec
theorem expandLine_cores (s : State) (part : Nat) (line : Nat) : (expandLine s part line).cores = s.cores := by grind [expandLine]
grind_pattern expandLine_cores => expandLine s part line
theorem putSector_cores (s : State) (part : Nat) (sec : Nat) (bs : List Byte) (bad : Bool) :
    (putSector s part sec bs bad).cores = s.cores := by grind [putSector]
grind_pattern putSector_cores => putSector s part sec bs bad
theorem packLine_cores (s : State) (part : Nat) (line : Nat) : (packLine s part line).cores = s.cores := by
  simp only [packLine]
  (repeat' split) <;> grind
grind_pattern packLine_cores => packLine s part line
theorem directWrite_cores (s : State) (part : Nat) (pa : Nat) (bs : List Byte) : (directWrite s part pa bs).cores = s.cores := by grind [directWrite]
grind_pattern directWrite_cores => directWrite s part pa bs
theorem directRead_cores (s : State) (part : Nat) (pa : Nat) (n : Nat) : (directRead s part pa n).1.cores = s.cores := by grind [directRead]
grind_pattern directRead_cores => directRead s part pa n
theorem deviceStore_cores (s : State) (part : Nat) (pa : Nat) (bs : List Byte) : (deviceStore s part pa bs).cores = s.cores := by grind [deviceStore]
grind_pattern deviceStore_cores => deviceStore s part pa bs
theorem deviceLoad_cores (s : State) (part : Nat) (pa : Nat) (n : Nat) : (deviceLoad s part pa n).1.cores = s.cores := by grind [deviceLoad]
grind_pattern deviceLoad_cores => deviceLoad s part pa n
theorem l2Put_cores (s : State) (die : Nat) (l : L2Line) : (l2Put s die l).cores = s.cores := by grind [l2Put]
grind_pattern l2Put_cores => l2Put s die l
theorem flushSector_cores (s : State) (l : L2Line) (e : Nat × L2Sector) : (flushSector s l e).cores = s.cores := by grind [flushSector]
grind_pattern flushSector_cores => flushSector s l e
theorem l2WriteBack_cores (s : State) (die : Nat) (line : Nat) : (l2WriteBack s die line).cores = s.cores := by grind [l2WriteBack]
grind_pattern l2WriteBack_cores => l2WriteBack s die line
theorem l2Evict_cores (s : State) (die : Nat) (line : Nat) : (l2Evict s die line).cores = s.cores := by grind [l2Evict]
grind_pattern l2Evict_cores => l2Evict s die line
theorem freeWay_cores (s : State) (u : WayUse) (slice : Nat) : (freeWay s u slice).cores = s.cores := by grind [freeWay]
grind_pattern freeWay_cores => freeWay s u slice
theorem takeWay_cores (s : State) (part : Nat) (slice : Nat) (line : Nat) : (takeWay s part slice line).1.cores = s.cores := by grind [takeWay]
grind_pattern takeWay_cores => takeWay s part slice line
theorem l2Own_cores (s : State) (die : Nat) (part : Nat) (line : Nat) : (l2Own s die part line).cores = s.cores := by grind [l2Own]
grind_pattern l2Own_cores => l2Own s die part line
theorem l2Line_cores (s : State) (die : Nat) (part : Nat) (line : Nat) (compr : Bool) :
    (l2Line s die part line compr).1.cores = s.cores := by grind [l2Line]
grind_pattern l2Line_cores => l2Line s die part line compr
theorem l2Keep_cores (s : State) (die : Nat) (part : Nat) (line : Nat) (k : Nat) (compr : Bool) (x : L2Sector) :
    (l2Keep s die part line k compr x).cores = s.cores := by grind [l2Keep]
grind_pattern l2Keep_cores => l2Keep s die part line k compr x
theorem l2Fill_cores (s : State) (die : Nat) (part : Nat) (line : Nat) (k : Nat) (x : L2Sector) :
    (l2Fill s die part line k x).cores = s.cores := by grind [l2Fill]
grind_pattern l2Fill_cores => l2Fill s die part line k x
theorem l2Fetch_cores (s : State) (die : Nat) (part : Nat) (pa : Nat) : (l2Fetch s die part pa).1.cores = s.cores := by grind [l2Fetch]
grind_pattern l2Fetch_cores => l2Fetch s die part pa
theorem l2Store_cores (s : State) (die : Nat) (part : Nat) (pa : Nat) (compr : Bool) (bytes : Table Byte) :
    (l2Store s die part pa compr bytes).cores = s.cores := by grind [l2Store]
grind_pattern l2Store_cores => l2Store s die part pa compr bytes
theorem l2Merge_cores (s : State) (die : Nat) (part : Nat) (line : Nat) (compr : Bool) (bytes : Table Byte) :
    (l2Merge s die part line compr bytes).cores = s.cores := by grind [l2Merge]
grind_pattern l2Merge_cores => l2Merge s die part line compr bytes
theorem l2Single_cores (s : State) (die : Nat) (line : Nat) : (l2Single s die line).cores = s.cores := by grind [l2Single]
grind_pattern l2Single_cores => l2Single s die line
theorem l2Touch_cores (s : State) (die : Nat) (c : Ctx) (pa : Nat) (replicate : Option Nat) :
    (l2Touch s die c pa replicate).cores = s.cores := by
  unfold l2Touch
  dsimp only
  (repeat' split) <;> grind
grind_pattern l2Touch_cores => l2Touch s die c pa replicate
theorem putGrant_cores (s : State) (core : Nat) (asid : Nat) (line : Nat) (pa : Nat) :
    (putGrant s core asid line pa).cores = s.cores := by grind [putGrant]
grind_pattern putGrant_cores => putGrant s core asid line pa
theorem mergeDirty_cores (s : State) (core : Nat) (l : L1Line) : (mergeDirty s core l).cores = s.cores := by grind [mergeDirty]
grind_pattern mergeDirty_cores => mergeDirty s core l

/-! ## Lines of an L1 -/

/-- The lines that the L1 of a core lists, by address space and line number. -/
def lineKeys (s : State) (core : Nat) : List (Nat × Nat) := (coreOf s core).l1.map fun l => (l.asid, l.line)

theorem lineKeys_of_cores {s s' : State} (h : s'.cores = s.cores) : lineKeys s' = lineKeys s := by
  funext core
  unfold lineKeys coreOf
  rw [h]

/-- A core changed in what is not the list of its lines. -/
theorem lineKeys_modCore {s : State} {c : Nat} {f : Core → Core}
    (hf : ((f (coreOf s c)).l1.map fun l => (l.asid, l.line)) = (coreOf s c).l1.map fun l => (l.asid, l.line)) :
    lineKeys (modCore s c f) = lineKeys s := by
  funext d
  unfold lineKeys
  by_cases h : d = c
  · subst h
    rw [coreOf_modCore, hf]
  · rw [coreOf_modCore_other s f h]

theorem lineKeys_foldl {α : Type} {f : State → α → State} {s : State} {l : List α} (hf : ∀ s x, lineKeys (f s x) = lineKeys s) :
    lineKeys (l.foldl f s) = lineKeys s := by
  induction l generalizing s with
  | nil => rfl
  | cons x l ih => exact ih.trans (hf s x)

theorem lineKeys_countEvent (s : State) (core ev n : Nat) : lineKeys (countEvent s core ev n) = lineKeys s := by
  unfold countEvent
  dsimp only
  split
  · exact lineKeys_modCore rfl
  · rfl

theorem lineKeys_giveUpLine (s : State) (core : Nat) (l : L1Line) : lineKeys (giveUpLine s core l) = lineKeys s := by
  unfold giveUpLine
  refine (lineKeys_modCore ?_).trans (lineKeys_of_cores ?_)
  · refine map_updFirst (k := fun l : L1Line => (l.asid, l.line)) ?_ _
    exact fun _ => rfl
  · split
    · rfl
    · exact mergeDirty_cores ..

theorem lineKeys_recallLine (s : State) (line : Nat) : lineKeys (recallLine s line) = lineKeys s :=
  lineKeys_foldl fun _ _ => lineKeys_foldl fun _ _ => lineKeys_giveUpLine ..

/-- A line put in the place of one that is listed. -/
theorem lineKeys_l1Put {s : State} {core : Nat} {l : L1Line} (h : (l.asid, l.line) ∈ lineKeys s core) :
    lineKeys (l1Put s core l) = lineKeys s := by
  obtain ⟨x, hx, hxl⟩ := List.mem_map.mp h
  have hany : (coreOf s core).l1.any (fun x => x.asid == l.asid && x.line == l.line) = true :=
    List.any_eq_true.mpr ⟨x, hx, by simpa using hxl⟩
  have hupd : ∀ ls : List L1Line, ((updFirst (fun x => x.asid == l.asid && x.line == l.line) (fun _ => l) ls).map fun l => (l.asid, l.line)) =
      ls.map fun l => (l.asid, l.line) := by
    intro ls
    induction ls with
    | nil => rfl
    | cons y r ih =>
      unfold updFirst
      split
      · next hy =>
        obtain ⟨ha, hl⟩ : y.asid = l.asid ∧ y.line = l.line := by simpa using hy
        simp [ha, hl]
      · simpa using ih
  refine lineKeys_modCore ?_
  rw [if_pos hany]
  exact hupd _

theorem lineKeys_l1WriteBack (s : State) (core asid line : Nat) : lineKeys (l1WriteBack s core asid line) = lineKeys s := by
  unfold l1WriteBack
  split
  · rfl
  · next l hl =>
    have hin : (l.asid, l.line) ∈ lineKeys s core := List.mem_map.mpr ⟨l, List.mem_of_find?_eq_some hl, rfl⟩
    have h1 : lineKeys (modCore s core fun c => { c with flume := c.flume.filter fun e => e != (asid, line) }) = lineKeys s :=
      lineKeys_modCore rfl
    dsimp only
    split
    · exact h1
    · have h2 := (lineKeys_countEvent (modCore s core fun c => { c with flume := c.flume.filter fun e => e != (asid, line) }) core 5 1).trans h1
      have h3 := lineKeys_l1Put (l := { l with excl := false }) (congrFun h2 core ▸ hin)
      refine (lineKeys_of_cores (mergeDirty_cores ..)).trans ((lineKeys_l1Put ?_).trans ((lineKeys_recallLine ..).trans (h3.trans h2)))
      rw [lineKeys_recallLine, h3, h2]
      exact hin

/-- An evicted line is listed no more; the others stay. -/
theorem mem_lineKeys_l1Evict {s : State} {core asid line : Nat} {k : Nat × Nat} (h : k ∈ lineKeys (l1Evict s core asid line) core) :
    k ∈ lineKeys s core ∧ k ≠ (asid, line) := by
  unfold l1Evict at h
  rw [lineKeys_of_cores (modDie_cores ..)] at h
  unfold lineKeys at h
  rw [coreOf_modCore] at h
  obtain ⟨l, hl, rfl⟩ := List.mem_map.mp h
  obtain ⟨hmem, hne⟩ := List.mem_filter.mp hl
  refine ⟨congrFun (lineKeys_l1WriteBack s core asid line) core ▸ List.mem_map.mpr ⟨l, hmem, rfl⟩, fun he => ?_⟩
  simp_all

theorem mem_lineKeys_evictions {core : Nat} {k : Nat × Nat} (ls : List L1Line) {s : State}
    (h : k ∈ lineKeys (ls.foldl (fun s l => l1Evict s core l.asid l.line) s) core) :
    k ∈ lineKeys s core ∧ ∀ l ∈ ls, k ≠ (l.asid, l.line) := by
  induction ls generalizing s with
  | nil => exact ⟨h, by simp⟩
  | cons x r ih =>
    obtain ⟨hk, hr⟩ := ih h
    obtain ⟨hs, hx⟩ := mem_lineKeys_l1Evict hk
    exact ⟨hs, List.forall_mem_cons.mpr ⟨hx, hr⟩⟩

/-! ## The lines that go -/

section
variable {s : State} {core part : Nat} {c : InvCmd}

/-- No line that a command covers stays in the L1 of a core. -/
theorem uncovered_l1 {l : L1Line} (h : l ∈ (coreOf (dropCoreLines part c s core) core).l1)
    (ha : (invAsids s part c).contains l.asid = true) : invMeets c (512 * l.line) 512 = false := by
  unfold dropCoreLines at h
  dsimp only at h
  rw [coreOf_modCore] at h
  obtain ⟨hin, hgone⟩ := mem_lineKeys_evictions _ (List.mem_map.mpr ⟨l, h, rfl⟩)
  obtain ⟨x, hx, hxl⟩ := List.mem_map.mp hin
  obtain ⟨hxa, hxn⟩ : x.asid = l.asid ∧ x.line = l.line := by simpa using hxl
  refine Bool.eq_false_iff.mpr fun hm => hgone x (List.mem_filter.mpr ⟨hx, ?_⟩) hxl.symm
  rw [hxa, hxn, ha, hm]
  rfl

/-- No sector that a command covers stays in the instruction cache of a core. -/
theorem uncovered_icache {l : ISector} (h : l ∈ (coreOf (dropCoreLines part c s core) core).icache)
    (ha : (invAsids s part c).contains l.asid = true) : invMeets c (64 * l.sector) 64 = false := by
  unfold dropCoreLines at h
  dsimp only at h
  rw [coreOf_modCore] at h
  obtain ⟨-, hkept⟩ := List.mem_filter.mp h
  rw [ha] at hkept
  simpa using hkept

/-- What a command does not cover: it is a range command and the bytes lie outside. -/
theorem outside_of_invMeets {va len : Nat} (h : invMeets c va len = false) :
    c.op = 0 ∧ ¬(va < c.start + 4096 * c.npg ∧ c.start < va + len) := by
  simpa [invMeets] using h

theorem invAsids_of_ne (h : c.op ≠ 2) : (invAsids s part c).contains c.asid = true := by
  simp [invAsids, h]

/-- A translation that stays was cached, and a leaf that the command does not cover, where its address space is one of the command's. -/
theorem mem_dropEntries {die : Nat} {e : TlbEntry} (h : e ∈ (dieOf (dropEntries s die part c).1 die).tlb) :
    e ∈ (dieOf s die).tlb ∧ ((invAsids s part c).contains e.asid = true → e.leaf = true ∧ invMeets c (leafSpan e).1 (leafSpan e).2 = false) := by
  unfold dropEntries at h
  dsimp only at h
  rw [dieOf_modDie] at h
  obtain ⟨hin, hkept⟩ := List.mem_filter.mp h
  refine ⟨hin, fun ha => ?_⟩
  rw [ha] at hkept
  cases hl : e.leaf <;> simp_all

end

/-! ## The command whose turn it is -/

section
variable {op die part : Nat} {s : State}

theorem nextInvalidate_cons {c : InvCmd} {rest : List InvCmd} (h : tget (dieOf s die).inv [] part = c :: rest) :
    nextInvalidate op die part s = if c.op != op || roundHeld s part c then s
      else performInvalidate (modDie s die fun d => { d with inv := tset d.inv part rest }) die part c := by
  unfold nextInvalidate
  rw [h]

theorem nextInvalidate_other (h : ∀ c rest, tget (dieOf s die).inv [] part = c :: rest → c.op ≠ op) : nextInvalidate op die part s = s := by
  cases hq : tget (dieOf s die).inv [] part with
  | nil =>
    unfold nextInvalidate
    rw [hq]
  | cons c rest => rw [nextInvalidate_cons hq, if_pos (by simp [h c rest hq])]

/-- Each invalidate command of the table performs the oldest one of its op. -/
theorem exec_invalidates {e : (Nat → Nat → Instr) × Nat} (he : e ∈ invalidates) :
    exec (e.1 die part) s = .next (nextInvalidate e.2 die part s) := by
  simp only [invalidates, List.mem_cons, List.not_mem_nil, or_false] at he
  obtain rfl | rfl | rfl := he
  · rfl
  · rfl
  · rfl

end

end Sys2Proof.Machine
open Sys2Proof Sys2Proof.Machine Sys2Proof.Claims

/-- Settles O52: the oldest command by the three that perform it, and what the filters and evictions of the steps leave. -/
theorem invalidatesDropTranslations : Obligations.InvalidatesDropTranslations := by
  unfold Obligations.InvalidatesDropTranslations
  refine ⟨fun s die part e he => ?_, fun s die part c e he => ?_, fun s core part c hop => ⟨fun l hl ha => ?_, fun l hl ha => ?_⟩⟩
  · rw [exec_invalidates he]
    refine ⟨fun c rest hq hop hr => ?_, fun c rest hq hop hr => ?_, fun h => ?_⟩
    · rw [nextInvalidate_cons hq, if_pos (by rw [hr, Bool.or_true])]
    · rw [nextInvalidate_cons hq, if_neg (by simp [hop, hr])]
    · rw [nextInvalidate_other h]
  · obtain ⟨hin, hleaf⟩ := mem_dropEntries he
    refine ⟨hin, fun ha => ?_⟩
    obtain ⟨hl, hm⟩ := hleaf (by rcases ha with ⟨hop, ha | ha⟩ | ⟨hop, ha⟩ <;> simp [invAsids, hop, ha])
    exact ⟨hl, outside_of_invMeets hm⟩
  · exact outside_of_invMeets (uncovered_icache hl (ha ▸ invAsids_of_ne hop))
  · exact outside_of_invMeets (uncovered_l1 hl (ha ▸ invAsids_of_ne hop))
end

section
/-! SUPPORT. Display outputs and strips (R346, R352, R399 to R402, R434, R435): the writes of `dmode`, the deadline that is due, the rows
of a scan-out, the strip that starts and the tile that is reconstructed. -/
namespace Sys2Proof.Machine
open Sys2Proof.Claims

/-! ## `dmode` (R434) -/

section
variable {s : State} {o : Nat} {v : Word}

theorem exec_displayEnable (h : hostOpen s) (ho : o < 2) : exec (.displayEnable o v) s = .next (dmodeWrite s o v) := by
  refine congrArg Host.Outcome.next (if_neg ?_)
  simp [hostBlocked_of_open h, ho]

theorem dmodeWrite_on (hen : (outOf s o).dmode.getLsbD 0 = false) (hv : v.getLsbD 0 = true) :
    dmodeWrite s o v = modOut s o fun x => { x with dmode := (v &&& 2#32) ||| 1#32 } := by
  unfold dmodeWrite
  simp only [hen, hv, Bool.false_and, Bool.false_eq_true, if_false, if_true, BitVec.ofNat_eq_ofNat, BitVec.or_zero]

theorem dmodeWrite_stays_off (hen : (outOf s o).dmode.getLsbD 0 = false) (hv : v.getLsbD 0 = false) :
    dmodeWrite s o v = modOut s o fun x => { x with dmode := v &&& 2#32, scan := none } := by
  unfold dmodeWrite
  simp only [hen, hv, Bool.false_and, Bool.false_eq_true, if_false, BitVec.ofNat_eq_ofNat, BitVec.or_zero]

/-- An enabled output keeps dsc, with an event where the write would change it. -/
theorem dmodeWrite_enabled (hen : (outOf s o).dmode.getLsbD 0 = true) :
    dmodeWrite s o v =
      modOut (if v.getLsbD 1 = (outOf s o).dmode.getLsbD 1 then s else hostEvent s 0 3 (0x4000 + 0x20 * o) v.toNat) o fun x =>
        if v.getLsbD 0 then { x with dmode := ((outOf s o).dmode &&& 2#32) ||| 1#32 ||| ((outOf s o).dmode &&& 4#32) }
        else { x with dmode := (outOf s o).dmode &&& 2#32, scan := none } := by
  unfold dmodeWrite displayIgnored
  have hev : (if (true && v.getLsbD 1 != (outOf s o).dmode.getLsbD 1) = true then hostEvent s 0 3 (0x4000 + 0x20 * o + 4 * 0) v.toNat else s) =
      if v.getLsbD 1 = (outOf s o).dmode.getLsbD 1 then s else hostEvent s 0 3 (0x4000 + 0x20 * o) v.toNat := by
    by_cases hd : v.getLsbD 1 = (outOf s o).dmode.getLsbD 1
    · rw [if_pos hd, if_neg (by simp only [hd, bne_self_eq_false, Bool.and_false, Bool.false_eq_true, not_false_eq_true])]
    · rw [if_neg hd, if_pos (by rw [Bool.true_and]; exact bne_iff_ne.mpr hd), Nat.mul_zero, Nat.add_zero]
  dsimp only
  rw [hen, hev]
  split
  · rfl
  · rfl

theorem exec_linkTrainingDone (ho : o < 2) (hen : (outOf s o).dmode.getLsbD 0 = true) (htr : (outOf s o).dmode.getLsbD 2 = false) :
    exec (.linkTrainingDone o true) s = .next (modOut s o fun x =>
      { x with
        dmode := x.dmode ||| 4, nextFrame := firstFrame s.devtime x
        captures := x.captures.map fun c => { c with begun := c.begun || decide (deadlineOf c.timing 0 < s.devtime) } }) := by
  refine congrArg Host.Outcome.next (if_neg ?_)
  rw [hen, htr]
  simpa using ho

theorem exec_linkTrainingDone_ignored {b : Bool}
    (h : (outOf s o).dmode.getLsbD 0 = false ∨ (outOf s o).dmode.getLsbD 2 = true ∨ b = false) : exec (.linkTrainingDone o b) s = .next s := by
  refine congrArg Host.Outcome.next (if_pos ?_)
  rcases h with h | h | h <;> simp only [h, Bool.not_false, Bool.or_true, Bool.true_or]

end

/-! ## Strip deadlines (R402) -/

/-- What is due is a strip that the frame still has on the output, at a time that has come or does not fit. -/
theorem dueStrip_due {s : State} {o die k : Nat} {f : Frame} {t : Timing} (h : dueStrip s o = some (die, f, k, t)) :
    tfind f.timing o = some t ∧ k < t.k ∧ t.fper ≠ 0 ∧ f.fhist.getD o 0 ≠ 0 ∧ (deadlineOf t k ≤ s.devtime ∨ 2 ^ 64 ≤ deadlineOf t k) := by
  obtain ⟨d, -, hd⟩ := List.exists_of_findSome?_eq_some h
  obtain ⟨f', -, hf⟩ := List.exists_of_findSome?_eq_some hd
  obtain ⟨e, he, hx⟩ := Option.map_eq_some_iff.mp hf
  cases hx
  unfold deadlineDue at he
  cases ht : tfind f.timing o with
  | none => simp [ht] at he
  | some t' =>
    simp only [ht, Option.ite_none_right_eq_some, Bool.and_eq_true, decide_eq_true_eq] at he
    obtain ⟨⟨⟨hdl, hk⟩, htime⟩, hkt⟩ := he
    cases hkt
    obtain ⟨hp, hh⟩ : t'.fper ≠ 0 ∧ f.fhist.getD o 0 ≠ 0 := by simpa [hasDeadlines] using hdl
    have hreach : 2 ^ 64 ≤ deadlineOf t' (tget f.deadlines 0 o) ∨ deadlineOf t' (tget f.deadlines 0 o) ≤ s.devtime := by
      simpa [timeReached] using htime
    exact ⟨rfl, hk, hp, hh, hreach.symm⟩

theorem closeDue_some {s : State} {o die k : Nat} {f : Frame} {t : Timing} (h : dueStrip s o = some (die, f, k, t)) :
    closeDue o s = closeStrip s die f o k t := by
  unfold closeDue
  rw [h]

theorem closeDue_none {s : State} {o : Nat} (h : dueStrip s o = none) : closeDue o s = s := by
  unfold closeDue
  rw [h]

/-! ## Scan-out (R435) -/

section
variable {s : State} {o : Nat}

theorem ahead_of_scanDue {x : Output} (h : scanDue s x = true) :
    sending x = true ∧ x.scan = none ∧ deadlineOf (nextScan x).timing 0 ≤ s.devtime := by
  simp only [scanDue, scanAhead, Bool.and_eq_true, decide_eq_true_eq, Option.isNone_iff_eq_none] at h
  obtain ⟨⟨⟨⟨hn, hs⟩, -⟩, -⟩, ht⟩ := h
  exact ⟨hs, hn, ht⟩

theorem startScan_due (h : scanDue s (outOf s o) = true) : startScan o s = modOut s o fun x =>
    let f := (nextScan x).timing.fnum
    { x with
      scan := some (nextScan x), fcur := f
      captures := updFirst (fun k => k.timing.fnum == f) (fun k => { k with begun := true }) x.captures } := if_pos h

theorem startScan_ahead (h : scanDue s (outOf s o) = false) : startScan o s = s := if_neg (by simp [h])

theorem sendRow_idle (hn : (outOf s o).scan = none) (h : sending (outOf s o) = false ∨ (outOf s o).fper ≠ 0) : sendRow o s = s := by
  unfold sendRow
  dsimp only
  rw [hn]
  refine if_neg ?_
  rcases h with h | h
  · simp [sendsBlack, h]
  · simpa [sendsBlack] using fun _ _ => h

theorem sendRow_black (hn : (outOf s o).scan = none) (hs : sending (outOf s o) = true) (hp : (outOf s o).fper = 0) :
    sendRow o s = modOut s o fun x => { x with sent := x.sent ++ [(x.fcur.toNat, 0, List.replicate (x.dsize.toNat % 2 ^ 16) 0)] } := by
  unfold sendRow
  dsimp only
  rw [hn]
  refine (if_pos ?_).trans ?_
  · simp [sendsBlack, hn, hs, hp]
  · simp only [field, Nat.pow_zero, Nat.div_one]

theorem rowBytes_kept (s : State) (hist : Option Hist) (c : Scan) : kept (rowBytes s hist c).1 = kept s := by
  have hv := fun (h : Hist) => vmRead_kept s (hwCtx h.part h.world) (histWord h.va c.timing.fnum.toNat c.timing.w c.timing.h 0 c.row)
    (4 * c.timing.w)
  have he : ∀ h : Hist, kept (earlierWords s h c.timing.fnum.toNat c.timing 0 c.row c.timing.w).1 = kept s := fun h => by
    unfold earlierWords
    have hk := vmRead_kept s (hwCtx h.part h.world) (histWord h.va (c.timing.fnum.toNat + 1) c.timing.w c.timing.h 0 c.row) (4 * c.timing.w)
    split
    · next hr => exact (congrArg (fun x => kept x.1) hr).symm.trans hk
    · next hr => exact (recordEvent_kept ..).trans ((congrArg (fun x => kept x.1) hr).symm.trans hk)
  unfold rowBytes
  cases hist with
  | none => rfl
  | some h =>
    dsimp only
    split
    · split
      · next hr => exact (congrArg (fun x => kept x.1) hr).symm.trans (hv h)
      · next hr => exact (recordEvent_kept ..).trans ((congrArg (fun x => kept x.1) hr).symm.trans (hv h))
    · exact (writeHist_kept ..).trans (he h)

/-- The output after a row of a scan-out has been sent. -/
def rowSent (c : Scan) (ws : List Word) (x : Output) : Output :=
  let last := decide (c.row + 1 ≥ c.timing.h)
  { x with
    sent := x.sent ++ [(c.timing.fnum.toNat, c.row, ws)]
    scan := if last then none else some { c with row := c.row + 1 }
    scanned := if last then (x.scanned + 1) % 2 ^ 64 else x.scanned
    nextFrame := if last && c.timing.fnum == BitVec.ofNat 32 x.nextFrame then x.nextFrame + 1 else x.nextFrame
    captures := if last then x.captures.filter (fun k => k.timing.fnum != c.timing.fnum) else x.captures }

theorem sendRow_early {c : Scan} (hc : (outOf s o).scan = some c) (ht : s.devtime < rowTime c.timing c.row) : sendRow o s = s := by
  unfold sendRow
  dsimp only
  rw [hc]
  exact if_pos ht

/-- A row whose time has come is sent, with words that the memory gives. -/
theorem sendRow_due {c : Scan} (hc : (outOf s o).scan = some c) (ht : rowTime c.timing c.row ≤ s.devtime) :
    ∃ ws, outOf (sendRow o s) o = rowSent c ws (outOf s o) := by
  unfold sendRow
  dsimp only
  rw [hc]
  dsimp only
  rw [if_neg (by simpa using ht)]
  refine ⟨_, (outOf_modOut ..).trans (congrArg (rowSent c _) ?_)⟩
  unfold outOf
  rw [outputs_of_kept (rowBytes_kept ..)]

theorem rowSent_next {c : Scan} (ws : List Word) (x : Output) (h : c.row + 1 < c.timing.h) :
    (rowSent c ws x).scan = some { c with row := c.row + 1 } ∧ (rowSent c ws x).scanned = x.scanned ∧
      (rowSent c ws x).nextFrame = x.nextFrame := by
  simp [rowSent, Nat.not_le.mpr h]

theorem rowSent_last {c : Scan} (ws : List Word) (x : Output) (h : ¬ c.row + 1 < c.timing.h) :
    (rowSent c ws x).scan = none ∧ (rowSent c ws x).scanned = (x.scanned + 1) % 2 ^ 64 ∧
      (rowSent c ws x).nextFrame = x.nextFrame + (if c.timing.fnum = BitVec.ofNat 32 x.nextFrame then 1 else 0) ∧
      (rowSent c ws x).captures = x.captures.filter fun k => k.timing.fnum != c.timing.fnum := by
  have hl : decide (c.row + 1 ≥ c.timing.h) = true := decide_eq_true (Nat.le_of_not_lt h)
  unfold rowSent
  simp only [hl, if_true, Bool.true_and, beq_iff_eq, true_and, and_true]
  split <;> rfl

end

/-! ## Strips and tiles (R346, R352) -/

section
variable {s : State} {die part : Nat} {f : Frame}

theorem startDue_due (hf : openFrameOf s die part = some f) (hd : stripDue s f = true) : startDue die part s = startStrip s die f := by
  unfold startDue
  rw [hf]
  exact if_pos hd

theorem startDue_not (h : ∀ f, openFrameOf s die part = some f → stripDue s f = false) : startDue die part s = s := by
  unfold startDue
  split
  · rfl
  · next f hf => exact if_neg (by simp [h f hf])

theorem closed_of_stripDue (h : stripDue s f = true) : f.geomClosed = true := by
  simp only [stripDue, Bool.and_eq_true] at h
  exact h.1.1

theorem mem_latchStrip {k : Nat} {l : Latch} (h : l ∈ latchStrip s f k) : l.strip = k ∧ l.gaze = s.gazeOld.getD l.view 0 := by
  obtain ⟨e, -, rfl⟩ := List.mem_map.mp h
  exact ⟨rfl, rfl⟩

theorem exec_tileReconstructionEnqueue {q : Nat} {t : Tile} {v : Nat × ViewEntry} (hfs : (dieOf s die).frames = [f]) (hp : f.part = part)
    (ht : (f.tiles.find? fun t => t.q == q && reconDue f t) = some t) (hv : (f.views.find? fun v => v.1 == t.view) = some v) :
    exec (.tileReconstructionEnqueue die part q) s =
      .next (launchFormed (modFrame s die f.grid fun f => updTile f t.q fun t => { t with enqueued := true })
        (launchRecord f v.2.rtmpl 4 0 t.q v.2.rtmpl.threads t.core) (.recon (reconInfo die f t))) := by
  show Machine.execTileReconstructionEnqueue die part q s = _
  unfold Machine.execTileReconstructionEnqueue
  simp [hfs, hp, ht, hv]

theorem reconDue_found {q : Nat} {t : Tile} (ht : (f.tiles.find? fun t => t.q == q && reconDue f t) = some t) :
    t.count = 0 ∧ t.assigned = true ∧ t.enqueued = false := by
  have h := List.find?_some ht
  simp only [reconDue, Bool.and_eq_true, beq_iff_eq, Bool.not_eq_true'] at h
  obtain ⟨-, ⟨⟨-, hc⟩, ha⟩, he⟩ := h
  exact ⟨hc, ha, he⟩

end

end Sys2Proof.Machine
open Sys2Proof Sys2Proof.Machine Sys2Proof.Claims

/-- Settles O55: an output's enable and training, the deadline that is due, the rows of a scan-out, the strip and the tile, one lemma each. -/
theorem displayAndStripResults : Obligations.DisplayAndStripResults := by
  unfold Obligations.DisplayAndStripResults
  refine ⟨fun s o v hopen ho => ⟨fun he hv => ?_, fun he hv => ?_, fun he => ?_, fun he ht => ?_⟩, fun s o => ?_, fun s die part => ?_⟩
  · rw [exec_displayEnable hopen ho, dmodeWrite_on he hv]
  · rw [exec_displayEnable hopen ho, dmodeWrite_stays_off he hv]
  · dsimp only
    rw [exec_displayEnable hopen ho, dmodeWrite_enabled he]
  · refine ⟨_, exec_linkTrainingDone ho he ht, rfl, ?_⟩
    rw [outOf_modOut]
    exact ⟨rfl, rfl, rfl⟩
  · refine ⟨fun b => exec_linkTrainingDone_ignored, fun h => congrArg Host.Outcome.next (closeDue_none h),
      fun die f k t h => ⟨congrArg Host.Outcome.next (closeDue_some h), dueStrip_due h⟩,
      fun h => congrArg Host.Outcome.next (startScan_ahead h), fun h => congrArg Host.Outcome.next (startScan_due h), ahead_of_scanDue,
      fun hn h => congrArg Host.Outcome.next (sendRow_idle hn h), fun hn hs hp => congrArg Host.Outcome.next (sendRow_black hn hs hp),
      fun c hc => ⟨fun ht => congrArg Host.Outcome.next (sendRow_early hc ht), fun ht => ?_⟩⟩
    obtain ⟨ws, hws⟩ := sendRow_due hc ht
    refine ⟨_, rfl, ws, ?_⟩
    rw [hws]
    refine ⟨rfl, ?_⟩
    split
    · next hr => exact rowSent_next ws _ hr
    · next hr => exact rowSent_last ws _ hr
  · exact ⟨fun f hf hd => ⟨congrArg Host.Outcome.next (startDue_due hf hd), closed_of_stripDue hd, fun l hl => mem_latchStrip hl⟩,
      fun h => congrArg Host.Outcome.next (startDue_not h),
      fun q f t v hfs hp ht hv => ⟨reconDue_found ht, exec_tileReconstructionEnqueue hfs hp ht hv⟩⟩
end

section
/-! SUPPORT. What the host does over the link (R429 to R432, R367): memory accesses and their enabled bytes, registers, and the pieces of
an invalidate command. -/
namespace Sys2Proof.Machine
open Sys2Proof.Claims

/-! ## What is sent -/

theorem linkDown_of_open {s : State} (h : hostOpen s) : linkDown s = false := by
  obtain ⟨-, -, hm⟩ := h
  simpa [linkDown] using hm

theorem sendHost_up {s : State} (x : HostOut) (h : linkDown s = false) : sendHost s x = Claims.sent s x := if_neg (by simp [h])

theorem linkDown_of_kept {s s' : State} (h : kept s' = kept s) : linkDown s' = linkDown s :=
  by
  unfold linkDown
  rw [show s'.modulesDown = s.modulesDown from congrArg (fun k => k.1.modulesDown) h]

/-! ## Enabled bytes (R429) -/

/-- A run of bytes has one at an offset. -/
def inRun (r : Nat × List Byte) (k : Nat) (b : Byte) : Prop := r.1 ≤ k ∧ r.2[k - r.1]? = some b

theorem le_of_mem_enabledRuns {data : List (Option Byte)} {i : Nat} {r : Nat × List Byte} (h : r ∈ enabledRuns i data) : i ≤ r.1 := by
  induction data generalizing i r with
  | nil => cases h
  | cons x l ih =>
    cases x with
    | none => exact Nat.le_of_succ_le (ih (i := i + 1) h)
    | some b =>
      have htail : ∀ {q}, q ∈ enabledRuns (i + 1) l → i ≤ q.1 := fun hq => Nat.le_of_succ_le (ih hq)
      unfold enabledRuns at h
      split at h
      · next j bs rest hr =>
        rw [hr] at htail
        split at h
        · rcases List.mem_cons.mp h with rfl | h
          · exact Nat.le_refl _
          · exact htail (List.mem_cons_of_mem _ h)
        · rcases List.mem_cons.mp h with rfl | h
          · exact Nat.le_refl _
          · exact htail h
      · rw [List.mem_singleton.mp h]

theorem inRun_cons_zero (i : Nat) (b x : Byte) (bs : List Byte) : inRun (i, b :: bs) i x ↔ b = x := by simp [inRun]

theorem inRun_cons_succ (i k : Nat) (b x : Byte) (bs : List Byte) : inRun (i, b :: bs) (i + 1 + k) x ↔ inRun (i + 1, bs) (i + 1 + k) x := by
  have h1 : i + 1 + k - i = k + 1 := by omega
  have h2 : i + 1 + k - (i + 1) = k := by omega
  simp only [inRun, h1, h2, List.getElem?_cons_succ]
  refine and_congr_left fun _ => ?_
  omega

/-- The first byte of a run that begins here, and those of the runs behind it. -/
theorem enabledRuns_some (i k : Nat) (b x : Byte) (l : List (Option Byte)) :
    ((∃ r ∈ enabledRuns i (some b :: l), inRun r i x) ↔ b = x) ∧
      ((∃ r ∈ enabledRuns i (some b :: l), inRun r (i + 1 + k) x) ↔ ∃ r ∈ enabledRuns (i + 1) l, inRun r (i + 1 + k) x) := by
  have hlate : ∀ r ∈ enabledRuns (i + 1) l, ¬ inRun r i x := fun r hr h => Nat.not_succ_le_self i (Nat.le_trans (le_of_mem_enabledRuns hr) h.1)
  have hone : ¬ inRun (i, [b]) (i + 1 + k) x := by
    rw [inRun_cons_succ]
    simp [inRun]
  rw [enabledRuns]
  split
  · next j bs rest hr =>
    rw [hr] at hlate
    split
    · next hj =>
      subst hj
      rw [hr]
      simp only [List.mem_cons, exists_eq_or_imp, inRun_cons_zero, inRun_cons_succ]
      exact ⟨or_iff_left fun ⟨r, hr, h⟩ => hlate r (List.mem_cons_of_mem _ hr) h, trivial⟩
    · rw [hr]
      simp only [List.mem_cons, exists_eq_or_imp, inRun_cons_zero, hone, false_or]
      refine ⟨or_iff_left ?_, trivial⟩
      rintro (h | ⟨r, hr, h⟩)
      · exact hlate _ List.mem_cons_self h
      · exact hlate r (List.mem_cons_of_mem _ hr) h
  · next hr =>
    rw [hr]
    simp only [List.mem_singleton, exists_eq_left, inRun_cons_zero, hone, List.not_mem_nil, false_and, exists_false, and_self]

/-- The runs hold the enabled bytes, each at its offset, and no other. -/
theorem writtenAt_iff_inRun (data : List (Option Byte)) (i k : Nat) (b : Byte) :
    writtenAt data k = some b ↔ ∃ r ∈ enabledRuns i data, inRun r (i + k) b := by
  induction data generalizing i k with
  | nil => simp [writtenAt, enabledRuns]
  | cons x l ih =>
    have hstep : ∀ n, i + (n + 1) = i + 1 + n := fun n => by omega
    cases x with
    | none =>
      cases k with
      | zero =>
        refine iff_of_false (by simp [writtenAt]) ?_
        rintro ⟨r, hr, h⟩
        exact Nat.not_succ_le_self i (Nat.le_trans (le_of_mem_enabledRuns (i := i + 1) hr) h.1)
      | succ n =>
        rw [hstep]
        exact ih (i + 1) n
    | some c =>
      cases k with
      | zero => exact (by simp [writtenAt] : writtenAt (some c :: l) 0 = some b ↔ c = b).trans (enabledRuns_some i 0 c b l).1.symm
      | succ n =>
        rw [hstep]
        exact (ih (i + 1) n).trans (enabledRuns_some i n c b l).2.symm

/-- With every byte enabled there is one run. -/
theorem enabledRuns_map_some (i : Nat) {bs : List Byte} (h : bs ≠ []) : enabledRuns i (bs.map some) = [(i, bs)] := by
  induction bs generalizing i with
  | nil => exact absurd rfl h
  | cons b r ih =>
    rw [List.map_cons, enabledRuns]
    cases r with
    | nil => rfl
    | cons c r =>
      rw [ih (i + 1) (List.cons_ne_nil c r)]
      exact if_pos rfl

/-! ## Memory (R429) -/

section
variable {s s1 : State} {part : Nat} {va : DWord} {len : Nat} {ps : List Piece} {f : FaultInfo} {data : List (Option Byte)}

theorem lineOk_of (hp : part < 8) (h1 : 1 ≤ len) (h2 : va.toNat % 512 + len ≤ 512) : lineOk part va.toNat len = true := by
  simp [lineOk, hp, h1, h2]

theorem lineOk_long (h : va.toNat % 512 + len > 512) : lineOk part va.toNat len = false := by
  simp [lineOk, Nat.not_le.mpr h]

theorem exec_hostMemoryRead_ok (ho : hostOpen s) (hl : lineOk part va.toNat len = true)
    (ht : translateParts s (hwCtx part false) .r (splitSectors va.toNat len) = (s1, .ok ps)) :
    exec (.hostMemoryRead part va len) s = .next (Claims.sent (readPieces s1 (hwCtx part false) ps).1
      (if (readPieces s1 (hwCtx part false) ps).2.2 = true then (if (readPieces s1 (hwCtx part false) ps).1.hostCap.getLsbD 1 then .poison else .error)
       else if staysPacked (readPieces s1 (hwCtx part false) ps).1 va.toNat len ps (readPieces s1 (hwCtx part false) ps).2.1 = true then
         .packed (sizeTag (readPieces s1 (hwCtx part false) ps).2.1)
           (storedLine (sizeTag (readPieces s1 (hwCtx part false) ps).2.1) (readPieces s1 (hwCtx part false) ps).2.1)
       else .data (readPieces s1 (hwCtx part false) ps).2.1)) := by
  have hk := translateParts_kept s (hwCtx part false) .r (splitSectors va.toNat len)
  rw [ht] at hk
  refine congrArg Host.Outcome.next ((if_neg ?_).trans ?_)
  · simp [hostBlocked_of_open ho, hl]
  · unfold hostCtx
    rw [ht]
    refine sendHost_up _ ?_
    rw [linkDown_of_kept (readPieces_kept ..), linkDown_of_kept hk, linkDown_of_open ho]

theorem exec_hostMemoryRead_fault (ho : hostOpen s) (hl : lineOk part va.toNat len = true)
    (ht : translateParts s (hwCtx part false) .r (splitSectors va.toNat len) = (s1, .error f)) :
    exec (.hostMemoryRead part va len) s = .next (eventFree (Claims.sent s1 .error) part 2 va.toNat) := by
  have hk := translateParts_kept s (hwCtx part false) .r (splitSectors va.toNat len)
  rw [ht] at hk
  refine congrArg Host.Outcome.next ((if_neg ?_).trans ?_)
  · simp [hostBlocked_of_open ho, hl]
  · unfold hostCtx
    rw [ht]
    dsimp only
    rw [sendHost_up _ ((linkDown_of_kept hk).trans (linkDown_of_open ho))]

theorem exec_hostMemoryRead_long (ho : hostOpen s) (h : va.toNat % 512 + len > 512) :
    exec (.hostMemoryRead part va len) s = .next (Claims.sent s .error) :=
  congrArg Host.Outcome.next ((if_pos (by simp [lineOk_long h])).trans (sendHost_up _ (linkDown_of_open ho)))

theorem exec_hostMemoryWrite_ok (ho : hostOpen s) (hl : lineOk part va.toNat data.length = true)
    (ht : translateParts s (hwCtx part false) .w (splitSectors va.toNat data.length) = (s1, .ok ps)) :
    exec (.hostMemoryWrite part va data) s = .next ((enabledRuns 0 data).foldl
      (fun x r => (vmWrite x (hwCtx part false) (va.toNat + r.1) r.2).1) s1) := by
  refine congrArg Host.Outcome.next ((if_neg ?_).trans ?_)
  · simp [hostBlocked_of_open ho, hl]
  · unfold hostCtx
    rw [ht]

theorem exec_hostMemoryWrite_fault (ho : hostOpen s) (hl : lineOk part va.toNat data.length = true)
    (ht : translateParts s (hwCtx part false) .w (splitSectors va.toNat data.length) = (s1, .error f)) :
    exec (.hostMemoryWrite part va data) s = .next (eventFree (Claims.sent s1 .error) part 2 va.toNat) := by
  have hk := translateParts_kept s (hwCtx part false) .w (splitSectors va.toNat data.length)
  rw [ht] at hk
  refine congrArg Host.Outcome.next ((if_neg ?_).trans ?_)
  · simp [hostBlocked_of_open ho, hl]
  · unfold hostCtx
    rw [ht]
    dsimp only
    rw [sendHost_up _ ((linkDown_of_kept hk).trans (linkDown_of_open ho))]

theorem exec_hostMemoryWrite_long (ho : hostOpen s) (h : va.toNat % 512 + data.length > 512) :
    exec (.hostMemoryWrite part va data) s = .next (Claims.sent s .error) :=
  congrArg Host.Outcome.next ((if_pos (by simp [lineOk_long h])).trans (sendHost_up _ (linkDown_of_open ho)))

theorem staysPacked_iff {s : State} {va : Nat} {bs : List Byte} : staysPacked s va len ps bs = true ↔
    s.hostCap.getLsbD 0 = true ∧ va % 512 = 0 ∧ len = 512 ∧ (∀ p ∈ ps, p.attr.compr = true ∧ isHost p.pa = false) ∧ sizeTag bs ≠ 7 := by
  simp only [staysPacked, Bool.and_eq_true, beq_iff_eq, bne_iff_ne, List.all_eq_true, Bool.not_eq_true', and_assoc]

end

/-! ## Registers (R430) -/

section
variable {s : State} {offset n : Nat} {data : List Byte}

theorem hostPlace_device (hn : n = 4) (ha : offset % 4 = 0) (h : offset < 0x4000) : hostPlace offset n = .device (offset / 4) := by
  subst hn
  unfold hostPlace
  rw [if_neg (by simp; omega), if_neg (by simp [ha]), if_pos h]

theorem hostPlace_display {o k : Nat} (hn : n = 4) (ho : o < 2) (hk : k < 8) (h : offset = 0x4000 + 0x20 * o + 4 * k) :
    hostPlace offset n = .display o k := by
  subst hn
  have hd : (offset - 0x4000) / 0x20 = o := by omega
  have hi : offset % 0x20 / 4 = k := by omega
  unfold hostPlace
  rw [if_neg (by simp; omega), if_neg (by simp; omega), if_neg (by omega), if_pos (by omega), hd, hi]

theorem hostPlace_enqueue (h1 : 0x10000 ≤ offset) (h2 : offset < 0x18000) :
    hostPlace offset n = .enqueue ((offset - 0x10000) / 0x1000) (offset % 0x1000) := if_pos (by simp [h1, h2])

theorem hostRegisterWrite_eq (ho : hostOpen s) : exec (.hostRegisterWrite offset data) s =
    .next (match hostPlace offset data.length with
      | .device n => deviceWrite s .host n (BitVec.ofNat 32 (leNat data))
      | .display o i => displayWrite s o i (BitVec.ofNat 32 (leNat data))
      | .enqueue p off => enqueueBytes s p off data
      | .invalidate _ _ => sendHost s .error
      | .nothing => sendHost s .error) := by
  refine congrArg Host.Outcome.next ((if_neg ?_).trans ?_)
  · simp [hostBlocked_of_open ho]
  · cases hostPlace offset data.length <;> rfl

theorem exec_hostRegisterWrite_device (ho : hostOpen s) (hn : data.length = 4) (ha : offset % 4 = 0) (h : offset < 0x4000) :
    exec (.hostRegisterWrite offset data) s = .next (deviceWrite s .host (offset / 4) (BitVec.ofNat 32 (leNat data))) := by
  rw [hostRegisterWrite_eq ho, hostPlace_device hn ha h]

theorem exec_hostRegisterWrite_display {o k : Nat} (ho : hostOpen s) (hn : data.length = 4) (hlt : o < 2) (hk : k < 8)
    (h : offset = 0x4000 + 0x20 * o + 4 * k) :
    exec (.hostRegisterWrite offset data) s = .next (displayWrite s o k (BitVec.ofNat 32 (leNat data))) := by
  rw [hostRegisterWrite_eq ho, hostPlace_display hn hlt hk h]

theorem exec_hostRegisterWrite_enqueue (ho : hostOpen s) (h1 : 0x10000 ≤ offset) (h2 : offset < 0x18000) :
    exec (.hostRegisterWrite offset data) s = .next (enqueueBytes s ((offset - 0x10000) / 0x1000) (offset % 0x1000) data) := by
  rw [hostRegisterWrite_eq ho, hostPlace_enqueue h1 h2]

theorem hostPlace_none (he : ¬(0x10000 ≤ offset ∧ offset < 0x18000)) (h : ¬ offset < 0x4040 ∨ offset % 4 ≠ 0 ∨ n ≠ 4) :
    hostPlace offset n = .nothing ∨ ∃ p d, hostPlace offset n = .invalidate p d := by
  unfold hostPlace
  rw [if_neg (by simpa using he)]
  by_cases hal : (offset % 4 != 0 || n != 4) = true
  · exact .inl (if_pos hal)
  · have hbig : ¬ offset < 0x4040 := h.resolve_right fun h => hal (by simpa using h)
    rw [if_neg hal, if_neg (by omega), if_neg hbig]
    split
    · exact .inr ⟨_, _, rfl⟩
    · exact .inl rfl

/-- What is no register and no enqueue is dropped with an error completion. -/
theorem exec_hostRegisterWrite_nothing (ho : hostOpen s) (he : ¬(0x10000 ≤ offset ∧ offset < 0x18000))
    (h : ¬ offset < 0x4040 ∨ offset % 4 ≠ 0 ∨ data.length ≠ 4) :
    exec (.hostRegisterWrite offset data) s = .next (Claims.sent s .error) := by
  rw [hostRegisterWrite_eq ho]
  obtain hp | ⟨p, d, hp⟩ := hostPlace_none he h
  · rw [hp]
    exact congrArg Host.Outcome.next (sendHost_up _ (linkDown_of_open ho))
  · rw [hp]
    exact congrArg Host.Outcome.next (sendHost_up _ (linkDown_of_open ho))

theorem enqueueBytes_short {part off : Nat} (h : data.length ≠ 64) : enqueueBytes s part off data = eventFree s part 1 off :=
  if_pos (by simp [h])

theorem exec_hostEnqueue_open {p off : Nat} {words : List DWord} (ho : hostOpen s) (hp : p < 8) :
    exec (.hostEnqueue p off words) s = .next (enqueueBytes s p off (words.flatMap fun w => leBytes w.toNat 8)) :=
  congrArg Host.Outcome.next (if_neg (by simp [hostBlocked_of_open ho, hp]))

theorem exec_registerCommands {e : (Word → Instr) × Nat} (ho : hostOpen s) (he : e ∈ registerCommands) (v : Word) :
    exec (e.1 v) s = .next (deviceWrite s .host e.2 v) := by
  have hb := hostBlocked_of_open ho
  simp only [registerCommands, List.mem_cons, List.not_mem_nil, or_false] at he
  obtain rfl | rfl | rfl := he
  · exact congrArg Host.Outcome.next (if_neg (by simp [hb]))
  · exact congrArg Host.Outcome.next (if_neg (by simp [hb]))
  · exact congrArg Host.Outcome.next (if_neg (by simp [hb]))

theorem exec_gazeWrite {view : Nat} (ho : hostOpen s) (hv : view < 8) (v : Word) :
    exec (.gazeWrite view v) s = .next { s with gaze := s.gaze.set view v } := by
  refine congrArg Host.Outcome.next ((if_neg ?_).trans ?_)
  · simp [hostBlocked_of_open ho, hv]
  · unfold deviceWrite
    dsimp only
    rw [if_neg (by simp; omega), if_neg (by omega), if_pos (by simp; omega), Nat.add_sub_cancel_left]

theorem exec_capabilityExchange (ho : hostOpen s) (w : DWord) : exec (.capabilityExchange w) s =
    .next (if s.hostCapRead then s else Claims.sent { s with hostCap := w, hostCapRead := true } (.capability 0x104)) := by
  have hb := hostBlocked_of_open ho
  refine congrArg Host.Outcome.next ?_
  rw [hb, Bool.false_or]
  split
  · rfl
  · exact sendHost_up _ (linkDown_of_open (s := { s with hostCap := w, hostCapRead := true }) ho)

theorem displayWrite_beyond {o k : Nat} (h : 3 ≤ k) (v : Word) : displayWrite s o k v = s := by
  obtain ⟨j, rfl⟩ := Nat.exists_eq_add_of_le' h
  rfl

end

/-! ## `dsize` (R434) -/

section
variable {x v : Word}

/-- A size that lies outside 1 to 8192 is not taken. -/
def sizeTaken (new old : Nat) : Nat := if 1 ≤ new ∧ new ≤ 8192 then new else old

theorem putField_low : (putField x v 0 16 1 8192).toNat % 2 ^ 16 = sizeTaken (v.toNat % 2 ^ 16) (x.toNat % 2 ^ 16) ∧
    (putField x v 0 16 1 8192).toNat / 2 ^ 16 = x.toNat / 2 ^ 16 := by
  have hx := x.isLt
  simp only [putField, field, setField, sizeTaken, Bool.and_eq_true, decide_eq_true_eq, Nat.pow_zero, Nat.div_one]
  split
  · simp only [BitVec.toNat_ofNat]
    omega
  · exact ⟨rfl, rfl⟩

theorem putField_high : (putField x v 16 16 1 8192).toNat % 2 ^ 16 = x.toNat % 2 ^ 16 ∧
    (putField x v 16 16 1 8192).toNat / 2 ^ 16 = sizeTaken (v.toNat / 2 ^ 16) (x.toNat / 2 ^ 16) := by
  have hx := x.isLt
  have hv : field v.toNat 16 16 = v.toNat / 2 ^ 16 := Nat.mod_eq_of_lt (by omega)
  simp only [putField, hv, setField, sizeTaken, Bool.and_eq_true, decide_eq_true_eq]
  split
  · simp only [BitVec.toNat_ofNat, field]
    omega
  · exact ⟨rfl, rfl⟩

theorem dsize_written : (putField (putField x v 0 16 1 8192) v 16 16 1 8192).toNat % 2 ^ 16 = sizeTaken (v.toNat % 2 ^ 16) (x.toNat % 2 ^ 16) ∧
    (putField (putField x v 0 16 1 8192) v 16 16 1 8192).toNat / 2 ^ 16 = sizeTaken (v.toNat / 2 ^ 16) (x.toNat / 2 ^ 16) := by
  obtain ⟨hl, hh⟩ := putField_low (x := x) (v := v)
  obtain ⟨hl', hh'⟩ := putField_high (x := putField x v 0 16 1 8192) (v := v)
  exact ⟨hl'.trans hl, hh'.trans (by rw [hh])⟩

end

section
variable {s : State} {offset : Nat} {data : List Byte}

/-- The display registers of an output (Table 19.4), each at its offset. -/
theorem displayRegisters {o : Nat} (ho : hostOpen s) (hlt : o < 2) (hlen : data.length = 4) :
    (offset = 0x4000 + 0x20 * o →
      exec (.hostRegisterWrite offset data) s = exec (.displayEnable o (BitVec.ofNat 32 (leNat data))) s) ∧
    (offset = 0x4004 + 0x20 * o →
      ((outOf s o).dmode.getLsbD 0 = true → exec (.hostRegisterWrite offset data) s =
        .next (hostEvent s 0 3 offset (BitVec.ofNat 32 (leNat data) : Word).toNat)) ∧
      ((outOf s o).dmode.getLsbD 0 = false → ∃ d : Word,
        exec (.hostRegisterWrite offset data) s = .next (modOut s o fun y => { y with dsize := d }) ∧
        d.toNat % 2 ^ 16 = sizeTaken ((BitVec.ofNat 32 (leNat data) : Word).toNat % 2 ^ 16) ((outOf s o).dsize.toNat % 2 ^ 16) ∧
        d.toNat / 2 ^ 16 = sizeTaken ((BitVec.ofNat 32 (leNat data) : Word).toNat / 2 ^ 16) ((outOf s o).dsize.toNat / 2 ^ 16))) ∧
    (offset = 0x4008 + 0x20 * o →
      ((outOf s o).dmode.getLsbD 0 = true → exec (.hostRegisterWrite offset data) s =
        .next (hostEvent s 0 3 offset (BitVec.ofNat 32 (leNat data) : Word).toNat)) ∧
      ((outOf s o).dmode.getLsbD 0 = false → exec (.hostRegisterWrite offset data) s =
        .next (modOut s o fun y => { y with downer := BitVec.ofNat 32 (leNat data) &&& 0xF#32 }))) ∧
    (0x400C + 0x20 * o ≤ offset → offset < 0x4020 + 0x20 * o → offset % 4 = 0 → exec (.hostRegisterWrite offset data) s = .next s) := by
  have hw : ∀ k < 8, offset = 0x4000 + 0x20 * o + 4 * k →
      exec (.hostRegisterWrite offset data) s = .next (displayWrite s o k (BitVec.ofNat 32 (leNat data))) :=
    fun k hk h => exec_hostRegisterWrite_display ho hlen hlt hk h
  refine ⟨fun h => ?_, fun h => ⟨fun hen => ?_, fun hen => ⟨_, ?_, dsize_written⟩⟩, fun h => ⟨fun hen => ?_, fun hen => ?_⟩,
    fun hlo hhi hal => ?_⟩
  · rw [hw 0 (by decide) h, exec_displayEnable ho hlt]
    rfl
  · rw [hw 1 (by decide) (by omega), h]
    exact congrArg Host.Outcome.next ((if_pos hen).trans (by unfold displayIgnored; congr 1; omega))
  · rw [hw 1 (by decide) (by omega)]
    exact congrArg Host.Outcome.next (if_neg (ne_true_of_eq_false hen))
  · rw [hw 2 (by decide) (by omega), h]
    exact congrArg Host.Outcome.next ((if_pos hen).trans (by unfold displayIgnored; congr 1; omega))
  · rw [hw 2 (by decide) (by omega)]
    exact congrArg Host.Outcome.next (if_neg (ne_true_of_eq_false hen))
  · obtain ⟨k, hk3, hk8, hk⟩ : ∃ k, 3 ≤ k ∧ k < 8 ∧ offset = 0x4000 + 0x20 * o + 4 * k :=
      ⟨(offset - (0x4000 + 0x20 * o)) / 4, by omega, by omega, by omega⟩
    rw [hw k hk8 hk, displayWrite_beyond hk3]

end

/-! ## The pieces of an invalidate command (R367) -/

section
variable {s : State} {part die writer piece : Nat} {data : DWord}

/-- The pieces that a writer has written of its command. -/
def writtenPieces (s : State) (part die writer : Nat) : List DWord :=
  (((dieOf s die).window.find? fun e => e.1 == (part, writer)).map fun e => e.2).getD []

/-- The window of a die with a writer's pieces replaced by those of a list. -/
def withPieces (s : State) (part die writer : Nat) (l : List ((Nat × Nat) × List DWord)) : State :=
  modDie s die fun d => { d with window := ((dieOf s die).window.filter fun e => e.1 != (part, writer)) ++ l }

/-- The bits of a whole command. -/
def commandBits (ws : List DWord) : Nat := leNat (ws.flatMap fun w => leBytes w.toNat 8)

theorem exec_invalidateWindowPiece_full (h : 64 ≤ (tget (dieOf s die).inv [] part).length) :
    exec (.invalidateWindowPiece part die writer piece data) s = .next s :=
  congrArg Host.Outcome.next (if_pos (by simp [invFull, h]))

theorem exec_invalidateWindowPiece_room (ho : hostOpen s) (h : (tget (dieOf s die).inv [] part).length < 64) :
    exec (.invalidateWindowPiece part die writer piece data) s =
      .next (windowPiece s part die writer piece data (writerCore writer)) :=
  congrArg Host.Outcome.next (if_neg (by simp [invFull, h, hostBlocked_of_open ho]))

variable {core : Option Nat}

theorem withPieces_nil : withPieces s part die writer [] =
    modDie s die fun d => { d with window := (dieOf s die).window.filter fun e => e.1 != (part, writer) } := by
  unfold withPieces
  rw [List.append_nil]

theorem windowPiece_first :
    windowPiece s part die writer 0 data core = withPieces s part die writer [((part, writer), [data])] := rfl

theorem windowPiece_late (h0 : piece ≠ 0) (h : (writtenPieces s part die writer).length ≠ piece) :
    windowPiece s part die writer piece data core =
      hostEvent (withPieces s part die writer []) part 5 (windowVa s part die + 8 * piece) data.toNat := by
  rw [withPieces_nil]
  exact (if_neg h0).trans (if_pos (bne_iff_ne.mpr h))

theorem windowPiece_next (hp : piece = 1 ∨ piece = 2) (h : (writtenPieces s part die writer).length = piece) :
    windowPiece s part die writer piece data core =
      withPieces s part die writer [((part, writer), writtenPieces s part die writer ++ [data])] := by
  refine (if_neg (by omega)).trans ((if_neg ?_).trans ((if_pos (by omega)).trans ?_))
  · exact fun hne => bne_iff_ne.mp hne h
  · unfold withPieces
    dsimp only
    rw [if_neg (by simp)]
    rfl

/-- The fourth piece completes the command: it enters the queue, or its future fails, or the host is told. -/
theorem windowPiece_fourth (h : (writtenPieces s part die writer).length = 3) :
    windowPiece s part die writer 3 data core =
      let put := withPieces s part die writer []
      let v := commandBits (writtenPieces s part die writer ++ [data])
      let c := parseInv put part die v core
      if c.2 then modDie put die fun d => { d with inv := tset d.inv part (tget d.inv [] part ++ [c.1]) }
      else if field v 128 57 != 0 && field v 128 57 % 32 == 0 then (settleFuture put part false (field v 128 57) 0 true).1
      else hostEvent put part 5 (windowVa put part die) (field v 0 64) := by
  rw [withPieces_nil]
  unfold windowPiece
  dsimp only
  unfold writtenPieces at h ⊢
  rw [if_neg (Nat.succ_ne_zero 2), if_neg (by rw [h]; decide), if_neg (Nat.lt_irrefl 3)]
  rfl

/-- A command as its fourth piece completes it. -/
def wholeCommand (s : State) (part die writer : Nat) (data : DWord) (core : Option Nat) : InvCmd × Bool :=
  parseInv (withPieces s part die writer []) part die (commandBits (writtenPieces s part die writer ++ [data])) core

theorem windowPiece_valid (h : (writtenPieces s part die writer).length = 3) (hok : (wholeCommand s part die writer data core).2 = true) :
    windowPiece s part die writer 3 data core = modDie (withPieces s part die writer []) die fun d =>
      { d with inv := tset d.inv part (tget d.inv [] part ++ [(wholeCommand s part die writer data core).1]) } :=
  (windowPiece_fourth h).trans (if_pos hok)

theorem windowPiece_failing (h : (writtenPieces s part die writer).length = 3) (hbad : (wholeCommand s part die writer data core).2 = false)
    (h0 : field (commandBits (writtenPieces s part die writer ++ [data])) 128 57 ≠ 0)
    (h32 : field (commandBits (writtenPieces s part die writer ++ [data])) 128 57 % 32 = 0) :
    windowPiece s part die writer 3 data core = (settleFuture (withPieces s part die writer []) part false
      (field (commandBits (writtenPieces s part die writer ++ [data])) 128 57) 0 true).1 :=
  (windowPiece_fourth h).trans ((if_neg (ne_true_of_eq_false hbad)).trans
    (if_pos (Bool.and_eq_true_iff.mpr ⟨bne_iff_ne.mpr h0, beq_iff_eq.mpr h32⟩)))

theorem windowPiece_refused (h : (writtenPieces s part die writer).length = 3) (hbad : (wholeCommand s part die writer data core).2 = false)
    (hf : field (commandBits (writtenPieces s part die writer ++ [data])) 128 57 = 0 ∨
      field (commandBits (writtenPieces s part die writer ++ [data])) 128 57 % 32 ≠ 0) :
    windowPiece s part die writer 3 data core = hostEvent (withPieces s part die writer []) part 5
      (windowVa (withPieces s part die writer []) part die) (commandBits (writtenPieces s part die writer ++ [data]) % 2 ^ 64) := by
  refine (windowPiece_fourth h).trans ((if_neg (ne_true_of_eq_false hbad)).trans ((if_neg ?_).trans ?_))
  · rw [Bool.and_eq_true, bne_iff_ne, beq_iff_eq]
    exact fun ⟨h0, h32⟩ => hf.elim h0 fun h => h h32
  · rw [show ∀ v, field v 0 64 = v % 2 ^ 64 from fun v => congrArg (· % 2 ^ 64) (Nat.div_one v)]

/-- What a piece does, by its number and by the pieces of its writer before it. -/
theorem windowPieces (ho : hostOpen s) (part die writer piece : Nat) (data : DWord) :
    (64 ≤ (tget (dieOf s die).inv [] part).length → exec (.invalidateWindowPiece part die writer piece data) s = .next s) ∧
    ((tget (dieOf s die).inv [] part).length < 64 →
      (piece = 0 → exec (.invalidateWindowPiece part die writer piece data) s =
        .next (withPieces s part die writer [((part, writer), [data])])) ∧
      (piece = 1 ∨ piece = 2 → (writtenPieces s part die writer).length = piece →
        exec (.invalidateWindowPiece part die writer piece data) s =
          .next (withPieces s part die writer [((part, writer), writtenPieces s part die writer ++ [data])])) ∧
      (piece ≠ 0 → (writtenPieces s part die writer).length ≠ piece → exec (.invalidateWindowPiece part die writer piece data) s =
        .next (hostEvent (withPieces s part die writer []) part 5 (windowVa s part die + 8 * piece) data.toNat)) ∧
      (piece = 3 → (writtenPieces s part die writer).length = 3 →
        let v := commandBits (writtenPieces s part die writer ++ [data])
        let c := wholeCommand s part die writer data (writerCore writer)
        (c.2 = true → exec (.invalidateWindowPiece part die writer piece data) s = .next (modDie (withPieces s part die writer []) die fun d =>
          { d with inv := tset d.inv part (tget d.inv [] part ++ [c.1]) })) ∧
        (c.2 = false → field v 128 57 ≠ 0 → field v 128 57 % 32 = 0 → exec (.invalidateWindowPiece part die writer piece data) s =
          .next (settleFuture (withPieces s part die writer []) part false (field v 128 57) 0 true).1) ∧
        (c.2 = false → field v 128 57 = 0 ∨ field v 128 57 % 32 ≠ 0 → exec (.invalidateWindowPiece part die writer piece data) s =
          .next (hostEvent (withPieces s part die writer []) part 5 (windowVa (withPieces s part die writer []) part die) (v % 2 ^ 64))))) := by
  refine ⟨exec_invalidateWindowPiece_full, fun hroom => ?_⟩
  rw [exec_invalidateWindowPiece_room ho hroom]
  refine ⟨fun h0 => ?_, fun hp hk => congrArg Host.Outcome.next (windowPiece_next hp hk),
    fun h0 hk => congrArg Host.Outcome.next (windowPiece_late h0 hk), fun h3 hk => ?_⟩
  · subst h0
    exact congrArg Host.Outcome.next windowPiece_first
  · subst h3
    exact ⟨fun hok => congrArg Host.Outcome.next (windowPiece_valid hk hok),
      fun hbad hf0 hf32 => congrArg Host.Outcome.next (windowPiece_failing hk hbad hf0 hf32),
      fun hbad hf => congrArg Host.Outcome.next (windowPiece_refused hk hbad hf)⟩

end

end Sys2Proof.Machine
open Sys2Proof Sys2Proof.Machine Sys2Proof.Claims

/-- Settles O51: memory accesses, registers and the pieces of an invalidate command, one lemma for each outcome. -/
theorem hostAccessResults : Obligations.HostAccessResults := by
  unfold Obligations.HostAccessResults
  intro s ho
  refine ⟨fun part va len hp h1 h2 => ⟨fun s1 ps ht => ?_, fun s1 f ht => ?_⟩, fun part va len h => exec_hostMemoryRead_long ho h,
    fun part va bs hp hne h => ⟨fun s1 ps ht => ?_, fun s1 f ht => ?_⟩, fun part va data hp hne h => ⟨fun s1 ps ht => ?_, fun s1 f ht => ?_⟩,
    fun part va data h => exec_hostMemoryWrite_long ho h, fun data k b => ?_, fun offset data => ?_, fun view v hv => exec_gazeWrite ho hv v,
    fun w => exec_capabilityExchange ho w, fun part die writer piece data => ?_⟩
  · intro x bs
    rw [exec_hostMemoryRead_ok ho (lineOk_of hp h1 h2) ht]
    refine ⟨fun hbad => ?_, fun hgood hd => ?_, fun hgood hcap hva hlen htag hps => ?_⟩
    · rw [if_pos hbad]
    · rw [if_neg (by rw [hgood]; exact Bool.false_ne_true), if_neg]
      rw [staysPacked_iff]
      rintro ⟨hc, -, hl, -, ht⟩
      rcases hd with hd | hd | hd
      · exact Bool.false_ne_true (hd.symm.trans hc)
      · exact hd hl
      · exact ht hd
    · rw [if_neg (by rw [hgood]; exact Bool.false_ne_true), if_pos (staysPacked_iff.mpr ⟨hcap, hva, hlen, hps, htag⟩)]
  · exact ⟨_, exec_hostMemoryRead_fault ho (lineOk_of hp h1 h2) ht, eventFree_given ..⟩
  · have hlen : (bs.map some).length = bs.length := List.length_map ..
    rw [← hlen] at ht h
    rw [exec_hostMemoryWrite_ok ho (lineOk_of hp (by simpa [Nat.one_le_iff_ne_zero] using hne) h) ht, enabledRuns_map_some 0 hne]
    rfl
  · have hlen : (bs.map some).length = bs.length := List.length_map ..
    rw [← hlen] at ht h
    exact ⟨_, exec_hostMemoryWrite_fault ho (lineOk_of hp (by simpa [Nat.one_le_iff_ne_zero] using hne) h) ht, eventFree_given ..⟩
  · exact exec_hostMemoryWrite_ok ho (lineOk_of hp (by simpa [Nat.one_le_iff_ne_zero] using hne) h) ht
  · exact ⟨_, exec_hostMemoryWrite_fault ho (lineOk_of hp (by simpa [Nat.one_le_iff_ne_zero] using hne) h) ht, eventFree_given ..⟩
  · have h := writtenAt_iff_inRun data 0 k b
    rw [Nat.zero_add] at h
    exact h
  · intro v enqueue named
    refine ⟨exec_hostRegisterWrite_device ho, fun he h => exec_hostRegisterWrite_nothing ho he ?_, fun he hlen => ?_,
      fun p hp off hoff words hat hdata => ?_, fun o hlt hlen => ?_, fun e he => exec_registerCommands ho he v⟩
    · rcases h with h | h | h
      · exact .inl fun hlow => h (.inl hlow)
      · exact .inr (.inl h)
      · exact .inr (.inr h)
    · refine ⟨_, exec_hostRegisterWrite_enqueue ho he.1 he.2, ?_⟩
      rw [enqueueBytes_short hlen]
      exact eventFree_given ..
    · rw [exec_hostRegisterWrite_enqueue ho (by omega) (by omega), exec_hostEnqueue_open ho hp, hdata,
        show (offset - 0x10000) / 0x1000 = p by omega, show offset % 0x1000 = off by omega]
    · exact displayRegisters ho hlt hlen
  · exact windowPieces ho part die writer piece data
end

section
/-! SUPPORT. Partitions, recovery points and cold reset (R417, R419, R420, R423 to R425, R440): what a flush, a discard and a stream leave,
and each operation in the case its rule names. -/
namespace Sys2Proof.Machine
open Sys2Proof.Claims

/-! ## Caches of a partition -/

theorem flushPart_kept (s : State) (p : Nat) : kept (flushPart s p) = kept s := by
  have hcore : ∀ s c, kept (drainFlume (combineFlush s c) c) = kept s := fun s c => (drainFlume_kept ..).trans (combineFlush_kept ..)
  have hline : ∀ (d : Nat) s (l : L2Line), kept (if l.part == p then l2WriteBack s d l.line else s) = kept s := fun d s l => by
    split
    · exact l2WriteBack_kept ..
    · rfl
  exact (foldl_kept fun s (d : Nat × Die) => foldl_kept (hline d.1)).trans (foldl_kept hcore)

theorem flushPart_deep (s : State) (p : Nat) : deep (flushPart s p) = deep s := by
  have hcore : ∀ s c, deep (drainFlume (combineFlush s c) c) = deep s := fun s c => (drainFlume_deep ..).trans (combineFlush_deep ..)
  have hline : ∀ (d : Nat) s (l : L2Line), deep (if l.part == p then l2WriteBack s d l.line else s) = deep s := fun d s l => by
    split
    · exact l2WriteBack_deep ..
    · rfl
  exact (foldl_deep fun s (d : Nat × Die) => foldl_deep (hline d.1)).trans (foldl_deep hcore)

theorem office_of_deep {s s' : State} (h : deep s' = deep s) (p : Nat) : office (partOf s' p) = office (partOf s p) :=
  congrArg (fun k => k.2 p) h

theorem pkeyst_of_deep {s s' : State} (h : deep s' = deep s) (p : Nat) : (partOf s' p).pkeyst = (partOf s p).pkeyst :=
  (congrArg Partition.pkeyst (office_of_deep h p) :)

theorem pctl_of_deep {s s' : State} (h : deep s' = deep s) (p : Nat) : (partOf s' p).pctl = (partOf s p).pctl :=
  (congrArg Partition.pctl (office_of_deep h p) :)

theorem desc_of_deep {s s' : State} (h : deep s' = deep s) (p : Nat) : (partOf s' p).desc = (partOf s p).desc :=
  (congrArg Partition.desc (office_of_deep h p) :)

theorem measure_of_deep {s s' : State} (h : deep s' = deep s) (p : Nat) : (partOf s' p).measure = (partOf s p).measure :=
  (congrArg Partition.measure (office_of_deep h p) :)

/-- The caches of a partition's cores empty: no store of a core, no partition and no memory changes. -/
theorem emptyCores (f : Core → Core) (hf : ∀ c, storesOf (f c) = storesOf c) (cs : List Nat) (s : State) :
    kept (cs.foldl (fun s c => modCore s c f) s) = kept s ∧ (cs.foldl (fun s c => modCore s c f) s).partitions = s.partitions ∧
      (cs.foldl (fun s c => modCore s c f) s).mem = s.mem := by
  induction cs generalizing s with
  | nil => exact ⟨rfl, rfl, rfl⟩
  | cons c r ih =>
    obtain ⟨hk, hp, hm⟩ := ih (modCore s c f)
    exact ⟨hk.trans (modCore_kept (hf _)), hp, hm⟩

/-- A core without what its caches hold. -/
def emptied (c : Core) : Core := { c with l1 := [], flume := [], combine := none, icache := [] }

section
variable (s : State) (p : Nat)

theorem discardCaches_kept : kept (discardCaches s p) = kept s := (emptyCores emptied (fun _ => rfl) (partCores s p) s).1

theorem discardCaches_partitions : (discardCaches s p).partitions = s.partitions :=
  (emptyCores emptied (fun _ => rfl) (partCores s p) s).2.1

theorem discardCaches_mem : (discardCaches s p).mem = s.mem := (emptyCores emptied (fun _ => rfl) (partCores s p) s).2.2

/-- No line of the partition stays in an L2, and no frame where the frames go too. -/
theorem discardCaches_l2 {d : Nat × Die} (hd : d ∈ (discardCaches s p).dies) : ∀ l ∈ d.2.l2, l.part ≠ p := by
  obtain ⟨e, -, rfl⟩ := List.mem_map.mp hd
  exact fun l hl => by simpa using (List.mem_filter.mp hl).2

theorem endPartition_dies {d : Nat × Die} (hd : d ∈ (endPartition s p).dies) : (∀ l ∈ d.2.l2, l.part ≠ p) ∧ ∀ f ∈ d.2.frames, f.part ≠ p := by
  obtain ⟨e, he, rfl⟩ := List.mem_map.mp hd
  exact ⟨discardCaches_l2 (flushPart s p) p (d := e) he, fun f hf => by simpa using (List.mem_filter.mp hf).2⟩

theorem endPartition_part : (partOf (endPartition s p) p).desc = none ∧
    (partOf (endPartition s p) p).pkeyst = (partOf s p).pkeyst &&& 0xFFFFFFFE#32 := by
  unfold endPartition
  dsimp only
  rw [partOf_modPart]
  refine ⟨rfl, congrArg (· &&& 0xFFFFFFFE#32) ?_⟩
  have h : (discardCaches (flushPart s p) p).partitions = (flushPart s p).partitions := discardCaches_partitions ..
  exact (congrArg (fun t => (tget t {} p).pkeyst) h).trans (pkeyst_of_deep (flushPart_deep s p) p)

end

/-! ## Enable and disable (R417, R419) -/

section
variable {s : State} {part : Nat} {v : Word}

/-- The register `pctl` of a partition as the host writes it. -/
theorem deviceWrite_pctl (hp : part < 8) : deviceWrite s .host (0x301 + 16 * part) v = pctlWrite s part v := by
  have hd : (0x301 + 16 * part - 0x300) / 16 = part := by omega
  unfold deviceWrite
  dsimp only
  rw [if_neg (by simp; omega), if_neg (by omega), if_neg (by simp; omega), if_neg (by simp; omega), if_pos (by simp; omega), hd,
    show (0x301 + 16 * part) % 16 = 1 by omega]
  rfl

theorem exec_partitionEnable (ho : hostOpen s) (hp : part < 8) (hv : v.getLsbD 0 = true) :
    exec (.partitionEnable part v) s = .next (pctlWrite s part v) := by
  refine congrArg Host.Outcome.next ((if_neg ?_).trans (deviceWrite_pctl hp))
  rw [hostBlocked_of_open ho, hv]
  simpa using hp

theorem exec_partitionDisable (ho : hostOpen s) (hp : part < 8) (hv : v.getLsbD 0 = false) :
    exec (.partitionDisable part v) s = .next (pctlWrite s part v) := by
  refine congrArg Host.Outcome.next ((if_neg ?_).trans (deviceWrite_pctl hp))
  rw [hostBlocked_of_open ho, hv]
  simpa using hp

theorem pctlWrite_refused (h : (partOf s part).pctl.getLsbD 2 = true ∨
      (partOf s part).pctl.getLsbD 0 = true ∧ (v.getLsbD 0 = true ∨ hasWork s part = true)) :
    pctlWrite s part v = configRefused s part (0x301 + 16 * part) v := by
  unfold pctlWrite
  dsimp only
  by_cases hb : (partOf s part).pctl.getLsbD 2 = true
  · rw [if_pos hb]
    rfl
  · obtain ⟨hen, hw⟩ := h.resolve_left hb
    rw [if_neg hb, if_pos hen, if_pos (by simpa using hw)]
    rfl

theorem pctlWrite_enables (h2 : (partOf s part).pctl.getLsbD 2 = false) (h0 : (partOf s part).pctl.getLsbD 0 = false)
    (hv : v.getLsbD 0 = true) : pctlWrite s part v = modPart s part fun q => { q with pctl := (v &&& 2#32) ||| 4#32 } := by
  unfold pctlWrite
  dsimp only
  rw [if_neg (ne_true_of_eq_false h2), if_neg (ne_true_of_eq_false h0), if_pos hv]
  rfl

theorem pctlWrite_ends (h2 : (partOf s part).pctl.getLsbD 2 = false) (h0 : (partOf s part).pctl.getLsbD 0 = true)
    (hv : v.getLsbD 0 = false) (hw : hasWork s part = false) :
    pctlWrite s part v = modPart (endPartition s part) part fun q => { q with pctl := v &&& 2#32 } := by
  unfold pctlWrite
  dsimp only
  rw [if_neg (ne_true_of_eq_false h2), if_pos h0, if_neg (by rw [hv, hw]; exact Bool.false_ne_true)]
  rfl

end

/-! ## Measurement (R423) -/

section
variable {s : State} {part : Nat}

theorem exec_attestationRequest (ho : hostOpen s) (hp : part < 8) (nonce : BitVec 256) : exec (.attestationRequest part nonce) s =
    .next (Claims.sent s (.report (reportBytes s part nonce ++ (List.range 17088).map (Config.attestByte (reportBytes s part nonce))))) := by
  refine congrArg Host.Outcome.next ((if_neg ?_).trans (sendHost_up _ (linkDown_of_open ho)))
  rw [hostBlocked_of_open ho]
  simpa using hp

theorem reportBytes_length (nonce : BitVec 256) :
    (reportBytes s part nonce).length = 88 + 32 * (partOf s part).measure.length := by
  have hm : ∀ l : List (BitVec 256), (l.flatMap fun m => leBytes m.toNat 32).length = 32 * l.length := fun l => by
    induction l with
    | nil => rfl
    | cons m r ih => rw [List.flatMap_cons, List.length_append, leBytes_length, ih, List.length_cons]; omega
  unfold reportBytes
  simp only [List.length_append, leBytes_length, hm]

theorem exec_measurementExtend (ho : hostOpen s) {reg : Nat} (h1 : 1 ≤ reg) (h3 : reg ≤ 3) (hen : (partOf s part).pctl.getLsbD 0 = true)
    (digest : BitVec 256) : exec (.measurementExtend part reg digest) s =
      .next (modPart s part fun q => { q with measure := q.measure.set reg (measureExtend (q.measure.getD reg 0) digest) }) := by
  refine congrArg Host.Outcome.next (if_neg ?_)
  rw [hostBlocked_of_open ho, hen]
  simp
  omega

theorem exec_measurementExtend_ignored {reg : Nat} (h : reg = 0 ∨ 3 < reg ∨ (partOf s part).pctl.getLsbD 0 = false) (digest : BitVec 256) :
    exec (.measurementExtend part reg digest) s = .next s := by
  refine congrArg Host.Outcome.next (if_pos ?_)
  rcases h with h | h | h
  · simp [h]
  · simp [h]
  · rw [h]
    simp

end

/-! ## The enable check (R419) -/

section
variable {s : State} {part : Nat}

theorem hostEvent_pctl (s : State) (part code a b : Nat) : (partOf (hostEvent s part code a b) part).pctl = (partOf s part).pctl := by
  unfold hostEvent
  dsimp only
  split
  · rw [partOf_modPart]
  · rw [partOf_modPart]
    exact pctl_of_deep (hostWords_deep ..) part

theorem enableFailed_pctl (s : State) (part k : Nat) :
    (partOf (eventEnableFailed part k (modPart s part fun q => { q with pctl := q.pctl &&& 2#32 })) part).pctl = (partOf s part).pctl &&& 2#32 := by
  unfold eventEnableFailed
  rw [hostEvent_pctl]
  exact congrArg Partition.pctl (partOf_modPart s part fun q => { q with pctl := q.pctl &&& 2#32 })

theorem clearTables_deep (s : State) (p : Nat) (d : PartDesc) : deep (clearTables s p d) = deep s := by
  have hp : ∀ s va n, deep (clearPages s p va n) = deep s := fun s va n => foldl_deep fun _ _ => hwWrite_deep ..
  exact (hp ..).trans (hp ..)

/-- The partition with the key generation that an enable draws. -/
def keyed (s : State) (part : Nat) : State :=
  modPart s part fun q => { q with pkeyst := BitVec.ofNat 32 (2 * (q.pkeyst.toNat / 2 + 1) + 1) }

theorem exec_checkDone_idle (h : (partOf s part).pctl.getLsbD 2 = false) : exec (.partitionEnableCheckDone part) s = .next s :=
  congrArg Host.Outcome.next (if_pos (by rw [h]; rfl))

theorem exec_checkDone_error {k : Nat} (h : (partOf s part).pctl.getLsbD 2 = true) (hk : enableCheck (keyed s part) part = .error k) :
    exec (.partitionEnableCheckDone part) s = .next (eventEnableFailed part k (modPart s part fun q => { q with pctl := q.pctl &&& 2#32 })) := by
  refine congrArg Host.Outcome.next ((if_neg (by rw [h]; exact Bool.false_ne_true)).trans ?_)
  unfold keyed at hk
  dsimp only
  rw [hk]
  rfl

/-- The partition that an enable leaves: enabled, with its descriptor and a fresh measurement. -/
def enabledPart (s : State) (part : Nat) (d : PartDesc) : State :=
  modPart (keyed s part) part fun q =>
    { q with
      pctl := (q.pctl &&& 2#32) ||| 1#32, desc := some d
      measure := [measureExtend 0 (digestOf (Config.measuredBytes (measuredWords (keyed s part) part d))), 0, 0, 0] }

theorem partOf_enabledPart (s : State) (part : Nat) (d : PartDesc) : partOf (enabledPart s part d) part =
    { partOf s part with
      pkeyst := BitVec.ofNat 32 (2 * ((partOf s part).pkeyst.toNat / 2 + 1) + 1)
      pctl := ((partOf s part).pctl &&& 2#32) ||| 1#32, desc := some d
      measure := [measureExtend 0 (digestOf (Config.measuredBytes (measuredWords (keyed s part) part d))), 0, 0, 0] } := by
  have hk : partOf (keyed s part) part = { partOf s part with pkeyst := BitVec.ofNat 32 (2 * ((partOf s part).pkeyst.toNat / 2 + 1) + 1) } := by
    unfold keyed
    rw [partOf_modPart]
  unfold enabledPart
  rw [partOf_modPart, hk]

theorem exec_checkDone_ok {d : PartDesc} (h : (partOf s part).pctl.getLsbD 2 = true) (hd : enableCheck (keyed s part) part = .ok d) :
    exec (.partitionEnableCheckDone part) s = .next (clearTables (enabledPart s part d) part d) := by
  refine congrArg Host.Outcome.next ((if_neg (by rw [h]; exact Bool.false_ne_true)).trans ?_)
  unfold keyed at hd
  dsimp only
  rw [hd]
  rfl

/-- The next key generation, with the key loaded. -/
theorem nextKey (p : Word) (h : p.toNat < 2 ^ 31) : (BitVec.ofNat 32 (2 * (p.toNat / 2 + 1) + 1)).toNat / 2 = p.toNat / 2 + 1 ∧
    (BitVec.ofNat 32 (2 * (p.toNat / 2 + 1) + 1)).getLsbD 0 = true := by
  have hlt : 2 * (p.toNat / 2 + 1) + 1 < 2 ^ 32 := by omega
  refine ⟨?_, ?_⟩
  · rw [BitVec.toNat_ofNat, Nat.mod_eq_of_lt hlt]
    omega
  · rw [BitVec.getLsbD_ofNat, Nat.testBit_zero]
    simp

end

/-! ## Streams (R424, R425) -/

section
variable {m : Mem}

/-- Memory without the cells that a test names. -/
theorem memGet_filter (m : Mem) (p : Nat → Bool) (a : Nat) : memGet (m.filter fun c => !(p c.1)) a = if p a then 0 else memGet m a := by
  induction m with
  | nil => simp [memGet]
  | cons c r ih =>
    obtain ⟨i, w⟩ := c
    rw [List.filter_cons]
    by_cases hi : i = a
    · subst hi
      cases hp : p i <;> simp [hp, memGet, ih]
    · cases hp : p i <;> simp [memGet, hi, ih]

/-- The memory with the sectors of a stream written. -/
def withSectors (m : Mem) (es : List StreamSector) : Mem := es.foldl (fun m e => memWrite m (64 * e.sector) e.bytes) m

theorem withSectors_wf (hm : memWf m = true) (es : List StreamSector) : memWf (withSectors m es) = true := by
  induction es generalizing m with
  | nil => exact hm
  | cons e r ih => exact ih (memWrite_wf hm _ _)

theorem memGet_withSectors_other (hm : memWf m = true) {es : List StreamSector} (hl : ∀ e ∈ es, e.bytes.length = 64) {a : Nat}
    (ha : ∀ e ∈ es, e.sector ≠ a / 64) : memGet (withSectors m es) a = memGet m a := by
  induction es generalizing m with
  | nil => rfl
  | cons e r ih =>
    obtain ⟨hle, hlr⟩ := List.forall_mem_cons.mp hl
    obtain ⟨hae, har⟩ := List.forall_mem_cons.mp ha
    exact (ih (memWrite_wf hm _ _) hlr har).trans (memGet_memWrite_other hm (by omega))

theorem memRead_withSectors_other (hm : memWf m = true) {es : List StreamSector} (hl : ∀ e ∈ es, e.bytes.length = 64) {n : Nat}
    (hn : ∀ e ∈ es, e.sector ≠ n) : memRead (withSectors m es) (64 * n) 64 = memRead m (64 * n) 64 := by
  induction es generalizing m with
  | nil => rfl
  | cons e r ih =>
    obtain ⟨hle, hlr⟩ := List.forall_mem_cons.mp hl
    obtain ⟨hne, hnr⟩ := List.forall_mem_cons.mp hn
    exact (ih (memWrite_wf hm _ _) hlr hnr).trans (memRead_memWrite_other hm (by omega))

theorem memRead_withSectors (hm : memWf m = true) {es : List StreamSector} (hl : ∀ e ∈ es, e.bytes.length = 64)
    (hd : (es.map fun e => e.sector).Nodup) {e : StreamSector} (he : e ∈ es) :
    memRead (withSectors m es) (64 * e.sector) 64 = e.bytes := by
  induction es generalizing m with
  | nil => cases he
  | cons x r ih =>
    obtain ⟨hlx, hlr⟩ := List.forall_mem_cons.mp hl
    obtain ⟨hx, hr⟩ := List.nodup_cons.mp hd
    rcases List.mem_cons.mp he with rfl | he
    · refine (memRead_withSectors_other (memWrite_wf hm _ _) hlr fun y hy hyx => hx (List.mem_map.mpr ⟨y, hy, hyx⟩)).trans ?_
      exact (congrArg (memRead _ _) hlx.symm).trans (memRead_memWrite hm _ _)
    · exact ih (memWrite_wf hm _ _) hlr hr he

end

section
variable {s : State} {part : Nat} {x : Stream}

theorem restoreStream_kept (s : State) (x : Stream) : kept (restoreStream s x) = kept s := foldl_kept fun _ _ => rfl

theorem restoreStream_mem (s : State) (x : Stream) :
    (restoreStream s x).mem = withSectors (s.mem.filter fun c => !(ownsPa s x.part (64 * (c.1 / 64)))) x.sectors := by
  have h : ∀ (es : List StreamSector) (t : State) (g : State → StreamSector → State),
      (∀ t e, (g t e).mem = memWrite t.mem (64 * e.sector) e.bytes) → (es.foldl g t).mem = withSectors t.mem es := by
    intro es
    induction es with
    | nil => exact fun _ _ _ => rfl
    | cons e r ih => exact fun t g hg => (ih (g t e) g hg).trans (congrArg (withSectors · r) (hg t e))
  exact h x.sectors _ _ fun _ _ => rfl

/-- The state that a roll-back leaves, before the write log is returned. -/
def rolledBack (s : State) (part : Nat) (x : Stream) : State := restoreStream (discardCaches (dropWork s part) part) x

theorem rolledBack_kept : kept (rolledBack s part x) = kept (dropWork s part) := (restoreStream_kept ..).trans (discardCaches_kept ..)

theorem rolledBack_mem : (rolledBack s part x).mem =
    withSectors (s.mem.filter fun c => !(ownsPa s x.part (64 * (c.1 / 64)))) x.sectors := by
  have hr : (discardCaches (dropWork s part) part).regions = s.regions :=
    congrArg (fun k => k.1.regions) (discardCaches_kept (dropWork s part) part)
  refine (restoreStream_mem ..).trans ?_
  unfold ownsPa
  rw [discardCaches_mem, hr]
  rfl

theorem exec_rollback (ho : hostOpen s) {k : Nat} (hx : s.streams[k]? = some x) (hp : x.part = part)
    (hg : x.gen = (partOf s part).pkeyst.toNat / 2) : exec (.rollback part k) s =
      .next (Claims.sent (rolledBack s part x) (.writeLog (partOf s part).writeLog (partOf s part).logOverflow)) := by
  refine congrArg Host.Outcome.next ((if_neg (ne_true_of_eq_false (hostBlocked_of_open ho))).trans ?_)
  rw [hx]
  refine (if_neg ?_).trans (sendHost_up _ ((linkDown_of_kept rolledBack_kept).trans (linkDown_of_open ho)))
  simp [hp, hg, keyGen]

/-! ## Recovery points (R424) -/

/-- The stream of a recovery point: the partition as its flush leaves it, for an address. -/
def pointStream (s : State) (part : Nat) (addr : DWord) : Stream := { streamOf (flushPart s part) part with addr := addr }

/-- A stream as it leaves the device. -/
def sealedStream (x : Stream) : Stream := { x with sectors := x.sectors.map encrypted }

/-- The state that a recovery point leaves, before the stream is sent. -/
def pointed (s : State) (part : Nat) (addr : DWord) : State :=
  modPart (writeStream { flushPart s part with streams := (flushPart s part).streams ++ [pointStream s part addr] }
    (sealedStream (pointStream s part addr))) part fun q => { q with writeLog := [], logOverflow := false }

theorem writeStream_kept (s : State) (x : Stream) : kept (writeStream s x) = kept s := by
  unfold writeStream
  dsimp only
  split
  · rfl
  · rfl

theorem pointed_kept (s : State) (part : Nat) (addr : DWord) :
    kept (pointed s part addr) = kept { s with streams := s.streams ++ [pointStream s part addr] } := by
  refine (modPart_kept ..).trans ((writeStream_kept ..).trans ?_)
  have h := flushPart_kept s part
  exact congrArg (fun k => ({ k.1 with streams := k.1.streams ++ [pointStream s part addr] }, k.2)) h

theorem exec_recoveryPoint (ho : hostOpen s) (hp : part < 8) (hw : hasWork s part = false) (addr : DWord) :
    exec (.recoveryPoint part addr) s =
      .next (Claims.sent (pointed s part addr) (.stream (sealedStream (pointStream s part addr)))) := by
  refine congrArg Host.Outcome.next ((if_neg ?_).trans ((if_neg (ne_true_of_eq_false hw)).trans (sendHost_up _ ?_)))
  · rw [hostBlocked_of_open ho]
    simpa using hp
  · exact (linkDown_of_kept (pointed_kept ..)).trans (linkDown_of_open ho)

theorem mem_heldSectors {n : Nat} (h : n ∈ heldSectors s part) : ownsPa s part (64 * n) = true := by
  have hsub : ∀ (l : List Nat), n ∈ l.foldr (fun n l => if l.head? = some n then l else n :: l) [] → n ∈ l := fun l => by
    induction l with
    | nil => exact id
    | cons a r ih =>
      rw [List.foldr_cons]
      split
      · exact fun h => List.mem_cons_of_mem a (ih h)
      · exact fun h => (List.mem_cons.mp h).elim (fun h => h ▸ List.mem_cons_self) fun h => List.mem_cons_of_mem a (ih h)
  exact (List.mem_filter.mp ((sortBy_perm _ _).mem_iff.mp (hsub _ h))).2

theorem ownsPa_of_kept {s s' : State} (h : kept s' = kept s) (p pa : Nat) : ownsPa s' p pa = ownsPa s p pa := by
  unfold ownsPa
  rw [show s'.regions = s.regions from congrArg (fun k => k.1.regions) h]

theorem pointStream_sectors (addr : DWord) {e : StreamSector} (he : e ∈ (pointStream s part addr).sectors) :
    ownsPa s part (64 * e.sector) = true := by
  obtain ⟨n, hn, rfl⟩ := List.mem_map.mp he
  exact (ownsPa_of_kept (flushPart_kept s part) ..).symm.trans (mem_heldSectors hn)

theorem pointStream_gen (addr : DWord) : (pointStream s part addr).gen = (partOf s part).pkeyst.toNat / 2 :=
  congrArg (fun w : Word => w.toNat / 2) (pkeyst_of_deep (flushPart_deep s part) part)

theorem pointStream_ranges (addr : DWord) : (pointStream s part addr).ranges = s.regions.filter fun r => r.part == part :=
  congrArg (fun k => k.1.regions.filter fun r => r.part == part) (flushPart_kept s part)

theorem pointed_log (addr : DWord) :
    (partOf (pointed s part addr) part).writeLog = [] ∧ (partOf (pointed s part addr) part).logOverflow = false := by
  unfold pointed
  rw [partOf_modPart]
  exact ⟨rfl, rfl⟩

/-- The stream's bytes stand in host memory from its address on. -/
theorem pointed_mem (addr : DWord) (hm : memoriesWf s = true) (hh : isHost addr.toNat = true) {k : Nat}
    (hk : k < Config.streamLength (sealedStream (pointStream s part addr))) (hlt : addr.toNat + k < 2 ^ 52) :
    memGet (pointed s part addr).mem (addr.toNat + k) = Config.streamByte (sealedStream (pointStream s part addr)) k := by
  have hwf : memWf (flushPart s part).mem = true := (Laws.flushPart_canon s part ((Laws.memoriesWf_iff s).mp hm)).1
  have he : (pointed s part addr).mem = memWrite (flushPart s part).mem addr.toNat
      ((List.range (min (Config.streamLength (sealedStream (pointStream s part addr))) (2 ^ 52 - addr.toNat))).map
        (Config.streamByte (sealedStream (pointStream s part addr)))) := by
    show (writeStream _ _).mem = _
    unfold writeStream
    exact congrArg State.mem (if_pos hh)
  have hn : k < min (Config.streamLength (sealedStream (pointStream s part addr))) (2 ^ 52 - addr.toNat) := by omega
  rw [he, memGet_memWrite hwf, if_pos (by rw [List.length_map, List.length_range]; omega), Nat.add_sub_cancel_left,
    List.getD_eq_getElem?_getD, List.getElem?_map, List.getElem?_range hn]
  rfl

end

/-! ## Cold reset (R422, R440) -/

theorem imageVerifies_iff (x : BootImage) : imageVerifies x = true ↔
    digestOf x.key = Config.fusedHash ∧ Config.slhVerifies x.key x.image x.signature = true ∧ Config.fusedVersion ≤ x.version := by
  simp only [imageVerifies, Bool.and_eq_true, beq_iff_eq, decide_eq_true_eq, and_assoc]

/-- The device after a cold reset, before verified firmware publishes the capability word. -/
def reborn (s : State) : State :=
  { State.reset with
    agenda := s.agenda, fresh := s.fresh, names := s.names, mem := s.mem, poison := s.poison, sizeTags := s.sizeTags
    sealed := s.sealed.map fun e => (e.1, (8, 0))
    bootWindow := s.bootWindow, running := s.bootWindow.filter imageVerifies, booted := (s.bootWindow.filter imageVerifies).isSome
    untrained := s.untrained, modulesDown := s.untrained
    hostOut := s.hostOut ++ [.bootStatus (s.bootWindow.filter imageVerifies).isSome s.untrained], streams := s.streams }

/-- What a cold reset leaves: the device as new, with what has been sent. -/
theorem exec_coldReset (s : State) : exec .coldReset s = .next { reborn s with
    hostOut := (reborn s).hostOut ++
      (if (reborn s).booted = true ∧ s.untrained.length ≠ 4 then [.capability 0x104] else []) } := by
  refine congrArg Host.Outcome.next (?_ : (if (reborn s).booted = true then sendHost (reborn s) (.capability deviceCap) else reborn s) = _)
  by_cases hb : (reborn s).booted = true
  · rw [if_pos hb]
    by_cases hm : s.untrained.length = 4
    · rw [if_neg fun h => h.2 hm, List.append_nil]
      exact if_pos (decide_eq_true hm)
    · rw [if_pos ⟨hb, hm⟩]
      exact if_neg fun h => hm (of_decide_eq_true h)
  · rw [if_neg hb, if_neg fun h => hb h.1, List.append_nil]

end Sys2Proof.Machine
open Sys2Proof Sys2Proof.Machine Sys2Proof.Claims

/-- Settles O54: enable and disable, measurement, recovery points, roll-back, the enable check and cold reset, each from its lemma. -/
theorem partitionAndRecoveryResults : Obligations.PartitionAndRecoveryResults := by
  unfold Obligations.PartitionAndRecoveryResults
  refine ⟨fun s part v ho hp => ?_, fun s part => ?_, imageVerifies_iff, fun s => ?_⟩
  · refine ⟨fun hv => ⟨fun h => ?_, fun h2 h0 => ?_⟩, fun hv h2 h0 => ⟨fun hw => ?_, fun hw => ?_⟩, exec_attestationRequest ho hp,
      fun nonce => reportBytes_length nonce, fun reg digest h1 h3 hen => exec_measurementExtend ho h1 h3 hen digest,
      fun reg digest h => exec_measurementExtend_ignored h digest, fun pa hw => ?_, fun k x hx hxp hg hm hd hl => ?_⟩
    · rw [exec_partitionEnable ho hp hv, pctlWrite_refused (h.imp_right fun h0 => ⟨h0, .inl hv⟩)]
    · rw [exec_partitionEnable ho hp hv, pctlWrite_enables h2 h0 hv]
    · rw [exec_partitionDisable ho hp hv, pctlWrite_refused (.inr ⟨h0, .inr hw⟩)]
    · refine ⟨_, exec_partitionDisable ho hp hv, ?_⟩
      obtain ⟨hdesc, hkey⟩ := endPartition_part s part
      rw [pctlWrite_ends h2 h0 hv hw, partOf_modPart]
      exact ⟨rfl, hdesc, hkey, fun d hd => endPartition_dies s part hd⟩
    · have hk := pointed_kept s part pa
      refine ⟨_, exec_recoveryPoint ho hp hw pa, pointStream s part pa, congrArg (fun k => k.1.streams) hk, ?_, rfl, rfl,
        pointStream_ranges pa, fun hm hh k hk hlt => pointed_mem pa hm hh hk hlt, fun e he => pointStream_sectors pa he, pointStream_gen pa,
        ?_, ?_, congrArg (fun k => k.1.groups) hk, congrArg (fun k => k.1.grids) hk⟩
      · exact congrArg (fun l => l ++ [HostOut.stream (sealedStream (pointStream s part pa))]) (congrArg (fun k => k.1.hostOut) hk)
      · exact (pointed_log pa).1
      · exact (pointed_log pa).2
    · have hk := rolledBack_kept (s := s) (part := part) (x := x)
      have hmem := rolledBack_mem (s := s) (part := part) (x := x)
      have hwf : memWf (s.mem.filter fun c => !(ownsPa s x.part (64 * (c.1 / 64)))) = true := memFilter_wf ((Laws.memoriesWf_iff s).mp hm).1 _
      refine ⟨_, exec_rollback ho hx hxp hg, fun g hgr => ?_, fun g hgr => ?_, ?_, fun e he => ?_, fun a ha => ?_⟩
      · rw [show (Claims.sent (rolledBack s part x) _).groups = (dropWork s part).groups from congrArg (fun k => k.1.groups) hk] at hgr
        simpa using (List.mem_filter.mp hgr).2
      · rw [show (Claims.sent (rolledBack s part x) _).grids = (dropWork s part).grids from congrArg (fun k => k.1.grids) hk] at hgr
        simpa using (List.mem_filter.mp hgr).2
      · exact congrArg (fun l => l ++ [HostOut.writeLog _ _]) (congrArg (fun k => k.1.hostOut) hk)
      · show memRead (rolledBack s part x).mem _ 64 = _
        rw [hmem]
        exact memRead_withSectors hwf hl hd he
      · show memGet (rolledBack s part x).mem a = _
        rw [hmem, memGet_withSectors_other hwf hl ha, ← hxp]
        exact memGet_filter s.mem (fun n => ownsPa s x.part (64 * (n / 64))) a
  · refine ⟨exec_checkDone_idle, fun k h2 hk => ?_, fun d h2 hd hlt => ?_⟩
    · refine ⟨_, exec_checkDone_error h2 hk, ?_, _, _, rfl⟩
      exact enableFailed_pctl s part k
    · obtain ⟨hgen, hbit⟩ := nextKey (partOf s part).pkeyst hlt
      have hk := clearTables_deep (enabledPart s part d) part d
      have hkey := pkeyst_of_deep hk part
      refine ⟨_, exec_checkDone_ok h2 hd, (pctl_of_deep hk part).trans ?_, (desc_of_deep hk part).trans ?_, ?_, ?_, ?_⟩
      · rw [partOf_enabledPart]
      · rw [partOf_enabledPart]
      · rw [hkey, partOf_enabledPart]
        exact hgen
      · rw [hkey, partOf_enabledPart]
        exact hbit
      · rw [measure_of_deep hk part, partOf_enabledPart]
        rfl
  · refine ⟨_, exec_coldReset s, rfl, rfl, rfl, rfl, rfl, rfl, rfl, rfl, rfl, rfl, rfl, ?_, rfl, rfl, ?_, fun e he p hp => ?_⟩
    · exact (by decide : (0x83#32).getLsbD 0 = true)
    · exact List.append_assoc ..
    · obtain ⟨x, -, rfl⟩ := List.mem_map.mp he
      exact (Nat.ne_of_lt hp).symm
end

section
/-! SUPPORT. The functions of Table 5.9 (R131): their one rounding in the lanes, the integer square root, the numbers that stand for
irrational results, and the arguments whose result is exact. -/
namespace Sys2Proof.Machine
open Sys2Proof.Claims

/-! ## In the lanes -/

theorem laneDone_transcend {ins : Instr} {fn : Fn} {o : RUn} {s : State} {i : Issue} {rest : List Issue}
    (hx : exec ins s = .next (runLanes s 1 (un32 .f32 o (f32Un (transcend fn))))) (hd : Head s i rest)
    (hr : ∀ m ∈ i.members, reads32 s .f32 o.a m) :
    LaneDone ins s i rest 1
      (fun g t => put32 t o.nw o.d (BitVec.ofNat 32 (functionResult fn g.ctl.fpm (src32 .f32 g t o.a).toNat).1))
      fun g t => (functionResult fn g.ctl.fpm (src32 .f32 g t o.a).toNat).2 := laneDone_un32 hx hd hr

/-! ## The integer square root -/

theorem isqrtBits_spec {n : Nat} (b r : Nat) (hr : r * r ≤ n) (hn : n < (r + 2 ^ b) * (r + 2 ^ b)) :
    isqrtBits n b r * isqrtBits n b r ≤ n ∧ n < (isqrtBits n b r + 1) * (isqrtBits n b r + 1) := by
  induction b generalizing r with
  | zero => exact ⟨hr, hn⟩
  | succ b ih =>
    unfold isqrtBits
    split
    · next h => exact ih _ h (by rwa [Nat.add_assoc, ← Nat.two_mul, ← Nat.pow_succ'])
    · next h => exact ih _ hr (Nat.lt_of_not_le h)

theorem isqrt_spec (n : Nat) : isqrt n * isqrt n ≤ n ∧ n < (isqrt n + 1) * (isqrt n + 1) := by
  refine isqrtBits_spec _ 0 (Nat.zero_le n) ?_
  rw [Nat.zero_add, ← Nat.pow_add]
  refine Nat.lt_of_lt_of_le (Nat.lt_log2_self (n := n)) (Nat.pow_le_pow_right (by decide) ?_)
  omega

theorem le_isqrt {a n : Nat} (h : a * a ≤ n) : a ≤ isqrt n := by
  refine Nat.le_of_lt_succ (Nat.lt_of_not_le fun hle => ?_)
  exact Nat.not_lt_of_le (Nat.le_trans (Nat.mul_le_mul hle hle) h) (isqrt_spec n).2

/-! ## Numbers -/

theorem isNumber_fin (n : Nat) (q : Int) : isNumber (.fin false n q) (n * (2 : ℚ) ^ q) := by
  simp [isNumber, place]

/-- The number that stands for a result between two others lies midway. -/
theorem isNumber_between (n : Nat) (q : Int) : isNumber (between false n q) ((n + 1 / 2) * (2 : ℚ) ^ q) := by
  have h := isNumber_fin (2 * n + 1) (q - 1)
  rw [zpow_sub_one₀ two_ne_zero] at h
  unfold between
  convert h using 1
  push_cast
  ring

/-- The square of a number midway between n and n + 1 is near every number between their squares. -/
theorem midway_sq {n : Nat} {x : ℚ} (hn : 2 ^ 61 ≤ n) (hl : (n * n : ℚ) ≤ x) (hu : x ≤ (n + 1) * (n + 1)) :
    |(n + 1 / 2) * (n + 1 / 2) / x - 1| ≤ 1 / 2 ^ 60 := by
  have hn' : (2 ^ 61 : ℚ) ≤ n := by exact_mod_cast hn
  have hx : 0 < x := by nlinarith
  have habs : |((n : ℚ) + 1 / 2) * (n + 1 / 2) - x| ≤ n + 1 := abs_le.mpr ⟨by nlinarith, by nlinarith⟩
  rw [div_sub_one hx.ne', abs_div, abs_of_pos hx, div_le_div_iff₀ hx (by norm_num), one_mul]
  calc |((n : ℚ) + 1 / 2) * (n + 1 / 2) - x| * 2 ^ 60 ≤ (n + 1) * 2 ^ 60 := mul_le_mul_of_nonneg_right habs (by norm_num)
    _ ≤ n * n := by nlinarith
    _ ≤ x := hl

/-! ## Reciprocal and roots -/

theorem rcpVal_near {m : Nat} (hm : m ≠ 0) (e : Int) :
    ∃ v : ℚ, isNumber (rcpVal false m e) v ∧ |v * (m * (2 : ℚ) ^ e) - 1| ≤ 1 / 2 ^ 60 := by
  have hscale : ∀ k : Nat, (2 : ℚ) ^ (-e - (k : Int)) * 2 ^ e = 1 / 2 ^ k := fun k => by
    rw [← zpow_add₀ two_ne_zero, show -e - (k : Int) + e = -k by ring, zpow_neg, zpow_natCast, one_div]
  unfold rcpVal
  dsimp only
  generalize hk : Nat.log2 m + 64 = k
  split
  · next h =>
    have h' : (((2 ^ k / m : Nat) : ℚ)) * m = 2 ^ k := by exact_mod_cast beq_iff_eq.mp h
    refine ⟨_, isNumber_fin _ _, ?_⟩
    rw [show ∀ a b c d : ℚ, a * b * (c * d) = a * c * (b * d) from fun a b c d => by ring, hscale, h',
      mul_one_div_cancel (by positivity), sub_self, abs_zero]
    positivity
  · refine ⟨_, isNumber_between _ _, ?_⟩
    have hm0 : 0 < m := Nat.pos_of_ne_zero hm
    have hlow : ((2 ^ k / m : Nat) : ℚ) * m ≤ 2 ^ k := by exact_mod_cast Nat.div_mul_le_self _ _
    have hhigh : (2 ^ k : ℚ) ≤ ((2 ^ k / m : Nat) : ℚ) * m + m := by
      have := Nat.lt_div_mul_add hm0 (a := 2 ^ k)
      exact_mod_cast this.le
    have hbig : (m : ℚ) * 2 ^ 63 ≤ 2 ^ k := by
      have hlt : m < 2 ^ (Nat.log2 m + 1) := Nat.lt_log2_self
      have : m * 2 ^ 63 ≤ 2 ^ k := by
        rw [← hk, show Nat.log2 m + 64 = Nat.log2 m + 1 + 63 by omega, Nat.pow_add]
        exact Nat.mul_le_mul_right _ hlt.le
      exact_mod_cast this
    rw [show ∀ a b c d : ℚ, a * b * (c * d) = a * c * (b * d) from fun a b c d => by ring, hscale, mul_one_div, div_sub_one (by positivity),
      abs_div, abs_of_pos (by positivity : (0 : ℚ) < 2 ^ k), div_le_div_iff₀ (by positivity) (by positivity), one_mul]
    have habs : |((2 ^ k / m : Nat) + 1 / 2 : ℚ) * m - 2 ^ k| ≤ m / 2 := abs_le.mpr ⟨by linarith, by linarith⟩
    have hpow : (2 : ℚ) ^ 60 ≤ 2 ^ 63 := by norm_num
    nlinarith

/-- The square root of m × 2^e for an even e. -/
def sqrtEven (m : Nat) (e : Int) : FVal :=
  let n := isqrt (m * 2 ^ 128)
  if n * n == m * 2 ^ 128 then .fin false n (e / 2 - 64) else between false n (e / 2 - 64)

/-- The reciprocal of the square root of m × 2^e for an even e. -/
def rsqEven (m : Nat) (e : Int) : FVal :=
  let k := Nat.log2 m + 64
  let n := isqrt (2 ^ (2 * k) / m)
  if n * n * m == 2 ^ (2 * k) then .fin false n (-(e / 2) - k) else between false n (-(e / 2) - k)

theorem sqrtVal_eq (m : Nat) (e : Int) : sqrtVal m e = if e % 2 = 0 then sqrtEven m e else sqrtEven (2 * m) (e - 1) := by
  unfold sqrtVal
  by_cases he : e % 2 = 0
  · rw [if_pos he, if_pos he]
    rfl
  · rw [if_neg he, if_neg he]
    rfl

theorem rsqVal_eq (m : Nat) (e : Int) : rsqVal m e = if e % 2 = 0 then rsqEven m e else rsqEven (2 * m) (e - 1) := by
  unfold rsqVal
  by_cases he : e % 2 = 0
  · rw [if_pos he, if_pos he]
    rfl
  · rw [if_neg he, if_neg he]
    rfl

theorem half_zpow {e : Int} (he : e % 2 = 0) : (2 : ℚ) ^ (e / 2) * 2 ^ (e / 2) = 2 ^ e := by
  rw [← zpow_add₀ two_ne_zero]
  congr 1
  omega

theorem sqrtEven_near {m : Nat} (hm : m ≠ 0) {e : Int} (he : e % 2 = 0) :
    ∃ v : ℚ, isNumber (sqrtEven m e) v ∧ 0 ≤ v ∧ |v * v / (m * (2 : ℚ) ^ e) - 1| ≤ 1 / 2 ^ 60 := by
  have hm0 : (0 : ℚ) < m := by exact_mod_cast Nat.pos_of_ne_zero hm
  have hv : ∀ a : ℚ, a * 2 ^ (e / 2 - 64) * (a * 2 ^ (e / 2 - 64)) / (m * 2 ^ e) = a * a / (m * 2 ^ 128) := fun a => by
    rw [← half_zpow he, zpow_sub₀ two_ne_zero]
    have hp : (2 : ℚ) ^ (e / 2) ≠ 0 := zpow_ne_zero _ two_ne_zero
    field_simp
  obtain ⟨hlow, hhigh⟩ := isqrt_spec (m * 2 ^ 128)
  unfold sqrtEven
  dsimp only
  split
  · next h =>
    refine ⟨_, isNumber_fin _ _, by positivity, ?_⟩
    have h' : ((isqrt (m * 2 ^ 128) : Nat) : ℚ) * isqrt (m * 2 ^ 128) = m * 2 ^ 128 := by exact_mod_cast beq_iff_eq.mp h
    rw [hv, h', div_self (by positivity), sub_self, abs_zero]
    positivity
  · refine ⟨_, isNumber_between _ _, by positivity, ?_⟩
    rw [hv]
    refine midway_sq (Nat.le_trans (by norm_num) (le_isqrt (a := 2 ^ 64) ?_)) (by exact_mod_cast hlow) (by exact_mod_cast hhigh.le)
    rw [← Nat.pow_add]
    exact Nat.le_mul_of_pos_left _ (Nat.pos_of_ne_zero hm)

theorem rsqEven_near {m : Nat} (hm : m ≠ 0) {e : Int} (he : e % 2 = 0) :
    ∃ v : ℚ, isNumber (rsqEven m e) v ∧ 0 ≤ v ∧ |v * v * (m * (2 : ℚ) ^ e) - 1| ≤ 1 / 2 ^ 60 := by
  have hmpos : 0 < m := Nat.pos_of_ne_zero hm
  have hm0 : (0 : ℚ) < m := by exact_mod_cast hmpos
  unfold rsqEven
  dsimp only
  generalize hk : Nat.log2 m + 64 = k
  have hv : ∀ a : ℚ, a * 2 ^ (-(e / 2) - (k : Int)) * (a * 2 ^ (-(e / 2) - (k : Int))) * (m * 2 ^ e) = a * a / (2 ^ (2 * k) / m) := fun a => by
    rw [← half_zpow he, zpow_sub₀ two_ne_zero, zpow_neg, zpow_natCast, Nat.mul_comm 2 k, pow_mul]
    have hp : (2 : ℚ) ^ (e / 2) ≠ 0 := zpow_ne_zero _ two_ne_zero
    field_simp
  obtain ⟨hlow, hhigh⟩ := isqrt_spec (2 ^ (2 * k) / m)
  split
  · next h =>
    refine ⟨_, isNumber_fin _ _, by positivity, ?_⟩
    have h' : ((isqrt (2 ^ (2 * k) / m) : Nat) : ℚ) * isqrt (2 ^ (2 * k) / m) * m = 2 ^ (2 * k) := by exact_mod_cast beq_iff_eq.mp h
    rw [hv, div_div_eq_mul_div, h', div_self (by positivity), sub_self, abs_zero]
    positivity
  · refine ⟨_, isNumber_between _ _, by positivity, ?_⟩
    rw [hv]
    refine midway_sq (Nat.le_trans (by norm_num) (le_isqrt (a := 2 ^ 63) ?_)) ?_ ?_
    · have hlt : m < 2 ^ (Nat.log2 m + 1) := Nat.lt_log2_self
      refine (Nat.le_div_iff_mul_le hmpos).mpr ?_
      rw [← Nat.pow_add]
      refine Nat.le_trans (Nat.mul_le_mul_left _ hlt.le) ?_
      rw [← Nat.pow_add]
      exact Nat.pow_le_pow_right (by decide) (by omega)
    · rw [le_div_iff₀ hm0]
      have : isqrt (2 ^ (2 * k) / m) * isqrt (2 ^ (2 * k) / m) * m ≤ 2 ^ (2 * k) :=
        Nat.le_trans (Nat.mul_le_mul_right m hlow) (Nat.div_mul_le_self _ _)
      exact_mod_cast this
    · rw [div_le_iff₀ hm0]
      have : 2 ^ (2 * k) ≤ (isqrt (2 ^ (2 * k) / m) + 1) * (isqrt (2 ^ (2 * k) / m) + 1) * m :=
        Nat.le_trans (Nat.lt_mul_of_div_lt hhigh hmpos).le (Nat.le_refl _)
      exact_mod_cast this

/-- An odd power is halved with twice the number. -/
theorem odd_zpow (m : Nat) (e : Int) : ((2 * m : Nat) : ℚ) * 2 ^ (e - 1) = m * 2 ^ e := by
  rw [zpow_sub_one₀ two_ne_zero]
  push_cast
  ring

theorem sqrtVal_near {m : Nat} (hm : m ≠ 0) (e : Int) :
    ∃ v : ℚ, isNumber (sqrtVal m e) v ∧ 0 ≤ v ∧ |v * v / (m * (2 : ℚ) ^ e) - 1| ≤ 1 / 2 ^ 60 := by
  rw [sqrtVal_eq]
  split
  · next he => exact sqrtEven_near hm he
  · next he =>
    rw [← odd_zpow]
    exact sqrtEven_near (by omega) (by omega)

theorem rsqVal_near {m : Nat} (hm : m ≠ 0) (e : Int) :
    ∃ v : ℚ, isNumber (rsqVal m e) v ∧ 0 ≤ v ∧ |v * v * (m * (2 : ℚ) ^ e) - 1| ≤ 1 / 2 ^ 60 := by
  rw [rsqVal_eq]
  split
  · next he => exact rsqEven_near hm he
  · next he =>
    rw [← odd_zpow]
    exact rsqEven_near (by omega) (by omega)

/-! ## Exact results -/

theorem exp2Val_whole {k : Nat} (hk : k ≤ 200) : exp2Val false k 0 = .fin false 1 k := by
  have hm : signedMag false (k * 2 ^ (0 : Int).toNat) = k := by simp [signedMag]
  unfold exp2Val
  rw [if_neg (by decide)]
  dsimp only
  rw [hm]
  simp
  omega

theorem exp2_whole {k : Nat} (hk : k ≤ 200) : isNumber (fnVal .exp2 (.fin false k 0)).1 ((2 : ℚ) ^ k) := by
  by_cases h0 : k = 0
  · subst h0
    have h : isNumber (.fin false 1 0) ((2 : ℚ) ^ 0) := by simpa using isNumber_fin 1 0
    exact h
  · have h := isNumber_fin 1 k
    have he : (fnVal .exp2 (.fin false k 0)).1 = .fin false 1 k := (if_neg (by simpa using h0)).trans (exp2Val_whole hk)
    rw [he]
    simpa using h

theorem log2Val_power (m : Nat) (e : Int) : log2Val (2 ^ m) e = dyadicVal false ((m : Int) + e, 0) := by
  unfold log2Val
  rw [Nat.log2_two_pow]
  exact if_pos (beq_self_eq_true _)

/-- An integer as its sign and its size. -/
theorem sign_mul_natAbs (k : Int) : (if decide (k < 0) = true then -1 else 1 : ℚ) * k.natAbs = k := by
  rw [Nat.cast_natAbs]
  by_cases h : k < 0
  · rw [if_pos (decide_eq_true h), abs_of_neg h]
    push_cast
    ring
  · rw [if_neg (by simpa using h), abs_of_nonneg (Int.not_lt.mp h), one_mul]

theorem isNumber_dyadicVal (k : Int) : isNumber (dyadicVal false (k, 0)) k := by
  unfold dyadicVal
  by_cases hk : k = 0
  · rw [if_pos hk]
    simp [isNumber, place, hk]
  · rw [if_neg hk]
    have h : isNumber (.fin (decide (k < 0)) k.natAbs 0) ((if decide (k < 0) = true then -1 else 1 : ℚ) * k.natAbs * 2 ^ (0 : Int)) := rfl
    rw [sign_mul_natAbs, zpow_zero, mul_one] at h
    exact h

theorem log2_power (m : Nat) (e : Int) : isNumber (fnVal .log2 (.fin false (2 ^ m) e)).1 (m + e) := by
  have h0 : (2 ^ m == 0) = false := by simp
  have he : (fnVal .log2 (.fin false (2 ^ m) e)).1 = log2Val (2 ^ m) e := by simp [fnVal]
  rw [he, log2Val_power]
  have h := isNumber_dyadicVal ((m : Int) + e)
  push_cast at h
  exact h

theorem cosPiVal_half {n : Nat} (hn : n % 2 = 1) : cosPiVal n (-1) = .fin false 0 0 := by
  have hr : (if n % 4 > 2 then 4 - n % 4 else n % 4) = 1 := by split <;> omega
  unfold cosPiVal
  rw [if_neg (by decide)]
  simp only [show (2 ^ (-(-1 : Int)).toNat : Nat) = 2 from rfl, show 2 * 2 = 4 from rfl, hr]
  rfl

theorem cos_half (s : Bool) {n : Nat} (hn : n % 2 = 1) : fnVal .cos (.fin s n (-1)) = (.fin false 0 0, {}) := by
  have h0 : n ≠ 0 := by omega
  simp [fnVal, h0, cosPiVal_half hn]

end Sys2Proof.Machine
open Sys2Proof Sys2Proof.Machine Sys2Proof.Claims

/-- Settles O8: the lanes round the exact result once; special values by the cases of the functions, roots from the integer square root. -/
theorem functionAndSpecialValueResults : Obligations.FunctionAndSpecialValueResults := by
  unfold Obligations.FunctionAndSpecialValueResults
  refine ⟨fun o s i rest hd hr => ⟨laneDone_transcend rfl hd hr, laneDone_transcend rfl hd hr, laneDone_transcend rfl hd hr,
      laneDone_transcend rfl hd hr, laneDone_transcend rfl hd hr, laneDone_transcend rfl hd hr, laneDone_transcend rfl hd hr,
      laneDone_transcend rfl hd hr⟩, fun f sg => ?_, fun _ _ => rfl, fun _ => rfl, fun _ _ => rfl, rfl, fun _ _ => rfl, rfl,
    fun m e hm => ?_, fun m e hm => ?_, rfl, rfl, fun k hk => exp2_whole hk, fun _ _ => rfl, rfl, log2_power, fun _ _ => rfl, fun _ => rfl,
    fun s n hn => ?_, fun _ => rfl, fun s n hn => cos_half s hn, fun _ _ => rfl, fun _ => rfl⟩
  · cases f <;> rfl
  · simp [fnVal, hm]
  · intro x
    have hr : (fnVal .rcp (.fin false m e)).1 = rcpVal false m e := by simp [fnVal, hm]
    have hs : (fnVal .sqrt (.fin false m e)).1 = sqrtVal m e := by simp [fnVal, hm]
    have hq : (fnVal .rsq (.fin false m e)).1 = rsqVal m e := by simp [fnVal, hm]
    rw [hr, hs, hq]
    exact ⟨rcpVal_near hm e, sqrtVal_near hm e, rsqVal_near hm e⟩
  · simp [fnVal, hn, sinPiVal]
end

section
/-! SUPPORT. A group that leaves (R291): what it is once retired stays so while its grid is counted, completed, and what it held is given
back. One lemma for each function that such work calls. -/
namespace Sys2Proof.Machine

-- Each lemma here serves the next ones: elaborated in order, they keep no thread waiting.
set_option Elab.async false

/-- What is known of a group that leaves: its name and grid, whether it is deterministic, so that a group of its name stays, whether it is
gone from its lanes, retired, and whether its grid has no parent. -/
structure Departure where
  gk : Nat
  grid : Nat
  det : Prop
  gone : Prop
  retired : Prop
  orphan : Prop

/-- A group as a departure describes it. -/
def Departure.fits (q : Departure) (x : Group) : Prop :=
  q.det ∧ (q.gone → x.threads = [] ∧ (q.retired → x.run = .retired))

/-- Group names are unique, the group that leaves is as described, and its grid has no parent where it had none. -/
def departing (q : Departure) (gs : List Group) (gr : List Grid) : Prop :=
  (gs.map fun x => x.gk).Nodup ∧ (∀ x ∈ gs, x.gk = q.gk → q.fits x) ∧
    (q.orphan → ∀ y, gr.find? (fun y => y.id == q.grid) = some y → y.parent = 0)

theorem leave_of_kept {q : Departure} {s s' : State} (h : kept s' = kept s) (hc : departing q s.groups s.grids) :
    departing q s'.groups s'.grids := by
  rw [groups_of_kept h, grids_of_kept h]
  exact hc

theorem departing_modGroup {q : Departure} {s : State} {k : Nat} {f : Group → Group} (hf : ∀ x, (f x).gk = x.gk)
    (hk : ∀ x, x.gk = k → x.gk = q.gk → q.fits x → q.fits (f x)) (hc : departing q s.groups s.grids) :
    departing q (modGroup s k f).groups (modGroup s k f).grids := by
  obtain ⟨hn, hx, hp⟩ := hc
  refine ⟨?_, fun x hmem hgk => ?_, hp⟩
  · rw [modGroup_groups, map_updFirst hf]
    exact hn
  · rcases mem_updFirst hmem with hmem | ⟨y, hy, hyk, rfl⟩
    · exact hx x hmem hgk
    · rw [hf] at hgk
      exact hk y (beq_iff_eq.mp hyk) hgk (hx y hy hgk)

theorem foldl_leave {q : Departure} {α : Type} {f : State → α → State} {s : State} {l : List α}
    (hf : ∀ s x, departing q s.groups s.grids → departing q (f s x).groups (f s x).grids) (h : departing q s.groups s.grids) :
    departing q (l.foldl f s).groups (l.foldl f s).grids := by
  induction l generalizing s with
  | nil => exact h
  | cons x l ih => exact ih (hf _ _ h)
grind_pattern foldl_leave => l.foldl f s, departing q _ _

theorem dropMembers_leave {q : Departure} (s : State) (p : Nat × Nat → Bool) (hc : departing q s.groups s.grids) :
    departing q (dropMembers s p).groups (dropMembers s p).grids := hc
grind_pattern dropMembers_leave => dropMembers s p, departing q _ _
theorem modCore_leave {q : Departure} (s : State) (c : Nat) (f : Core → Core) (hc : departing q s.groups s.grids) :
    departing q (modCore s c f).groups (modCore s c f).grids := hc
grind_pattern modCore_leave => modCore s c f, departing q _ _
theorem modCluster_leave {q : Departure} (s : State) (c : Nat) (f : Cluster → Cluster) (hc : departing q s.groups s.grids) :
    departing q (modCluster s c f).groups (modCluster s c f).grids := hc
grind_pattern modCluster_leave => modCluster s c f, departing q _ _

theorem modDie_leave {q : Departure} (s : State) (d : Nat) (f : Die → Die) (hc : departing q s.groups s.grids) :
    departing q (modDie s d f).groups (modDie s d f).grids :=
    leave_of_kept (modDie_kept ..) hc
grind_pattern modDie_leave => modDie s d f, departing q _ _
theorem l2WriteBack_leave {q : Departure} (s : State) (die : Nat) (line : Nat) (hc : departing q s.groups s.grids) :
    departing q (l2WriteBack s die line).groups (l2WriteBack s die line).grids :=
    leave_of_kept (l2WriteBack_kept ..) hc
grind_pattern l2WriteBack_leave => l2WriteBack s die line, departing q _ _
theorem combineFlush_leave {q : Departure} (s : State) (core : Nat) (hc : departing q s.groups s.grids) :
    departing q (combineFlush s core).groups (combineFlush s core).grids :=
    leave_of_kept (combineFlush_kept ..) hc
grind_pattern combineFlush_leave => combineFlush s core, departing q _ _
theorem storePiece_leave {q : Departure} (s : State) (c : Ctx) (p : Piece) (hint : Nat) (bs : List Byte) (hc : departing q s.groups s.grids) :
    departing q (storePiece s c p hint bs).groups (storePiece s c p hint bs).grids :=
    leave_of_kept (storePiece_kept ..) hc
grind_pattern storePiece_leave => storePiece s c p hint bs, departing q _ _
theorem drainFlume_leave {q : Departure} (s : State) (core : Nat) (hc : departing q s.groups s.grids) :
    departing q (drainFlume s core).groups (drainFlume s core).grids :=
    leave_of_kept (drainFlume_kept ..) hc
grind_pattern drainFlume_leave => drainFlume s core, departing q _ _
theorem drainCore_leave {q : Departure} (s : State) (core : Nat) (hc : departing q s.groups s.grids) :
    departing q (drainCore s core).groups (drainCore s core).grids :=
    leave_of_kept (drainCore_kept ..) hc
grind_pattern drainCore_leave => drainCore s core, departing q _ _
theorem acquireCore_leave {q : Departure} (s : State) (core : Nat) (hc : departing q s.groups s.grids) :
    departing q (acquireCore s core).groups (acquireCore s core).grids :=
    leave_of_kept (acquireCore_kept ..) hc
grind_pattern acquireCore_leave => acquireCore s core, departing q _ _
theorem hwRead_leave {q : Departure} (s : State) (part : Nat) (sec : Bool) (va : Nat) (n : Nat) (hc : departing q s.groups s.grids) :
    departing q (hwRead s part sec va n).1.groups (hwRead s part sec va n).1.grids :=
    leave_of_kept (hwRead_kept ..) hc
grind_pattern hwRead_leave => hwRead s part sec va n, departing q _ _
theorem hwWrite_leave {q : Departure} (s : State) (part : Nat) (sec : Bool) (va : Nat) (bs : List Byte) (hc : departing q s.groups s.grids) :
    departing q (hwWrite s part sec va bs).1.groups (hwWrite s part sec va bs).1.grids :=
    leave_of_kept (hwWrite_kept ..) hc
grind_pattern hwWrite_leave => hwWrite s part sec va bs, departing q _ _
theorem hwUpdate_leave {q : Departure} (s : State) (part : Nat) (sec : Bool) (va : Nat) (n : Nat) (f : Nat → Nat)
    (hc : departing q s.groups s.grids) :
    departing q (hwUpdate s part sec va n f).1.groups (hwUpdate s part sec va n f).1.grids :=
    leave_of_kept (hwUpdate_kept ..) hc
grind_pattern hwUpdate_leave => hwUpdate s part sec va n f, departing q _ _
theorem scratchWrite_leave {q : Departure} (s : State) (core : Nat) (off : Nat) (bs : List Byte) (hc : departing q s.groups s.grids) :
    departing q (scratchWrite s core off bs).groups (scratchWrite s core off bs).grids := by grind [scratchWrite]
grind_pattern scratchWrite_leave => scratchWrite s core off bs, departing q _ _
/-- A group changed in what a departure does not describe. -/
theorem modGroup_leave {q : Departure} {s : State} {k : Nat} {f : Group → Group}
    (hf : ∀ x, (f x).gk = x.gk ∧ (f x).threads = x.threads ∧ (f x).run = x.run) (hc : departing q s.groups s.grids) :
    departing q (modGroup s k f).groups (modGroup s k f).grids :=
  departing_modGroup (fun x => (hf x).1) (fun x _ _ h => by
    obtain ⟨-, ht, hrun⟩ := hf x
    unfold Departure.fits at *
    rw [ht, hrun]
    exact h) hc
grind_pattern modGroup_leave => modGroup s k f, departing q _ _
theorem modThread_leave {q : Departure} (s : State) (gk t : Nat) (f : Thread → Thread) (hc : departing q s.groups s.grids) :
    departing q (modThread s gk t f).groups (modThread s gk t f).grids :=
  departing_modGroup (f := fun g => updThread g t f) (fun _ => rfl) (fun x _ _ h => by
    obtain ⟨hd, hg⟩ := h
    refine ⟨hd, fun hq => ?_⟩
    obtain ⟨ht, hr⟩ := hg hq
    refine ⟨?_, hr⟩
    show updFirst _ f x.threads = []
    rw [ht]
    rfl) hc
grind_pattern modThread_leave => modThread s gk t f, departing q _ _
theorem modGrid_leave {q : Departure} {s : State} {id : Nat} {f : Grid → Grid} (hf : ∀ y, (f y).id = y.id ∧ (f y).parent = y.parent)
    (hc : departing q s.groups s.grids) : departing q (modGrid s id f).groups (modGrid s id f).grids := by
  obtain ⟨hn, hx, hp⟩ := hc
  refine ⟨hn, hx, fun ho y hy => ?_⟩
  rw [modGrid_grids] at hy
  by_cases h : q.grid = id
  · subst h
    rw [find_updFirst_same fun y hy => by simpa [hf y] using hy] at hy
    obtain ⟨z, hz, rfl⟩ := Option.map_eq_some_iff.mp hy
    rw [(hf z).2]
    exact hp ho z hz
  · rw [find_updFirst_other fun y hy => ?_] at hy
    · exact hp ho y hy
    · have hid := beq_iff_eq.mp hy
      simp [hf y, hid, Ne.symm h]
grind_pattern modGrid_leave => modGrid s id f, departing q _ _
theorem fresh_leave {q : Departure} (s : State) (hc : departing q s.groups s.grids) :
    departing q (fresh s).1.groups (fresh s).1.grids := by grind [fresh]
grind_pattern fresh_leave => fresh s, departing q _ _
theorem hostEvent_leave {q : Departure} (s : State) (part : Nat) (code : Nat) (arg0 : Nat) (arg1 : Nat) (hc : departing q s.groups s.grids) :
    departing q (hostEvent s part code arg0 arg1).groups (hostEvent s part code arg0 arg1).grids :=
    leave_of_kept (hostEvent_kept ..) hc
grind_pattern hostEvent_leave => hostEvent s part code arg0 arg1, departing q _ _
theorem recordEvent_leave {q : Departure} (s : State) (part : Nat) (f : Option FaultInfo) (hc : departing q s.groups s.grids) :
    departing q (recordEvent s part f).groups (recordEvent s part f).grids :=
    leave_of_kept (recordEvent_kept ..) hc
grind_pattern recordEvent_leave => recordEvent s part f, departing q _ _
/-- A group as its failure leaves it. -/
def failedGroup (steps : Nat) (rest : List MCmd) (g : Group) : Group :=
  { g with
    failed := true
    run := .exited
    stepsEnded := steps
    awaiting := false
    adopt := none
    saved := rest
    staged := 0
    barriers := [0, 0, 0, 0]
    threads := g.threads.map fun t =>
      { t with status := .exited, inKernel := false, inSup := false, clause := none, arrived := 0, bars := [], parkedOn := 0 } }

theorem departing_failed {q : Departure} {s : State} {gk : Nat} (hk : q.gone → q.retired → gk ≠ q.gk) (hc : departing q s.groups s.grids)
    (steps : Nat) (rest : List MCmd) :
    departing q (modGroup s gk (failedGroup steps rest)).groups (modGroup s gk (failedGroup steps rest)).grids := by
  refine departing_modGroup (f := failedGroup steps rest) (fun _ => rfl) (fun g hgk hq hfit => ?_) hc
  obtain ⟨hd, hg⟩ := hfit
  refine ⟨hd, fun hgone => ⟨?_, fun hr => absurd (hgk.symm.trans hq) (hk hgone hr)⟩⟩
  show g.threads.map _ = []
  rw [(hg hgone).1]
  rfl

/-- A failure noted in the frame, in the grid and in the issue groups, before the group itself changes (R413). -/
def failNoted (s : State) (g : Group) (gk : Nat) (hinfo : Word) (va : DWord) : State :=
  let (s, _) := hwUpdate s g.record.part g.record.world g.frame 64 fun v =>
    setField (setField (setField (setField v 166 1 1) 167 1 1) 192 32 hinfo.toNat) 256 64 va.toNat
  let (s, e) := hwUpdate s g.record.part g.record.world g.record.farr 64 fun v =>
    if bitOf v 320 then v else setField (setField (setField v 320 1 1) 256 32 g.gid) 288 32 hinfo.toNat
  dropMembers (modGrid (recordEvent s g.record.part e) g.grid fun x => { x with failed := true }) fun m => m.1 == gk

/-- The commands of a group that fails go back to its core; it waits for nothing and no cluster keeps it. -/
def failDropped (s : State) (g : Group) (gk : Nat) : State :=
  let s := if g.saved.isEmpty then s else modCore s g.core fun c => { c with mqueue := c.mqueue ++ g.saved.take (matrixRoom c) }
  { s with
    waiters := s.waiters.filter fun w => w.gk != gk
    clusters := s.clusters.map fun e => (e.1, forgetGroup gk e.2) }

theorem failGroup_eq {s : State} {gk : Nat} {g : Group} (hg : groupOf s gk = some g) (hf : ¬ g.failed = true) (hinfo : Word) (va : DWord) :
    ∃ steps rest, failGroup s gk hinfo va = modGroup (failDropped (failNoted s g gk hinfo va) g gk) gk (failedGroup steps rest) := by
  unfold failGroup
  rw [hg]
  exact ⟨_, _, if_neg hf⟩

theorem failNoted_leave {q : Departure} (s : State) (g : Group) (gk : Nat) (hinfo : Word) (va : DWord) (hc : departing q s.groups s.grids) :
    departing q (failNoted s g gk hinfo va).groups (failNoted s g gk hinfo va).grids := by
  unfold failNoted
  dsimp only
  refine dropMembers_leave _ _ (modGrid_leave (fun _ => ⟨rfl, rfl⟩) (leave_of_kept (recordEvent_kept ..) ?_))
  exact leave_of_kept (hwUpdate_kept ..) (leave_of_kept (hwUpdate_kept ..) hc)

theorem failDropped_leave {q : Departure} (s : State) (g : Group) (gk : Nat) (hc : departing q s.groups s.grids) :
    departing q (failDropped s g gk).groups (failDropped s g gk).grids := by
  unfold failDropped
  dsimp only
  split <;> exact hc

/-- A failure of another group, or before the group is gone. -/
theorem failGroup_leave {q : Departure} (s : State) (gk : Nat) (hinfo : Word) (va : DWord) (hk : q.gone → q.retired → gk ≠ q.gk)
    (hc : departing q s.groups s.grids) : departing q (failGroup s gk hinfo va).groups (failGroup s gk hinfo va).grids := by
  cases hg : groupOf s gk with
  | none =>
    unfold failGroup
    rw [hg]
    exact hc
  | some g =>
    by_cases hf : g.failed = true
    · unfold failGroup
      rw [hg]
      dsimp only
      rw [if_pos hf]
      exact hc
    · obtain ⟨steps, rest, he⟩ := failGroup_eq hg hf hinfo va
      rw [he]
      exact departing_failed hk (failDropped_leave _ _ _ (failNoted_leave _ _ _ _ _ hc)) _ _
grind_pattern failGroup_leave => failGroup s gk hinfo va, departing q _ _
theorem failRecord_leave {q : Departure} (s : State) (gk : Nat) (f : FaultInfo) (hk : q.gone → q.retired → gk ≠ q.gk) (hc :
    departing q s.groups s.grids) :
    departing q (failRecord s gk f).groups (failRecord s gk f).grids := by grind [failRecord]
grind_pattern failRecord_leave => failRecord s gk f, departing q _ _
theorem entryUpdate_leave {q : Departure} (s : State) (g : Grid) (f : Nat → Nat) (hc : departing q s.groups s.grids) :
    departing q (entryUpdate s g f).groups (entryUpdate s g f).grids :=
    leave_of_kept (entryUpdate_kept ..) hc
grind_pattern entryUpdate_leave => entryUpdate s g f, departing q _ _
theorem noteWhere_leave {q : Departure} (s : State) (e : DeckEntry) (cluster : Nat) (inland : Bool) (slot : Nat) (hc : departing q s.groups s.grids) :
    departing q (noteWhere s e cluster inland slot).groups (noteWhere s e cluster inland slot).grids :=
    leave_of_kept (noteWhere_kept ..) hc
grind_pattern noteWhere_leave => noteWhere s e cluster inland slot, departing q _ _
theorem enqueueEntry_leave {q : Departure} (part g cls : Nat) (s : State) (e : DeckEntry) (hc : departing q s.groups s.grids) :
    departing q (enqueueEntry part g cls s e).groups (enqueueEntry part g cls s e).grids := by
  have h := enqueueEntry_beyondDecks part g cls s e
  rw [show (enqueueEntry part g cls s e).groups = s.groups from congrArg (fun k => k.1.groups) h,
    show (enqueueEntry part g cls s e).grids = s.grids from congrArg (fun k => k.1.grids) h]
  exact hc
grind_pattern enqueueEntry_leave => enqueueEntry part g cls s e, departing q _ _
theorem enqueueCont_leave {q : Departure} (s : State) (gk : Nat) (hc : departing q s.groups s.grids) :
    departing q (enqueueCont s gk).groups (enqueueCont s gk).grids := by grind [enqueueCont]
grind_pattern enqueueCont_leave => enqueueCont s gk, departing q _ _
theorem countWaiter_leave {q : Departure} (s : State) (part : Nat) (world : Bool) (obj : Nat) (k : WaitKind) (delta : Nat)
    (hc : departing q s.groups s.grids) :
    departing q (countWaiter s part world obj k delta).groups (countWaiter s part world obj k delta).grids :=
    leave_of_kept (countWaiter_kept ..) hc
grind_pattern countWaiter_leave => countWaiter s part world obj k delta, departing q _ _
theorem wakeWaiter_leave {q : Departure} (s : State) (w : Waiter) (hc : departing q s.groups s.grids) :
    departing q (wakeWaiter s w).groups (wakeWaiter s w).grids := by grind [wakeWaiter]
grind_pattern wakeWaiter_leave => wakeWaiter s w, departing q _ _
theorem wakeAll_leave {q : Departure} (s : State) (part : Nat) (world : Bool) (obj : Nat) (hc : departing q s.groups s.grids) :
    departing q (wakeAll s part world obj).groups (wakeAll s part world obj).grids := by grind [wakeAll]
grind_pattern wakeAll_leave => wakeAll s part world obj, departing q _ _
theorem settleFuture_leave {q : Departure} (s : State) (part : Nat) (world : Bool) (va : Nat) (value : Nat) (failed : Bool)
    (hc : departing q s.groups s.grids) :
    departing q (settleFuture s part world va value failed).1.groups (settleFuture s part world va value failed).1.grids := by grind [settleFuture]
grind_pattern settleFuture_leave => settleFuture s part world va value failed, departing q _ _
theorem recordUpdate_leave {q : Departure} (s : State) (g : Group) (off : Nat) (n : Nat) (f : Nat → Nat)
    (hk : q.gone → q.retired → g.gk ≠ q.gk) (hc : departing q s.groups s.grids) :
    departing q (recordUpdate s g off n f).groups (recordUpdate s g off n f).grids := by grind [recordUpdate]
grind_pattern recordUpdate_leave => recordUpdate s g off n f, departing q _ _

/-- A group that is pre-empted is not the one that has retired. -/
theorem ne_of_preempted {q : Departure} {s : State} {k : Nat} {g : Group} (hc : departing q s.groups s.grids) (hg : groupOf s k = some g)
    (hr : g.run = .preempted) : q.gone → q.retired → g.gk ≠ q.gk := by
  intro hgone hret hk
  obtain ⟨-, hx, -⟩ := hc
  have hrun := ((hx g (List.mem_of_find?_eq_some hg) hk).2 hgone).2 hret
  rw [hr] at hrun
  cases hrun
theorem replyWords_leave {q : Departure} (s : State) (gk tid : Nat) (vals : List (Nat × Word)) (hc : departing q s.groups s.grids) :
    departing q (replyWords s gk tid vals).groups (replyWords s gk tid vals).grids := by
  unfold replyWords
  split
  · exact hc
  · next g hg =>
    split
    · next hr => exact modThread_leave _ _ _ _ (foldl_leave (fun s e h => recordUpdate_leave _ _ _ _ _ (ne_of_preempted hc hg hr) h) hc)
    · exact modThread_leave _ _ _ _ hc
grind_pattern replyWords_leave => replyWords s gk tid vals, departing q _ _
theorem replyLast_leave {q : Departure} (s : State) (o : Op) (tid : Nat) (vals : List (Nat × Word)) (hc : departing q s.groups s.grids) :
    departing q (replyLast s o tid vals).groups (replyLast s o tid vals).grids := by grind [replyLast]
grind_pattern replyLast_leave => replyLast s o tid vals, departing q _ _
theorem creditCounter_leave {q : Departure} (s : State) (gk tid cnt : Nat) (hc : departing q s.groups s.grids) :
    departing q (creditCounter s gk tid cnt).groups (creditCounter s gk tid cnt).grids := by
  unfold creditCounter
  split
  · exact hc
  · next g hg =>
    split
    · exact modThread_leave _ _ _ _ hc
    · split
      · next hr => exact recordUpdate_leave _ _ _ _ _ (ne_of_preempted hc hg hr) hc
      · exact modThread_leave _ _ _ _ hc
grind_pattern creditCounter_leave => creditCounter s gk tid cnt, departing q _ _
theorem deferFault_leave {q : Departure} (s : State) (gk : Nat) (tid : Nat) (cnt : Nat) (f : FaultInfo) (hc : departing q s.groups s.grids) :
    departing q (deferFault s gk tid cnt f).groups (deferFault s gk tid cnt f).grids := by grind [deferFault]
grind_pattern deferFault_leave => deferFault s gk tid cnt f, departing q _ _
theorem dropOp_leave {q : Departure} (s : State) (id : Nat) (hc : departing q s.groups s.grids) :
    departing q (dropOp s id).groups (dropOp s id).grids := by grind [dropOp]
grind_pattern dropOp_leave => dropOp s id, departing q _ _
theorem retireOp_leave {q : Departure} (s : State) (o : Op) (hc : departing q s.groups s.grids) :
    departing q (retireOp s o).groups (retireOp s o).grids := by grind [retireOp]
grind_pattern retireOp_leave => retireOp s o, departing q _ _
theorem wakeOne_leave {q : Departure} (core : Nat) (s : State) (o : Op) (hc : departing q s.groups s.grids) :
    departing q (wakeOne core s o).groups (wakeOne core s o).grids := by grind [wakeOne]
grind_pattern wakeOne_leave => wakeOne core s o, departing q _ _
theorem wakeSync_leave {q : Departure} (core : Nat) (s : State) (hc : departing q s.groups s.grids) :
    departing q (wakeSync core s).groups (wakeSync core s).grids := by grind [wakeSync]
grind_pattern wakeSync_leave => wakeSync core s, departing q _ _
theorem scratchStore_leave {q : Departure} (s : State) (core : Nat) (off : Nat) (bs : List Byte) (hc : departing q s.groups s.grids) :
    departing q (scratchStore s core off bs).groups (scratchStore s core off bs).grids := by grind [scratchStore]
grind_pattern scratchStore_leave => scratchStore s core off bs, departing q _ _
theorem windowPiece_leave {q : Departure} (s : State) (part : Nat) (die : Nat) (writer : Nat) (piece : Nat) (data : DWord) (core : Option Nat)
    (hc : departing q s.groups s.grids) :
    departing q (windowPiece s part die writer piece data core).groups (windowPiece s part die writer piece data core).grids := by grind [windowPiece]
grind_pattern windowPiece_leave => windowPiece s part die writer piece data core, departing q _ _
theorem storePieces_leave {q : Departure} (s : State) (c : Ctx) (g : Group) (tid : Nat) (hint : Nat) (a5 : List Piece) (a6 : List Byte)
    (hc : departing q s.groups s.grids) :
    departing q (storePieces s c g tid hint a5 a6).groups (storePieces s c g tid hint a5 a6).grids := by
  fun_induction storePieces <;> grind
grind_pattern storePieces_leave => storePieces s c g tid hint a5 a6, departing q _ _
theorem atomicInL1_leave {q : Departure} (s : State) (c : Ctx) (asid : Nat) (p : Piece) (am : Nat) (size : Nat) (y : DWord) (cmp : DWord)
    (hc : departing q s.groups s.grids) :
    departing q (atomicInL1 s c asid p am size y cmp).1.groups (atomicInL1 s c asid p am size y cmp).1.grids :=
    leave_of_kept (atomicInL1_kept ..) hc
grind_pattern atomicInL1_leave => atomicInL1 s c asid p am size y cmp, departing q _ _
theorem atomicAtHome_leave {q : Departure} (s : State) (c : Ctx) (asid : Nat) (p : Piece) (am : Nat) (size : Nat) (y : DWord) (cmp : DWord)
    (hc : departing q s.groups s.grids) :
    departing q (atomicAtHome s c asid p am size y cmp).1.groups (atomicAtHome s c asid p am size y cmp).1.grids :=
    leave_of_kept (atomicAtHome_kept ..) hc
grind_pattern atomicAtHome_leave => atomicAtHome s c asid p am size y cmp, departing q _ _
theorem atomicPlace_leave {q : Departure} (s : State) (c : Ctx) (place : Place) (am : Nat) (size : Nat) (y : DWord) (cmp : DWord)
    (hc : departing q s.groups s.grids) :
    departing q (atomicPlace s c place am size y cmp).1.groups (atomicPlace s c place am size y cmp).1.grids := by
  unfold atomicPlace
  grind
grind_pattern atomicPlace_leave => atomicPlace s c place am size y cmp, departing q _ _
theorem loadValue_leave {q : Departure} (s : State) (c : Ctx) (g : Group) (place : Place) (size : Nat) (treat : Treat) (hint : Nat) (staged : Nat)
    (hc : departing q s.groups s.grids) :
    departing q (loadValue s c g place size treat hint staged).1.groups (loadValue s c g place size treat hint staged).1.grids :=
    leave_of_kept (loadValue_kept ..) hc
grind_pattern loadValue_leave => loadValue s c g place size treat hint staged, departing q _ _
theorem performAccess_leave {q : Departure} (s : State) (g : Group) (o : Op) (hc : departing q s.groups s.grids) :
    departing q (performAccess s g o).1.groups (performAccess s g o).1.grids := by grind [performAccess]
grind_pattern performAccess_leave => performAccess s g o, departing q _ _
theorem performOp_leave {q : Departure} (s : State) (o : Op) (hc : departing q s.groups s.grids) :
    departing q (performOp s o).groups (performOp s o).grids := by
  unfold performOp
  (repeat' split) <;> grind
grind_pattern performOp_leave => performOp s o, departing q _ _
theorem performAll_leave {q : Departure} (s : State) (p : Op → Bool) (hc : departing q s.groups s.grids) :
    departing q (performAll s p).groups (performAll s p).grids := by grind [performAll]
grind_pattern performAll_leave => performAll s p, departing q _ _
theorem releaseGroup_leave {q : Departure} (s : State) (gk : Nat) (hc : departing q s.groups s.grids) :
    departing q (releaseGroup s gk).groups (releaseGroup s gk).grids := by grind [releaseGroup]
grind_pattern releaseGroup_leave => releaseGroup s gk, departing q _ _
theorem endStep_leave {q : Departure} (s : State) (gk : Nat) (hc : departing q s.groups s.grids) :
    departing q (endStep s gk).groups (endStep s gk).grids := by grind [endStep]
grind_pattern endStep_leave => endStep s gk, departing q _ _
theorem frameRead_leave {q : Departure} (s : State) (g : Group) (hk : q.gone → q.retired → g.gk ≠ q.gk) (hc : departing q s.groups s.grids) :
    departing q (frameRead s g).1.groups (frameRead s g).1.grids := by grind [frameRead]
grind_pattern frameRead_leave => frameRead s g, departing q _ _
/-- A parent may be any group: nothing then is said of being retired. -/
theorem childDone_leave {q : Departure} (s : State) (part : Nat) (world : Bool) (frame : Nat) (failed : Bool) (hr : ¬ q.retired)
    (hc : departing q s.groups s.grids) : departing q (childDone s part world frame failed).groups (childDone s part world frame failed).grids := by
  unfold childDone
  grind
grind_pattern childDone_leave => childDone s part world frame failed, departing q _ _
theorem objectReady_leave {q : Departure} (s : State) (gk : Nat) (k : WaitKind) (obj : Nat) (part : Nat) (world : Bool)
    (hc : departing q s.groups s.grids) :
    departing q (objectReady s gk k obj part world).1.groups (objectReady s gk k obj part world).1.grids :=
    leave_of_kept (objectReady_kept ..) hc
grind_pattern objectReady_leave => objectReady s gk k obj part world, departing q _ _
theorem markFailed_leave {q : Departure} (s : State) (k : WaitKind) (obj : Nat) (part : Nat) (world : Bool) (hc : departing q s.groups s.grids) :
    departing q (markFailed s k obj part world).groups (markFailed s k obj part world).grids := by grind [markFailed]
grind_pattern markFailed_leave => markFailed s k obj part world, departing q _ _
theorem retest_leave {q : Departure} (s : State) (ws : List Waiter) (hc : departing q s.groups s.grids) :
    departing q (retest s ws).groups (retest s ws).grids := by grind [retest]
grind_pattern retest_leave => retest s ws, departing q _ _
theorem modFrame_leave {q : Departure} (s : State) (die : Nat) (grid : Nat) (f : Frame → Frame) (hc : departing q s.groups s.grids) :
    departing q (modFrame s die grid f).groups (modFrame s die grid f).grids := by grind [modFrame]
grind_pattern modFrame_leave => modFrame s die grid f, departing q _ _
theorem closeGeometry_leave {q : Departure} (s : State) (g : Grid) (hc : departing q s.groups s.grids) :
    departing q (closeGeometry s g).groups (closeGeometry s g).grids := by grind [closeGeometry]
grind_pattern closeGeometry_leave => closeGeometry s g, departing q _ _
theorem assignTile_leave {q : Departure} (die : Nat) (grid : Nat) (s : State) (t : Tile) (hc : departing q s.groups s.grids) :
    departing q (assignTile die grid s t).groups (assignTile die grid s t).grids := by grind [assignTile]
grind_pattern assignTile_leave => assignTile die grid s t, departing q _ _
theorem assignTiles_leave {q : Departure} (s : State) (die : Nat) (hc : departing q s.groups s.grids) :
    departing q (assignTiles s die).groups (assignTiles s die).grids := by grind [assignTiles]
grind_pattern assignTiles_leave => assignTiles s die, departing q _ _
theorem dropFrames_leave {q : Departure} (s : State) (die : Nat) (hc : departing q s.groups s.grids) :
    departing q (dropFrames s die).groups (dropFrames s die).grids := by grind [dropFrames]
grind_pattern dropFrames_leave => dropFrames s die, departing q _ _
/-- A record accepted without a parent. -/
theorem acceptRecord_leave {q : Departure} (s : State) (r : TaskRecord) (cluster : Nat) (host : Bool) (info : GfxInfo)
    (slot : Option (Nat × Nat)) (hc : departing q s.groups s.grids) :
    departing q (acceptRecord s r 0 cluster host info slot).groups (acceptRecord s r 0 cluster host info slot).grids := by
  have h := acceptRecord_beyondDecks s r 0 cluster host info slot
  obtain ⟨hn, hx, hp⟩ := hc
  rw [show (acceptRecord s r 0 cluster host info slot).groups = s.groups from congrArg (fun k => k.1.groups) h,
    show (acceptRecord s r 0 cluster host info slot).grids = s.grids ++ [acceptedGrid s r 0 cluster host slot] from
      congrArg (fun k => k.1.grids) h]
  refine ⟨hn, hx, fun ho y hy => ?_⟩
  rw [List.find?_append] at hy
  rcases Option.or_eq_some_iff.mp hy with hy | ⟨-, hy⟩
  · exact hp ho y hy
  · rw [List.mem_singleton.mp (List.mem_of_find?_eq_some hy)]
    rfl
grind_pattern acceptRecord_leave => acceptRecord s r 0 cluster host info slot, departing q _ _
theorem launchFormed_leave {q : Departure} (s : State) (r : TaskRecord) (info : GfxInfo) (hc : departing q s.groups s.grids) :
    departing q (launchFormed s r info).groups (launchFormed s r info).grids := by
  unfold launchFormed
  split
  · exact acceptRecord_leave _ _ _ _ _ _ hc
  · exact leave_of_kept (hostEvent_kept ..) hc
grind_pattern launchFormed_leave => launchFormed s r info, departing q _ _
theorem launchGroup_leave {q : Departure} (die : Nat) (grid : Nat) (s : State) (l : Launch) (hc : departing q s.groups s.grids) :
    departing q (launchGroup die grid s l).groups (launchGroup die grid s l).grids := by grind [launchGroup]
grind_pattern launchGroup_leave => launchGroup die grid s l, departing q _ _
theorem launchAll_leave {q : Departure} (die : Nat) (grid : Nat) (s : State) (hc : departing q s.groups s.grids) :
    departing q (launchAll die grid s).groups (launchAll die grid s).grids := by grind [launchAll]
grind_pattern launchAll_leave => launchAll die grid s, departing q _ _
theorem retireTiles_leave {q : Departure} (s : State) (info : GfxInfo) (hc : departing q s.groups s.grids) :
    departing q (retireTiles s info).groups (retireTiles s info).grids := by
  unfold retireTiles
  grind
grind_pattern retireTiles_leave => retireTiles s info, departing q _ _
theorem flushHostLines_leave {q : Departure} (s : State) (part : Nat) (hc : departing q s.groups s.grids) :
    departing q (flushHostLines s part).groups (flushHostLines s part).grids := by grind [flushHostLines]
grind_pattern flushHostLines_leave => flushHostLines s part, departing q _ _
theorem dropAllClean_leave {q : Departure} (s : State) (core : Nat) (hc : departing q s.groups s.grids) :
    departing q (dropAllClean s core).groups (dropAllClean s core).grids := by grind [dropAllClean]
grind_pattern dropAllClean_leave => dropAllClean s core, departing q _ _
theorem settleL1s_leave {q : Departure} (s : State) (cluster : Nat) (hc : departing q s.groups s.grids) :
    departing q (settleL1s s cluster).groups (settleL1s s cluster).grids := by grind [settleL1s]
grind_pattern settleL1s_leave => settleL1s s cluster, departing q _ _
theorem endFusion_leave {q : Departure} (grid : Nat) (s : State) (cluster : Nat) (hc : departing q s.groups s.grids) :
    departing q (endFusion grid s cluster).groups (endFusion grid s cluster).grids := by grind [endFusion]
grind_pattern endFusion_leave => endFusion grid s cluster, departing q _ _
theorem endHelp_leave {q : Departure} (s : State) (gk : Nat) (hc : departing q s.groups s.grids) :
    departing q (endHelp s gk).groups (endHelp s gk).grids := hc
grind_pattern endHelp_leave => endHelp s gk, departing q _ _
theorem freeSlotOf_leave {q : Departure} (s : State) (at' : Nat × Nat) (hc : departing q s.groups s.grids) :
    departing q (freeSlotOf s at').groups (freeSlotOf s at').grids := by grind [freeSlotOf]
grind_pattern freeSlotOf_leave => freeSlotOf s at', departing q _ _
theorem settleRing_leave {q : Departure} (s : State) (cluster : Nat) (hc : departing q s.groups s.grids) :
    departing q (settleRing s cluster).groups (settleRing s cluster).grids := by grind [settleRing]
grind_pattern settleRing_leave => settleRing s cluster, departing q _ _

/-! ## The grid of the group that leaves (R291) -/

/-- Its retired groups go with a grid, and the grid itself. -/
theorem departing_grid_gone {q : Departure} {gs : List Group} {gr : List Grid} (p : Group → Bool) (id : Nat) (hc : departing q gs gr) :
    departing q (gs.filter p) (gr.filter fun x => x.id != id) := by
  obtain ⟨hn, hx, hp⟩ := hc
  refine ⟨hn.sublist (List.filter_sublist.map _), fun x hmem => hx x (List.mem_of_mem_filter hmem), fun ho y hy => hp ho y ?_⟩
  have hid := List.find?_some hy
  have hne := (List.mem_filter.mp (List.mem_of_find?_eq_some hy)).2
  rw [List.find?_filter] at hy
  rw [← hy]
  refine congrArg (fun p => List.find? p gr) (funext fun a => ?_)
  simp only [beq_iff_eq, bne_iff_ne] at hid hne
  rw [hid] at hne
  by_cases h : a.id = q.grid
  · simp [h, hne]
  · simp [h]

/-- A grid without a parent completes and no group of another grid fails. -/
theorem completeGrid_leave {q : Departure} (s : State) (ho : q.retired → q.orphan) (hc : departing q s.groups s.grids) :
    departing q (completeGrid s q.grid).groups (completeGrid s q.grid).grids := by
  unfold completeGrid
  split
  · exact hc
  · next g hg =>
    dsimp only
    have hparent : q.retired → g.parent = 0 := fun hr => hc.2.2 (ho hr) g hg
    have hfront : departing q (flushHostLines s g.record.part).groups (flushHostLines s g.record.part).grids := flushHostLines_leave _ _ hc
    have hchild : ∀ s : State, departing q s.groups s.grids →
        departing q (if g.parent = 0 then s else childDone s g.record.part g.record.world g.parent g.failed).groups
          (if g.parent = 0 then s else childDone s g.record.part g.record.world g.parent g.failed).grids := by
      intro s h
      split
      · exact h
      · next hne => exact childDone_leave _ _ _ _ _ (fun hr => hne (hparent hr)) h
    generalize hs : List.foldl (endFusion q.grid) (entryUpdate _ _ _) _ = s1
    have hend : departing q s1.groups s1.grids := by
      rw [← hs]
      refine foldl_leave (fun s x h => endFusion_leave _ s x h) (entryUpdate_leave _ _ _ (hchild _ ?_))
      split
      · exact hfront
      · exact recordEvent_leave _ _ _ (settleFuture_leave _ _ _ _ _ _ hfront)
    have hgone := departing_grid_gone (fun x => !(x.grid == q.grid && x.run == .retired)) q.grid hend
    refine retest_leave _ _ ?_
    split
    · refine dropFrames_leave _ _ (closeGeometry_leave _ _ ?_)
      split
      · exact freeSlotOf_leave _ _ hgone
      · exact hgone
    · split
      · exact freeSlotOf_leave _ _ hgone
      · exact hgone

theorem retireGroups_leave {q : Departure} (s : State) (n : Nat) (ho : q.retired → q.orphan) (hc : departing q s.groups s.grids) :
    departing q (retireGroups s q.grid n).groups (retireGroups s q.grid n).grids := by
  unfold retireGroups
  split
  · exact hc
  · next g _ =>
    have hu := hwUpdate_leave s g.record.part g.record.world g.record.farr 64 (fun v => setField v 0 64 (g.remain - n)) hc
    split
    · next s1 f h =>
      rw [h] at hu
      exact recordEvent_leave _ _ _ hu
    · next s1 h =>
      rw [h] at hu
      have hr := modGrid_leave (id := q.grid) (f := fun x => { x with remain := x.remain - n }) (fun _ => ⟨rfl, rfl⟩) hu
      dsimp only
      split
      · exact completeGrid_leave _ ho hr
      · exact hr

end Sys2Proof.Machine
end

section
/-! SUPPORT. Pre-emption and resumption (R52, R53, R93, R300): the victims, the record of a pre-empted group, and what it gives back. -/
namespace Sys2Proof.Machine
open Sys2Proof.Claims

/-! ## Victims (R300) -/

section
variable {s : State} {core : Nat} {e : DeckEntry} {vs : List Group}

theorem mem_evictable {x : Group} : x ∈ evictable s core ↔
    x ∈ residents s core ∧ runClass x ≠ 0 ∧ ∀ t ∈ x.threads, t.emulK = none ∧ t.emulS = none := by
  unfold evictable
  rw [List.mem_reverse, (sortBy_perm _ _).mem_iff, List.mem_filter]
  simp

/-- Those admitted last come first. -/
theorem evictable_sorted : (evictable s core).Pairwise fun x y => y.admitted ≤ x.admitted := by
  unfold evictable
  rw [List.pairwise_reverse]
  exact sortBy_sorted (fun g : Group => g.admitted) _

theorem victims_take (h : victimsFor s core e = some vs) : ∃ n, vs = (evictable s core).take n := by
  obtain ⟨n, -, hn⟩ := List.exists_of_findSome?_eq_some h
  dsimp only at hn
  split at hn
  · exact ⟨n + 1, (Option.some.inj hn).symm⟩
  · cases hn

theorem mem_victims (h : victimsFor s core e = some vs) {v : Group} (hv : v ∈ vs) : v ∈ evictable s core := by
  obtain ⟨n, rfl⟩ := victims_take h
  exact List.mem_of_mem_take hv

theorem victims_last (h : victimsFor s core e = some vs) {v x : Group} (hv : v ∈ vs) (hx : x ∈ evictable s core) (hxv : x ∉ vs) :
    x.admitted ≤ v.admitted := by
  obtain ⟨n, rfl⟩ := victims_take h
  have hs := evictable_sorted (s := s) (core := core)
  rw [← List.take_append_drop n (evictable s core)] at hx hs
  obtain ⟨-, -, hle⟩ := List.pairwise_append.mp hs
  exact hle v hv x ((List.mem_append.mp hx).resolve_left hxv)

theorem exec_preemption (hp : ownPick s core = some (0, e)) (hres : isReserved s core = true)
    (hroom : roomFor s core 0 e.record (parkedOf s e) = none) (hv : victimsFor s core e = some vs) :
    exec (.preemption core) s = .next (if vs.any fun g => g.threads.any fun t => t.status == .issuing then s
      else vs.foldl (fun s g => evictGroup s g.gk) s) := by
  refine congrArg Host.Outcome.next ?_
  rw [hp]
  refine (if_neg ?_).trans ?_
  · rw [hres, hroom]
    exact Bool.false_ne_true
  · rw [hv]

end

/-! ## The record (R52, R93) -/

/-- A group without matrix headers is pre-empted once its record is written. -/
theorem evictGroup_written {s s1 : State} {gk : Nat} {g g1 : Group} (hg : groupOf s gk = some g) (hh : needsHeaders g.record = false)
    (hg1 : groupOf (releaseGroup s gk) gk = some g1)
    (hw : hwWrite (releaseGroup s gk) g1.record.part false (preemptVa (releaseGroup s gk) g1) (preemptRecord g1) = (s1, none)) :
    groupOf (evictGroup s gk) gk = some { g1 with run := .preempted, threads := g1.threads.map evictThread, patterns := [] } := by
  have hk := hwWrite_kept (releaseGroup s gk) g1.record.part false (preemptVa (releaseGroup s gk) g1) (preemptRecord g1)
  rw [hw] at hk
  have he : evictGroup s gk = modGroup (countEvent s1 g1.core 10 1) gk fun g =>
      { g with run := .preempted, threads := g.threads.map evictThread, patterns := [] } := by
    unfold evictGroup
    rw [hg]
    dsimp only
    rw [if_neg (by rw [hh]; exact Bool.false_ne_true), hg1]
    dsimp only
    rw [hw]
  rw [he, groupOf_modGroup (f := fun g => { g with run := .preempted, threads := g.threads.map evictThread, patterns := [] }) fun _ => rfl,
    groupOf_of_kept ((countEvent_kept ..).trans hk), hg1]
  rfl

/-! ## Resumption (R53) -/

theorem resumedThread_idx (bs : List Byte) (n : Nat) (t : Thread) : (resumedThread bs n t).idx = t.idx := rfl

theorem resumedThread_reg (bs : List Byte) {n k : Nat} (hk : k < n) (t : Thread) :
    regOf (resumedThread bs n t) k = BitVec.ofNat 32 (leNat ((bs.drop (6144 + 512 * k + 4 * t.idx)).take 4)) := by
  show ((List.range n).map _).getD k 0 = _
  rw [List.getD_eq_getElem?_getD, List.getElem?_map, List.getElem?_range hk]
  rfl

theorem resumedThread_pc (bs : List Byte) (n : Nat) (t : Thread) :
    (resumedThread bs n t).pc = BitVec.ofNat 64 (field (leNat ((bs.drop (2048 + 32 * t.idx)).take 32)) 64 64) := rfl

/-- A pre-empted group is resident again with what its record holds. -/
theorem resumeGroup_read {s s1 : State} {gk core : Nat} {g : Group} {seat : Seat} {bs : List Byte} (hg : groupOf s gk = some g)
    (hr : hwRead (acquireCore s core) g.record.part false (preemptVa (acquireCore s core) g) (6144 + 512 * g.regCount) = (s1, .ok bs)) :
    ∃ g', groupOf (resumeGroup s g core seat) gk = some g' ∧ g'.run = .resident ∧ g'.core = core ∧ g'.ctx = seat.ctx ∧ g'.saved = [] ∧
      g'.threads = g.threads.map fun t => if isLive t then resumedThread bs g.regCount t else t := by
  have hk := hwRead_kept (acquireCore s core) g.record.part false (preemptVa (acquireCore s core) g) (6144 + 512 * g.regCount)
  rw [hr] at hk
  have hg1 : groupOf s1 gk = some g := (groupOf_of_kept (hk.trans (acquireCore_kept ..)) gk).trans hg
  have hgk := groupOf_gk hg
  subst hgk
  unfold resumeGroup
  dsimp only
  rw [hr]
  refine ⟨_, Eq.trans (groupOf_modGroup ?_) (congrArg (Option.map _) hg1), rfl, rfl, rfl, rfl, rfl⟩
  exact fun _ => rfl

theorem exec_preemptionResume {s : State} {gk : Nat} {g : Group} {core : Nat} {seat : Seat} (hg : groupOf s gk = some g)
    (hp : g.run = .preempted) (hc : resumeCore s g = some (core, seat)) :
    exec (.preemptionResume gk) s = .next (resumeGroup s g core seat) := by
  refine congrArg Host.Outcome.next ?_
  rw [hg]
  refine (if_neg ?_).trans ?_
  · rw [hp]
    decide
  · rw [hc]

/-! ## Retirement (R291) -/

/-- The state in which a group that may retire leaves its lanes: it has released, with what its tiles and its ring gave back. -/
def beforeRetired (s : State) (gk : Nat) (g : Group) : State :=
  settleRing (retireTiles (acquireCore (releaseGroup (match frameFault s g with | some f => failRecord s gk f | none => s) gk) g.core) g.gfx)
    (clusterOfGroup g)

/-- A group as its retirement leaves it. -/
def retiredGroup (g : Group) : Group :=
  { g with run := .retired, threads := [], hdrs := [], ihdrs := [], ztiles := [], hdrBase := none, meshBase := none }

/-- A group that leaves: retired in its place in a deterministic grid, and else taken from the device. -/
def leaveLanes (s : State) (gk : Nat) (det : Bool) : State :=
  if det then modGroup s gk retiredGroup else { s with groups := s.groups.filter fun x => x.gk != gk }

theorem exec_groupRetirement {s : State} {gk : Nat} {g : Group} (hg : groupOf s gk = some g) (hm : mayRetire s g = true) :
    exec (.groupRetirement gk) s = .next (retireGroups (leaveLanes (beforeRetired s gk g) gk g.record.det) g.grid 1) := by
  refine congrArg Host.Outcome.next ?_
  rw [hg]
  refine (if_neg ?_).trans rfl
  rw [hm]
  exact Bool.false_ne_true

theorem exec_groupRetirement_kept {s : State} {gk : Nat} {g : Group} (hg : groupOf s gk = some g) (hm : mayRetire s g = false) :
    exec (.groupRetirement gk) s = .next s := by
  refine congrArg Host.Outcome.next ?_
  rw [hg]
  refine if_pos ?_
  rw [hm]
  rfl

theorem beforeRetired_leave {q : Departure} {s : State} (gk : Nat) (g : Group) (hq : ¬ q.gone) (hc : departing q s.groups s.grids) :
    departing q (beforeRetired s gk g).groups (beforeRetired s gk g).grids := by
  refine settleRing_leave _ _ (retireTiles_leave _ _ (acquireCore_leave _ _ (releaseGroup_leave _ _ ?_)))
  split
  · exact failRecord_leave _ _ _ (fun h => absurd h hq) hc
  · exact hc

/-- Of groups with unique names the first of a name is the only one. -/
theorem mem_updFirst_only {f : Group → Group} {gk : Nat} {x : Group} {l : List Group} (hn : (l.map fun x => x.gk).Nodup)
    (hx : x ∈ updFirst (fun g => g.gk == gk) f l) (hk : x.gk = gk) : ∃ y, x = f y := by
  induction l with
  | nil => cases hx
  | cons y l ih =>
    obtain ⟨hy, hl⟩ := List.nodup_cons.mp hn
    rw [updFirst] at hx
    split at hx
    · next hyk =>
      rcases List.mem_cons.mp hx with rfl | hx
      · exact ⟨y, rfl⟩
      · refine absurd (List.mem_map.mpr ⟨x, hx, ?_⟩) hy
        exact hk.trans (beq_iff_eq.mp hyk).symm
    · next hyk =>
      rcases List.mem_cons.mp hx with rfl | hx
      · exact absurd (beq_iff_eq.mpr hk) hyk
      · exact ih hl hx

/-- What is known of a group that has left its lanes; `noParent` says that its grid has no parent. -/
def Departure.left (gk grid : Nat) (det noParent : Prop) : Departure :=
  { gk := gk, grid := grid, det := det, gone := True, retired := noParent, orphan := noParent }

/-- What is known of it before. -/
def Departure.leaving (gk grid : Nat) (noParent : Prop) : Departure :=
  { gk := gk, grid := grid, det := True, gone := False, retired := False, orphan := noParent }

theorem leaveLanes_leave {s : State} {gk grid : Nat} {det : Bool} {noParent : Prop}
    (hc : departing (.leaving gk grid noParent) s.groups s.grids) :
    departing (.left gk grid (det = true) noParent) (leaveLanes s gk det).groups (leaveLanes s gk det).grids := by
  obtain ⟨hn, -, hp⟩ := hc
  unfold leaveLanes
  split
  · next hdet =>
    refine ⟨?_, fun x hmem hgk => ?_, hp⟩
    · rw [modGroup_groups, map_updFirst (k := fun x : Group => x.gk) (f := retiredGroup) fun _ => rfl]
      exact hn
    · obtain ⟨y, rfl⟩ := mem_updFirst_only hn hmem hgk
      exact ⟨hdet, fun _ => ⟨rfl, fun _ => rfl⟩⟩
  · refine ⟨hn.sublist (List.filter_sublist.map _), fun x hmem hgk => ?_, hp⟩
    exact absurd hgk (bne_iff_ne.mp (List.mem_filter.mp hmem).2)

/-- What a group that may retire leaves of itself. -/
theorem retired_left {s s' : State} {gk : Nat} {g : Group} (hn : (s.groups.map fun x => x.gk).Nodup)
    (hs : s' = retireGroups (leaveLanes (beforeRetired s gk g) gk g.record.det) g.grid 1) :
    departing (.left gk g.grid (g.record.det = true) (∀ x, gridOf s g.grid = some x → x.parent = 0)) s'.groups s'.grids := by
  have hstart : departing (.leaving gk g.grid (∀ x, gridOf s g.grid = some x → x.parent = 0)) s.groups s.grids :=
    ⟨hn, fun _ _ _ => ⟨trivial, fun h => h.elim⟩, fun h => h⟩
  rw [hs]
  exact retireGroups_leave (q := .left gk g.grid _ _) _ _ (fun h => h) (leaveLanes_leave (beforeRetired_leave gk g (fun h => h) hstart))

end Sys2Proof.Machine

open Sys2Proof Sys2Proof.Machine Sys2Proof.Claims
/-- Settles O50: `departing` says what a group that leaves is until its grid is counted and completed; of its four forms the others
follow from the choice of victims, the write of a record and its read. -/
theorem groupsRetireAndArePreempted : Obligations.GroupsRetireAndArePreempted := by
  unfold Obligations.GroupsRetireAndArePreempted
  refine ⟨fun gk s g hg => ⟨exec_groupRetirement_kept hg, fun hm hn => ⟨_, exec_groupRetirement hg hm, fun g' hg' => ?_⟩⟩,
    fun core s e vs hp hres hroom hv => ⟨fun v hvm => mem_evictable.mp (mem_victims hv hvm), fun v hvm x hx hcls hem hxv =>
      victims_last hv hvm (mem_evictable.mpr ⟨hx, hcls, hem⟩) hxv, fun h => ?_, fun h => ?_⟩, ?_, ?_⟩
  · obtain ⟨-, hfits, -⟩ := retired_left hn rfl
    obtain ⟨hdet, hgone⟩ := hfits g' (List.mem_of_find?_eq_some hg') (groupOf_gk hg')
    obtain ⟨hthreads, hrun⟩ := hgone trivial
    exact ⟨hdet, hthreads, fun hp _ => hrun hp⟩
  · obtain ⟨v, hvm, t, htm, ht⟩ := h
    refine (exec_preemption hp hres hroom hv).trans (congrArg Host.Outcome.next (if_pos ?_))
    exact List.any_eq_true.mpr ⟨v, hvm, List.any_eq_true.mpr ⟨t, htm, beq_iff_eq.mpr ht⟩⟩
  · refine (exec_preemption hp hres hroom hv).trans (congrArg Host.Outcome.next (if_neg ?_))
    intro hany
    obtain ⟨v, hvm, hv⟩ := List.any_eq_true.mp hany
    obtain ⟨t, htm, ht⟩ := List.any_eq_true.mp hv
    exact h v hvm t htm (beq_iff_eq.mp ht)
  · intro s s1 gk g g1 hg hh hg1 hw
    refine ⟨_, evictGroup_written hg hh hg1 hw, rfl, List.length_map _, fun t ht => ?_⟩
    obtain ⟨t, -, rfl⟩ := List.mem_map.mp ht
    rfl
  · intro gk s s1 g core seat bs hg hp hc hr
    obtain ⟨g', hg', hrun, hcore, hctx, hsaved, hthreads⟩ := resumeGroup_read (seat := seat) hg hr
    refine ⟨_, exec_preemptionResume hg hp hc, g', hg', hrun, hcore, hctx, hsaved, fun t ht hlive => ?_⟩
    refine ⟨resumedThread bs g.regCount t, ?_, resumedThread_idx .., fun k hk => resumedThread_reg bs hk t, resumedThread_pc ..⟩
    rw [hthreads]
    exact List.mem_map.mpr ⟨t, ht, if_pos (bne_iff_ne.mpr hlive)⟩
end

section
/-! SUPPORT. Bytes of a table and of a sector: what a store of consecutive bytes leaves (R218, R222). -/
namespace Sys2Proof.Machine
open Sys2Proof.Claims

/-! ## Tables of bytes -/

theorem tfind_tset {α : Type} (t : Table α) (k j : Nat) (v : α) : tfind (tset t k v) j = if k = j then some v else tfind t j := by
  induction t with
  | nil => rfl
  | cons e r ih =>
    obtain ⟨i, w⟩ := e
    unfold tset
    split
    · rfl
    · split
      · next h =>
        subst h
        by_cases hj : i = j <;> simp [tfind, hj]
      · next h =>
        rw [tfind, tfind, ih]
        by_cases hi : i = j
        · rw [if_pos hi, if_neg (fun hk => h (hi.trans hk.symm)), if_pos hi]
        · rw [if_neg hi, if_neg hi]

theorem length_enumFrom {α : Type} (i : Nat) (l : List α) : (enumFrom i l).length = l.length := by
  induction l generalizing i with
  | nil => rfl
  | cons x r ih => exact congrArg (· + 1) (ih (i + 1))

/-- Consecutive bytes put into a table. -/
theorem tfind_setBytes (o : Nat) (bs : List Byte) (t : Table Byte) (k : Nat) :
    tfind ((enumFrom o bs).foldl (fun t e => tset t e.1 e.2) t) k =
      if o ≤ k ∧ k < o + bs.length then some (bs.getD (k - o) 0) else tfind t k := by
  induction bs generalizing o t with
  | nil =>
    rw [if_neg (by simp)]
    rfl
  | cons b r ih =>
    rw [enumFrom, List.foldl_cons, ih, tfind_tset, List.length_cons]
    by_cases hk : o = k
    · subst hk
      rw [if_neg (by omega), if_pos rfl, if_pos (by omega), Nat.sub_self]
      rfl
    · rw [if_neg hk]
      by_cases hin : o + 1 ≤ k ∧ k < o + 1 + r.length
      · rw [if_pos hin, if_pos (by omega), show k - o = (k - (o + 1)) + 1 by omega]
        rfl
      · rw [if_neg hin, if_neg (by omega)]

theorem tfind_filter {α : Type} (t : Table α) (p : Nat → Bool) (k : Nat) :
    tfind (t.filter fun e => p e.1) k = if p k then tfind t k else none := by
  induction t with
  | nil => simp [tfind]
  | cons e r ih =>
    obtain ⟨i, v⟩ := e
    rw [List.filter_cons]
    by_cases hp : p i = true
    · rw [if_pos hp, tfind, tfind, ih]
      by_cases hi : i = k
      · subst hi
        simp [hp]
      · simp [hi]
    · rw [if_neg hp, ih, tfind]
      by_cases hi : i = k
      · subst hi
        simp [hp]
      · rw [if_neg hi]

/-- Bytes read one by one from where consecutive bytes stand. -/
theorem map_enum_getD (o : Nat) (bs other : List Byte) (f : Nat → Option Byte) (h : other.length = bs.length)
    (hf : ∀ i < bs.length, f (o + i) = some (bs.getD i 0)) : ((enumFrom o other).map fun e => (f e.1).getD e.2) = bs := by
  induction bs generalizing o other with
  | nil =>
    rw [List.length_eq_zero_iff.mp h]
    rfl
  | cons b r ih =>
    obtain _ | ⟨c, other⟩ := other
    · cases h
    · rw [enumFrom, List.map_cons, ih (o + 1) other (Nat.succ.inj h) fun i hi => ?_]
      · have h0 := hf 0 (Nat.succ_pos _)
        rw [Nat.add_zero] at h0
        rw [h0]
        rfl
      · rw [Nat.add_assoc, Nat.add_comm 1 i, hf (i + 1) (Nat.succ_lt_succ hi)]
        rfl

theorem map_range_getD (bs : List Byte) (f : Nat → Byte) (hf : ∀ i < bs.length, f i = bs.getD i 0) : (List.range bs.length).map f = bs := by
  refine List.ext_getElem (by simp) fun i h1 h2 => ?_
  rw [List.getElem_map, List.getElem_range, hf i h2, List.getD_eq_getElem _ _ h2]

/-! ## Bytes of a sector -/

theorem length_splice {bs new : List Byte} {off : Nat} (h : off + new.length ≤ bs.length) : (splice bs off new).length = bs.length := by
  simp only [splice, List.length_append, List.length_take, List.length_drop]
  omega

theorem read_splice {bs new : List Byte} {off : Nat} (h : off ≤ bs.length) : ((splice bs off new).drop off).take new.length = new := by
  have hlen : (bs.take off).length = off := by rw [List.length_take]; omega
  rw [splice, List.append_assoc, List.drop_append_of_le_length (by omega), List.drop_of_length_le (by omega), List.nil_append,
    List.take_left]

/-- Bytes put in behind other bytes. -/
theorem splice_splice {bs a b : List Byte} {off : Nat} (h : off + a.length ≤ bs.length) :
    splice (splice bs off a) (off + a.length) b = splice bs off (a ++ b) := by
  have hlen : (bs.take off ++ a).length = off + a.length := by simp; omega
  have hrest : (bs.take off ++ a ++ bs.drop (off + a.length)).drop (off + a.length + b.length) = bs.drop (off + (a ++ b).length) := by
    rw [List.drop_append, hlen, List.drop_of_length_le (by omega), List.nil_append, List.drop_drop, List.length_append]
    congr 1
    omega
  rw [splice, splice, splice, List.take_left' hlen, hrest, List.append_assoc _ a b]

/-- Bytes put in one by one. -/
theorem foldl_splice {bs new : List Byte} {off : Nat} (hb : bs.length = 64) (h : off + new.length ≤ 64) :
    (enumFrom off new).foldl (fun bs e => splice bs (e.1 % 64) [e.2]) bs = splice bs off new := by
  induction new generalizing bs off with
  | nil =>
    rw [splice]
    simp [enumFrom]
  | cons b r ih =>
    rw [List.length_cons] at h
    rw [enumFrom, List.foldl_cons, ih, Nat.mod_eq_of_lt (by omega)]
    · exact splice_splice (a := [b]) (by rw [List.length_singleton]; omega)
    · rw [Nat.mod_eq_of_lt (by omega), length_splice (by rw [List.length_singleton]; omega), hb]
    · omega

end Sys2Proof.Machine
end

section
/-! SUPPORT. Device and strongly ordered memory: a sector written and read past the L2, piece by piece (R229, R234, R420). -/
namespace Sys2Proof.Machine
open Sys2Proof.Claims

section
variable {s : State} {part sec : Nat}

/-! ## Raw lines (R230) -/

theorem ownTag_raw {line : Nat} (h : tfind s.sizeTags line = none) : ownTag s part line = none := by
  unfold ownTag packedTag
  rw [h]
  exact ite_self _

theorem checkLine_raw {line : Nat} (h : tfind s.sizeTags line = none) : checkLine s part line = s := by
  unfold checkLine
  rw [ownTag_raw h]

theorem expandLine_raw {line : Nat} (h : tfind s.sizeTags line = none) : expandLine s part line = s := by
  unfold expandLine
  rw [checkLine_raw h]
  dsimp only
  rw [ownTag_raw h, h]
  rfl

theorem sectorBytes_raw (h : tfind s.sizeTags (sec / 8) = none) :
    sectorBytes s part sec = (s, { bytes := storedSector s part sec, poisoned := s.poison.contains sec }) := by
  unfold sectorBytes
  rw [checkLine_raw h]
  dsimp only
  rw [ownTag_raw h]

theorem length_storedSector : (storedSector s part sec).length = 64 := by
  unfold storedSector
  dsimp only
  split
  · split
    · exact memRead_length ..
    · simp [foreignSector]
  · exact memRead_length ..

/-! ## One sector stored (R420) -/

theorem logHostWrite_eq (pa : Nat) : ∃ ps, logHostWrite s part pa = { s with partitions := ps } := by
  unfold logHostWrite
  split
  · exact ⟨_, rfl⟩
  · exact ⟨_, rfl⟩

/-- A stored sector in terms of the parts that it writes. -/
theorem storeSector_eq (bs : List Byte) : ∃ ps, storeSector s part sec bs =
    { s with
      partitions := ps
      mem := memWrite s.mem (64 * sec) bs
      sealed := if isHost (64 * sec) then s.sealed else tset s.sealed sec (part, keyState s part) } := by
  obtain ⟨ps, h⟩ := logHostWrite_eq (s := s) (part := part) (64 * sec)
  have hk : keyState (logHostWrite s part (64 * sec)) part = keyState s part :=
    congrArg BitVec.toNat (pkeyst_of_deep (logHostWrite_deep ..) part)
  refine ⟨ps, ?_⟩
  unfold storeSector
  dsimp only
  rw [hk, h]

theorem storedSector_storeSector (hm : memWf s.mem = true) {bs : List Byte} (hl : bs.length = 64) :
    storedSector (storeSector s part sec bs) part sec = bs := by
  have hk : keyState (storeSector s part sec bs) part = keyState s part :=
    congrArg BitVec.toNat (pkeyst_of_deep (storeSector_deep ..) part)
  unfold storedSector
  rw [hk]
  obtain ⟨ps, h⟩ := storeSector_eq (s := s) (part := part) (sec := sec) bs
  rw [h]
  dsimp only
  have hr : memRead (memWrite s.mem (64 * sec) bs) (64 * sec) 64 = bs := hl ▸ memRead_memWrite hm (64 * sec) bs
  rw [hr]
  by_cases hh : isHost (64 * sec) = true
  · rw [if_pos hh]
    split
    · exact if_pos (by rw [hh]; rfl)
    · rfl
  · rw [if_neg hh, tfind_tset, if_pos rfl]
    exact if_pos (by simp)

theorem markPoison_same {k : Nat} : markPoison s k (s.poison.contains k) = s := by
  unfold markPoison
  split
  · rfl
  · rfl

end

/-! ## Pieces of a sector (R229, R234) -/

/-- Bytes stand in a sector of a raw line as they stood there, but for those written; no other sector, mark or cache changes. -/
structure SectorWritten (s s' : State) (part sec off : Nat) (bs : List Byte) : Prop where
  wf : memWf s'.mem = true
  bytes : storedSector s' part sec = splice (storedSector s part sec) off bs
  memory : ∀ a, a / 64 ≠ sec → memGet s'.mem a = memGet s.mem a
  sealed : ∀ k, k ≠ sec → tfind s'.sealed k = tfind s.sealed k
  poison : s'.poison = s.poison
  tags : s'.sizeTags = s.sizeTags
  dies : s'.dies = s.dies
  cores : s'.cores = s.cores

theorem SectorWritten.trans {s s1 s2 : State} {part sec off : Nat} {a b : List Byte} (h1 : SectorWritten s s1 part sec off a)
    (h2 : SectorWritten s1 s2 part sec (off + a.length) b) (h : off + a.length ≤ 64) : SectorWritten s s2 part sec off (a ++ b) where
  wf := h2.wf
  bytes := by
    rw [h2.bytes, h1.bytes]
    exact splice_splice (by rw [length_storedSector]; exact h)
  memory x hx := (h2.memory x hx).trans (h1.memory x hx)
  sealed k hk := (h2.sealed k hk).trans (h1.sealed k hk)
  poison := h2.poison.trans h1.poison
  tags := h2.tags.trans h1.tags
  dies := h2.dies.trans h1.dies
  cores := h2.cores.trans h1.cores

/-- A write past the L2 that leaves a byte of its sector. -/
theorem directWrite_written {s : State} {part pa : Nat} {bs : List Byte} (hm : memWf s.mem = true)
    (hraw : tfind s.sizeTags (pa / 64 / 8) = none) (hl : bs.length < 64) (hin : pa % 64 + bs.length ≤ 64) :
    SectorWritten s (directWrite s part pa bs) part (pa / 64) (pa % 64) bs := by
  have hlen : (splice (storedSector s part (pa / 64)) (pa % 64) bs).length = 64 := by
    rw [length_splice (by rw [length_storedSector]; exact hin), length_storedSector]
  have he : directWrite s part pa bs = storeSector s part (pa / 64) (splice (storedSector s part (pa / 64)) (pa % 64) bs) := by
    unfold directWrite
    rw [sectorBytes_raw hraw]
    dsimp only
    unfold putSector
    rw [expandLine_raw hraw, bne_iff_ne.mpr (by omega : bs.length ≠ 64), Bool.and_true]
    obtain ⟨ps, h⟩ := storeSector_eq (s := s) (part := part) (sec := pa / 64) (splice (storedSector s part (pa / 64)) (pa % 64) bs)
    have hp : (storeSector s part (pa / 64) (splice (storedSector s part (pa / 64)) (pa % 64) bs)).poison = s.poison := by rw [h]
    rw [← hp]
    exact markPoison_same
  obtain ⟨ps, h⟩ := storeSector_eq (s := s) (part := part) (sec := pa / 64) (splice (storedSector s part (pa / 64)) (pa % 64) bs)
  refine ⟨?_, ?_, fun a ha => ?_, fun k hk => ?_, ?_, ?_, ?_, ?_⟩
  · rw [he, h]
    exact memWrite_wf hm _ _
  · rw [he]
    exact storedSector_storeSector hm hlen
  · rw [he, h]
    exact memGet_memWrite_other hm (by omega)
  · rw [he, h]
    dsimp only
    split
    · rfl
    · rw [tfind_tset, if_neg (Ne.symm hk)]
  all_goals rw [he, h]

/-- Bytes written in the pieces that a split gives. -/
theorem directWrites_written {part pa : Nat} (data : List Byte) (fuel va n : Nat) {s : State} (hm : memWf s.mem = true)
    (hraw : tfind s.sizeTags (va / 64 / 8) = none) (hpa : pa ≤ va) (hf : n ≤ 8 * fuel - va % 8) (hin : va % 64 + n ≤ 64)
    (hpos : 0 < n) (hlen : va - pa + n ≤ data.length) :
    SectorWritten s (((splitAt 8 va fuel n).map fun e => (e.1 - pa, e.2)).foldl
      (fun s e => directWrite s part (pa + e.1) ((data.drop e.1).take e.2)) s) part (va / 64) (va % 64) ((data.drop (va - pa)).take n) := by
  induction fuel generalizing va n s with
  | zero => omega
  | succ fuel ih =>
    have hk : min n (8 - va % 8) < 64 := by omega
    have hlk : ((data.drop (va - pa)).take (min n (8 - va % 8))).length = min n (8 - va % 8) := by
      rw [List.length_take, List.length_drop]
      omega
    have hstep := directWrite_written (part := part) hm hraw (hlk ▸ hk) (by rw [hlk]; omega)
    rw [splitAt, if_neg (by omega)]
    dsimp only
    rw [List.map_cons, List.foldl_cons, Nat.add_sub_cancel' hpa]
    by_cases hn : n ≤ 8 - va % 8
    · rw [Nat.min_eq_left hn] at hstep ⊢
      rw [Nat.sub_self]
      have hnil : splitAt 8 (va + n) fuel 0 = [] := by cases fuel <;> rfl
      rw [hnil]
      exact hstep
    · rw [Nat.min_eq_right (by omega)] at hstep hlk ⊢
      generalize hkk : 8 - va % 8 = k at hstep hlk hn ⊢
      have hq : (va + k) / 64 = va / 64 := by omega
      have hr : (va + k) % 64 = va % 64 + k := by omega
      have hrest := ih (va + k) (n - k) (s := directWrite s part va ((data.drop (va - pa)).take k)) hstep.wf
        (by rw [hstep.tags, hq]; exact hraw) (by omega) (by omega) (by omega) (by omega) (by omega)
      rw [hq, hr] at hrest
      have hcat : (data.drop (va - pa)).take n = (data.drop (va - pa)).take k ++ (data.drop (va + k - pa)).take (n - k) := by
        rw [show n = k + (n - k) by omega, List.take_add, List.drop_drop, show va - pa + k = va + k - pa by omega]
        congr 2
        omega
      rw [hcat]
      refine hstep.trans ?_ (by rw [hlk]; omega)
      rw [hlk]
      exact hrest

/-- Bytes read in the pieces that a split gives. -/
theorem directReads_raw {part pa : Nat} (fuel va n : Nat) {s : State} (out : List Byte) (bad : Bool)
    (hraw : tfind s.sizeTags (va / 64 / 8) = none) (hpa : pa ≤ va) (hf : n ≤ 8 * fuel - va % 8) (hin : va % 64 + n ≤ 64) (hpos : 0 < n) :
    ((splitAt 8 va fuel n).map fun e => (e.1 - pa, e.2)).foldl
      (fun r e =>
        let x := directRead r.1 part (pa + e.1) e.2
        (x.1, r.2.1 ++ x.2.1, r.2.2 || x.2.2)) (s, out, bad) =
      (s, out ++ ((storedSector s part (va / 64)).drop (va % 64)).take n, bad || s.poison.contains (va / 64)) := by
  induction fuel generalizing va n out bad with
  | zero => omega
  | succ fuel ih =>
    rw [splitAt, if_neg (by omega)]
    dsimp only
    rw [List.map_cons, List.foldl_cons, Nat.add_sub_cancel' hpa]
    have hread : ∀ k, directRead s part va k = (s, ((storedSector s part (va / 64)).drop (va % 64)).take k, s.poison.contains (va / 64)) := by
      intro k
      unfold directRead
      rw [sectorBytes_raw hraw]
    by_cases hn : n ≤ 8 - va % 8
    · rw [Nat.min_eq_left hn, Nat.sub_self, hread]
      have hnil : splitAt 8 (va + n) fuel 0 = [] := by cases fuel <;> rfl
      rw [hnil]
      rfl
    · rw [Nat.min_eq_right (by omega), hread]
      generalize hkk : 8 - va % 8 = k at hn ⊢
      have hq : (va + k) / 64 = va / 64 := by omega
      have hr : (va + k) % 64 = va % 64 + k := by omega
      rw [ih (va + k) (n - k) _ _ (by rw [hq]; exact hraw) (by omega) (by omega) (by omega) (by omega), hq, hr]
      refine Prod.ext rfl (Prod.ext ?_ ?_)
      · dsimp only
        rw [List.append_assoc, ← List.drop_drop, ← List.take_add]
        congr 2
        omega
      · dsimp only
        rw [Bool.or_assoc, Bool.or_self]

/-! ## Device memory (R229) -/

theorem deviceStore_written {s : State} {part pa : Nat} {bs : List Byte} (hm : memWf s.mem = true) (hraw : tfind s.sizeTags (pa / 64 / 8) = none)
    (hpos : 0 < bs.length) (hl : bs.length ≤ 32) (hin : pa % 64 + bs.length ≤ 64) :
    SectorWritten s (deviceStore s part pa bs) part (pa / 64) (pa % 64) bs := by
  unfold deviceStore devicePieces
  split
  · rw [List.foldl_cons, List.foldl_nil, Nat.add_zero, List.drop_zero, List.take_length]
    exact directWrite_written hm hraw (by omega) hin
  · have h := directWrites_written (part := part) (pa := pa) bs (bs.length / 8 + 2) pa bs.length hm hraw (Nat.le_refl pa) (by omega)
      hin hpos (by omega)
    rw [Nat.sub_self, List.drop_zero, List.take_length] at h
    exact h

theorem deviceLoad_raw {s : State} {part pa n : Nat} (hraw : tfind s.sizeTags (pa / 64 / 8) = none) (hpos : 0 < n) (hin : pa % 64 + n ≤ 64) :
    deviceLoad s part pa n = (s, ((storedSector s part (pa / 64)).drop (pa % 64)).take n, s.poison.contains (pa / 64)) := by
  unfold deviceLoad devicePieces
  split
  · rw [List.foldl_cons, List.foldl_nil, Nat.add_zero]
    unfold directRead
    rw [sectorBytes_raw hraw]
    rfl
  · exact directReads_raw (n / 8 + 2) pa n [] false hraw (Nat.le_refl pa) (by omega) hin hpos

/-- A piece of a store to device or strongly ordered memory. -/
theorem deviceWritten_of {s : State} {c : Ctx} {p : Piece} {bs : List Byte} (hp : wholePiece p bs) (hm : memoriesWf s = true)
    (hraw : tfind s.sizeTags (p.pa / 512) = none) : DeviceWritten s (deviceStore s c.part p.pa bs) c p bs := by
  obtain ⟨hlen, hpos, hle, -, hin⟩ := hp
  have hq : p.pa / 512 = p.pa / 64 / 8 := by omega
  rw [hq] at hraw
  have h := deviceStore_written (part := c.part) (bs := bs) ((Laws.memoriesWf_iff s).mp hm).1 hraw (by omega) (by omega) (by rw [hlen]; exact hin)
  have hraw' : tfind (deviceStore s c.part p.pa bs).sizeTags (p.pa / 64 / 8) = none := by rw [h.tags]; exact hraw
  unfold DeviceWritten
  dsimp only
  rw [sectorBytes_raw hraw, sectorBytes_raw hraw', deviceLoad_raw hraw' hpos hin]
  dsimp only
  rw [h.bytes, h.poison, ← hlen]
  have hread : ((splice (storedSector s c.part (p.pa / 64)) (p.pa % 64) bs).drop (p.pa % 64)).take bs.length = bs :=
    read_splice (by rw [length_storedSector]; omega)
  refine ⟨rfl, ?_, h.memory, h.sealed, fun _ => rfl, h.tags, fun die line => ?_, fun core => ?_⟩
  · rw [hread]
  · unfold l2Find dieOf
    rw [h.dies]
  · unfold coreOf
    rw [h.cores]

end Sys2Proof.Machine
end

section
/-! SUPPORT. The L2: a sector fetched to its line, and bytes written to it there (R222, R223, R232). -/
namespace Sys2Proof.Machine
open Sys2Proof.Claims

-- Each lemma here serves the next ones: elaborated in order, they keep no thread waiting.
set_option Elab.async false

/-! ## An entry put in place of the one it replaces -/

section
variable {α : Type} {p q : α → Bool} {x : α} {l : List α}

theorem find_put_same (hx : p x = true) :
    (if l.any p then updFirst p (fun _ => x) l else l ++ [x]).find? p = some x := by
  split
  · next h =>
    rw [find_updFirst_same fun _ _ => hx]
    obtain ⟨y, hy, hpy⟩ := List.any_eq_true.mp h
    obtain ⟨z, hz⟩ := Option.isSome_iff_exists.mp (List.find?_isSome.mpr ⟨y, hy, hpy⟩)
    rw [hz]
    rfl
  · next h =>
    have hn : l.find? p = none := List.find?_eq_none.mpr fun y hy hpy => h (List.any_eq_true.mpr ⟨y, hy, hpy⟩)
    rw [List.find?_append, hn, List.find?_singleton, if_pos hx]
    rfl

theorem find_put_other (hx : q x = false) (hq : ∀ y, p y = true → q y = false) :
    (if l.any p then updFirst p (fun _ => x) l else l ++ [x]).find? q = l.find? q := by
  split
  · exact find_updFirst_other (f := fun _ => x) (fun y hy => ⟨hq y hy, hx⟩) l
  · rw [List.find?_append, List.find?_singleton, if_neg (by rw [hx]; exact Bool.false_ne_true), Option.or_none]

theorem mem_put {y : α} (h : y ∈ (if l.any p then updFirst p (fun _ => x) l else l ++ [x])) : y ∈ l ∨ y = x := by
  split at h
  · rcases mem_updFirst h with h | ⟨_, _, _, rfl⟩
    · exact .inl h
    · exact .inr rfl
  · exact (List.mem_append.mp h).imp_right List.mem_singleton.mp

end

/-! ## Lines of the L2 and their bytes -/

section
variable {s s' s1 s2 : State} {die part line pa : Nat}

theorem l2Find_of_dies (h : s'.dies = s.dies) (die line : Nat) : l2Find s' die line = l2Find s die line := by
  unfold l2Find dieOf
  rw [h]

theorem l1Find_of_cores (h : s'.cores = s.cores) (core asid line : Nat) : l1Find s' core asid line = l1Find s core asid line := by
  unfold l1Find coreOf
  rw [h]

theorem combine_of_cores (h : s'.cores = s.cores) (core : Nat) : (coreOf s' core).combine = (coreOf s core).combine := by
  unfold coreOf
  rw [h]

theorem l2Find_line {l : L2Line} (h : l2Find s die line = some l) : l.line = line := 
  beq_iff_eq.mp (List.find?_some (p := fun l : L2Line => l.line == line) h)

theorem sameBytes_refl (s : State) (a : Option (Nat × Nat)) (b : Option (Nat × Nat × Nat)) (c : Option Nat) : SameBytes s s a b c :=
  ⟨⟨rfl, rfl, rfl, rfl⟩, fun _ _ _ => rfl, fun _ _ _ _ => rfl, fun _ _ => rfl⟩

theorem sameBytes_trans {a : Option (Nat × Nat)} {b : Option (Nat × Nat × Nat)} {c : Option Nat} (h1 : SameBytes s s1 a b c)
    (h2 : SameBytes s1 s2 a b c) : SameBytes s s2 a b c := by
  obtain ⟨⟨hm, hp, hs, ht⟩, hl2, hl1, hb⟩ := h1
  obtain ⟨⟨hm', hp', hs', ht'⟩, hl2', hl1', hb'⟩ := h2
  exact ⟨⟨hm'.trans hm, hp'.trans hp, hs'.trans hs, ht'.trans ht⟩, fun d l h => (hl2' d l h).trans (hl2 d l h),
    fun c a l h => (hl1' c a l h).trans (hl1 c a l h), fun c h => (hb' c h).trans (hb c h)⟩

theorem l2Find_l2Put (s : State) (die : Nat) (l : L2Line) : l2Find (l2Put s die l) die l.line = some l := by
  unfold l2Find l2Put
  rw [dieOf_modDie, apply_ite Die.l2]
  exact find_put_same (p := fun x : L2Line => x.line == l.line) (beq_self_eq_true _)

theorem l2Find_l2Put_other (s : State) {die d : Nat} {l : L2Line} (h : (d, line) ≠ (die, l.line)) :
    l2Find (l2Put s die l) d line = l2Find s d line := by
  unfold l2Find l2Put
  by_cases hd : d = die
  · subst hd
    have hl : l.line ≠ line := fun hl => h (by rw [hl])
    rw [dieOf_modDie, apply_ite Die.l2]
    refine find_put_other (p := fun x : L2Line => x.line == l.line) (q := fun x : L2Line => x.line == line) ?_ fun y hy => ?_
    · exact beq_false_of_ne hl
    · rw [beq_iff_eq.mp hy]
      exact beq_false_of_ne hl
  · rw [dieOf_modDie_other _ _ hd]

theorem sameBytes_l2Put (s : State) (die : Nat) (l : L2Line) : SameBytes s (l2Put s die l) (some (die, l.line)) none none :=
  ⟨⟨rfl, rfl, rfl, rfl⟩, fun _ _ h => l2Find_l2Put_other s fun he => h (congrArg some he), fun _ _ _ _ => l1Find_of_cores rfl ..,
    fun _ _ => combine_of_cores rfl _⟩

/-- What a line holds does not change when an access to it is noted. -/
theorem l2Touch_found {l : L2Line} (c : Ctx) (h : l2Find s die (pa / 512) = some l) :
    SameBytes s (l2Touch s die c pa none) (some (die, pa / 512)) none none ∧
    ∃ l', l2Find (l2Touch s die c pa none) die (pa / 512) = some l' ∧ l'.part = l.part ∧ ∀ k, lineSector l' k = lineSector l k := by
  have hput : ∀ l' : L2Line, l'.line = l.line → SameBytes s (l2Put s die l') (some (die, pa / 512)) none none ∧
      l2Find (l2Put s die l') die (pa / 512) = some l' := by
    intro l' hl'
    rw [← l2Find_line h, ← hl']
    exact ⟨sameBytes_l2Put s die l', l2Find_l2Put s die l'⟩
  unfold l2Touch
  rw [h]
  dsimp only
  split
  · obtain ⟨hs, hf⟩ := hput (if c.hw then { l with run := 0 } else
      { l with near := nearSlice c.core, run := if l.near = nearSlice c.core then l.run + 1 else 1 }) (by split <;> rfl)
    exact ⟨hs, _, hf, by split <;> rfl, fun k => by split <;> rfl⟩
  · exact ⟨sameBytes_refl .., l, h, rfl, fun _ => rfl⟩

/-! ## Whose line it is (R420) -/

theorem l2Find_l2Evict (s : State) (die line : Nat) : l2Find (l2Evict s die line) die line = none := by
  unfold l2Find l2Evict
  rw [dieOf_modDie]
  refine List.find?_eq_none.mpr fun l hl hline => ?_
  exact bne_iff_ne.mp (List.mem_filter.mp hl).2 (beq_iff_eq.mp hline)

/-- A line that a partition may hit: its own, or one of host memory. -/
def hitLine (part : Nat) (l : L2Line) : Prop := l.part = part ∨ isHost (512 * l.line) = true

theorem l2Own_hit {l : L2Line} (h : l2Find (l2Own s die part line) die line = some l) : hitLine part l := by
  unfold l2Own at h
  split at h
  · next x hx =>
    split at h
    · rw [l2Find_l2Evict] at h
      cases h
    · next hn =>
      cases hx.symm.trans h
      rw [← l2Find_line hx] at hn
      unfold hitLine
      simpa [Classical.or_iff_not_imp_left] using hn
  · next hx => cases hx.symm.trans h

theorem l2Own_of_hit {l : L2Line} (h : l2Find s die line = some l) (hp : hitLine part l) : l2Own s die part line = s := by
  unfold l2Own
  rw [h]
  refine if_neg fun hc => ?_
  rw [← l2Find_line h] at hc
  obtain ⟨hne, hh⟩ := (Bool.and_eq_true ..).mp hc
  rcases hp with hp | hp
  · exact bne_iff_ne.mp hne hp
  · rw [hp] at hh
    cases hh

/-! ## A sector in its line (R222, R232) -/

theorem tfind_of_lineSector {l : L2Line} {k : Nat} (h : lineSector l k = none) : tfind l.sectors k = none := by
  unfold lineSector at h
  revert h
  cases tfind l.sectors k with
  | none => exact fun _ => rfl
  | some x => exact fun h => h

theorem lineSector_packed {l : L2Line} {k : Nat} (e : Nat × List Byte) (h : tfind l.sectors k = none) :
    lineSector { l with packed := some e } k = some { bytes := (((decodeLine e.1 e.2).getD []).drop (64 * k)).take 64 } := by
  show (tfind l.sectors k).orElse _ = _
  rw [h]
  rfl

theorem tfind_listed (l : L2Line) (n j : Nat) :
    tfind ((List.range n).foldl (fun t k => match lineSector l k with | some x => tset t k x | none => t) l.sectors) j =
      if j < n then lineSector l j else tfind l.sectors j := by
  induction n with
  | zero => rfl
  | succ n ih =>
    rw [List.range_succ, List.foldl_append, List.foldl_cons, List.foldl_nil]
    split
    · next x hx =>
      rw [tfind_tset, ih]
      by_cases hj : n = j
      · subst hj
        rw [if_pos rfl, if_pos (Nat.lt_succ_self n), hx]
      · rw [if_neg hj]
        by_cases hlt : j < n
        · rw [if_pos hlt, if_pos (by omega)]
        · rw [if_neg hlt, if_neg (by omega)]
    · next hx =>
      rw [ih]
      by_cases hj : j = n
      · subst hj
        rw [if_neg (Nat.lt_irrefl j), if_pos (Nat.lt_succ_self j), hx]
        exact tfind_of_lineSector hx
      · by_cases hlt : j < n
        · rw [if_pos hlt, if_pos (by omega)]
        · rw [if_neg hlt, if_neg (by omega)]

theorem lineWith_line (l : L2Line) (part k : Nat) (compr : Bool) (x : L2Sector) : (lineWith l part k compr x).line = l.line := by
  unfold lineWith
  split <;> rfl

theorem lineWith_part {l : L2Line} {k : Nat} {compr : Bool} {x : L2Sector} (hx : x.dirty = true) : (lineWith l part k compr x).part = part := by
  unfold lineWith
  rw [if_pos hx]

theorem lineSector_lineWith {l : L2Line} {k : Nat} {compr : Bool} {x : L2Sector} (hx : x.dirty = true) {j : Nat} (hj : j < 8) :
    lineSector (lineWith l part k compr x) j = if j = k then some x else lineSector l j := by
  unfold lineWith
  rw [if_pos hx]
  show (tfind (tset (unpacked l).sectors k x) j).orElse (fun _ => none) = _
  rw [tfind_tset]
  by_cases hk : j = k
  · rw [if_pos hk.symm, if_pos hk]
    rfl
  · rw [if_neg (Ne.symm hk), if_neg hk]
    have h : tfind (unpacked l).sectors j = lineSector l j := (tfind_listed l 8 j).trans (if_pos hj)
    rw [h]
    cases lineSector l j <;> rfl

/-- A line as an access finds it or makes it. -/
theorem l2Line_some {compr : Bool} {l : L2Line} (h : l2Line s die part line compr = (s1, some l)) :
    l.line = line ∧ ((l2Find s die line = some l) ∨ l.part = part ∧ ∀ k, lineSector l k = none) := by
  unfold l2Line at h
  split at h
  · next x hx =>
    cases h
    exact ⟨l2Find_line hx, .inl hx⟩
  · split at h
    · cases h
      exact ⟨rfl, .inr ⟨rfl, fun _ => rfl⟩⟩
    · cases h

theorem l2Line_found {compr : Bool} {l : L2Line} (h : l2Find s die line = some l) : l2Line s die part line compr = (s, some l) := by
  unfold l2Line
  rw [h]

theorem l2Line_none {compr : Bool} (h : l2Line s die part line compr = (s1, none)) : l2Find s1 die line = none := by
  unfold l2Line at h
  split at h
  · cases h
  · next hn =>
    split at h
    · cases h
    · next s2 ht =>
      cases h
      unfold takeWay at ht
      dsimp only at ht
      split at ht
      · cases ht
      · split at ht
        · cases ht
        · cases ht
          exact hn

/-- The sector of a compressed line that comes whole to L2. -/
theorem sectorBytes_packed {sec : Nat} {x : L2Sector} {e : Nat × List Byte} (h : sectorBytes s part sec = (s1, x))
    (he : packedStream s1 part (sec / 8) = some e) : x = { bytes := (((decodeLine e.1 e.2).getD []).drop (64 * (sec % 8))).take 64 } := by
  unfold sectorBytes at h
  obtain ⟨hs, hx⟩ := Prod.mk.inj h
  rw [hs] at hx
  unfold packedStream at he
  split at he
  · cases he
  · next hpoison =>
    obtain ⟨t, ht, rfl⟩ := Option.map_eq_some_iff.mp he
    rw [ht] at hx
    have hclean : s1.poison.contains sec = false := by
      refine Bool.eq_false_iff.mpr fun hc => hpoison (List.any_eq_true.mpr ⟨sec % 8, ?_, ?_⟩)
      · exact List.mem_range.mpr (Nat.mod_lt _ (by decide))
      · rw [Nat.div_add_mod]
        exact hc
    rw [← hx, hclean]
    rfl

theorem sectorBytes_clean {sec : Nat} {x : L2Sector} (h : sectorBytes s part sec = (s1, x)) : x.dirty = false := by
  unfold sectorBytes at h
  rw [← (Prod.mk.inj h).2]

theorem l2_countError (s : State) (d k die line : Nat) : l2Find (countError s d k) die line = l2Find s die line := by
  unfold l2Find countError
  by_cases h : die = d
  · subst h
    rw [dieOf_modDie]
  · rw [dieOf_modDie_other _ _ h]

theorem l2Find_sectorBytes (s : State) (part sec die line : Nat) : l2Find (sectorBytes s part sec).1 die line = l2Find s die line := by
  show l2Find (checkLine s part (sec / 8)) die line = _
  have hmark : ∀ (s : State) (k : Nat), (markPoison s k true).dies = s.dies := by
    intro s k
    unfold markPoison
    rw [if_pos rfl]
    split <;> rfl
  have hfold : ∀ (l : List Nat) (s : State) (b : Nat), (l.foldl (fun s k => markPoison s (b + k) true) s).dies = s.dies := by
    intro l s b
    induction l generalizing s with
    | nil => rfl
    | cons k l ih => exact (ih _).trans (hmark ..)
  unfold checkLine
  split
  · rfl
  · split
    · rfl
    · unfold poisonLine
      exact (l2_countError ..).trans (l2Find_of_dies (hfold ..) die line)

/-- The line of a sector that comes from memory holds it. -/
theorem l2Fill_held {sec : Nat} {x : L2Sector} {l : L2Line} (hx : sectorBytes s part sec = (s1, x))
    (hn : (l2Find s die (sec / 8)).bind (fun l => lineSector l (sec % 8)) = none) (hp : ∀ l, l2Find s die (sec / 8) = some l → hitLine part l)
    (h : l2Find (l2Fill s1 die part (sec / 8) (sec % 8) x) die (sec / 8) = some l) :
    lineSector l (sec % 8) = some x ∧ hitLine part l := by
  have hfind : l2Find s1 die (sec / 8) = l2Find s die (sec / 8) := by
    have := l2Find_sectorBytes s part sec die (sec / 8)
    rw [hx] at this
    exact this
  have hline : ∀ s2 l1, l2Line s1 die part (sec / 8) false = (s2, some l1) →
      l1.line = sec / 8 ∧ lineSector l1 (sec % 8) = none ∧ hitLine part l1 := by
    intro s2 l1 h1
    obtain ⟨hl, hor⟩ := l2Line_some h1
    rcases hor with hfound | ⟨hpart, hsec⟩
    · rw [hfind] at hfound
      rw [hfound] at hn
      exact ⟨hl, hn, hp l1 hfound⟩
    · exact ⟨hl, hsec _, .inl hpart⟩
  have hclean := sectorBytes_clean hx
  have hput : ∀ l1 : L2Line, lineSector (lineWith l1 part (sec % 8) l1.compr x) (sec % 8) = some x ∧
      (hitLine part l1 → hitLine part (lineWith l1 part (sec % 8) l1.compr x)) := by
    intro l1
    unfold lineWith
    rw [if_neg (by rw [hclean]; exact Bool.false_ne_true)]
    refine ⟨?_, fun hh => hh⟩
    unfold lineSector
    rw [tfind_tset, if_pos rfl]
    rfl
  have hread : ∀ (s2 : State) (l1 : L2Line), l1.line = sec / 8 → l2Find (l2Put s2 die l1) die (sec / 8) = some l → l = l1 := by
    intro s2 l1 hl1 hl
    rw [← hl1, l2Find_l2Put] at hl
    exact (Option.some.inj hl).symm
  unfold l2Fill at h
  split at h
  · next e s2 l1 he hl =>
    obtain ⟨hl1, hsec, hhit⟩ := hline _ _ hl
    split at h
    · rw [hread _ _ ((lineWith_line ..).trans hl1) h]
      exact ⟨(hput l1).1, (hput l1).2 hhit⟩
    · rw [hread s2 { l1 with packed := some e } hl1 h, sectorBytes_packed hx he]
      refine ⟨?_, hhit⟩
      exact lineSector_packed e (tfind_of_lineSector hsec)
  · next s2 l1 he hl =>
    obtain ⟨hl1, -, hhit⟩ := hline _ _ hl
    rw [hread _ _ ((lineWith_line ..).trans hl1) h]
    exact ⟨(hput l1).1, (hput l1).2 hhit⟩
  · next s2 hl =>
    rw [l2Line_none hl] at h
    cases h

/-- A fetched sector stands in its line. -/
theorem l2Fetch_held {l : L2Line} (h : l2Find (l2Fetch s die part pa).1 die (pa / 512) = some l) :
    lineSector l (pa / 64 % 8) = some (l2Fetch s die part pa).2 ∧ hitLine part l := by
  have hq : pa / 512 = pa / 64 / 8 := by omega
  unfold l2Fetch at h ⊢
  dsimp only at h ⊢
  split at h
  · next x hx =>
    dsimp only at h
    rw [h] at hx
    exact ⟨hx, l2Own_hit h⟩
  · next hn =>
    rw [hq] at h hn ⊢
    exact l2Fill_held rfl hn (fun _ => l2Own_hit) h

theorem l2Fetch_of_held {l : L2Line} {x : L2Sector} (h : l2Find s die (pa / 512) = some l) (hx : lineSector l (pa / 64 % 8) = some x)
    (hp : hitLine part l) : l2Fetch s die part pa = (s, x) := by
  unfold l2Fetch
  rw [l2Own_of_hit h hp]
  dsimp only
  rw [h, Option.bind_some, hx]

theorem l2Fetch_again {l : L2Line} (h : l2Find (l2Fetch s die part pa).1 die (pa / 512) = some l) :
    l2Fetch (l2Fetch s die part pa).1 die part pa = l2Fetch s die part pa :=
  l2Fetch_of_held h (l2Fetch_held h).1 (l2Fetch_held h).2

/-- Less than a sector written to its line. -/
theorem l2Store_held {compr : Bool} {bs : List Byte} {l : L2Line} (h : l2Find (l2Fetch s die part pa).1 die (pa / 512) = some l)
    (h64 : (l2Fetch s die part pa).2.bytes.length = 64) (hl : bs.length < 64) (hin : pa % 64 + bs.length ≤ 64) :
    l2Store s die part pa compr (enumFrom (pa % 64) bs) = l2Put (l2Fetch s die part pa).1 die (lineWith l part (pa / 64 % 8) compr
      { bytes := splice (l2Fetch s die part pa).2.bytes (pa % 64) bs, dirty := true, poisoned := (l2Fetch s die part pa).2.poisoned }) := by
  have hlen : (enumFrom (pa % 64) bs).length ≠ 64 := by
    rw [length_enumFrom]
    omega
  unfold l2Store
  rw [if_neg hlen]
  dsimp only
  rw [if_neg hlen, foldl_splice h64 hin]
  unfold l2Keep
  rw [l2Line_found h]

/-! ## No line held exclusively (R245) -/

theorem noneExclusive_of_cores (h : s'.cores = s.cores) (hn : noneExclusive s) : noneExclusive s' := by
  unfold noneExclusive
  rw [h]
  exact hn

theorem recallLine_none (h : noneExclusive s) (line : Nat) : recallLine s line = s := by
  have hfold : ∀ l : List (Nat × Core), (∀ c ∈ l, ∀ x ∈ c.2.l1, x.excl = false) →
      l.foldl (fun s c => (c.2.l1.filter fun l => l.excl && l1Pa s c.1 l.asid l.line / 512 == line).foldl
        (fun s l => giveUpLine s c.1 l) s) s = s := by
    intro l hl
    induction l with
    | nil => rfl
    | cons c l ih =>
      have hnil : (c.2.l1.filter fun l => l.excl && l1Pa s c.1 l.asid l.line / 512 == line) = [] := by
        refine List.filter_eq_nil_iff.mpr fun x hx => ?_
        rw [hl c (List.mem_cons_self ..) x hx]
        exact Bool.false_ne_true
      rw [List.foldl_cons, hnil, List.foldl_nil]
      exact ih fun c hc => hl c (List.mem_cons_of_mem _ hc)
  exact hfold s.cores h

/-! ## Bytes written at their place (R222, R245) -/

/-- Bytes written with an access noted, before or after their sector is fetched. -/
theorem placeWritten_of {s0 S : State} {c : Ctx} {p : Piece} {bs : List Byte} {compr : Bool} (hp : wholePiece p bs) (hne : noneExclusive s0)
    (hS : S = s0 ∨ S = (l2Fetch s0 (l2DieOf (p.va / 2 ^ 55 % 4) p.pa) c.part p.pa).1) :
    PlaceWritten s0 (l2Touch (l2Write S (l2DieOf (p.va / 2 ^ 55 % 4) p.pa) c.part p.pa compr bs) (l2DieOf (p.va / 2 ^ 55 % 4) p.pa) c p.pa none)
      c p bs := by
  obtain ⟨hlen, hpos, hle, -, hin⟩ := hp
  rw [← hlen] at hin hle
  unfold PlaceWritten
  dsimp only
  intro l hl h64
  generalize hdie : l2DieOf (p.va / 2 ^ 55 % 4) p.pa = die at hS hl h64 ⊢
  have hheld := l2Fetch_held hl
  have hf1 : (l2Fetch s0 die c.part p.pa).1.cores = s0.cores := l2Fetch_cores ..
  have hw : l2Write S die c.part p.pa compr bs =
      l2Put (l2Fetch s0 die c.part p.pa).1 die (lineWith l c.part (p.pa / 64 % 8) compr
        { bytes := splice (l2Fetch s0 die c.part p.pa).2.bytes (p.pa % 64) bs, dirty := true
          poisoned := (l2Fetch s0 die c.part p.pa).2.poisoned }) := by
    unfold l2Write
    rcases hS with rfl | rfl
    · rw [recallLine_none hne]
      exact l2Store_held hl h64 (by omega) hin
    · rw [recallLine_none (noneExclusive_of_cores hf1 hne)]
      have ha := l2Fetch_again hl
      refine (l2Store_held (l := l) (by rw [ha]; exact hl) (by rw [ha]; exact h64) (by omega) hin).trans ?_
      rw [ha]
  rw [hw]
  generalize hf : l2Fetch s0 die c.part p.pa = f at *
  generalize hx : ({ bytes := splice f.2.bytes (p.pa % 64) bs, dirty := true, poisoned := f.2.poisoned } : L2Sector) = x
  have hxd : x.dirty = true := by rw [← hx]
  have hline : (lineWith l c.part (p.pa / 64 % 8) compr x).line = p.pa / 512 := (lineWith_line ..).trans (l2Find_line hl)
  have hput := sameBytes_l2Put f.1 die (lineWith l c.part (p.pa / 64 % 8) compr x)
  have hfound := l2Find_l2Put f.1 die (lineWith l c.part (p.pa / 64 % 8) compr x)
  rw [hline] at hput hfound
  obtain ⟨htouch, l', hl', hpart, hsec⟩ := l2Touch_found c hfound
  refine ⟨sameBytes_trans hput htouch, ⟨l', hl', fun k hk => ?_⟩, ?_⟩
  · rw [hsec, lineSector_lineWith hxd hk]
  · have hne1 : noneExclusive (l2Touch (l2Put f.1 die (lineWith l c.part (p.pa / 64 % 8) compr x)) die c p.pa none) :=
      noneExclusive_of_cores ((l2Touch_cores ..).trans ((l2Put_cores ..).trans hf1)) hne
    have hk8 : p.pa / 64 % 8 < 8 := Nat.mod_lt _ (by decide)
    have hfetch := l2Fetch_of_held (part := c.part) hl' ((hsec _).trans ((lineSector_lineWith hxd hk8).trans (if_pos rfl)))
      (.inl (hpart.trans (lineWith_part hxd)))
    have hread : l2Read (l2Touch (l2Put f.1 die (lineWith l c.part (p.pa / 64 % 8) compr x)) die c p.pa none) die c.part p.pa p.len =
        (l2Touch (l2Put f.1 die (lineWith l c.part (p.pa / 64 % 8) compr x)) die c p.pa none, bs, f.2.poisoned) := by
      unfold l2Read
      rw [recallLine_none hne1, hfetch, ← hx, ← hlen]
      dsimp only
      rw [read_splice (by omega)]
    unfold placeRead
    dsimp only
    rw [hdie, hread]
    rfl

end

end Sys2Proof.Machine
end

section
/-! SUPPORT. Bytes stored in an L1 line, in a combining buffer, and at the place of a line whose copies go (R218, R220, R229, R245). -/
namespace Sys2Proof.Machine
open Sys2Proof.Claims

-- Each lemma here serves the next ones: elaborated in order, they keep no thread waiting.
set_option Elab.async false

section
variable {s s' s0 s1 : State} {core asid line : Nat}

/-! ## Lines of an L1 -/

theorem l1Find_l1Put (s : State) (core : Nat) (l : L1Line) : l1Find (l1Put s core l) core l.asid l.line = some l := by
  unfold l1Find l1Put
  rw [coreOf_modCore, apply_ite Core.l1]
  exact find_put_same (p := fun x : L1Line => x.asid == l.asid && x.line == l.line) (by simp)

theorem l1Find_l1Put_other (s : State) {core k a n : Nat} {l : L1Line} (h : (k, a, n) ≠ (core, l.asid, l.line)) :
    l1Find (l1Put s core l) k a n = l1Find s k a n := by
  unfold l1Find l1Put
  by_cases hk : k = core
  · subst hk
    have hne : ¬ (l.asid = a ∧ l.line = n) := fun hl => h (by rw [hl.1, hl.2])
    rw [coreOf_modCore, apply_ite Core.l1]
    refine find_put_other (p := fun x : L1Line => x.asid == l.asid && x.line == l.line)
      (q := fun x : L1Line => x.asid == a && x.line == n) ?_ fun y hy => ?_
    · simpa using hne
    · obtain ⟨hya, hyl⟩ : y.asid = l.asid ∧ y.line = l.line := by simpa using hy
      rw [hya, hyl]
      simpa using hne
  · rw [coreOf_modCore_other _ _ hk]

theorem l1Find_key {l : L1Line} (h : l1Find s core asid line = some l) : l.asid = asid ∧ l.line = line := by
  have := List.find?_some h
  simpa using this

theorem l1Find_none_iff : l1Find s core asid line = none ↔ (asid, line) ∉ lineKeys s core := by
  unfold l1Find lineKeys
  simp only [List.find?_eq_none, Bool.and_eq_true, beq_iff_eq, List.mem_map, Prod.mk.injEq, not_exists, not_and]

theorem sameBytes_l1Put (s : State) (core : Nat) (l : L1Line) : SameBytes s (l1Put s core l) none (some (core, l.asid, l.line)) none := by
  refine ⟨⟨rfl, rfl, rfl, rfl⟩, fun _ _ _ => l2Find_of_dies rfl .., fun _ _ _ h => l1Find_l1Put_other s fun he => h (congrArg some he),
    fun k _ => ?_⟩
  unfold l1Put
  by_cases hk : k = core
  · subst hk
    rw [coreOf_modCore]
    split <;> rfl
  · rw [coreOf_modCore_other _ _ hk]

theorem l1Find_l1Put_of (s : State) (core : Nat) {l : L1Line} (ha : l.asid = asid) (hl : l.line = line) :
    l1Find (l1Put s core l) core asid line = some l := by
  subst ha hl
  exact l1Find_l1Put ..

theorem sameBytes_l1Put_of (s : State) (core : Nat) {l : L1Line} (ha : l.asid = asid) (hl : l.line = line) :
    SameBytes s (l1Put s core l) none (some (core, asid, line)) none := by
  subst ha hl
  exact sameBytes_l1Put ..

/-- A core changed in neither its lines nor its buffer. -/
theorem sameBytes_modCore {f : Core → Core} (hl : ∀ k, (f k).l1 = k.l1) (hb : ∀ k, (f k).combine = k.combine)
    (a : Option (Nat × Nat)) (b : Option (Nat × Nat × Nat)) (n : Option Nat) : SameBytes s (modCore s core f) a b n := by
  refine ⟨⟨rfl, rfl, rfl, rfl⟩, fun _ _ _ => l2Find_of_dies rfl .., fun k _ _ _ => ?_, fun k _ => ?_⟩
  · unfold l1Find
    by_cases hk : k = core
    · subst hk
      rw [coreOf_modCore, hl]
    · rw [coreOf_modCore_other _ _ hk]
  · by_cases hk : k = core
    · subst hk
      rw [coreOf_modCore, hb]
    · rw [coreOf_modCore_other _ _ hk]

theorem sameBytes_putGrant (s : State) (core asid line pa : Nat) (a : Option (Nat × Nat)) (b : Option (Nat × Nat × Nat)) (n : Option Nat) :
    SameBytes s (putGrant s core asid line pa) a b n := by
  refine ⟨⟨rfl, rfl, rfl, rfl⟩, fun die _ _ => ?_, fun _ _ _ _ => l1Find_of_cores rfl .., fun _ _ => combine_of_cores rfl _⟩
  unfold l2Find putGrant
  by_cases h : die = lineOwner line
  · subst h
    rw [dieOf_modDie]
  · rw [dieOf_modDie_other _ _ h]

/-! ## Bytes stored in a line (R218) -/

/-- A line with bytes stored at an offset. -/
def lineWithBytes (l : L1Line) (o : Nat) (bs : List Byte) : L1Line :=
  { dropRange l o bs.length with dirty := (enumFrom o bs).foldl (fun t e => tset t e.1 e.2) l.dirty }

theorem tfind_dirty_stored (l : L1Line) (o : Nat) (bs : List Byte) (k : Nat) :
    tfind (lineWithBytes l o bs).dirty k = if o ≤ k ∧ k < o + bs.length then some (bs.getD (k - o) 0) else tfind l.dirty k :=
  tfind_setBytes o bs l.dirty k

theorem l1Byte_stored (l : L1Line) (o : Nat) (bs : List Byte) (k : Nat) :
    l1Byte (lineWithBytes l o bs) k = if o ≤ k ∧ k < o + bs.length then some (bs.getD (k - o) 0) else l1Byte l k := by
  unfold l1Byte
  rw [tfind_dirty_stored]
  by_cases h : o ≤ k ∧ k < o + bs.length
  · rw [if_pos h, if_pos h]
    rfl
  · rw [if_neg h, if_neg h]
    have hc : tfind (lineWithBytes l o bs).clean k = tfind l.clean k := by
      refine (tfind_filter l.clean (fun x => !(o ≤ x && x < o + bs.length)) k).trans (if_pos ?_)
      simp only [Bool.not_eq_true', Bool.and_eq_false_iff, decide_eq_false_iff_not]
      omega
    rw [hc]

theorem lineWritten_stored {p : Piece} {bs : List Byte} {l : L1Line} (hs : SameBytes s0 s1 none (some (core, asid, p.va / 512)) none)
    (ha : l.asid = asid) (hl : l.line = p.va / 512) (hb : ∀ k, l1Byte l k = (l1Find s0 core asid (p.va / 512)).bind fun x => l1Byte x k) :
    LineWritten s0 (l1Put s1 core (lineWithBytes l (p.va % 512) bs)) core asid p bs ∧
      l1Find (l1Put s1 core (lineWithBytes l (p.va % 512) bs)) core asid (p.va / 512) = some (lineWithBytes l (p.va % 512) bs) := by
  have hput : SameBytes s1 _ none (some (core, asid, p.va / 512)) none :=
    sameBytes_l1Put_of s1 core (l := lineWithBytes l (p.va % 512) bs) ha hl
  have hfind := l1Find_l1Put_of s1 core (l := lineWithBytes l (p.va % 512) bs) ha hl
  refine ⟨⟨sameBytes_trans hs hput, _, hfind, fun k _ => ?_⟩, hfind⟩
  rw [l1Byte_stored, hb]

/-! ## A store through the L1 (R218, R220) -/

theorem lineKeys_l1Room {k : Nat × Nat} (h : k ∈ lineKeys (l1Room s core line) core) : k ∈ lineKeys s core := by
  unfold l1Room at h
  dsimp only at h
  split at h
  · exact h
  · split at h
    · exact (mem_lineKeys_l1Evict h).1
    · exact h

/-- A store that allocates: the line that it leaves, in a state that holds its other bytes where they were. -/
theorem l1Store_eq {c : Ctx} {va pa hint : Nat} {attr : PageAttr} {bs : List Byte} (h3 : hint ≠ 3) (hc : l1Core s c.core va = core)
    (ha : asidOf s c.part c.sec = asid) : ∃ s1 l, l1Store s c va pa hint attr bs = l1Put s1 core (lineWithBytes l (va % 512) bs) ∧
      SameBytes (lineRoom s core asid (va / 512)) s1 none (some (core, asid, va / 512)) none ∧ l.asid = asid ∧ l.line = va / 512 ∧
      ∀ k, l1Byte l k = (l1Find (lineRoom s core asid (va / 512)) core asid (va / 512)).bind fun x => l1Byte x k := by
  have hflume : ∀ (s2 : State) (b : Bool), SameBytes s2
      (if b then modCore s2 core fun k => { k with flume := k.flume ++ [(asid, va / 512)] } else s2)
      none (some (core, asid, va / 512)) none := by
    intro s2 b
    split
    · exact sameBytes_modCore (f := fun k : Core => { k with flume := k.flume ++ [(asid, va / 512)] }) (fun _ => rfl) (fun _ => rfl) ..
    · exact sameBytes_refl ..
  unfold l1Store lineRoom
  dsimp only
  rw [if_neg h3, hc, ha]
  cases hf : l1Find s core asid (va / 512) with
  | some l =>
    rw [Option.isSome_some, if_pos rfl, if_pos rfl]
    unfold l1Alloc
    rw [hf]
    dsimp only
    obtain ⟨hla, hll⟩ := l1Find_key hf
    refine ⟨_, l, rfl, sameBytes_trans ?_ (hflume _ _), hla, hll, fun k => rfl⟩
    split
    · exact sameBytes_putGrant ..
    · exact sameBytes_refl ..
  | none =>
    have hkey := l1Find_none_iff.mp hf
    have hcount : l1Find (countEvent s core 4 1) core asid (va / 512) = none := by
      rw [l1Find_none_iff, lineKeys_countEvent]
      exact hkey
    have hroom : l1Find (l1Room (countEvent s core 4 1) core (va / 512)) core asid (va / 512) = none :=
      l1Find_none_iff.mpr fun h => l1Find_none_iff.mp hcount (lineKeys_l1Room h)
    rw [Option.isSome_none, if_neg Bool.false_ne_true, if_neg Bool.false_ne_true]
    unfold l1Alloc
    rw [hcount]
    dsimp only
    refine ⟨_, { asid := asid, line := va / 512, part := c.part, attr := attr, next := hint == 1 }, rfl, ?_, rfl, rfl, fun k => ?_⟩
    · refine sameBytes_trans (sameBytes_putGrant _ core asid (va / 512) (pa / 512 * 512) ..) (sameBytes_trans ?_ (hflume _ _))
      exact sameBytes_l1Put _ core { asid := asid, line := va / 512, part := c.part, attr := attr, next := hint == 1 }
    · rw [hroom]
      rfl

/-! ## Loads of dirty bytes (R218) -/

theorem map_enum_map {α : Type} (l : List α) (g : α → Nat) (f : Nat → Option Byte) (d : Nat → Byte) (j : Nat)
    (h : ∀ i ∈ l, (f (g i)).isSome) :
    ((enumFrom j (l.map g)).map fun e => (f e.2).getD (d e.1)) = l.map fun i => (f (g i)).getD 0 := by
  induction l generalizing j with
  | nil => rfl
  | cons x r ih =>
    obtain ⟨y, hy⟩ := Option.isSome_iff_exists.mp (h x (List.mem_cons_self ..))
    rw [List.map_cons, enumFrom, List.map_cons, List.map_cons, ih (j + 1) fun i hi => h i (List.mem_cons_of_mem _ hi)]
    dsimp only
    rw [hy]
    rfl

/-- A load of bytes that the L1 holds dirty answers them, whatever its hint. -/
theorem l1Load_dirty {c : Ctx} {va pa hint grid : Nat} {attr : PageAttr} {bs : List Byte} {l : L1Line}
    (hl : l1Find s (l1Core s c.core va) (asidOf s c.part c.sec) (va / 512) = some l)
    (hd : ∀ i < bs.length, tfind l.dirty (va % 512 + i) = some (bs.getD i 0)) :
    (l1Load s c va pa bs.length hint attr grid).2 = (bs, false) := by
  have hread : ∀ f : Nat → Option Byte, (∀ i < bs.length, f (va % 512 + i) = some (bs.getD i 0)) →
      (List.range bs.length).map (fun i => (f (va % 512 + i)).getD 0) = bs := fun f hf =>
    map_range_getD bs _ fun i hi => by rw [hf i hi]; rfl
  have hall : ∀ f : Nat → Option Byte, (∀ i < bs.length, f (va % 512 + i) = some (bs.getD i 0)) →
      (((List.range bs.length).map fun i => va % 512 + i).all fun o => (f o).isSome) = true := by
    intro f hf
    refine List.all_eq_true.mpr fun o ho => ?_
    obtain ⟨i, hi, rfl⟩ := List.mem_map.mp ho
    rw [hf i (List.mem_range.mp hi)]
    rfl
  unfold l1Load
  dsimp only
  rw [hl]
  split
  · dsimp only [Option.map_some, Option.getD_some]
    rw [hall _ hd]
    refine Prod.ext ?_ (Bool.and_false _)
    refine (map_enum_map _ (fun i => va % 512 + i) (tfind l.dirty)
      (fun k => (l2Read s (l2DieOf (va / 2 ^ 55 % 4) pa) c.part (pa / 64 * 64) 64).2.1.getD (pa % 64 + k) 0) 0 fun i hi => ?_).trans (hread _ hd)
    rw [hd i (List.mem_range.mp hi)]
    rfl
  · have hb : ∀ i < bs.length, l1Byte l (va % 512 + i) = some (bs.getD i 0) := by
      intro i hi
      unfold l1Byte
      rw [hd i hi]
      rfl
    rw [if_pos]
    · refine Prod.ext ?_ rfl
      rw [List.map_map]
      exact hread _ hb
    · rw [Option.any_some]
      exact hall _ hb

end

end Sys2Proof.Machine
end

section
/-! SUPPORT. The pieces of a store and an atomic's place, by the memory type of their page (R220, R229, R245). -/
namespace Sys2Proof.Machine
open Sys2Proof.Claims

-- Each lemma here serves the next ones: elaborated in order, they keep no thread waiting.
set_option Elab.async false

section
variable {s s' : State} {core asid line : Nat} {c : Ctx} {p : Piece} {bs : List Byte}

/-! ## The combining buffer (R229) -/

theorem combine_modCore {f : Core → Core} (hf : ∀ k, (f k).combine = k.combine) (k : Nat) :
    (coreOf (modCore s core f) k).combine = (coreOf s k).combine := by
  by_cases hk : k = core
  · subst hk
    rw [coreOf_modCore, hf]
  · rw [coreOf_modCore_other _ _ hk]

theorem combine_giveUpLine (s : State) (core : Nat) (l : L1Line) (k : Nat) :
    (coreOf (giveUpLine s core l) k).combine = (coreOf s k).combine := by
  unfold giveUpLine
  dsimp only
  refine (combine_modCore ?_ k).trans ?_
  · exact fun _ => rfl
  · split
    · rfl
    · exact combine_of_cores (mergeDirty_cores ..) k

theorem combine_foldl {α : Type} {f : State → α → State} {s : State} {l : List α} {k : Nat}
    (hf : ∀ s x, (coreOf (f s x) k).combine = (coreOf s k).combine) : (coreOf (l.foldl f s) k).combine = (coreOf s k).combine := by
  induction l generalizing s with
  | nil => rfl
  | cons x l ih => exact ih.trans (hf s x)

theorem combine_recallLine (s : State) (line k : Nat) : (coreOf (recallLine s line) k).combine = (coreOf s k).combine :=
  combine_foldl fun _ _ => combine_foldl fun _ _ => combine_giveUpLine ..

theorem combine_combineFlush (s : State) (core : Nat) : (coreOf (combineFlush s core) core).combine = none := by
  unfold combineFlush
  split
  · assumption
  · dsimp only
    rw [combine_of_cores ((l2Touch_cores ..).trans (l2Merge_cores ..)), combine_recallLine, coreOf_modCore]

theorem combine_l2Read (s : State) (die part pa n k : Nat) : (coreOf (l2Read s die part pa n).1 k).combine = (coreOf s k).combine :=
  (combine_of_cores (s' := (l2Read s die part pa n).1) (l2Fetch_cores ..) k).trans (combine_recallLine ..)

/-- A load of bytes that the buffer of the core holds answers them. -/
theorem combineLoad_own {b : Combine} {va pa : Nat} (hb : (coreOf s c.core).combine = some b) (hl : b.line = pa / 512)
    (hd : ∀ i < bs.length, tfind b.bytes (pa % 512 + i) = some (bs.getD i 0))
    (hlen : (l2Read s (l2DieOf (va / 2 ^ 55 % 4) pa) c.part pa bs.length).2.1.length = bs.length) :
    (combineLoad s c va pa bs.length).2 = (bs, false) := by
  unfold combineLoad
  dsimp only
  rw [combine_l2Read, hb]
  dsimp only
  rw [hl, beq_self_eq_true, if_pos rfl]
  refine Prod.ext (map_enum_getD _ bs _ (tfind b.bytes) hlen hd) ?_
  have hall : ((List.range bs.length).all fun i => (tfind b.bytes (pa % 512 + i)).isSome) = true := by
    refine List.all_eq_true.mpr fun i hi => ?_
    rw [hd i (List.mem_range.mp hi)]
    rfl
  dsimp only
  rw [hall]
  exact Bool.and_false _

/-- The buffer of a core with the bytes of a piece, or one that begins with them. -/
def joined (c : Ctx) (p : Piece) (bs : List Byte) (k : Core) : Combine :=
  let b := k.combine.getD { die := l2DieOf (p.va / 2 ^ 55 % 4) p.pa, line := p.pa / 512, part := c.part }
  { b with bytes := (enumFrom (p.pa % 512) bs).foldl (fun t e => tset t e.1 e.2) b.bytes }

/-- The state in which a store finds the buffer: one of another line or partition has been written back. -/
def bufferReady (s : State) (c : Ctx) (p : Piece) : State :=
  if (coreOf s c.core).combine.any fun b => b.line = p.pa / 512 ∧ b.part = c.part then s else combineFlush s c.core

theorem combineStore_eq (s : State) (c : Ctx) (p : Piece) (bs : List Byte) : combineStore s c p.va p.pa bs =
    modCore (bufferReady s c p) c.core fun k => { k with combine := some (joined c p bs k) } := by
  unfold combineStore bufferReady joined
  dsimp only
  cases (coreOf s c.core).combine with
  | none => rfl
  | some b =>
    dsimp only
    rw [Option.any_some, Bool.decide_and]
    rfl

theorem bufferReady_line {b : Combine} (h : (coreOf (bufferReady s c p) c.core).combine = some b) : b.line = p.pa / 512 := by
  unfold bufferReady at h
  split at h
  · next hany =>
    rw [h, Option.any_some, decide_eq_true_eq] at hany
    exact hany.1
  · rw [combine_combineFlush] at h
    cases h

theorem joined_line : (joined c p bs (coreOf (bufferReady s c p) c.core)).line = p.pa / 512 := by
  unfold joined
  cases h : (coreOf (bufferReady s c p) c.core).combine with
  | none => rfl
  | some b =>
    show b.line = _
    exact bufferReady_line h

theorem tfind_joined (k : Core) (j : Nat) : tfind (joined c p bs k).bytes j =
    if p.pa % 512 ≤ j ∧ j < p.pa % 512 + bs.length then some (bs.getD (j - p.pa % 512) 0) else k.combine.bind fun x => tfind x.bytes j := by
  refine (tfind_setBytes ..).trans ?_
  cases k.combine with
  | none => rfl
  | some b => rfl

theorem bufferWritten_of (hp : wholePiece p bs) : BufferWritten (bufferReady s c p) (combineStore s c p.va p.pa bs) c p bs := by
  obtain ⟨hlen, -, -, -, -⟩ := hp
  rw [combineStore_eq]
  generalize hs1 : (modCore (bufferReady s c p) c.core fun k => { k with combine := some (joined c p bs k) }) = s1
  have hcore : ∀ k, (coreOf s1 k).l1 = (coreOf (bufferReady s c p) k).l1 := by
    intro k
    rw [← hs1]
    by_cases hk : k = c.core
    · subst hk
      rw [coreOf_modCore]
    · rw [coreOf_modCore_other _ _ hk]
  have hbuf : (coreOf s1 c.core).combine = some (joined c p bs (coreOf (bufferReady s c p) c.core)) := by
    rw [← hs1, coreOf_modCore]
  have hframe : s1 = { bufferReady s c p with cores := s1.cores } := by
    rw [← hs1]
    rfl
  have hbytes := tfind_joined (c := c) (p := p) (bs := bs) (coreOf (bufferReady s c p) c.core)
  refine ⟨⟨?_, fun d l _ => ?_, fun k a l _ => ?_, fun k hk => ?_⟩, ⟨_, hbuf, joined_line, fun k _ => hbytes k⟩, fun hread => ?_⟩
  · rw [hframe]
    exact ⟨rfl, rfl, rfl, rfl⟩
  · rw [hframe]
    exact l2Find_of_dies rfl ..
  · unfold l1Find
    rw [hcore]
  · rw [← hs1, coreOf_modCore_other _ _ fun h => hk (congrArg some h)]
  · rw [← hlen] at hread ⊢
    refine combineLoad_own hbuf joined_line (fun i hi => ?_) hread
    rw [hbytes, if_pos (by omega), Nat.add_sub_cancel_left]

/-! ## A store past the L1 of its core (R220) -/

theorem noneExclusive_l1 (h : noneExclusive s) {k : Nat} {l : L1Line} (hl : l ∈ (coreOf s k).l1) : l.excl = false := by
  have hall : ∀ x ∈ (coreOf s k).l1, x.excl = false :=
    Laws.tget_mem k (fun c : Core => ∀ x ∈ c.l1, x.excl = false) h fun _ hx => by cases hx
  exact hall l hl

theorem noneExclusive_modCore (h : noneExclusive s) {f : Core → Core} (hf : ∀ l ∈ (f (coreOf s core)).l1, l.excl = false) :
    noneExclusive (modCore s core f) := by
  intro x hx
  rcases Laws.mem_tset hx with hx | rfl
  · exact h x hx
  · exact hf

theorem noneExclusive_l1Put (h : noneExclusive s) {l : L1Line} (hl : l.excl = false) : noneExclusive (l1Put s core l) := by
  refine noneExclusive_modCore h fun x hx => ?_
  rw [apply_ite Core.l1] at hx
  rcases mem_put (p := fun x : L1Line => x.asid == l.asid && x.line == l.line) hx with hx | rfl
  · exact noneExclusive_l1 h hx
  · exact hl

theorem noneExclusive_countEvent (h : noneExclusive s) (ev n : Nat) : noneExclusive (countEvent s core ev n) := by
  unfold countEvent
  dsimp only
  split
  · exact noneExclusive_modCore h fun _ hl => noneExclusive_l1 h hl
  · exact h

theorem noneExclusive_l1WriteBack (h : noneExclusive s) : noneExclusive (l1WriteBack s core asid line) := by
  have hflume : noneExclusive (modCore s core fun c => { c with flume := c.flume.filter fun e => e != (asid, line) }) :=
    noneExclusive_modCore h fun _ hl => noneExclusive_l1 h hl
  unfold l1WriteBack
  split
  · exact h
  · dsimp only
    split
    · exact hflume
    · next l _ _ =>
      have hput := noneExclusive_l1Put (core := core) (l := { l with excl := false }) (noneExclusive_countEvent (core := core) hflume 5 1) rfl
      rw [recallLine_none hput]
      refine noneExclusive_of_cores (mergeDirty_cores ..) (noneExclusive_l1Put hput ?_)
      rfl

theorem noneExclusive_ownCopiesGone (h : noneExclusive s) : noneExclusive (ownCopiesGone s core asid p) := by
  have hw := noneExclusive_l1WriteBack (core := core) (asid := asid) (line := p.va / 512) h
  unfold ownCopiesGone
  dsimp only
  split
  · next l hl =>
    have hx : l.excl = false := noneExclusive_l1 hw (List.mem_of_find?_eq_some hl)
    exact noneExclusive_l1Put hw (l := dropRange l (p.va % 512) p.len) hx
  · exact hw

/-! ## One piece (Table 9.5) -/

theorem l1Core_of_kept (h : kept s' = kept s) (core va : Nat) : l1Core s' core va = l1Core s core va := by
  have hc : s'.clusters = s.clusters := clusters_of_kept h
  unfold l1Core clusterOf
  rw [hc]

theorem asidOf_of_deep (h : deep s' = deep s) (part : Nat) (sec : Bool) : asidOf s' part sec = asidOf s part sec := by
  have hp : (partOf s' part).pasid = (partOf s part).pasid := (congrArg Partition.pasid (office_of_deep h part) :)
  unfold asidOf
  rw [hp]

theorem windowOf_of_deep (h : deep s' = deep s) (part : Nat) (sec : Bool) (va : Nat) : windowOf s' part sec va = windowOf s part sec va := by
  unfold windowOf windowVa descOf
  rw [desc_of_deep h]

/-- A store that stays in the L1 of its core, and reads back there. -/
theorem l1Store_written {hint : Nat} (h3 : hint ≠ 3) (hp : wholePiece p bs) (hc : l1Core s c.core p.va = core)
    (ha : asidOf s c.part c.sec = asid) :
    LineWritten (lineRoom s core asid (p.va / 512)) (l1Store s c p.va p.pa hint p.attr bs) core asid p bs ∧
      ∀ h grid, (l1Load (l1Store s c p.va p.pa hint p.attr bs) c p.va p.pa p.len h p.attr grid).2 = (bs, false) := by
  have hcore : l1Core (l1Store s c p.va p.pa hint p.attr bs) c.core p.va = core := (l1Core_of_kept (l1Store_kept ..) ..).trans hc
  have hasid : asidOf (l1Store s c p.va p.pa hint p.attr bs) c.part c.sec = asid := (asidOf_of_deep (l1Store_deep ..) ..).trans ha
  obtain ⟨s1, l, he, hs, hla, hll, hb⟩ := l1Store_eq (pa := p.pa) (attr := p.attr) (bs := bs) h3 hc ha
  obtain ⟨hw, hf⟩ := lineWritten_stored hs hla hll hb
  rw [← he] at hw hf
  obtain ⟨hlen, -, -, -, -⟩ := hp
  refine ⟨hw, fun h grid => ?_⟩
  rw [← hlen]
  refine l1Load_dirty (l := lineWithBytes l (p.va % 512) bs) (by rw [hcore, hasid]; exact hf) fun i hi => ?_
  rw [tfind_dirty_stored, if_pos (by omega), Nat.add_sub_cancel_left]

/-- A store of hint 3. -/
theorem l1Store_past (hp : wholePiece p bs) (hne : noneExclusive s) :
    PlaceWritten (ownCopiesGone s (l1Core s c.core p.va) (asidOf s c.part c.sec) p) (l1Store s c p.va p.pa 3 p.attr bs) c p bs := by
  have he : l1Store s c p.va p.pa 3 p.attr bs = l2Touch (l2Write (ownCopiesGone s (l1Core s c.core p.va) (asidOf s c.part c.sec) p)
      (l2DieOf (p.va / 2 ^ 55 % 4) p.pa) c.part p.pa p.attr.compr bs) (l2DieOf (p.va / 2 ^ 55 % 4) p.pa) c p.pa none := by
    unfold l1Store ownCopiesGone
    rw [hp.1]
    rfl
  rw [he]
  exact placeWritten_of hp (noneExclusive_ownCopiesGone hne) (.inl rfl)

theorem storePiece_normal {hint : Nat} (h : p.attr.mtype = 0) : storePiece s c p hint bs = l1Store s c p.va p.pa hint p.attr bs := by
  unfold storePiece
  rw [h]
  rfl

theorem storePiece_device {hint : Nat} (h : p.attr.mtype = 2 ∨ p.attr.mtype = 3) :
    storePiece s c p hint bs = deviceStore s c.part p.pa bs := by
  unfold storePiece placeWrite
  rcases h with h | h <;> rw [h] <;> rfl

theorem storePiece_place {hint : Nat} (h : 4 ≤ p.attr.mtype) : storePiece s c p hint bs =
    l2Touch (l2Write s (l2DieOf (p.va / 2 ^ 55 % 4) p.pa) c.part p.pa p.attr.compr bs) (l2DieOf (p.va / 2 ^ 55 % 4) p.pa) c p.pa none := by
  unfold storePiece placeWrite
  split
  · omega
  · omega
  · refine if_neg ?_
    simp only [Bool.or_eq_true, decide_eq_true_eq]
    omega

theorem pieceStored (s : State) (c : Ctx) (hint : Nat) (p : Piece) (bs : List Byte) :
    PieceStored s (storePiece s c p hint bs) c hint p bs := by
  intro hp
  refine ⟨fun h0 h3 => ?_, fun h0 h3 hne => ?_, fun h1 => ?_, fun h2 _ hm hraw => ?_, fun h4 hne => ?_⟩
  · rw [storePiece_normal h0]
    obtain ⟨hw, hl⟩ := l1Store_written h3 hp rfl rfl
    refine ⟨hw, fun h grid => ?_⟩
    unfold loadPiece
    rw [h0]
    exact hl h grid
  · subst h3
    rw [storePiece_normal h0]
    exact l1Store_past hp hne
  · have he : storePiece s c p hint bs = combineStore s c p.va p.pa bs := by
      unfold storePiece
      rw [h1]
      rfl
    rw [he]
    exact bufferWritten_of hp
  · rw [storePiece_device h2]
    exact deviceWritten_of hp hm hraw
  · rw [storePiece_place h4]
    exact placeWritten_of hp hne (.inl rfl)

/-! ## The pieces of a store -/

theorem storePieces_plain {g : Group} {tid hint : Nat} {r : List Piece} (h : p.attr.mtype = 2 → windowOf s c.part c.sec p.va = none) :
    storePieces s c g tid hint (p :: r) bs = storePieces (storePiece s c p hint (bs.take p.len)) c g tid hint r (bs.drop p.len) := by
  rw [storePieces]
  by_cases h2 : p.attr.mtype = 2
  · rw [if_pos h2, h h2]
  · rw [if_neg h2]

theorem storePieces_kept {g : Group} {tid hint : Nat} {ps : List Piece} {bs : List Byte} {s : State} (h : ∀ p ∈ ps, p.attr.mtype ≠ 2) :
    kept (storePieces s c g tid hint ps bs) = kept s := by
  induction ps generalizing s bs with
  | nil => rfl
  | cons p r ih =>
    rw [storePieces_plain fun h2 => absurd h2 (h p (List.mem_cons_self ..))]
    exact (ih fun x hx => h x (List.mem_cons_of_mem _ hx)).trans (storePiece_kept ..)

theorem piecesStored {g : Group} {tid hint : Nat} {ps : List Piece} {bs : List Byte} {s : State}
    (h : ∀ p ∈ ps, p.attr.mtype = 2 → windowOf s c.part c.sec p.va = none) :
    PiecesStored c hint ps bs s (storePieces s c g tid hint ps bs) := by
  induction ps generalizing s bs with
  | nil => rfl
  | cons p r ih =>
    rw [storePieces_plain (h p (List.mem_cons_self ..))]
    refine ⟨_, pieceStored _ _ _ _ _, ih fun x hx h2 => ?_⟩
    rw [windowOf_of_deep (storePiece_deep ..)]
    exact h x (List.mem_cons_of_mem _ hx) h2

/-! ## Atomics (R245, R262) -/

section
variable {am size : Nat} {y cmp : DWord}

/-- An atomic at its home, from the bytes that stand there. -/
def atHome (c : Ctx) (p : Piece) (am : Nat) (y cmp : DWord) (r : State × List Byte × Bool) : State × Nat × Bool :=
  let die := l2DieOf (p.va / 2 ^ 55 % 4) p.pa
  if r.2.2 then (r.1, 0, true)
  else
    match atomBytes r.2.1 am p.len y cmp with
    | some new => (l2Touch (l2Write r.1 die c.part p.pa p.attr.compr new) die c p.pa none, leNat r.2.1, false)
    | none => (l2Touch r.1 die c p.pa none, leNat r.2.1, false)

theorem atomicAtHome_eq (s : State) (c : Ctx) (asid : Nat) (p : Piece) : atomicAtHome s c asid p am p.len y cmp = atHome c p am y cmp
    (l2Read (l2Single (ownCopiesGone s (l1Core s c.core p.va) asid p) (l2DieOf (p.va / 2 ^ 55 % 4) p.pa) (p.pa / 512))
      (l2DieOf (p.va / 2 ^ 55 % 4) p.pa) c.part p.pa p.len) := by
  unfold atomicAtHome atHome ownCopiesGone
  dsimp only <;> rfl

theorem wholePiece_leBytes (h : wholePiece p (leBytes 0 p.len)) (n : Nat) : wholePiece p (leBytes n p.len) := by
  obtain ⟨-, hrest⟩ := h
  exact ⟨leBytes_length .., hrest⟩

theorem atomBytes_some {am len n : Nat} {bs : List Byte} (h : atomNew am (8 * len) (leNat bs) y.toNat cmp.toNat = some n) :
    atomBytes bs am len y cmp = some (leBytes n len) := by
  unfold atomBytes
  rw [h]
  rfl

theorem atomBytes_none {am len : Nat} {bs : List Byte} (h : atomNew am (8 * len) (leNat bs) y.toNat cmp.toNat = none) :
    atomBytes bs am len y cmp = none := by
  unfold atomBytes
  rw [h]
  rfl

/-- An atomic at its home, by the sector that is fetched there. -/
theorem homeAtomic_of (hp : wholePiece p (leBytes 0 p.len)) (hne : noneExclusive s) :
    HomeAtomic s c asid p (fun x => atomNew am (8 * p.len) x y.toNat cmp.toNat) (atomicAtHome s c asid p am p.len y cmp) := by
  unfold HomeAtomic
  dsimp only
  intro l hl h64
  rw [atomicAtHome_eq]
  generalize hs0 : l2Single (ownCopiesGone s (l1Core s c.core p.va) asid p) (l2DieOf (p.va / 2 ^ 55 % 4) p.pa) (p.pa / 512) = s0 at hl h64 ⊢
  have hne0 : noneExclusive s0 := by
    rw [← hs0]
    exact noneExclusive_of_cores (l2Single_cores ..) (noneExclusive_ownCopiesGone hne)
  generalize hdie : l2DieOf (p.va / 2 ^ 55 % 4) p.pa = die at hl h64 ⊢
  have hread : l2Read s0 die c.part p.pa p.len = ((l2Fetch s0 die c.part p.pa).1,
      ((l2Fetch s0 die c.part p.pa).2.bytes.drop (p.pa % 64)).take p.len, (l2Fetch s0 die c.part p.pa).2.poisoned) := by
    unfold l2Read
    rw [recallLine_none hne0]
  rw [hread]
  unfold atHome
  dsimp only
  rw [hdie]
  by_cases hbad : (l2Fetch s0 die c.part p.pa).2.poisoned = true
  · rw [if_pos hbad]
    exact ⟨hbad.symm, fun _ => rfl, fun hc => absurd (hbad.symm.trans hc) (by decide)⟩
  · rw [if_neg hbad]
    have hgood := Bool.eq_false_iff.mpr hbad
    generalize hx : ((l2Fetch s0 die c.part p.pa).2.bytes.drop (p.pa % 64)).take p.len = bs
    cases hn : atomNew am (8 * p.len) (leNat bs) y.toNat cmp.toNat with
    | some n =>
      rw [atomBytes_some hn]
      refine ⟨hgood.symm, fun hc => absurd hc hbad, fun _ => ⟨rfl, fun m hm => ?_, fun hc => by cases hc⟩⟩
      cases hm
      have hw := placeWritten_of (S := (l2Fetch s0 die c.part p.pa).1) (compr := p.attr.compr) (wholePiece_leBytes hp n) hne0
        (.inr (by rw [hdie]))
      rw [hdie] at hw
      exact hw
    | none =>
      rw [atomBytes_none hn]
      obtain ⟨hs, l', hl', -, hsec⟩ := l2Touch_found c hl
      exact ⟨hgood.symm, fun hc => absurd hc hbad, fun _ => ⟨rfl, fun m hm => (by cases hm), fun _ => ⟨hs, l', hl', fun k _ => hsec k⟩⟩⟩

/-- An atomic in the L1 that holds its line, from the bytes that it loads there. -/
def inL1 (c : Ctx) (core asid : Nat) (p : Piece) (am : Nat) (y cmp : DWord) (r : State × List Byte × Bool) : State × Nat × Bool :=
  if r.2.2 then (r.1, 0, true)
  else
    let s := match l1Find r.1 core asid (p.va / 512) with
      | some l => l1Put r.1 core { l with excl := true }
      | none => r.1
    match atomBytes r.2.1 am p.len y cmp with
    | some new => (l1Store s c p.va p.pa 0 p.attr new, leNat r.2.1, false)
    | none => (s, leNat r.2.1, false)

theorem atomicInL1_eq (s : State) (c : Ctx) (asid : Nat) (p : Piece) : atomicInL1 s c asid p am p.len y cmp =
    inL1 c (l1Core s c.core p.va) asid p am y cmp
      (l1Load (holdLine (l1Alloc s (l1Core s c.core p.va) asid c.part p.va p.pa p.attr false).1 (l1Core s c.core p.va) asid (p.va / 512))
        c p.va p.pa p.len 0 p.attr 0) := rfl

/-- A line that is marked as held exclusively holds its bytes; a store to it leaves the others. -/
theorem l1Store_exclusive {l : L1Line} (hp : wholePiece p bs) (hl : l1Find s core asid (p.va / 512) = some l)
    (hc : l1Core s c.core p.va = core) (ha : asidOf s c.part c.sec = asid) :
    let s1 := l1Put s core { l with excl := true }
    SameBytes s s1 none (some (core, asid, p.va / 512)) none ∧ l1Find s1 core asid (p.va / 512) = some { l with excl := true } ∧
      LineWritten s (l1Store s1 c p.va p.pa 0 p.attr bs) core asid p bs ∧
      ∀ h grid, (l1Load (l1Store s1 c p.va p.pa 0 p.attr bs) c p.va p.pa p.len h p.attr grid).2 = (bs, false) := by
  intro s1
  obtain ⟨hla, hll⟩ := l1Find_key hl
  have hs : SameBytes s s1 none (some (core, asid, p.va / 512)) none := sameBytes_l1Put_of s core hla hll
  have hf : l1Find s1 core asid (p.va / 512) = some { l with excl := true } := l1Find_l1Put_of s core hla hll
  have hc1 : l1Core s1 c.core p.va = core := hc
  have ha1 : asidOf s1 c.part c.sec = asid := ha
  obtain ⟨hw, hload⟩ := l1Store_written (hint := 0) (by decide) hp hc1 ha1
  have hroom : lineRoom s1 core asid (p.va / 512) = s1 := by
    unfold lineRoom
    rw [hf]
    rfl
  rw [hroom] at hw
  obtain ⟨hsame, l', hl', hb⟩ := hw
  refine ⟨hs, hf, ⟨sameBytes_trans hs hsame, l', hl', fun k hk => ?_⟩, hload⟩
  rw [hb k hk, hf, hl]
  rfl

theorem heldAtomic_of (hp : wholePiece p (leBytes 0 p.len)) (h0 : p.attr.mtype = 0) (ha : asidOf s c.part c.sec = asid) :
    HeldAtomic s c asid p (fun x => atomNew am (8 * p.len) x y.toNat cmp.toNat) (atomicInL1 s c asid p am p.len y cmp) := by
  unfold HeldAtomic
  dsimp only
  rw [atomicInL1_eq]
  generalize hcore : l1Core s c.core p.va = core
  generalize hf : l1Load (holdLine (l1Alloc s core asid c.part p.va p.pa p.attr false).1 core asid (p.va / 512)) c p.va p.pa p.len 0 p.attr 0 = f
  have hkept : kept f.1 = kept s := by
    rw [← hf]
    exact (l1Load_kept ..).trans ((holdLine_kept ..).trans (l1Alloc_kept ..))
  have hdeep : deep f.1 = deep s := by
    rw [← hf]
    exact (l1Load_deep ..).trans ((holdLine_deep ..).trans (l1Alloc_deep ..))
  have hc1 : l1Core f.1 c.core p.va = core := (l1Core_of_kept hkept ..).trans hcore
  have ha1 : asidOf f.1 c.part c.sec = asid := (asidOf_of_deep hdeep ..).trans ha
  unfold inL1
  by_cases hbad : f.2.2 = true
  · rw [if_pos hbad]
    exact ⟨hbad.symm, fun _ => rfl, fun hc => absurd (hbad.symm.trans hc) (by decide)⟩
  · rw [if_neg hbad]
    have hgood := Bool.eq_false_iff.mpr hbad
    cases hn : atomNew am (8 * p.len) (leNat f.2.1) y.toNat cmp.toNat with
    | some n =>
      rw [atomBytes_some hn]
      refine ⟨hgood.symm, fun hc => absurd hc hbad, fun _ => ⟨rfl, fun l hl => ⟨fun m hm => ?_, fun hc => by cases hc⟩⟩⟩
      cases hm
      obtain ⟨-, -, hw, hload⟩ := l1Store_exclusive (wholePiece_leBytes hp n) hl hc1 ha1
      dsimp only
      rw [hl]
      refine ⟨hw, ?_⟩
      unfold loadPiece
      rw [h0]
      exact hload 0 0
    | none =>
      rw [atomBytes_none hn]
      refine ⟨hgood.symm, fun hc => absurd hc hbad, fun _ => ⟨rfl, fun l hl => ⟨fun m hm => (by cases hm), fun _ => ?_⟩⟩⟩
      obtain ⟨hs, hfind, -, -⟩ := l1Store_exclusive hp hl hc1 ha1
      dsimp only
      rw [hl]
      exact ⟨hs, _, hfind, fun _ => rfl⟩

end

end

end Sys2Proof.Machine
end

section
/-! SUPPORT. Stores and atomics that are performed (R264, R266, R268, R262), and what an atomic operation makes of a value
(Table 11.3). -/
namespace Sys2Proof.Machine
open Sys2Proof.Claims

/-! ## Completions -/

section
variable {s s1 : State} {id : Nat} {op : Op} {g : Group} {tid : Nat} (h : Outstanding s id op g tid)
include h

theorem exec_storeCompletion {place : Place} {data : List Byte} {treat : Treat} {hint : Nat} (hk : op.kind = .store place data treat hint) :
    exec (.storeCompletion id) s = .next (performOp s op) := by
  show execStoreCompletion id s = _
  rw [execStoreCompletion, complete_outstanding h (by rw [hk])]

theorem exec_atomicCompletion {place : Place} {am size d : Nat} {y cmp : DWord} {ret : Bool} {treat : Treat}
    (hk : op.kind = .atomic place am size y cmp ret d treat) : exec (.atomicCompletion id) s = .next (performOp s op) := by
  show execAtomicCompletion id s = _
  rw [execAtomicCompletion, complete_outstanding h (by rw [hk])]

/-- A store that leaves the state s1. -/
theorem runs_store {place : Place} {data : List Byte} {treat : Treat} {hint : Nat} (hk : op.kind = .store place data treat hint)
    (hp : performAccess s g op = (s1, .ok [])) {g1 : Group} (hg1 : groupOf s1 op.gk = some g1) (hr : g1.run ≠ .preempted) :
    Runs (.storeCompletion id) s fun s' => Completed s1 s' op (op.gk, tid) fun t => t := by
  have ha : isAccessKind op.kind = true := by rw [hk]; rfl
  exact ⟨_, exec_storeCompletion h hk, performOp_completed h.threads h.group ha hp hg1 hr⟩

/-- An atomic by what its place answers. -/
theorem runs_atomic {place : Place} {am size d x : Nat} {y cmp : DWord} {ret bad : Bool}
    (hk : op.kind = .atomic place am size y cmp ret d .direct) (hp : atomicPlace s (opCtx op g) place am size y cmp = (s1, x, bad))
    (hs : kept s1 = kept s ∨ s1.groups = s.groups) : Runs (.atomicCompletion id) s fun s' => Completed s1 s' op (op.gk, tid)
      (if bad then withDeferred op.cnt (poisonAt (placeVa place))
        else if ret then withRegs d (bytesToWords 2 (leBytes x size)) else fun t => t) := by
  have hg1 : groupOf s1 op.gk = some g := by
    rcases hs with hs | hs
    · exact (groupOf_of_kept hs _).trans h.group
    · unfold groupOf
      rw [hs]
      exact h.group
  have ha : isAccessKind op.kind = true := by rw [hk]; rfl
  have hperf : performAccess s g op =
      (s1, if bad then .error (placeVa place) else .ok (if ret then enumFrom d (bytesToWords 2 (leBytes x size)) else [])) := by
    rw [performAccess, hk]
    dsimp only
    rw [if_neg (by decide), hp]
  refine ⟨_, exec_atomicCompletion h hk, ?_⟩
  cases bad with
  | true => exact performOp_poisoned h.threads h.group ha hperf hg1 h.resident
  | false =>
    have hc := performOp_completed h.threads h.group ha hperf hg1 h.resident
    cases ret with
    | true => exact hc
    | false => exact hc

theorem runs_atomicShared {place : Place} {am size d : Nat} {y cmp : DWord} {ret : Bool}
    (hk : op.kind = .atomic place am size y cmp ret d .shared) :
    Runs (.atomicCompletion id) s fun s' => Completed s s' op (op.gk, tid) fun t => t := by
  have ha : isAccessKind op.kind = true := by rw [hk]; rfl
  have hperf : performAccess s g op = (s, .ok []) := by
    rw [performAccess, hk]
    rfl
  exact ⟨_, exec_atomicCompletion h hk, performOp_completed h.threads h.group ha hperf h.group h.resident⟩

end

/-! ## The place of an atomic (R245, R268) -/

section
variable {s : State} {c : Ctx} {off am size : Nat} {y cmp : DWord}

theorem atomicPlace_scratch_writes {n : Nat} (hn : noSyncWaits s) (hgood : scratchPoisoned s c.core off size = false)
    (hnew : atomNew am (8 * size) (leNat (scratchRead s c.core off size)) y.toNat cmp.toNat = some n) :
    atomicPlace s c (.scratch off) am size y cmp =
      (scratchWrite s c.core off (leBytes n size), leNat (scratchRead s c.core off size), false) := by
  unfold atomicPlace
  dsimp only
  rw [if_neg (by rw [hgood]; exact Bool.false_ne_true), atomBytes_some hnew]
  dsimp only
  rw [scratchStore_noWaits hn]

theorem atomicPlace_scratch_leaves (hgood : scratchPoisoned s c.core off size = false)
    (hnew : atomNew am (8 * size) (leNat (scratchRead s c.core off size)) y.toNat cmp.toNat = none) :
    atomicPlace s c (.scratch off) am size y cmp = (s, leNat (scratchRead s c.core off size), false) := by
  unfold atomicPlace
  dsimp only
  rw [if_neg (by rw [hgood]; exact Bool.false_ne_true), atomBytes_none hnew]

theorem atomicPlace_scratch_poisoned (hbad : scratchPoisoned s c.core off size = true) :
    atomicPlace s c (.scratch off) am size y cmp = (s, 0, true) := by
  unfold atomicPlace
  exact if_pos hbad

theorem atomicPlace_home {asid : Nat} {p : Piece} {more : List Piece}
    (h : ¬ (p.attr.mtype = 0 ∧ (coreOf s (l1Core s c.core p.va)).predict.contains (asid, p.va / 512))) :
    atomicPlace s c (.mem asid (p :: more)) am size y cmp = atomicAtHome s c asid p am size y cmp := by
  unfold atomicPlace
  refine if_neg ?_
  rw [Bool.and_eq_true, decide_eq_true_eq]
  exact h

theorem atomicPlace_held {asid : Nat} {p : Piece} {more : List Piece}
    (h : p.attr.mtype = 0 ∧ (coreOf s (l1Core s c.core p.va)).predict.contains (asid, p.va / 512)) :
    atomicPlace s c (.mem asid (p :: more)) am size y cmp = atomicInL1 s c asid p am size y cmp := by
  unfold atomicPlace
  refine if_pos ?_
  rw [Bool.and_eq_true, decide_eq_true_eq]
  exact h

theorem atomicPlace_mem_kept {asid : Nat} {ps : List Piece} : kept (atomicPlace s c (.mem asid ps) am size y cmp).1 = kept s := by
  cases ps with
  | nil => rfl
  | cons p more =>
    by_cases h : p.attr.mtype = 0 ∧ (coreOf s (l1Core s c.core p.va)).predict.contains (asid, p.va / 512)
    · rw [atomicPlace_held h]
      exact atomicInL1_kept ..
    · rw [atomicPlace_home h]
      exact atomicAtHome_kept ..

end

/-! ## What an atomic operation makes of a value (Table 11.3) -/

theorem toSigned_toNat {w : Nat} (hw : 0 < w) (x : BitVec w) : toSigned w x.toNat = x.toInt := by
  unfold toSigned
  dsimp only
  rw [Nat.mod_eq_of_lt x.isLt, BitVec.toInt_eq_toNat_cond]
  have hp : 2 ^ w = 2 * 2 ^ (w - 1) := by rw [← Nat.pow_succ', Nat.succ_eq_add_one, Nat.sub_add_cancel hw]
  by_cases h : x.toNat ≥ 2 ^ (w - 1)
  · rw [if_pos h, if_neg (by omega)]
  · rw [if_neg h, if_pos (by omega)]

theorem atomNew_results {w : Nat} (hw : 0 < w) : ∀ e ∈ atomicResults w, ∀ (x y : BitVec w) (c : Nat),
    atomNew e.1 w x.toNat y.toNat c = some (e.2 x y).toNat := by
  intro e he x y c
  simp only [atomicResults, List.mem_cons, List.not_mem_nil, or_false] at he
  rcases he with rfl | rfl | rfl | rfl | rfl | rfl | rfl | rfl | rfl
  · exact congrArg some (BitVec.toNat_add x y).symm
  · exact congrArg some (BitVec.toNat_and x y).symm
  · exact congrArg some (BitVec.toNat_or x y).symm
  · exact congrArg some (BitVec.toNat_xor x y).symm
  · show some (if toSigned w x.toNat ≤ toSigned w y.toNat then x.toNat else y.toNat) = _
    rw [toSigned_toNat hw, toSigned_toNat hw, apply_ite BitVec.toNat]
  · show some (if toSigned w x.toNat ≤ toSigned w y.toNat then y.toNat else x.toNat) = _
    rw [toSigned_toNat hw, toSigned_toNat hw, apply_ite BitVec.toNat]
  · show some (min x.toNat y.toNat) = _
    rw [Nat.min_def, apply_ite BitVec.toNat]
  · show some (max x.toNat y.toNat) = _
    rw [Nat.max_def, apply_ite BitVec.toNat]
  · rfl

theorem atomNew_compare {w : Nat} (x y c : BitVec w) : atomNew 9 w x.toNat y.toNat c.toNat = if x = c then some y.toNat else none := by
  show (if x.toNat = c.toNat then some y.toNat else none) = _
  exact if_congr BitVec.toNat_inj rfl rfl

end Sys2Proof.Machine

open Sys2Proof Sys2Proof.Machine Sys2Proof.Claims

/-- Settles O33: a store is performed piece by piece (`piecesStored`), an atomic at its home or in the L1 that holds its line
(`homeAtomic_of`, `heldAtomic_of`), and both complete for their thread. -/
theorem storesAndAtomicsPerform : Obligations.StoresAndAtomicsPerform := by
  refine ⟨fun s id op g tid hint data hm h => ⟨fun off treat hk hn => ?_, fun asid ps hk => ?_, fun asid ps hk => ?_⟩,
    fun s id op g tid am size d y cmp ret hm h => ?_, fun w hw => ?_⟩
  · have hp : performAccess s g op = (scratchWrite s op.core off data, .ok []) := by
      rw [performAccess, hk]
      dsimp only
      rw [scratchStore_noWaits hn]
    obtain ⟨s', hx, hc⟩ := runs_store h hk hp h.group h.resident
    exact ⟨s', hx, _, hc, scratchWritten_of hm ..⟩
  · have hp : performAccess s g op = (s, .ok []) := by
      rw [performAccess, hk]
      rfl
    exact runs_store h hk hp h.group h.resident
  · have hp : performAccess s g op = (storePieces s (opCtx op g) g tid hint ps data, .ok []) := by
      rw [performAccess, hk, h.threads]
      rfl
    refine ⟨fun hps => cachesOnly_of_kept (storePieces_kept hps), fun hps => piecesStored hps, fun hor => ?_⟩
    rcases hor with hps | ⟨g1, hg1, hr⟩
    · exact runs_store h hk hp ((groupOf_of_kept (storePieces_kept hps) _).trans h.group) h.resident
    · exact runs_store h hk hp hg1 hr
  · intro answers new
    refine ⟨fun off hk hn => ?_, fun place hk => runs_atomicShared h hk, fun asid ps hk => ?_⟩
    · intro x
      refine ⟨fun hgood => ?_, fun hbad => ?_⟩
      · cases hnew : new x with
        | some n =>
          obtain ⟨s', hx, hc⟩ := runs_atomic h hk (atomicPlace_scratch_writes hn hgood hnew) (.inr rfl)
          refine ⟨s', hx, _, hc, fun m hm' => ?_, fun hc => by cases hc⟩
          cases hm'
          exact scratchWritten_of hm op.core off (leBytes n size)
        | none =>
          obtain ⟨s', hx, hc⟩ := runs_atomic h hk (atomicPlace_scratch_leaves hgood hnew) (.inr rfl)
          exact ⟨s', hx, s, hc, fun m hm' => (by cases hm'), fun _ => rfl⟩
      · exact runs_atomic h hk (atomicPlace_scratch_poisoned hbad) (.inr rfl)
    · intro r
      have hkept : kept r.1 = kept s := atomicPlace_mem_kept
      refine ⟨cachesOnly_of_kept hkept, fun p more hps hlen hp hasid => ?_, runs_atomic h hk rfl (.inl hkept)⟩
      subst hps hlen
      refine ⟨fun hno hne => ?_, fun hyes => ?_⟩
      · have hr : r = atomicAtHome s (opCtx op g) asid p am p.len y cmp := atomicPlace_home hno
        rw [hr]
        exact homeAtomic_of hp hne
      · have hr : r = atomicInL1 s (opCtx op g) asid p am p.len y cmp := atomicPlace_held hyes
        rw [hr]
        exact heldAtomic_of hp hyes.1 hasid.symm
  · have hpos : 0 < w := by
      rcases List.mem_pair.mp hw with rfl | rfl <;> decide
    exact ⟨atomNew_results hpos, fun x y c => atomNew_compare x y c⟩
end
